-- ==== Sys2Proof/Word.lean ====
section
/-! DEFINITION. The word types of the EPT-100: bytes, the 32-bit and 64-bit words of the control core and of
the blocks, the 128-bit records and the 512-bit descriptors (R44, R132, R379). -/

namespace Sys2Proof

/-- One byte; byte 0 is at the lowest address and multi-byte fields are little-endian (00_scope.md, Numbers and units). -/
abbrev Byte := BitVec 8

/-- A 32-bit word: an FP32 element or an instruction word (R58). -/
abbrev Word32 := BitVec 32

/-- A 64-bit word: a scalar register (R57), a control register or a counter. -/
abbrev Word := BitVec 64

/-- A 128-bit record: a token message (R95), a station event (R66) or a completion-queue entry (R250). -/
abbrev Rec128 := BitVec 128

/-- A 64-byte descriptor: a waybill (R44), a tile header (R132), a consignment descriptor (R379). -/
abbrev Desc := BitVec 512

/-- A scalar register number s0 to s31 (R57). -/
abbrev Reg := BitVec 5

end Sys2Proof
end

