-- ==== Sys2Proof/Config.lean ====
section
/-! DEFINITION. What an implementation fixes and the spec leaves open: free values. None has a body, so nothing
can be proved about a value of it. The first group is applied to a counter that State holds (a fresh value each
time); the second group stands for what outside standards compute (signatures, key derivation) and for the
constants of one module. -/

namespace Sys2Proof

/-- A byte the manual calls undefined (R6, R52, R73, R96, R97, R103, R252, R381), applied to the free-value counter and an address (DESIGN CHOICE, log 7). -/
opaque Config.freeByte : Nat → Nat → Byte

/-- A value of up to 64 bits the manual calls undefined or does not state (R6), applied to the free-value counter (DESIGN CHOICE, log 7). -/
opaque Config.freeWord : Nat → Word

/-- A choice the manual leaves open, applied to the free-value counter (R273: an old or a new translation; R221: the order of fast additions) (DESIGN CHOICE, log 7, DESIGN CHOICE, log 8). -/
opaque Config.freeBool : Nat → Bool

/-- A value that the manual does not state for some operands, as a function of the operands alone: equal operands give equal values, whatever runs
beside (R329, R330). The first number names the case: 1 TBL of a table without segments, 2 an INT32 maximum or minimum of no element, 3 SAMPLE
of a list that orders no pick, 4 a checksum test in the band that the manual does not disclose (DESIGN CHOICE, log 74). -/
opaque Config.unstated : Nat → List Int → Word

/-- The preference of the AOC firmware among the mesh links of which it builds the escape tree, by the holes and down ports of the dies (R349: any spanning
tree; which one is not given) (DESIGN CHOICE, log 12). -/
opaque Config.escapeWeight : List Nat → Nat → Nat

/-- `0x1000.02`: the module identity, unique per module (R488). -/
opaque Config.moduleId : Word

/-- `0x1000.04` to `.07`: serial number, stepping, manufacturing date and management MAC address (R488), by subindex. -/
opaque Config.identity : Nat → List Byte

/-- The ECDSA P-384 verification of R449: signer's public key, signed bytes, signature. The algorithm is an outside standard (PRESUMED, log 141). -/
opaque Config.ecdsaVerify : List Byte → List Byte → List Byte → Bool

/-- The HSS verification of R449 (NIST SP 800-208): signer's public key, signed bytes, signature (PRESUMED, log 141). -/
opaque Config.hssVerify : List Byte → List Byte → List Byte → Bool

/-- An ECDSA P-384 signature by the key derived from the secret (R450), over the bytes. -/
opaque Config.ecdsaSign : List Byte → List Byte → List Byte

/-- An HSS signature by the device HSS key of a seed (R454) with leaf q (R455), over the bytes. -/
opaque Config.hssSign : List Byte → Nat → List Byte → List Byte

/-- SHA-384 (R449, R451, R460) (PRESUMED, log 141). -/
opaque Config.sha384 : List Byte → List Byte

/-- HMAC-SHA-384 of the DICE layering (R454): key, message (PRESUMED, log 141). -/
opaque Config.hmac384 : List Byte → List Byte → List Byte

/-- The unique device secret in SD fuses (R450). -/
opaque Config.uds : List Byte

/-- What an SPDM 1.3 responder of R458 puts into a response's body beyond its code, from what the response reports (a certificate chain, measurements, a
signature) and the request: the message layouts are those of an outside standard (PRESUMED, log 142). -/
opaque Config.spdmBody : Nat → List Byte → List Byte → List Byte

/-- The TBSCertificate for a key under a layer's name, with the layer's measurements (R448, R454): DER is an outside standard (PRESUMED, log 141). -/
opaque Config.certificate : List Byte → List Byte → List Byte

/-- A TBSCertificate with its ECDSA and HSS signatures (R448) (PRESUMED, log 141). -/
opaque Config.sealed : List Byte → List Byte → List Byte → List Byte

/-- The two public keys, ECDSA then HSS, that a certificate certifies (R462: certificates of a peer's chain) (PRESUMED, log 141). -/
opaque Config.certKeys : List Byte → List Byte × List Byte

/-- The lifecycle fuses as a bring-up with this count finds them: who blows them, and when, is not given (R464) (DESIGN CHOICE, log 218). -/
opaque Config.lifecycleFuses : Nat → Nat

/-- The debug nonce of the power-on with this number (R464: 32 bytes, new each power-on). -/
opaque Config.debugNonce : Nat → List Byte

/-- The two public keys, ECDSA then HSS, that a signed object carries for its signer (R450: the manual gives no place for them). -/
opaque Config.signerKeys : List Byte → List Byte × List Byte

/-- The security version, the class and variant test, and the component-digest test of an image's manifest (R457, R465: no layout given) (PRESUMED, log 141). -/
opaque Config.imageVersion : List Byte → Nat

opaque Config.imageFits : Nat → Byte → List Byte → Bool

opaque Config.imageDigests : List Byte → Bool

/-- The two public keys and the role mask (1 operator, 2 security officer, 4 service) that an owner anchor holds (R467: no layout given). -/
opaque Config.anchorKeys : List Byte → List Byte × List Byte

opaque Config.anchorRole : List Byte → Nat

/-- The anchors that an anchor update leaves, from its bytes and the anchors in force, by slot 1 to 4 (R462: no layout given) (PRESUMED, log 141). -/
opaque Config.anchorResult : List Byte → List (Nat × List Byte) → List (Nat × List Byte)

/-- The module identity, nonce and die mask that a debug token binds (R464: no layout given) (PRESUMED, log 141). -/
opaque Config.tokenBinds : List Byte → Word × List Byte × Word

/-- The slot that a revocation names (R466: no layout given) (PRESUMED, log 141). -/
opaque Config.revokedSlot : List Byte → Nat

/-- The images that a module leaves manufacture with, by class, and its signer slots' key digests and role masks (1 firmware,
2 debug, 4 revocation, 8 manufacturing) (PRESUMED, log 143). -/
opaque Config.factoryImage : Nat → List Byte

/-- The keys' digest that a signer slot of a new module holds (R450) (PRESUMED, log 143). -/
opaque Config.factorySigner : Nat → List Byte

/-- The role mask of a signer slot of a new module (R450) (PRESUMED, log 143). -/
opaque Config.factoryRole : Nat → Nat

/-- The device memory found at a CXL port in bytes, and the width and rate its link trained to (R264, R265, R500: found when the
host enumerates the port) (DESIGN CHOICE, log 28). -/
opaque Config.cxlInstalled : Nat → Nat

opaque Config.cxlLink : Nat → Nat

/-- The Ethernet address of a port, six bytes in the order sent (R395 names no source address). -/
opaque Config.portMac : Nat → List Byte

/-- Measurement 1: SHA-384 of the SD ROM (R460). -/
opaque Config.romDigest : List Byte

end Sys2Proof
end

