-- ==== Sys2Proof/Syntax.lean ====
section
/-! DEFINITION. The commands: one constructor of `Instr` for each row of spec/opcode_table.json, with the row's
operands. A cluster is named by its global index (R12), a partition by 0 to 15, a compute die by row × 8 + column,
a hub by 0 to 3 (HN, HE, HS, HW), a link die by 0 to 7 in the order of R13, a station by its code (R45). -/

namespace Sys2Proof

/-- What the landing path of a window knows of a WRITE piece whose `src_fmt` is narrower than its granule: the format of the granule, whether the
object has a header, the piece's place among the pieces of its object and their number, the shape. The manual gives the header no field for it
(DESIGN CHOICE, log 53). -/
structure Narrow where
  fmt : Nat
  hdr : Bool
  k : Nat
  count : Nat
  rows : Nat
  cols : Nat
  /-- a number that the pieces of one object share, and no other object of the channel's that may be under way -/
  obj : Nat := 0
  deriving DecidableEq, Repr

/-- A packet: the header unit of R342 field by field, its payload, and the `pcrc` of its tail unit (R344) (DESIGN CHOICE, log 18). -/
structure Packet where
  ptype : BitVec 5
  cls : BitVec 3
  esc : Bool
  dstEp : BitVec 16
  srcEp : BitVec 16
  dstMod : BitVec 8
  srcMod : BitVec 8
  part : BitVec 4
  lenUnits : BitVec 6
  tag : BitVec 16
  addr : BitVec 48
  window : BitVec 3
  winGen : BitVec 8
  granule : BitVec 10
  gOff : BitVec 5
  last : Bool
  pieces : BitVec 6
  srcFmt : BitVec 4
  seq : BitVec 16
  rsv : BitVec 192
  msg : Rec128
  hops : BitVec 8
  hchk : BitVec 8
  payload : List Byte
  pcrc : Word32
  /-- what travels beside the data: its poisoned 64-bit words (R89) and its unit marks (R235), by offset in the payload; the manual gives
  the header no field for them -/
  bad : List Nat := []
  marks : List (Nat × Nat) := []
  /-- the same for elements of an ADD piece that are mask-off (R39), and for a WRITE piece that its target widens (R246) -/
  off : List Nat := []
  narrow : Option Narrow := none
  /-- the cache policy of the leaf through which a request with a physical address was translated (R262) -/
  hc : Nat := 0
  /-- the physical address into which the receiving link die has translated a request of another module (R365) -/
  phys : Option Nat := none
  deriving DecidableEq, Repr

/-- An MDP unit: the 16-byte header of R469 field by field and its data bytes. `rsv` gathers the reserved bits. -/
structure MdpUnit where
  ver : BitVec 8
  op : BitVec 8
  reqId : BitVec 16
  index : BitVec 16
  sub : BitVec 8
  set : Bool
  final : Bool
  seg : Bool
  rsv : BitVec 13
  offset : BitVec 32
  len : BitVec 16
  result : BitVec 8
  data : List Byte
  deriving DecidableEq, Repr

/-- How an MDP unit arrives (R468): in a datagram of a DTLS session 1 or above, or in a service-bus frame, of which the bus address, L and the
check are given (R473). -/
inductive MdpPath where
  | udp (sess : Nat)
  | bus (addr : Byte) (len : BitVec 16) (crc : Word32)
  deriving DecidableEq, Repr

/-- Why the control core meets an instruction it cannot run (R61). -/
inductive EciCause where
  /-- the instruction word: an unimplemented opcode or a non-zero reserved field (R58, R59) -/
  | word (w : Word32)
  /-- the patch word that follows an ISSUE with this `npatch` (R59) -/
  | patch (npatch : BitVec 3) (w : Word32)
  /-- the fetch at pc fails translation or protection, or meets a marked unit (R61) -/
  | fetch
  deriving DecidableEq, Repr

/-- A queue that software reads or writes through a register (R63, R66). -/
inductive QueueRef where
  /-- a completion queue 0x0C or 0x0D of a cluster (R60) -/
  | completion (c : Nat) (q : Nat)
  /-- the management mailbox, host to AOC -/
  | mailToAoc
  /-- the management mailbox, AOC to host -/
  | mailToHost
  /-- the station event queue of a compute die -/
  | events (die : Nat)
  /-- the MDP receive path -/
  | mdpRx
  deriving DecidableEq, Repr

/-- Who writes a channel's `ch_disable` (R252): the control core by CHCTL, or firmware in control space. -/
inductive ChSource where
  | core (ra : Reg)
  | firmware
  deriving DecidableEq, Repr

/-- A place that forwards packets (R350): the junction of a compute die or a link die. -/
inductive Node where
  | junction (die : Nat)
  | linkDie (l : Nat)
  deriving DecidableEq, Repr

/-- What the fuses and the self-test of one compute die report at fuse scan (R491, R494, R499). -/
structure DieFuses where
  /-- bit k: cluster k is fused off or fails its self-test -/
  bad : BitVec 17
  spareK : BitVec 5
  dieBad : Bool
  deriving DecidableEq, Repr

/-- The fuse-scan report: the variant's letter (0x41, 0x4D, 0x43 or another), each die, each stack's capacity in GiB,
and whether the stored full-test record is valid and young enough (R495). -/
structure FuseReport where
  variant : Byte
  dies : List DieFuses
  stackGiB : List Nat
  recordValid : Bool
  recordDays : Nat
  deriving DecidableEq, Repr

/-- A station: its cluster and its station code (R12, R44). -/
structure StationId where
  cluster : Nat
  code : Nat
  deriving DecidableEq, Repr

/-- A notice that a module of the group has stopped its COMMIT: the partition, and whether a die loss stopped it (R414). -/
structure RerunNote where
  part : Nat
  dieLoss : Bool
  deriving DecidableEq, Repr

/-- A cluster fault: the cluster, and whether its firmware found it in its own state (R75, R410). -/
structure FaultNote where
  cluster : Nat
  firmware : Bool
  deriving DecidableEq, Repr

/-- The commands of the EPT-100, one constructor per row of the opcode table, in the table's order. -/
inductive Instr where
  -- the control core (R57 to R61)
  | add (c : Nat) (rd ra rb : Reg)
  | sub (c : Nat) (rd ra rb : Reg)
  | and (c : Nat) (rd ra rb : Reg)
  | or (c : Nat) (rd ra rb : Reg)
  | xor (c : Nat) (rd ra rb : Reg)
  | shl (c : Nat) (rd ra rb : Reg)
  | shr (c : Nat) (rd ra rb : Reg)
  | sra (c : Nat) (rd ra rb : Reg)
  | mul (c : Nat) (rd ra rb : Reg)
  | minu (c : Nat) (rd ra rb : Reg)
  | maxu (c : Nat) (rd ra rb : Reg)
  | slt (c : Nat) (rd ra rb : Reg)
  | sltu (c : Nat) (rd ra rb : Reg)
  | addi (c : Nat) (rd ra : Reg) (imm : BitVec 14)
  | andi (c : Nat) (rd ra : Reg) (imm : BitVec 14)
  | ori (c : Nat) (rd ra : Reg) (imm : BitVec 14)
  | xori (c : Nat) (rd ra : Reg) (imm : BitVec 14)
  | shli (c : Nat) (rd ra : Reg) (sh : BitVec 6)
  | shri (c : Nat) (rd ra : Reg) (sh : BitVec 6)
  | srai (c : Nat) (rd ra : Reg) (sh : BitVec 6)
  | liw (c : Nat) (rd : Reg) (value : Word)
  | ld (c : Nat) (rd ra : Reg) (imm : BitVec 14)
  | lw (c : Nat) (rd ra : Reg) (imm : BitVec 14)
  | st (c : Nat) (rd ra : Reg) (imm : BitVec 14)
  | sw (c : Nat) (rd ra : Reg) (imm : BitVec 14)
  | beq (c : Nat) (ra rb : Reg) (off : BitVec 14)
  | bne (c : Nat) (ra rb : Reg) (off : BitVec 14)
  | blt (c : Nat) (ra rb : Reg) (off : BitVec 14)
  | bge (c : Nat) (ra rb : Reg) (off : BitVec 14)
  | bltu (c : Nat) (ra rb : Reg) (off : BitVec 14)
  | bgeu (c : Nat) (ra rb : Reg) (off : BitVec 14)
  | jmp (c : Nat) (off : BitVec 24)
  | jr (c : Nat) (ra : Reg)
  | post (c : Nat) (n : BitVec 5)
  | wait (c : Nat) (n : BitVec 5) (ra : Reg)
  | waitRelease (c : Nat) (station : Option Nat) (chan : Nat)
  | waitTimeout (c : Nat) (station : Option Nat) (chan : Nat) (elapsedMs : Nat)
  | rdctr (c : Nat) (rd : Reg) (n : BitVec 5)
  | readq (c : Nat) (rd : Reg) (q : BitVec 5)
  | qstat (c : Nat) (rd : Reg) (q : BitVec 5)
  | qctl (c : Nat) (ra : Reg) (q : BitVec 5)
  | issue (c : Nat) (station : BitVec 5) (ra : Reg) (patches : List (BitVec 3 × Reg))
  | endT (c : Nat)
  | endComplete (c : Nat)
  | windowOpen (c : Nat) (w : BitVec 3) (ra : Reg)
  | windowClose (c : Nat) (w : BitVec 3) (ra : Reg)
  | windowClosed (c : Nat) (w : BitVec 3)
  | release (c : Nat) (w : BitVec 3) (ra : Reg)
  | landcfg (c : Nat) (w : BitVec 3) (ra : Reg)
  | draincfg (c : Nat) (d : BitVec 3) (ra : Reg)
  | sdraincfg (c : Nat) (d : BitVec 2) (ra : Reg)
  | vkerncfg (c : Nat) (d : BitVec 3) (ra : Reg)
  | chctlDisable (c : Nat) (chan : BitVec 4) (src : ChSource)
  | chctlEnable (c : Nat) (chan : BitVec 4) (src : ChSource)
  | carrySet (c : Nat) (ra : Reg)
  | carryClear (c : Nat) (ra : Reg)
  | pbufState (c : Nat) (rd ra rb : Reg)
  | pbufWc (c : Nat) (rd ra rb : Reg)
  | pbufMepoch (c : Nat) (rd ra rb : Reg)
  | pbufTag (c : Nat) (rd ra rb : Reg)
  | illegalInstruction (c : Nat) (cause : EciCause)
  -- waybills, queues and the scratchpad
  | waybillAtHead (c : Nat) (station : Nat) (chan : Nat)
  | waybillStart (c : Nat) (station : Nat) (chan : Nat)
  | waybillComplete (c : Nat) (station : Nat) (chan : Nat)
  | consignmentStop (c : Nat)
  | queueRead (q : QueueRef)
  | queueWrite (q : QueueRef) (v : Rec128)
  | entryArrivalComplete (c : Nat) (q : Nat) (ok : Bool)
  | stationEvent (st : StationId) (ev : Rec128)
  | agePromotion (c : Nat) (requester : Nat) (denied : Nat)
  | coalesceIdleWriteback (c : Nat) (chunk : Nat) (idle : Nat)
  | eccCorrectionWriteback (c : Nat) (word : Nat)
  | scrubPass (c : Nat)
  | tokenReq (p : Packet)
  | tokenGrant (p : Packet)
  | tokenReturn (p : Packet)
  | refused (p : Packet)
  -- the Matrix and Sparse Stations
  | zeroFinal (c : Nat)
  | zeroPartial (c : Nat)
  | loadPartial (c : Nat)
  | loadFinal (c : Nat)
  | matrixPassEnd (c : Nat) (sparse : Bool) (upset : List (Nat × Word32))
  | sparseZeroFinal (c : Nat)
  | sparseZeroPartial (c : Nat)
  | sparseLoadPartial (c : Nat)
  | sparseLoadFinal (c : Nat)
  -- the Vector Station
  | vEnd (c : Nat)
  | vMov (c : Nat)
  | vAdd (c : Nat)
  | vSub (c : Nat)
  | vMul (c : Nat)
  | vFma (c : Nat)
  | vMin (c : Nat)
  | vMax (c : Nat)
  | vAbs (c : Nat)
  | vNeg (c : Nat)
  | vDiv (c : Nat)
  | vRcp (c : Nat)
  | vSqrt (c : Nat)
  | vRsqrt (c : Nat)
  | vExp2 (c : Nat)
  | vLog2 (c : Nat)
  | vTbl (c : Nat)
  | vCmp (c : Nat)
  | vSel (c : Nat)
  | vSwp (c : Nat)
  | vCvt (c : Nat)
  | vRsum (c : Nat)
  | vRmax (c : Nat)
  | vRmin (c : Nat)
  | vCsum (c : Nat)
  | vCmax (c : Nat)
  | lds (c : Nat)
  | ldt (c : Nat)
  | sts (c : Nat)
  | topk (c : Nat)
  | sample (c : Nat)
  | sreset (c : Nat)
  -- the Turntable
  | ttCopy (c : Nat)
  | transpose (c : Nat)
  | transposeIp (c : Nat)
  | permute (c : Nat)
  | expand (c : Nat)
  | encode (c : Nat)
  | ttGather (c : Nat)
  | ttScatter (c : Nat)
  | ttScatterAdd (c : Nat)
  | dropout (c : Nat)
  -- the access engines
  | load (c : Nat) (chan : BitVec 3)
  | gather (c : Nat) (chan : BitVec 3)
  | store (c : Nat) (chan : BitVec 3)
  | scatter (c : Nat) (chan : BitVec 3)
  | scatterAdd (c : Nat) (chan : BitVec 3)
  | staleNotice (c : Nat) (region : Nat)
  | lostWatchNotice (c : Nat) (region : Nat)
  | refetchLimit (c : Nat) (k : Nat)
  | completionRecordPush (c : Nat) (engine : Bool)
  -- packets
  | readReq (p : Packet)
  | readResp (p : Packet)
  | write (p : Packet)
  | wrAck (p : Packet)
  | noticeAck (p : Packet)
  | nak (p : Packet)
  | retry (p : Packet)
  | retryResend (ep : BitVec 16) (tag : BitVec 16)
  | packetForward (n : Node) (p : Packet)
  | redUp (l : Nat) (p : Packet)
  | redDown (l : Nat) (p : Packet)
  | commitPartials (part mod k : Nat) (clip : Bool) (sq nf : Word)
  | rerunNotice (note : RerunNote)
  -- translation
  | pageWalkComplete (c : Nat) (part : Nat) (va : BitVec 48)
  | xrootWrite (part : Nat) (v : Word)
  | xinvAll (part : Nat)
  | xinvPage (part : Nat) (page : BitVec 36)
  | invalidationDone (part : Nat)
  -- the Update Station
  | step (c : Nat)
  | reduce (c : Nat)
  | pendingWriteGate (c : Nat)
  -- consignments and the ledger
  | run (part : Nat) (seq : Nat)
  | copy (part : Nat) (seq : Nat)
  | maskUpdate (part : Nat) (seq : Nat)
  | maskFlip (part : Nat)
  | commit (part : Nat) (seq : Nat)
  | speculativeStart (part : Nat) (seq : Nat)
  | driftSample (c : Nat)
  | phase (part : Nat) (seq : Nat)
  | snapshot (part : Nat) (seq : Nat)
  | fence (part : Nat) (seq : Nat)
  | nop (part : Nat) (seq : Nat)
  | consignmentComplete (part : Nat) (seq : Nat)
  | logRecord (part : Nat)
  | append (part : Nat)
  | pctlEnable (part : Nat) (v : Bool)
  | pctlInit (part : Nat)
  | pctlResume (part : Nat)
  | hostAbort (part : Nat) (a : BitVec 48)
  | pblkWrite (part : Nat) (v : Word)
  | pblkLatch (part : Nat)
  | clogBaseWrite (part : Nat) (v : Word)
  | clogBaseLatch (part : Nat)
  | fmapWrite (part : Nat) (v : Word)
  | fmapLatch (part : Nat)
  | registerWrite (pa : BitVec 48) (v : Word)
  | rack (v : Word)
  -- reliability
  | checkpointFlush (c : Nat)
  | clusterFault (f : FaultNote)
  | handshakeTimeout (c : Nat) (us : Nat)
  | dieLoss (die : Nat) (junctionOk : Bool) (cutOff : List Nat)
  | hubLoss (h : Nat)
  | mirrorRebuilt (part : Nat)
  | stackLoss (m : Nat)
  | cxlPortLoss (x : Nat)
  | portDown (p : Nat)
  | linkDieLoss (l : Nat)
  | hostDieLoss
  | heartbeatTimeout (ms : Nat)
  | sdFault
  | aocMismatch
  | computeReset (die : Nat)
  | fabricReset (die : Nat)
  | junctionEmpty (die : Nat)
  | junctionDrainTimeout (die : Nat)
  -- Serfeing Links
  | sflFlit (p : Nat) (fecOk : Bool) (bytes : List Byte)
  | portRetrain (p : Nat)
  | retrainDone (p : Nat) (ok : Bool)
  | identityFlit (p : Nat) (ident : Word) (peerPort : Nat)
  | laneSignalLoss (p : Nat) (lane : Nat)
  | laneErrorThreshold (p : Nat) (lane : Nat) (rate : Nat)
  | spareLaneTrained (p : Nat)
  -- power, clocks, cooling
  | clusterIdleStop (c : Nat) (us : Nat)
  | clusterWake (c : Nat)
  | pllLockFail (c : Nat)
  | powerCapControl (avgW : Nat)
  | thermalSample (temps : List (Nat × Int))
  | flowLowTimeout
  | powerApplied (mv : Nat)
  | chargeComplete
  | inputLoss
  | inputReturn (mv : Nat)
  | holdupExpiry
  | overvoltage
  | singleFeed (lostB : Bool)
  | lowInput (mv : Nat)
  | pwrWarnAssert
  | partnerSealAck
  | pwrWarnRelease
  | requestS2
  | s2Entry
  | wakeRequest
  | autoWake
  | wakeDone
  | requestS3
  | s3Ok
  | s3GraceExpiry
  | s3Wake
  -- bring-up
  | fuseScanDone (r : FuseReport)
  | hbmStackTested (m : Nat) (ok : Bool)
  | firmwareBroadcast (good : List Nat)
  | clusterDigestTimeout (c : Nat)
  | l1Reached
  | l2Reached
  -- the object dictionary
  | mdpRead (path : MdpPath) (u : MdpUnit)
  | mdpWrite (path : MdpPath) (u : MdpUnit)
  | mdpAbort (path : MdpPath) (u : MdpUnit)
  | mdpNop (path : MdpPath) (u : MdpUnit)
  | claimTimeout (sess : Nat)
  | latchTimeout (sess : Nat)
  | sessionIdleTimeout (sess : Nat)
  -- the peer's chain: the certificates from the one that an anchor signed, and the peer's own, each with its two signatures (R448, R462)
  | dtlsHandshake (anchor : Nat) (cas : List (List Byte × List Byte)) (leaf : List Byte × List Byte)
  | sessionKeyUpdate (sess : Nat)
  | setSwap
  | setCopy
  | setCancel
  | swapPoint
  | swapTimeout (ms : Nat)
  -- security: an SPDM message is the data of an MDP unit of operation 0x08 (R458, R470)
  | getVersion (path : MdpPath) (u : MdpUnit)
  | getCapabilities (path : MdpPath) (u : MdpUnit)
  | negotiateAlgorithms (path : MdpPath) (u : MdpUnit)
  | getDigests (path : MdpPath) (u : MdpUnit)
  | getCertificate (path : MdpPath) (u : MdpUnit)
  | challenge (path : MdpPath) (u : MdpUnit)
  | getMeasurements (path : MdpPath) (u : MdpUnit)
  | keyExchange (path : MdpPath) (u : MdpUnit)
  | finish (path : MdpPath) (u : MdpUnit)
  | heartbeat (path : MdpPath) (u : MdpUnit)
  | keyUpdate (path : MdpPath) (u : MdpUnit)
  | endSession (path : MdpPath) (u : MdpUnit)
  | reportNonceWrite (nonce : List Byte)
  | attestationReportRead (sess : Nat)
  | debugToken (obj : List Byte)
  | anchorUpdate (overBus : Bool) (obj : List Byte)
  | revocation (obj : List Byte)
  | counterAdvance (cls : Nat) (v : Byte)
  | verify (cls : Nat)
  | verifyDone (cls : Nat)
  | activate (cls : Nat)
  | abandon (cls : Nat)
  -- the service plate
  | clearFailureMarks
  | clearFaultCode
  | shortPress
  | drainSettled
  | drainLimit
  | triplePress
  | presenceExpiry
  | forcedStandby
  | latchTouch (conn : Nat)
  | latchRelease (conn : Nat)
  | displayRedraw
  -- rows at the table's end
  | addPiece (p : Packet)
  | geometryAdvanceNotice (part : Nat)
  | dieToDiePortDown (die : Nat) (side : Nat)
  | cxlPortRetrained (x : Nat) (lossReported : Bool)
  | coolantSample (inlet outlet : Int) (flow : Nat)
  | singleFeedEnd
  | connectorDrained (conn : Nat)
  | cblPresNChange (conn : Nat) (seated : Bool)
  | l0Reached
  | sdRestart
  | computeResetEnd (die : Nat)
  | dieReturn (die : Nat)
  deriving DecidableEq, Repr

end Sys2Proof
end

