-- ==== Sys2Proof/Machine/State.lean ====
section
/-! DEFINITION. The state of the EPT-100: plain data, every piece the spec gives the module. A table from numbers
to values is a list with rising keys that lists no default value, so that equal tables are equal data. -/

namespace Sys2Proof.Machine

/-- A table: keys strictly rising, no entry equal to the table's default. -/
abbrev Tab (α : Type) := List (Nat × α)

/-- Bytes by physical address (R256); an unlisted byte reads as zero. -/
abbrev Memory := Tab Byte

/-- Why a step stops (DEDUCED, log 10). -/
inductive Fault where
  /-- An access named a physical address that R256 calls absent, or a place in control space at which the manual
  lays no register. Raised by REGISTER_WRITE, READ_REQ and WRITE. Safe: the manual gives such an access no effect. -/
  | absentAddress (pa : Nat)
  deriving DecidableEq, Repr

/-- Why a command has no meaning. -/
inductive Refusal where
  /-- The command of this mnemonic is not modelled. Raised by an arm of `exec` that has no meaning yet. Safe. -/
  | notModelled (mnemonic : String)
  deriving DecidableEq, Repr

/-- What the module sends out. Newest last (DESIGN CHOICE, log 14). -/
inductive Out where
  /-- a packet on the mesh or a link (R342) -/
  | packet (p : Packet)
  /-- a packet that a junction or link die passes on, and the port it leaves by: of a junction 0 north, 1 east, 2 south, 3 west, 4 its own clusters; of a
  link die the port, 32 and 33 its two ports to the mesh (R10, R348, R363) -/
  | forward (n : Node) (port : Nat) (p : Packet)
  /-- a message-signalled interrupt: host core and interrupt identity (R386) -/
  | msi (hart : Nat) (ident : Nat)
  /-- an MDP response to a DTLS session (R470), and one framed on the service bus (R473) -/
  | mdp (sess : Nat) (u : MdpUnit)
  | bus (bytes : List Byte)
  /-- an SFL flit on a port (R356) -/
  | flit (port : Nat) (bytes : List Byte)
  /-- the identity flit of a port that trains: its number and the module's identity (R359) -/
  | identity (port : Nat) (ident : Word)
  /-- an Ethernet frame on a port, in a priority (R369, R394, R395) -/
  | frame (port : Nat) (prio : Nat) (bytes : List Byte)
  /-- the sealed ledger sent to the partner: the partitions' open entries (R391) -/
  | ledgerSeal
  /-- a reset that the AOC issues over the sideband: die, and true for its fabric domain (R403) -/
  | reset (die : Nat) (fabric : Bool)
  /-- a reset of the functional domain of a hub, link die or host die, by endpoint kind (R338) and number, or with kind 7 of the SD (R403) -/
  | resetPart (kind : Nat) (k : Nat)
  deriving DecidableEq, Repr

/-- A failure report (R74). -/
structure Failure where
  status : Byte
  cluster : Nat
  station : Nat
  wbTag : Nat
  i : Nat
  j : Nat
  deriving DecidableEq, Repr

/-- The sticky bits and the coupling threshold of a queue's status word (R65). -/
structure QStat where
  underrun : Bool := false
  overflow : Bool := false
  tailBad : Bool := false
  cutAt : Byte := 0
  deriving DecidableEq, Repr

/-- The pointers of a queue that crosses clock domains (R67): each side's binary pointer of k + 1 bits, its Gray register, and the two
flip-flops through which the other side samples it. -/
structure Cross where
  wBin : Nat := 0
  rBin : Nat := 0
  wGray : Nat := 0
  rGray : Nat := 0
  /-- the write pointer in the reader's clock, first and second flop -/
  w1 : Nat := 0
  w2 : Nat := 0
  /-- the read pointer in the writer's clock -/
  r1 : Nat := 0
  r2 : Nat := 0
  deriving DecidableEq, Repr

/-- A queue of records that software reads: oldest first, and the last value read (R63); the pointers of one that crosses clock domains (R67). -/
structure RecQ where
  entries : List Rec128 := []
  last : Rec128 := 0
  st : QStat := {}
  cross : Cross := {}
  deriving DecidableEq, Repr

/-- Where a waybill stands: in its siding, checked and held on its counter, ready, executing, or with its last tile written (R43, R46). -/
inductive WbPhase where
  | queued | waiting | ready | running | written
  deriving DecidableEq, Repr

/-- A waybill in a siding (R44, R70) and what its execution has gathered. -/
structure WbEntry where
  wb : Desc
  part : Nat
  seq : Nat
  phase : WbPhase := .queued
  /-- arithmetic flags (R36) -/
  flags : Byte := 0
  /-- index n of the next tile, or the next row of a row operation (R47) -/
  next : Nat := 0
  /-- running CRC-32C register and bytes covered (R251) -/
  crc : Word32 := 0xFFFFFFFF
  bytes : Nat := 0
  /-- tiles with a unit marked (R250) -/
  marked : Nat := 0
  /-- acknowledgements still due (R249) -/
  acks : Nat := 0
  /-- output tiles of it in slots of the accumulator file (R114) -/
  inDrain : Nat := 0
  /-- the gate of R288 has passed -/
  gated : Bool := false
  /-- `free_ptr` read at the start of a REDUCE (R290) -/
  freePtr : Nat := 0
  /-- the accumulator kind of the pass: true when FP32 (R35) -/
  accFp : Bool := true
  /-- physical ranges that it has read as its source, and written (R52) -/
  srcs : List (Nat × Nat) := []
  dsts : List (Nat × Nat) := []
  /-- of a Turntable waybill: what it has read as its source and written, by virtual address, place and bytes (R223) -/
  vsrcs : List (Nat × Nat × Nat) := []
  vdsts : List (Nat × Nat × Nat) := []
  /-- of a waybill of the Matrix or the Sparse Station: what its operands held when it started, by physical range (R128) -/
  held : List (Nat × List Byte) := []
  deriving DecidableEq, Repr

/-- An entry of a tile siding (R63, R64). -/
structure TileEntry where
  bytes : List Byte
  /-- the whole entry has arrived and passed its check -/
  arrived : Bool := true
  /-- until then, the bytes of it that are present (R64) -/
  here : Nat := 0
  /-- 64-bit words of the entry delivered with a poison mark (R89) -/
  poisoned : List Nat := []
  /-- per 64-byte unit: a mark that travels with it (R235), and the units whose refetch is pending (R241) -/
  marks : List (Nat × Nat) := []
  pend : List Nat := []
  /-- names the entry among those of its siding for the watches of its units; 0 when it has none (R239) -/
  ident : Nat := 0
  /-- tile row and column coordinates within the tensor (R30), m and n of a drained tile, and its waybill's tag (R124) -/
  row : Nat := 0
  col : Nat := 0
  tag : Nat := 0
  deriving DecidableEq, Repr

/-- A tile siding with its status bits. -/
structure TileQ where
  entries : List TileEntry := []
  st : QStat := {}
  deriving DecidableEq, Repr

/-- A granted granule that `land_ptr` has not passed (R94, R96, R97). -/
structure Granule where
  idx : Nat
  /-- the writer's endpoint, and its module (0xFF: this one) -/
  writer : BitVec 16
  mod : Byte := 0xFF
  /-- pieces written, and the number of pieces once the last piece has named it -/
  got : Nat := 0
  need : Option Nat := none
  landed : Bool := false
  deriving DecidableEq, Repr

/-- A window register (R93) and the granules in flight, in grant order. -/
structure Win where
  base : Nat := 0
  size : Nat := 0
  enable : Bool := false
  postEn : Bool := false
  postCtr : Nat := 0
  part : Nat := 0
  gen : Nat := 0
  grantPtr : Nat := 0
  landPtr : Nat := 0
  freePtr : Nat := 0
  freeCnt : Nat := 0
  closing : Bool := false
  granules : List Granule := []
  deriving DecidableEq, Repr

/-- A queued TOKEN_REQ, or what remains of it (R94). -/
structure TokenReq where
  window : Nat
  requester : BitVec 16
  count : Nat
  tag : BitVec 16
  mod : Byte := 0xFF
  deriving DecidableEq, Repr

/-- Granules granted to this cluster as a writer and not yet written (R94). A `target` is a cluster's index; one of another module m is
its index plus 65 536 × (m + 1). -/
structure HeldToken where
  chan : Nat
  target : Nat
  window : Nat
  gen : Nat
  first : Nat
  count : Nat
  deriving DecidableEq, Repr

/-- A token request of this cluster as a writer that waits for its grant (R94, R238). -/
structure TokenWait where
  tag : BitVec 16
  /-- channel 0 to 15 -/
  chan : Nat
  target : Nat
  window : Nat
  count : Nat
  deriving DecidableEq, Repr

/-- A watch-table entry (R239) (DEDUCED, log 91). -/
structure Watch where
  region : Nat
  src : Nat
  /-- destination: first physical address and bytes; with `slot`, first byte within the entry of the Turntable's input siding that it names -/
  dst : Nat
  len : Nat
  slot : Option Nat := none
  chan : Nat
  lat : Bool
  policy : Nat
  part : Nat
  va : Nat
  /-- bytes of the request -/
  n : Nat := 0
  hc : Nat := 0
  refetches : Nat := 0
  /-- a refetch is under way, with its tag, or waits for a tag (R228), and a notice has come since it was issued (R243) -/
  pending : Bool := false
  queued : Bool := false
  tag : BitVec 16 := 0
  noticed : Bool := false
  /-- units whose data another watched read has replaced since (R242) -/
  past : List Nat := []
  /-- the waybill and tile that a widened read belongs to (of a GATHER, the address of the table row), and where the destination begins in the
  widened object (R233) -/
  redo : Option (Desc × Nat × Nat) := none
  deriving DecidableEq, Repr

/-- A channel register (R253). -/
structure Chan where
  disable : Bool := false
  busy : Bool := false
  lat : Bool := false
  prio : Nat := 0
  lastStatus : Byte := 0
  lastTag : Nat := 0
  lastCrc : Word32 := 0
  bytes : Nat := 0
  deriving DecidableEq, Repr

/-- A coalescing-buffer entry: chunk number within the scratchpad, 32 bytes, byte mask (R85), and the station codes, 0xF the control core,
whose writes it holds (R87). -/
structure Coal where
  chunk : Nat
  data : List Byte
  mask : BitVec 32
  owners : List Nat := []
  deriving DecidableEq, Repr

/-- A cached translation (R270): partition, first virtual address, size, the leaf entry, the XROOT under which the walk ran (R271), and the requester
that missed. -/
structure Tlb where
  part : Nat
  va : Nat
  size : Nat
  pte : Word
  root : Word := 0
  req : Nat := 0xF
  deriving DecidableEq, Repr

/-- A completion record held because its queue was full (R250). -/
structure HeldRec where
  engine : Bool
  record : Rec128
  deriving DecidableEq, Repr

/-- The control core (R57): pc, scalar registers, and the counter and value it stalls on; the lines of its instruction buffer, by virtual
address / 64, with their bytes and poisoned words, newest last (R62). -/
structure Core where
  pc : Word := 0
  regs : Tab Word := []
  stall : Option (Nat × Nat) := none
  buf : List (Nat × List Byte × List Nat) := []
  deriving DecidableEq, Repr

/-- The consignment a cluster runs, with what was latched at its start (R57, R271, R301). -/
structure Run where
  part : Nat
  seq : Nat
  spec : Bool := false
  clip : Bool := false
  commit : Bool := false
  /-- the control core has executed END -/
  ended : Bool := false
  /-- the consignment has failed and stops on this cluster (R72) -/
  stopped : Bool := false
  xroot : Word := 0
  xkeys : Word := 0
  srKey : Word := 0
  /-- squared norm and non-finite count of R291 -/
  sq : Word := 0
  nf : Nat := 0
  /-- tiles stepped, in order: record address, shard, tile (R304) -/
  stepped : List (Nat × Nat × Nat) := []
  /-- destination ranges whose write a waybill of the consignment has begun on this cluster (R73) -/
  begun : List (Nat × Nat) := []
  deriving DecidableEq, Repr

/-- What a checksum cell or the drain sums up (R125, R126): num × 2^exp, exact; not `ok` when a term was not finite. -/
structure ChkSum where
  ok : Bool := true
  num : Int := 0
  exp : Int := 0
  deriving DecidableEq, Repr

/-- A claimed slot of the accumulator file of the Matrix or the Sparse Station, its sums complete: an output tile in the drain, awaiting its
verdict (R112 to R114, R126, R153). -/
structure DrainTile where
  /-- the consignment and tag of its waybill, and the output tile (m, n) of it (R113) -/
  seq : Nat
  wbTag : Nat
  m : Nat
  n : Nat
  /-- bytes of the slot (R112) -/
  room : Nat
  /-- kind of accumulator: 0 FP32, 1 BF16, 2 INT32 (R35, R122) -/
  kind : Nat
  /-- accumulators, each with the flags that it has raised -/
  acc : List (Nat × Byte)
  /-- the per-tile scales of A and of B or W (R121) -/
  ta : Word32 := 0x3F800000
  tb : Word32 := 0x3F800000
  /-- checksum column and row: chk and mag of every row, and of every column, for the Sparse Station of every column and m-group (R125, R153) -/
  rowChk : List (ChkSum × ChkSum) := []
  colChk : List (ChkSum × ChkSum) := []
  /-- additions that each accumulator made in the pass: g of R126 -/
  adds : Nat := 0
  /-- where it writes its partial sums: physical ranges (R111) -/
  psum : List (Nat × Nat) := []
  /-- flags of its drain, held until the entry's check has passed (R127) -/
  flags : Byte := 0
  /-- its verdict has failed once and its pass has been computed again (R127) -/
  again : Bool := false
  /-- what it drains to is undefined: an operand was changed under its waybill, or it was preloaded with partial sums of another kind (R35, R128) -/
  undef : Bool := false
  /-- its coupled entry is in the drain siding already, with the verdict that its check comes to (R64, R127) -/
  entered : Option Bool := none
  deriving DecidableEq, Repr

/-- Sampler state of one row: candidates of value and column index, best first (R198). -/
structure Cand where
  value : Word32
  col : Word32
  deriving DecidableEq, Repr

/-- The Vector Station's cursor in a kernel invocation (R187, R191). -/
structure VCur where
  active : Bool := false
  pc : Nat := 0
  tile : Nat := 0
  strip : Nat := 0
  /-- output tile under construction, for the output siding -/
  outBytes : List Byte := []
  /-- arithmetic flags held back until the tile ends (R197) -/
  flags : Byte := 0
  /-- of a waybill exactly in place: what it has stored of the tile, by place, with the cache policy (R52) -/
  later : List (Nat × List Byte × Nat) := []
  deriving DecidableEq, Repr

/-- The Vector Station's registers (R182 to R184, R198): t0 to t31 of 1024 words, an unlisted one all zeros; predicates p1 to p3, the bit of
row r and column c at r × 512 + c; candidate lists by tile row. -/
structure VRegs where
  t : Tab (List Word32) := []
  p : Tab (BitVec 16384) := []
  cand : Tab (List Cand) := []
  deriving DecidableEq, Repr

/-- Vector Station state. `saved` is what a failed coupled entry restores (R64). -/
structure Vec where
  regs : VRegs := {}
  cur : VCur := {}
  saved : Option (VRegs × VCur) := none
  deriving DecidableEq, Repr

/-- What a cluster is in the floor plan (R11, R494). -/
inductive CStat where
  | active | spare | fusedOff | failed
  deriving DecidableEq, Repr

/-- A read of another module's memory that an access engine has issued (R228, R278): tag, channel 0 to 15, tile, offset and bytes; the
data once it has arrived (DEDUCED, log 65). -/
structure PendRead where
  tag : BitVec 16
  chan : Nat
  tile : Nat
  off : Nat
  n : Nat
  data : Option (List Byte) := none
  bad : List Nat := []
  marks : List (Nat × Nat) := []
  /-- the fault status that came back instead (R365) -/
  fault : Byte := 0
  deriving DecidableEq, Repr

/-- A 64-byte unit of the Turntable's staging buffer (R222): its virtual address, bytes, poisoned words and mark (DEDUCED, log 82). -/
structure StageUnit where
  va : Nat
  bytes : List Byte
  bad : List Nat
  marks : List (Nat × Nat)
  /-- it was STALE with a refetch pending (R241) -/
  pend : Bool := false
  deriving DecidableEq, Repr

/-- The stations' descriptor slots and queues of a cluster. -/
structure Stations where
  /-- waybill sidings by station code, oldest first -/
  sidings : Tab (List WbEntry) := []
  /-- status bits of the waybill sidings by station code -/
  sidSt : Tab QStat := []
  /-- tile sidings 0x08 to 0x0B by queue number (R60) -/
  tileQs : Tab TileQ := []
  /-- completion queues 0x0C and 0x0D -/
  cq : Tab RecQ := []
  heldRecs : List HeldRec := []
  chans : Tab Chan := []
  /-- drain blocks, sparse drain blocks and kernel blocks as loaded, by slot (R118, R157, R185) -/
  drainSlots : Tab (List Byte) := []
  sdrainSlots : Tab (List Byte) := []
  kernSlots : Tab (List Byte) := []
  /-- slots of the Matrix Station's and of the Sparse Station's accumulator file in the drain, oldest first (R114, R126) -/
  drain : List DrainTile := []
  sdrain : List DrainTile := []
  vec : Vec := {}
  /-- landing descriptors by window (R246) -/
  land : Tab Word := []
  /-- ADD pieces held for their turn: sender, sequence number, packet (R248) -/
  addHeld : List Packet := []
  /-- next ADD sequence number by sender endpoint and channel tag (R248) -/
  addNext : Tab Nat := []
  /-- WRITE pieces of a narrower format whose object is still arriving (R246) -/
  landHeld : List Packet := []
  /-- reads of other modules' memory under way -/
  pend : List PendRead := []
  /-- next ADD sequence number by channel and target (R248) -/
  addSeq : Tab Nat := []
  /-- the Turntable's staging buffer (R222) -/
  stage : List StageUnit := []
  deriving DecidableEq, Repr

/-- A drift sample due (R304): partition, record address, shard, tile. -/
structure Drift where
  part : Nat
  va : Nat
  shard : Nat
  tile : Nat
  deriving DecidableEq, Repr

/-- A cluster (R11 and the station chapters) (DESIGN CHOICE, log 1, DEDUCED, log 9) (DEDUCED, log 191). -/
structure Cluster where
  stat : CStat := .fusedOff
  /-- the role its index holds (R12, R498), and of a failed cluster the spare that took it -/
  role : Option Nat := none
  repl : Option Nat := none
  core : Core := {}
  run : Option Run := none
  /-- dependency counters dc0 to dc31 (R53) -/
  dc : Tab Nat := []
  st : Stations := {}
  wins : Tab Win := []
  tokQ : List TokenReq := []
  /-- token messages that the mesh holds back while the queue is full (R94) -/
  tokMesh : List Packet := []
  /-- packets of the Dispatch Station that wait for a tag (R70) -/
  sendQ : List Packet := []
  tokWait : List TokenWait := []
  held : List HeldToken := []
  nextTag : BitVec 16 := 0
  coal : List Coal := []
  watches : List Watch := []
  tlb : List Tlb := []
  /-- scratchpad row bits `wr` and `fl` (R406), carried maps by partition (R405) -/
  wr : BitVec 4096 := 0
  fl : BitVec 4096 := 0
  carried : Tab (BitVec 4096) := []
  /-- tiles written since the last background flush (R406) -/
  sinceFlush : Nat := 0
  /-- requesters promoted by the age limit (R83) -/
  promoted : List Nat := []
  /-- partial sums that its stations have written: place, kind of accumulator, bytes (R35) -/
  sums : List (Nat × Nat × List Byte) := []
  /-- rows with a poisoned word that the access which failed last has read (R412) -/
  hitRows : List Nat := []
  /-- the clock runs (R432, R433) -/
  pll : Bool := true
  /-- rows with an uncorrectable word since bring-up (R409) -/
  badRows : List Nat := []
  /-- consecutive mismatching drift samples (R409) and the samples still due, of one partition at most one (R304) -/
  drifts : Nat := 0
  driftDue : List Drift := []
  /-- between isolation and the stop of its partitions (R404) -/
  isolated : Bool := false
  /-- firmware digest reported (R497) -/
  fwOk : Bool := false
  deriving DecidableEq, Repr

/-- A ledger entry's state (R384). -/
inductive EntSt where
  | accepted | running | held | finished
  deriving DecidableEq, Repr

/-- A pair that a MASK_UPDATE flips: record address, header word offset writes (R175). -/
structure Flip where
  pa : Nat
  bytes : List Byte
  hc : Nat := 0
  deriving DecidableEq, Repr

/-- An open ledger entry: descriptor, state, and what its completion record will carry (R384, R385). -/
structure Entry where
  seq : Nat
  desc : Desc
  st : EntSt := .accepted
  /-- the geometry generation latched at its last start, once it has started (R332) -/
  geo : Nat := 0
  latched : Bool := false
  spec : Bool := false
  /-- what the work of a speculative run has counted so far: index, subindex, amount (R302) -/
  spent : List (Nat × Nat × Nat) := []
  /-- clusters it uses, those on which it has completed, and its directory: cluster and timetable of those it has still to start on -/
  clusters : List Nat := []
  ended : List Nat := []
  todo : List (Nat × Nat) := []
  dir : List (Nat × Nat) := []
  fails : List Failure := []
  /-- destination ranges whose write a waybill had begun on clusters that have ended (R73) -/
  begun : List (Nat × Nat) := []
  flags : Byte := 0
  info : BitVec 4 := 0
  res0 : Word := 0
  res1 : Word := 0
  /-- the status of the stored record (R77) -/
  status : Byte := 0
  /-- committed epochs of partitions 0 to 15 latched at the start, its own view in its place (R287) -/
  views : List Nat := []
  abort : Bool := false
  /-- writes made at the flip of a MASK_UPDATE (R175), its counts of elements pruned, regrown and short units, and its new `coord_below` -/
  flips : List Flip := []
  counts : Nat × Nat × Nat := (0, 0, 0)
  below : List (Nat × Nat) := []
  /-- the physical ranges of the alternate buffers that it has written (R175) -/
  alt : List (Nat × Nat) := []
  /-- stopped by a fault, to be run again after the acknowledgement (R410) -/
  rerun : Bool := false
  /-- a COMMIT that a die loss stopped: it waits for the host's abort (R414) -/
  frozen : Bool := false
  /-- clusters on which two checksum verdicts have failed on one tile of it: they are faulty once it has completed (R127, R409) -/
  twice : List Nat := []
  /-- the work of a type without a timetable is done, or the flip of a MASK_UPDATE is made (R175, R381, R389, R393, R395) -/
  done : Bool := false
  deriving DecidableEq, Repr

/-- The commit state machine (R298). -/
inductive CommitSt where
  | updating | gating | clipping | committed | aborted | failed
  deriving DecidableEq, Repr

/-- A COMMIT in progress (R298, R299). -/
structure Commit where
  seq : Nat
  st : CommitSt := .updating
  p : Nat
  clipped : Bool := false
  clipNorm : Word32 := 0
  /-- clip factor c of R299, F32 -/
  cf : Word32 := 0x3F800000
  /-- the commit block and its record list as read at the start (R292) -/
  blk : Desc := 0
  recs : List Nat := []
  /-- the step count in force: S, or `step` under `step_load` (R292, R293) -/
  s : Nat := 0
  /-- END values by the cluster's place in the tree at its END: squared norm and count (R291, R414); tiles stepped by cluster (R304) -/
  cvals : Tab (Word × Nat) := []
  stepped : Tab (List (Nat × Nat × Nat)) := []
  /-- G² and NF once the group's values are in; G rounded to F32 (R291, R299) -/
  g : Word := 0
  nf : Nat := 0
  gRes : Word32 := 0
  /-- retained reduction-buffer ranges: cluster, first row, rows (R289) -/
  retained : List (Nat × Nat × Nat) := []
  /-- pairing number of R313 -/
  pairing : Nat := 0
  deriving DecidableEq, Repr

/-- Values of another module's COMMIT (R291, R300, R313): pairing number, whether of the clipping pass, module, squared norm, count. -/
structure PeerVal where
  k : Nat
  clip : Bool
  mod : Nat
  sq : Word
  nf : Word
  deriving DecidableEq, Repr

/-- A partition block in force (R375). -/
structure Block where
  clusters : List Nat
  group : Option Nat
  stations : BitVec 7
  deriving DecidableEq, Repr

/-- A fabric-map entry (R363). -/
structure FEntry where
  modId : Word
  ports : BitVec 32
  cgroup : Nat
  rgroup : Nat
  rparent : Nat
  rorder : Nat
  deriving DecidableEq, Repr

/-- A latched fabric map (R361, R362). -/
structure FMap where
  self : Nat
  entries : List FEntry
  deriving DecidableEq, Repr

/-- The host's ledger registers of a partition (R374). -/
structure LedgerRegs where
  slot : Desc := 0
  enable : Bool := false
  halted : Bool := false
  holds : Bool := false
  abortSeq : Nat := 0
  append : Word := 0
  pblk : Word := 0
  pblkHeld : Option Word := none
  clogBase : Word := 0
  clogHeld : Option Word := none
  head : Nat := 0
  tail : Nat := 0
  irq : Word := 0
  lastSeq : Nat := 0
  lastTag : Nat := 0
  deriving DecidableEq, Repr

/-- The translation and fabric registers of a partition (R271, R361, R408). -/
structure XRegs where
  xroot : Word := 0
  xkeys : Word := 3
  done : Bool := true
  /-- the write in progress, and the one held while `done` is 0 (R273) -/
  inv : Option Word := none
  held : Option Word := none
  fmap : Word := 0
  fmapHeld : Option Word := none
  rlist : Word := 0
  deriving DecidableEq, Repr

/-- A partition (DESIGN CHOICE, log 187). -/
structure Part where
  regs : LedgerRegs := {}
  x : XRegs := {}
  blk : Option Block := none
  fm : Option FMap := none
  nextSeq : Nat := 1
  /-- watermark W (R384) -/
  w : Nat := 0
  entries : List Entry := []
  /-- committed epoch and step count (R293, R298) -/
  e : Nat := 0
  s : Nat := 0
  commit : Option Commit := none
  /-- COMMITs counted since the map was latched (R313, R361) -/
  pairings : Nat := 0
  /-- geometry generation (R331, R332) -/
  geo : Nat := 0
  /-- the generation latched by the completion written last -/
  lastGeo : Nat := 0
  /-- values of the group's other modules (R291) -/
  peers : List PeerVal := []
  /-- `coord_below` of the last MASK_UPDATE, by record address (R297) -/
  coordBelow : Tab Nat := []
  /-- the Philox key that a record's buffer was last derived with, by 2 × record address, plus 1 for buffer B (R297, R408) -/
  keys : Tab (Option Word) := []
  /-- the highest number that has completed with an error, and the number of the last FENCE that is over (R389) -/
  fenceErr : Nat := 0
  fenceAt : Nat := 0
  /-- the hubs that hold the two mirrors once they have moved from those that R378 gives; rebuilding (R378, R415) -/
  moved : Option (Nat × Nat) := none
  rebuilding : Bool := false
  /-- recovery records that stop it (R410) -/
  stops : List Nat := []
  /-- event 0x09 has been raised for the full log (R392) -/
  fullTold : Bool := false
  /-- a cluster has belonged to it since power-on, so its idle counts run (R326, R327) -/
  counted : Bool := false
  deriving DecidableEq, Repr

/-- A conflict-filter entry (R240). -/
structure FiltEnt where
  region : Nat
  clusters : List Nat
  many : Bool := false
  deriving DecidableEq, Repr

/-- A write whose acknowledgement waits for notices (R240): writer and clusters still to acknowledge. -/
structure PendAck where
  region : Nat
  dst : BitVec 16
  dstMod : Byte
  tag : BitVec 16
  waiting : List Nat
  part : Nat := 0
  /-- the station code of the writer, 0xF a control core; a Dispatch Station and what comes from outside are answered by a packet -/
  who : Nat := 1
  deriving DecidableEq, Repr

/-- A cached line (R262): line number, dirty bit, whether it comes from the CXL window. -/
structure Line where
  line : Nat
  dirty : Bool
  cxl : Bool
  deriving DecidableEq, Repr

/-- A hub (R9, R261, R415) (DEDUCED, log 146). -/
structure Hub where
  lost : Bool := false
  /-- lines by set, least recently used first -/
  sets : Tab (List Line) := []
  filter : List FiltEnt := []
  acks : List PendAck := []
  deriving DecidableEq, Repr

/-- A reduction-store entry of a link die (R366): collective, block, values by source (0 own, k + 1 the child of order k). -/
structure RedEnt where
  coll : Nat
  block : Nat
  vals : List (Nat × List Word32)
  deriving DecidableEq, Repr

/-- A packet in a junction's buffer (R347): the side it came in by (4: from the die itself or from outside the mesh), its virtual channel
(2 × class, plus 1 for an escape channel), the die at which it entered the mesh. -/
structure Buffered where
  side : Nat
  vc : Nat
  entered : Nat
  p : Packet
  deriving DecidableEq, Repr

/-- A link die. -/
structure LinkDie where
  lost : Bool := false
  service : Word := 0
  red : List RedEnt := []
  /-- packets that wait for a credit or a port, or for room in the reduction store (R358, R368) -/
  waiting : List Packet := []
  /-- packets that have come out of the mesh, by which of its two ports, and the units that it has sent into the mesh by port and channel (R347) -/
  bufs : List Buffered := []
  sent : Tab Nat := []
  deriving DecidableEq, Repr

/-- What a link port is doing (R357, R359, R360). -/
inductive PortSt where
  | up | retrain | heldDown | down | fused
  deriving DecidableEq, Repr

/-- A link port: lanes, width, receive and replay state (R13, R356, R357, R360) (DESIGN CHOICE, log 1). -/
structure Port where
  st : PortSt := .down
  /-- lane map: the lane in each of the eight places -/
  lanes : List Nat := []
  x4 : Bool := false
  /-- lane being replaced and the spare chosen -/
  sparing : Option (Nat × Nat) := none
  mode : Nat := 0
  peer : Option Word := none
  /-- next sequence expected, last acknowledged by the peer, next to send -/
  rxSeq : Nat := 0
  ackSeq : Nat := 0
  txSeq : Nat := 0
  replay : List (Nat × List Byte) := []
  replays : Nat := 0
  naking : Bool := false
  /-- bytes of the unit stream received so far and not yet a whole packet -/
  rx : List Byte := []
  /-- bytes of the unit stream to send that do not fill a flit yet, and the place of the first of them within its unit (R356) -/
  tx : List Byte := []
  txOff : Nat := 0
  /-- units sent by class that the other side has not returned as credits (R358) -/
  used : Tab Nat := []
  /-- packets in its receive buffer that have not gone on, and units that have, by class, still to be returned as credits (R358) -/
  held : List Packet := []
  owed : Tab Nat := []
  /-- it went down by a fault, not after a drain (R518) -/
  fault : Bool := false
  deriving DecidableEq, Repr

/-- A compute die and its junction (DESIGN CHOICE, log 157). -/
structure Die where
  /-- the fuse scan has reported it -/
  scanned : Bool := false
  /-- fused off, failed, or hole (R351) -/
  fused : Bool := false
  reserve : Bool := false
  failed : Bool := false
  hole : Bool := false
  /-- the spare's position (R11); 16 until the fuse scan reports it (DESIGN CHOICE, log 157) -/
  spareK : Nat := 16
  spareUsed : Bool := false
  /-- position in the die tree (R498) -/
  treePos : Option Nat := none
  service : Word := 0
  /-- compute-domain reset in progress (R353); fabric reset requested and draining (R352) -/
  resetting : Bool := false
  draining : Bool := false
  portsDown : List Nat := []
  /-- the junction's buffers, in order of arrival, and by outgoing side × 16 + virtual channel the units sent against credits not yet
  returned (R347) -/
  bufs : List Buffered := []
  sent : Tab Nat := []
  /-- station event queue; holding registers, by cluster × 16 + station; the event that a stalled station still holds (R66, R69) -/
  events : RecQ := {}
  holding : List (Nat × Rec128) := []
  stalled : List (Nat × Rec128) := []
  /-- power and thermal throttle levels (R434) -/
  powerThrottle : Nat := 0
  thermalThrottle : Nat := 0
  debugOpen : Bool := false
  deriving DecidableEq, Repr

/-- A packet kept for its acknowledgement (R344), and the times it was sent again. -/
structure Kept where
  p : Packet
  resends : Nat := 0
  /-- answered RETRY and waiting its interval (R354) -/
  retrying : Bool := false
  deriving DecidableEq, Repr

/-- A recovery record (R411). -/
structure RecRec where
  kind : Nat
  failed : Nat
  repl : Option Nat
  parts : List Nat
  no : Nat
  deriving DecidableEq, Repr

/-- The recovery block (R411). -/
structure Recovery where
  recs : List RecRec := []
  next : Nat := 0
  irq : Word := 0
  deriving DecidableEq, Repr

/-- The module event log's registers (R392). -/
structure EvtLog where
  base : Word := 0
  head : Nat := 0
  tail : Nat := 0
  irq : Word := 0
  deriving DecidableEq, Repr

/-- The memory part of the floor plan (R256 to R260, R399): rows from physical address 0 with their size and one stack
for each hub, and the areas of region D (DESIGN CHOICE, log 26). -/
structure Plan where
  /-- variant letter of `0x1000` (R500) -/
  variant : Byte := 0x41
  rows : List (Nat × List Nat) := []
  /-- tested capacity of each stack in bytes, and stacks lost since bring-up -/
  stackCap : Tab Nat := []
  lostStacks : List Nat := []
  /-- installed capacity of the CXL ports in bytes, and ports that are down -/
  cxlCap : Tab Nat := []
  cxlDown : List Nat := []
  /-- start of the carve-out, and base and bytes of the areas of D: parity, checkpoint, ledger mirrors, partner -/
  carve : Nat := 0
  dAreas : List (Nat × Nat) := []
  /-- protected ranges in force (R399): base and bytes -/
  ranges : List (Nat × Nat) := []
  /-- rows of HBM reachable so far (R494) -/
  rowsOk : Nat := 0
  deriving DecidableEq, Repr

/-- The power state of the module (R437, R438). `s5` is the module without 56 V. -/
inductive PState where
  | s0 | s1 | s2 | s3 | enterS2 | wake | enterS3 | s5
  deriving DecidableEq, Repr

/-- Input, power state, telemetry and cooling (R427 to R447). Temperatures are in kelvins above 0 °C times 1000, flow in
mL/min, voltages in mV (DESIGN CHOICE, log 1) (DESIGN CHOICE, log 5, DESIGN CHOICE, log 197). -/
structure Power where
  st : PState := .s5
  /-- the request that waits, as PSTATE `req` codes it: for L2, or for the end of ENTER_S2 or WAKE (R438, R504) -/
  req : Nat := 0
  /-- the request made last, which `0x4001.01` shows (R439, R447) (DESIGN CHOICE, log 197) -/
  asked : Nat := 0
  autoWake : Bool := true
  s3Pend : Bool := false
  mv : Nat := 0
  /-- the input current as last sampled, an F32 (R443) -/
  amps : Word := 0
  avgW : Nat := 0
  charged : Bool := false
  holdup : Bool := false
  low : Bool := false
  swOpen : Bool := false
  connA : Bool := false
  connB : Bool := false
  single : Bool := false
  warn : Bool := false
  inlet : Int := 0
  outlet : Int := 0
  flow : Nat := 0
  /-- temperature by die code of R476; stacks by 100 + stack -/
  temps : Tab Int := []
  tripped : Bool := false
  /-- a die at its trip temperature, as last sampled -/
  tripCause : Nat := 0
  /-- stacks under double refresh, and with halved bandwidth (R445); host dies forced to 1.6 GHz -/
  dblRefresh : List Nat := []
  halfBw : List Nat := []
  hostSlow : List Nat := []
  deriving DecidableEq, Repr

/-- How far bring-up has come (R491): off, charging, the boot chain up to B3, L0 held before the fuse scan, fuse scan
done, firmware broadcast, L1, L2. -/
inductive Boot where
  | off | charged | l0 | scanned | fw | l1 | l2
  deriving DecidableEq, Repr

/-- Bring-up state (R491 to R505) (DESIGN CHOICE, log 1) (DEDUCED, log 223). -/
structure Bring where
  stage : Boot := .off
  /-- fused variant and stacks as reported at fuse scan -/
  report : Option FuseReport := none
  abbreviated : Bool := false
  memFault : Bool := false
  /-- the full-test record: GiB of each stack as the last full test without fault found it; empty: none (R494, R495) -/
  record : List Nat := []
  /-- marks kept across bring-ups (R499): clusters, dies, stacks -/
  badClusters : List Nat := []
  badDies : List Nat := []
  badStacks : List Nat := []
  stop : Nat := 0
  hostReady : Bool := false
  cxlDone : Bool := false
  /-- stacks tested in this bring-up; carve-out and D tested; parity of every range present -/
  tested : List Nat := []
  topFirst : Bool := false
  parityReady : Bool := false
  /-- writes of 1 to PCTL `enable` held until L1 (R504) -/
  heldEnables : List Nat := []
  /-- ledger waiting at the partner to be restored (R391): partition, next sequence number, W, open entries -/
  atPartner : List (Nat × Nat × Nat × List Entry) := []
  sealed : Bool := false
  /-- the seal has been acknowledged by the partner -/
  sealAck : Bool := false
  /-- completion records held by the seal need no list: they stay FINISHED (R391) -/
  hostPrimary : Nat := 0
  hostsLost : List Nat := []
  sdFaulted : Bool := false
  /-- service level at which an active image was last run to L2, by class (R457) -/
  reachedL2 : Bool := false
  deriving DecidableEq, Repr

/-- A segmented write in progress (R481). -/
structure Claim where
  key : Nat
  sess : Nat
  data : List Byte
  /-- kept after completion, for image slots (R465) -/
  kept : Bool := false
  deriving DecidableEq, Repr

/-- An MDP session (R472, R478). Session 0 is the service bus (DESIGN CHOICE, log 144, DESIGN CHOICE, log 145). -/
structure Session where
  role : Nat := 0
  /-- unit and response of the last 16 requests, newest last (R472) -/
  kept : List (MdpUnit × MdpUnit) := []
  latch : Option (Nat × List Byte) := none
  keyUpdates : Nat := 0
  deriving DecidableEq, Repr

/-- Set-swap control (R485, R486, R490). -/
structure SetCtl where
  /-- 0 settled (CLEAN or MODIFIED by comparison), 2 PENDING, 3 SWAPPING -/
  st : Nat := 0
  gen : Nat := 0
  last : Nat := 0
  deriving DecidableEq, Repr

/-- The object dictionary: values that differ from their defaults, by index × 256 + subindex. -/
structure Dict where
  /-- active and shadow values of RWS objects (R484) -/
  active : Tab Word := []
  shadow : Tab Word := []
  /-- OCT and STR values; RWS octets under key + 2^24 for the shadow set -/
  octs : Tab (List Byte) := []
  /-- RW values and RO counters -/
  vals : Tab Word := []
  set : SetCtl := {}
  sessions : Tab Session := []
  claims : List Claim := []
  deriving DecidableEq, Repr

/-- An SPDM connection or secured session of the responder (R458). -/
structure Spdm where
  /-- 1 after GET_VERSION, 2 after GET_CAPABILITIES, whose version holds from then on -/
  version : Nat := 0
  ver : Byte := 0
  algos : Bool := false
  /-- secured sessions whose handshake is not finished, and those in use -/
  opening : Nat := 0
  secured : Nat := 0
  deriving DecidableEq, Repr

/-- An image class (R453, R457, R465): counter, active and fallback images, candidate, status, result, reason. -/
structure ImgClass where
  counter : Nat := 0
  active : List Byte := []
  fallback : List Byte := []
  activeVer : Nat := 0
  fallbackVer : Nat := 0
  candVer : Nat := 0
  status : Nat := 0
  result : Nat := 0
  reason : Nat := 0
  /-- the candidate becomes active at the next bring-up or host boot -/
  armed : Bool := false
  /-- the active image was a candidate and has not brought the module to L1 yet (R465) -/
  trial : Bool := false
  deriving DecidableEq, Repr

/-- The security die (R448 to R467) (DESIGN CHOICE, log 1, PRESUMED, log 143). -/
structure Sec where
  lifecycle : Nat := 1
  /-- next leaf q, bound Q, words written to the ring, leaves lost -/
  q : Nat := 0
  bound : Nat := 0
  ringUsed : Nat := 0
  lost : Nat := 0
  exhausted : Bool := false
  /-- top-leaf bound: bottom trees whose top leaf is recorded (R455) -/
  topBound : Nat := 1
  /-- signer slots: digest of the two public keys and role mask (R450); revoked slots -/
  signers : Tab (List Byte × Nat) := (List.range 16).map fun k => (k, (Config.factorySigner k, Config.factoryRole k))
  revoked : List Nat := []
  /-- owner anchors: public keys and role mask -/
  anchors : Tab (List Byte) := []
  images : Tab ImgClass := (List.range 6).map fun k =>
    (k, { active := Config.factoryImage k, fallback := Config.factoryImage k,
          activeVer := Config.imageVersion (Config.factoryImage k), fallbackVer := Config.imageVersion (Config.factoryImage k) })
  nonce : List Byte := []
  boots : Nat := 0
  /-- power-ons: each draws a debug nonce (R464) -/
  powerOns : Nat := 0
  mgmtKey : List Byte := []
  attKey : List Byte := []
  /-- the alias secrets that hold a certificate, and the leaf that signed it (R450, R454) -/
  mgmtCert : Option (List Byte × Nat) := none
  attCert : Option (List Byte × Nat) := none
  /-- alias keys destroyed by a debug unlock (R464) -/
  keysGone : Bool := false
  /-- a debug unlock that the next derivation of the attestation alias takes into measurement 9 (R464) -/
  debugSeen : Bool := false
  debugMask : BitVec 64 := 0
  /-- measurements 1 to 9 as recorded, by index (R460) -/
  meas : Tab (List Byte) := []
  spdm : Tab Spdm := []
  deriving DecidableEq, Repr

/-- The service plate (R506 to R520) (DESIGN CHOICE, log 1, DESIGN CHOICE, log 32). -/
structure Plate where
  attention : Nat := 0
  presence : Bool := false
  lastEvent : Nat := 0
  /-- the drain has sealed at the partner -/
  drainSealed : Bool := false
  latches : Tab Nat := []
  /-- cables seated, by connector 0 to 11 -/
  seated : List Nat := List.range 12
  fault : List Byte := []
  /-- what the panel shows -/
  shown : List Byte := []
  /-- a fault code has been recorded since the last bring-up began (R518) -/
  faulted : Bool := false
  deriving DecidableEq, Repr

/-- The state of the module (DEDUCED, log 148, DEDUCED, log 149, DESIGN CHOICE, log 150). -/
structure State where
  /-- commands waiting, first in first out -/
  pending : List Instr
  /-- the model's own: number of free values drawn -/
  free : Nat
  /-- the model's own: what the module has sent out, newest last -/
  out : List Out
  mem : Memory
  /-- poisoned 64-bit words by physical address / 8 (R89) -/
  poison : Tab Bool
  /-- latent bit errors by physical address / 8: of scratchpad words, 1 single, 2 double, 3 corrected in delivery and due to be written back
  (R88); of HBM sectors, at the first word of the 32 bytes, 1 correctable and 2 not (R397) -/
  upset : Tab Nat
  /-- marks and watched bits of scratchpad units by physical address / 64 (R235) -/
  marks : Tab Nat
  watched : Tab Bool
  clusters : Tab Cluster
  dies : Tab Die
  hubs : Tab Hub
  links : Tab LinkDie
  ports : Tab Port
  parts : Tab Part
  kept : List Kept
  mailToAoc : RecQ
  mailToHost : RecQ
  mdpRx : RecQ
  /-- MDP requests that wait for room in the receive path, oldest first: datagrams in the MAC's frame buffer, and a bus frame whose
  receiver stalls (R475) -/
  mac : List (MdpPath × Nat × MdpUnit)
  evt : EvtLog
  recov : Recovery
  plan : Plan
  power : Power
  boot : Bring
  dict : Dict
  sec : Sec
  plate : Plate
  deriving DecidableEq, Repr

/-- The module as it leaves manufacture and before 56 V is applied: every register at the value the spec gives for
reset, memory with nothing listed (R90, R495), no command waiting (DESIGN CHOICE, log 1, DESIGN CHOICE, log 2, DESIGN CHOICE, log 151). -/
def State.reset : State where
  pending := []
  free := 0
  out := []
  mem := []
  poison := []
  upset := []
  marks := []
  watched := []
  clusters := []
  dies := []
  hubs := []
  links := []
  ports := []
  parts := []
  kept := []
  mailToAoc := {}
  mailToHost := {}
  mdpRx := {}
  mac := []
  evt := {}
  recov := {}
  plan := {}
  power := {}
  boot := {}
  dict := {}
  sec := {}
  plate := {}

end Sys2Proof.Machine
end

