-- ==== Sys2Proof/Machine/Dictionary.lean ====
section
/-! DEFINITION. The object dictionary's table (R487 and the object tables of every chapter): one row for each object
or run of objects, with type, access right, default and the longest STR or OCT (0: the chapter gives no limit). -/

namespace Sys2Proof.Machine

/-- The value types of R476. -/
inductive ObjTy where
  | bool | u8 | u16 | u32 | u64 | i32 | i64 | f32 | str | oct | uptime
  deriving DecidableEq, Repr

/-- The access rights of R478 and R479. -/
inductive ObjAcc where
  | const | ro | rw | rws | wo
  deriving DecidableEq, Repr

/-- A row: first and last index, first and last subindex, type, access, default, limit. Rows of `0xA0n0` cover its six
indices in steps of 16. -/
structure ObjRow where
  iLo : Nat
  iHi : Nat
  sLo : Nat
  sHi : Nat
  ty : ObjTy
  acc : ObjAcc
  dflt : Nat
  limit : Nat
  deriving DecidableEq, Repr

/-- Rows of the object tables, part 1. -/
def objRows1 : List ObjRow := [
  ⟨0x5803, 0x5803, 0, 0, .u8, .const, 17, 0⟩,
  ⟨0x2010, 0x2010, 0, 0, .u8, .const, 16, 0⟩,
  ⟨0x2010, 0x2010, 1, 16, .u8, .rws, 0x1C, 0⟩,
  ⟨0x2020, 0x2020, 0, 0, .u8, .const, 1, 0⟩,
  ⟨0x2020, 0x2020, 1, 1, .u32, .rws, 10000, 0⟩,
  ⟨0x2030, 0x2030, 0, 0, .u8, .const, 3, 0⟩,
  ⟨0x2030, 0x2030, 1, 1, .u8, .rws, 16, 0⟩,
  ⟨0x2030, 0x2030, 2, 2, .u16, .rws, 64, 0⟩,
  ⟨0x2030, 0x2030, 3, 3, .u32, .rws, 3600, 0⟩,
  ⟨0x5020, 0x5020, 0, 0, .u8, .const, 5, 0⟩,
  ⟨0x5020, 0x5020, 1, 1, .u64, .ro, 0, 0⟩,
  ⟨0x5020, 0x5020, 2, 2, .u64, .ro, 0, 0⟩,
  ⟨0x5020, 0x5020, 3, 3, .u64, .ro, 0, 0⟩,
  ⟨0x5020, 0x5020, 4, 4, .u16, .ro, 0xFFFF, 0⟩,
  ⟨0x5020, 0x5020, 5, 5, .u16, .ro, 0xFFFF, 0⟩,
  ⟨0x2040, 0x2040, 0, 0, .u8, .const, 3, 0⟩,
  ⟨0x2040, 0x2040, 1, 1, .u8, .rws, 14, 0⟩,
  ⟨0x2040, 0x2040, 2, 2, .u8, .rws, 1, 0⟩,
  ⟨0x2040, 0x2040, 3, 3, .u16, .rws, 0, 0⟩,
  ⟨0x5040, 0x5040, 0, 0, .u8, .const, 3, 0⟩,
  ⟨0x5040, 0x5040, 1, 1, .u64, .ro, 0, 0⟩,
  ⟨0x5040, 0x5040, 2, 2, .u64, .ro, 0, 0⟩,
  ⟨0x5040, 0x5040, 3, 3, .u16, .ro, 0xFFFF, 0⟩,
  ⟨0x7050, 0x7050, 0, 0, .u8, .const, 4, 0⟩,
  ⟨0x7050, 0x7050, 1, 1, .u64, .ro, 0, 0⟩,
  ⟨0x7050, 0x7050, 2, 2, .u64, .ro, 0, 0⟩,
  ⟨0x7050, 0x7050, 3, 3, .u64, .ro, 0, 0⟩,
  ⟨0x7050, 0x7050, 4, 4, .u64, .ro, 0, 0⟩,
  ⟨0x7060, 0x7060, 0, 0, .u8, .const, 4, 0⟩,
  ⟨0x7060, 0x7060, 1, 1, .u64, .ro, 0, 0⟩,
  ⟨0x7060, 0x7060, 2, 2, .u64, .ro, 0, 0⟩,
  ⟨0x7060, 0x7060, 3, 3, .u64, .ro, 0, 0⟩,
  ⟨0x7060, 0x7060, 4, 4, .u64, .ro, 0, 0⟩,
  ⟨0x7080, 0x7080, 0, 0, .u8, .const, 3, 0⟩,
  ⟨0x7080, 0x7080, 1, 1, .u64, .ro, 0, 0⟩,
  ⟨0x7080, 0x7080, 2, 2, .u64, .ro, 0, 0⟩,
  ⟨0x7080, 0x7080, 3, 3, .u64, .ro, 0, 0⟩,
  ⟨0x7090, 0x7090, 0, 0, .u8, .const, 6, 0⟩,
  ⟨0x7090, 0x7090, 1, 1, .u64, .ro, 0, 0⟩,
  ⟨0x7090, 0x7090, 2, 2, .u64, .ro, 0, 0⟩]

/-- Rows of the object tables, part 2. -/
def objRows2 : List ObjRow := [
  ⟨0x7090, 0x7090, 3, 3, .u64, .ro, 0, 0⟩,
  ⟨0x7090, 0x7090, 4, 4, .u64, .ro, 0, 0⟩,
  ⟨0x7090, 0x7090, 5, 5, .u64, .ro, 0, 0⟩,
  ⟨0x7090, 0x7090, 6, 6, .u64, .ro, 0, 0⟩,
  ⟨0x2050, 0x2050, 0, 0, .u8, .const, 2, 0⟩,
  ⟨0x2050, 0x2050, 1, 1, .u8, .rws, 8, 0⟩,
  ⟨0x2050, 0x2050, 2, 2, .u8, .rws, 4, 0⟩,
  ⟨0x70A0, 0x70A0, 0, 0, .u8, .const, 6, 0⟩,
  ⟨0x70A0, 0x70A0, 1, 1, .u64, .ro, 0, 0⟩,
  ⟨0x70A0, 0x70A0, 2, 2, .u64, .ro, 0, 0⟩,
  ⟨0x70A0, 0x70A0, 3, 3, .u64, .ro, 0, 0⟩,
  ⟨0x70A0, 0x70A0, 4, 4, .u64, .ro, 0, 0⟩,
  ⟨0x70A0, 0x70A0, 5, 5, .u64, .ro, 0, 0⟩,
  ⟨0x70A0, 0x70A0, 6, 6, .u64, .ro, 0, 0⟩,
  ⟨0x2060, 0x2060, 0, 0, .u8, .const, 2, 0⟩,
  ⟨0x2060, 0x2060, 1, 1, .u8, .rws, 4, 0⟩,
  ⟨0x2060, 0x2060, 2, 2, .u16, .rws, 64, 0⟩,
  ⟨0x70B0, 0x70B0, 0, 0, .u8, .const, 5, 0⟩,
  ⟨0x70B0, 0x70B0, 1, 1, .u64, .ro, 0, 0⟩,
  ⟨0x70B0, 0x70B0, 2, 2, .u64, .ro, 0, 0⟩,
  ⟨0x70B0, 0x70B0, 3, 3, .u64, .ro, 0, 0⟩,
  ⟨0x70B0, 0x70B0, 4, 4, .u64, .ro, 0, 0⟩,
  ⟨0x70B0, 0x70B0, 5, 5, .u64, .ro, 0, 0⟩,
  ⟨0x2070, 0x2070, 0, 0, .u8, .const, 4, 0⟩,
  ⟨0x2070, 0x2070, 1, 1, .u8, .rws, 4, 0⟩,
  ⟨0x2070, 0x2070, 2, 2, .u8, .rws, 2, 0⟩,
  ⟨0x2070, 0x2070, 3, 3, .u8, .rws, 8, 0⟩,
  ⟨0x2070, 0x2070, 4, 4, .bool, .rws, 1, 0⟩,
  ⟨0x5070, 0x5070, 0, 0, .u8, .const, 5, 0⟩,
  ⟨0x5070, 0x5070, 1, 1, .u64, .ro, 0, 0⟩,
  ⟨0x5070, 0x5070, 2, 2, .u64, .ro, 0, 0⟩,
  ⟨0x5070, 0x5070, 3, 3, .u64, .ro, 0, 0⟩,
  ⟨0x5070, 0x5070, 4, 4, .u16, .ro, 0xFFFF, 0⟩,
  ⟨0x5070, 0x5070, 5, 5, .u64, .ro, 0, 0⟩,
  ⟨0x5820, 0x5823, 0, 0, .u8, .const, 16, 0⟩,
  ⟨0x5820, 0x5820, 1, 16, .u64, .ro, 0, 0⟩,
  ⟨0x5821, 0x5821, 1, 16, .u64, .ro, 0, 0⟩,
  ⟨0x5822, 0x5822, 1, 16, .f32, .ro, 0, 0⟩,
  ⟨0x5823, 0x5823, 1, 16, .u64, .ro, 0, 0⟩,
  ⟨0x7070, 0x7070, 0, 0, .u8, .const, 6, 0⟩]

/-- Rows of the object tables, part 3. -/
def objRows3 : List ObjRow := [
  ⟨0x7070, 0x7070, 1, 1, .u64, .ro, 0, 0⟩,
  ⟨0x7070, 0x7070, 2, 2, .u64, .ro, 0, 0⟩,
  ⟨0x7070, 0x7070, 3, 3, .u64, .ro, 0, 0⟩,
  ⟨0x7070, 0x7070, 4, 4, .u64, .ro, 0, 0⟩,
  ⟨0x7070, 0x7070, 5, 5, .u64, .ro, 0, 0⟩,
  ⟨0x7070, 0x7070, 6, 6, .u64, .ro, 0, 0⟩,
  ⟨0x2080, 0x2080, 0, 0, .u8, .const, 1, 0⟩,
  ⟨0x2080, 0x2080, 1, 1, .u16, .rws, 0, 0⟩,
  ⟨0x7000, 0x7007, 0, 0, .u8, .const, 16, 0⟩,
  ⟨0x7000, 0x7000, 1, 16, .u64, .ro, 0, 0⟩,
  ⟨0x7001, 0x7001, 1, 16, .u64, .ro, 0, 0⟩,
  ⟨0x7002, 0x7002, 1, 16, .u64, .ro, 0, 0⟩,
  ⟨0x7003, 0x7003, 1, 16, .u64, .ro, 0, 0⟩,
  ⟨0x7004, 0x7004, 1, 16, .u64, .ro, 0, 0⟩,
  ⟨0x7005, 0x7005, 1, 16, .u64, .ro, 0, 0⟩,
  ⟨0x7006, 0x7006, 1, 16, .u64, .ro, 0, 0⟩,
  ⟨0x7007, 0x7007, 1, 16, .u64, .ro, 0, 0⟩,
  ⟨0x2090, 0x2090, 0, 0, .u8, .const, 1, 0⟩,
  ⟨0x2090, 0x2090, 1, 1, .u16, .rws, 0, 0⟩,
  ⟨0x7800, 0x7800, 0, 0, .u8, .const, 16, 0⟩,
  ⟨0x7800, 0x7800, 1, 16, .u64, .ro, 0, 0⟩,
  ⟨0x7801, 0x7801, 0, 0, .u8, .const, 16, 0⟩,
  ⟨0x7801, 0x7801, 1, 16, .u32, .ro, 0, 0⟩,
  ⟨0x7810, 0x7810, 0, 0, .u8, .const, 1, 0⟩,
  ⟨0x7810, 0x7810, 1, 1, .u32, .ro, 0, 0⟩,
  ⟨0x2100, 0x2100, 0, 0, .u8, .const, 4, 0⟩,
  ⟨0x2100, 0x2100, 1, 1, .u16, .rws, 50, 0⟩,
  ⟨0x2100, 0x2100, 2, 2, .u8, .rws, 3, 0⟩,
  ⟨0x2100, 0x2100, 3, 3, .u8, .rws, 16, 0⟩,
  ⟨0x2100, 0x2100, 4, 4, .u32, .rws, 1000000, 0⟩,
  ⟨0x2101, 0x2101, 0, 0, .u8, .const, 32, 0⟩,
  ⟨0x2101, 0x2101, 1, 32, .u8, .rws, 0, 0⟩,
  ⟨0x5100, 0x5100, 0, 0, .u8, .const, 7, 0⟩,
  ⟨0x5100, 0x5100, 1, 1, .u64, .ro, 0, 0⟩,
  ⟨0x5100, 0x5100, 2, 2, .u64, .ro, 0, 0⟩,
  ⟨0x5100, 0x5100, 3, 3, .u64, .ro, 0, 0⟩,
  ⟨0x5100, 0x5100, 4, 4, .u64, .ro, 0, 0⟩,
  ⟨0x5100, 0x5100, 5, 5, .u64, .ro, 0, 0⟩,
  ⟨0x5100, 0x5100, 6, 6, .u64, .ro, 0, 0⟩,
  ⟨0x5100, 0x5100, 7, 7, .u64, .ro, 0, 0⟩]

/-- Rows of the object tables, part 4. -/
def objRows4 : List ObjRow := [
  ⟨0x5101, 0x5101, 0, 0, .u8, .const, 2, 0⟩,
  ⟨0x5101, 0x5101, 1, 1, .u64, .ro, 0, 0⟩,
  ⟨0x5101, 0x5101, 2, 2, .u8, .ro, 0xFF, 0⟩,
  ⟨0x2110, 0x2110, 0, 0, .u8, .const, 3, 0⟩,
  ⟨0x2110, 0x2110, 1, 1, .bool, .rws, 0, 0⟩,
  ⟨0x2110, 0x2110, 2, 2, .u64, .rws, 0, 0⟩,
  ⟨0x2110, 0x2110, 3, 3, .u32, .rws, 0, 0⟩,
  ⟨0x2111, 0x2111, 0, 0, .u8, .const, 1, 0⟩,
  ⟨0x2111, 0x2111, 1, 1, .u8, .rws, 0, 0⟩,
  ⟨0x5800, 0x5804, 0, 0, .u8, .const, 16, 0⟩,
  ⟨0x5800, 0x5800, 1, 16, .u64, .ro, 1, 0⟩,
  ⟨0x5801, 0x5801, 1, 16, .u64, .ro, 0, 0⟩,
  ⟨0x5802, 0x5802, 1, 16, .u8, .ro, 0, 0⟩,
  ⟨0x5803, 0x5803, 1, 16, .u64, .ro, 0, 0⟩,
  ⟨0x5803, 0x5803, 17, 17, .u64, .ro, 0, 0⟩,
  ⟨0x5804, 0x5804, 1, 16, .u64, .ro, 0, 0⟩,
  ⟨0x5805, 0x5805, 0, 0, .u8, .const, 1, 0⟩,
  ⟨0x5805, 0x5805, 1, 1, .u16, .ro, 0, 0⟩,
  ⟨0x5806, 0x5806, 0, 0, .u8, .const, 1, 0⟩,
  ⟨0x5806, 0x5806, 1, 1, .u8, .ro, 0xFF, 0⟩,
  ⟨0x5808, 0x5808, 0, 0, .u8, .const, 2, 0⟩,
  ⟨0x5808, 0x5808, 1, 1, .u8, .ro, 0, 0⟩,
  ⟨0x5808, 0x5808, 2, 2, .u64, .ro, 0, 0⟩,
  ⟨0x2120, 0x2120, 0, 0, .u8, .const, 6, 0⟩,
  ⟨0x2120, 0x2120, 1, 1, .u16, .rws, 256, 0⟩,
  ⟨0x2120, 0x2120, 2, 2, .bool, .rws, 1, 0⟩,
  ⟨0x2120, 0x2120, 3, 3, .u16, .rws, 1000, 0⟩,
  ⟨0x2120, 0x2120, 4, 4, .u32, .rws, 5000, 0⟩,
  ⟨0x2120, 0x2120, 5, 5, .u16, .rws, 8, 0⟩,
  ⟨0x2120, 0x2120, 6, 6, .u8, .rws, 2, 0⟩,
  ⟨0x2122, 0x2122, 0, 0, .u8, .const, 16, 0⟩,
  ⟨0x2122, 0x2122, 1, 16, .u64, .rws, 0, 0⟩,
  ⟨0x5000, 0x5000, 0, 0, .u8, .const, 9, 0⟩,
  ⟨0x5000, 0x5000, 1, 1, .u64, .ro, 0, 0⟩,
  ⟨0x5000, 0x5000, 2, 2, .u64, .ro, 0, 0⟩,
  ⟨0x5000, 0x5000, 3, 3, .u64, .ro, 0, 0⟩,
  ⟨0x5000, 0x5000, 4, 4, .u64, .ro, 0, 0⟩,
  ⟨0x5000, 0x5000, 5, 5, .u64, .ro, 0, 0⟩,
  ⟨0x5000, 0x5000, 6, 6, .bool, .ro, 0, 0⟩,
  ⟨0x5000, 0x5000, 7, 7, .u64, .ro, 0, 0⟩]

/-- Rows of the object tables, part 5. -/
def objRows5 : List ObjRow := [
  ⟨0x5000, 0x5000, 8, 8, .u8, .ro, 0, 0⟩,
  ⟨0x5000, 0x5000, 9, 9, .u8, .ro, 0, 0⟩,
  ⟨0x5010, 0x5010, 0, 0, .u8, .const, 3, 0⟩,
  ⟨0x5010, 0x5010, 1, 1, .u64, .ro, 0, 0⟩,
  ⟨0x5010, 0x5010, 2, 2, .u64, .ro, 0, 0⟩,
  ⟨0x5010, 0x5010, 3, 3, .u64, .ro, 0, 0⟩,
  ⟨0x4000, 0x4000, 0, 0, .u8, .const, 9, 0⟩,
  ⟨0x4000, 0x4000, 1, 1, .f32, .ro, 0, 0⟩,
  ⟨0x4000, 0x4000, 2, 2, .f32, .ro, 0, 0⟩,
  ⟨0x4000, 0x4000, 3, 3, .f32, .ro, 0, 0⟩,
  ⟨0x4000, 0x4000, 4, 4, .u64, .ro, 0, 0⟩,
  ⟨0x4000, 0x4000, 5, 5, .u8, .ro, 0, 0⟩,
  ⟨0x4000, 0x4000, 6, 6, .bool, .ro, 0, 0⟩,
  ⟨0x4000, 0x4000, 7, 7, .bool, .ro, 0, 0⟩,
  ⟨0x4000, 0x4000, 8, 8, .bool, .ro, 0, 0⟩,
  ⟨0x4000, 0x4000, 9, 9, .u64, .ro, 0, 0⟩,
  ⟨0x4001, 0x4001, 0, 0, .u8, .const, 3, 0⟩,
  ⟨0x4001, 0x4001, 1, 1, .u8, .rw, 0, 0⟩,
  ⟨0x4001, 0x4001, 2, 2, .bool, .rw, 1, 0⟩,
  ⟨0x4001, 0x4001, 3, 3, .u16, .rw, 30, 0⟩,
  ⟨0x4010, 0x4010, 0, 0, .u8, .const, 2, 0⟩,
  ⟨0x4010, 0x4010, 1, 1, .u16, .rws, 15000, 0⟩,
  ⟨0x4010, 0x4010, 2, 2, .u16, .ro, 0, 0⟩,
  ⟨0x4020, 0x4020, 0, 0, .u8, .const, 9, 0⟩,
  ⟨0x4020, 0x4020, 1, 1, .f32, .ro, 0, 0⟩,
  ⟨0x4020, 0x4020, 2, 2, .f32, .ro, 0, 0⟩,
  ⟨0x4020, 0x4020, 3, 3, .f32, .ro, 0, 0⟩,
  ⟨0x4020, 0x4020, 4, 4, .f32, .ro, 0, 0⟩,
  ⟨0x4020, 0x4020, 5, 5, .f32, .ro, 0, 0⟩,
  ⟨0x4020, 0x4020, 6, 6, .f32, .ro, 0, 0⟩,
  ⟨0x4020, 0x4020, 7, 7, .u8, .ro, 0, 0⟩,
  ⟨0x4020, 0x4020, 8, 8, .u64, .ro, 0, 0⟩,
  ⟨0x4020, 0x4020, 9, 9, .f32, .rws, 0, 0⟩,
  ⟨0x4021, 0x4021, 0, 0, .u8, .const, 64, 0⟩,
  ⟨0x4021, 0x4021, 1, 64, .f32, .ro, 0, 0⟩,
  ⟨0x4022, 0x4022, 0, 0, .u8, .const, 20, 0⟩,
  ⟨0x4022, 0x4022, 1, 20, .f32, .ro, 0, 0⟩,
  ⟨0x4800, 0x4800, 0, 0, .u8, .const, 1, 0⟩,
  ⟨0x4800, 0x4800, 1, 1, .u32, .rws, 100, 0⟩,
  ⟨0x4801, 0x4801, 0, 0, .u8, .const, 2, 0⟩]

/-- Rows of the object tables, part 6. -/
def objRows6 : List ObjRow := [
  ⟨0x4801, 0x4801, 1, 1, .u64, .ro, 0, 0⟩,
  ⟨0x4801, 0x4801, 2, 2, .u64, .ro, 0, 0⟩,
  ⟨0x6000, 0x6000, 0, 0, .u8, .const, 3, 0⟩,
  ⟨0x6000, 0x6000, 1, 1, .oct, .ro, 0, 0⟩,
  ⟨0x6000, 0x6000, 2, 2, .oct, .ro, 0, 0⟩,
  ⟨0x6000, 0x6000, 3, 3, .oct, .ro, 0, 0⟩,
  ⟨0x6010, 0x6010, 0, 0, .u8, .const, 5, 0⟩,
  ⟨0x6010, 0x6010, 1, 1, .u64, .ro, 0, 0⟩,
  ⟨0x6010, 0x6010, 2, 2, .u64, .ro, 0, 0⟩,
  ⟨0x6010, 0x6010, 3, 3, .u64, .ro, 0, 0⟩,
  ⟨0x6010, 0x6010, 4, 4, .u32, .ro, 0, 0⟩,
  ⟨0x6010, 0x6010, 5, 5, .bool, .ro, 0, 0⟩,
  ⟨0x6020, 0x6020, 0, 0, .u8, .const, 6, 0⟩,
  ⟨0x6020, 0x6020, 1, 6, .u8, .ro, 0, 0⟩,
  ⟨0x6021, 0x6021, 0, 0, .u8, .const, 6, 0⟩,
  ⟨0x6021, 0x6021, 1, 6, .u8, .wo, 0, 0⟩,
  ⟨0x6030, 0x6030, 0, 0, .u8, .const, 5, 0⟩,
  ⟨0x6030, 0x6030, 1, 4, .oct, .ro, 0, 0⟩,
  ⟨0x6030, 0x6030, 5, 5, .oct, .wo, 0, 0⟩,
  ⟨0x6040, 0x6040, 0, 0, .u8, .const, 1, 0⟩,
  ⟨0x6040, 0x6040, 1, 1, .u16, .rws, 0xFFFF, 0⟩,
  ⟨0x6050, 0x6050, 0, 0, .u8, .const, 4, 0⟩,
  ⟨0x6050, 0x6050, 1, 1, .u8, .ro, 0, 0⟩,
  ⟨0x6050, 0x6050, 2, 2, .oct, .ro, 0, 32⟩,
  ⟨0x6050, 0x6050, 3, 3, .oct, .wo, 0, 0⟩,
  ⟨0x6050, 0x6050, 4, 4, .u64, .ro, 0, 0⟩,
  ⟨0x6060, 0x6060, 0, 0, .u8, .const, 2, 0⟩,
  ⟨0x6060, 0x6060, 1, 1, .oct, .wo, 0, 32⟩,
  ⟨0x6060, 0x6060, 2, 2, .oct, .ro, 0, 0⟩,
  ⟨0x6070, 0x6070, 0, 0, .u8, .const, 2, 0⟩,
  ⟨0x6070, 0x6070, 1, 1, .u16, .ro, 0, 0⟩,
  ⟨0x6070, 0x6070, 2, 2, .oct, .wo, 0, 0⟩,
  ⟨0xA000, 0xA050, 0, 0, .u8, .const, 6, 0⟩,
  ⟨0xA000, 0xA050, 1, 1, .oct, .wo, 0, 0⟩,
  ⟨0xA000, 0xA050, 2, 2, .u8, .wo, 0, 0⟩,
  ⟨0xA000, 0xA050, 3, 3, .u8, .ro, 0, 0⟩,
  ⟨0xA000, 0xA050, 4, 4, .u8, .ro, 0, 0⟩,
  ⟨0xA000, 0xA050, 5, 5, .u8, .ro, 0, 0⟩,
  ⟨0xA000, 0xA050, 6, 6, .u32, .ro, 0, 0⟩,
  ⟨0x1000, 0x1000, 0, 0, .u8, .const, 11, 0⟩]

/-- Rows of the object tables, part 7. -/
def objRows7 : List ObjRow := [
  ⟨0x1000, 0x1000, 1, 1, .str, .const, 0, 64⟩,
  ⟨0x1000, 0x1000, 2, 2, .u64, .const, 0, 0⟩,
  ⟨0x1000, 0x1000, 3, 3, .u8, .const, 0, 0⟩,
  ⟨0x1000, 0x1000, 4, 4, .str, .const, 0, 32⟩,
  ⟨0x1000, 0x1000, 5, 5, .u16, .const, 0, 0⟩,
  ⟨0x1000, 0x1000, 6, 6, .u32, .const, 0, 0⟩,
  ⟨0x1000, 0x1000, 7, 7, .oct, .const, 0, 6⟩,
  ⟨0x1000, 0x1000, 8, 8, .u16, .const, 1, 0⟩,
  ⟨0x1000, 0x1000, 9, 9, .u32, .ro, 0, 0⟩,
  ⟨0x1000, 0x1000, 10, 10, .uptime, .ro, 0, 0⟩,
  ⟨0x1000, 0x1000, 11, 11, .str, .rw, 0, 64⟩,
  ⟨0x1100, 0x1100, 0, 0, .u8, .const, 10, 0⟩,
  ⟨0x1100, 0x1100, 1, 1, .u8, .rws, 2, 0⟩,
  ⟨0x1100, 0x1100, 2, 2, .u32, .rws, 0, 0⟩,
  ⟨0x1100, 0x1100, 3, 3, .u8, .rws, 24, 0⟩,
  ⟨0x1100, 0x1100, 4, 4, .u32, .rws, 0, 0⟩,
  ⟨0x1100, 0x1100, 5, 5, .bool, .rws, 1, 0⟩,
  ⟨0x1100, 0x1100, 6, 6, .oct, .rws, 0, 16⟩,
  ⟨0x1100, 0x1100, 7, 7, .u16, .rws, 0, 0⟩,
  ⟨0x1100, 0x1100, 8, 8, .u8, .rws, 0, 0⟩,
  ⟨0x1100, 0x1100, 9, 9, .u16, .const, 49714, 0⟩,
  ⟨0x1100, 0x1100, 10, 10, .u16, .rws, 300, 0⟩,
  ⟨0x1101, 0x1101, 0, 0, .u8, .const, 2, 0⟩,
  ⟨0x1101, 0x1101, 1, 1, .u8, .rw, 0x01, 0⟩,
  ⟨0x1101, 0x1101, 2, 2, .bool, .rw, 1, 0⟩,
  ⟨0x1102, 0x1102, 0, 0, .u8, .const, 9, 0⟩,
  ⟨0x1102, 0x1102, 1, 1, .u64, .ro, 0, 0⟩,
  ⟨0x1102, 0x1102, 2, 2, .u64, .ro, 0, 0⟩,
  ⟨0x1102, 0x1102, 3, 3, .u64, .ro, 0, 0⟩,
  ⟨0x1102, 0x1102, 4, 4, .u64, .ro, 0, 0⟩,
  ⟨0x1102, 0x1102, 5, 5, .u64, .ro, 0, 0⟩,
  ⟨0x1102, 0x1102, 6, 6, .u64, .ro, 0, 0⟩,
  ⟨0x1102, 0x1102, 7, 7, .u64, .ro, 0, 0⟩,
  ⟨0x1102, 0x1102, 8, 8, .u64, .ro, 0, 0⟩,
  ⟨0x1102, 0x1102, 9, 9, .u8, .ro, 0, 0⟩,
  ⟨0x1800, 0x1800, 0, 0, .u8, .const, 6, 0⟩,
  ⟨0x1800, 0x1800, 1, 1, .u8, .wo, 0, 0⟩,
  ⟨0x1800, 0x1800, 2, 2, .u8, .ro, 0, 0⟩,
  ⟨0x1800, 0x1800, 3, 3, .u32, .ro, 0, 0⟩,
  ⟨0x1800, 0x1800, 4, 4, .u8, .ro, 0, 0⟩]

/-- Rows of the object tables, part 8. -/
def objRows8 : List ObjRow := [
  ⟨0x1800, 0x1800, 5, 5, .u32, .rw, 10000, 0⟩,
  ⟨0x1800, 0x1800, 6, 6, .uptime, .ro, 0, 0⟩,
  ⟨0x3000, 0x3000, 0, 0, .u8, .const, 5, 0⟩,
  ⟨0x3000, 0x3000, 1, 1, .u8, .ro, 0, 0⟩,
  ⟨0x3000, 0x3000, 2, 2, .u8, .ro, 0, 0⟩,
  ⟨0x3000, 0x3000, 3, 3, .u16, .ro, 0, 0⟩,
  ⟨0x3000, 0x3000, 4, 4, .u8, .ro, 0, 0⟩,
  ⟨0x3000, 0x3000, 5, 5, .u32, .ro, 0, 0⟩,
  ⟨0x3001, 0x3001, 0, 0, .u8, .const, 64, 0⟩,
  ⟨0x3001, 0x3001, 1, 64, .u64, .ro, 0, 0⟩,
  ⟨0x3100, 0x313F, 0, 0, .u8, .const, 17, 0⟩,
  ⟨0x3100, 0x313F, 1, 17, .u16, .ro, 0, 0⟩,
  ⟨0x3010, 0x3017, 0, 0, .u8, .const, 33, 0⟩,
  ⟨0x3010, 0x3017, 1, 32, .u8, .ro, 0, 0⟩,
  ⟨0x3010, 0x3017, 33, 33, .u8, .ro, 0, 0⟩,
  ⟨0x3020, 0x3020, 0, 0, .u8, .const, 20, 0⟩,
  ⟨0x3020, 0x3020, 1, 20, .u16, .ro, 0, 0⟩,
  ⟨0x3021, 0x3021, 0, 0, .u8, .const, 8, 0⟩,
  ⟨0x3021, 0x3021, 1, 1, .u8, .ro, 0, 0⟩,
  ⟨0x3021, 0x3021, 2, 6, .u16, .ro, 0, 0⟩,
  ⟨0x3021, 0x3021, 7, 7, .u32, .ro, 0, 0⟩,
  ⟨0x3021, 0x3021, 8, 8, .u8, .ro, 0, 0⟩,
  ⟨0x3030, 0x3030, 0, 0, .u8, .const, 8, 0⟩,
  ⟨0x3030, 0x3030, 1, 4, .u64, .ro, 0, 0⟩,
  ⟨0x3030, 0x3030, 5, 8, .u8, .ro, 0, 0⟩,
  ⟨0x3040, 0x3040, 0, 0, .u8, .const, 11, 0⟩,
  ⟨0x3040, 0x3040, 1, 2, .u64, .ro, 0, 0⟩,
  ⟨0x3040, 0x3040, 3, 4, .u64, .ro, 0, 0⟩,
  ⟨0x3040, 0x3040, 5, 6, .u64, .ro, 0, 0⟩,
  ⟨0x3040, 0x3040, 7, 8, .u64, .ro, 0, 0⟩,
  ⟨0x3040, 0x3040, 9, 10, .u64, .ro, 0, 0⟩,
  ⟨0x3040, 0x3040, 11, 11, .bool, .ro, 0, 0⟩,
  ⟨0x8000, 0x8000, 0, 0, .u8, .const, 9, 0⟩,
  ⟨0x8000, 0x8000, 1, 1, .u8, .ro, 0, 0⟩,
  ⟨0x8000, 0x8000, 2, 2, .uptime, .ro, 0, 0⟩,
  ⟨0x8000, 0x8000, 3, 3, .uptime, .ro, 0, 0⟩,
  ⟨0x8000, 0x8000, 4, 4, .u8, .ro, 0, 0⟩,
  ⟨0x8000, 0x8000, 5, 5, .bool, .ro, 0, 0⟩,
  ⟨0x8000, 0x8000, 6, 6, .bool, .rw, 0, 0⟩,
  ⟨0x8000, 0x8000, 7, 7, .u16, .rw, 30, 0⟩]

/-- Rows of the object tables, part 9. -/
def objRows9 : List ObjRow := [
  ⟨0x8000, 0x8000, 8, 8, .bool, .wo, 0, 0⟩,
  ⟨0x8000, 0x8000, 9, 9, .u8, .ro, 0, 0⟩,
  ⟨0x9000, 0x9000, 0, 0, .u8, .const, 5, 0⟩,
  ⟨0x9000, 0x9000, 1, 1, .u8, .ro, 0, 0⟩,
  ⟨0x9000, 0x9000, 2, 2, .bool, .ro, 0, 0⟩,
  ⟨0x9000, 0x9000, 3, 3, .u16, .rw, 60, 0⟩,
  ⟨0x9000, 0x9000, 4, 4, .u8, .ro, 0, 0⟩,
  ⟨0x9000, 0x9000, 5, 5, .u64, .ro, 0, 0⟩,
  ⟨0x9001, 0x9001, 0, 0, .u8, .const, 12, 0⟩,
  ⟨0x9001, 0x9001, 1, 12, .u8, .ro, 0, 0⟩,
  ⟨0x9002, 0x9002, 0, 0, .u8, .const, 1, 0⟩,
  ⟨0x9002, 0x9002, 1, 1, .u16, .rw, 0x0FFF, 0⟩,
  ⟨0x9003, 0x9003, 0, 0, .u8, .const, 3, 0⟩,
  ⟨0x9003, 0x9003, 1, 1, .str, .rw, 0, 32⟩,
  ⟨0x9003, 0x9003, 2, 2, .str, .ro, 0, 32⟩,
  ⟨0x9003, 0x9003, 3, 3, .bool, .wo, 0, 0⟩,
  ⟨0x9004, 0x9004, 0, 0, .u8, .const, 1, 0⟩,
  ⟨0x9004, 0x9004, 1, 1, .bool, .rw, 0, 0⟩,
  ⟨0x9005, 0x9005, 0, 0, .u8, .const, 1, 0⟩,
  ⟨0x9005, 0x9005, 1, 1, .bool, .rw, 0, 0⟩]

/-- Every row. -/
def objRows : List ObjRow :=
  objRows1 ++ objRows2 ++ objRows3 ++ objRows4 ++ objRows5 ++ objRows6 ++ objRows7 ++ objRows8 ++ objRows9

/-- The row that covers an object (R480). -/
def objRow (idx sub : Nat) : Option ObjRow :=
  objRows.find? fun r => r.iLo ≤ idx && idx ≤ r.iHi && r.sLo ≤ sub && sub ≤ r.sHi &&
    (r.iLo != 0xA000 || idx % 16 == 0)

/-- An index has an object. -/
def objExists (idx : Nat) : Bool := (objRow idx 0).isSome

/-- The default of an object (the Default columns). -/
def objDefault (idx sub : Nat) : Word := BitVec.ofNat 64 (((objRow idx sub).map (·.dflt)).getD 0)

/-- The key of an object in the tables of `Dict`. -/
def objKey (idx sub : Nat) : Nat := idx * 256 + sub

/-- The bytes of a fixed-size type (R476); 0 for STR and OCT. -/
def ObjTy.size : ObjTy → Nat
  | .bool | .u8 => 1
  | .u16 => 2
  | .u32 | .i32 | .f32 => 4
  | .u64 | .i64 => 8
  | .uptime => 10
  | .str | .oct => 0

end Sys2Proof.Machine
end

