-- ==== Sys2Proof/Machine/Ops.lean ====
section
/-! DEFINITION. The named operations over tables, memory and the pieces of the state: every read and write goes
through one of these. -/

namespace Sys2Proof.Machine

/-! ### Bits and bytes -/

/-- The `w` bits of `v` from bit `lo` up. -/
def bits (v lo w : Nat) : Nat := (v >>> lo) % 2 ^ w

/-- Bit `i` of `v`. -/
def bit1 (v i : Nat) : Bool := bits v i 1 == 1

/-- A `w`-bit field read as two's complement (R58). -/
def signed (w v : Nat) : Int := if v < 2 ^ (w - 1) then (v : Int) else (v : Int) - (2 ^ w : Nat)

/-- Little-endian bytes as a number (00_scope.md, Numbers and units). -/
def leNat : List Byte → Nat
  | [] => 0
  | b :: bs => b.toNat + 256 * leNat bs

/-- A number as `n` little-endian bytes. -/
def natLe : Nat → Nat → List Byte
  | 0, _ => []
  | n + 1, v => BitVec.ofNat 8 v :: natLe n (v / 256)

/-- A list in pieces of `n`; fuel bounds the number of pieces. -/
def piecesOf (n : Nat) : Nat → List α → List (List α)
  | 0, _ => []
  | _ + 1, [] => []
  | f + 1, xs => xs.take n :: piecesOf n f (xs.drop n)

/-- The smallest multiple of `n` not below `v`. -/
def roundUp (v n : Nat) : Nat := (v + n - 1) / n * n

/-- ⌈v / n⌉. -/
def ceilDiv (v n : Nat) : Nat := (v + n - 1) / n

/-- `s` bytes padded with zeros to length `n`. -/
def padTo (n : Nat) (s : List Byte) : List Byte := s ++ List.replicate (n - s.length) 0

/-! ### Tables -/

/-- The value at a key (DESIGN CHOICE, log 2). -/
def Tab.look (t : Tab α) (d : α) (k : Nat) : α :=
  match t.find? (fun e => e.1 == k) with
  | some e => e.2
  | none => d

/-- The table with a value put at a key; the default's entry is removed. -/
def Tab.put [DecidableEq α] (t : Tab α) (d : α) (k : Nat) (v : α) : Tab α :=
  t.filter (fun e => e.1 < k) ++ ((if v = d then [] else [(k, v)]) ++ t.filter (fun e => k < e.1))

/-- Keys strictly rising and no default listed. -/
def Tab.wf [DecidableEq α] (t : Tab α) (d : α) : Bool :=
  decide (t.Pairwise fun a b => a.1 < b.1) && t.all fun e => decide (e.2 ≠ d)

/-- Every listed value changed; a value that becomes the default leaves the table. -/
def Tab.mapV [DecidableEq α] (t : Tab α) (d : α) (f : α → α) : Tab α := (t.map fun e => (e.1, f e.2)).filter fun e => decide (e.2 ≠ d)

/-- Keys in a range, with their values. -/
def Tab.within (t : Tab α) (a n : Nat) : Tab α := t.filter fun e => a ≤ e.1 && e.1 < a + n

/-- The table without the keys of a range. -/
def Tab.clear (t : Tab α) (a n : Nat) : Tab α := t.filter fun e => !(a ≤ e.1 && e.1 < a + n)

/-! ### Memory -/

/-- The canonical form: addresses strictly rising, no zero byte listed. -/
def Memory.wf (m : Memory) : Bool := Tab.wf m 0

/-- One byte (DESIGN CHOICE, log 2). -/
def Memory.byte (m : Memory) (a : Nat) : Byte := Tab.look m 0 a

/-- `n` bytes from an address up. -/
def Memory.readN (m : Memory) (a n : Nat) : List Byte :=
  let seg : Memory := Tab.within m a n
  (List.range n).map fun i => seg.byte (a + i)

/-- The listed cells of a run of bytes. -/
def cellsOf : Nat → List Byte → Memory
  | _, [] => []
  | a, b :: bs => if b = 0 then cellsOf (a + 1) bs else (a, b) :: cellsOf (a + 1) bs

/-- A run of bytes written at an address. -/
def Memory.writeN (m : Memory) (a : Nat) (bs : List Byte) : Memory :=
  m.filter (fun e => e.1 < a) ++ (cellsOf a bs ++ m.filter (fun e => a + bs.length ≤ e.1))

/-! ### Pieces of the state -/

/-- A cluster by global index (R12). -/
def State.cl (s : State) (c : Nat) : Cluster := Tab.look s.clusters {} c

/-- The state with one cluster changed. -/
def State.updCl (s : State) (c : Nat) (f : Cluster → Cluster) : State :=
  { s with clusters := Tab.put s.clusters {} c (f (s.cl c)) }

/-- A partition. -/
def State.pt (s : State) (p : Nat) : Part := Tab.look s.parts {} p

/-- The state with one partition changed. -/
def State.updPt (s : State) (p : Nat) (f : Part → Part) : State :=
  { s with parts := Tab.put s.parts {} p (f (s.pt p)) }

/-- A compute die by row × 8 + column. -/
def State.die (s : State) (d : Nat) : Die := Tab.look s.dies {} d

/-- The state with one die changed. -/
def State.updDie (s : State) (d : Nat) (f : Die → Die) : State :=
  { s with dies := Tab.put s.dies {} d (f (s.die d)) }

/-- A hub: 0 HN, 1 HE, 2 HS, 3 HW. -/
def State.hub (s : State) (h : Nat) : Hub := Tab.look s.hubs {} h

/-- The state with one hub changed. -/
def State.updHub (s : State) (h : Nat) (f : Hub → Hub) : State :=
  { s with hubs := Tab.put s.hubs {} h (f (s.hub h)) }

/-- A link die by number (R338). -/
def State.link (s : State) (l : Nat) : LinkDie := Tab.look s.links {} l

/-- The state with one link die changed. -/
def State.updLink (s : State) (l : Nat) (f : LinkDie → LinkDie) : State :=
  { s with links := Tab.put s.links {} l (f (s.link l)) }

/-- The lanes of port `j` of a link die at power-on (R13). -/
def lanesAt (p : Nat) : List Nat := (List.range 8).map fun l => 8 * (p % 4) + l

/-- A link port P00 to P31 at power-on (R13) (DEDUCED, log 29). -/
def portInit (p : Nat) : Port := { lanes := lanesAt p }

/-- A link port. -/
def State.port (s : State) (p : Nat) : Port := Tab.look s.ports (portInit p) p

/-- The state with one port changed. -/
def State.updPort (s : State) (p : Nat) (f : Port → Port) : State :=
  { s with ports := Tab.put s.ports (portInit p) p (f (s.port p)) }

/-- Something leaves the module (DESIGN CHOICE, log 150). -/
def State.emit (s : State) (o : Out) : State := { s with out := s.out ++ [o] }

/-- A fresh free value of up to 64 bits. -/
def State.freeW (s : State) : Word := Config.freeWord s.free

/-- The free-value counter advanced (DESIGN CHOICE, log 7, DESIGN CHOICE, log 150). -/
def State.drawn (s : State) : State := { s with free := s.free + 1 }

/-! ### Objects -/

/-- An RO or RW object's value. -/
def State.obj (s : State) (idx sub : Nat) : Nat :=
  (Tab.look s.dict.vals (objDefault idx sub) (objKey idx sub)).toNat

/-- The value put into an RO or RW object. -/
def State.setObj (s : State) (idx sub v : Nat) : State :=
  { s with dict := { s.dict with vals := Tab.put s.dict.vals (objDefault idx sub) (objKey idx sub) (BitVec.ofNat 64 v) } }

/-- A counter advanced by `n`. -/
def State.bump (s : State) (idx sub n : Nat) : State := s.setObj idx sub (s.obj idx sub + n)

/-- The active value of an RWS object (R484). -/
def State.cfg (s : State) (idx sub : Nat) : Nat :=
  (Tab.look s.dict.active (objDefault idx sub) (objKey idx sub)).toNat

/-! ### The physical map -/

/-- The base of the scratchpad windows and the bytes of one (R12, R256). -/
def padBase : Nat := 0x80000000000
def padSize : Nat := 0x800000

/-- The scratchpad window of a cluster begins here (R79). -/
def padOf (c : Nat) : Nat := padBase + c * padSize

/-- The regions of R256. -/
inductive Region where
  | hbm
  | pad (c : Nat) (off : Nat)
  | control
  | cxl (x : Nat) (off : Nat)
  | absent
  deriving DecidableEq, Repr

/-- The region of a physical address (R256). -/
def regionOf (pa : Nat) : Region :=
  if pa < 0xF000000000 then .hbm
  else if padBase ≤ pa ∧ pa < padBase + 1088 * padSize then .pad ((pa - padBase) / padSize) ((pa - padBase) % padSize)
  else if 0xF0000000000 ≤ pa ∧ pa < 0x100000000000 then .control
  else if 0x100000000000 ≤ pa ∧ pa < 0x200000000000 then
    .cxl ((pa - 0x100000000000) / 0x40000000000) ((pa - 0x100000000000) % 0x40000000000)
  else .absent

/-- The cluster whose window holds an address, if one does. -/
def padCluster (pa : Nat) : Option Nat :=
  match regionOf pa with
  | .pad c _ => some c
  | _ => none

/-- The HBM length that the floor plan records (R258). -/
def State.hbmLen (s : State) : Nat := (s.plan.rows.map (·.1)).sum

/-- The row of an HBM address and the offset in it (R258). -/
def rowOf : List (Nat × List Nat) → Nat → Nat → Option (Nat × List Nat × Nat)
  | [], _, _ => none
  | (size, st) :: rest, k, o => if o < size then some (k, st, o) else rowOf rest (k + 1) (o - size)

/-- The hub that owns an address (R258, R261). -/
def State.hubOf (_ : State) (pa : Nat) : Nat :=
  match regionOf pa with
  | .cxl x _ => x
  | _ => (pa >>> 12) % 4

/-- The stack that holds an HBM address (R258). -/
def State.stackOf (s : State) (pa : Nat) : Option Nat :=
  match rowOf s.plan.rows 0 pa with
  | some (_, st, o) => st[(o >>> 12) % 4]?
  | none => none

/-- The stack of an HBM address, and the address within it (R258). -/
def State.stackPlace (s : State) (pa : Nat) : Option (Nat × Nat) :=
  match rowOf s.plan.rows 0 pa with
  | some (_, st, o) => st[(o >>> 12) % 4]?.map fun m => (m, (o >>> 14) * 4096 + o % 4096)
  | none => none

/-- The pseudo-channel of a stack address (R259). -/
def pseudoChannel (a : Nat) : Nat := (a >>> 8) % 32

/-- The protected ranges: the areas of D but the parity area, as the floor plan lists them, then the ranges of `0x2122` (R399, R400). -/
def State.guardList (s : State) : List (Nat × Nat) := s.plan.dAreas.drop 1 ++ s.plan.ranges

/-- The address lies in a protected range (R399) (DEDUCED, log 147). -/
def State.isProtected (s : State) (pa : Nat) : Bool := s.guardList.any fun r => r.1 ≤ pa && pa < r.1 + r.2

/-- The hub, stack or port behind an address is lost or down (R415 to R417). -/
def State.deadAt (s : State) (pa : Nat) : Bool :=
  match regionOf pa with
  | .cxl x _ => (s.hub x).lost || s.plan.cxlDown.contains x
  | .hbm => (s.hub (s.hubOf pa)).lost ||
      (match s.stackOf pa with | some m => s.plan.lostStacks.contains m | none => false)
  | _ => false

/-! ### Cross-hub parity (R399 to R402) -/

/-- Bytes of a block of a protected range. -/
def blk48 : Nat := 49152

/-- The parity group of granule j of a block: that of its hub and stripe (R400). -/
def groupOf (j : Nat) : Nat := (j % 4 + 1 + j / 4) % 4

/-- The three granules of a block in a group. -/
def groupMembers (k : Nat) : List Nat := (List.range 12).filter fun j => groupOf j == k

/-- The block that holds a protected address: its first byte, and its number among the blocks of all ranges, U_r + u. -/
def blockAt : List (Nat × Nat) → Nat → Nat → Option (Nat × Nat)
  | [], _, _ => none
  | r :: rs, n, pa => if r.1 ≤ pa ∧ pa < r.1 + r.2 then some (r.1 + (pa - r.1) / blk48 * blk48, n + (pa - r.1) / blk48) else blockAt rs (n + r.2 / blk48) pa

/-- The first byte of the block with a number. -/
def blockNo : List (Nat × Nat) → Nat → Option Nat
  | [], _ => none
  | r :: rs, n => if n < r.2 / blk48 then some (r.1 + blk48 * n) else blockNo rs (n - r.2 / blk48)

/-- The address in the parity area of the parity of a protected byte. -/
def State.parityAddr (s : State) (pa : Nat) : Option Nat :=
  match s.plan.dAreas.head?, blockAt s.guardList 0 pa with
  | some a, some (b, n) => some (a.1 + (4 * n + groupOf ((pa - b) / 4096)) * 4096 + (pa - b) % 4096)
  | _, _ => none

/-- The group of a protected granule has no other member on a lost part, and its parity is on none: it can be rebuilt (R402). -/
def State.rebuildable (s : State) (pa : Nat) : Bool :=
  match blockAt s.guardList 0 pa, s.parityAddr pa with
  | some (b, _), some q =>
    let j := (pa - b) / 4096
    !s.deadAt q && (groupMembers (groupOf j)).all fun i => i == j || !s.deadAt (b + 4096 * i)
  | _, _ => false

/-- Reads of the address are poisoned: the part behind it is lost and no parity serves it (R402, R415 to R417). -/
def State.lostAt (s : State) (pa : Nat) : Bool := s.deadAt pa && !s.rebuildable pa

/-- A byte range touches a lost place. -/
def State.lostIn (s : State) (pa n : Nat) : Bool :=
  if n = 0 then false
  else (List.range ((pa + n - 1) / 4096 - pa / 4096 + 1)).any fun i => s.lostAt (max pa ((pa / 4096 + i) * 4096))

/-- Sectors of a range that a read rebuilds from their groups (R402). -/
def State.rebuiltIn (s : State) (pa n : Nat) : Nat :=
  if n = 0 ∨ !(s.hubs.any (fun h => h.2.lost) || !s.plan.lostStacks.isEmpty) then 0 else
  ((List.range ((pa + n - 1) / 32 - pa / 32 + 1)).filter fun i =>
    let a := (pa / 32 + i) * 32
    regionOf a == .hbm && s.deadAt a && s.rebuildable a).length

/-- The poisoned 64-bit words of a range, by word number: those recorded, those with a double-bit error, and those of
lost places (R89, R398, R415) (DEDUCED, log 147). -/
def State.badWords (s : State) (pa n : Nat) : List Nat :=
  if n = 0 then [] else
  let w0 := pa / 8
  let k := (pa + n - 1) / 8 - w0 + 1
  let rec' := (Tab.within s.poison w0 k).map (·.1)
  let dbl := match regionOf pa with
    | .hbm => (((Tab.within s.upset (w0 / 4 * 4) (w0 % 4 + k)).filter fun e => e.2 == 2 && !(s.isProtected (e.1 * 8) && s.rebuildable (e.1 * 8))).flatMap fun e =>
        (List.range 4).map fun i => e.1 + i).filter fun w => w0 ≤ w && w < w0 + k
    | _ => ((Tab.within s.upset w0 k).filter fun e => e.2 == 2).map (·.1)
  let gone := if s.lostIn pa n then (List.range k).filterMap (fun i => if s.lostAt ((w0 + i) * 8) then some (w0 + i) else none) else []
  rec' ++ dbl ++ gone

/-- Byte o of the parity granule of group k of the block at b: the XOR of the group's three granules. -/
def State.parityByte (s : State) (b k o : Nat) : Byte := (groupMembers k).foldl (fun x j => x ^^^ s.mem.byte (b + 4096 * j + o)) 0

/-- A protected byte from the group's other two granules and its parity (R402) (DEDUCED, log 147). -/
def State.rebuilt (s : State) (b pa : Nat) : Byte :=
  let j := (pa - b) / 4096
  ((groupMembers (groupOf j)).filter fun i => i != j).foldl (fun x i => x ^^^ s.mem.byte (b + 4096 * i + (pa - b) % 4096))
    (s.parityByte b (groupOf j) ((pa - b) % 4096))

/-- A byte as its hub returns it: in the parity area the parity that the hubs keep, in a protected granule of a lost part what the group gives (R400 to R402) (DEDUCED, log 147). -/
def State.hubByte (s : State) (pa : Nat) : Byte :=
  match s.plan.dAreas.head? with
  | none => s.mem.byte pa
  | some a =>
    if a.1 ≤ pa ∧ pa < a.1 + a.2 then
      (match blockNo s.guardList ((pa - a.1) / 16384) with
       | some b => s.parityByte b ((pa - a.1) / 4096 % 4) ((pa - a.1) % 4096)
       | none => s.mem.byte pa)
    else if s.deadAt pa && s.rebuildable pa then
      (match blockAt s.guardList 0 pa with
       | some (b, _) => s.rebuilt b pa
       | none => s.mem.byte pa)
    else s.mem.byte pa

/-- A range as it is read. -/
def State.hubRead (s : State) (pa n : Nat) : List Byte :=
  if regionOf pa = .hbm ∧ (s.plan.dAreas.head?.any (fun a => decide (pa < a.1 + a.2 ∧ a.1 < pa + n)) ∨ s.hubs.any (fun h => h.2.lost) ∨ !s.plan.lostStacks.isEmpty) then
    (List.range n).map fun i => s.hubByte (pa + i)
  else s.mem.readN pa n

/-- The mark of a unit (R235). -/
def State.markAt (s : State) (unit : Nat) : Nat := Tab.look s.marks 0 unit

/-- The first non-zero mark among the units of a range (R236). -/
def State.markIn (s : State) (pa n : Nat) : Nat :=
  if n = 0 then 0 else
  match (Tab.within s.marks (pa / 64) ((pa + n - 1) / 64 - pa / 64 + 1)) with
  | [] => 0
  | e :: _ => e.2

/-! ### CRCs -/

/-- One bit step of a reflected CRC with this polynomial. -/
def crcRefl (poly v : Nat) : Nat → Nat
  | 0 => v
  | k + 1 => crcRefl poly (if v % 2 = 1 then (v / 2) ^^^ poly else v / 2) k

/-- CRC-32C of R251 over bytes, from the running register. -/
def crc32cRun (r : Word32) (bs : List Byte) : Word32 :=
  BitVec.ofNat 32 (bs.foldl (fun v b => crcRefl 0x82F63B78 (v ^^^ b.toNat) 8) r.toNat)

/-- CRC-32C of R251. -/
def crc32c (bs : List Byte) : Word32 := ~~~ (crc32cRun 0xFFFFFFFF bs)

/-- Bit steps of a most-significant-first CRC of width `w`. -/
def crcMsb (w poly v : Nat) : Nat → Nat
  | 0 => v
  | k + 1 => crcMsb w poly (if v / 2 ^ (w - 1) % 2 = 1 then ((v * 2) % 2 ^ w) ^^^ poly else v * 2) k

/-- The header check of R342: CRC-8, polynomial 0x07, initial value 0xFF. -/
def crc8 (bs : List Byte) : Byte := BitVec.ofNat 8 (bs.foldl (fun v b => crcMsb 8 0x07 (v ^^^ b.toNat) 8) 0xFF)

/-- The flit check of R356: CRC-64, initial value and final XOR all ones. -/
def crc64 (bs : List Byte) : Word :=
  ~~~ (BitVec.ofNat 64 (bs.foldl (fun v b => crcMsb 64 0x42F0E1EBA9EA3693 (v ^^^ (b.toNat <<< 56)) 8) (2 ^ 64 - 1)))

/-! ### Packets (R342 to R344) -/

/-- A packet with the fields a header always has; the rest zero (DESIGN CHOICE, log 18). -/
def packetOf (ty cls : Nat) (dst src : BitVec 16) (dstMod : Byte) (part : Nat) (tag : BitVec 16) (addr : Nat) (msg : Rec128)
    (payload : List Byte) : Packet where
  ptype := BitVec.ofNat 5 ty
  cls := BitVec.ofNat 3 cls
  esc := false
  dstEp := dst
  srcEp := src
  dstMod := dstMod
  srcMod := 0xFF
  part := BitVec.ofNat 4 part
  lenUnits := BitVec.ofNat 6 (ceilDiv payload.length 64)
  tag := tag
  addr := BitVec.ofNat 48 addr
  window := 0
  winGen := 0
  granule := 0
  gOff := 0
  last := false
  pieces := 0
  srcFmt := 0
  seq := 0
  rsv := 0
  msg := msg
  hops := 0
  hchk := 0
  payload := payload
  pcrc := 0

/-- The header unit of a packet as a number (R342), with the hop count and check given. -/
def pktHeader (p : Packet) (hops hchk : Nat) : Nat :=
  let b (v : Bool) : Nat := if v then 1 else 0
  p.ptype.toNat + p.cls.toNat * 2 ^ 5 + b p.esc * 2 ^ 8 + p.dstEp.toNat * 2 ^ 16 + p.srcEp.toNat * 2 ^ 32 +
  p.dstMod.toNat * 2 ^ 48 + p.srcMod.toNat * 2 ^ 56 + p.part.toNat * 2 ^ 64 + p.lenUnits.toNat * 2 ^ 68 +
  p.tag.toNat * 2 ^ 80 + p.addr.toNat * 2 ^ 96 + p.window.toNat * 2 ^ 144 + p.winGen.toNat * 2 ^ 147 +
  p.granule.toNat * 2 ^ 155 + p.gOff.toNat * 2 ^ 165 + b p.last * 2 ^ 170 + p.pieces.toNat * 2 ^ 171 +
  p.srcFmt.toNat * 2 ^ 177 + p.seq.toNat * 2 ^ 181 + p.msg.toNat * 2 ^ 200 + p.rsv.toNat * 2 ^ 328 % 2 ^ 496 +
  hops * 2 ^ 496 + hchk * 2 ^ 504

/-- The header check over bits [503:0] (R342). -/
def pktHcheck (p : Packet) : Byte := crc8 ((natLe 64 (pktHeader p p.hops.toNat 0)).take 63)

/-- The end-to-end check over the header unit and the payload units (R344). The check is formed by the source, before
any hop: over a header whose hop count, header check and `esc` are zero, which junctions change (DESIGN CHOICE, log 16). -/
def pktCheck (p : Packet) : Word32 :=
  crc32c (natLe 64 (pktHeader { p with esc := false } 0 0) ++ padTo (64 * p.lenUnits.toNat) p.payload)

/-- A packet with its checks filled in, as its source sends it (DESIGN CHOICE, log 16). -/
def pktFinish (p : Packet) : Packet :=
  let q := { p with hops := 0 }
  { q with hchk := pktHcheck q, pcrc := pktCheck q }

/-! ### Hub caches and notices (R240, R261 to R263) -/

/-- A set keeps at most `ways` lines of the CXL tier: the least recently used ones leave (R263). -/
def trimCxl (ways : Nat) (set : List Line) : List Line :=
  let gone := (((set.filter (·.cxl)).take ((set.filter (·.cxl)).length - ways)).map (·.line))
  set.filter fun l => !(l.cxl && gone.contains l.line)

/-- A line set with a line moved or entered under R262 and R263: `hc` 0 at the most recently used end, 1 at the least. -/
def touchSet (ways : Nat) (set : List Line) (line : Nat) (cxl wr : Bool) (hc : Nat) : List Line × Bool :=
  match set.find? (fun l => l.line == line) with
  | some l =>
    let rest := set.filter (fun x => x.line != line)
    let l' := { l with dirty := l.dirty || wr }
    ((if hc = 0 then rest ++ [l'] else if hc = 1 then l' :: rest else set.map fun x => if x.line = line then l' else x), true)
  | none =>
    if hc = 2 ∨ (cxl ∧ ways = 0) then (set, false) else
    let set1 := if cxl then trimCxl (ways - 1) set else set
    let set2 := if 16 ≤ set1.length then set1.drop 1 else set1
    let l : Line := { line := line, dirty := wr, cxl := cxl }
    ((if hc = 1 then l :: set2 else set2 ++ [l]), false)

/-- One line access at its hub, counted when the cache serves it (`0x70B0.04`), and when it reaches the memory behind the hub (`.05`); a write
of a whole line that the cache takes in does neither (R282). -/
def State.lineAccess (s : State) (pa : Nat) (wr whole : Bool) (hc : Nat) : State :=
  let h := s.hubOf pa
  let cxl := match regionOf pa with | .cxl .. => true | _ => false
  let drained := let k := Tab.look s.plate.latches 0 (8 + h); k == 1 || k == 2
  let hc := if cxl && (s.cfg 0x2060 1 == 0 || drained) then 2 else hc
  let key := (pa / 256) % 32768
  let r := touchSet (min 16 (s.cfg 0x2060 1)) (Tab.look (s.hub h).sets [] key) (pa / 256) cxl wr hc
  let t := s.updHub h fun hb => { hb with sets := Tab.put hb.sets [] key r.1 }
  if r.2 then t.bump 0x70B0 4 1
  else if wr && whole && r.1.any (fun l => l.line == pa / 256) then t
  else t.bump 0x70B0 5 1

/-- An access to a range of HBM or the CXL tier passes through its hub's cache, line by line (R261, R262). -/
def State.hubTouch (s : State) (pa n : Nat) (wr : Bool) (hc : Nat) : State :=
  match regionOf pa with
  | .hbm | .cxl .. =>
    if n = 0 then s else
    (List.range ((pa + n - 1) / 256 - pa / 256 + 1)).foldl (fun s i =>
      let l := (pa / 256 + i) * 256
      s.lineAccess l wr (decide (pa ≤ l) && decide (l + 256 ≤ pa + n)) hc) s
  | _ => s

/-! ### Reads and error correction (R88, R89) -/

/-- A read of a place with a latent error. In a scratchpad a single-bit error is counted and due to be written back; a double-bit error
poisons the word, once, and is counted and recorded (R88). An HBM sector is corrected or, in a protected range, rebuilt, written back and
counted; any other is delivered poisoned and counted (R397, R398). Both set the memory-fault flag (R495). -/
def State.resolveWord (s : State) (w : Nat) : State :=
  match regionOf (w * 8), Tab.look s.upset 0 w with
  | .hbm, 0 => s
  | .hbm, 1 => ({ s with upset := Tab.put s.upset 0 w 0 }).bump 0x5010 1 1
  | .hbm, _ =>
    if s.isProtected (w * 8) && s.rebuildable (w * 8) then ({ s with upset := Tab.put s.upset 0 w 0, boot := { s.boot with memFault := true } }).bump 0x5010 3 1
    else ({ s with upset := Tab.put s.upset 0 w 0, boot := { s.boot with memFault := true }, poison := (List.range 4).foldl (fun t i => Tab.put t false (w + i) true) s.poison }).bump 0x5010 2 1
  | _, v => match v with
  | 1 => ({ s with upset := Tab.put s.upset 0 w 3 }).bump 0x5020 1 1
  | 2 =>
    match regionOf (w * 8) with
    | .pad c off =>
      let t := ({ s with upset := Tab.put s.upset 0 w 0, poison := Tab.put s.poison false w true }).bump 0x5020 2 1
      let t := (t.setObj 0x5020 4 c).setObj 0x5020 5 (off / 2048)
      t.updCl c fun cl => if cl.badRows.contains (off / 2048) then cl else { cl with badRows := cl.badRows ++ [off / 2048] }
    | _ => { s with upset := Tab.put s.upset 0 w 0, poison := Tab.put s.poison false w true }
  | _ => s

/-! ### Watches (R239 to R243) -/

/-- Units that a range touches, from its first to its last. -/
def unitsOf (pa n : Nat) : List Nat := if n = 0 then [] else (List.range ((pa + n - 1) / 64 - pa / 64 + 1)).map fun i => pa / 64 + i

/-- A filter entry without a cluster; without any, no entry (R242). -/
def FiltEnt.without (e : FiltEnt) (c : Nat) : Option FiltEnt :=
  if e.many then some e
  else if (e.clusters.filter fun x => x != c).isEmpty then none
  else some { e with clusters := e.clusters.filter fun x => x != c }

/-- A cluster's part of a hub entry is cleared (R242). -/
def State.unfilter (s : State) (c region : Nat) : State :=
  s.updHub (s.hubOf (region * 4096)) fun hb =>
    { hb with filter := hb.filter.filterMap (fun e => if e.region = region then e.without c else some e) }

/-- The entry of the Turntable's input siding that a watch is of, while it is there. -/
def Cluster.slotOf (cl : Cluster) (w : Watch) : Option TileEntry :=
  w.slot.bind fun k => (Tab.look cl.st.tileQs {} 0x09).entries.find? fun e => e.ident == k

/-- Units of a watch that are still watched. -/
def State.liveUnits (s : State) (c : Nat) (w : Watch) : List Nat :=
  if w.slot.isSome then (if ((s.cl c).slotOf w).isSome then unitsOf w.dst w.len else [])
  else (unitsOf w.dst w.len).filter fun u => Tab.look s.watched false u && !w.past.contains u

/-- Watch entries none of whose units is still watched are freed (R242). -/
def State.sweepWatches (s : State) (c : Nat) : State :=
  let ws := (s.cl c).watches
  let keep := ws.filter fun w => !(s.liveUnits c w).isEmpty
  let gone := ((ws.filter fun w => !keep.contains w).map (·.region)).filter fun r => !keep.any fun w => w.region == r
  gone.foldl (fun s r => s.unfilter c r) (s.updCl c fun cl => { cl with watches := keep })

/-! ### Stores -/

/-- A write: physical address, bytes, the mark its data carries, and the poisoned words of its data, by offset / 8. -/
structure Wr where
  pa : Nat
  bytes : List Byte
  mark : Nat := 0
  marks : List (Nat × Nat) := []
  bad : List Nat := []
  /-- the station code of the writer within the scratchpad's cluster, 0xF for the control core and for what comes from outside (R87) -/
  who : Nat := 0xF
  deriving DecidableEq, Repr

/-- Whole items of size `k` that a range covers: the first and how many. -/
def wholeIn (pa n k : Nat) : Nat × Nat :=
  let a := ceilDiv pa k
  (a, (pa + n) / k - a)

/-- Rows `lo` to `lo + k - 1` of a row mask. -/
def rowMask (lo k : Nat) : BitVec 4096 := BitVec.ofNat 4096 ((2 ^ k - 1) * 2 ^ lo)

/-- 64-bit words of a chunk that an entry's mask covers whole, and those it covers in part. -/
def Coal.whole (e : Coal) : List Nat := (List.range 4).filter fun k => bits e.mask.toNat (8 * k) 8 == 255

def Coal.inPart (e : Coal) : List Nat := (List.range 4).filter fun k => bits e.mask.toNat (8 * k) 8 != 255 && bits e.mask.toNat (8 * k) 8 != 0

/-- Coalescing-buffer entries are written back (R86): a word that is covered in part is read first, with what a read finds (R88, R89). The bytes
of a narrow write are in memory from the moment it is made, which is what every reader sees; an entry records the write-back that is still due. -/
def State.coalOut (s : State) (c : Nat) (gone : Coal → Bool) : State :=
  let ws := ((s.cl c).coal.filter gone).flatMap fun e => e.inPart.map fun k => padOf c / 8 + 4 * e.chunk + k
  let t := (ws.filter fun w => decide (Tab.look s.upset 0 w ≠ 0)).foldl
    (fun s w => let t := s.resolveWord w; { t with upset := Tab.put t.upset 0 w 0 }) s
  t.updCl c fun cl => { cl with coal := cl.coal.filter fun e => !gone e }

/-- An entry's chunk meets a range of the scratchpad. -/
def Coal.meets (e : Coal) (off n : Nat) : Bool := off < 32 * e.chunk + 32 && 32 * e.chunk < off + n

/-- A narrow write merged into the entry of its chunk, or entered; a full entry is written back at once, and with eight held the oldest goes
first (R85, R86). Words that merged writes have covered whole lose their poison and latent errors (R89). -/
def State.coalMerge (s : State) (c off : Nat) (bs : List Byte) (who : Nat) : State :=
  let chunk := off / 32
  let o := off % 32
  let mask : BitVec 32 := BitVec.ofNat 32 ((2 ^ bs.length - 1) * 2 ^ o)
  match (s.cl c).coal.find? fun e => e.chunk == chunk with
  | some e =>
    let e' : Coal := { e with mask := e.mask ||| mask, data := e.data.take o ++ bs ++ e.data.drop (o + bs.length),
                              owners := if e.owners.contains who then e.owners else e.owners ++ [who] }
    let clear := e'.whole.map fun k => padOf c / 8 + 4 * chunk + k
    let t := { s with poison := s.poison.filter (fun x => !clear.contains x.1), upset := s.upset.filter fun x => !clear.contains x.1 }
    t.updCl c fun cl => { cl with coal := if e'.mask = BitVec.allOnes 32 then cl.coal.filter (fun x => x.chunk != chunk)
                                          else cl.coal.map fun x => if x.chunk = chunk then e' else x }
  | none =>
    let t := match (s.cl c).coal with
      | e0 :: _ => if 8 ≤ (s.cl c).coal.length then s.coalOut c (fun e => e.chunk == e0.chunk) else s
      | [] => s
    t.updCl c fun cl => { cl with coal := cl.coal ++ [{ chunk := chunk, data := List.replicate o 0 ++ bs ++ List.replicate (32 - o - bs.length) 0,
                                                        mask := mask, owners := [who] }] }

/-- The parts of a range that cover no whole chunk: offset and bytes. -/
def narrowParts (off n : Nat) : List (Nat × Nat) :=
  if n = 0 then [] else
  let b := off + n
  if off / 32 = (b - 1) / 32 then (if off % 32 = 0 ∧ n = 32 then [] else [(off, n)])
  else (if off % 32 = 0 then [] else [(off, 32 - off % 32)]) ++ (if b % 32 = 0 then [] else [(b / 32 * 32, b % 32)])

/-- Before a write, the entries of chunks that it covers whole are written back (R86). -/
def State.coalAhead (s : State) (pa n : Nat) : State :=
  match regionOf pa with
  | .pad c off =>
    let (c0, k) := wholeIn off n 32
    if (s.cl c).coal.any (fun e => c0 ≤ e.chunk && e.chunk < c0 + k) then s.coalOut c (fun e => c0 ≤ e.chunk && e.chunk < c0 + k) else s
  | _ => s

/-- The narrow parts of a write merge into the coalescing buffer or enter it (R85). -/
def State.coalStore (s : State) (c off : Nat) (bs : List Byte) (who : Nat) : State :=
  (narrowParts off bs.length).foldl (fun t p => t.coalMerge c p.1 ((bs.drop (p.1 - off)).take p.2) who) s

/-- What a write does beside the bytes (R86, R89, R235, R406): a write that covers a whole word clears its poison, a poisoned
word of the data stays poisoned; a unit wholly covered takes the mark of its data and loses its watched bit, one covered in part keeps both; the rows
written set `wr` and clear `fl`. -/
def State.storeSide (s : State) (w : Wr) : State :=
  let s := s.coalAhead w.pa w.bytes.length
  let n := w.bytes.length
  let (w0, k) := wholeIn w.pa n 8
  let (u0, ku) := wholeIn w.pa n 64
  let hit (b : Nat) : List Nat := if w.pa % 8 = 0 then [w.pa / 8 + b] else [w.pa / 8 + b, w.pa / 8 + b + 1]
  let poison := (w.bad.flatMap hit).foldl (fun t b => Tab.put t false b true) (Tab.clear s.poison w0 k)
  let s := { s with poison := poison, upset := Tab.clear s.upset w0 k }
  match regionOf w.pa with
  | .pad c off =>
    if n = 0 then s else
    let m0 := Tab.clear s.marks u0 ku
    let m1 := if w.mark = 0 then m0 else (List.range ku).foldl (fun t i => Tab.put t 0 (u0 + i) w.mark) m0
    let m2 := w.marks.foldl (fun t e => ((unitsOf (w.pa + 64 * e.1) (min 64 (n - 64 * e.1))).filter fun u => u0 ≤ u && u < u0 + ku).foldl (fun t u => Tab.put t 0 u e.2) t) m1
    let rm := rowMask (off / 2048) ((off + n - 1) / 2048 - off / 2048 + 1)
    ({ s with marks := m2, watched := Tab.clear s.watched u0 ku }.coalStore c off w.bytes w.who).updCl c
      fun cl => { cl with wr := cl.wr ||| rm, fl := cl.fl &&& ~~~rm }
  | _ => s

/-- A stale notice to a cluster, or with `lost` a lost-watch notice (R240, R343). -/
def noticePacket (h c region : Nat) (lost : Bool) : Packet :=
  pktFinish (packetOf 0x07 2 (BitVec.ofNat 16 c) (BitVec.ofNat 16 (0x2000 + h)) 0xFF 0 0 (region * 4096) (if lost then 1 else 0) [])

/-- A notice goes out, and its hub keeps it until its NOTICE_ACK (R344). -/
def State.sendNotice (s : State) (h c region : Nat) (lost : Bool) : State :=
  { s.emit (.packet (noticePacket h c region lost)) with kept := s.kept ++ [{ p := noticePacket h c region lost }] }

/-- Every active cluster. -/
def State.activeClusters (s : State) : List Nat := (s.clusters.filter fun e => e.2.stat == .active).map (·.1)

/-- A write to a region in the hub's filter: notices go out, the entry is removed, and the watchers are returned (R240). -/
def State.noticeRegion (s : State) (region : Nat) : State × List Nat :=
  let h := s.hubOf (region * 4096)
  match (s.hub h).filter.find? (fun e => e.region == region) with
  | none => (s, [])
  | some e =>
    let ws := if e.many then s.activeClusters else e.clusters
    let s := s.updHub h fun hb => { hb with filter := hb.filter.filter fun x => x.region != region }
    (ws.foldl (fun s c => s.sendNotice h c region false) s, ws)

/-- The regions of 4 KiB that a range touches. -/
def regionsOf (pa n : Nat) : List Nat :=
  if n = 0 then [] else (List.range ((pa + n - 1) / 4096 - pa / 4096 + 1)).map fun i => pa / 4096 + i

/-- The notices of a write to HBM or the CXL tier. -/
def State.noticeWrite (s : State) (pa n : Nat) : State :=
  match regionOf pa with
  | .hbm | .cxl .. => (regionsOf pa n).foldl (fun s r => (s.noticeRegion r).1) s
  | _ => s

/-- A store: the bytes, their side effects, the hub's cache and the stale notices (DEDUCED, log 9). -/
def State.storeRaw (s : State) (w : Wr) (hc : Nat := 0) : State :=
  let t := ((s.storeSide w).hubTouch w.pa w.bytes.length true hc).noticeWrite w.pa w.bytes.length
  { t with mem := s.mem.writeN w.pa w.bytes }

/-- A store that also frees the watch entries of units which it has overwritten (R242). -/
def State.store (s : State) (w : Wr) (hc : Nat := 0) : State :=
  let t := s.storeRaw w hc
  match regionOf w.pa with
  | .pad c _ => if (s.cl c).watches.isEmpty then t else t.sweepWatches c
  | _ => t

/-- Stores in order. -/
def State.storeAll (s : State) (ws : List Wr) : State := ws.foldl (fun s w => s.store w) s

/-- Bytes that the manual calls undefined: a free value in each place of a range, and nothing else (R6, R73) (DESIGN CHOICE, log 7). -/
def State.scramble (s : State) (pa n : Nat) : State :=
  { s with mem := s.mem.writeN pa ((List.range n).map fun i => Config.freeByte s.free (pa + i)), free := s.free + 1 }

/-! ### Reading (R86, R88, R261) -/

/-- The effects of reading a range: latent errors are resolved and the hub's cache is touched (DEDUCED, log 146). -/
def State.touch (s : State) (pa n : Nat) (hc : Nat := 0) : State :=
  if n = 0 then s else
  let first := match regionOf pa with | .hbm => pa / 32 * 4 | _ => pa / 8
  match regionOf pa with
  | .pad c off =>
    let t := if (s.cl c).coal.any (fun e => e.meets off n) then s.coalOut c (fun e => e.meets off n) else s
    ((Tab.within t.upset first ((pa + n - 1) / 8 - first + 1)).map (·.1)).foldl State.resolveWord t
  | _ =>
    let t := ((Tab.within s.upset first ((pa + n - 1) / 8 - first + 1)).map (·.1)).foldl State.resolveWord s
    let k := t.rebuiltIn pa n
    (if k = 0 then t else t.bump 0x5010 3 k).hubTouch pa n false hc

/-! ### Consumption and retained rows (R242, R289) -/

/-- Units consumed are watched no longer (R242). -/
def State.unwatch (s : State) (pa n : Nat) : State :=
  match regionOf pa with
  | .pad c _ =>
    if n = 0 || (s.cl c).watches.isEmpty then s
    else { s with watched := Tab.clear s.watched (pa / 64) ((pa + n - 1) / 64 - pa / 64 + 1) }.sweepWatches c
  | _ => s

/-- A consignment's watches end with it on a cluster (R242). -/
def State.endWatches (s : State) (c : Nat) : State :=
  if (s.cl c).watches.isEmpty then s
  else { s with watched := Tab.clear s.watched (padOf c / 64) (padSize / 64) }.sweepWatches c

/-- A refetch of a unit is pending: a consumer that meets it STALE stalls (R241). -/
def State.refetchingAt (s : State) (u : Nat) : Bool :=
  match padCluster (64 * u) with
  | some c => Tab.look s.watched false u && (s.cl c).watches.any fun w => w.pending && w.slot.isNone && (unitsOf w.dst w.len).contains u && !w.past.contains u
  | none => false

/-- A write would enter rows that a COMMIT retains; `exempt` is the consignment, if any, whose own writes may (R289). -/
def State.retainedAt (s : State) (pa n : Nat) (exempt : Option (Nat × Nat)) : Bool :=
  match regionOf pa with
  | .pad c off => s.parts.any fun (e : Nat × Part) => e.2.commit.any fun k =>
      exempt != some (e.1, k.seq) && k.retained.any fun (r : Nat × Nat × Nat) =>
        r.1 == c && decide (off < 2048 * (r.2.1 + r.2.2)) && decide (2048 * r.2.1 < off + n)
  | _ => false

/-! ### Status codes (R75, R78) -/

def stDone : Byte := 0x00
def stDoneWarn : Byte := 0x01
def stBusy : Byte := 0x10
def stXlate : Byte := 0x20
def stProtect : Byte := 0x21
def stToken : Byte := 0x22
def stNonfinite : Byte := 0x30
def stAborted : Byte := 0x50
def stDmaDropped : Byte := 0x60
def stOverlapRejected : Byte := 0x71
def stStale : Byte := 0x80
def stSpare : Byte := 0x90
def stDesc : Byte := 0xA0
def stTile : Byte := 0xA1
def stConsignment : Byte := 0xA2
def stTimetable : Byte := 0xA3
def stWaitTimeout : Byte := 0xA4
def stMaskEpoch : Byte := 0xA5
def stUncorrectable : Byte := 0xA6
def stFirmware : Byte := 0xFE

/-- The status of a consumed mark (R235). -/
def markStatus : Nat → Byte
  | 1 => stXlate
  | 2 => stProtect
  | _ => stStale

end Sys2Proof.Machine
end

