-- ==== Sys2Proof/Machine/Translate.lean ====
section
/-! DEFINITION. Translation and protection (R255 to R273), and the reads and writes of a station's work: a job gathers
what it reads and writes and how it fails; one operation then applies it. -/

namespace Sys2Proof.Machine

/-- Who translates: the cluster whose cached translations count, the partition and its latched registers (R271). -/
structure XCtx where
  cluster : Option Nat
  part : Nat
  xroot : Word
  xkeys : Word
  /-- a speculative run: its writes into `xpart` pages are held back (R301) -/
  spec : Bool := false
  deriving DecidableEq, Repr

/-- Not a status of the device: a job waits, as for the write of a speculative run that is held back until the decision (R301). -/
def stHold : Byte := 0xFF

/-- Two ranges overlap. -/
def overlaps (a n b m : Nat) : Bool := a < b + m && b < a + n && 0 < n && 0 < m

/-- The reach of translation: no byte of the page lies in a place of R257, an untested row (R493), region D, or a
protected range without its parity. -/
def State.reachable (s : State) (pa size : Nat) : Bool :=
  match regionOf pa, regionOf (pa + size - 1) with
  | .hbm, .hbm =>
    pa + size ≤ s.hbmLen &&
    (let r0 := (rowOf s.plan.rows 0 pa).map (·.1)
     let r1 := (rowOf s.plan.rows 0 (pa + size - 1)).map (·.1)
     match r0, r1 with
     | some a, some b => (List.range (b - a + 1)).all fun i => bit1 s.plan.rowsOk (a + i)
     | _, _ => false) &&
    !(s.plan.dAreas.any fun d => overlaps pa size d.1 d.2) &&
    (s.boot.parityReady || !(s.plan.ranges.any fun d => overlaps pa size d.1 d.2))
  | .pad _ _, .pad _ _ => true
  | .cxl x o, .cxl y _ => x == y && o + size ≤ Tab.look s.plan.cxlCap 0 x
  | _, _ => false

/-- The bytes of a page by level (R266). -/
def pageSize : Nat → Nat
  | 2 => 0x40000000
  | 3 => 0x200000
  | _ => 0x1000

/-- The index of a virtual address at a level (R266). -/
def pageIndex (va level : Nat) : Nat := bits va (48 - 9 * level) 9

/-- A leaf entry is valid at a level (R268). -/
def State.leafOk (s : State) (pte level : Nat) : Bool :=
  level ≠ 1 && bits pte 6 2 ≠ 3 && bits pte 52 4 = 0 &&
  (bits pte 16 36 * 4096) % pageSize level = 0 && s.reachable (bits pte 16 36 * 4096) (pageSize level)

/-- The walk from a table at a level: the leaf entry and its page size, or nothing when an entry is invalid (R268). -/
def State.walkFrom (s : State) (va : Nat) : Nat → Nat → Nat → Option (Nat × Nat)
  | 0, _, _ => none
  | fuel + 1, level, table =>
    let a := table + 8 * pageIndex va level
    let pte := leNat (s.mem.readN a 8)
    if !bit1 pte 0 || !(s.badWords a 8).isEmpty then none
    else if bit1 pte 1 then (if s.leafOk pte level then some (pte, pageSize level) else none)
    else if level = 4 ∨ bits pte 2 14 ≠ 0 ∨ bits pte 52 4 ≠ 0 then none
    else
      let next := bits pte 16 36 * 4096
      if next + 4096 ≤ s.hbmLen then s.walkFrom va fuel (level + 1) next else none

/-- The walk that XROOT gives for a virtual address (R266, R271). -/
def State.walk (s : State) (xroot : Word) (va : Nat) : Option (Nat × Nat) :=
  let r := xroot.toNat
  if !bit1 r 0 then none
  else if bits r 12 36 * 4096 + 4096 ≤ s.hbmLen then s.walkFrom va 4 1 (bits r 12 36 * 4096) else none

/-- The cached translation of a cluster's unit that an access uses, if any. One that the unit holds may have been evicted, or may be kept until an
invalidation drops it (R273): the choice is a free value (DESIGN CHOICE, log 8). Only one formed under the XROOT in force counts (R271). -/
def State.cachedLeaf (s : State) (x : XCtx) (va : Nat) : Option Tlb :=
  if !bit1 x.xroot.toNat 0 then none else
  match x.cluster with
  | none => none
  | some c =>
    match (s.cl c).tlb.find? (fun t => t.part == x.part && t.root == x.xroot && t.va ≤ va && va < t.va + t.size) with
    | none => none
    | some t => if Config.freeBool (s.free + va / 4096) then some t else none

/-- The leaf entry and page size that an access uses. -/
def State.leafFor (s : State) (x : XCtx) (va : Nat) : Option (Nat × Nat) :=
  match s.cachedLeaf x va with
  | some t => some (t.pte.toNat, t.size)
  | none => s.walk x.xroot va

/-- The addresses of the entries that a walk from a table reads. -/
def State.walkReads (s : State) (va : Nat) : Nat → Nat → Nat → List Nat
  | 0, _, _ => []
  | fuel + 1, level, table =>
    let a := table + 8 * pageIndex va level
    let pte := leNat (s.mem.readN a 8)
    if !bit1 pte 0 || bit1 pte 1 || level = 4 || decide (s.hbmLen < bits pte 16 36 * 4096 + 4096) then [a]
    else a :: s.walkReads va fuel (level + 1) (bits pte 16 36 * 4096)

/-- A walk by a translation unit: the cluster whose unit it is, `none` for that of a link die or of the commit unit, with its requester; partition, root,
virtual address. -/
structure Walk where
  c : Option Nat
  req : Nat := 0xF
  part : Nat
  root : Word
  va : Nat
  deriving DecidableEq, Repr

/-- Of cached translations, newest last, those that stay: the newest 2 048, and of the older ones the newest 16 of each requester (R270) (DEDUCED, log 120). -/
def tlbKeep : List Tlb → List Tlb
  | [] => []
  | t :: rest => if rest.length < 2048 || decide ((rest.filter fun o => o.req == t.req).length < 16) then t :: tlbKeep rest else tlbKeep rest

/-- A cached translation entered: it replaces those of the partition that it covers (R270) (DEDUCED, log 120). -/
def tlbEnter (l : List Tlb) (t : Tlb) : List Tlb :=
  let rest := l.filter fun o => !(o.part == t.part && o.va < t.va + t.size && t.va < o.va + o.size)
  (if rest.length < 2048 then rest else tlbKeep rest) ++ [t]

/-- A walk ends: its entries are read through their hubs' caches, under cache policy 0 (R261, R262, R270), it is counted, and a cluster's unit caches a
valid translation; an invalid one never is. -/
def State.walked (s : State) (w : Walk) : State :=
  let reads := if bits w.root.toNat 12 36 * 4096 + 4096 ≤ s.hbmLen && bit1 w.root.toNat 0 then s.walkReads w.va 4 1 (bits w.root.toNat 12 36 * 4096) else []
  let t := (reads.foldl (fun s a => s.touch a 8) s).bump 0x70B0 1 1
  match w.c, s.walk w.root w.va with
  | some c, some (pte, size) => t.updCl c fun cl =>
      { cl with tlb := tlbEnter cl.tlb { part := w.part, va := w.va / size * size, size := size, pte := BitVec.ofNat 64 pte, root := w.root, req := w.req } }
  | _, _ => t

/-- A walk serves the page of an address too: both lie in the page that it gives. -/
def State.walkServes (s : State) (w : Walk) (part : Nat) (root : Word) (a : Nat) : Bool :=
  w.part == part && w.root == root &&
  match s.walk w.root w.va with
  | some (_, size) => a / size == w.va / size
  | none => a / 4096 == w.va / 4096

/-- The walks that the translation of a range brings, beside those of `seen`, for a requester: one for each page that no cached translation and no
earlier walk serves. -/
def State.walksFor (s : State) (x : XCtx) (va n : Nat) (seen : List Walk := []) (req : Nat := 0xF) : List Walk :=
  if n = 0 ∨ !bit1 x.xroot.toNat 0 then [] else
  (List.range ((va + n - 1) / 4096 - va / 4096 + 1)).foldl (fun l i =>
    let a := (va / 4096 + i) * 4096
    if (s.cachedLeaf x a).isSome || decide (2 ^ 48 ≤ a) || (seen ++ l).any (fun w => s.walkServes w x.part x.xroot a) then l
    else l ++ [{ c := x.cluster, req := req, part := x.part, root := x.xroot, va := a }]) []

/-- The translation context of a partition's ledger, and of the link dies. -/
def State.ctxPart (s : State) (p : Nat) : XCtx := { cluster := none, part := p, xroot := (s.pt p).x.xroot, xkeys := (s.pt p).x.xkeys }

/-- A translated place: physical address, cache policy, guard bit. -/
structure Place where
  pa : Nat
  hc : Nat
  guard : Bool
  deriving DecidableEq, Repr

/-- Translation and protection of one address (R269, R272), and the refusal of a window whose cluster is not active (R91). -/
def State.xlate (s : State) (x : XCtx) (va : Nat) (wr : Bool) : Except Byte Place :=
  if 2 ^ 48 ≤ va then .error stXlate else
  match s.leafFor x va with
  | none => .error stXlate
  | some (pte, size) =>
    let pa := bits pte 16 36 * 4096 + va % size
    let key := bits pte 8 4
    if !(bits pte 12 4 == x.part || bit1 pte 5) then .error stProtect
    else if !(if wr then bit1 pte 3 else bit1 pte 2) then .error stProtect
    else if !bit1 x.xkeys.toNat (2 * key + (if wr then 1 else 0)) then .error stProtect
    else if x.spec && wr && bit1 pte 5 then .error stHold
    else match padCluster pa with
      | some c => if (s.cl c).stat = .active then .ok { pa := pa, hc := bits pte 6 2, guard := bit1 pte 4 } else .error stXlate
      | none => .ok { pa := pa, hc := bits pte 6 2, guard := bit1 pte 4 }

/-- A piece of a range: physical address, bytes, cache policy, guard bit. -/
structure Piece where
  pa : Nat
  n : Nat
  hc : Nat
  guard : Bool
  deriving DecidableEq, Repr

/-- A range translated page by page; it fails when any page fails (R272). Pages of 4 KiB suffice, since every page size
is a multiple. -/
def State.xlRange (s : State) (x : XCtx) (wr : Bool) : Nat → Nat → Nat → Except Byte (List Piece)
  | 0, _, _ => .ok []
  | fuel + 1, va, n =>
    if n = 0 then .ok [] else
    let k := min n (4096 - va % 4096)
    match s.xlate x va wr with
    | .error e => .error e
    | .ok p =>
      match s.xlRange x wr fuel (va + k) (n - k) with
      | .error e => .error e
      | .ok ps => .ok ({ pa := p.pa, n := k, hc := p.hc, guard := p.guard } :: ps)

/-- A virtual range translated. -/
def State.xl (s : State) (x : XCtx) (wr : Bool) (va n : Nat) : Except Byte (List Piece) :=
  s.xlRange x wr (n / 4096 + 2) va n

/-- What a job has done so far. -/
structure Acc where
  /-- page walks -/
  walks : List Walk := []
  /-- writes, newest first -/
  writes : List (Wr × Nat) := []
  /-- ranges read: physical address, bytes, cache policy -/
  reads : List (Nat × Nat × Nat) := []
  flags : Byte := 0
  bumps : List (Nat × Nat × Nat) := []
  /-- CRC-32C register and bytes of the bytes read and of the bytes written (R251) -/
  crcR : Word32 := 0xFFFFFFFF
  bytesR : Nat := 0
  crcW : Word32 := 0xFFFFFFFF
  bytesW : Nat := 0
  marked : Nat := 0
  /-- units whose mark is set without a write: physical range and mark (R237) -/
  setMarks : List (Nat × Nat × Nat) := []
  /-- packets to send -/
  outs : List Packet := []
  /-- physical ranges read as the source of the waybill (R52) -/
  srcs : List (Nat × Nat) := []
  /-- the same of a Turntable waybill by virtual address, and its destination writes; ranges written beside the destination (R223) -/
  vsrcs : List (Nat × Nat × Nat) := []
  vdsts : List (Nat × Nat × Nat) := []
  side : List (Nat × Nat) := []
  /-- the writer, as `Wr.who` names it, and its cluster -/
  who : Nat := 0xF
  home : Option Nat := none
  /-- the consignment for which it works -/
  owner : Option (Nat × Nat) := none
  /-- it has failed -/
  failed : Bool := false
  watches : List Watch := []
  /-- the tile that a failure is reported for (R74) -/
  i : Nat := 0
  j : Nat := 0
  deriving DecidableEq, Repr

/-- A station's work: it may fail with a status, and what it had done stands in the record (R72, R73). -/
abbrev Job := ExceptT Byte (StateM Acc)

namespace Job

/-- The record changed. -/
def note (f : Acc → Acc) : Job Unit := modify f

/-- Arithmetic flags raised (R36). -/
def flag (f : Byte) : Job Unit := note fun a => { a with flags := a.flags ||| f }

/-- A counter advanced. -/
def count (idx sub n : Nat) : Job Unit := note fun a => { a with bumps := a.bumps ++ [(idx, sub, n)] }

/-- The failure of a job. -/
def fail (st : Byte) : Job α := throw st

/-- A condition that fails the job. -/
def require (b : Bool) (st : Byte) : Job Unit := if b then pure () else throw st

/-- A result or its failure. -/
def lift : Except Byte α → Job α
  | .ok a => pure a
  | .error e => throw e

/-- A range translated, with the walks that it takes. -/
def xl (s : State) (x : XCtx) (wr : Bool) (va n : Nat) : Job (List Piece) := do
  note fun a => { a with walks := a.walks ++ s.walksFor x va n a.walks a.who }
  lift (s.xl x wr va n)

/-- What a job reads is the source of its waybill (R52). -/
def asSource (j : Job α) : Job α := do
  let k := (← get).reads.length
  let r ← j
  note fun a => { a with srcs := a.srcs ++ (a.reads.drop k).map fun r => (r.1, r.2.1) }
  pure r

/-- A fold whose steps may fail. -/
def fold (f : β → α → Job β) : β → List α → Job β
  | b, [] => pure b
  | b, x :: xs => do let b' ← f b x; fold f b' xs

/-- A job and what it comes to. -/
def attempt (j : Job α) : Job (Except Byte α) := fun a => (Except.ok (j.run a).1, (j.run a).2)

/-- Jobs that all run, whatever becomes of the others; of those that fail the lowest error code stands (R77). -/
def all : List (Job α) → Job (List α)
  | [] => pure []
  | j :: js => do
    let r ← attempt j
    let rs ← attempt (all js)
    match r, rs with
    | .ok x, .ok xs => pure (x :: xs)
    | .error e, .error e' => throw (if e' < e then e' else e)
    | .error e, .ok _ => throw e
    | .ok _, .error e' => throw e'

/-- A map whose steps may fail. -/
def map (f : α → Job β) : List α → Job (List β)
  | [] => pure []
  | x :: xs => do let y ← f x; let ys ← map f xs; pure (y :: ys)

end Job

/-- Bytes read, the poisoned 64-bit words among them by number from the word of the first byte, unit marks by number from the unit of the first
byte, how far into its unit the first byte lies, and the units whose refetch is pending. -/
structure Got where
  bytes : List Byte
  bad : List Nat
  marks : List (Nat × Nat)
  lead : Nat := 0
  pend : List Nat := []
  deriving DecidableEq, Repr

/-- One piece of a read, `off` bytes from its first byte, which lies `lead` bytes into its unit. -/
def State.gotPiece (s : State) (p : Piece) (lead off : Nat) : Got where
  bytes := s.hubRead p.pa p.n
  bad := (s.badWords p.pa p.n).map fun w => w - p.pa / 8 + (off + lead % 8) / 8
  marks := (match regionOf p.pa with
    | .pad .. => (Tab.within s.marks (p.pa / 64) ((p.pa + p.n - 1) / 64 - p.pa / 64 + 1)).map fun e => (e.1 - p.pa / 64 + (off + lead) / 64, e.2)
    | _ => [])
  lead := lead
  pend := (match regionOf p.pa with
    | .pad .. => ((Tab.within s.marks (p.pa / 64) ((p.pa + p.n - 1) / 64 - p.pa / 64 + 1)).filter fun e => e.2 == 3 && s.refetchingAt e.1).map fun e =>
        e.1 - p.pa / 64 + (off + lead) / 64
    | _ => [])

/-- What one piece found, followed by what the later ones found. -/
def Got.then (a b : Got) : Got := 
  { a with bytes := a.bytes ++ b.bytes, bad := a.bad ++ b.bad, marks := a.marks ++ b.marks, pend := a.pend ++ b.pend }

/-- Two reads of one object, the second a multiple of 64 bytes, `n`, after the first. -/
def Got.join (a b : Got) (n : Nat) : Got :=
  a.then { b with bad := b.bad.map (· + n / 8), marks := b.marks.map fun e => (e.1 + n / 64, e.2), pend := b.pend.map (· + n / 64) }

/-- What consuming a marked unit comes to: its status, or a wait for its refetch (R235, R241). -/
def Got.status (g : Got) (e : Nat × Nat) : Byte := if e.2 = 3 ∧ g.pend.contains e.1 then stHold else markStatus e.2

/-- Pieces read in order. -/
def State.gotFrom (s : State) (lead : Nat) : List Piece → Nat → Got
  | [], _ => { bytes := [], bad := [], marks := [], lead := lead }
  | p :: ps, off => (s.gotPiece p lead off).then (s.gotFrom lead ps (off + p.n))

/-- Pieces read in order, the first one at its place. -/
def State.gotPieces (s : State) (ps : List Piece) (off : Nat) : Got := s.gotFrom ((ps.head?.map (·.pa % 64)).getD 0) ps off

/-- A virtual range read by a station: translated, read, recorded. Nothing is consumed yet. -/
def readRaw (s : State) (x : XCtx) (va n : Nat) : Job Got := do
  let ps ← Job.xl s x false va n
  Job.note fun a => { a with reads := a.reads ++ ps.map fun p => (p.pa, p.n, p.hc) }
  pure (s.gotPieces ps 0)

/-- A virtual range read and consumed whole: a poisoned word or a marked unit fails the job (R89, R236) (DESIGN CHOICE, log 25). -/
def readVa (s : State) (x : XCtx) (va n : Nat) : Job (List Byte) := do
  let g ← readRaw s x va n
  match g.marks with
  | e :: _ => Job.fail (g.status e)
  | [] => if g.bad.isEmpty then pure g.bytes else Job.fail stUncorrectable

/-- The pieces of a write as stores. -/
def wrPieces : List Piece → List Byte → Nat → List (Nat × Nat) → List Nat → List (Wr × Nat)
  | [], _, _, _, _ => []
  | p :: ps, bs, off, marks, bad =>
    ({ pa := p.pa, bytes := bs.take p.n,
       marks := (marks.filter fun e => off / 64 ≤ e.1 && e.1 < (off + p.n + 63) / 64).map fun e => (e.1 - off / 64, e.2),
       bad := (bad.filter fun w => off / 8 ≤ w && w < (off + p.n + 7) / 8).map fun w => w - off / 8 }, p.hc)
      :: wrPieces ps (bs.drop p.n) (off + p.n) marks bad

/-- A write at translated pieces. A write to a lost place fails (R415 to R417). -/
def writePieces (s : State) (ps : List Piece) (bs : List Byte) (marks : List (Nat × Nat) := []) (bad : List Nat := []) : Job Unit := do
  Job.require (ps.all fun p => !s.lostIn p.pa p.n) stUncorrectable
  Job.note fun a => { a with writes := (wrPieces ps bs 0 marks bad).reverse ++ a.writes }

/-- A virtual range written by a station. -/
def writeVa (s : State) (x : XCtx) (va : Nat) (bs : List Byte) (marks : List (Nat × Nat) := []) (bad : List Nat := []) : Job Unit := do
  let ps ← Job.xl s x true va bs.length
  writePieces s ps bs marks bad

/-- A unit's mark set in a scratchpad range. -/
def State.markUnits (s : State) (pa n mark : Nat) : State :=
  match regionOf pa with
  | .pad .. => { s with marks := (unitsOf pa n).foldl (fun t u => Tab.put t 0 u mark) s.marks }
  | _ => s

/-- An open entry changed. -/
def State.updEntry (s : State) (p seq : Nat) (f : Entry → Entry) : State :=
  s.updPt p fun pt => { pt with entries := pt.entries.map fun e => if e.seq = seq then f e else e }

/-- What the work of a speculative run counts is kept with its entry, to be taken back if the run is discarded (R302) (DESIGN CHOICE, log 177). -/
def State.tally (s : State) (part seq : Nat) (bs : List (Nat × Nat × Nat)) : State :=
  if bs.isEmpty then s else s.updEntry part seq fun e => if e.spec then { e with spent := e.spent ++ bs } else e

/-- What the hubs and the translation units have counted since a state, for the work of a run (R282, R302). -/
def State.tallyHub (t s : State) (o : Option (Nat × Nat)) : State :=
  match o with
  | none => t
  | some (p, q) => t.tally p q ([1, 4, 5].filterMap fun k =>
      if t.obj 0x70B0 k - s.obj 0x70B0 k = 0 then none else some (0x70B0, k, t.obj 0x70B0 k - s.obj 0x70B0 k))

/-- A counter advanced by the work of a run. -/
def State.bumpFor (s : State) (o : Nat × Nat) (idx sub n : Nat) : State := (s.bump idx sub n).tally o.1 o.2 [(idx, sub, n)]

/-- A requester is granted a chunk: it loses its promotion (R83). Requesters: 1 to 6 in the order of R82, then 7 Intake, 8 Dispatch, 9 landing writes,
10 the control core (DESIGN CHOICE, log 132). -/
def State.granted (s : State) (c req : Nat) : State :=
  if (s.cl c).promoted.contains req then s.updCl c fun cl => { cl with promoted := cl.promoted.filter (· != req) } else s

/-- The requester that an access of a cluster's station or control core stands for (R82): 1 the Matrix Station's drain, 2 its operand reads. -/
def reqOf (who : Nat) (wr : Bool) : Nat := if who = 2 && wr then 1 else if who ≤ 1 then 7 + who else if who = 0xF then 10 else who

/-- The chunks of the own scratchpad that a job's reads and writes are granted (R83). -/
def Acc.grants (a : Acc) (c : Nat) : List Nat :=
  (if a.reads.any fun r => padCluster r.1 == some c then [reqOf a.who false] else []) ++
  (if a.writes.any fun w => padCluster w.1.pa == some c then [reqOf a.who true] else [])

/-- Rows of a cluster's scratchpad among ranges that hold a poisoned word (R412). -/
def State.poisonedRows (s : State) (c : Nat) (rs : List (Nat × Nat × Nat)) : List Nat :=
  ((rs.filter fun r => padCluster r.1 == some c).flatMap fun r =>
    (Tab.within s.poison (r.1 / 8) ((r.1 + r.2.1 - 1) / 8 - r.1 / 8 + 1)).map fun e => (e.1 - padOf c / 8) / 256).dedup

/-- A place whose writes a conflict filter sees: HBM or the CXL tier of this module (DEDUCED, log 210). -/
def watchable (pa : Nat) : Bool := match regionOf pa with | .hbm | .cxl .. => true | _ => false

/-- Watched regions that writes will touch, with their watchers, before the writes are made (R240). -/
def State.watchersOf (s : State) (ws : List (Nat × Nat)) : List (Nat × Nat × List Nat) :=
  ((ws.filter fun w => watchable w.1).flatMap fun w => regionsOf w.1 w.2).dedup.filterMap fun r =>
    let h := s.hubOf (r * 4096)
    ((s.hub h).filter.find? fun e => e.region == r).map fun e => (h, r, if e.many then s.activeClusters else e.clusters)

/-- Writes to watched regions are acknowledged to their writer once their notices are (R240) (DEDUCED, log 64). -/
def State.awaitAcks (s : State) (dst : BitVec 16) (mod : Byte) (tag : BitVec 16) (part : Nat) (ws : List (Nat × Nat × List Nat)) (who : Nat := 1) : State :=
  ws.foldl (fun s w => s.updHub w.1 fun hb => { hb with acks := hb.acks ++ [{ region := w.2.1, dst := dst, dstMod := mod, tag := tag, waiting := w.2.2, part := part, who := who }] }) s

/-- Writes of a cluster's station, or of its control core, are not acknowledged yet (R240). -/
def State.acksDue (s : State) (c who : Nat) : Bool := s.hubs.any fun h => h.2.acks.any fun a => a.dst.toNat == c && a.who == who && a.who != 1

/-- Stores by a cluster's station or control core: what they write to watched regions is acknowledged later (R240). -/
def State.storeBy (s : State) (c who part : Nat) (ws : List (Wr × Nat)) : State :=
  let due := if who = 1 then [] else s.watchersOf (ws.map fun w => (w.1.pa, w.1.bytes.length))
  (ws.foldl (fun s w => s.store { w.1 with who := who } w.2) s).awaitAcks (BitVec.ofNat 16 c) 0xFF 0 part due who

/-- A job's reads and writes take effect: reads touch what they read, and but for an access engine (`moves`) they consume it (R236);
writes are stored in order. -/
def State.settle (s : State) (a : Acc) (moves : Bool := false) : State :=
  let s0 := s
  let s : State := a.walks.foldl State.walked s
  let s : State := a.reads.foldl (fun s r => s.touch r.1 r.2.1 r.2.2) s
  let s : State := match a.home with
    | some c =>
      let s : State := (a.grants c).foldl (fun s q => s.granted c q) s
      if a.failed then s.updCl c fun cl => { cl with hitRows := s.poisonedRows c a.reads } else s
    | none => s
  let s : State := if moves then s else a.reads.foldl (fun s r => s.unwatch r.1 r.2.1) s
  let s : State := match a.home with
    | some c => s.storeBy c a.who ((a.owner.map (·.1)).getD 0) a.writes.reverse
    | none => a.writes.reverse.foldl (fun s w => s.store { w.1 with who := a.who } w.2) s
  let s : State := a.setMarks.foldl (fun s m => s.markUnits m.1 m.2.1 m.2.2) s
  let s : State := a.bumps.foldl (fun s b => s.bump b.1 b.2.1 b.2.2) s
  let s : State := match a.owner with | some o => s.tally o.1 o.2 a.bumps | none => s
  let s : State := s.tallyHub s0 a.owner
  a.outs.foldl (fun s p => s.emit (.packet p)) s

/-- What stands of a job that fails: it has walked, read and counted. -/
def Acc.upToFailure (a : Acc) : Acc :=
  { walks := a.walks, reads := a.reads, bumps := a.bumps, owner := a.owner, who := a.who, home := a.home, failed := true }

/-- The outcome of a job that waits: a held write, a STALE unit whose refetch is pending, or bytes that have not arrived (R64, R241, R301)
(DEDUCED, log 38). -/
def waits (r : Except Byte α) : Bool := match r with | .error e => e == stHold | .ok _ => false

/-- A job run from a state: its outcome and its record (DESIGN CHOICE, log 25, DEDUCED, log 148). -/
def Job.exec (j : Job α) : Except Byte α × Acc := (j.run).run {}

/-- A job would write into retained rows: it stalls (R289). -/
def Acc.retained (a : Acc) (s : State) (exempt : Option (Nat × Nat) := none) : Bool :=
  a.writes.any fun w => s.retainedAt w.1.pa w.1.bytes.length exempt

/-- What two lists of ranges have in common. -/
def rangesMeet (a b : List (Nat × Nat)) : List (Nat × Nat) :=
  a.flatMap fun x => b.filterMap fun y =>
    let lo := max x.1 y.1
    let hi := min (x.1 + x.2) (y.1 + y.2)
    if lo < hi then some (lo, hi - lo) else none

/-- Ranges whose bytes the manual calls undefined take free values (R52, R73) (DESIGN CHOICE, log 7). -/
def State.scrambleAll (s : State) (rs : List (Nat × Nat)) : State := rs.foldl (fun s r => s.scramble r.1 r.2) s

/-- The destination ranges a job has begun to write (R73). -/
def Acc.begun (a : Acc) : List (Nat × Nat) := a.writes.map fun w => (w.1.pa, w.1.bytes.length)

end Sys2Proof.Machine
end

