-- ==== Sys2Proof/Machine/Consign.lean ====
section
/-! DEFINITION. What the families share about consignments: the run on a cluster, failures and stops (R72 to R77),
counters and posts (R53), windows closing (R100), stage checkpoints (R405 to R407), events (R392), recovery records
(R411), the seal (R391) and the loss of power. -/

namespace Sys2Proof.Machine

/-! ### Runs and entries -/

/-- The translation context of a run on a cluster (R271). -/
def Run.ctx (r : Run) (c : Nat) : XCtx := { cluster := some c, part := r.part, xroot := r.xroot, xkeys := r.xkeys, spec := r.spec }

/-- The open entry with a sequence number. -/
def State.entry (s : State) (p seq : Nat) : Option Entry := (s.pt p).entries.find? fun e => e.seq == seq

/-- The scratchpads take accesses and the clusters' clocks may run: not in S2, and not in WAKE before the scrub is done. What comes for one waits in the
mesh (R102, R440, R441) (DESIGN CHOICE, log 175). -/
def State.padsOpen (s : State) : Bool := !(s.power.st == .s2 || s.power.st == .wake)

/-- A stopped cluster starts its PLL, and the wake is counted (R433). -/
def State.woken (s : State) (c : Nat) : State :=
  if (s.cl c).pll || (s.cl c).stat != .active || !s.padsOpen then s else (s.updCl c fun cl => { cl with pll := true }).bump 0x4801 1 1

/-- The run of a cluster changed. -/
def State.updRun (s : State) (c : Nat) (f : Run → Run) : State :=
  s.updCl c fun cl => { cl with run := cl.run.map f }

/-- The core of a cluster changed. -/
def State.updCore (s : State) (c : Nat) (f : Core → Core) : State :=
  s.updCl c fun cl => { cl with core := f cl.core }

/-- The stations of a cluster changed. -/
def State.updSt (s : State) (c : Nat) (f : Stations → Stations) : State :=
  s.updCl c fun cl => { cl with st := f cl.st }

/-- A window register of a cluster. -/
def State.win (s : State) (c w : Nat) : Win := Tab.look (s.cl c).wins {} w

/-- A window register changed. -/
def State.updWin (s : State) (c w : Nat) (f : Win → Win) : State :=
  s.updCl c fun cl => { cl with wins := Tab.put cl.wins {} w (f (Tab.look cl.wins {} w)) }

/-- A waybill siding by station code, oldest first (R70). -/
def State.siding (s : State) (c st : Nat) : List WbEntry := Tab.look (s.cl c).st.sidings [] st

/-- A waybill siding changed. -/
def State.updSiding (s : State) (c st : Nat) (f : List WbEntry → List WbEntry) : State :=
  s.updSt c fun x => { x with sidings := Tab.put x.sidings [] st (f (Tab.look x.sidings [] st)) }

/-- A tile siding by queue number (R60). -/
def State.tileQ (s : State) (c q : Nat) : TileQ := Tab.look (s.cl c).st.tileQs {} q

/-- A tile siding changed. -/
def State.updTileQ (s : State) (c q : Nat) (f : TileQ → TileQ) : State :=
  s.updSt c fun x => { x with tileQs := Tab.put x.tileQs {} q (f (Tab.look x.tileQs {} q)) }

/-- A tile siding holds 4 entries (R63). The depth of the Vector Station's output siding 0x0B, which the manual does not give, is that of the others
(DESIGN CHOICE, log 200). -/
def tileDepth : Nat := 4

/-- A channel register: 0 to 7 Intake, 8 to 15 Dispatch (R226). -/
def State.chan (s : State) (c k : Nat) : Chan := Tab.look (s.cl c).st.chans {} k

/-- A channel register changed. -/
def State.updChan (s : State) (c k : Nat) (f : Chan → Chan) : State :=
  s.updSt c fun x => { x with chans := Tab.put x.chans {} k (f (Tab.look x.chans {} k)) }

/-- A dependency counter (R53). -/
def State.dcOf (s : State) (c n : Nat) : Nat := Tab.look (s.cl c).dc 0 n

/-- A scalar register; s31 holds 0, and 1 in the clipping pass of a COMMIT (R57, R298). -/
def State.reg (s : State) (c : Nat) (r : Reg) : Word :=
  if r.toNat = 31 then
    (match (s.cl c).run with | some run => if run.clip then 1 else 0 | none => 0)
  else Tab.look (s.cl c).core.regs 0 r.toNat

/-- A window register of R93 as its 128 bits (DESIGN CHOICE, log 156). -/
def Win.word (w : Win) : Rec128 :=
  let b (v : Bool) (k : Nat) : Nat := if v then 2 ^ k else 0
  BitVec.ofNat 128 (w.base + w.size * 2 ^ 12 + b w.enable 24 + b w.postEn 25 + w.postCtr * 2 ^ 26 + w.part * 2 ^ 32 + w.gen * 2 ^ 36 +
    w.grantPtr * 2 ^ 64 + w.landPtr * 2 ^ 74 + w.freePtr * 2 ^ 84 + w.freeCnt * 2 ^ 94 + b w.closing 105)

/-- A channel register of R253 as its 128 bits (DESIGN CHOICE, log 156). -/
def Chan.word (k : Chan) : Rec128 :=
  let b (v : Bool) (n : Nat) : Nat := if v then 2 ^ n else 0
  BitVec.ofNat 128 (b k.disable 0 + b k.busy 1 + b k.lat 2 + k.prio % 8 * 2 ^ 3 + k.lastStatus.toNat * 2 ^ 8 + k.lastTag % 65536 * 2 ^ 16 +
    k.lastCrc.toNat * 2 ^ 32 + k.bytes % 2 ^ 48 * 2 ^ 64)

/-- A scalar register written; writes to s31 are discarded (R57). -/
def State.setReg (s : State) (c : Nat) (r : Reg) (v : Word) : State :=
  if r.toNat = 31 then s else s.updCore c fun k => { k with regs := Tab.put k.regs 0 r.toNat v }

/-- The counters of fault kinds (R282) (DEDUCED, log 134). -/
def faultCounts (st : Byte) : List (Nat × Nat × Nat) :=
  if st = stXlate then [(0x70B0, 2, 1)] else if st = stProtect then [(0x70B0, 3, 1)] else []

/-- A failure's kind is counted (DEDUCED, log 134). -/
def State.countFault (s : State) (st : Byte) : State := (faultCounts st).foldl (fun s b => s.bump b.1 b.2.1 b.2.2) s

/-! ### Token messages (R95) -/

/-- A token message from its fields. -/
def tokenMsg (ty w target count first gen part reason : Nat) (requester tag : BitVec 16) : Rec128 :=
  BitVec.ofNat 128 (ty + w * 2 ^ 4 + target * 2 ^ 8 + requester.toNat * 2 ^ 32 + count * 2 ^ 48 + first * 2 ^ 64 +
    gen * 2 ^ 80 + part * 2 ^ 88 + reason * 2 ^ 92 + tag.toNat * 2 ^ 96)

/-- A packet to another module names this module as its source by the number its partition's map gives it (R338). -/
def State.stamp (s : State) (p : Packet) : Packet :=
  if p.dstMod = 0xFF then p
  else match (s.pt p.part.toNat).fm with
    | some m => { p with srcMod := BitVec.ofNat 8 m.self }
    | none => p

/-- A packet leaves; its source keeps classes 0, 2 and 4 (R344). -/
def State.send (s : State) (p : Packet) : State :=
  let q := pktFinish (s.stamp p)
  let t := s.emit (.packet q)
  if q.cls = 0 ∨ q.cls = 2 ∨ q.cls = 4 then { t with kept := t.kept ++ [{ p := q }] } else t

/-- The module of a token target: a cluster of another module m stands as its index plus 65 536 × (m + 1). -/
def targetMod (target : Nat) : Byte := if target < 65536 then 0xFF else BitVec.ofNat 8 (target / 65536 - 1)

/-- Unused granted granules go back to their window (R72, R97), under a tag of the cluster's own. No packet answers a return: it is kept until a
later one of the same tag takes its place (R344) (DESIGN CHOICE, log 159). -/
def State.returnToken (s : State) (c : Nat) (part : Nat) (h : HeldToken) : State :=
  if h.count = 0 then s else
  let tag := (s.cl c).nextTag
  let m := tokenMsg 3 h.window (h.target % 65536) h.count h.first h.gen part 0 (BitVec.ofNat 16 c) tag
  let t := s.updCl c fun cl => { cl with nextTag := tag + 1 }
  let t := { t with kept := t.kept.filter fun k => !(k.p.srcEp.toNat == c && k.p.tag == tag && k.p.ptype == 0x05 && k.p.msg.toNat % 16 == 3) }
  t.send (packetOf 0x05 0 (BitVec.ofNat 16 h.target) (BitVec.ofNat 16 c) (targetMod h.target) part tag 0 m [])

/-- A kept packet is answered (R344): the packet of this source, tag and type is kept no longer. -/
def State.dropKept (s : State) (ep tag : BitVec 16) (ty : Nat) : State :=
  { s with kept := s.kept.filter fun k => !(k.p.srcEp == ep && k.p.tag == tag && k.p.ptype.toNat == ty) }

/-! ### Windows (R100) -/

/-- A closing window closes when `land_ptr` equals `grant_ptr`: no grant is outstanding (R100). -/
def Win.settleClose (w : Win) : Win :=
  if w.closing && w.granules.isEmpty then { w with closing := false, enable := false } else w

/-- Writing `enable` = 0 sets `closing` (R92, R100). `enable` reads 1 until the window has closed (DESIGN CHOICE, log 198). -/
def Win.close (w : Win) : Win := if w.enable then { w with closing := true } else w

/-- A token message that refuses: REFUSED with its reason to the writer, counted (R99). -/
def State.refuseToken (s : State) (c w count part reason : Nat) (requester tag : BitVec 16) (mod : Byte := 0xFF) : State :=
  (s.bump 0x5020 3 1).emit (.packet (pktFinish (s.stamp (packetOf 0x06 1 requester (BitVec.ofNat 16 c) mod part tag 0
    (tokenMsg 4 w c count 0 0 0 reason requester tag) []))))

/-- The queued token requests of windows that satisfy a condition are refused with reason 0x3 (R100). -/
def State.refuseQueued (s : State) (c : Nat) (f : Nat → Bool) : State :=
  let gone := (s.cl c).tokQ.filter fun q => f q.window
  let t := s.updCl c fun cl => { cl with tokQ := cl.tokQ.filter fun q => !f q.window }
  gone.foldl (fun t q => t.refuseToken c q.window q.count 0 3 q.requester q.tag q.mod) t

/-- Every open window of a cluster starts to close, as END and a failure require (R100). Closing takes effect with WINDOW_CLOSED. -/
def State.closeWindows (s : State) (c : Nat) : State :=
  (s.updCl c fun cl => { cl with wins := cl.wins.map fun (e : Nat × Win) => (e.1, e.2.close) }).refuseQueued c fun _ => true

/-- Every window of the cluster is closed. -/
def Cluster.winsClosed (cl : Cluster) : Bool := cl.wins.all fun e => !e.2.enable

/-! ### SERVICE packets between modules -/

/-- The commit unit's endpoint (R338). -/
def cuEp : BitVec 16 := 0x8000

/-- A SERVICE packet to another module of a partition's map: kind, pairing number, pass, and two words. The manual gives its `msg` no layout;
the model's is in the log (DESIGN CHOICE, log 15). -/
def servicePacket (kind part mod : Nat) (k : Nat) (clip : Bool) (a b : Word) : Packet :=
  packetOf 0x0D 3 cuEp cuEp (BitVec.ofNat 8 mod) part 0 0 (BitVec.ofNat 128 (kind + (if clip then 2 ^ 8 else 0) + k * 2 ^ 16)) (natLe 8 a.toNat ++ natLe 8 b.toNat)

/-- The other modules of a partition's map that satisfy a condition, by number. -/
def Part.others (pt : Part) (f : FEntry → Bool) : List Nat :=
  match pt.fm with
  | none => []
  | some m => (List.range m.entries.length).filter fun k => k != m.self && (m.entries[k]?).any f

/-- The commit group of a partition's own module: the other members (R291, R363). -/
def Part.groupPeers (pt : Part) : List Nat :=
  match pt.fm with
  | none => []
  | some m => pt.others fun e => (m.entries[m.self]?).any fun me => e.cgroup == me.cgroup

/-- A SERVICE packet to each of some modules. -/
def State.sendService (s : State) (kind part : Nat) (mods : List Nat) (k : Nat) (clip : Bool) (a b : Word) : State :=
  mods.foldl (fun s m => s.emit (.packet (pktFinish (s.stamp (servicePacket kind part m k clip a b))))) s

/-- A COMMIT in UPDATING or CLIPPING enters FAILED and contributes +0 and a saturated count in place of its values (R298, R313). -/
def State.commitFails (s : State) (p seq : Nat) : State :=
  match (s.pt p).commit with
  | some k =>
    if k.seq = seq ∧ (k.st = .updating ∨ k.st = .clipping) then
      (s.updPt p fun pt => { pt with commit := some { k with st := .failed } }).sendService 1 p (s.pt p).groupPeers k.pairing (k.st == .clipping) 0 (BitVec.allOnes 64)
    else s
  | none => s

/-! ### Stopping and failing (R72 to R74) -/

/-- Flags that join a consignment's word (R36) (DEDUCED, log 133). -/
def State.joinFlags (s : State) (part seq : Nat) (f : Byte) : State := s.updEntry part seq fun e => { e with flags := e.flags ||| f }

/-- The flags that the waybills of a run in a cluster's sidings have raised so far, those of tiles in the drain among them (R36); those of a coupled
entry are held back (R197). -/
def State.sidingFlags (s : State) (c : Nat) (r : Run) : Byte :=
  let v := (s.cl c).st.vec
  let tiles := ((s.cl c).st.drain ++ (s.cl c).st.sdrain).filter fun d => d.seq == r.seq
  (if v.saved.isNone then v.cur.flags else 0) ||| tiles.foldl (fun f d => d.acc.foldl (fun f x => f ||| x.2) (f ||| d.flags)) 0 ||| (s.cl c).st.sidings.foldl (fun f (e : Nat × List WbEntry) => e.2.foldl (fun f w => if w.part = r.part ∧ w.seq = r.seq then f ||| w.flags else f) f) 0

/-- A consignment stops on a cluster (R72): the timetable stops, its waybills leave every siding, held tokens are
returned, windows close, pending refetches end; when it fails, the bytes its waybills had begun to write become undefined (R73) (DEDUCED, log 133). -/
def State.stopOn (s : State) (c : Nat) (failed : Bool) : State :=
  match (s.cl c).run with
  | none => s
  | some r =>
    if r.stopped then s else
    let t := s.joinFlags r.part r.seq (s.sidingFlags c r)
    let t := if failed then t.scrambleAll r.begun else t
    let t := (s.cl c).held.foldl (fun s h => s.returnToken c r.part h) t
    let t := t.endWatches c
    (t.updCl c fun cl =>
      { cl with
        run := cl.run.map fun r => { r with stopped := true, begun := [] }
        held := [], tokWait := [], watches := [], sendQ := []
        core := { cl.core with stall := none }
        st := { cl.st with
          sidings := (cl.st.sidings.map fun e => (e.1, e.2.filter fun w => !(w.part == r.part && w.seq == r.seq))).filter fun e => !e.2.isEmpty
          drain := cl.st.drain.filter fun d => d.seq != r.seq
          sdrain := cl.st.sdrain.filter fun d => d.seq != r.seq
          tileQs := (cl.st.tileQs.map fun (e : Nat × TileQ) => (e.1, { e.2 with entries := [] })).filter fun e => decide (e.2 ≠ {})
          chans := (cl.st.chans.map fun (e : Nat × Chan) => (e.1, { e.2 with busy := false, lat := false, prio := 0 })).filter fun e => decide (e.2 ≠ {})
          heldRecs := []
          pend := [], addHeld := []
          vec := { cl.st.vec with cur := {}, saved := none } } }).closeWindows c

/-- A failure is reported and the consignment stops on its cluster (R72, R74). A failed waybill of a COMMIT in UPDATING or
CLIPPING brings the COMMIT to FAILED (R298). A speculative consignment's report waits with its entry (R302). -/
def State.failRun (s : State) (c : Nat) (f : Failure) : State :=
  match (s.cl c).run with
  | none => s
  | some r =>
    let t := (s.updEntry r.part r.seq fun e => { e with fails := e.fails ++ [f] }).countFault f.status
    let t := t.tally r.part r.seq (faultCounts f.status)
    let t := if r.commit then t.commitFails r.part r.seq else t
    t.stopOn c true

/-- A failure of the control core: station code 0xF, tag 0, both indices all-ones (R53, R61). -/
def State.failCore (s : State) (c : Nat) (st : Byte) : State :=
  s.failRun c { status := st, cluster := c, station := 0xF, wbTag := 0, i := 0xFFFF, j := 0xFFFF }

/-- A post to a dependency counter; at 65 535 the report given is raised as TIMETABLE_FAULT (R53). -/
def State.post (s : State) (c n : Nat) (station tag i j : Nat) : State :=
  if s.dcOf c n = 65535 then
    s.failRun c { status := stTimetable, cluster := c, station := station, wbTag := tag, i := i, j := j }
  else s.updCl c fun cl => { cl with dc := Tab.put cl.dc 0 n (Tab.look cl.dc 0 n + 1) }

/-- A post reported as a POST of the control core is. -/
def State.postCore (s : State) (c n : Nat) : State := s.post c n 0xF 0 0xFFFF 0xFFFF

/-! ### Stage checkpoints (R405 to R407) -/

/-- The checkpoint slot of a role (R405) (DESIGN CHOICE, log 27). -/
def State.ckptSlot (s : State) (role : Nat) : Option Nat :=
  match s.plan.dAreas[1]? with
  | some a => if a.2 = 0 then none else some (a.1 + role * 0x1004000)
  | none => none

/-- The copy, 0 or 1, that the index in force names for a row (R405). -/
def State.ckptNamed (s : State) (slot row : Nat) : Nat :=
  let half := bits (leNat (s.mem.readN (slot + 0x400) 8)) 0 1
  bits ((s.mem.byte (slot + half * 0x200 + row / 8)).toNat) (row % 8) 1

/-- Where a copy of a row lies (R405) (DESIGN CHOICE, log 27). -/
def ckptRow (slot copy row : Nat) : Nat := slot + 0x4000 + copy * 0x800000 + row * 2048

/-- The rows of a mask, in increasing order. -/
def rowsOfMask (m : BitVec 4096) : List Nat := (List.range 4096).filter fun i => m.getLsbD i

/-- The carried rows of a partition on a cluster with `wr` set. -/
def Cluster.dirtyRows (cl : Cluster) (part : Nat) : List Nat :=
  rowsOfMask (Tab.look cl.carried 0 part &&& cl.wr)

/-- A row is read and copied to the copy that the index does not name, and `fl` is set (R86, R88, R406). -/
def State.flushRow (s : State) (c slot row : Nat) : State :=
  let n := s.ckptNamed slot row
  let pa := padOf c + row * 2048
  let s := s.touch pa 2048
  let t := s.store { pa := ckptRow slot (1 - n) row, bytes := s.mem.readN pa 2048, bad := (s.badWords pa 2048).map fun w => w - pa / 8 }
  t.updCl c fun cl => { cl with fl := cl.fl ||| rowMask row 1 }

/-- The background flush of R406: every carried row written and not flushed. -/
def State.flushRows (s : State) (c part : Nat) : State :=
  match (s.cl c).role with
  | none => s
  | some role =>
    match s.ckptSlot role with
    | none => s
    | some slot =>
      let rows := (rowsOfMask (Tab.look (s.cl c).carried 0 part &&& (s.cl c).wr &&& ~~~ (s.cl c).fl))
      let t := rows.foldl (fun s r => s.flushRow c slot r) s
      t.updCl c fun cl => { cl with sinceFlush := 0 }

/-- The checkpoint of END (R406): the rows left are flushed, the other index half names the new copies, then the control
word is written with the sequence number, and the rows' bits are cleared. -/
def State.commitCkpt (s : State) (c part seq : Nat) : State :=
  match (s.cl c).role with
  | none => s
  | some role =>
    match s.ckptSlot role with
    | none => s
    | some slot =>
      let rows := (s.cl c).dirtyRows part
      let t := s.flushRows c part
      let half := bits (leNat (s.mem.readN (slot + 0x400) 8)) 0 1
      let old := leNat (s.mem.readN (slot + half * 0x200) 512)
      let new := rows.foldl (fun v r => if bit1 v r then v - 2 ^ r else v + 2 ^ r) old
      let maps := (List.range 16).foldl (fun s p =>
        s.store { pa := slot + 0x1000 + p * 512, bytes := natLe 512 (Tab.look (s.cl c).carried 0 p).toNat }) t
      let t := maps.store { pa := slot + (1 - half) * 0x200, bytes := natLe 512 new }
      let t := t.store { pa := slot + 0x400, bytes := natLe 8 ((1 - half) + seq * 2 ^ 16) }
      let m := rows.foldl (fun m r => m ||| rowMask r 1) (0 : BitVec 4096)
      t.updCl c fun cl => { cl with wr := cl.wr &&& ~~~ m, fl := cl.fl &&& ~~~ m }

/-- A row read back from its committed copy (R407). -/
def State.restoreRow (s : State) (c slot row : Nat) : State :=
  let pa := ckptRow slot (s.ckptNamed slot row) row
  s.store { pa := padOf c + row * 2048, bytes := s.mem.readN pa 2048, bad := (s.badWords pa 2048).map fun w => w - pa / 8 }

/-- The restoration before a rerun on a cluster that kept its contents (R407): dirty carried rows come back and their bits are cleared. -/
def State.restoreDirty (s : State) (c part : Nat) : State :=
  match (s.cl c).role with
  | none => s
  | some role =>
    match s.ckptSlot role with
    | none => s
    | some slot =>
      let rows := (s.cl c).dirtyRows part
      let t := rows.foldl (fun s r => s.restoreRow c slot r) s
      let m := rows.foldl (fun m r => m ||| rowMask r 1) (0 : BitVec 4096)
      t.updCl c fun cl => { cl with wr := cl.wr &&& ~~~ m, fl := cl.fl &&& ~~~ m }

/-- The restoration of a spare that takes a role (R407): the carried maps come from the slot, and every carried row of every partition comes back. -/
def State.restoreAll (s : State) (c : Nat) : State :=
  match (s.cl c).role with
  | none => s
  | some role =>
    match s.ckptSlot role with
    | none => s
    | some slot =>
      let mapOf (p : Nat) : BitVec 4096 := BitVec.ofNat 4096 (leNat (s.mem.readN (slot + 0x1000 + p * 512) 512))
      let t := s.updCl c fun cl => { cl with carried := (List.range 16).foldl (fun t p => Tab.put t 0 p (mapOf p)) [] }
      let all := (List.range 16).foldl (fun m p => m ||| mapOf p) (0 : BitVec 4096)
      let t := (rowsOfMask all).foldl (fun s r => s.restoreRow c slot r) t
      t.updCl c fun cl => { cl with wr := 0, fl := 0 }

/-- After a failure on a poisoned word, its row is rewritten from the committed copy if it is carried and the copy reads clean (R412). -/
def State.repairRows (s : State) (c part : Nat) : State :=
  match (s.cl c).role with
  | none => s
  | some role =>
    match s.ckptSlot role with
    | none => s
    | some slot =>
      let carried := Tab.look (s.cl c).carried 0 part
      (s.cl c).hitRows.foldl (fun s r =>
        if carried.getLsbD r && (s.badWords (ckptRow slot (s.ckptNamed slot r) r) 2048).isEmpty then s.restoreRow c slot r else s) s

/-- Tiles written by a cluster's stations, towards the checkpoint interval (R406). -/
def State.tilesWritten (s : State) (c n : Nat) : State :=
  s.updCl c fun cl => { cl with sinceFlush := cl.sinceFlush + n }

/-! ### Interrupts, events, recovery records (R386, R392, R411) -/

/-- An MSI under an IRQ register's fields; those aimed at a lost host die are dropped (R419). -/
def State.msiFor (s : State) (irq : Word) : State :=
  let hart := bits irq.toNat 0 7
  if bit1 irq.toNat 18 ∧ !(s.boot.hostsLost.contains (hart / 64)) then s.emit (.msi hart (bits irq.toNat 7 11)) else s

/-- A module event record (R392). A full log, or a place that R374 does not allow, counts the discarded event (DEDUCED, log 102). -/
def State.event (s : State) (code part arg0 : Nat) : State :=
  let k := bits s.evt.base.toNat 0 5
  let n := 2 ^ k
  let at0 := bits s.evt.base.toNat 12 36 * 4096
  if k < 6 ∨ 16 < k ∨ at0 < s.plan.carve ∨ s.hbmLen < at0 + 32 * n ∨ n ≤ (s.evt.head + 2 ^ 32 - s.evt.tail) % 2 ^ 32 then s.bump 0x5803 0x11 1 else
  let h := s.evt.head
  let lap := if (h / n) % 2 = 0 then 1 else 0
  let word0 := code + part * 2 ^ 16 + lap * 2 ^ 20
  let t := s.store { pa := at0 + 32 * (h % n), bytes := natLe 8 word0 ++ natLe 8 arg0 ++ natLe 16 0 }
  let t := { t with evt := { t.evt with head := (h + 1) % 2 ^ 32 } }
  if s.evt.tail = h then t.msiFor s.evt.irq else t

/-- ASCII text as bytes. -/
def asciiBytes (t : String) : List Byte := t.toList.map fun ch => BitVec.ofNat 8 ch.toNat

/-- A number in decimal digits. -/
def digits (n : Nat) : List Byte := asciiBytes (toString n)

/-- The last fault code of the display (R517). -/
def State.faultCode (s : State) (code : List Byte) : State := { s with plate := { s.plate with fault := code, faulted := true } }

/-- A recovery record is posted, stops its partitions until it is acknowledged, and is counted (R410, R411, R426). Before L1
the fault is only recorded (R504) (DEDUCED, log 191). -/
def State.postRecord (s : State) (kind failed : Nat) (repl : Option Nat) (parts : List Nat) : State :=
  let no := s.recov.next % 65536
  let sub := if kind ≤ 2 then 1 else if kind = 3 then 2 else 3
  let t := if kind ≤ 5 then s.bump 0x5000 sub 1 else s
  let t := (t.setObj 0x5000 8 kind).faultCode (asciiBytes "F" ++ digits kind ++ asciiBytes ":" ++ digits failed)
  if s.boot.stage ≠ .l1 ∧ s.boot.stage ≠ .l2 then t else
  let t := { t with recov := { t.recov with
    recs := t.recov.recs ++ [{ kind := kind, failed := failed, repl := repl, parts := parts, no := no }], next := (no + 1) % 65536 } }
  let t := parts.foldl (fun s p => s.updPt p fun pt => { pt with stops := pt.stops ++ [no] }) t
  if s.recov.recs.isEmpty then t.msiFor s.recov.irq else t

/-- The sample of a partition that is still due on a cluster is abandoned (R304). -/
def State.dropDrift (s : State) (c p : Nat) : State :=
  if (s.cl c).driftDue.any fun q => q.part == p then (s.updCl c fun cl => { cl with driftDue := cl.driftDue.filter fun q => q.part != p }).bump 0x5070 5 1 else s

/-- The samples of a partition that are still due are abandoned. -/
def State.dropDrifts (s : State) (p : Nat) : State := (s.clusters.map (·.1)).foldl (fun s c => s.dropDrift c p) s

/-- A spare is exhausted (R423). -/
def State.exhaust (s : State) : State :=
  ((s.bump 0x5000 5 1).setObj 0x5000 6 1).faultCode (asciiBytes "SX")

/-- A run leaves a cluster at once, without a report; its windows close under R100. -/
def State.clearRun (s : State) (c : Nat) : State := (s.stopOn c false).updCl c fun cl => { cl with run := none }

/-- An entry's run leaves every cluster it is on. -/
def State.clearEntry (s : State) (p : Nat) (e : Entry) : State :=
  e.clusters.foldl (fun s c => if (s.cl c).run.any (fun r => r.part == p && r.seq == e.seq) then s.clearRun c else s) s

/-- A running consignment stops to be run again: nothing is reported, it stays RUNNING (R410); a COMMIT is back in UPDATING, without values, and retains its
buffers (R289, R298). One that
the host aborts, or that has failed with FIRMWARE_ERROR or by two checksum verdicts, only stops (R75, R412) (DEDUCED, log 179). -/
def State.stopEntry (s : State) (p : Nat) (e : Entry) : State :=
  if e.abort ∨ e.fails.any (fun f => f.status == stFirmware) ∨ !e.twice.isEmpty then (s.clearEntry p e).updEntry p e.seq fun e => { e with ended := e.clusters, todo := [] } else
  let t := (s.clearEntry p e).updEntry p e.seq fun e => { e with rerun := true, fails := [], flags := 0, ended := [], todo := [], flips := [] }
  t.updPt p fun pt => { pt with commit := pt.commit.map fun k =>
    if k.seq = e.seq then { k with st := .updating, clipped := false, cvals := [], stepped := [] } else k }

/-- The running consignments of a partition that satisfy a condition stop to be run again (R410). A COMMIT that awaits its gate, or whose gate
has decided, is not touched (R414) (DEDUCED, log 136). -/
def State.stopForRerun (s : State) (p : Nat) (uses : Entry → Bool) : State :=
  let es := (s.pt p).entries.filter fun e => e.st == .running && uses e && !e.done &&
    !((s.pt p).commit.any fun k => k.seq == e.seq && k.st != .updating && k.st != .clipping)
  es.foldl (fun s e => s.stopEntry p e) s

/-- The partitions that hold a RUNNING entry which satisfies a condition (DEDUCED, log 135). -/
def State.partsUsing (s : State) (uses : Entry → Bool) : List Nat :=
  (List.range 16).filter fun p => (s.pt p).entries.any fun e => e.st == .running && uses e

/-- The floor plan changes: its generation advances (R499). -/
def State.planChanged (s : State) : State := s.bump 0x3000 5 1

/-! ### The seal (R391) and the loss of power (R429, R438, R446) -/

/-- The ledger partner is enabled (`0x2110.01`). -/
def State.hasPartner (s : State) : Bool := s.cfg 0x2110 1 == 1

/-- A partner port is up with the partner's identity behind it (R359, R391). -/
def State.partnerUp (s : State) : Bool :=
  (List.range 32).any fun p => bit1 (s.cfg 0x2110 3) p && (s.port p).st == .up && (s.port p).mode == 0 && !(s.link (p / 4)).lost &&
    (s.port p).peer == some (BitVec.ofNat 64 (s.cfg 0x2110 2))

/-- W2: appends return BUSY, records are held; the open entries go to the partner. -/
def State.sealStart (s : State) : State :=
  if s.hasPartner ∧ !s.boot.sealed then
    { s with boot := { s.boot with sealed := true, sealAck := false } }.emit .ledgerSeal
  else s

/-- W3: the partner holds every partition's sequence counter, W and open entries. -/
def State.sealTaken (s : State) : State :=
  let snap := (List.range 16).map fun p => (p, (s.pt p).nextSeq, (s.pt p).w, (s.pt p).entries)
  (({ s with boot := { s.boot with sealAck := true, atPartner := snap } }.setObj 0x5808 1 2).bump 0x5808 2 1).event 7 15 0

/-- W4, released: the seal ends and appends resume. -/
def State.sealEnd (s : State) : State :=
  if s.boot.sealed then
    { s with boot := { s.boot with sealed := false, sealAck := false, atPartner := [] } }.setObj 0x5808 1 1
  else s

/-- Objects whose value survives the loss of power (R479 and the objects' own tables). -/
def persistentKeys : List Nat :=
  [objKey 0x1101 1, objKey 0x1101 2, objKey 0x1800 5, objKey 0x5000 7, objKey 0x4020 7, objKey 0x8000 6, objKey 0x8000 7,
   objKey 0x5000 6, objKey 0x5805 1, objKey 0x9000 3, objKey 0x9000 5, objKey 0x9002 1, objKey 0x9005 1]

/-- Everything that only the running dies hold is lost: scratchpads, HBM, caches, queues, partitions, link and mesh state
(R103, R437). What lies in the CXL tier is the devices' own; the AOC, the security die, the management port and the service bus keep theirs, and the
counts of R327 theirs (R435). A ledger not at the partner is lost and its bit set (R391) (DEDUCED, log 140). -/
def State.dropVolatile (s : State) : State :=
  let lost := (List.range 16).filter fun p => !(s.pt p).entries.isEmpty || (s.pt p).nextSeq != 1
  let bitsLost := if s.boot.sealAck then 0 else lost.foldl (fun v p => v ||| 2 ^ p) 0
  let t := { s with
    mem := s.mem.filter fun e => 0x100000000000 ≤ e.1
    poison := s.poison.filter fun e => 0x100000000000 ≤ e.1 * 8
    upset := [], marks := [], watched := [], clusters := [], dies := [], hubs := [], links := [], ports := []
    parts := Tab.mapV (s.parts.filter fun (e : Nat × Part) => e.2.counted) {} fun _ => { counted := true }
    kept := [], mailToHost := {}, evt := {}, recov := {}
    sec := { s.sec with debugMask := 0, mgmtKey := [], attKey := [] }
    boot := { s.boot with stage := .off, sealed := false, hostReady := false, cxlDone := false, tested := [], topFirst := false,
                          parityReady := false, heldEnables := [], hostsLost := [],
                          atPartner := if s.boot.sealAck then s.boot.atPartner else [] } }
  t.setObj 0x5805 1 ((s.obj 0x5805 1) ||| bitsLost)

/-- The state S0 or S1 as it is reported: S1 when every cluster PLL is stopped (R437). -/
def State.pstate (s : State) : Nat :=
  match s.power.st with
  | .s0 => if s.clusters.all (fun e => !e.2.pll || e.2.stat == .failed || e.2.stat == .fusedOff) && !s.clusters.isEmpty then 1 else 0
  | .s1 => 1
  | .s2 => 2
  | .s3 => 3
  | .enterS2 => 5
  | .wake => 6
  | .enterS3 => 7
  | .s5 => 4

/-- The number of thousandths in an F32 value, rounded down; 0 when it is negative, zero or not finite. -/
def f32Milli (w : Nat) : Nat :=
  let e := bits w 23 8
  let m := if e = 0 then bits w 0 23 else bits w 0 23 + 2 ^ 23
  let e' := max e 1
  if bit1 w 31 ∨ e = 255 then 0
  else if 150 ≤ e' then m * 1000 * 2 ^ (e' - 150) else m * 1000 / 2 ^ (150 - e')

/-- Water-equivalent flow: `0x4020.09`, or the measured flow when that is 0 (R442). -/
def State.waterFlow (s : State) : Nat :=
  let f := f32Milli (s.cfg 0x4020 9)
  if s.cfg 0x4020 9 = 0 then s.power.flow else f

/-- An octet or text object's value. -/
def State.octs (s : State) (idx sub : Nat) : List Byte := Tab.look s.dict.octs [] (objKey idx sub)

/-- The attention text of the panel. -/
def State.attentionText (s : State) : List Byte :=
  match s.plate.attention with
  | 1 => asciiBytes "DRAINING"
  | 2 => asciiBytes "SEALED"
  | 4 => asciiBytes "SAFE TO REMOVE"
  | 5 => asciiBytes "DRAIN FAILED"
  | _ => []

/-- The content shown: product, variant, serial number, asset tag, power state, service level, attention text, presence, last fault
code, operator text; "NO COOLANT" while bring-up waits for flow (R517, R519). The order and the separators are the model's. -/
def State.panel (s : State) : List Byte :=
  let sep : List Byte := [0x0A]
  let wait := s.boot.stage == .l0 && decide (s.waterFlow < 12000)
  asciiBytes "Epioter EPT-100" ++ sep ++ [s.plan.variant] ++ sep ++ Config.identity 4 ++ sep ++ s.octs 0x1000 11 ++ sep ++
  digits s.pstate ++ sep ++ digits (match s.boot.stage with | .l1 => 1 | .l2 => 2 | _ => 0) ++ sep ++ s.attentionText ++ sep ++
  (if s.plate.presence then asciiBytes "PRESENCE" else []) ++ sep ++ (if wait then asciiBytes "NO COOLANT" else []) ++ sep ++
  s.plate.fault ++ sep ++ s.octs 0x9003 1

/-- The panel is drawn again (R517). -/
def State.redraw (s : State) : State := { s with plate := { s.plate with shown := s.panel } }

/-- S3: only the always-on domains stay, and the panel is drawn last (R437, R438, R517). -/
def State.toS3 (s : State) : State :=
  let t := s.dropVolatile
  { t with power := { t.power with st := .s3, req := 0, s3Pend := false, holdup := false },
           plate := { t.plate with attention := if t.plate.attention = 0 ∨ t.plate.attention = 5 then 0 else 4, drainSealed := false } }.redraw

/-- S5: nothing answers; volatile objects and sessions end, persistent ones stay (R437, R479). -/
def State.toS5 (s : State) : State :=
  let t := s.dropVolatile
  { t with parts := [], mailToAoc := {}, mdpRx := {}, mac := [],
           sec := { t.sec with keysGone := false, spdm := [] },
           power := { st := .s5 },
           dict := { t.dict with vals := t.dict.vals.filter (fun e => persistentKeys.contains e.1), sessions := [], claims := [], set := { t.dict.set with st := 0 } },
           plate := { t.plate with attention := 0, presence := false, drainSealed := false } }

/-- A trip (R446): the seal first, then S3, with the cause recorded (DEDUCED, log 139). -/
def State.trip (s : State) (cause : Nat) : State :=
  let t := if s.hasPartner then s.sealStart.sealTaken else s
  let t := (t.toS3.setObj 0x4020 7 cause).faultCode (asciiBytes "T" ++ digits cause)
  { t with power := { t.power with tripped := true, tripCause := cause },
           boot := { t.boot with memFault := t.boot.memFault || cause == 2 },
           plate := { t.plate with attention := 0 } }.redraw

/-! ### What holds starts back -/

/-- A consignment RUNNING or HELD in some partition (R438, R485, R513). -/
def State.anyRunning (s : State) : Bool :=
  s.parts.any fun e => e.2.entries.any fun x => x.st == .running || x.st == .held

/-- Every partition has `enable` 0 and no open entry (R438). -/
def State.quiet (s : State) : Bool := s.parts.all fun e => !e.2.regs.enable && e.2.entries.isEmpty

/-- The module starts consignments: at L1 or above, in S0 or S1, with no swap pending and no drain (R438, R485, R492, R513). -/
def State.startsOpen (s : State) : Bool :=
  (s.boot.stage == .l1 || s.boot.stage == .l2) && s.power.st == .s0 && s.dict.set.st == 0 &&
  s.plate.attention != 1 && s.plate.attention != 2

/-- The answer of a command: a next state. -/
abbrev Res := Host.Outcome State Fault Refusal

end Sys2Proof.Machine
end

