-- ==== Sys2Proof/Machine/Eci.lean ====
section
/-! DEFINITION. The control core and its instructions (R53 to R65): arithmetic, memory, branches, counters, queues, ISSUE, END. -/

namespace Sys2Proof.Machine

/-! ### The core (R57) -/

/-- The control core of a cluster executes: it runs a consignment, has not reached END, has not been stopped, and stalls on no counter. -/
def State.coreLive (s : State) (c : Nat) : Bool :=
  (s.cl c).run.any (fun r => !r.ended && !r.stopped) && (s.cl c).core.stall.isNone

/-- The translation context of the run on a cluster. -/
def State.ctxOf (s : State) (c : Nat) : XCtx :=
  match (s.cl c).run with
  | some r => r.ctx c
  | none => { cluster := none, part := 0, xroot := 0, xkeys := 0 }

/-- A job of the control core run from a state: its outcome and its record. -/
def State.coreJob (s : State) (c : Nat) (j : Job α) : Except Byte α × Acc :=
  (j.run).run { home := some c, owner := (s.cl c).run.map fun r => (r.part, r.seq) }

/-- The lines of 64 bytes that `n` bytes from pc touch, and those of them that the instruction buffer does not hold (R62). -/
def State.codeLines (s : State) (c n : Nat) : List Nat := unitsOf (s.cl c).core.pc.toNat n

def State.codeMisses (s : State) (c n : Nat) : List Nat := (s.codeLines c n).filter fun l => !(s.cl c).core.buf.any fun b => b.1 == l

/-- A line enters the instruction buffer of 256 lines; which one it replaces is open (R62) (DESIGN CHOICE, log 195). -/
def State.bufEnter (s : State) (c : Nat) (l : Nat × List Byte × List Nat) : State :=
  let full := decide (256 ≤ (s.cl c).core.buf.length)
  let t := s.updCore c fun k => { k with buf := (if full then k.buf.eraseIdx ((s.freeW.toNat) % 256) else k.buf) ++ [l] }
  if full then t.drawn else t

/-- A word of the next `n` bytes came poisoned into the buffer (R89). -/
def State.codePoisoned (s : State) (c n : Nat) : Bool :=
  let pc := (s.cl c).core.pc.toNat
  (List.range n).any fun i => (s.cl c).core.buf.any fun b => b.1 == (pc + i) / 64 && b.2.2.contains ((pc + i) % 64 / 8)

/-- A line of code read: a marked unit fails the fetch (R61). -/
def codeLine (s : State) (x : XCtx) (l : Nat) : Job (Nat × List Byte × List Nat) := do
  let g ← readRaw s x (64 * l) 64
  match g.marks with
  | e :: _ => Job.fail (g.status e)
  | [] => pure (l, g.bytes, g.bad)

/-- The next `n` bytes of instruction are fetched through the instruction buffer: a missing line is read, translated and checked, and stalls the core when
it cannot be read yet; a fetch that fails ends the consignment with its status (R61, R62). True when the instruction can execute (DESIGN CHOICE, log 195). -/
def State.fetch (s : State) (c n : Nat) : State × Bool :=
  let r := s.coreJob c (Job.map (codeLine s (s.ctxOf c)) (s.codeMisses c n))
  if waits r.1 then (s, false) else
  match r.1 with
  | .error e => ((s.settle r.2.upToFailure).failCore c e, false)
  | .ok ls =>
    let t := if ls.isEmpty then s else ls.foldl (fun t l => t.bufEnter c l) (s.settle r.2)
    if t.codePoisoned c n then (t.failCore c stUncorrectable, false) else (t, true)

/-- The byte of the instruction stream at an address that the buffer holds. -/
def Core.codeByte (k : Core) (a : Nat) : Byte :=
  match k.buf.find? fun b => b.1 == a / 64 with
  | some b => b.2.1.getD (a % 64) 0
  | none => 0

/-- The 32-bit word of the instruction stream, `i` words after pc. -/
def State.codeWord (s : State) (c i : Nat) : Word32 :=
  BitVec.ofNat 32 (leNat ((List.range 4).map fun j => (s.cl c).core.codeByte ((s.cl c).core.pc.toNat + 4 * i + j)))

/-- An instruction of `n` bytes takes effect when its core executes and its fetch has succeeded, and has none otherwise (DEDUCED, log 6). -/
def State.onCore (s : State) (c : Nat) (f : State → State) (n : Nat := 4) : Res :=
  if s.coreLive c then (let t := s.fetch c n; if t.2 then .next (f t.1) else .next t.1) else .next s

/-- pc advances by a number of bytes. -/
def State.pcStep (s : State) (c : Nat) (n : Word) : State := s.updCore c fun k => { k with pc := k.pc + n }

/-- pc is set. -/
def State.pcSet (s : State) (c : Nat) (v : Word) : State := s.updCore c fun k => { k with pc := v }

/-- A result goes to rd and the next instruction follows (R59). -/
def State.alu (s : State) (c : Nat) (rd : Reg) (v : Word) : Res := s.onCore c fun s => (s.setReg c rd v).pcStep c 4

/-- A conditional branch: offsets count words from the branch itself (R58, R59). -/
def State.branch (s : State) (c : Nat) (take : Bool) (off : BitVec 14) : Res :=
  s.onCore c fun s => s.pcStep c (if take then 4 * off.signExtend 64 else 4)

/-- A one-bit truth value as a register value. -/
def boolW (b : Bool) : Word := if b then 1 else 0

/-! ### Arithmetic -/

/-- ADD. -/
def execAdd (c : Nat) (rd ra rb : Reg) (s : State) : Res := s.alu c rd (s.reg c ra + s.reg c rb)

/-- SUB. -/
def execSub (c : Nat) (rd ra rb : Reg) (s : State) : Res := s.alu c rd (s.reg c ra - s.reg c rb)

/-- AND. -/
def execAnd (c : Nat) (rd ra rb : Reg) (s : State) : Res := s.alu c rd (s.reg c ra &&& s.reg c rb)

/-- OR. -/
def execOr (c : Nat) (rd ra rb : Reg) (s : State) : Res := s.alu c rd (s.reg c ra ||| s.reg c rb)

/-- XOR. -/
def execXor (c : Nat) (rd ra rb : Reg) (s : State) : Res := s.alu c rd (s.reg c ra ^^^ s.reg c rb)

/-- SHL by rb[5:0]. -/
def execShl (c : Nat) (rd ra rb : Reg) (s : State) : Res := s.alu c rd (s.reg c ra <<< ((s.reg c rb).toNat % 64))

/-- SHR by rb[5:0]. -/
def execShr (c : Nat) (rd ra rb : Reg) (s : State) : Res := s.alu c rd (s.reg c ra >>> ((s.reg c rb).toNat % 64))

/-- SRA by rb[5:0]. -/
def execSra (c : Nat) (rd ra rb : Reg) (s : State) : Res := s.alu c rd ((s.reg c ra).sshiftRight ((s.reg c rb).toNat % 64))

/-- MUL: the low 64 bits. -/
def execMul (c : Nat) (rd ra rb : Reg) (s : State) : Res := s.alu c rd (s.reg c ra * s.reg c rb)

/-- MINU. -/
def execMinu (c : Nat) (rd ra rb : Reg) (s : State) : Res :=
  s.alu c rd (if s.reg c ra ≤ s.reg c rb then s.reg c ra else s.reg c rb)

/-- MAXU. -/
def execMaxu (c : Nat) (rd ra rb : Reg) (s : State) : Res :=
  s.alu c rd (if s.reg c ra ≤ s.reg c rb then s.reg c rb else s.reg c ra)

/-- SLT. -/
def execSlt (c : Nat) (rd ra rb : Reg) (s : State) : Res := s.alu c rd (boolW ((s.reg c ra).slt (s.reg c rb)))

/-- SLTU. -/
def execSltu (c : Nat) (rd ra rb : Reg) (s : State) : Res := s.alu c rd (boolW ((s.reg c ra).ult (s.reg c rb)))

/-- ADDI. -/
def execAddi (c : Nat) (rd ra : Reg) (imm : BitVec 14) (s : State) : Res := s.alu c rd (s.reg c ra + imm.signExtend 64)

/-- ANDI. -/
def execAndi (c : Nat) (rd ra : Reg) (imm : BitVec 14) (s : State) : Res := s.alu c rd (s.reg c ra &&& imm.signExtend 64)

/-- ORI. -/
def execOri (c : Nat) (rd ra : Reg) (imm : BitVec 14) (s : State) : Res := s.alu c rd (s.reg c ra ||| imm.signExtend 64)

/-- XORI. -/
def execXori (c : Nat) (rd ra : Reg) (imm : BitVec 14) (s : State) : Res := s.alu c rd (s.reg c ra ^^^ imm.signExtend 64)

/-- SHLI. -/
def execShli (c : Nat) (rd ra : Reg) (sh : BitVec 6) (s : State) : Res := s.alu c rd (s.reg c ra <<< sh.toNat)

/-- SHRI. -/
def execShri (c : Nat) (rd ra : Reg) (sh : BitVec 6) (s : State) : Res := s.alu c rd (s.reg c ra >>> sh.toNat)

/-- SRAI. -/
def execSrai (c : Nat) (rd ra : Reg) (sh : BitVec 6) (s : State) : Res := s.alu c rd ((s.reg c ra).sshiftRight sh.toNat)

/-- LIW: 12 bytes long. -/
def execLiw (c : Nat) (rd : Reg) (value : Word) (s : State) : Res := s.onCore c (fun s => (s.setReg c rd value).pcStep c 12) 12

/-! ### Memory (R61, R85 to R87) -/

/-- A load of `n` bytes, aligned, into rd zero-extended. A failure ends the consignment with its status (R61). -/
def State.coreLoad (s : State) (c : Nat) (rd : Reg) (va : Word) (n : Nat) : State :=
  if va.toNat % n ≠ 0 then s.failCore c stTimetable else
  let r := s.coreJob c (readVa s (s.ctxOf c) va.toNat n)
  if waits r.1 then s else
  match r.1 with
  | .error e => (s.settle r.2.upToFailure).failCore c e
  | .ok bs => ((s.settle r.2).setReg c rd (BitVec.ofNat 64 (leNat bs))).pcStep c 4

/-- The control core stores: the bytes, the acknowledgements that are then due (R240), and the promotion that it loses (R83). -/
def State.coreWrite (s : State) (c : Nat) (w : Wr) (hc : Nat := 0) : State :=
  (s.storeBy c 0xF ((s.ctxOf c).part) [(w, hc)]).granted c 10

/-- The consignment of a cluster's run. -/
def State.runOf (s : State) (c : Nat) : Option (Nat × Nat) := (s.cl c).run.map fun r => (r.part, r.seq)

/-- A store of `n` bytes, aligned: another cluster's window is out of reach (R61). -/
def State.coreStoreRaw (s : State) (c : Nat) (va : Word) (bs : List Byte) : State :=
  if va.toNat % bs.length ≠ 0 then s.failCore c stTimetable else
  let t := (s.walksFor (s.ctxOf c) va.toNat bs.length).foldl State.walked s
  match s.xl (s.ctxOf c) true va.toNat bs.length with
  | .error e => if e = stHold then s else t.failCore c e
  | .ok ps =>
    match ps with
    | [p] =>
      (match padCluster p.pa with
       | some d => if s.retainedAt p.pa p.n none then s else if d = c then (t.coreWrite c { pa := p.pa, bytes := bs }).pcStep c 4 else t.failCore c stXlate
       | none => if s.lostIn p.pa p.n then t.failCore c stUncorrectable else (t.coreWrite c { pa := p.pa, bytes := bs } p.hc).pcStep c 4)
    | _ => t.failCore c stXlate

/-- A store, with what the hubs and the translation units counted for it kept as its run's (R302). -/
def State.coreStore (s : State) (c : Nat) (va : Word) (bs : List Byte) : State := (s.coreStoreRaw c va bs).tallyHub s (s.runOf c)

/-- LD. -/
def execLd (c : Nat) (rd ra : Reg) (imm : BitVec 14) (s : State) : Res :=
  s.onCore c fun s => s.coreLoad c rd (s.reg c ra + 8 * imm.signExtend 64) 8

/-- LW. -/
def execLw (c : Nat) (rd ra : Reg) (imm : BitVec 14) (s : State) : Res :=
  s.onCore c fun s => s.coreLoad c rd (s.reg c ra + 4 * imm.signExtend 64) 4

/-- ST. -/
def execSt (c : Nat) (rd ra : Reg) (imm : BitVec 14) (s : State) : Res :=
  s.onCore c fun s => s.coreStore c (s.reg c ra + 8 * imm.signExtend 64) (natLe 8 (s.reg c rd).toNat)

/-- SW. -/
def execSw (c : Nat) (rd ra : Reg) (imm : BitVec 14) (s : State) : Res :=
  s.onCore c fun s => s.coreStore c (s.reg c ra + 4 * imm.signExtend 64) (natLe 4 (s.reg c rd).toNat)

/-! ### Branches -/

/-- BEQ. -/
def execBeq (c : Nat) (ra rb : Reg) (off : BitVec 14) (s : State) : Res := s.branch c (s.reg c ra == s.reg c rb) off

/-- BNE. -/
def execBne (c : Nat) (ra rb : Reg) (off : BitVec 14) (s : State) : Res := s.branch c (s.reg c ra != s.reg c rb) off

/-- BLT, signed. -/
def execBlt (c : Nat) (ra rb : Reg) (off : BitVec 14) (s : State) : Res := s.branch c ((s.reg c ra).slt (s.reg c rb)) off

/-- BGE, signed. -/
def execBge (c : Nat) (ra rb : Reg) (off : BitVec 14) (s : State) : Res := s.branch c (!(s.reg c ra).slt (s.reg c rb)) off

/-- BLTU. -/
def execBltu (c : Nat) (ra rb : Reg) (off : BitVec 14) (s : State) : Res := s.branch c ((s.reg c ra).ult (s.reg c rb)) off

/-- BGEU. -/
def execBgeu (c : Nat) (ra rb : Reg) (off : BitVec 14) (s : State) : Res := s.branch c (!(s.reg c ra).ult (s.reg c rb)) off

/-- JMP. -/
def execJmp (c : Nat) (off : BitVec 24) (s : State) : Res := s.onCore c fun s => s.pcStep c (4 * off.signExtend 64)

/-- JR: a target that is not aligned to 4 bytes is a TIMETABLE_FAULT (R61). -/
def execJr (c : Nat) (ra : Reg) (s : State) : Res :=
  s.onCore c fun s => if (s.reg c ra).toNat % 4 = 0 then s.pcSet c (s.reg c ra) else s.failCore c stTimetable

/-! ### Counters (R53, R56) -/

/-- The entries that hold bytes of a writer are written back before it posts or completes, and those of the control core before POST and END (R87). -/
def State.coalFlush (s : State) (c who : Nat) : State := s.coalOut c fun e => e.owners.contains who

/-- POST: it waits until the control core's writes are acknowledged (R54, R240); at 65 535 the consignment ends with TIMETABLE_FAULT (R53). -/
def execPost (c : Nat) (n : BitVec 5) (s : State) : Res :=
  s.onCore c fun s =>
    if s.acksDue c 0xF then s else
    let t := s.coalFlush c 0xF
    if t.dcOf c n.toNat = 65535 then t.postCore c n.toNat else (t.postCore c n.toNat).pcStep c 4

/-- WAIT: stalls until dc[n] ≥ ra[15:0] (DEDUCED, log 37). -/
def execWait (c : Nat) (n : BitVec 5) (ra : Reg) (s : State) : Res :=
  s.onCore c fun s =>
    let v := bits (s.reg c ra).toNat 0 16
    if v ≤ s.dcOf c n.toNat then s.pcStep c 4 else s.updCore c fun k => { k with stall := some (n.toNat, v) }

/-- RDCTR. -/
def execRdctr (c : Nat) (rd : Reg) (n : BitVec 5) (s : State) : Res := s.alu c rd (BitVec.ofNat 64 (s.dcOf c n.toNat))

/-! ### Queues (R60, R63, R65) -/

/-- A binary pointer in Gray code (R67). -/
def gray (b : Nat) : Nat := b ^^^ (b / 2)

/-- An entry of a queue of depth 2^k has been written: the write pointer moves, its Gray register follows, and by the next command the
reader's two flops have sampled it (DESIGN CHOICE, log 158). -/
def Cross.wrote (x : Cross) (k : Nat) : Cross :=
  let b := (x.wBin + 1) % 2 ^ (k + 1)
  { x with wBin := b, wGray := gray b, w1 := gray b, w2 := gray b }

/-- An entry has been read. -/
def Cross.read (x : Cross) (k : Nat) : Cross :=
  let b := (x.rBin + 1) % 2 ^ (k + 1)
  { x with rBin := b, rGray := gray b, r1 := gray b, r2 := gray b }

/-- `empty` as the reader sees it, and `full` as the writer sees it: the synchronised pointer with its two most significant bits inverted (R67). -/
def Cross.empty (x : Cross) : Bool := x.rGray == x.w2

def Cross.full (x : Cross) (k : Nat) : Bool := x.wGray == x.r2 ^^^ (3 * 2 ^ (k - 1))

/-- Entries as the reader's side counts them. -/
def Cross.count (x : Cross) (k : Nat) : Nat := (x.wBin + 2 ^ (k + 1) - x.rBin) % 2 ^ (k + 1)

/-- A queue of records popped: an empty one leaves its last value and sets `underrun` (R63). -/
def RecQ.pop (q : RecQ) : Rec128 × RecQ :=
  match q.entries with
  | [] => (q.last, { q with st := { q.st with underrun := true } })
  | e :: rest => (e, { q with entries := rest, last := e })

/-- A record pushed by software: a full queue discards it and sets `overflow` (R63). -/
def RecQ.push (q : RecQ) (depth : Nat) (v : Rec128) : RecQ :=
  if depth ≤ q.entries.length then { q with st := { q.st with overflow := true } } else { q with entries := q.entries ++ [v] }

/-- The completion queue of an engine: 0x0C Intake, 0x0D Dispatch. -/
def State.cqOf (s : State) (c q : Nat) : RecQ := Tab.look (s.cl c).st.cq {} q

/-- It changes. -/
def State.updCq (s : State) (c q : Nat) (f : RecQ → RecQ) : State :=
  s.updSt c fun x => { x with cq := Tab.put x.cq {} q (f (Tab.look x.cq {} q)) }

/-- A completion queue holds 32 records (R250). -/
def cqDepth : Nat := 32

/-- READQ: an odd or too high rd, or a queue other than 0x0C and 0x0D, is a reserved encoding. -/
def execReadq (c : Nat) (rd : Reg) (q : BitVec 5) (s : State) : Res :=
  s.onCore c fun s =>
    if rd.toNat % 2 ≠ 0 ∨ 28 < rd.toNat ∨ (q ≠ 0x0C ∧ q ≠ 0x0D) then s.failCore c stTimetable
    else
      let r := (s.cqOf c q.toNat).pop
      let t := s.updCq c q.toNat fun _ => r.2
      ((t.setReg c rd (BitVec.ofNat 64 (r.1.toNat % 2 ^ 64))).setReg c (rd + 1) (BitVec.ofNat 64 (r.1.toNat / 2 ^ 64))).pcStep c 4

/-- Queue numbers of R60. -/
def queueKnown (q : Nat) : Bool := q ≤ 6 || (8 ≤ q && q ≤ 13)

/-- A status word from its fields (R65). -/
def statusBits (count : Nat) (empty full : Bool) (st : QStat) : Word :=
  let b (v : Bool) (k : Nat) : Nat := if v then 2 ^ k else 0
  BitVec.ofNat 64 (count % 2 ^ 13 + b empty 13 + b full 14 + b st.underrun 15 + b st.overflow 16 + b st.tailBad 17 + st.cutAt.toNat * 2 ^ 24)

/-- A status word from the entries that a queue holds. -/
def statusWord (count depth : Nat) (st : QStat) : Word := statusBits count (count == 0) (decide (depth ≤ count)) st

/-- The status word of a queue of R60 (DEDUCED, log 154). -/
def State.qstatus (s : State) (c q : Nat) : Word :=
  if q ≤ 6 then statusWord (s.siding c q).length 16 (Tab.look (s.cl c).st.sidSt {} q)
  else if q ≤ 11 then statusWord (s.tileQ c q).entries.length tileDepth (s.tileQ c q).st
  else statusWord (s.cqOf c q).entries.length cqDepth (s.cqOf c q).st

/-- QSTAT. -/
def execQstat (c : Nat) (rd : Reg) (q : BitVec 5) (s : State) : Res :=
  s.onCore c fun s => if queueKnown q.toNat then (s.setReg c rd (s.qstatus c q.toNat)).pcStep c 4 else s.failCore c stTimetable

/-- The RW fields of a status word written: 1 clears a sticky bit, `cut_at` is replaced (R65). -/
def QStat.write (st : QStat) (v : Nat) : QStat :=
  { underrun := st.underrun && !bit1 v 15, overflow := st.overflow && !bit1 v 16, tailBad := st.tailBad && !bit1 v 17,
    cutAt := BitVec.ofNat 8 (bits v 24 8) }

/-- QCTL. -/
def execQctl (c : Nat) (ra : Reg) (q : BitVec 5) (s : State) : Res :=
  s.onCore c fun s =>
    let v := (s.reg c ra).toNat
    if !queueKnown q.toNat then s.failCore c stTimetable
    else
      let k := q.toNat
      let t := if k ≤ 6 then s.updSt c fun x => { x with sidSt := Tab.put x.sidSt {} k ((Tab.look x.sidSt {} k).write v) }
        else if k ≤ 11 then s.updTileQ c k fun x => { x with st := x.st.write v }
        else s.updCq c k fun x => { x with st := x.st.write v }
      t.pcStep c 4

/-! ### ISSUE and END (R41, R54, R55, R59) -/

/-- A waybill's word replaced. -/
def patchWord (wb : Nat) (w : Nat) (v : Word) : Nat := wb - bits wb (64 * w) 64 * 2 ^ (64 * w) + v.toNat * 2 ^ (64 * w)

/-- The patches of an ISSUE applied in order, so that a later one of the same word wins. -/
def State.patched (s : State) (c : Nat) (wb : Nat) (ps : List (BitVec 3 × Reg)) : Nat :=
  ps.foldl (fun v p => patchWord v p.1.toNat (s.reg c p.2)) wb

/-- ISSUE: an unaligned template, a reserved station code or more than four patches is a TIMETABLE_FAULT; a full siding stalls. -/
def execIssue (c : Nat) (station : BitVec 5) (ra : Reg) (patches : List (BitVec 3 × Reg)) (s : State) : Res :=
  s.onCore c (n := 8) fun s =>
    let va := (s.reg c ra).toNat
    if va % 64 ≠ 0 ∨ 6 < station.toNat ∨ 4 < patches.length then s.failCore c stTimetable
    else if 16 ≤ (s.siding c station.toNat).length then s
    else
      let r := s.coreJob c (readVa s (s.ctxOf c) va 64)
      if waits r.1 then s else
      match r.1, (s.cl c).run with
      | .ok bs, some run =>
        let t := s.settle r.2
        let wb : Desc := BitVec.ofNat 512 (s.patched c (leNat bs) patches)
        (t.updSiding c station.toNat fun q => q ++ [{ wb := wb, part := run.part, seq := run.seq }]).pcStep c 8
      | .error e, _ => (s.settle r.2.upToFailure).failCore c e
      | _, none => s

/-- END: it waits until the control core's writes are acknowledged (R240); the coalescing buffer is written back and every open window starts to close
(R87, R100). The rest of R41 is END_COMPLETE. -/
def execEndT (c : Nat) (s : State) : Res :=
  s.onCore c fun s => if s.acksDue c 0xF then s else ((s.coalFlush c 0xF).updRun c fun r => { r with ended := true }).closeWindows c

/-! ### Illegal instructions (R58, R59, R61) -/

/-- The bits of an instruction word that an opcode uses; 0 for a reserved opcode. -/
def eciMask (opc : Nat) : Nat :=
  let rd := 0x1F * 2 ^ 8
  let ra := 0x1F * 2 ^ 13
  if 0x01 ≤ opc ∧ opc ≤ 0x0D then 0x7FFFFF
  else if (0x10 ≤ opc ∧ opc ≤ 0x13) ∨ (0x20 ≤ opc ∧ opc ≤ 0x23) ∨ (0x28 ≤ opc ∧ opc ≤ 0x2E) then 0xFFFFFFFF
  else if 0x14 ≤ opc ∧ opc ≤ 0x16 then 0xFF + rd + ra + 0x3F * 2 ^ 18
  else match opc with
  | 0x18 => 0xFF + rd
  | 0x2F => 0xFF + ra
  | 0x30 => 0xFF + rd
  | 0x31 => 0xFF + rd + ra
  | 0x33 | 0x34 | 0x35 => 0xFF + rd + 0x1F * 2 ^ 18
  | 0x36 => 0xFF + ra + 0x1F * 2 ^ 18
  | 0x38 => 0xFF + rd + ra + 0x7 * 2 ^ 18
  | 0x39 => 0xFF
  | 0x40 | 0x41 | 0x42 | 0x43 | 0x44 | 0x45 | 0x46 => 0xFF + rd + ra
  | 0x47 => 0xFF + ra
  | 0x48 => 0x1FFFFFF
  | _ => 0

/-- A field of a word lies outside the range that its opcode gives. -/
def eciRange (w : Nat) : Bool :=
  let n := bits w 8 5
  let q := bits w 18 5
  match bits w 0 8 with
  | 0x34 => n % 2 == 0 && n ≤ 28 && (q == 12 || q == 13)
  | 0x35 | 0x36 => queueKnown q
  | 0x38 => n ≤ 6 && bits w 18 3 ≤ 4
  | 0x40 | 0x41 | 0x42 | 0x43 | 0x45 => n ≤ 7
  | 0x44 => n ≤ 3
  | 0x46 => n ≤ 15
  | _ => true

/-- A word is an instruction that the control core implements (DEDUCED, log 35). -/
def eciWord (w : Word32) : Bool :=
  let m := eciMask (bits w.toNat 0 8)
  m != 0 && (w.toNat &&& m) == w.toNat && eciRange w.toNat

/-- A patch word fits its count: bytes at or beyond `npatch` are zero, and 5 to 7 are reserved. -/
def patchOk (npatch : Nat) (w : Word32) : Bool := npatch ≤ 4 && w.toNat < 2 ^ (8 * npatch)

/-- Bytes of the instruction whose first word is given (R58, R59). -/
def eciLen (w : Word32) : Nat := match bits w.toNat 0 8 with | 0x18 => 12 | 0x38 => 8 | _ => 4

/-- ILLEGAL_INSTRUCTION: a reserved opcode or field ends the consignment with TIMETABLE_FAULT; a fetch that fails, of the first word or of the words that
follow it, ends it with its status. A cause that does not hold has no effect (DESIGN CHOICE, log 36). -/
def execIllegalInstruction (c : Nat) (cause : EciCause) (s : State) : Res :=
  match cause with
  | .word w => s.onCore c fun s => if eciWord w then s else s.failCore c stTimetable
  | .patch n w => s.onCore c (n := 8) fun s => if patchOk n.toNat w then s else s.failCore c stTimetable
  | .fetch =>
    if !s.coreLive c then .next s else
    let t := s.fetch c 4
    if !t.2 then .next t.1 else
    let u := t.1.fetch c (eciLen (t.1.codeWord c 0))
    .next (if u.2 then s else u.1)

end Sys2Proof.Machine
end

