-- ==== Sys2Proof/Decode.lean ====
section
/-! DEFINITION. The reading of words. The rows of spec/opcode_table.json give no bits, so no word of the table spells a command. The
instruction words of the control core (R58, R59) do spell commands: `decodeEci` reads them. -/

namespace Sys2Proof

open Machine (bits bit1 leNat)

/-- The command that a word of the table spells: none, since no row gives bits (DESIGN CHOICE, log 151). -/
def decodeTableWord (_nbits _w : Nat) : Option Instr := none

/-- A register field of an instruction word (R58). -/
def eciReg (w : Word32) (lo : Nat) : Reg := BitVec.ofNat 5 (bits w.toNat lo 5)

/-- The R format: rd, ra, rb. -/
def eciR (f : Nat → Reg → Reg → Reg → Instr) (c : Nat) (w : Word32) : Instr := f c (eciReg w 8) (eciReg w 13) (eciReg w 18)

/-- The I format: rd, ra, imm14. -/
def eciI (f : Nat → Reg → Reg → BitVec 14 → Instr) (c : Nat) (w : Word32) : Instr :=
  f c (eciReg w 8) (eciReg w 13) (BitVec.ofNat 14 (bits w.toNat 18 14))

/-- The I format of a shift: only `imm14`[5:0]. -/
def eciShift (f : Nat → Reg → Reg → BitVec 6 → Instr) (c : Nat) (w : Word32) : Instr :=
  f c (eciReg w 8) (eciReg w 13) (BitVec.ofNat 6 (bits w.toNat 18 6))

/-- The B format: ra, rb, off14. -/
def eciB (f : Nat → Reg → Reg → BitVec 14 → Instr) (c : Nat) (w : Word32) : Instr :=
  f c (eciReg w 8) (eciReg w 13) (BitVec.ofNat 14 (bits w.toNat 18 14))

/-- The patches of ISSUE's patch word: byte i names waybill word [2:0] and scalar register [7:3] (R59). -/
def eciPatches (npatch : Nat) (w : Word32) : List (BitVec 3 × Reg) :=
  (List.range npatch).map fun i => (BitVec.ofNat 3 (bits w.toNat (8 * i) 3), BitVec.ofNat 5 (bits w.toNat (8 * i + 3) 5))

/-- The command of an instruction word `w` on cluster `c`, with the two words that follow it. An operation whose register operand tells
two commands apart takes the registers' values from `val`: bit [24] for WINDOW and CARRY, bit [0] for CHCTL (R59, R92, R252, R405). -/
def decodeEci (c : Nat) (val : Reg → Word) (w w1 w2 : Word32) : Instr :=
  if !Machine.eciWord w then .illegalInstruction c (.word w) else
  let n := eciReg w 8
  let ra := eciReg w 13
  let rb := eciReg w 18
  let on (k : Nat) : Bool := bit1 (val ra).toNat k
  match bits w.toNat 0 8 with
  | 0x01 => eciR .add c w
  | 0x02 => eciR .sub c w
  | 0x03 => eciR .and c w
  | 0x04 => eciR .or c w
  | 0x05 => eciR .xor c w
  | 0x06 => eciR .shl c w
  | 0x07 => eciR .shr c w
  | 0x08 => eciR .sra c w
  | 0x09 => eciR .mul c w
  | 0x0A => eciR .minu c w
  | 0x0B => eciR .maxu c w
  | 0x0C => eciR .slt c w
  | 0x0D => eciR .sltu c w
  | 0x10 => eciI .addi c w
  | 0x11 => eciI .andi c w
  | 0x12 => eciI .ori c w
  | 0x13 => eciI .xori c w
  | 0x14 => eciShift .shli c w
  | 0x15 => eciShift .shri c w
  | 0x16 => eciShift .srai c w
  | 0x18 => .liw c n (w2 ++ w1)
  | 0x20 => eciI .ld c w
  | 0x21 => eciI .lw c w
  | 0x22 => eciI .st c w
  | 0x23 => eciI .sw c w
  | 0x28 => eciB .beq c w
  | 0x29 => eciB .bne c w
  | 0x2A => eciB .blt c w
  | 0x2B => eciB .bge c w
  | 0x2C => eciB .bltu c w
  | 0x2D => eciB .bgeu c w
  | 0x2E => .jmp c (BitVec.ofNat 24 (bits w.toNat 8 24))
  | 0x2F => .jr c ra
  | 0x30 => .post c n
  | 0x31 => .wait c n ra
  | 0x33 => .rdctr c n rb
  | 0x34 => .readq c n rb
  | 0x35 => .qstat c n rb
  | 0x36 => .qctl c ra rb
  | 0x38 =>
    let np := bits w.toNat 18 3
    if Machine.patchOk np w1 then .issue c n ra (eciPatches np w1) else .illegalInstruction c (.patch (BitVec.ofNat 3 np) w1)
  | 0x39 => .endT c
  | 0x40 => if on 24 then .windowOpen c (n.truncate 3) ra else .windowClose c (n.truncate 3) ra
  | 0x41 => .release c (n.truncate 3) ra
  | 0x42 => .landcfg c (n.truncate 3) ra
  | 0x43 => .draincfg c (n.truncate 3) ra
  | 0x44 => .sdraincfg c (n.truncate 2) ra
  | 0x45 => .vkerncfg c (n.truncate 3) ra
  | 0x46 => if on 0 then .chctlDisable c (n.truncate 4) (.core ra) else .chctlEnable c (n.truncate 4) (.core ra)
  | 0x47 => if on 24 then .carrySet c ra else .carryClear c ra
  | 0x48 =>
    (match bits w.toNat 23 2 with
     | 0 => .pbufState c n ra rb
     | 1 => .pbufWc c n ra rb
     | 2 => .pbufMepoch c n ra rb
     | _ => .pbufTag c n ra rb)
  | _ => .illegalInstruction c (.word w)

/-- The command that the control core of a cluster gives next: the instruction at its pc with the words after it, as its instruction buffer gives them once
they are fetched, or the failure of the fetch (R57, R61, R62); none while it does not execute or its fetch waits (DESIGN CHOICE, log 151). -/
def Machine.State.nextEci (s : Machine.State) (c : Nat) : Option Instr :=
  if !s.coreLive c then none else
  let t := s.fetch c 4
  let u := t.1.fetch c (Machine.eciLen (t.1.codeWord c 0))
  let stops (x : Machine.State) : Option Instr := if x.coreLive c then none else some (.illegalInstruction c .fetch)
  if !t.2 then stops t.1 else if !u.2 then stops u.1 else
  some (decodeEci c (s.reg c) (u.1.codeWord c 0) (u.1.codeWord c 1) (u.1.codeWord c 2))

end Sys2Proof
end

