-- ==== Sys2Proof/Machine/Reliab.lean ====
section
/-! DEFINITION. Faults of parts, resets and the reduction geometry (chapters 14 and 17, R351 to R353). -/

namespace Sys2Proof.Machine

/-! ### The mesh (R10, R339, R349) -/

/-- The die on a side of another: 0 north, 1 east, 2 south, 3 west. -/
def beside (a dir : Nat) : Nat :=
  match dir with
  | 0 => a - 8
  | 1 => a + 1
  | 2 => a + 8
  | _ => a - 1

/-- The side has a die of the mesh. -/
def inMesh (a dir : Nat) : Bool :=
  match dir with | 0 => decide (8 ≤ a) | 1 => decide (a % 8 ≠ 7) | 2 => decide (a < 56) | _ => decide (a % 8 ≠ 0)

/-- The side of the neighbour that faces back. -/
def opposite (dir : Nat) : Nat := (dir + 2) % 4

/-- A direction leads to a die of the mesh that is no hole, through a working port (R349, R351) (DESIGN CHOICE, log 12). -/
def State.dirOpen (s : State) (a dir : Nat) : Bool := inMesh a dir && !(s.die a).portsDown.contains dir && !(s.die (beside a dir)).hole

/-- The attach dies of a hub in increasing position (R10). -/
def hubAttach (h : Nat) : List Nat :=
  match h with
  | 0 => [2, 3, 4, 5]
  | 1 => [23, 31, 39, 47]
  | 2 => [58, 59, 60, 61]
  | _ => [16, 24, 32, 40]

/-- The attach dies of a link die: LN0, LN1, LE0, LE1, LS0, LS1, LW0, LW1 (R10). -/
def linkAttach (l : Nat) : List Nat :=
  match l with
  | 0 => [0, 1]
  | 1 => [6, 7]
  | 2 => [7, 15]
  | 3 => [55, 63]
  | 4 => [56, 57]
  | 5 => [62, 63]
  | 6 => [0, 8]
  | _ => [48, 56]

/-- The link die that a die's outward port leads to, and by which of its two ports (R10). -/
def linkBehind (die side : Nat) : Option (Nat × Nat) :=
  if inMesh die side then none else
  ((List.range 8).find? fun l => l / 2 == side && (linkAttach l).contains die).map fun l => (l, (linkAttach l).findIdx (· == die))

/-- A port of a die taken down. -/
def State.sideDown (s : State) (die side : Nat) : State :=
  s.updDie die fun x => { x with portsDown := if x.portsDown.contains side then x.portsDown else x.portsDown ++ [side] }

/-- Dies that are reached from some dies without entering one, step by step. -/
def State.reach (s : State) (dead : Nat) : Nat → List Nat → List Nat
  | 0, xs => xs
  | f + 1, xs => s.reach dead f (xs ++ ((xs.flatMap fun a => ((List.range 4).filter (s.dirOpen a)).map (beside a)).filter fun b => b != dead && !xs.contains b).dedup)

/-- The dies that the loss of a junction cuts off from the greatest part of the mesh that is left (R349, R413) (DEDUCED, log 188). -/
def State.cutOffBy (s : State) (d : Nat) : List Nat :=
  let live := (List.range 64).filter fun a => a != d && !(s.die a).hole && (s.die a).scanned
  let part (a : Nat) : List Nat := s.reach d 64 [a]
  let keep := live.foldl (fun k a => if k.length < (part a).length then part a else k) []
  live.filter fun a => !keep.contains a

/-! ### Geometry (R328 to R333, R498, R499) -/

/-- The clusters of a die that hold a role. -/
def State.dieRoles (s : State) (d : Nat) : Nat :=
  ((List.range 17).filter fun k => (s.cl (d * 17 + k)).role.isSome && (s.cl (d * 17 + k)).stat == .active).length

/-- A die entry of the floor plan (R501). -/
def State.dieEntry (s : State) (d : Nat) : Nat :=
  let x := s.die d
  let st := if x.fused then 1 else if x.reserve then 2 else if x.failed then 3 else 0
  let bad := ((List.range 17).map fun k => let c := s.cl (d * 17 + k); if c.stat == .active || c.stat == .spare then 0 else 2 ^ k).sum
  st + (if x.spareUsed then 4 else 0) + bits x.spareK 0 5 * 2 ^ 3 + bad * 2 ^ 8 + (x.treePos.getD 0xFF) * 2 ^ 25 + s.dieRoles d * 2 ^ 33

/-- The lane map of lane l of port j of a link die (R500). -/
def State.laneMap (s : State) (die j l : Nat) : Nat :=
  let x := s.port (4 * die + j)
  if x.st = .fused then 0xFE
  else if x.st = .up ∧ !(x.x4 && x.sparing.any fun y => y.1 / 4 == l / 4) then x.lanes.getD l 0xFF else 0xFF

/-- An area of region D: base, or length. -/
def State.dArea (s : State) (k : Nat) (len : Bool) : Nat := let a := s.plan.dAreas.getD k (0, 0); if len then a.2 else a.1

/-- The active dies take positions 0 to n − 1 in increasing row × 8 + column (R498). -/
def State.renumber (s : State) : State :=
  let act := (List.range 64).filter fun d => let x := s.die d; x.scanned && !x.fused && !x.reserve && !x.failed
  (List.range 64).foldl (fun s d => if s.dies.any (fun e => e.1 == d) then
    s.updDie d fun x => { x with treePos := if act.contains d then some (act.findIdx (· == d)) else none } else s) s

/-- The geometry digest of R333. -/
def State.digest (s : State) : Word32 :=
  crc32c (s.plan.variant :: ((List.range 64).map fun d => match (s.die d).treePos with | some p => BitVec.ofNat 8 p | none => 0xFF) ++
    ((List.range 64).map fun d => match (s.die d).treePos with | some _ => BitVec.ofNat 8 (s.dieRoles d) | none => 0))

/-- The digest recomputed into `0x7810.01`. -/
def State.redigest (s : State) : State := s.setObj 0x7810 1 s.digest.toNat

/-- A partition's geometry generation advances (R331), with event 0x05. -/
def State.geoStep (s : State) (p : Nat) : State :=
  let g := (s.pt p).geo + 1
  (((s.updPt p fun pt => { pt with geo := g % 2 ^ 32 }).setObj 0x7801 (p + 1) (g % 2 ^ 32)).event 5 p (g % 2 ^ 32))

/-- The service level is L1 or more. -/
def State.atL1 (s : State) : Bool := s.boot.stage == .l1 || s.boot.stage == .l2

/-- The geometry of this module changes: every partition advances, and the advance goes to every module of its map. Before L1 a loss changes the floor
plan and is no change of the geometry (R498). -/
def State.geoChanged (s : State) : State :=
  if !s.atL1 then s else
  let t := (List.range 16).foldl (fun s p => (s.geoStep p).sendService 3 p ((s.pt p).others fun _ => true) 0 false 0 0) s
  t.redigest

/-- GEOMETRY_ADVANCE_NOTICE: the advance of another module is applied (R331). -/
def execGeometryAdvanceNotice (part : Nat) (s : State) : Res := .next (s.geoStep part)

/-! ### Cluster faults (R404, R410, R412) -/

/-- A consignment uses a cluster, or its partition holds it. -/
def State.entryUses (s : State) (p c : Nat) (e : Entry) : Bool :=
  e.clusters.contains c || ((s.pt p).regs.holds && (s.pt p).blk.any fun b => b.clusters.contains c)

/-- A scratchpad window loses its contents and is initialised: zero bytes with valid check bits, marks clear (R90, R103, R235). -/
def State.padInit (s : State) (c : Nat) : State :=
  { s with
    mem := s.mem.filter fun e => !(padOf c ≤ e.1 && e.1 < padOf c + padSize)
    poison := Tab.clear s.poison (padOf c / 8) (padSize / 8)
    upset := Tab.clear s.upset (padOf c / 8) (padSize / 8)
    marks := Tab.clear s.marks (padOf c / 64) (padSize / 64)
    watched := Tab.clear s.watched (padOf c / 64) (padSize / 64) }

/-- A COMMIT of a partition is in UPDATING or CLIPPING. -/
def Part.undecided (pt : Part) : Bool := pt.commit.any fun k => k.st == .updating || k.st == .clipping

/-- Every partition that used a part stops its running consignments (R410 step 1); with `freeze` a COMMIT stopped in UPDATING or CLIPPING waits for the
host's abort (R414). -/
def State.stopParts (s : State) (uses : Nat → Entry → Bool) (freeze : Bool) : State × List Nat :=
  let ps := (List.range 16).filter fun p => (s.pt p).entries.any fun e => e.st == .running && uses p e
  (ps.foldl (fun s p =>
    let cseq := (s.pt p).commit.map (·.seq)
    let t := s.stopForRerun p (fun _ => true)
    if (s.pt p).undecided && freeze then (match cseq with | some q => t.updEntry p q fun e => { e with frozen := true } | none => t) else t) s, ps)

/-- The re-run notices for the COMMITs of some partitions that a fault has stopped in UPDATING or CLIPPING, as they stood before it; after a die loss
(`dieLoss`) they tell that the paired COMMITs stay stopped (R414) (DESIGN CHOICE, log 196). -/
def State.noteRerun (t s : State) (ps : List Nat) (dieLoss : Bool := false) : State :=
  ps.foldl (fun t p => if (s.pt p).undecided then t.sendService 2 p ((s.pt p).groupPeers) (((s.pt p).commit.map (·.pairing)).getD 0) false (if dieLoss then 1 else 0) 0 else t) t

/-- The spare of a die, when it is unused. -/
def State.spareOf (s : State) (d : Nat) : Option Nat :=
  let x := s.die d
  let c := d * 17 + x.spareK
  if !x.spareUsed && x.spareK ≤ 16 && (s.cl c).stat == .spare then some c else none

/-- Lost clusters leave the sets they belong to, or their replacement enters in their place (R12, R375). -/
def State.replaceMember (s : State) (c : Nat) (r : Option Nat) : State :=
  (List.range 16).foldl (fun s p => match (s.pt p).blk with
    | none => s
    | some _ => s.updPt p fun pt => { pt with blk := pt.blk.map fun b =>
        { b with clusters := b.clusters.filterMap fun x => if x = c then r else some x } }) s

/-- A cluster fault (R410 to R412): stop, isolate, mark failed, hand the role to the spare or find none. Before L1 it is only
recorded in the floor plan (R504) (DEDUCED, log 137). -/
def State.clusterFault (s : State) (c : Nat) : State :=
  let d := c / 17
  let cl := s.cl c
  let marks := fun (t : State) => { t with boot := { t.boot with badClusters := if t.boot.badClusters.contains c then t.boot.badClusters else t.boot.badClusters ++ [c] } }
  match cl.stat with
  | .fusedOff | .failed => s
  | .spare => (marks (s.updCl c fun cl => { cl with stat := .failed, role := none })).planChanged
  | .active =>
    let (t, ps) := s.stopParts (fun p e => s.entryUses p c e) false
    let t := t.noteRerun s ps
    let dead := fun (t : State) => (t.padInit c).updCl c fun _ => { stat := .failed, repl := s.spareOf d, pll := false }
    match s.spareOf d with
    | some sp =>
      let t := dead t
      let t := (t.padInit sp).updCl sp fun _ => { stat := .active, role := cl.role, fwOk := true }
      let t := ((marks (t.updDie d fun x => { x with spareUsed := true })).replaceMember c (some sp)).planChanged
      t.postRecord 1 c (some sp) ps
    | none =>
      let t := ((marks (dead t)).replaceMember c none).planChanged
      ((t.exhaust.geoChanged).postRecord 2 c none ps)

/-- A die loss (R413): every cluster of the dies failed, roles vacant, the geometry advances; the fabric domain is reset, or the compute domain when the
junction is healthy. The dies that a lost junction cuts off go with it; `also` are consignments that lose a packet with it (R350). -/
def State.dieLost (s : State) (die : Nat) (junctionOk : Bool) (cutOff : List Nat) (also : List (Nat × Nat) := []) : State :=
  let ds := die :: (cutOff ++ if junctionOk then [] else (s.cutOffBy die).filter fun a => !cutOff.contains a)
  let isIn (c : Nat) : Bool := ds.contains (c / 17)
  let (t, ps) := s.stopParts (fun p e => also.contains (p, e.seq) || e.clusters.any isIn || ((s.pt p).regs.holds && (s.pt p).blk.any fun b => b.clusters.any isIn)) true
  let t := ds.foldl (fun t d =>
    let t := (List.range 17).foldl (fun t k =>
      let c := d * 17 + k
      if (s.cl c).stat = .fusedOff then t
      else ((t.padInit c).updCl c fun _ => { stat := .failed, pll := false }).replaceMember c none) t
    let t := t.updDie d fun x => { x with failed := true, treePos := none, hole := x.hole || !junctionOk || d != die,
                                          draining := !junctionOk || d != die, resetting := junctionOk && d == die }
    let t := { t with boot := { t.boot with badDies := if t.boot.badDies.contains d then t.boot.badDies else t.boot.badDies ++ [d] } }
    if junctionOk && d == die then t.emit (.reset d false) else t) t
  (((t.renumber.planChanged.geoChanged).noteRerun s ps true).postRecord 3 die none ps)

/-- CHECKPOINT_FLUSH: the background flush of the running partition's carried rows, once the interval is reached (R406). -/
def execCheckpointFlush (c : Nat) (s : State) : Res :=
  match (s.cl c).run with
  | some r => if max 1 (s.cfg 0x2120 1) ≤ (s.cl c).sinceFlush then .next (s.flushRows c r.part) else .next s
  | none => .next s

/-- FIRMWARE_ERROR: the consignment of the cluster fails with it, and ends on all its clusters: it completes and does not run again (R75) (DEDUCED, log 179). -/
def State.firmwareFails (s : State) (c : Nat) : State :=
  match (s.cl c).run with
  | none => s
  | some r =>
    let t := s.failCore c stFirmware
    match t.entry r.part r.seq with
    | none => t
    | some e =>
      let t := e.clusters.foldl (fun t k =>
        if (t.cl k).run.any fun q => q.part == r.part && q.seq == r.seq then (t.stopOn k true).updCl k fun cl => { cl with run := none } else t) t
      t.updEntry r.part r.seq fun e => { e with ended := e.clusters, todo := [] }

/-- A cluster fails; a second failed cluster of a die within one recovery is a die loss (R409) (DEDUCED, log 137). -/
def State.clusterFails (s : State) (c : Nat) : State :=
  if (s.cl c).stat = .active ∧ (s.recov.recs.any fun r => (r.kind == 1 || r.kind == 2) && r.failed / 17 == c / 17) then s.dieLost (c / 17) true []
  else s.clusterFault c

/-- CLUSTER_FAULT. `firmware`: a core's firmware found an inconsistency in its
own state, which fails its consignment first (R75). -/
def execClusterFault (f : FaultNote) (s : State) : Res :=
  .next ((if f.firmware then s.firmwareFails f.cluster else s).clusterFails f.cluster)

/-- A value held between two bounds. -/
def clampN (lo hi v : Nat) : Nat := max lo (min hi v)

/-- HANDSHAKE_TIMEOUT: a handshake unanswered for longer than `0x2120.04` is a cluster fault (R409). -/
def execHandshakeTimeout (c us : Nat) (s : State) : Res :=
  if clampN 100 9000 (s.cfg 0x2120 4) ≤ us then .next (s.clusterFails c) else .next s

/-- DIE_LOSS (R413). -/
def execDieLoss (die : Nat) (junctionOk : Bool) (cutOff : List Nat) (s : State) : Res :=
  if (s.die die).failed then .next s else .next (s.dieLost die junctionOk cutOff)

/-! ### Hubs, stacks, CXL ports (R415 to R417) -/

/-- The surviving hub that comes next in the order HN, HE, HS, HW and satisfies a condition (R415). -/
def State.nextHub (s : State) (ok : Nat → Bool) : Option Nat :=
  (List.range 4).find? fun h => !(s.hub h).lost && ok h

/-- The service register of every junction and link die names the commit-unit hub (R340). -/
def State.nameCu (s : State) (h : Option Nat) : State :=
  let v : Word := match h with | some h => BitVec.ofNat 64 (h + 4) | none => 0
  let t := { s with dies := Tab.mapV s.dies {} fun d => { d with service := v } }
  (List.range 8).foldl (fun t l => t.updLink l fun x => { x with service := v }) t

/-- The hub that the service registers name. -/
def State.cuHub (s : State) : Option Nat :=
  let v := (s.link 0).service.toNat
  if bit1 v 2 then some (v % 4) else none

/-- The hubs that hold the two mirrors of a partition (R378, R415). -/
def State.mirrors (s : State) (p : Nat) : Nat × Nat := (s.pt p).moved.getD (p % 2, p % 2 + 2)

/-- Each ledger mirror on a lost hub is rebuilt on the next surviving hub that does not hold the other (R415). -/
def State.moveMirrors (s : State) (h : Nat) : State :=
  (List.range 16).foldl (fun s p =>
    let (a, b) := s.mirrors p
    if a = h ∨ b = h then
      let other := if a = h then b else a
      match s.nextHub (fun x => x != other) with
      | some n => (s.updPt p fun pt => { pt with moved := some (n, other), rebuilding := true }).event 2 p h
      | none => s.updPt p fun pt => { pt with rebuilding := true }
    else s) s

/-- Lines of the CXL window that a lost hub had not written back are lost with it (R262, R263, R401) (DEDUCED, log 146). -/
def State.loseDirty (s : State) (h : Nat) : State :=
  let lines := ((s.hub h).sets.flatMap (·.2)).filter fun l => l.dirty && l.cxl
  lines.foldl (fun s l => s.scramble (256 * l.line) 256) s

/-- The CXL window of a lost hub is lost with it (R401, R415). -/
def State.cxlLost (s : State) (h : Nat) : State :=
  { s with plan := { s.plan with cxlDown := if s.plan.cxlDown.contains h then s.plan.cxlDown else s.plan.cxlDown ++ [h] } }

/-- A hub is lost (R415) (DEDUCED, log 135): its attach ports and its CXL port go down, its mirrors move, another hub becomes the commit unit's; with a protected
range the parity of it is gone (R423). -/
def State.hubLost (s : State) (h : Nat) : State :=
  if (s.hub h).lost then s else
  let (t, ps) := s.stopParts (fun _ _ => true) false
  let t := ((t.noteRerun s ps).emit (.resetPart 1 h)).loseDirty h
  let t := t.updHub h fun _ => { lost := true }
  let t := (hubAttach h).foldl (fun t d => t.sideDown d h) ((t.cxlLost h).moveMirrors h)
  let t := if s.cuHub = some h then t.nameCu (t.nextHub fun _ => true) else t
  let t := if t.guardList.any (fun r => r.2 != 0) then t.exhaust else t
  t.planChanged.postRecord 4 h none ps

/-- HUB_LOSS. -/
def execHubLoss (h : Nat) (s : State) : Res := .next (s.hubLost h)

/-- MIRROR_REBUILT: the partition's mirror is whole again and appends resume, with event 0x03 (R415). -/
def execMirrorRebuilt (part : Nat) (s : State) : Res :=
  if (s.pt part).rebuilding then
    .next ((s.updPt part fun pt => { pt with rebuilding := false }).event 3 part (s.mirrors part).1)
  else .next s

/-- A stack is lost: what runs is stopped, the stack's granules are served from parity or read poisoned, its mark is kept, and the loss is recorded; where
its row holds region D or a protected range, redundancy is spent (R416, R423). -/
def State.stackLost (s : State) (m : Nat) : State :=
  let (t, ps) := s.stopParts (fun _ _ => true) false
  let t := t.noteRerun s ps
  let t := { t with plan := { t.plan with lostStacks := t.plan.lostStacks ++ [m] },
                    boot := { t.boot with memFault := true,
                                          badStacks := if t.boot.badStacks.contains m then t.boot.badStacks else t.boot.badStacks ++ [m] } }
  let base := fun (k : Nat) => ((s.plan.rows.take k).map (·.1)).sum
  let hit := (List.range s.plan.rows.length).any fun k =>
    (s.plan.rows[k]?).any fun r => r.2.contains m &&
      ((s.plan.dAreas ++ s.plan.ranges).any fun d => overlaps (base k) r.1 d.1 d.2)
  let t := if hit then t.exhaust else t
  t.planChanged.postRecord 5 m none ps

/-- STACK_LOSS: a hub loss confined to the stack's granules (R416); the mark stays for the next bring-up (DEDUCED, log 135). -/
def execStackLoss (m : Nat) (s : State) : Res := if s.plan.lostStacks.contains m then .next s else .next (s.stackLost m)

/-- CXL_PORT_LOSS: reads of the window are poisoned, writes fail (R417) (DEDUCED, log 135). -/
def execCxlPortLoss (x : Nat) (s : State) : Res :=
  if s.plan.cxlDown.contains x then .next s else
  let (t, ps) := s.stopParts (fun _ _ => true) false
  let t := t.noteRerun s ps
  let t := { t with plan := { t.plan with cxlDown := t.plan.cxlDown ++ [x] } }
  .next (t.planChanged.postRecord 6 x none ps)

/-- CXL_PORT_RETRAINED: with no loss reported the contents stand; otherwise they are the device's to define until restored (R417). -/
def execCxlPortRetrained (x : Nat) (lossReported : Bool) (s : State) : Res :=
  if s.plan.cxlDown.contains x ∧ !(s.hub x).lost then
    let t := { s with plan := { s.plan with cxlDown := s.plan.cxlDown.filter (· != x) } }
    let isIn (a : Nat) : Bool := match regionOf a with | .cxl y _ => y == x | _ => false
    let t := if lossReported then
        (s.mem.foldl (fun t e => if isIn e.1 then { t with mem := t.mem.writeN e.1 [Config.freeByte s.free e.1] } else t) t).drawn
      else t
    .next t.planChanged
  else .next s

/-! ### Host dies, SD, AOC (R419 to R421) -/

/-- The primary host die is lost: it is fenced and reset, its ports with it (R403), and the standby takes the ledger interface (R419); with no other left,
the loss exhausts (R423). -/
def State.hostLost (s : State) : State :=
  let p := s.boot.hostPrimary
  if s.boot.hostsLost.contains p then s else
  let t := { s with boot := { s.boot with hostsLost := s.boot.hostsLost ++ [p] } }.emit (.resetPart 3 p)
  if s.boot.hostsLost.contains (1 - p) then t.exhaust
  else (({ t with boot := { t.boot with hostPrimary := 1 - p } }).setObj 0x5000 9 (1 - p)).event 4 15 (1 - p)

/-- A command of a host die that is lost: fenced, its writes of the ledger's registers are ignored (R419). -/
def State.fenced (s : State) (ep : BitVec 16) (mod : Byte) : Bool := mod == 0xFF && ep.toNat / 8192 == 3 && s.boot.hostsLost.contains (ep.toNat % 8192)

/-- HOST_DIE_LOSS. -/
def execHostDieLoss (s : State) : Res := .next s.hostLost

/-- HEARTBEAT_TIMEOUT: no heartbeat for `0x2120.03` ms is a host die loss (R409). -/
def execHeartbeatTimeout (ms : Nat) (s : State) : Res :=
  if clampN 100 4000 (s.cfg 0x2120 3) ≤ ms then .next s.hostLost else .next s

/-- An image class of the SD. -/
def State.img (s : State) (n : Nat) : ImgClass := Tab.look s.sec.images {} n

/-- An image class changed. -/
def State.updImg (s : State) (n : Nat) (f : ImgClass → ImgClass) : State :=
  { s with sec := { s.sec with images := Tab.put s.sec.images {} n (f (s.img n)) } }

/-- SD_FAULT: updates and attestation stop until service; a verification under way ends with reason 6 (R420, R465). -/
def execSdFault (s : State) : Res :=
  let t := { s with boot := { s.boot with sdFaulted := true } }.emit (.resetPart 7 0)
  .next ((List.range 6).foldl (fun t n =>
    if (t.img n).status = 2 then t.updImg n fun g => { g with status := 5, result := 0xA7, reason := 6 } else t) t)

/-- AOC_MISMATCH: the AOC restarts from its verified image and running work continues; what the restart delays is time (R421). -/
def execAocMismatch (s : State) : Res := .next s

/-! ### Resets (R352, R353, R403) -/

/-- The windows of a cluster with nothing left but their generations. -/
def Cluster.keptGens (cl : Cluster) : Tab Win :=
  (List.range 8).filterMap fun w => if (Tab.look cl.wins {} w).gen = 0 then none else some (w, { gen := (Tab.look cl.wins {} w).gen })

/-- The compute domain of a die resets: its clusters start cleared, their scratchpads undefined and then initialised (R90, R103). The generations of the windows
go on, so that a token from before is refused (R422). -/
def State.computeDomain (s : State) (d : Nat) : State :=
  let isIn (c : Nat) : Bool := c / 17 == d
  let t := (List.range 16).foldl (fun t p => t.stopForRerun p fun e => e.clusters.any isIn) s
  (List.range 17).foldl (fun t k =>
    let c := d * 17 + k
    (t.padInit c).updCl c fun cl => { stat := cl.stat, role := cl.role, fwOk := cl.fwOk, wins := cl.keptGens }) t

/-- COMPUTE_RESET: the compute domain resets while the junction forwards transit (R353) (DEDUCED, log 191). -/
def execComputeReset (die : Nat) (s : State) : Res :=
  .next (((s.computeDomain die).updDie die fun x => { x with resetting := true }).emit (.reset die false))

/-- COMPUTE_RESET_END: the junction no longer answers RETRY; packets of consignments that the reset stopped are discarded at their senders (R422). -/
def execComputeResetEnd (die : Nat) (s : State) : Res :=
  let t := s.updDie die fun x => { x with resetting := false }
  .next { t with kept := t.kept.filter fun k => !(k.retrying && k.p.dstEp.toNat < 0x2000 && k.p.dstEp.toNat / 17 == die) }

/-- The dies that a new set of holes and down ports cuts off are lost (R349, R413) (DEDUCED, log 188). -/
def State.loseCutOff (s : State) : State :=
  match (s.cutOffBy 64).filter fun d => !(s.die d).failed with
  | [] => s
  | d :: ds => s.dieLost d false ds

/-- FABRIC_RESET: the AOC sets the die's hole bit and new escape tables, and the junction drains (R352, E1 to E3). -/
def execFabricReset (die : Nat) (s : State) : Res :=
  .next (s.updDie die fun x => { x with hole := true, draining := true }).loseCutOff

/-- The neighbours of a junction, and a link die that it attaches, hold all their credits towards it again. -/
def State.creditsBack (s : State) (d : Nat) : State :=
  let s := (List.range 4).foldl (fun s k => match linkBehind d k with
    | some (l, j) => s.updLink l fun x => { x with sent := x.sent.filter fun e => e.1 / 16 != j }
    | none => s) s
  ((List.range 4).filter (inMesh d)).foldl (fun s k => s.updDie (beside d k) fun x => { x with sent := x.sent.filter fun e => e.1 / 16 != opposite k }) s

/-- The hub that a die's outward port leads to (R10, R339). -/
def hubBehind (die side : Nat) : Option Nat := if !inMesh die side && (hubAttach side).contains die then some side else none

/-- The fabric-domain reset proceeds: compute domain, junction and die-to-die ports (R352, R403). -/
def State.fabricDomain (s : State) (d : Nat) : State :=
  (((s.computeDomain d).updDie d fun x => { x with
    draining := false, resetting := false
    portsDown := (List.range 4).filter fun k => hubBehind d k == some k && (s.hub k).lost
    bufs := [], sent := [], events := {}, holding := [], stalled := [] }).creditsBack d).emit (.reset d true)

/-- JUNCTION_EMPTY: the reset proceeds (R352, E4 and E5). -/
def execJunctionEmpty (die : Nat) (s : State) : Res :=
  if (s.die die).draining ∧ (s.die die).bufs.isEmpty then .next (s.fabricDomain die) else .next s

/-- The consignment that a packet of this module works for: that of the cluster that has sent it, or of the one that it answers (DEDUCED, log 185). -/
def State.packetRun (s : State) (p : Packet) : Option (Nat × Nat) :=
  let of (ep : BitVec 16) (mod : Byte) : Option (Nat × Nat) :=
    if mod = 0xFF ∧ ep.toNat < 0x2000 then (s.cl ep.toNat).run.map fun r => (r.part, r.seq) else none
  (of p.srcEp p.srcMod).or (of p.dstEp p.dstMod)

/-- JUNCTION_DRAIN_TIMEOUT: what the junction still holds is discarded and counted, the consignments whose packets these are stop to run again, and the
reset proceeds (R352). -/
def execJunctionDrainTimeout (die : Nat) (s : State) : Res :=
  if (s.die die).draining then
    let lost := ((s.die die).bufs.filterMap fun b => s.packetRun b.p).dedup
    let t := lost.foldl (fun t x => t.stopForRerun x.1 fun e => e.seq == x.2) s
    .next ((t.bump 0x5100 2 (s.die die).bufs.length).fabricDomain die)
  else .next s

/-- DIE_RETURN: new tables are installed, the hole bit is cleared and the geometry advances (R331, R352) (DEDUCED, log 138). -/
def execDieReturn (die : Nat) (s : State) : Res :=
  if (s.die die).hole ∨ (s.die die).failed then
    let t := (s.updDie die fun x => { x with hole := false, failed := false, draining := false }).renumber.planChanged
    .next (if (s.die die).treePos = (t.die die).treePos then t else t.geoChanged)
  else .next s

/-- DIE_TO_DIE_PORT_DOWN: the port is a missing link from now on, for the die at its other end too (R346, R349). A hub all of whose attach ports are down is
lost (R409). -/
def execDieToDiePortDown (die side : Nat) (s : State) : Res :=
  let t := s.sideDown die side
  match hubBehind die side with
  | some h => .next (if (hubAttach h).all fun d => (t.die d).portsDown.contains h then t.hubLost h else t)
  | none => .next (if inMesh die side then (t.sideDown (beside die side) (opposite side)).loseCutOff else t)

end Sys2Proof.Machine
end

