-- ==== Sys2Proof/Machine/Power.lean ====
section
/-! DEFINITION. Power, clocks and cooling (chapter 18). Temperatures are in thousandths of a degree Celsius, flow in mL/min,
voltage in mV. -/

namespace Sys2Proof.Machine

/-! ### The effective cap (R444) -/

/-- The effective power cap in watts (R444). -/
def State.effCap (s : State) : Nat :=
  let amps := if s.power.single then 180 else 288
  let inlet := 15000 - ((max 0 (s.power.inlet - 40000)).toNat)
  min (min (clampN 3000 15000 (s.cfg 0x4010 1)) (amps * s.power.mv / 1000)) (min (625 * s.waterFlow / 1000) inlet)

/-- The throttle level a compute die runs at: the higher of its thermal and power levels, and 4 or more until L2 (R445, R493). -/
def State.throttle (s : State) (d : Nat) : Nat :=
  max (max (s.die d).powerThrottle (s.die d).thermalThrottle) (if s.boot.stage = .l2 then 0 else 4)

/-- The compute dies of the floor plan. -/
def State.dieList (s : State) : List Nat := s.dies.map (·.1)

/-- POWER_CAP_CONTROL: the input is sampled; above the effective cap every compute die's power level rises by one; at least 3 % below it, it falls by one
(R443, R444). The current is open (DESIGN CHOICE, log 5). -/
def execPowerCapControl (avgW : Nat) (s : State) : Res :=
  let cap := s.effCap
  let t := { s with power := { s.power with avgW := avgW, amps := s.freeW } }.drawn
  if cap < avgW then
    .next (s.dieList.foldl (fun t d => t.updDie d fun x => { x with powerThrottle := min 7 (x.powerThrottle + 1) }) t)
  else if avgW * 100 ≤ cap * 97 then
    .next (s.dieList.foldl (fun t d => t.updDie d fun x => { x with powerThrottle := x.powerThrottle - 1 }) t)
  else .next t

/-- The level at a temperature: level k is entered at 95 °C + (k − 1) K (R445). -/
def thermLevel (t : Int) : Nat := ((List.range 7).filter fun (k : Nat) => 95000 + 1000 * (k : Int) ≤ t).length

/-- The level held while the temperature is above 2 K below its entry point (R445). -/
def thermHold (t : Int) : Nat := ((List.range 7).filter fun (k : Nat) => 93000 + 1000 * (k : Int) < t).length

/-- The new thermal level from the old one. -/
def thermNext (cur : Nat) (t : Int) : Nat := max (thermLevel t) (min cur (thermHold t))

/-- A set with a member present or absent. -/
def setMember (xs : List Nat) (k : Nat) (b : Bool) : List Nat :=
  if b then (if xs.contains k then xs else xs ++ [k]) else xs.filter (· != k)

/-- One temperature applied: compute dies 0 to 63 throttle, host dies 76 and 77 slow, stacks (100 and up) double their refresh and lose bandwidth (R445). -/
def State.applyTemp (s : State) (e : Nat × Int) : State :=
  let (k, t) := e
  let s := { s with power := { s.power with temps := Tab.put s.power.temps 0 k t } }
  if k < 64 then s.updDie k fun x => { x with thermalThrottle := thermNext x.thermalThrottle t }
  else if k = 76 ∨ k = 77 then
    { s with power := { s.power with hostSlow := setMember s.power.hostSlow (k - 76) (decide (100000 ≤ t) || (s.power.hostSlow.contains (k - 76) && decide (98000 < t))) } }
  else if 100 ≤ k then
    let m := k - 100
    { s with power := { s.power with
        dblRefresh := setMember s.power.dblRefresh m (decide (85000 ≤ t) || (s.power.dblRefresh.contains m && decide (83000 < t)))
        halfBw := setMember s.power.halfBw m (decide (95000 ≤ t) || (s.power.halfBw.contains m && decide (93000 < t))) } }
  else s

/-- The trip cause that the sensors give: 1 compute die, 2 HBM, 3 other die, 4 inlet, 5 outlet; 0 none (R446). -/
def State.tripNow (s : State) : Nat :=
  let hot (f : Nat → Bool) (lim : Int) : Bool := s.power.temps.any fun e => f e.1 && decide (lim ≤ e.2)
  if hot (fun k => decide (k < 64)) 110000 then 1
  else if hot (fun k => decide (100 ≤ k)) 105000 then 2
  else if hot (fun k => decide (64 ≤ k ∧ k < 100)) 110000 then 3
  else if 50000 ≤ s.power.inlet then 4
  else if 65000 ≤ s.power.outlet then 5
  else 0

/-- The module runs: not in S3 and not without power. -/
def State.running (s : State) : Bool := s.power.st != .s3 && s.power.st != .s5

/-- THERMAL_SAMPLE: levels follow the temperatures; a die at its trip temperature trips the module (R445, R446). -/
def execThermalSample (temps : List (Nat × Int)) (s : State) : Res :=
  let t := temps.foldl State.applyTemp s
  if t.running ∧ t.tripNow ≠ 0 then .next (t.trip t.tripNow) else .next t

/-- COOLANT_SAMPLE: the flow and inlet sensors (R443); an inlet at 50 °C or an outlet at 65 °C trips (R446). -/
def execCoolantSample (inlet outlet : Int) (flow : Nat) (s : State) : Res :=
  let t := { s with power := { s.power with inlet := inlet, outlet := outlet, flow := flow } }
  if t.running ∧ t.tripNow ≠ 0 then .next (t.trip t.tripNow) else .next t

/-- FLOW_LOW_TIMEOUT: water-equivalent flow below 12 L/min for 1 s trips (R446). -/
def execFlowLowTimeout (s : State) : Res :=
  if s.running ∧ s.waterFlow < 12000 then .next (s.trip 6) else .next s

/-! ### Cluster clocks (R432, R433) -/

/-- A cluster meets the conditions of R433 for stopping its PLL. A kept TOKEN_RETURN, which nothing answers, is no request. -/
def State.idleCluster (s : State) (c : Nat) : Bool :=
  let cl := s.cl c
  cl.run.isNone && cl.st.sidings.isEmpty && cl.st.tileQs.all (fun e => e.2.entries.isEmpty) && cl.winsClosed && cl.coal.isEmpty &&
  cl.st.pend.isEmpty && cl.sendQ.isEmpty && cl.tokWait.isEmpty && !(cl.watches.any fun w => w.pending || w.queued) &&
  !(s.hubs.any fun h => h.2.acks.any fun a => a.dst.toNat == c && a.dstMod == 0xFF) && !(s.kept.any fun k => k.p.srcEp.toNat == c && !(k.p.ptype == 0x05 && k.p.msg.toNat % 16 == 3))

/-- CLUSTER_IDLE_STOP: idle for the delay, the cluster stops its PLL (R433). -/
def execClusterIdleStop (c us : Nat) (s : State) : Res :=
  if (s.cl c).pll ∧ s.idleCluster c ∧ max 1 (s.cfg 0x4800 1) ≤ us then
    .next (s.updCl c fun cl => { cl with pll := false })
  else .next s

/-- CLUSTER_WAKE. -/
def execClusterWake (c : Nat) (s : State) : Res := .next (s.woken c)

/-- PLL_LOCK_FAIL: counted, and a cluster fault (R432). -/
def execPllLockFail (c : Nat) (s : State) : Res := .next ((s.bump 0x4801 2 1).clusterFails c)

/-! ### Input (R427 to R430) -/

/-- POWER_APPLIED: both connectors seated, the bulk charges (R427, R519). -/
def execPowerApplied (mv : Nat) (s : State) : Res :=
  if s.power.st = .s5 then
    .next { s with power := { s.power with mv := mv, connA := true, connB := true, swOpen := false, low := decide (mv < 52000) } }
  else .next s

/-- INPUT_LOSS: hold-up begins, and nothing else changes: the telemetry shows the last sample (R428, R429) (DESIGN CHOICE, log 190). -/
def execInputLoss (s : State) : Res :=
  if s.power.st = .s5 then .next s else .next { s with power := { s.power with holdup := true } }

/-- INPUT_RETURN: the input is normal again, the switches close; within hold-up the event is counted and everything goes on (R429). It ends a low input and
closes the switches after a trip too, with nothing to count (DESIGN CHOICE, log 190). -/
def execInputReturn (mv : Nat) (s : State) : Res :=
  if s.power.st = .s5 then .next s else
  let t := { s with power := { s.power with holdup := false, swOpen := false, mv := mv, low := decide (mv < 52000) } }
  .next (if s.power.holdup then t.bump 0x4000 9 1 else t)

/-- HOLDUP_EXPIRY: the module falls to S5; an overvoltage that outlasts the hold-up is a trip (R429, R446). -/
def execHoldupExpiry (s : State) : Res :=
  if s.power.holdup then (if s.power.swOpen then .next (s.trip 7) else .next s.toS5) else .next s

/-- OVERVOLTAGE: both switches open and hold-up begins (R428) (DESIGN CHOICE, log 190). -/
def execOvervoltage (s : State) : Res :=
  if s.power.st = .s5 then .next s else .next { s with power := { s.power with swOpen := true, holdup := true } }

/-- SINGLE_FEED: one connector below 50 V lowers the cap (R428). -/
def execSingleFeed (lostB : Bool) (s : State) : Res :=
  .next { s with power := { s.power with single := true, connA := lostB, connB := !lostB } }

/-- SINGLE_FEED_END: the second connector is normal again (R428). -/
def execSingleFeedEnd (s : State) : Res :=
  .next { s with power := { s.power with single := false, connA := true, connB := true } }

/-- LOW_INPUT: 50 to 52 V lowers the cap (R428). -/
def execLowInput (mv : Nat) (s : State) : Res :=
  if 50000 ≤ mv ∧ mv < 52000 then .next { s with power := { s.power with mv := mv, low := true } } else .next s

/-- PWR_WARN_ASSERT: event 0x06 and, with a partner, the seal (R391, R430). -/
def execPwrWarnAssert (s : State) : Res :=
  if s.power.warn then .next s
  else .next (({ s with power := { s.power with warn := true } }.event 6 15 0).sealStart)

/-- ENTER_S3 with the host's grace (R438). -/
def State.enterS3 (s : State) : State := { s with power := { s.power with st := .enterS3, s3Pend := true, req := 0 } }

/-- PARTNER_SEAL_ACK: the seal is complete (R391); an attention drain that asked for it goes on to ENTER_S3 (R513). -/
def execPartnerSealAck (s : State) : Res :=
  if s.boot.sealed ∧ !s.boot.sealAck then
    let t := s.sealTaken
    if t.plate.drainSealed ∧ t.plate.attention = 1 then
      let t := (List.range 16).foldl (fun t p => t.stopForRerun p fun _ => true) t
      .next ({ t with plate := { t.plate with attention := 2 } }.enterS3)
    else .next t
  else .next s

/-- PWR_WARN_RELEASE: the seal ends and appends resume (R391), unless a drain holds it (R513). -/
def execPwrWarnRelease (s : State) : Res :=
  let t := { s with power := { s.power with warn := false } }
  if s.plate.drainSealed then .next t else .next t.sealEnd

/-! ### Power states (R437 to R441) -/

/-- A request is made that starts at once (DESIGN CHOICE, log 197). -/
def State.asks (s : State) (n : Nat) : State := { s with power := { s.power with asked := n } }

/-- A request is made that waits; it replaces an earlier one that has not started (R438). -/
def State.waitsReq (s : State) (n : Nat) : State := { s with power := { s.power with req := n, asked := n } }

/-- ENTER_S2: no partition starts a consignment from now on (R438). -/
def State.enterS2 (s : State) : State := { s with power := { s.power with st := .enterS2, req := 0 } }

/-- S2 requested. Before L1 the request fails, between L1 and L2 it waits (R438, R504); during ENTER_S2 and WAKE it waits for their end. -/
def State.requestS2 (s : State) : State :=
  match s.power.st with
  | .s0 => if s.boot.stage = .l2 then s.enterS2.asks 2 else if s.boot.stage = .l1 then s.waitsReq 2 else s
  | .enterS2 | .wake => s.waitsReq 2
  | .s2 => s.asks 2
  | _ => s

/-- A wake requested. -/
def State.requestWake (s : State) : State :=
  match s.power.st with
  | .s2 => { s with power := { s.power with st := .wake, req := 0, asked := 1 } }
  | .enterS2 | .wake => s.waitsReq 1
  | .s0 => { s with power := { s.power with req := 0, asked := 1 } }
  | _ => s

/-- A request for S3 is refused from L1 on while a partition has `enable` 1 or an open entry (R438, R504). -/
def State.s3Refused (s : State) : Bool := (s.power.st == .s0 || s.power.st == .s2) && s.atL1 && !s.quiet

/-- S3 requested (R438, R504). -/
def State.requestS3 (s : State) : State :=
  match s.power.st with
  | .s0 | .s2 => if s.s3Refused then s else s.enterS3.asks 3
  | .enterS2 | .wake => s.waitsReq 3
  | _ => s

/-- The request that has waited for the end of an entry or a wake proceeds (R438). -/
def State.nextReq (s : State) : State :=
  let t := { s with power := { s.power with req := 0 } }
  match s.power.req with
  | 1 => t.requestWake
  | 2 => t.requestS2
  | 3 => t.requestS3
  | _ => t

/-- REQUEST_S2. -/
def execRequestS2 (s : State) : Res := .next s.requestS2

/-- The hub caches are written back and invalidated (R263). -/
def State.flushHubs (s : State) : State := { s with hubs := Tab.mapV s.hubs {} fun h => { h with sets := [] } }

/-- Every window of every cluster closes; those without an outstanding grant at once (R100, R102). -/
def State.closeAll (s : State) : State :=
  (s.clusters.map (·.1)).foldl (fun t c =>
    (t.closeWindows c).updCl c fun cl => { cl with wins := cl.wins.map fun (e : Nat × Win) => (e.1, e.2.settleClose) }) s

/-- S2_ENTRY: with nothing RUNNING or HELD and no swap waiting: buffers written back and the windows closed; with every window closed, the windows are
cleared, caches empty, PLLs stopped, and a request that has waited follows (R100, R102, R438, R440, R485). -/
def execS2Entry (s : State) : Res :=
  if s.power.st = .enterS2 ∧ !s.anyRunning ∧ s.dict.set.st = 0 then
    let t := s.closeAll
    if !(t.clusters.all fun e => e.2.winsClosed) then .next t else
    let t := (t.clusters.map (·.1)).foldl (fun t c => t.coalOut c fun _ => true) t
    let t := { t with clusters := Tab.mapV t.clusters {} fun cl => { cl with coal := [], wins := [], pll := false } }
    .next { t.flushHubs with power := { s.power with st := .s2 } }.nextReq
  else .next s

/-- WAKE_REQUEST (R438). -/
def execWakeRequest (s : State) : Res := .next s.requestWake

/-- Every scratchpad reads and corrects its rows (R102). -/
def State.scrubAll (s : State) : State :=
  ((s.upset.map (·.1)).filter fun w => (padCluster (8 * w)).isSome).foldl
    (fun s w => let t := s.resolveWord w; { t with upset := Tab.put t.upset 0 w 0 }) s

/-- WAKE_DONE: station state starts cleared, the scratchpads are corrected, and the module is in S1 (R441). -/
def execWakeDone (s : State) : Res :=
  if s.power.st = .wake then
    let t := { s.scrubAll with power := { s.power with st := .s0 } }
    .next { t with clusters := Tab.mapV t.clusters {} fun cl => { cl with st := {}, wins := [], dc := [], core := {}, watches := [], tlb := [], promoted := [], pll := false } }.nextReq
  else .next s

/-- REQUEST_S3. -/
def execRequestS3 (s : State) : Res := .next s.requestS3

/-- S3_OK: the host has shut down its part (R438). -/
def execS3Ok (s : State) : Res := if s.power.st = .enterS3 then .next s.toS3 else .next s

/-- S3_GRACE_EXPIRY (R438). -/
def execS3GraceExpiry (s : State) : Res := if s.power.st = .enterS3 then .next s.toS3 else .next s

end Sys2Proof.Machine
end

