-- ==== Sys2Proof/Machine/Security.lean ====
section
/-! DEFINITION. Secure boot, identity and attestation (chapter 19). Signatures, hashes and key derivation are those of
outside standards: free values of Config. -/

namespace Sys2Proof.Machine

/-! ### Signature blocks (R448, R449) -/

/-- A well-formed signature block: bytes signed, signer, kind, the ECDSA and the HSS signature. -/
structure SigBlock where
  signed : List Byte
  signer : Nat
  kind : Nat
  ecdsa : List Byte
  hss : List Byte
  deriving DecidableEq, Repr

/-- The signature block at an object's end (R448). -/
def sigBlock (obj : List Byte) : Option SigBlock :=
  if obj.length < 3712 then none else
  let off := obj.length - 3712
  let blk := obj.drop off
  let h := leNat (blk.take 64)
  if off % 64 = 0 ∧ bits h 0 8 = 0x5B ∧ bits h 8 4 = 1 ∧ bits h 16 4 < 5 ∧ bits h 20 12 = 0 ∧ bits h 32 32 = off ∧ h >>> 64 = 0 ∧
      (blk.drop 3692).all (fun b => b == 0) then
    some { signed := obj.take off, signer := bits h 12 4, kind := bits h 16 4,
           ecdsa := (blk.drop 64).take 96, hss := (blk.drop 160).take 3532 }
  else none

/-- The role bits of a signer slot (R450) (DESIGN CHOICE, log 144). -/
def roleFirmware : Nat := 0
/-- It may sign debug tokens (DESIGN CHOICE, log 144). -/
def roleDebug : Nat := 1
/-- It may sign revocations (DESIGN CHOICE, log 144). -/
def roleRevoke : Nat := 2

/-- The slot's keys are those the object carries, the slot is not revoked and has the role (R449, R450). -/
def State.signerOk (s : State) (b : SigBlock) (keys : List Byte × List Byte) (role : Nat) : Bool :=
  let slot := Tab.look s.sec.signers ([], 0) b.signer
  Config.sha384 (keys.1 ++ keys.2) == slot.1 && !s.sec.revoked.contains b.signer && bit1 slot.2 role

/-- Both signatures of a block under a pair of keys (R449). -/
def sigsOk (b : SigBlock) (keys : List Byte × List Byte) : Bool :=
  Config.ecdsaVerify keys.1 b.signed b.ecdsa && Config.hssVerify keys.2 b.signed b.hss

/-- An object verifies under a Hersor signer with a role (R449). -/
def State.verifies (s : State) (obj : List Byte) (kind role : Nat) : Bool :=
  match sigBlock obj with
  | none => false
  | some b =>
    let keys := Config.signerKeys obj
    b.kind == kind && sigsOk b keys && s.signerOk b keys role

/-- An object verifies under an owner anchor; the block's `signer` names the anchor's slot 1 to 4. -/
def State.anchorVerifies (s : State) (obj : List Byte) (kind : Nat) : Option Nat :=
  match sigBlock obj with
  | none => none
  | some b =>
    match s.sec.anchors.find? (fun a => a.1 == b.signer) with
    | none => none
    | some a => if b.kind = kind ∧ sigsOk b (Config.anchorKeys a.2) then some a.1 else none

/-- The reason that refuses an image of a class: 0 none, 1 to 5 of R465; class 5 is signed under owner anchors (R457). Whether class and variant fit is told. -/
def State.imageTest (s : State) (n : Nat) (fits : Bool) (img : List Byte) : Nat :=
  match sigBlock img with
  | none => 1
  | some b =>
    let sigBad := if n = 5 then
        (match s.sec.anchors.find? (fun a => a.1 == b.signer) with | some a => !sigsOk b (Config.anchorKeys a.2) | none => false)
      else !sigsOk b (Config.signerKeys img)
    let signerBad := if n = 5 then !(s.sec.anchors.any fun a => a.1 == b.signer) else !s.signerOk b (Config.signerKeys img) roleFirmware
    if b.kind ≠ 0 ∨ sigBad then 1
    else if signerBad then 2
    else if !fits then 3
    else if Config.imageVersion img < (s.img n).counter then 4
    else if !Config.imageDigests img then 5
    else 0

/-- The reason that refuses a candidate (R465) (DEDUCED, log 219). -/
def State.imageReason (s : State) (n : Nat) (img : List Byte) : Nat := s.imageTest n (Config.imageFits n s.plan.variant img) img

/-- At bring-up a class takes its active image if it verifies, else its fallback (R453). Signatures and signer, the anti-rollback counter and the
component digests are tested (R449, R451, R457); class and variant were when the image was loaded (R465) (DEDUCED, log 219). The answer says whether the
class runs. -/
def State.bootClass (s : State) (n : Nat) : State × Bool :=
  let g := s.img n
  let why := s.imageTest n true g.active
  if why = 0 then (s, true)
  else if s.imageTest n true g.fallback = 0 then
    (s.updImg n fun g => { g with active := g.fallback, activeVer := g.fallbackVer, result := 0xA7, reason := why, trial := false }, true)
  else (s.updImg n fun g => { g with result := 0xA7, reason := why }, false)

/-- A former candidate that the last bring-up did not bring to L1 is dropped, and the fallback runs (R465) (DEDUCED, log 192). -/
def State.dropTrials (s : State) : State :=
  (List.range 6).foldl (fun s n =>
    if (s.img n).trial then s.updImg n fun g => { g with active := g.fallback, activeVer := g.fallbackVer, result := 0xA7, trial := false } else s) s

/-- A bring-up that has reached L1 proves the images it runs (R465). -/
def State.proveTrials (s : State) : State :=
  (List.range 6).foldl (fun s n => if (s.img n).trial then s.updImg n fun g => { g with trial := false } else s) s

/-- Armed candidates of some classes become active; the former active image becomes the fallback, and with status 0 the slot's claim ends (R465). -/
def State.takeCandidates (s : State) (classes : List Nat) : State :=
  classes.foldl (fun s n =>
    if (s.img n).armed then
      let key := objKey (0xA000 + 16 * n) 1
      let bytes := Tab.look s.dict.octs [] key
      let t := s.updImg n fun g => { g with fallback := g.active, fallbackVer := g.activeVer, active := bytes, activeVer := g.candVer, armed := false, status := 0, trial := true }
      { t with dict := { t.dict with octs := Tab.put t.dict.octs [] key [], claims := t.dict.claims.filter fun k => k.key != key } }
    else s) s

/-! ### Measurements and identity (R454, R460) -/

/-- Measurement 9's subject: lifecycle and debug state; a debug unlock stays in it until an attestation alias is derived with it (R464). -/
def State.modeByte (s : State) : Byte := BitVec.ofNat 8 (s.sec.lifecycle + (if s.sec.debugMask = 0 ∧ !s.sec.debugSeen then 0 else 128))

/-- Measurements 1 to 9 as the bring-up records them (R460). -/
def State.measure (s : State) : Tab (List Byte) :=
  let m (n : Nat) : List Byte := Config.sha384 (s.img n).active
  [(1, Config.romDigest), (2, m 0), (3, m 1), (4, m 2), (5, m 3), (6, m 4), (7, m 5),
   (8, Config.sha384 ((List.range 6).map fun n => BitVec.ofNat 8 (s.img n).counter)), (9, Config.sha384 [s.modeByte])]

/-- A recorded measurement. -/
def State.meas (s : State) (k : Nat) : List Byte := Tab.look s.sec.meas [] k

/-- The secret of DeviceID (R454, layer 0). -/
def deviceSecret : List Byte := Config.hmac384 Config.uds Config.romDigest

/-- The seed and identifier of the device HSS key (R454). -/
def hssSeed : List Byte := Config.hmac384 Config.uds (asciiBytes "hss" ++ Config.romDigest)

/-- CDI_1 of R454. -/
def State.cdi1 (s : State) : List Byte :=
  Config.hmac384 Config.uds (s.meas 1 ++ s.meas 2 ++ [BitVec.ofNat 8 s.sec.lifecycle])

/-- The secret of the management alias and CDI_2 (R454). -/
def State.cdi2 (s : State) : List Byte := Config.hmac384 s.cdi1 (s.meas 3)

/-- The management alias key is derived, unless a debug unlock destroyed it (R454, R464). -/
def State.deriveMgmt (s : State) : State :=
  if s.sec.keysGone then s else { s with sec := { s.sec with mgmtKey := s.cdi2 } }

/-- The attestation alias key is derived (R454, B6). -/
def State.deriveAtt (s : State) : State :=
  if s.sec.keysGone then s else
  { s with sec := { s.sec with debugSeen := false, attKey := Config.hmac384 s.cdi2 (s.meas 4 ++ s.meas 5 ++ s.meas 6 ++ s.meas 7 ++ s.meas 8 ++ s.meas 9) } }

/-- The first unused leaf is q. The next bottom tree's top leaf is recorded while the current tree is half used (R455). HSS signing stops for good when
no leaf lies below Q and the ring is worn out, or q reaches 2^40 (R456). -/
def State.leafAt (s : State) (q : Nat) : State :=
  { s with sec := { s.sec with
    q := q, topBound := max s.sec.topBound (q / 2 ^ 20 + (if 2 ^ 19 ≤ q % 2 ^ 20 then 2 else 1))
    exhausted := s.sec.exhausted || decide (2 ^ 40 ≤ q) || (decide (6400000 ≤ s.sec.ringUsed) && decide (s.sec.bound ≤ q)) } }

/-- At every start the SD takes Q as the first unused leaf; the leaves left are lost (R456). -/
def State.sdStart (s : State) : State :=
  { s with sec := { s.sec with lost := s.sec.lost + (s.sec.bound - s.sec.q) } }.leafAt s.sec.bound

/-- A leaf is made usable: where none lies below Q, Q rises by 1 024 while signing goes on (R455, R456). -/
def State.openBlock (s : State) : State :=
  if s.sec.q < s.sec.bound ∨ s.sec.exhausted then s
  else if 6400000 ≤ s.sec.ringUsed ∨ 2 ^ 40 ≤ s.sec.bound then { s with sec := { s.sec with exhausted := true } }
  else { s with sec := { s.sec with bound := s.sec.bound + 1024, ringUsed := s.sec.ringUsed + 1 } }

/-- A certificate with a leaf of the device HSS key, unless the secret has one already; none when signing has stopped (R450, R454, R456). -/
def State.certify (s : State) (key : List Byte) (old : Option (List Byte × Nat)) : State × Option (List Byte × Nat) :=
  if key.isEmpty ∨ old.any (fun x => x.1 == key) then (s, old) else
  let t := s.openBlock
  if t.sec.exhausted then (t, none) else (t.leafAt (t.sec.q + 1), some (key, t.sec.q))

/-- An alias certificate as its object shows it: the measurements of its layer, signed by DeviceID and by the leaf of the device HSS key; nothing without
the key, or without a certificate for it (R448, R450, R454, R456, R464). -/
def State.certBytes (s : State) (key : List Byte) (cert : Option (List Byte × Nat)) (label : String) (layer : List Nat) : List Byte :=
  match cert with
  | some (k, leaf) =>
    if key.isEmpty ∨ k ≠ key then [] else
    let tbs := Config.certificate key (asciiBytes label ++ layer.flatMap s.meas)
    Config.sealed tbs (Config.ecdsaSign deviceSecret tbs) (Config.hssSign hssSeed leaf tbs)
  | none => []

/-- The DeviceID certificate, as manufacture has issued it (R450). -/
def deviceCert : List Byte := Config.certificate deviceSecret (asciiBytes "DeviceID")

/-- The certificate of the attestation alias (`0x6000.03`). -/
def State.attCertBytes (s : State) : List Byte := s.certBytes s.sec.attKey s.sec.attCert "attestation" [4, 5, 6, 7, 8, 9]

/-- The management alias derived and certified (R451, B3). -/
def State.issueMgmt (s : State) : State :=
  let r := s.deriveMgmt.certify s.deriveMgmt.sec.mgmtKey s.sec.mgmtCert
  { r.1 with sec := { r.1.sec with mgmtCert := r.2 } }

/-- The attestation alias derived and certified (R451, B6). -/
def State.issueAtt (s : State) : State :=
  let r := s.deriveAtt.certify s.deriveAtt.sec.attKey s.sec.attCert
  { r.1 with sec := { r.1.sec with attCert := r.2 } }

/-- SD_RESTART (R454, R456). -/
def execSdRestart (s : State) : Res :=
  let t := { s.sdStart with boot := { s.boot with sdFaulted := false } }
  let t := if t.boot.stage = .off ∨ t.boot.stage = .charged then t else t.issueMgmt
  .next (if t.atL1 then t.issueAtt else t)

/-! ### The attestation report (R459 to R461) -/

/-- Measurement 10: the floor-plan table of R500 as the device reports it; what only bring-up and its tests change is not in it (DEDUCED, log 220). -/
def State.planBytes (s : State) : List Byte :=
  [s.plan.variant] ++ ((List.range 64).flatMap fun d => natLe 8 (s.dieEntry d)) ++
  ((List.range 1088).flatMap fun c => natLe 2 ((s.cl c).role.getD 0xFFFF)) ++
  ((List.range 32).flatMap fun p => (List.range 8).map fun l => BitVec.ofNat 8 (s.laneMap (p / 4) (p % 4) l)) ++
  ((List.range 20).flatMap fun m => natLe 2 (if s.plan.lostStacks.contains m then 0 else Tab.look s.plan.stackCap 0 m / 2 ^ 30)) ++
  (s.plan.rows.flatMap fun r => natLe 8 r.1) ++
  ((List.range 4).flatMap fun x => natLe 8 (if s.plan.cxlDown.contains x then 0 else Tab.look s.plan.cxlCap 0 x)) ++
  (s.plan.dAreas.flatMap fun a => natLe 8 a.1 ++ natLe 8 a.2)

/-- Measurement 11: the active configuration set, every object of a fixed size that differs from its default and `0x1100.06`. -/
def State.cfgBytes (s : State) : List Byte := (s.dict.active.flatMap fun e => natLe 4 e.1 ++ natLe 8 e.2.toNat) ++ Tab.look s.dict.octs [] (objKey 0x1100 6)

/-- A measurement block in DMTF format: index, specification, size, value type, value size, digest. -/
def measBlock (idx ty : Nat) (d : List Byte) : List Byte :=
  natLe 1 idx ++ natLe 1 1 ++ natLe 2 (d.length + 3) ++ natLe 1 ty ++ natLe 2 d.length ++ d

/-- The eleven blocks of R460. -/
def State.measBlocks (s : State) : List Byte :=
  measBlock 1 0 (s.meas 1) ++ measBlock 2 1 (s.meas 2) ++ measBlock 3 1 (s.meas 3) ++ measBlock 4 1 (s.meas 4) ++
  measBlock 5 1 (s.meas 5) ++ measBlock 6 1 (s.meas 6) ++ measBlock 7 3 (s.meas 7) ++ measBlock 8 7 (s.meas 8) ++
  measBlock 9 5 (s.meas 9) ++ measBlock 10 2 (Config.sha384 s.planBytes) ++ measBlock 11 3 (Config.sha384 s.cfgBytes)

/-- The report's header (R459). -/
def State.reportHeader (s : State) : List Byte :=
  natLe 64 (0x9E + 1 * 2 ^ 8 + 11 * 2 ^ 16 + Config.moduleId.toNat * 2 ^ 64 + leNat (s.sec.nonce.take 32) * 2 ^ 128 +
    (s.sec.boots % 2 ^ 32) * 2 ^ 384 + (s.sec.q % 2 ^ 40) * 2 ^ 416)

/-- The report, dual-signed with the attestation alias key and leaf q (R448, R459). -/
def State.report (s : State) : List Byte :=
  let body := s.reportHeader ++ s.measBlocks
  let signed := body ++ List.replicate (roundUp body.length 64 - body.length) 0
  let hdr := natLe 64 (0x5B + 1 * 2 ^ 8 + 1 * 2 ^ 16 + signed.length * 2 ^ 32)
  signed ++ hdr ++ (padTo 96 (Config.ecdsaSign s.sec.attKey signed)).take 96 ++ (padTo 3532 (Config.hssSign hssSeed s.sec.q signed)).take 3532 ++ List.replicate 20 0

/-- The SD can produce a report: it runs, holds its alias keys, L1 is reached and HSS signing goes on. -/
def State.canReport (s : State) : Bool :=
  s.atL1 && !s.boot.sdFaulted && !s.sec.keysGone && !s.sec.exhausted

/-- A session of the dictionary; session 0 is the service bus. -/
def State.sess (s : State) (n : Nat) : Session := Tab.look s.dict.sessions {} n

/-- A session changed. -/
def State.updSess (s : State) (n : Nat) (f : Session → Session) : State :=
  { s with dict := { s.dict with sessions := Tab.put s.dict.sessions {} n (f (s.sess n)) } }

/-- ATTESTATION_REPORT_READ: a leaf is made usable, the report is formed and latched for the session, and the leaf is used (R455, R459, R482). -/
def execAttestationReportRead (sess : Nat) (s : State) : Res :=
  if !s.canReport then .next s else
  let t := s.openBlock
  if t.sec.exhausted then .next t else
  let r := t.report
  let t := t.leafAt (t.sec.q + 1)
  .next (t.updSess sess fun x => { x with latch := some (objKey 0x6060 2, r) })

/-- REPORT_NONCE_WRITE: 32 bytes for the next report (R459). -/
def execReportNonceWrite (nonce : List Byte) (s : State) : Res :=
  if nonce.length = 32 then .next { s with sec := { s.sec with nonce := nonce } } else .next s

/-! ### SPDM (R458) -/

/-- An SPDM connection or session state. -/
def State.spdmOf (s : State) (n : Nat) : Spdm := Tab.look s.sec.spdm {} n

/-- It changes. -/
def State.updSpdm (s : State) (n : Nat) (f : Spdm → Spdm) : State :=
  { s with sec := { s.sec with spdm := Tab.put s.sec.spdm {} n (f (s.spdmOf n)) } }

/-- What a request does, and its response. -/
abbrev SpdmRes := State × List Byte

/-- A response: the request's version, a code, and a body from what it reports, as the standard has it (PRESUMED, log 142). -/
def spdmSay (code : Nat) (data m : List Byte) : List Byte := [m.head?.getD 0, BitVec.ofNat 8 code] ++ Config.spdmBody code data m

/-- An ERROR response with its code: 0x01 InvalidRequest, 0x04 UnexpectedRequest, 0x07 UnsupportedRequest, 0x0A SessionLimitExceeded, 0x41 VersionMismatch,
0x42 ResponseNotReady (PRESUMED, log 142). -/
def spdmErr (code : Nat) (m : List Byte) : List Byte := [if m.head?.getD 0 = 0x12 then 0x12 else 0x13, 0x7F, BitVec.ofNat 8 code, 0]

/-- The certificates of slot 0: DeviceID, attestation alias (R458). -/
def State.spdmChain (s : State) : List Byte := deviceCert ++ s.attCertBytes

/-- What a signed response reports: the data, and the attestation alias key's signature over request and data (R450). -/
def State.signedBy (s : State) (data m : List Byte) : List Byte := data ++ Config.ecdsaSign s.sec.attKey (m ++ data)

/-- A signed response: before L1, and without the alias key, ResponseNotReady (R458, R464). -/
def State.spdmSigned (s : State) (code : Nat) (data m : List Byte) : List Byte :=
  if s.atL1 ∧ !s.sec.keysGone then spdmSay code (s.signedBy data m) m else spdmErr 0x42 m

/-- Versions 1.2 and 1.3 are answered, and once one is chosen only that (R458). -/
def Spdm.speaks (x : Spdm) (m : List Byte) : Bool :=
  let v := m.head?.getD 0
  (v == 0x12 || v == 0x13) && (decide (x.version < 2) || v == x.ver)

/-- A request that needs the algorithms negotiated first. -/
def State.spdmAfter (s : State) (sess : Nat) (m : List Byte) (f : List Byte) : SpdmRes :=
  (s, if !(s.spdmOf sess).speaks m then spdmErr 0x41 m else if (s.spdmOf sess).algos then f else spdmErr 0x04 m)

/-- A request inside a secured session, which takes the connection on. -/
def State.spdmSecured (s : State) (sess code : Nat) (m : List Byte) (ok : Spdm → Bool) (f : Spdm → Spdm) : SpdmRes :=
  if !(s.spdmOf sess).speaks m then (s, spdmErr 0x41 m)
  else if ok (s.spdmOf sess) then (s.updSpdm sess f, spdmSay code [] m) else (s, spdmErr 0x04 m)

/-- GET_VERSION begins a connection; it alone is of version 1.0. -/
def State.spdmVersion (s : State) (sess : Nat) (m : List Byte) : SpdmRes :=
  if m.head? = some 0x10 then (s.updSpdm sess fun _ => { version := 1 }, spdmSay 0x04 [] m) else (s, spdmErr 0x41 m)

/-- GET_CAPABILITIES. -/
def State.spdmCapabilities (s : State) (sess : Nat) (m : List Byte) : SpdmRes :=
  if (s.spdmOf sess).version = 0 then (s, spdmErr 0x04 m)
  else if !(s.spdmOf sess).speaks m then (s, spdmErr 0x41 m)
  else (s.updSpdm sess fun x => { x with version := 2, ver := m.head?.getD 0 }, spdmSay 0x61 [] m)

/-- NEGOTIATE_ALGORITHMS. -/
def State.spdmAlgorithms (s : State) (sess : Nat) (m : List Byte) : SpdmRes :=
  if (s.spdmOf sess).version < 2 then (s, spdmErr 0x04 m)
  else if !(s.spdmOf sess).speaks m then (s, spdmErr 0x41 m)
  else (s.updSpdm sess fun x => { x with algos := true }, spdmSay 0x63 [] m)

/-- GET_DIGESTS. -/
def State.spdmDigests (s : State) (sess : Nat) (m : List Byte) : SpdmRes := s.spdmAfter sess m (spdmSay 0x01 s.spdmChain m)

/-- GET_CERTIFICATE: only slot 0 is provisioned. -/
def State.spdmCertificate (s : State) (sess : Nat) (m : List Byte) : SpdmRes :=
  s.spdmAfter sess m (if bits (m.getD 2 0).toNat 0 4 = 0 then spdmSay 0x02 s.spdmChain m else spdmErr 0x01 m)

/-- CHALLENGE, signed. -/
def State.spdmChallenge (s : State) (sess : Nat) (m : List Byte) : SpdmRes :=
  s.spdmAfter sess m (if bits (m.getD 2 0).toNat 0 4 = 0 then s.spdmSigned 0x03 (s.spdmChain ++ s.measBlocks) m else spdmErr 0x01 m)

/-- GET_MEASUREMENTS: signed when its attribute bit 0 asks for it. -/
def State.spdmMeasurements (s : State) (sess : Nat) (m : List Byte) : SpdmRes :=
  s.spdmAfter sess m (if bit1 (m.getD 2 0).toNat 0 then s.spdmSigned 0x60 s.measBlocks m else spdmSay 0x60 s.measBlocks m)

/-- The secured sessions of all connections. -/
def State.spdmSessions (s : State) : Nat := (s.sec.spdm.map fun e => e.2.opening + e.2.secured).sum

/-- KEY_EXCHANGE: at most four secured sessions at once, of all connections together (R458) (PRESUMED, log 142). -/
def State.spdmKeyExchange (s : State) (sess : Nat) (m : List Byte) : SpdmRes :=
  if !(s.spdmOf sess).speaks m then (s, spdmErr 0x41 m)
  else if !(s.spdmOf sess).algos then (s, spdmErr 0x04 m)
  else if 4 ≤ s.spdmSessions then (s, spdmErr 0x0A m)
  else if s.atL1 ∧ !s.sec.keysGone then
    (s.updSpdm sess fun x => { x with opening := x.opening + 1 }, s.spdmSigned 0x64 (s.spdmChain ++ s.measBlocks) m)
  else (s, spdmErr 0x42 m)

/-- FINISH: a session's handshake ends. The sessions of one connection are alike, so they are counted, not told apart (PRESUMED, log 142). -/
def State.spdmFinish (s : State) (sess : Nat) (m : List Byte) : SpdmRes :=
  s.spdmSecured sess 0x65 m (fun x => x.opening != 0) fun x => { x with opening := x.opening - 1, secured := x.secured + 1 }

/-- HEARTBEAT. -/
def State.spdmHeartbeat (s : State) (sess : Nat) (m : List Byte) : SpdmRes := s.spdmSecured sess 0x68 m (fun x => x.secured != 0) id

/-- KEY_UPDATE. -/
def State.spdmKeyUpdate (s : State) (sess : Nat) (m : List Byte) : SpdmRes := s.spdmSecured sess 0x69 m (fun x => x.secured != 0) id

/-- END_SESSION. -/
def State.spdmEnd (s : State) (sess : Nat) (m : List Byte) : SpdmRes :=
  s.spdmSecured sess 0x6C m (fun x => x.secured != 0) fun x => { x with secured := x.secured - 1 }

/-- What the responder does with a message of a request code (R458) (PRESUMED, log 142). -/
def State.spdmDo (s : State) (sess req : Nat) (m : List Byte) : SpdmRes :=
  match req with
  | 0x84 => s.spdmVersion sess m
  | 0xE1 => s.spdmCapabilities sess m
  | 0xE3 => s.spdmAlgorithms sess m
  | 0x81 => s.spdmDigests sess m
  | 0x82 => s.spdmCertificate sess m
  | 0x83 => s.spdmChallenge sess m
  | 0xE0 => s.spdmMeasurements sess m
  | 0xE4 => s.spdmKeyExchange sess m
  | 0xE5 => s.spdmFinish sess m
  | 0xE8 => s.spdmHeartbeat sess m
  | 0xE9 => s.spdmKeyUpdate sess m
  | 0xEC => s.spdmEnd sess m
  | _ => (s, spdmErr 0x07 m)

/-! ### DTLS sessions (R462, R489) -/

/-- The open DTLS sessions. -/
def State.openSess (s : State) : List Nat := (s.dict.sessions.filter fun e => e.1 != 0).map (·.1)

/-- The count of open sessions shown in `0x1102.09`. -/
def State.showSess (s : State) : State := s.setObj 0x1102 9 s.openSess.length

/-- A session ends: its latch, its claims and its SPDM connection go (R458, R481, R482). -/
def State.endSess (s : State) (n : Nat) : State :=
  ({ s with sec := { s.sec with spdm := s.sec.spdm.filter fun e => e.1 != n }, dict := { s.dict with sessions := s.dict.sessions.filter (fun e => e.1 != n), claims := s.dict.claims.filter (fun k => k.sess != n) } }).showSess

/-- A chain verifies from a pair of keys on: every certificate under its issuer's two keys (R449, R462). -/
def chainOk : List Byte × List Byte → List (List Byte × List Byte) → Bool
  | _, [] => true
  | keys, (cert, sigs) :: rest =>
    Config.ecdsaVerify keys.1 cert (sigs.take 96) && Config.hssVerify keys.2 cert (sigs.drop 96) && chainOk (Config.certKeys cert) rest

/-- DTLS_HANDSHAKE: the peer's chain ends at an owner anchor and every certificate in it verifies, both signatures included; the session takes the anchor's
role. Refused with 8 sessions open, without the management alias, or with HSS signing at its end (R456, R462, R464, R420). -/
def execDtlsHandshake (anchor : Nat) (cas : List (List Byte × List Byte)) (leaf : List Byte × List Byte) (s : State) : Res :=
  let a := Tab.look s.sec.anchors [] anchor
  let ok := !a.isEmpty && chainOk (Config.anchorKeys a) (cas ++ [leaf])
  let up := !s.sec.mgmtKey.isEmpty && !s.sec.keysGone && !s.sec.exhausted && !s.boot.sdFaulted
  match (List.range 8).find? (fun k => !(s.openSess.contains (k + 1))) with
  | some k =>
    if ok ∧ up ∧ s.running then
      .next (((s.updSess (k + 1) fun _ => { role := 8 + Config.anchorRole a }).bump 0x1102 3 1).showSess)
    else .next (s.bump 0x1102 4 1)
  | none => .next (s.bump 0x1102 4 1)

/-- SESSION_KEY_UPDATE: every 2^24 records the session's keys are updated (R462). -/
def execSessionKeyUpdate (sess : Nat) (s : State) : Res :=
  if s.openSess.contains sess then .next (s.updSess sess fun x => { x with keyUpdates := x.keyUpdates + 1 }) else .next s

/-! ### Debug, anchors, revocation, counters (R457, R462, R464, R466) -/

/-- DEBUG_TOKEN: opens the named dies' debug ports, destroys both alias keys and closes the DTLS sessions (R464). -/
def execDebugToken (obj : List Byte) (s : State) : Res :=
  let (mid, nonce, mask) := Config.tokenBinds obj
  let busy := (List.range 64).any fun d => bit1 mask.toNat d &&
    (s.parts.any fun e => e.2.regs.enable && e.2.blk.any fun b => b.clusters.any fun c => c / 17 == d)
  if s.verifies obj 2 roleDebug ∧ !s.boot.sdFaulted ∧ mid = Config.moduleId ∧ nonce = Config.debugNonce s.sec.powerOns ∧ !busy then
    let t := s.openSess.foldl State.endSess s
    let t := (List.range 64).foldl (fun t d => if bit1 mask.toNat d then t.updDie d fun x => { x with debugOpen := true } else t) t
    .next { t with sec := { t.sec with keysGone := true, debugSeen := true, mgmtKey := [], attKey := [], debugMask := t.sec.debugMask ||| mask } }
  else .next s

/-- Anchors that the module can hold: up to four, in slots 1 to 4, no slot twice (R450) (PRESUMED, log 141). -/
def anchorsOk (l : List (Nat × List Byte)) : Bool :=
  !l.isEmpty && l.all (fun e => 1 ≤ e.1 && e.1 ≤ 4 && !e.2.isEmpty) && (l.map (·.1)).eraseDups.length == l.length

/-- ANCHOR_UPDATE: the first over the service bus under physical presence, later ones signed by an anchor that stays; none may leave no anchor (R462). -/
def execAnchorUpdate (overBus : Bool) (obj : List Byte) (s : State) : Res :=
  let new := Config.anchorResult obj s.sec.anchors
  if s.boot.sdFaulted ∨ !anchorsOk new then .next s
  else if s.sec.anchors = [] then
    if overBus ∧ s.plate.presence then .next { s with sec := { s.sec with anchors := new } } else .next s
  else match s.anchorVerifies obj 3 with
    | some a => if new.any (fun e => e.1 == a && e.2 == Tab.look s.sec.anchors [] a) then .next { s with sec := { s.sec with anchors := new } } else .next s
    | none => .next s

/-- REVOCATION: signed by another unrevoked slot with the role; some unrevoked slot keeps the firmware role (R466). -/
def execRevocation (obj : List Byte) (s : State) : Res :=
  let k := Config.revokedSlot obj
  let left := (List.range 16).any fun j => j != k && !s.sec.revoked.contains j && bit1 (Tab.look s.sec.signers ([], 0) j).2 roleFirmware
  let other := (sigBlock obj).any fun b => b.signer != k
  if s.verifies obj 4 roleRevoke ∧ other ∧ left ∧ k < 16 ∧ !s.boot.sdFaulted then
    .next { s with sec := { s.sec with revoked := setMember s.sec.revoked k true } }
  else .next s

/-- COUNTER_ADVANCE: after the running active image has reached L2 the counter advances to its version; a version above 63 or below the counter is ignored (R457). -/
def execCounterAdvance (cls : Nat) (v : Byte) (s : State) : Res :=
  let g := s.img cls
  if s.boot.stage = .l2 ∧ v.toNat ≤ 63 ∧ g.counter ≤ v.toNat ∧ g.activeVer ≤ 63 ∧ g.counter ≤ g.activeVer ∧ cls < 6 then
    .next (s.updImg cls fun g => { g with counter := g.activeVer })
  else .next s

/-! ### Image updates (R465) -/

/-- VERIFY: the SD starts verifying a candidate; in another status the command has nothing to verify (R465) (DEDUCED, log 6). -/
def execVerify (cls : Nat) (s : State) : Res :=
  if (s.img cls).status = 1 ∧ !s.boot.sdFaulted then .next (s.updImg cls fun g => { g with status := 2 }) else .next s

/-- The candidate image of a class. -/
def State.candidate (s : State) (n : Nat) : List Byte := Tab.look s.dict.octs [] (objKey (0xA000 + 16 * n) 1)

/-- VERIFY_DONE: status 3, or 5 with IMAGE_REJECTED and the reason. -/
def execVerifyDone (cls : Nat) (s : State) : Res :=
  if (s.img cls).status = 2 then
    let r := s.imageReason cls (s.candidate cls)
    if r = 0 then .next (s.updImg cls fun g => { g with status := 3, result := 0, reason := 0, candVer := Config.imageVersion (s.candidate cls) })
    else .next (s.updImg cls fun g => { g with status := 5, result := 0xA7, reason := r })
  else .next s

/-- ACTIVATE: a verified candidate becomes the active image at the next bring-up, or host boot (DEDUCED, log 6). -/
def execActivate (cls : Nat) (s : State) : Res :=
  if (s.img cls).status = 3 then .next (s.updImg cls fun g => { g with status := 4, armed := true }) else .next s

/-- ABANDON: the slot is empty again and its claim ends. -/
def execAbandon (cls : Nat) (s : State) : Res :=
  let key := objKey (0xA000 + 16 * cls) 1
  let t := s.updImg cls fun g => { g with status := 0, armed := false, candVer := 0 }
  .next { t with dict := { t.dict with octs := Tab.put t.dict.octs [] key [], claims := t.dict.claims.filter fun k => k.key != key } }

end Sys2Proof.Machine
end

