-- ==== Sys2Proof/Machine/Boot.lean ====
section
/-! DEFINITION. Bring-up and the floor plan (chapter 21, R258, R260, R391, R399, R451, R453). -/

namespace Sys2Proof.Machine

/-! ### The start of a bring-up (B1, B2) -/

/-- Bring-up stops with a reason, which the display shows (R505, R517). -/
def State.bootStop (s : State) (k : Nat) : State :=
  { s with boot := { s.boot with stop := k } }.faultCode (asciiBytes "B" ++ digits k)

/-- B1 and B2: the always-on domains and the boot chain start; the SD takes its leaves, and armed images become active (R451, R453, R456). Every bring-up is counted (R488), and finds the lifecycle
fuses where they were or further on (R464) (DESIGN CHOICE, log 218). -/
def State.bootOn (s : State) : State :=
  let t := { s with power := { s.power with st := .s0, charged := true, tripped := false },
                    boot := { s.boot with stage := .charged, stop := 0, report := none, hostPrimary := s.cfg 0x2111 1, reachedL2 := false },
                    sec := { s.sec with boots := s.sec.boots + 1, lifecycle := max s.sec.lifecycle (min 2 (Config.lifecycleFuses (s.sec.boots + 1))) },
                    plate := { s.plate with attention := 0, faulted := false } }
  { t.sdStart.dropTrials.takeCandidates (List.range 6) with plan := { variant := s.plan.variant } }

/-- The SD image is verified: with it the boot chain goes on, without it bring-up stops at B1 (R453). -/
def State.bootStart (s : State) : State :=
  let r := s.bootOn.bootClass 0
  if r.2 then r.1 else r.1.bootStop 1

/-- CHARGE_COMPLETE: with the input applied and the module off, the boot chain starts (R491); every power-on draws a new debug nonce (R464). -/
def execChargeComplete (s : State) : Res :=
  if s.power.st = .s5 ∧ s.power.connA ∧ s.power.connB ∧ s.power.mv ≠ 0 then
    .next { s with sec := { s.sec with powerOns := s.sec.powerOns + 1 } }.bootStart
  else .next s

/-- S3_WAKE: a wake over MDP starts the full bring-up, unless a trip condition persists (R438, R446). -/
def execS3Wake (s : State) : Res :=
  if s.power.st = .s3 ∧ !(s.power.tripped && (s.tripNow != 0 || decide (s.waterFlow < 12000) || s.power.swOpen)) then
    .next { s.bootStart with power := { s.bootStart.power with tripCause := 0, tripped := false, asked := 1 } }
  else .next s

/-- Bring-up goes no further: it has stopped for a reason, or a request for S3 stops it (R504). -/
def State.bringStops (s : State) : Bool := s.boot.stop != 0 || s.power.st == .enterS3

/-- L0_REACHED: the AOC image is verified, measurements are recorded, the management alias is derived, MDP is reachable (R451, B3). Without the SD no bring-up completes (R420). -/
def execL0Reached (s : State) : Res :=
  if s.boot.stage = .charged ∧ !s.bringStops ∧ !s.boot.sdFaulted then
    let (t, ok) := s.bootClass 1
    let t := { t with boot := { t.boot with stage := .l0 } }
    if ok then .next { t with sec := { t.sec with meas := t.measure } }.issueMgmt else .next (t.bootStop 2)
  else .next s

/-! ### Fuse scan (R258, R260, R399, R494, R502, R503) -/

/-- The fused dies, the reserve dies in order, of EPT-100-C (R502), by row × 8 + column. -/
def cFused : List Nat := [9, 12, 18, 21, 25, 30, 33, 38, 42, 45, 49, 54]

def cReserve : List Nat := [11, 20, 43, 52]

def variantC : Byte := 0x43
def variantM : Byte := 0x4D
def variantA : Byte := 0x41

/-- The k-th stacks of a hub that are present: hub h has M(5h) to M(5h + 4) (R258). -/
def presentStacks (cap : Nat → Nat) (h : Nat) : List Nat := ((List.range 5).map fun k => 5 * h + k).filter fun m => cap m ≠ 0

/-- The rows of HBM from the stacks' capacities in GiB: size in bytes and one stack of each hub (R258). -/
def layRows (cap : Nat → Nat) : List (Nat × List Nat) :=
  let hubs := (List.range 4).map (presentStacks cap)
  let n := hubs.foldl (fun n l => min n l.length) 5
  (List.range n).map fun k =>
    let st := hubs.map fun l => l.getD k 0
    (4 * st.foldl (fun c m => min c (cap m)) (2 ^ 16) * 2 ^ 30, st)

/-- The base and bytes of a protected range of `0x2122` (R399). -/
def rangeOf (v : Nat) : Nat × Nat := (bits v 0 34 * 16384, bits v 34 30 * blk48)

/-- Bytes of the checkpoint area, the ledger mirror area and the partner store, rounded to whole blocks (R405, R500). -/
def ckptBytes (dies : Nat) : Nat := roundUp (dies * 16 * 0x1004000) blk48
def mirrorBytes : Nat := 536887296
def partnerBytes : Nat := 134234112

/-- The areas of region D below the carve-out: parity, checkpoint, ledger mirrors, partner store (R399, R400). -/
def layD (carve dies : Nat) (ranges : List (Nat × Nat)) : Option (List (Nat × Nat)) :=
  let prot := ckptBytes dies + mirrorBytes + partnerBytes
  let parity := roundUp ((prot / blk48 + (ranges.map fun r => r.2 / blk48).sum) * 16384) blk48
  if carve < prot + parity then none
  else
    let b := carve - (prot + parity)
    some [(b, parity), (b + parity, ckptBytes dies), (b + parity + ckptBytes dies, mirrorBytes),
          (b + parity + ckptBytes dies + mirrorBytes, partnerBytes)]

/-- One compute die as the fuse scan reports it, with the marks that earlier bring-ups left; a die without a working
cluster has failed as a die (R494, R499, R502). -/
def State.scanDie (s : State) (v : Byte) (d : Nat) (f : DieFuses) : State :=
  let fused := v == variantC && cFused.contains d
  let reserve := v == variantC && cReserve.contains d
  let gone := (List.range 17).all fun k => bit1 f.bad.toNat k || s.boot.badClusters.contains (d * 17 + k)
  let failed := !fused && (f.dieBad || s.boot.badDies.contains d || gone)
  let t := s.updDie d fun _ => { scanned := true, fused := fused, reserve := reserve, failed := failed, spareK := f.spareK.toNat }
  (List.range 17).foldl (fun t k =>
    let c := d * 17 + k
    let st : CStat :=
      if fused ∨ bit1 f.bad.toNat k then .fusedOff
      else if failed ∨ s.boot.badClusters.contains c then .failed
      else if reserve ∨ f.spareK.toNat = k then .spare
      else .active
    t.updCl c fun _ => { stat := st, pll := st == .active || st == .spare }) t

/-- The link ports at fuse scan: port 3 of each link die is fused on EPT-100-M; the mode is that of `0x2101` (R369, R502). -/
def State.scanPorts (s : State) (v : Byte) : State :=
  (List.range 32).foldl (fun t p =>
    t.updPort p fun _ => { portInit p with st := if v = variantM ∧ p % 4 = 3 then .fused else .retrain, mode := s.cfg 0x2101 (p + 1) }) s

/-- The dies that hold roles when nothing more fails: they number the checkpoint slots (R405, R502). -/
def planDies (v : Byte) : Nat := if v = variantC then 48 else 64

/-- Every die's and every port's fuses are taken, and a request for the full memory test is spent (R491, R495). -/
def State.scanAll (s : State) (r : FuseReport) : State :=
  (((List.range 64).foldl (fun t d => t.scanDie r.variant d (r.dies.getD d { bad := 0, spareK := 31, dieBad := true })) s).scanPorts r.variant).setObj 0x8000 6 0

/-- FUSE_SCAN_DONE: the floor plan is built and HBM laid out, once coolant flows (R491, R494, R519). The commit unit is that of the first working hub (R340) (DESIGN CHOICE, log 26, DEDUCED, log 137) (DEDUCED, log 223). -/
def execFuseScanDone (r : FuseReport) (s : State) : Res :=
  if s.boot.stage ≠ .l0 ∨ s.bringStops ∨ s.waterFlow < 12000 then .next s
  else if r.variant ≠ variantA ∧ r.variant ≠ variantM ∧ r.variant ≠ variantC then .next (s.bootStop 4)
  else
    let fusedM (m : Nat) : Bool := r.variant == variantM && m % 5 == 4
    let found (m : Nat) : Nat := if fusedM m then 0 else r.stackGiB.getD m 0
    let cap (m : Nat) : Nat := if fusedM m || s.boot.badStacks.contains m then 0 else (if s.boot.record.isEmpty then r.stackGiB else s.boot.record).getD m 0
    let rows := layRows cap
    let len := (rows.map (·.1)).sum
    let carve := len - clampN 16 256 (s.cfg 0x2060 2) * 2 ^ 30
    let ranges := if s.cfg 0x2120 2 = 1 then ((List.range 16).map fun k => rangeOf (s.cfg 0x2122 (k + 1))).filter fun x => x.2 ≠ 0 else []
    let valid := r.recordValid && !s.boot.record.isEmpty && (List.range 20).all fun m => s.boot.record.getD m 0 == found m
    let abbr := valid && !s.boot.memFault && decide (r.recordDays < clampN 1 365 (s.obj 0x8000 7)) && s.obj 0x8000 6 == 0
    let t := s.scanAll r
    let t := { t with
      plan := { t.plan with
        variant := r.variant, rows := rows, carve := carve, ranges := ranges
        stackCap := (List.range 20).foldl (fun tb m => Tab.put tb 0 m (cap m * 2 ^ 30)) []
        dAreas := (layD carve (planDies r.variant) ranges).getD [] }
      boot := { t.boot with stage := .scanned, report := some r, abbreviated := abbr, tested := [], topFirst := false } }
    let t := (t.nameCu (t.nextHub fun _ => true)).redigest
    if rows.isEmpty ∨ (layD carve (planDies r.variant) ranges).isNone then .next (t.bootStop 3) else .next t

/-! ### The memory test (R494 to R496) -/

/-- The bytes of a stack's part of an address range are zeroed with valid check bits; what the test has corrected is counted (R495, R496). -/
def State.zeroStack (s : State) (m lo hi : Nat) : State :=
  let isIn (a : Nat) : Bool := lo ≤ a && a < hi && s.stackOf a == some m
  { s with mem := s.mem.filter fun e => !isIn e.1, poison := s.poison.filter fun e => !isIn (e.1 * 8),
           upset := s.upset.filter fun e => !isIn (e.1 * 8) }.bump 0x5010 1 (s.upset.filter fun (e : Nat × Nat) => isIn (e.1 * 8) && e.2 == 1).length

/-- The base of region D, from which the first pass tests the top row. -/
def State.dBase (s : State) : Nat := (s.plan.dAreas.head?.map (·.1)).getD s.plan.carve

/-- The row that holds a stack, with its base and size. -/
def rowWith (rows : List (Nat × List Nat)) (m : Nat) : Option (Nat × Nat × Nat) :=
  ((List.range rows.length).find? fun k => (rows[k]?).any fun r => r.2.contains m).map fun k =>
    (k, ((rows.take k).map (·.1)).sum, ((rows[k]?).map (·.1)).getD 0)

/-- HBM_STACK_TESTED: a stack of the top row is tested twice, first over the carve-out and D, last over the rest; any other stack
once. A row whose stacks have all passed becomes reachable (R494). A stack that fails is lost, from L1 on as R416 says; in the first pass that ends the
bring-up at L0 (R496, R504). Marks 0 to 19 stand for first passes, 100 and up for whole tests. -/
def execHbmStackTested (m : Nat) (ok : Bool) (s : State) : Res :=
  if s.boot.report.isNone ∨ s.bringStops ∨ s.plan.lostStacks.contains m then .next s else
  match rowWith s.plan.rows m with
  | none => .next s
  | some (k, base, size) =>
    let top := k + 1 == s.plan.rows.length
    let first := top && !s.boot.tested.contains m
    if !ok then
      if s.atL1 then .next (s.stackLost m) else
      let t := { s with plan := { s.plan with lostStacks := s.plan.lostStacks ++ [m] },
                        boot := { s.boot with memFault := true, badStacks := setMember s.boot.badStacks m true } }
      if first then .next (t.bootStop 3) else .next t.planChanged
    else if first then
      let t := s.zeroStack m s.dBase s.hbmLen
      let tested := s.boot.tested ++ [m]
      .next { t with boot := { t.boot with tested := tested, topFirst := ((s.plan.rows[k]?).map (·.2)).getD [] |>.all tested.contains } }
    else
      let t := s.zeroStack m base (if top then s.dBase else base + size)
      let tested := setMember s.boot.tested (100 + m) true
      let whole := ((s.plan.rows[k]?).map (·.2)).getD [] |>.all fun x => tested.contains (100 + x)
      .next { t with boot := { t.boot with tested := tested },
                     plan := { t.plan with rowsOk := if whole then t.plan.rowsOk ||| 2 ^ k else t.plan.rowsOk } }

/-! ### Firmware (R497) -/

/-- A die on which every cluster that is not fused off has failed is marked failed (R497). -/
def State.markDeadDies (s : State) : State :=
  (List.range 64).foldl (fun t d =>
    let x := t.die d
    let alive := (List.range 17).any fun k => (t.cl (d * 17 + k)).stat == .active || (t.cl (d * 17 + k)).stat == .spare
    if x.fused ∨ x.failed ∨ alive then t
    else { t.updDie d (fun x => { x with failed := true }) with boot := { t.boot with badDies := setMember t.boot.badDies d true } }) s

/-- FIRMWARE_BROADCAST: the cluster and hub images are verified and sent; the clusters whose digest equals the manifest's run it. -/
def execFirmwareBroadcast (good : List Nat) (s : State) : Res :=
  if s.boot.stage ≠ .scanned ∨ s.bringStops ∨ s.boot.sdFaulted then .next s else
  let (t, ok2) := s.bootClass 2
  let (t, ok3) := t.bootClass 3
  if !ok2 || !ok3 then .next t else
  let t := good.foldl (fun t c => if (t.cl c).stat = .active ∨ (t.cl c).stat = .spare then t.updCl c fun x => { x with fwOk := true } else t) t
  .next { t with boot := { t.boot with stage := .fw } }

/-- CLUSTER_DIGEST_TIMEOUT: a cluster whose digest differs or that does not report within 2 s is marked failed. -/
def execClusterDigestTimeout (c : Nat) (s : State) : Res :=
  if s.boot.stage = .fw ∧ !(s.cl c).fwOk ∧ ((s.cl c).stat = .active ∨ (s.cl c).stat = .spare) then
    let t := s.updCl c fun _ => { stat := .failed, pll := false }
    .next { t with boot := { t.boot with badClusters := setMember t.boot.badClusters c true } }.markDeadDies
  else .next s

/-! ### L1 (R375, R376, R391, R492, R498, R502) -/

/-- The holder of a group that has none is its lowest-numbered enabled partition; a partition with a block and no group holds
its set (R376). -/
def State.formHolds (s : State) : State :=
  (List.range 16).foldl (fun t p =>
    match (t.pt p).blk with
    | none => t
    | some b =>
      match b.group with
      | none => t.updPt p fun x => { x with regs := { x.regs with holds := true }, counted := true }
      | some g =>
        let inG (q : Nat) : Bool := (t.pt q).blk.any fun b => b.group == some g
        let held := (List.range 16).any fun q => inG q && (t.pt q).regs.holds
        let firstOn := (List.range 16).find? fun q => inG q && (t.pt q).regs.enable
        if !held ∧ firstOn = some p then t.updPt p fun x => { x with regs := { x.regs with holds := true }, counted := true } else t) s

/-- A reserve die becomes active: its clusters join, its spare stays (R502). -/
def State.wakeReserve (s : State) (d : Nat) : State :=
  (List.range 17).foldl (fun t k =>
    let c := d * 17 + k
    if (t.cl c).stat = .spare ∧ k ≠ (t.die d).spareK then t.updCl c fun x => { x with stat := .active } else t)
    (s.updDie d fun x => { x with reserve := false })

/-- Reserve dies become active in order while fewer than 48 are (R502). -/
def State.wakeReserves (s : State) : State :=
  if s.plan.variant ≠ variantC then s else
  cReserve.foldl (fun t d =>
    let act := ((List.range 64).filter fun k => !(t.die k).fused && !(t.die k).reserve && !(t.die k).failed).length
    if act < 48 ∧ (t.die d).reserve ∧ !(t.die d).failed then t.wakeReserve d else t) s

/-- The roles of one die at its tree position: its active clusters in increasing k, the spare among them when fewer than 16 are
active (R498). -/
def State.dieRoleAssign (s : State) (d pos : Nat) : State :=
  let ks := List.range 17
  let act := ks.filter fun k => (s.cl (d * 17 + k)).stat == .active
  let sp := (s.die d).spareK
  let use := decide (act.length < 16) && (s.cl (d * 17 + sp)).stat == .spare && decide (sp < 17)
  let t := if use then (s.updDie d fun x => { x with spareUsed := true }).updCl (d * 17 + sp) fun x => { x with stat := .active } else s
  let mem := (ks.filter fun k => act.contains k || (use && k == sp)).take 16
  (List.range mem.length).foldl (fun t i =>
    t.updCl (d * 17 + mem.getD i 0) fun x => { x with role := some (pos * 16 + i) }) t

/-- Tree positions and roles for the whole module (R498). -/
def State.assignRoles (s : State) : State :=
  let t := s.renumber
  (List.range 64).foldl (fun t d => match (t.die d).treePos with | some p => t.dieRoleAssign d p | none => t) t

/-- An open entry as the partner gives it back: ACCEPTED, to run from its start with REPLAYED (R391). -/
def Entry.restored (e : Entry) : Entry := { seq := e.seq, desc := e.desc, info := 2 }

/-- The sealed ledger comes back: partitions with open entries are HALTED (R391). -/
def State.restoreLedger (s : State) : State :=
  if !s.hasPartner then s
  else if s.boot.atPartner.isEmpty then s.setObj 0x5808 1 1
  else
    let open' := (s.boot.atPartner.map fun x => x.2.2.2.length).sum
    let t := s.boot.atPartner.foldl (fun t x =>
      t.updPt x.1 fun pt => { pt with
        nextSeq := x.2.1, w := x.2.2.1, entries := x.2.2.2.map Entry.restored
        regs := { pt.regs with halted := pt.regs.halted || !x.2.2.2.isEmpty } }) s
    let t := { t with boot := { t.boot with atPartner := [], sealed := false, sealAck := false } }
    (t.setObj 0x5808 1 3).event 8 15 open'

/-- Every spare of R423 is back: each active die's spare cluster, the lanes of every port, every hub and stack, both host dies; the exhaustion is cleared
(`0x5000.06`). -/
def State.sparesBack (s : State) : Bool :=
  ((List.range 64).all fun d => (s.die d).treePos.isNone || !(s.die d).spareUsed && (s.cl (d * 17 + (s.die d).spareK)).stat == .spare) &&
  ((List.range 32).all fun p => !(s.port p).x4 && (s.port p).sparing.isNone && (s.port p).lanes.all fun l => l < 32) &&
  ((List.range 4).all fun h => !(s.hub h).lost) && s.plan.lostStacks.isEmpty && s.boot.hostsLost.isEmpty

/-- L1_REACHED: the host is ready, the CXL ports are enumerated, the carve-out and D are tested, every cluster runs verified
firmware or is failed. Roles and positions are assigned, the geometry generation of every partition is 0, the attestation alias is
derived, the sealed ledger comes back, and held enables take effect (R492, R498, R504). The host boots in it, so a candidate for its loader or its operating
system that was activated since the chain began is taken now (R465). The time of it is open (DESIGN CHOICE, log 5). -/
def execL1Reached (s : State) : Res :=
  let fw := s.clusters.all fun (e : Nat × Cluster) => (e.2.stat != .active && e.2.stat != .spare) || e.2.fwOk
  if s.boot.stage ≠ .fw ∨ s.bringStops ∨ s.boot.sdFaulted ∨ !s.boot.topFirst ∨ !fw then .next s else
  let (t, ok4) := (s.takeCandidates [4, 5]).bootClass 4
  let (t, ok5) := t.bootClass 5
  if !ok4 || !ok5 then .next t else
  let t := { t with boot := { t.boot with stage := .l1, hostReady := true, cxlDone := true },
                    plan := { t.plan with cxlCap := (List.range 4).foldl (fun tb x => Tab.put tb 0 x (min (2 ^ 42) (Config.cxlInstalled x))) [] },
                    sec := { t.sec with meas := t.measure } }
  let t := (t.wakeReserves.assignRoles).redigest
  let t := (List.range 16).foldl (fun t p => (t.updPt p fun x => { x with geo := 0, lastGeo := 0 }).setObj 0x7801 (p + 1) 0) t
  let t := (((t.setObj 0x5000 9 t.boot.hostPrimary).setObj 0x8000 2 t.freeW.toNat).drawn.proveTrials).issueAtt.restoreLedger
  let t := if t.sparesBack then t.setObj 0x5000 6 0 else t
  let t := t.boot.heldEnables.foldl (fun t p => t.updPt p fun x => { x with regs := { x.regs with enable := true } }) t
  .next { t.formHolds with boot := { t.boot with heldEnables := [] } }

/-- L2_REACHED: every row is tested and every protected range carries parity; a full test without fault writes a new record and clears the memory-fault flag,
and a waiting request for S2 proceeds (R492, R495, R504). The time of it is open (DESIGN CHOICE, log 5) (DEDUCED, log 223). -/
def execL2Reached (s : State) : Res :=
  if s.boot.stage = .l1 ∧ s.plan.rowsOk = 2 ^ s.plan.rows.length - 1 then
    let s := (s.setObj 0x8000 3 s.freeW.toNat).drawn
    let sound := !s.boot.abbreviated && s.plan.lostStacks.isEmpty
    let t := { s with boot := { s.boot with stage := .l2, parityReady := true, reachedL2 := true, memFault := s.boot.memFault && !sound
                                            record := if sound then (List.range 20).map (fun m => Tab.look s.plan.stackCap 0 m / 2 ^ 30) else s.boot.record } }
    .next (if t.power.st = .s0 then t.nextReq else t)
  else .next s

/-- CLEAR_FAILURE_MARKS: the next bring-up tests the marked parts again (R499). -/
def execClearFailureMarks (s : State) : Res :=
  .next { s with boot := { s.boot with badClusters := [], badDies := [], badStacks := [] } }

end Sys2Proof.Machine
end

