-- ==== Sys2Proof/Machine/Num.lean ====
section
/-! DEFINITION. Numbers: the formats of R17, exact values, rounding (R28, R29, R31, R32), conversion (R33), block scaling
(R25, R26), Philox draws (R30) and the flags of R36. Every operation forms the exact value and rounds once. -/

namespace Sys2Proof.Machine

/-! ### Flags (R36) -/

def fNX : Byte := 1
def fUF : Byte := 2
def fOF : Byte := 4
def fDZ : Byte := 8
def fNV : Byte := 16
def fSAT : Byte := 32

/-! ### Exact values -/

/-- A number as the formats hold it: NaN (signalling or quiet), infinity, or ± m × 2^e; m = 0 is a signed zero. -/
inductive Val where
  | nan (snan : Bool)
  | inf (neg : Bool)
  | fin (neg : Bool) (m : Nat) (e : Int)
  deriving DecidableEq, Repr

/-- A floating-point layout: exponent and mantissa bits; NaN style 0 IEEE, 1 the all-ones code only, 2 none; infinities. -/
structure Fl where
  eb : Nat
  mb : Nat
  nanStyle : Nat
  hasInf : Bool
  deriving DecidableEq, Repr

/-- The bias of a layout. -/
def Fl.bias (f : Fl) : Nat := 2 ^ (f.eb - 1) - 1

def flF32 : Fl := { eb := 8, mb := 23, nanStyle := 0, hasInf := true }
def flF64 : Fl := { eb := 11, mb := 52, nanStyle := 0, hasInf := true }

/-- The layout of a floating-point format code (R17); FP32 stands for the codes that have none. -/
def flOf : Nat → Fl
  | 1 => { eb := 8, mb := 7, nanStyle := 0, hasInf := true }
  | 2 => { eb := 5, mb := 10, nanStyle := 0, hasInf := true }
  | 3 => { eb := 4, mb := 3, nanStyle := 1, hasInf := false }
  | 4 => { eb := 5, mb := 2, nanStyle := 0, hasInf := true }
  | 5 => { eb := 3, mb := 2, nanStyle := 2, hasInf := false }
  | 6 => { eb := 2, mb := 3, nanStyle := 2, hasInf := false }
  | 7 => { eb := 2, mb := 1, nanStyle := 2, hasInf := false }
  | _ => flF32

/-- The width in bits of a format code (R17). -/
def fmtWidth : Nat → Nat
  | 0 => 32
  | 1 | 2 => 16
  | 5 | 6 => 6
  | 7 | 9 => 4
  | _ => 8

/-- The format codes with a signalling NaN (R21). -/
def hasSnan (fmt : Nat) : Bool := fmt ≤ 2

/-- A code of a floating-point layout as a value. -/
def flDecode (f : Fl) (snan : Bool) (c : Nat) : Val :=
  let s := bit1 c (f.eb + f.mb)
  let e := bits c f.mb f.eb
  let m := bits c 0 f.mb
  let top := 2 ^ f.eb - 1
  if e = top ∧ f.nanStyle = 0 then
    (if m = 0 then .inf s else .nan (snan && !bit1 m (f.mb - 1)))
  else if e = top ∧ f.nanStyle = 1 ∧ m = 2 ^ f.mb - 1 then .nan false
  else if e = 0 then .fin s m (1 - (f.bias : Int) - f.mb)
  else .fin s (m + 2 ^ f.mb) ((e : Int) - f.bias - f.mb)

/-- An element code as a value (R17, R19, R20). -/
def decodeElem (fmt c : Nat) : Val :=
  match fmt with
  | 8 => let v := signed 8 c; .fin (decide (v < 0)) v.natAbs 0
  | 9 => let v := signed 4 c; .fin (decide (v < 0)) v.natAbs 0
  | 10 => if c = 255 then .nan false else .fin false 1 ((c : Int) - 127)
  | _ => flDecode (flOf fmt) (hasSnan fmt) c

/-- An FP32 word as a value. -/
def f32Val (w : Word32) : Val := flDecode flF32 true w.toNat

/-- ⌊log2 (m × 2^e)⌋ for m ≠ 0. -/
def ilog2 (m : Nat) (e : Int) : Int := (Nat.log2 m : Int) + e

/-! ### Rounding -/

/-- A rounding mode: 0 RNE, 1 RTZ, 2 SR with 16 random bits (R28, R29). -/
structure Rnd where
  mode : Nat
  r : Nat := 0
  deriving DecidableEq, Repr

def rne : Rnd := { mode := 0 }

/-- The magnitude m × 2^e as a whole number of 2^q, and whether it was inexact (R28, R29). -/
def roundMag (rd : Rnd) (m : Nat) (e q : Int) : Nat × Bool :=
  if q ≤ e then (m * 2 ^ (e - q).toNat, false) else
  let sh := (q - e).toNat
  let k := m / 2 ^ sh
  let rem := m % 2 ^ sh
  let up := match rd.mode with
    | 0 => 2 ^ sh < 2 * rem || (2 * rem == 2 ^ sh && k % 2 == 1)
    | 2 => 65536 ≤ (if 16 ≤ sh then rem / 2 ^ (sh - 16) else rem * 2 ^ (16 - sh)) + rd.r
    | _ => false
  (if up then k + 1 else k, rem != 0)

/-- The canonical NaN code of a layout (R21). -/
def Fl.nanCode (f : Fl) : Nat :=
  if f.nanStyle = 1 then 2 ^ (f.eb + f.mb) - 1 else (2 ^ f.eb - 1) * 2 ^ f.mb + 2 ^ (f.mb - 1)

/-- The infinity code, and the largest finite code, of a layout. -/
def Fl.infCode (f : Fl) : Nat := (2 ^ f.eb - 1) * 2 ^ f.mb

def Fl.maxCode (f : Fl) : Nat :=
  match f.nanStyle with
  | 0 => (2 ^ f.eb - 1) * 2 ^ f.mb - 1
  | 1 => 2 ^ (f.eb + f.mb) - 2
  | _ => 2 ^ (f.eb + f.mb) - 1

/-- A code with its sign. -/
def Fl.withSign (f : Fl) (neg : Bool) (c : Nat) : Nat := if neg then c + 2 ^ (f.eb + f.mb) else c

/-- The replacement of an overflowing result by R31: `sat` selects saturation whatever the mode, `nanOnOf` the NaN of E4M3
with `sat_off` set. -/
def Fl.overflow (f : Fl) (rd : Rnd) (neg sat nanOnOf : Bool) : Nat × Byte :=
  if nanOnOf then (f.nanCode, fOF ||| fNX)
  else if sat || !f.hasInf || rd.mode == 1 then (f.withSign neg f.maxCode, fOF ||| fNX ||| fSAT)
  else (f.withSign neg f.infCode, fOF ||| fNX)

/-- A non-zero magnitude rounded into a layout (R31, R32): code without sign, or overflow; tiny and inexact. -/
def Fl.roundCode (f : Fl) (rd : Rnd) (m : Nat) (e : Int) : Option Nat × Bool × Bool :=
  let x := ilog2 m e
  let emin : Int := 1 - (f.bias : Int)
  let q := max (x - f.mb) (emin - f.mb)
  let (k, inex) := roundMag rd m e q
  let tiny := decide (x < emin)
  if k < 2 ^ f.mb then (some k, inex, tiny)
  else
    let top := ilog2 k q
    let field := (top + f.bias).toNat
    let mant := if k < 2 ^ (f.mb + 1) then k - 2 ^ f.mb else 0
    let code := field * 2 ^ f.mb + mant
    if f.maxCode < code ∨ 2 ^ f.eb ≤ field then (none, inex, false) else (some code, inex, tiny)

/-- A value rounded into a layout, with its flags. `sat` and `nanOnOf` as in `Fl.overflow`; `infOver`: an infinite source counts as an overflow (R31). -/
def Fl.encode (f : Fl) (rd : Rnd) (sat nanOnOf : Bool) (v : Val) : Nat × Byte :=
  match v with
  | .nan sn => (f.nanCode, if sn then fNV else 0)
  | .inf neg => if f.hasInf && !sat then (f.withSign neg f.infCode, 0) else f.overflow rd neg sat nanOnOf
  | .fin neg 0 _ => (f.withSign neg 0, 0)
  | .fin neg m e =>
    match f.roundCode rd m e with
    | (none, _, _) => f.overflow rd neg sat nanOnOf
    | (some c, inex, tiny) => (f.withSign neg c, (if inex then fNX else 0) ||| (if inex && tiny then fUF else 0))

/-- A value rounded to an integer format of `w` bits, two's complement (class I of R33, R31). -/
def intEncode (w : Nat) (rd : Rnd) (v : Val) : Nat × Byte :=
  match v with
  | .nan _ => (0, fNV)
  | .inf neg => (if neg then 2 ^ (w - 1) else 2 ^ (w - 1) - 1, fNV ||| fSAT ||| fNX)
  | .fin neg m e =>
    let (k, inex) := if m = 0 then (0, false) else roundMag rd m e 0
    let lim := if neg then 2 ^ (w - 1) else 2 ^ (w - 1) - 1
    if lim < k then (if neg then 2 ^ (w - 1) else 2 ^ (w - 1) - 1, fNV ||| fSAT ||| fNX)
    else (if neg then (2 ^ w - k) % 2 ^ w else k, if inex then fNX else 0)

/-- Into E8M0 (class S of R33). -/
def e8Encode (v : Val) : Nat × Byte :=
  match v with
  | .fin false m e =>
    if m = 0 then (255, fNV) else
    let x := ilog2 m e
    let c := max (-127) (min 127 x)
    let exact := m == 2 ^ Nat.log2 m && c == x
    ((c + 127).toNat, (if exact then 0 else fNX) ||| (if x < -127 then fUF else 0))
  | _ => (255, fNV)

/-- The conversion of one element between formats that are not MX-scaled (R33): `satOff` is the tile's (DEDUCED, log 90). -/
def convElem (src dst : Nat) (rd : Rnd) (satOff : Bool) (c : Nat) : Nat × Byte :=
  if src = dst then (c, 0) else
  let v := decodeElem src c
  match dst with
  | 8 => if src = 9 then (c ||| (if bit1 c 3 then 0xF0 else 0), 0) else intEncode 8 rd v
  | 9 => if src = 8 then
      (let i := signed 8 c
       if i < -8 then (8, fSAT) else if 7 < i then (7, fSAT) else (c % 16, 0))
    else intEncode 4 rd v
  | 10 => e8Encode v
  | 3 => (flOf 3).encode rd (!satOff) satOff v
  | 4 => (flOf 4).encode rd (!satOff) false v
  | _ => (flOf dst).encode rd false false v

/-- An FP32 value converted into a format. -/
def ofF32 (dst : Nat) (rd : Rnd) (satOff : Bool) (w : Word32) : Nat × Byte := convElem 0 dst rd satOff w.toNat

/-- A value rounded to FP32. -/
def toF32 (rd : Rnd) (v : Val) : Word32 × Byte :=
  let (c, f) := flF32.encode rd false false v
  (BitVec.ofNat 32 c, f)

/-! ### Arithmetic -/

/-- The sum of two finite values: zero sums are +0 unless both are −0 (IEEE 754 under RNE). -/
def addFin (n1 : Bool) (m1 : Nat) (e1 : Int) (n2 : Bool) (m2 : Nat) (e2 : Int) : Val :=
  let e := min e1 e2
  let a : Int := (m1 * 2 ^ (e1 - e).toNat : Nat)
  let b : Int := (m2 * 2 ^ (e2 - e).toNat : Nat)
  let s := (if n1 then -a else a) + (if n2 then -b else b)
  if s = 0 then .fin (m1 == 0 && m2 == 0 && n1 && n2) 0 0 else .fin (decide (s < 0)) s.natAbs e

/-- A signalling operand raises NV (R21). -/
def snanFlag : Val → Byte
  | .nan true => fNV
  | _ => 0

/-- The negation of a value. -/
def Val.neg : Val → Val
  | .nan b => .nan b
  | .inf n => .inf (!n)
  | .fin n m e => .fin (!n) m e

/-- Exact addition, with NV for opposite infinities. -/
def addV (a b : Val) : Val × Byte :=
  let fl := snanFlag a ||| snanFlag b
  match a, b with
  | .nan _, _ => (.nan false, fl)
  | _, .nan _ => (.nan false, fl)
  | .inf n, .inf m => if n = m then (.inf n, fl) else (.nan false, fl ||| fNV)
  | .inf n, _ => (.inf n, fl)
  | _, .inf n => (.inf n, fl)
  | .fin n1 m1 e1, .fin n2 m2 e2 => (addFin n1 m1 e1 n2 m2 e2, fl)

/-- Exact multiplication, with NV for infinity times zero. -/
def mulV (a b : Val) : Val × Byte :=
  let fl := snanFlag a ||| snanFlag b
  match a, b with
  | .nan _, _ => (.nan false, fl)
  | _, .nan _ => (.nan false, fl)
  | .inf n, .inf m => (.inf (n != m), fl)
  | .inf n, .fin m k _ => if k = 0 then (.nan false, fl ||| fNV) else (.inf (n != m), fl)
  | .fin m k _, .inf n => if k = 0 then (.nan false, fl ||| fNV) else (.inf (n != m), fl)
  | .fin n1 m1 e1, .fin n2 m2 e2 => (.fin (n1 != n2) (m1 * m2) (e1 + e2), fl)

/-- The quotient to more bits than any format holds, its last bit sticky; DZ and NV by IEEE 754. -/
def divV (a b : Val) : Val × Byte :=
  let fl := snanFlag a ||| snanFlag b
  match a, b with
  | .nan _, _ => (.nan false, fl)
  | _, .nan _ => (.nan false, fl)
  | .inf _, .inf _ => (.nan false, fl ||| fNV)
  | .inf n, .fin m _ _ => (.inf (n != m), fl)
  | .fin n _ _, .inf m => (.fin (n != m) 0 0, fl)
  | .fin n1 m1 e1, .fin n2 m2 e2 =>
    if m2 = 0 then (if m1 = 0 then (.nan false, fl ||| fNV) else (.inf (n1 != n2), fl ||| fDZ))
    else if m1 = 0 then (.fin (n1 != n2) 0 0, fl)
    else
      let sh : Nat := 140 + Nat.log2 m2
      let num := m1 * 2 ^ sh
      let q := num / m2
      (.fin (n1 != n2) (2 * q + (if num % m2 = 0 then 0 else 1)) (e1 - e2 - (sh : Int) - 1), fl)

/-- The integer square root, one bit a step from the top. -/
def isqrt : Nat → Nat → Nat → Nat
  | 0, _, r => r
  | k + 1, n, r => isqrt k n (if (r + 2 ^ k) * (r + 2 ^ k) ≤ n then r + 2 ^ k else r)

/-- The square root to more bits than any format holds, its last bit sticky; NV for negative operands, √−0 = −0. -/
def sqrtV (a : Val) : Val × Byte :=
  match a with
  | .nan s => (.nan false, if s then fNV else 0)
  | .inf true => (.nan false, fNV)
  | .inf false => (.inf false, 0)
  | .fin n 0 _ => (.fin n 0 0, 0)
  | .fin true _ _ => (.nan false, fNV)
  | .fin false m e =>
    let e0 := e - 280
    let odd : Nat := if e0 % 2 = 0 then 0 else 1
    let big := m * 2 ^ (280 + odd)
    let r := isqrt 400 big 0
    (.fin false (2 * r + (if r * r = big then 0 else 1)) ((e0 - (odd : Int)) / 2 - 1), 0)

/-- The smaller-than relation of two values that are not NaN. -/
def ltV (a b : Val) : Bool :=
  match a, b with
  | .inf n, .inf m => n && !m
  | .inf n, .fin .. => n
  | .fin .., .inf n => !n
  | .fin n1 m1 e1, .fin n2 m2 e2 =>
    let e := min e1 e2
    let x : Int := (m1 * 2 ^ (e1 - e).toNat : Nat)
    let y : Int := (m2 * 2 ^ (e2 - e).toNat : Nat)
    decide ((if n1 then -x else x) < (if n2 then -y else y))
  | _, _ => false

def isNanV : Val → Bool
  | .nan _ => true
  | _ => false

def isFinV : Val → Bool
  | .fin .. => true
  | _ => false

/-- FP32 operations: exact, then rounded once to FP32 in RNE, with the flags of both steps. -/
def rnd32 (x : Val × Byte) : Word32 × Byte :=
  let (c, f) := toF32 rne x.1
  (c, f ||| x.2)

def fadd (a b : Word32) : Word32 × Byte := rnd32 (addV (f32Val a) (f32Val b))
def fsub (a b : Word32) : Word32 × Byte := rnd32 (addV (f32Val a) (f32Val b).neg)
def fmul (a b : Word32) : Word32 × Byte := rnd32 (mulV (f32Val a) (f32Val b))
def fdiv (a b : Word32) : Word32 × Byte := rnd32 (divV (f32Val a) (f32Val b))
def fsqrt (a : Word32) : Word32 × Byte := rnd32 (sqrtV (f32Val a))

/-- Fused multiply-add, rounded once. -/
def ffma (a b c : Word32) : Word32 × Byte :=
  let p := mulV (f32Val a) (f32Val b)
  let r := addV p.1 (f32Val c)
  rnd32 (r.1, p.2 ||| r.2)

/-- An FP32 word is finite; is NaN. -/
def finite32 (w : Word32) : Bool := isFinV (f32Val w)

def nan32 (w : Word32) : Bool := isNanV (f32Val w)

def f32One : Word32 := 0x3F800000

/-- A per-tile scale is positive, finite and normal (R27). -/
def scaleOk (w : Word32) : Bool :=
  !bit1 w.toNat 31 && bits w.toNat 23 8 ≠ 0 && bits w.toNat 23 8 ≠ 255

/-- The sum of FP32 words by the pairwise tree of R193: neighbours pair level by level, an odd last value passes up. Fuel bounds the levels. -/
def treeLevel (add : α → α → α) : List α → List α
  | a :: b :: rest => add a b :: treeLevel add rest
  | xs => xs

def treeSum (add : α → α → α) (z : α) : Nat → List α → α
  | 0, xs => xs.headD z
  | _ + 1, [] => z
  | _ + 1, [x] => x
  | n + 1, xs => treeSum add z n (treeLevel add xs)

/-- A pair of a value and its flags added to another. -/
def faddF (a b : Word32 × Byte) : Word32 × Byte :=
  let r := fadd a.1 b.1
  (r.1, r.2 ||| a.2 ||| b.2)

/-- An FP32 tree sum with its flags. -/
def ftree (xs : List Word32) : Word32 × Byte := treeSum faddF (0, 0) 64 (xs.map fun x => (x, 0))

/-! ### Block scaling (R23 to R26) -/

/-- The format codes that may be MX-scaled, and those that always are (R23). -/
def mayMx (fmt : Nat) : Bool := fmt == 3 || fmt == 4 || fmt == 5 || fmt == 6 || fmt == 7 || fmt == 8

def alwaysMx (fmt : Nat) : Bool := fmt == 5 || fmt == 6 || fmt == 7

/-- emax of R25. -/
def emaxOf : Nat → Int
  | 3 => 8
  | 4 => 15
  | 5 => 4
  | 6 => 2
  | 7 => 2
  | _ => 0

/-- One element of an MX block: the value over 2^X, always saturating (R25, R20). -/
def mxElem (fmt : Nat) (rd : Rnd) (x : Int) (v : Val) : Nat × Byte :=
  let v' := match v with | .fin n m e => Val.fin n m (e - x) | w => w
  if fmt = 8 then
    match v' with
    | .fin n m e =>
      let (k, inex) := if m = 0 then (0, false) else roundMag rd m (e + 6) 0
      if 127 < k then (if n then 129 else 127, fOF ||| fSAT ||| fNX)
      else (if n then (256 - k) % 256 else k, if inex then fNX else 0)
    | _ => (0, 0)
  else (flOf fmt).encode rd true false v'

/-- A block of values encoded (R25): scale code, element codes, flags. The rounding of each element comes with it. -/
def mxEncode (fmt : Nat) (vs : List (Val × Rnd)) : Nat × List Nat × Byte :=
  if vs.any (fun v => !isFinV v.1) then
    (255, vs.map (fun _ => 0), if vs.any (fun v => isNanV v.1) then fNV else fOF)
  else
    let mags := vs.filterMap fun v => match v.1 with | .fin _ m e => if m = 0 then none else some (ilog2 m e) | _ => none
    let x : Int := match mags with
      | [] => -127
      | a :: rest => max (-127) (min 127 (rest.foldl max a - emaxOf fmt))
    let es := vs.map fun v => mxElem fmt v.2 x v.1
    ((x + 127).toNat, es.map (·.1), es.foldl (fun f e => f ||| e.2) 0)

/-- An MX element's value (R20, R26). -/
def mxDecode (fmt scale c : Nat) : Val :=
  if scale = 255 then .nan false else
  match decodeElem fmt c with
  | .fin n m e => .fin n m (e + (scale : Int) - 127 - (if fmt = 8 then 6 else 0))
  | v => v

/-! ### Philox-4x32-10 (R30) -/

/-- One round. -/
def philoxRound (k0 k1 : Nat) (c : Nat × Nat × Nat × Nat) : Nat × Nat × Nat × Nat :=
  let (c0, c1, c2, c3) := c
  let p0 := 0xD2511F53 * c0
  let p1 := 0xCD9E8D57 * c2
  ((p1 / 2 ^ 32) ^^^ c1 ^^^ k0, p1 % 2 ^ 32, (p0 / 2 ^ 32) ^^^ c3 ^^^ k1, p0 % 2 ^ 32)

/-- The rounds left, with the key's increments. -/
def philoxRun : Nat → Nat → Nat → (Nat × Nat × Nat × Nat) → Nat × Nat × Nat × Nat
  | 0, _, _, c => c
  | n + 1, k0, k1, c => philoxRun n ((k0 + 0x9E3779B9) % 2 ^ 32) ((k1 + 0xBB67AE85) % 2 ^ 32) (philoxRound k0 k1 c)

/-- The random word of element `e` (R30): key, site, stream, tile coordinates. -/
def draw (key : Word) (site stream row col e : Nat) : Word32 :=
  let c := philoxRun 10 (bits key.toNat 0 32) (bits key.toNat 32 32)
    ((e / 4) % 2 ^ 32, row % 2 ^ 32, col % 2 ^ 32, site * 2 ^ 28 + stream % 2 ^ 28)
  BitVec.ofNat 32 (match e % 4 with | 0 => c.1 | 1 => c.2.1 | 2 => c.2.2.1 | _ => c.2.2.2)

/-- What fixes the draws of a tile's conversions (R30). -/
structure Draws where
  key : Word
  site : Nat
  stream : Nat
  row : Nat
  col : Nat
  deriving DecidableEq, Repr

/-- The rounding of element `e` of a tile under a mode. -/
def Draws.rnd (d : Draws) (mode e : Nat) : Rnd :=
  if mode = 2 then { mode := 2, r := bits (draw d.key d.site d.stream d.row d.col e).toNat 16 16 } else { mode := mode }

end Sys2Proof.Machine
end

