-- ==== Sys2Proof/Machine/Link.lean ====
section
/-! DEFINITION. Serfeing Links and the forwarding of packets (R338 to R370, R418). -/

namespace Sys2Proof.Machine

/-! ### Port sets (R359, R363, R418, R515) -/

/-- The latch state of a connector: 0 untouched, 1 draining, 2 drained, 3 not dropped, 4 unplugged (R520). -/
def State.latch (s : State) (conn : Nat) : Nat := Tab.look s.plate.latches 0 conn

/-- The port carries SFL traffic: up, in SFL mode, on a working link die, its connector not drained. -/
def State.portUp (s : State) (p : Nat) : Bool :=
  (s.port p).st == .up && (s.port p).mode == 0 && !(s.link (p / 4)).lost && !(s.latch (p / 4) == 1 || s.latch (p / 4) == 2)

/-- The usable ports of an entry, in increasing number: up, and the neighbour's identity is the entry's (R359) (DEDUCED, log 30). -/
def State.portsOf (s : State) (e : FEntry) : List Nat :=
  (List.range 32).filter fun p => bit1 e.ports.toNat p && s.portUp p && (s.port p).peer == some e.modId

/-- The map entry of a module for a partition. -/
def State.entryOf (s : State) (part m : Nat) : Option FEntry := (s.pt part).fm.bind fun f => f.entries[m]?

/-- The port that a packet to another module leaves through: the CRC-32C of its endpoints and `addr`[47:12], modulo the number of
ports (R363); of a reduction that this module's link dies send, the block's port (R366). -/
def State.portFor (s : State) (p : Packet) : Option Nat :=
  match s.entryOf p.part.toNat p.dstMod.toNat with
  | none => none
  | some e =>
    let ps := s.portsOf e
    let red := (p.ptype == 0x0B || p.ptype == 0x0C) && (s.pt p.part.toNat).fm.any fun m => m.self == p.srcMod.toNat
    let h := if red then p.addr.toNat / 2048 else (crc32c (natLe 2 p.srcEp.toNat ++ natLe 2 p.dstEp.toNat ++ natLe 5 (p.addr.toNat / 4096))).toNat
    if ps.isEmpty then none else ps[h % ps.length]?

/-- A port goes down: it leaves every port set, and the unacknowledged packets that used it are sent again (R418). -/
def State.portDown (s : State) (p : Nat) : State :=
  if (s.port p).st = .fused ∨ (s.port p).st = .down then s else
  let again := s.kept.filter fun k => k.p.dstMod != 0xFF && s.portFor k.p == some p
  let t := s.updPort p fun x => { x with st := .down, sparing := none, replay := [], rx := [], naking := false, peer := none, tx := [], txOff := 0, used := [], held := [], owed := [], fault := true }
  again.foldl (fun t k => t.emit (.packet k.p)) t

/-- PORT_DOWN (R418). -/
def execPortDown (p : Nat) (s : State) : Res := .next (s.portDown p)

/-- LINK_DIE_LOSS: its functional domain is reset, its four ports go down, what its reduction store held is lost, and kept RED_UP packets are sent again
(R403, R418). -/
def execLinkDieLoss (l : Nat) (s : State) : Res :=
  if (s.link l).lost then .next s else
  let t := (List.range 4).foldl (fun t j => t.portDown (4 * l + j)) s
  let t := (t.updLink l fun x => { x with lost := true, red := [], waiting := [], bufs := [], sent := [] }).emit (.resetPart 2 l)
  .next ((t.kept.filter fun k => k.p.ptype == 0x0B).foldl (fun t k => t.emit (.packet k.p)) t)

/-! ### Flits (R356 to R358) -/

/-- The header of a flit as a number: sequence, acknowledgement, nak, idle, unit start, credits by class. -/
def flitHeader (fseq ack : Nat) (nak idle : Bool) (start : Nat) (credits : List Nat) : Nat :=
  fseq + ack * 2 ^ 12 + (if nak then 2 ^ 24 else 0) + (if idle then 2 ^ 25 else 0) + start * 2 ^ 26 +
  ((List.range credits.length).map fun k => (credits.getD k 0 % 4096) * 2 ^ (32 + 12 * k)).sum

/-- A flit from its header and payload, with its check (R356). -/
def flitOf (hdr : Nat) (payload : List Byte) : List Byte :=
  let body := natLe 16 hdr ++ padTo 608 payload
  body ++ natLe 8 (crc64 body).toNat ++ List.replicate 8 0

/-- A flit is sent and kept for replay; with 2 048 kept the sender waits (R357). `start` is the first unit boundary of its payload. -/
def State.sendFlit (s : State) (p : Nat) (nak idle : Bool) (credits : List Nat) (payload : List Byte) (start : Nat := 0) : State :=
  let x := s.port p
  if 2048 ≤ x.replay.length then s else
  let ack := (x.rxSeq + 4095) % 4096
  let bytes := flitOf (flitHeader x.txSeq ack nak idle start credits) payload
  (s.updPort p fun x => { x with txSeq := (x.txSeq + 1) % 4096, replay := x.replay ++ [(x.txSeq, bytes)] }).emit (.flit p bytes)

/-- A port's unit stream leaves in full flits of 608 bytes, as long as the replay buffer has room (R356, R357). Bytes that do not fill a flit wait for more
(DESIGN CHOICE, log 183). -/
def State.pump (p : Nat) : Nat → State → State
  | 0, s => s
  | f + 1, s =>
    let x := s.port p
    if x.tx.length < 608 ∨ 2048 ≤ x.replay.length then s else
    let t := s.sendFlit p false false [] (x.tx.take 608) ((64 - x.txOff) % 64)
    State.pump p f (t.updPort p fun y => { y with tx := y.tx.drop 608, txOff := (y.txOff + 608) % 64 })

/-- A packet as its units: header, payload, tail (R341, R344). -/
def pktBytes (p : Packet) : List Byte :=
  natLe 64 (pktHeader p p.hops.toNat p.hchk.toNat) ++ padTo (64 * p.lenUnits.toNat) p.payload ++ padTo 64 (natLe 4 p.pcrc.toNat)

/-- A packet joins the unit stream of a port (R356). -/
def State.stream (s : State) (q : Nat) (p : Packet) : State :=
  let t := s.updPort q fun x => { x with tx := x.tx ++ pktBytes p }
  State.pump q ((t.port q).tx.length / 608 + 1) t

/-- The kept flits after an acknowledged sequence number. -/
def afterAck (ack : Nat) : List (Nat × List Byte) → List (Nat × List Byte)
  | [] => []
  | f :: rest => if f.1 = ack then rest else afterAck ack rest

/-- The sender's side of a received header: acknowledged flits are dropped; a nak replays the rest, and a flit replayed too often
retrains the port (R357). -/
def State.flitAcked (s : State) (p ack : Nat) (nak : Bool) : State :=
  let x := s.port p
  let moved := x.replay.any fun f => f.1 == ack
  let rest := if moved then afterAck ack x.replay else x.replay
  let t := s.updPort p fun y => { y with replay := rest, ackSeq := ack, replays := if moved then 0 else y.replays }
  if !nak || rest.isEmpty then t
  else
    let n := (t.port p).replays + 1
    if max 1 (s.cfg 0x2100 3) < n then t.updPort p fun y => { y with st := .retrain, replays := 0 }
    else
      let t := (t.updPort p fun y => { y with replays := n }).bump 0x5100 5 rest.length
      rest.foldl (fun t f => t.emit (.flit p f.2)) t

/-- A packet read from its units: header, payload, tail (R341, R342, R344). -/
def packetOfUnits (bs : List Byte) : Packet :=
  let h := leNat (bs.take 64)
  let n := bits h 68 6
  { ptype := BitVec.ofNat 5 h, cls := BitVec.ofNat 3 (bits h 5 3), esc := bit1 h 8, dstEp := BitVec.ofNat 16 (bits h 16 16),
    srcEp := BitVec.ofNat 16 (bits h 32 16), dstMod := BitVec.ofNat 8 (bits h 48 8), srcMod := BitVec.ofNat 8 (bits h 56 8),
    part := BitVec.ofNat 4 (bits h 64 4), lenUnits := BitVec.ofNat 6 n, tag := BitVec.ofNat 16 (bits h 80 16),
    addr := BitVec.ofNat 48 (bits h 96 48), window := BitVec.ofNat 3 (bits h 144 3), winGen := BitVec.ofNat 8 (bits h 147 8),
    granule := BitVec.ofNat 10 (bits h 155 10), gOff := BitVec.ofNat 5 (bits h 165 5), last := bit1 h 170,
    pieces := BitVec.ofNat 6 (bits h 171 6), srcFmt := BitVec.ofNat 4 (bits h 177 4), seq := BitVec.ofNat 16 (bits h 181 16),
    rsv := BitVec.ofNat 192 (bits h 328 168), msg := BitVec.ofNat 128 (bits h 200 128), hops := BitVec.ofNat 8 (bits h 496 8),
    hchk := BitVec.ofNat 8 (bits h 504 8), payload := (bs.drop 64).take (64 * n),
    pcrc := BitVec.ofNat 32 (leNat ((bs.drop (64 + 64 * n)).take 4)) }

/-- The whole packets at the front of a unit stream, and the bytes left. Fuel bounds their number. -/
def unitsSplit : Nat → List Byte → List Packet × List Byte
  | 0, bs => ([], bs)
  | f + 1, bs =>
    let need := 64 * (bits (leNat (bs.take 64)) 68 6 + 2)
    if bs.length < 64 ∨ bs.length < need then ([], bs)
    else
      let r := unitsSplit f (bs.drop need)
      (packetOfUnits bs :: r.1, r.2)

/-- The units in use by class, less the credits that a flit's header returns (R356, R358). -/
def creditsIn (h : Nat) (used : Tab Nat) : Tab Nat :=
  (List.range 8).foldl (fun t k => Tab.put t 0 k (Tab.look t 0 k - bits h (32 + 12 * k) 12)) used

/-! ### Link dies (R350, R358, R363, R365) -/

/-- The header with one more hop and its check renewed. -/
def hopped (p : Packet) : Packet :=
  let q := { p with hops := p.hops + 1 }
  { q with hchk := pktHcheck q }

/-- Units of a packet: header, payload, tail (R341). -/
def pktUnits (p : Packet) : Nat := p.lenUnits.toNat + 2

/-- The virtual channel of a packet: its class, adaptive or escape. -/
def chanOf (p : Packet) : Nat := 2 * p.cls.toNat + (if p.esc then 1 else 0)

/-- Units that a virtual channel buffers. -/
def vcRoom (vc : Nat) : Nat := if vc % 2 = 0 then 32 else 8

/-- Units of a packet in a channel's buffer: one that is longer than the buffer streams through it by cut-through (R350) (DESIGN CHOICE, log 13). -/
def pktFill (p : Packet) (vc : Nat) : Nat := min (pktUnits p) (vcRoom vc)

/-- A packet waits in a link die. -/
def State.linkWait (s : State) (l : Nat) (p : Packet) : State :=
  s.updLink l fun x => { x with waiting := if x.waiting.contains p then x.waiting else x.waiting ++ [p] }

/-- A packet leaves a link die's buffers: what it took up goes back as credits to the junction that sent it, or is owed to the other side of the port that
received it (R347, R358). -/
def State.linkLeaves (s : State) (l : Nat) (p : Packet) : State :=
  let t := s.updLink l fun x => { x with waiting := x.waiting.erase p }
  let t := match (s.link l).bufs.find? fun b => b.p == p with
    | some b =>
      let k := 16 * (l / 2) + b.vc
      (t.updLink l fun x => { x with bufs := x.bufs.erase b }).updDie ((linkAttach l).getD b.side 0) fun x =>
        { x with sent := Tab.put x.sent 0 k (Tab.look x.sent 0 k - pktFill p b.vc) }
    | none => t
  match (List.range 4).find? fun j => (s.port (4 * l + j)).held.contains p with
  | some j => t.updPort (4 * l + j) fun y =>
      { y with held := y.held.erase p, owed := Tab.put y.owed 0 p.cls.toNat (Tab.look y.owed 0 p.cls.toNat + pktUnits p) }
  | none => t

/-- A flit without units that returns what a port owes. -/
def State.creditFlit (s : State) (q : Nat) (nak : Bool) : State :=
  if 2048 ≤ (s.port q).replay.length then s else
  (s.updPort q fun y => { y with owed := [] }).sendFlit q nak true ((List.range 8).map fun k => Tab.look (s.port q).owed 0 k) []

/-- The ports of a link die return what they owe. -/
def State.returnCredits (s : State) (l : Nat) : State :=
  (List.range 4).foldl (fun s j => if (s.port (4 * l + j)).owed.isEmpty ∨ !s.portUp (4 * l + j) then s else s.creditFlit (4 * l + j) false) s

/-- A packet leaves a link die by a port against the other side's credits, 512 units for each class, or waits in the link die (R358)
(DESIGN CHOICE, log 13). -/
def State.linkOut (s : State) (l q : Nat) (p : Packet) : State :=
  let used := Tab.look (s.port q).used 0 p.cls.toNat
  if 512 < used + pktUnits p then s.linkWait l p else
  let t := s.linkLeaves l p
  ((t.updPort q fun y => { y with used := Tab.put y.used 0 p.cls.toNat (used + pktUnits p) }).emit (.forward (.linkDie l) q (hopped p))).stream q (hopped p)

/-- The ports by which a link die may send a packet into the mesh now: the attach die is no hole and takes in headers, the port works, and its channel has the
credits (R10, R347, R351, R352) (DESIGN CHOICE, log 211). -/
def State.waysIn (s : State) (l : Nat) (p : Packet) : List Nat :=
  (List.range 2).filter fun k =>
    let x := s.die ((linkAttach l).getD k 0)
    !x.hole && !x.draining && !x.portsDown.contains (l / 2) && decide (pktFill p (chanOf p) + Tab.look (s.link l).sent 0 (16 * k + chanOf p) ≤ vcRoom (chanOf p))

/-- A packet enters the mesh from a link die, by one of the two ports that may take it, or waits. R339 gives the attach die only for the way out: which of
the two is taken is a free value (R10) (DESIGN CHOICE, log 211). -/
def State.linkInto (s : State) (l : Nat) (p : Packet) : State :=
  match s.waysIn l p with
  | [] => s.linkWait l p
  | k :: ks =>
    let k := (k :: ks).getD (s.freeW.toNat % (ks.length + 1)) k
    let a := (linkAttach l).getD k 0
    let vc := chanOf p
    let t := (s.linkLeaves l p).drawn
    let t := t.updLink l fun x => { x with sent := Tab.put x.sent 0 (16 * k + vc) (Tab.look x.sent 0 (16 * k + vc) + pktFill p vc) }
    let t := t.updDie a fun x => { x with bufs := x.bufs ++ [{ side := l / 2, vc := vc, entered := a, p := hopped p }] }
    t.emit (.forward (.linkDie l) (32 + k) (hopped p))

/-- A packet for a port leaves by it, or crosses the mesh to the link die that owns it (R358). -/
def State.linkSend (s : State) (l q : Nat) (p : Packet) : State := if q / 4 = l then s.linkOut l q p else s.linkInto l p

/-- A link die forwards: to a port towards another module, or into the mesh. With no working path the packet waits, and so does a partial for its own
reduction store (R358, R363, R368). A header that fails its check, or has come too far, is discarded as in a junction, and the consignment whose packet it is
runs again (R350) (DEDUCED, log 185). -/
def State.linkForward (s : State) (l : Nat) (p : Packet) : State :=
  if (s.link l).lost then s
  else if p.hchk ≠ pktHcheck p ∨ p.hops = 255 then
    let t := (s.linkLeaves l p).bump 0x5100 2 1
    (match s.packetRun p with | some x => t.stopForRerun x.1 fun e => e.seq == x.2 | none => t)
  else if p.dstMod = 0xFF ∨ (s.pt p.part.toNat).fm.any (fun m => m.self == p.dstMod.toNat) then
    (if p.dstEp.toNat = 0x4000 + l then s.linkWait l p else s.linkInto l p)
  else match s.portFor p with
    | none => s.linkWait l p
    | some q => s.linkSend l q p

/-- A packet from another module names a module of this partition's own map (R365) (DEDUCED, log 20). -/
def State.peerOk (s : State) (p : Packet) : Bool :=
  p.srcMod == 0xFF || (s.pt p.part.toNat).fm.any fun m => m.self != p.srcMod.toNat && decide (p.srcMod.toNat < m.entries.length)

/-- The port by which a packet has arrived belongs to the map of its partition: its neighbour is a module of the map, and where the source's entry lists the
port, the source itself (R359, R365) (DESIGN CHOICE, log 213). -/
def State.portMatches (s : State) (q : Nat) (p : Packet) : Bool :=
  (s.pt p.part.toNat).fm.any fun m => m.entries.any (fun e => (s.port q).peer == some e.modId) &&
    (m.entries[p.srcMod.toNat]?).all fun e => !bit1 e.ports.toNat q || (s.port q).peer == some e.modId

/-- The answer that refuses a request of another module with a status: a read's response, a write's acknowledgement, a refused token message (R95, R99,
R343, R365) (DESIGN CHOICE, log 15). -/
def refuseAnswer (p : Packet) (status : Byte) : Option Packet :=
  let m := p.msg.toNat
  let ans (ty : Nat) (tag : BitVec 16) (msg : Rec128) : Packet := { packetOf ty 1 p.srcEp p.dstEp p.srcMod p.part.toNat tag p.addr.toNat msg [] with srcMod := p.dstMod }
  match p.ptype.toNat with
  | 0x00 => some (ans 0x01 p.tag (status.setWidth 128))
  | 0x02 | 0x04 => some (ans 0x03 p.tag (BitVec.ofNat 128 (status.toNat * 256)))
  | 0x05 => some (ans 0x06 (BitVec.ofNat 16 (bits m 96 16))
      (tokenMsg 4 (bits m 4 3) (bits m 8 16) (bits m 48 11) 0 0 p.part.toNat 4 (BitVec.ofNat 16 (bits m 32 16)) (BitVec.ofNat 16 (bits m 96 16))))
  | _ => none

/-- A read or write of another module's that is for memory or a scratchpad of this one. -/
def State.forUs (s : State) (p : Packet) : Bool :=
  (p.ptype == 0x00 || p.ptype == 0x02) && p.dstEp.toNat < 0x4000 && !(p.ptype == 0x02 && p.dstEp.toNat < 0x2000) &&
  (s.pt p.part.toNat).fm.any fun m => m.self == p.dstMod.toNat

/-- A request of another module translated at the link die that has received it: its physical address travels beside it; a failure is answered (R365). -/
def State.linkTranslate (s : State) (l : Nat) (p : Packet) : State :=
  let n := if p.ptype = 0x00 then min 2048 (p.msg.toNat % 65536) else p.payload.length
  let x := s.ctxPart p.part.toNat
  let t := (s.walksFor x p.addr.toNat n).foldl State.walked s
  match s.xl x (p.ptype == 0x02) p.addr.toNat n with
  | .ok [q] =>
    -- the packet in the receive buffer is the translated one
    let p' : Packet := { p with phys := some q.pa, hc := q.hc }
    let t := (List.range 4).foldl (fun t j => t.updPort (4 * l + j) fun y => { y with held := y.held.map fun r => if r = p then p' else r }) t
    t.linkForward l p'
  | .ok _ => t.linkForward l p
  | .error e => if e = stHold then t.linkWait l p else
    match refuseAnswer p e with
    | some q => (t.linkLeaves l p).emit (.packet (pktFinish q))
    | none => t.linkLeaves l p

/-- A packet arrives by a port from another module: the receiving link die refuses one whose source is not in its own map for the partition with an identity
that matches; a packet of another type than a request is then discarded. It translates a request for this module (R365) (DEDUCED, log 20). -/
def State.linkReceive (s : State) (q : Nat) (p : Packet) : State :=
  let l := q / 4
  if p.hchk ≠ pktHcheck p then s.linkForward l p
  else if p.srcMod ≠ 0xFF ∧ s.peerOk p = true ∧ s.portMatches q p = true then (if s.forUs p then s.linkTranslate l p else s.linkForward l p)
  else if p.srcMod = 0xFF then s.linkLeaves l p
  else match refuseAnswer p stProtect with
    | some a => (s.linkLeaves l p).emit (.packet (pktFinish a))
    | none => s.linkLeaves l p

/-- SFL_FLIT: a flit that the FEC cannot correct, whose check fails or that is out of order is discarded with every flit after it
and answered with nak. A flit in order is acknowledged, and its units go on to the link die; those that have left the receive buffer are returned as credits
(R356 to R358). -/
def execSflFlit (p : Nat) (fecOk : Bool) (bytes : List Byte) (s : State) : Res :=
  let x := s.port p
  if x.st ≠ .up ∨ x.mode ≠ 0 then .next s else
  let h := leNat (bytes.take 16)
  let good := fecOk && bytes.length == 640 && leNat ((bytes.drop 624).take 8) == (crc64 (bytes.take 624)).toNat
  if !good then .next ((s.updPort p fun x => { x with naking := true }).creditFlit p true)
  else
    let t := s.flitAcked p (bits h 12 12) (bit1 h 24)
    if bits h 0 12 ≠ x.rxSeq then
      .next (if x.naking then t else (t.updPort p fun x => { x with naking := true }).creditFlit p true)
    else
      let load := if bit1 h 25 then [] else
        if x.rx.isEmpty then ((bytes.drop 16).take 608).drop (bits h 26 6) else (bytes.drop 16).take 608
      let (pkts, rest) := unitsSplit 16 (x.rx ++ load)
      let t := t.updPort p fun y => { y with rxSeq := (y.rxSeq + 1) % 4096, naking := false, rx := rest, used := creditsIn h y.used, held := y.held ++ pkts }
      let t := pkts.foldl (fun t q => t.linkReceive p q) t
      .next (State.pump p 4 (t.creditFlit p false))

/-- PORT_RETRAIN: a flit was replayed too often; the port retrains and keeps its replay buffer (R357). -/
def execPortRetrain (p : Nat) (s : State) : Res :=
  if (s.port p).st = .up then .next (s.updPort p fun x => { x with st := .retrain, replays := 0 }) else .next s

/-- A port in SFL mode that trains sends the module's identity, `0x1000.02`, and its own number (R359) (DESIGN CHOICE, log 14). -/
def State.sendIdentity (s : State) (p : Nat) : State :=
  if (s.port p).mode = 0 then s.emit (.identity p Config.moduleId) else s

/-- An entry of a latched map, other than its own, that lists a port. -/
def State.mapsListing (s : State) (p : Nat) : List FEntry :=
  (List.range 16).flatMap fun q => match (s.pt q).fm with
    | none => []
    | some m => ((List.range m.entries.length).filter (· != m.self)).filterMap fun k =>
        (m.entries[k]?).bind fun e => if bit1 e.ports.toNat p then some e else none

/-- IDENTITY_FLIT: a port whose neighbour is not the module that a latched map, or the ledger partner's identity, names is held
down and counted (R359). -/
def execIdentityFlit (p : Nat) (ident : Word) (peerPort : Nat) (s : State) : Res :=
  let _ := peerPort
  let x := s.port p
  if x.st = .fused ∨ x.st = .down ∨ x.mode ≠ 0 then .next s else
  let badMap := (s.mapsListing p).any fun e => e.modId != ident
  let badPartner := s.cfg 0x2110 1 == 1 && bit1 (s.cfg 0x2110 3) p && s.cfg 0x2110 2 != ident.toNat
  if badMap || badPartner then
    .next ((s.updPort p fun x => { x with st := .heldDown, peer := some ident }).bump 0x5100 6 1)
  else .next (s.updPort p fun x => { x with st := .up, peer := some ident })

/-! ### Lane sparing (R360) -/

/-- The lowest spare lane of a link die that no port uses or is training. The cable joins lane n to lane n, so both ends have used
the same ones. -/
def State.freeSpare (s : State) (l : Nat) : Option Nat :=
  (List.range 4).map (· + 32) |>.find? fun n =>
    !((List.range 4).any fun j => (s.port (4 * l + j)).lanes.contains n || (s.port (4 * l + j)).sparing.any fun x => x.2 == n)

/-- A lane of a port fails, by its place 0 to 7: in Ethernet mode the port goes down; otherwise it runs x4 while a spare trains, or
stays x4 when none is free, kept as spare 255 (R360, R423) (DESIGN CHOICE, log 31). -/
def State.laneFails (s : State) (p lane : Nat) : State :=
  let x := s.port p
  if x.st = .fused ∨ x.st = .down then s
  else if x.mode ≠ 0 ∨ x.x4 then s.portDown p
  else match s.freeSpare (p / 4) with
    | some n => s.updPort p fun x => { x with x4 := true, sparing := some (lane, n) }
    | none => (s.updPort p fun x => { x with x4 := true, sparing := some (lane, 255) }).exhaust

/-- RETRAIN_DONE: the port runs again, sends its identity flit and replays what it kept, which counts. Where retraining fails, a lane is spared or the port is
taken down: which of the two, and which lane, is a free value (R357, R359, R360) (DEDUCED, log 29, DESIGN CHOICE, log 212). -/
def execRetrainDone (p : Nat) (ok : Bool) (s : State) : Res :=
  let again (s : State) : State :=
    let t := (s.updPort p fun x => { x with st := .up, replays := 0, naking := false }).sendIdentity p
    (s.port p).replay.foldl (fun t f => t.emit (.flit p f.2)) (t.bump 0x5100 5 (s.port p).replay.length)
  if (s.port p).st ≠ .retrain then .next s
  else if ok then .next (again s)
  else
    let lane := s.freeW.toNat % 9
    let t := (if lane = 8 then s.portDown p else s.laneFails p lane).drawn
    .next (if (t.port p).st = .retrain then again t else t)

/-- LANE_SIGNAL_LOSS. -/
def execLaneSignalLoss (p lane : Nat) (s : State) : Res := .next (s.laneFails p lane)

/-- LANE_ERROR_THRESHOLD: more than `0x2100.04` corrected symbols per second. -/
def execLaneErrorThreshold (p lane rate : Nat) (s : State) : Res :=
  if s.cfg 0x2100 4 < rate then .next (s.laneFails p lane) else .next s

/-- SPARE_LANE_TRAINED: the port runs x8 with the spare in the failed lane's place (R360). -/
def execSpareLaneTrained (p : Nat) (s : State) : Res :=
  match (s.port p).sparing with
  | some (lane, n) =>
    if 36 ≤ n then .next s else
    .next (((s.updPort p fun x => { x with x4 := false, sparing := none, lanes := x.lanes.set lane n }).bump 0x5100 7 1).planChanged)
  | none => .next s

/-! ### Forwarding (R339, R348 to R353, R363) -/

/-- Mesh distance of two dies. -/
def meshDist (a b : Nat) : Nat :=
  (max (a / 8) (b / 8) - min (a / 8) (b / 8)) + (max (a % 8) (b % 8) - min (a % 8) (b % 8))

/-- The nearest of some dies, ties to the earlier. -/
def nearest (a : Nat) : List Nat → Option Nat
  | [] => none
  | [d] => some d
  | d :: rest => match nearest a rest with
    | some e => some (if meshDist a d ≤ meshDist a e then d else e)
    | none => some d

/-- The attach die of a hub for a packet: by PA[15:14] when it carries a physical address (a read or write), else the nearest (R339). -/
def hubAttachFor (h src : Nat) (p : Packet) : Nat :=
  if p.ptype = 0x00 ∨ p.ptype = 0x02 then (hubAttach h).getD (bits (p.phys.getD p.addr.toNat) 14 2) 0
  else (nearest src (hubAttach h)).getD 0

/-- A hub is reached by some attach die that is no hole, through a working port (R339). -/
def State.hubReached (s : State) (h : Nat) : Bool := !(s.hub h).lost && (hubAttach h).any fun d => !(s.die d).hole && !(s.die d).portsDown.contains h

/-- The hub through which an endpoint off the mesh is reached: host dies, but for a lost one, which is fenced (R339, R419), the commit unit (R340). -/
def State.viaHub (s : State) (kind idx : Nat) : Option Nat :=
  match kind with
  | 1 => some idx
  | 3 => if s.boot.hostsLost.contains idx then none
         else if idx = 0 then (if s.hubReached 0 then some 0 else some 3) else (if s.hubReached 2 then some 2 else some 1)
  | 4 => s.cuHub
  | _ => none

/-- The die at which a packet leaves the mesh, and the port by which it leaves there: 4 to that die's own clusters, or the outward side of an attach
die (R10, R339). `src` is its source die. Packets to other modules leave through the link die of their port. -/
def State.targetDie (s : State) (src : Nat) (p : Packet) : Option (Nat × Nat) :=
  let link (l : Nat) : Option (Nat × Nat) := if 8 ≤ l then none else ((linkAttach l)[(src / 8 + src % 8) % 2]?).map fun d => (d, l / 2)
  let kind := p.dstEp.toNat / 8192
  let idx := p.dstEp.toNat % 8192
  if p.dstMod ≠ 0xFF ∧ (s.pt p.part.toNat).fm.any (fun m => m.self != p.dstMod.toNat) then
    (s.portFor p).bind fun q => link (q / 4)
  else match kind with
    | 0 => some (idx / 17, 4)
    | 2 => link idx
    | 1 => let h := match p.phys with | some pa => s.hubOf pa | none => idx
           if h < 4 then some (hubAttachFor h src p, h) else none
    | k => (s.viaHub k idx).bind fun h => if h < 4 then some (hubAttachFor h src p, h) else none

/-- A RETRY to the sender of a packet: its tag, type and reason (R354) (DESIGN CHOICE, log 15). -/
def retryTo (p : Packet) (reason : Nat) : Packet :=
  pktFinish { packetOf 0x0A 3 p.srcEp p.dstEp p.srcMod p.part.toNat p.tag 0
    (BitVec.ofNat 128 (p.tag.toNat + p.ptype.toNat * 2 ^ 16 + reason * 2 ^ 24)) [] with srcMod := p.dstMod }

/-- The directions 0 north, 1 east, 2 south, 3 west that west-first minimal routing permits from a die to another (R348). -/
def permitted (a b : Nat) : List Nat :=
  if b % 8 < a % 8 then [3]
  else (if b / 8 < a / 8 then [0] else []) ++ (if a % 8 < b % 8 then [1] else []) ++ (if a / 8 < b / 8 then [2] else [])

/-! ### Virtual channels and credits (R347, R358) -/

/-- The credits that a junction holds for a channel of one of its ports. -/
def State.credits (s : State) (a dir vc : Nat) : Nat := vcRoom vc - Tab.look (s.die a).sent 0 (16 * dir + vc)

/-- The packet as the junction's buffers hold it. -/
def State.heldAt (s : State) (d : Nat) (p : Packet) : Option Buffered := (s.die d).bufs.find? fun b => b.p == p

/-- A packet leaves a junction's buffer, and its units go back as credits to the neighbour, or the link die, that sent it. -/
def State.leaves (s : State) (d : Nat) (p : Packet) : State :=
  match s.heldAt d p with
  | none => s
  | some b =>
    let t := s.updDie d fun x => { x with bufs := x.bufs.erase b }
    if 4 ≤ b.side then t else
    if !inMesh d b.side then
      match linkBehind d b.side with
      | some (l, j) => t.updLink l fun x => { x with sent := Tab.put x.sent 0 (16 * j + b.vc) (Tab.look x.sent 0 (16 * j + b.vc) - pktFill p b.vc) }
      | none => t
    else
    let k := 16 * opposite b.side + b.vc
    t.updDie (beside d b.side) fun x => { x with sent := Tab.put x.sent 0 k (Tab.look x.sent 0 k - pktFill p b.vc) }

/-- A packet that cannot go on stays in the junction: it is never dropped. A later PACKET_FORWARD tries again. -/
def State.waitsAt (s : State) (d : Nat) (p : Packet) : State :=
  if (s.heldAt d p).isSome then s else s.updDie d fun x => { x with bufs := x.bufs ++ [{ side := 4, vc := chanOf p, entered := d, p := p }] }

/-- The source die of a packet: its cluster's, or the die at which it entered the mesh (R339) (DEDUCED, log 181). -/
def State.sourceDie (s : State) (d : Nat) (p : Packet) : Nat :=
  if p.srcEp.toNat < 8192 ∧ (p.srcMod = 0xFF ∨ (s.pt p.part.toNat).fm.any fun m => m.self == p.srcMod.toNat) then p.srcEp.toNat / 17
  else ((s.heldAt d p).map (·.entered)).getD d

/-- A packet crosses to the neighbouring junction against its credits, or waits for them. `q` is the packet as it travels on. -/
def State.crosses (s : State) (d dir : Nat) (p q : Packet) : State :=
  let vc := chanOf q
  if s.credits d dir vc < pktFill q vc then s.waitsAt d p else
  let entered := ((s.heldAt d p).map (·.entered)).getD d
  let q := hopped q
  let k := 16 * dir + vc
  let t := (s.leaves d p).updDie d fun x => { x with sent := Tab.put x.sent 0 k (Tab.look x.sent 0 k + pktFill q vc) }
  let t := t.updDie (beside d dir) fun x => { x with bufs := x.bufs ++ [{ side := opposite dir, vc := vc, entered := entered, p := q }] }
  t.emit (.forward (.junction d) dir q)

/-- The direction whose channel holds the most credits, ties to the earlier of north, east, south (R348). -/
def State.mostCredits (s : State) (d vc : Nat) : List Nat → Option Nat
  | [] => none
  | k :: ks => match s.mostCredits d vc ks with
    | some e => some (if s.credits d e vc ≤ s.credits d k vc then k else e)
    | none => some k

/-- The working links of the mesh: a die, its neighbour to the east or south, and the firmware's preference for the link (R349) (DESIGN CHOICE, log 12). -/
def State.meshLinks (s : State) : List (Nat × Nat × Nat) :=
  let key := (List.range 64).map fun a => (if (s.die a).hole then 1 else 0) + 2 * ((s.die a).portsDown.map fun k => 2 ^ k).sum
  (List.range 64).flatMap fun a => [1, 2].filterMap fun k =>
    if s.dirOpen a k && s.dirOpen (beside a k) (opposite k) then some (a, beside a k, Config.escapeWeight key (4 * a + k)) else none

/-- The escape tree: the links in the order of preference, but for those that join what is joined already. Every spanning tree of the working junctions
comes from some preference (R349). -/
def State.escapeTree (s : State) : List (Nat × Nat) :=
  let order := s.meshLinks.foldl (fun l e => (l.filter fun x => x.2.2 ≤ e.2.2) ++ [e] ++ (l.filter fun x => e.2.2 < x.2.2)) []
  (order.foldl (fun (st : List Nat × List (Nat × Nat)) e =>
    let la := st.1.getD e.1 0
    let lb := st.1.getD e.2.1 0
    if la = lb then st else (st.1.map fun x => if x = lb then la else x, st.2 ++ [(e.1, e.2.1)])) (List.range 64, [])).2

/-- Neighbours of a die in a tree. -/
def treeNear (es : List (Nat × Nat)) (a : Nat) : List Nat :=
  es.filterMap fun e => if e.1 = a then some e.2 else if e.2 = a then some e.1 else none

/-- A die lies behind another in a tree, as seen from the die before it. -/
def treeBehind (es : List (Nat × Nat)) (b : Nat) : Nat → Nat → Nat → Bool
  | 0, _, _ => false
  | f + 1, prev, a => a == b || (treeNear es a).any fun n => n != prev && treeBehind es b f a n

/-- The direction in which the escape table of a junction sends a packet: along the tree, up towards the root until the target lies below, then down; it
never climbs after it has descended (R349). -/
def State.escapeDir (s : State) (d b : Nat) : Option Nat :=
  let es := s.escapeTree
  ((treeNear es d).find? fun n => treeBehind es b 64 d n).bind fun n => (List.range 4).find? fun k => inMesh d k && beside d k == n

/-- A packet in an escape channel follows the junction's escape table. Where the mesh is cut it waits (R349). -/
def State.escapeForward (s : State) (d b : Nat) (p : Packet) : State :=
  match s.escapeDir d b with
  | some k => s.crosses d k p { p with esc := true }
  | none => s.waitsAt d p

/-- A packet leaves the mesh by the outward port of an attach die: to a link die against the credits of the port's channel, or to a hub, which takes it
(R10, R347). -/
def State.goesOut (s : State) (d port : Nat) (p : Packet) : State :=
  match linkBehind d port with
  | none => (s.leaves d p).emit (.forward (.junction d) port (hopped p))
  | some (l, k) =>
    let vc := chanOf p
    if (s.link l).lost ∨ s.credits d port vc < pktFill p vc then s.waitsAt d p else
    let t := (s.leaves d p).updDie d fun x => { x with sent := Tab.put x.sent 0 (16 * port + vc) (Tab.look x.sent 0 (16 * port + vc) + pktFill p vc) }
    let t := t.updLink l fun x => { x with bufs := x.bufs ++ [{ side := k, vc := vc, entered := d, p := hopped p }] }
    t.emit (.forward (.junction d) port (hopped p))

/-- The directions that a packet may take from a junction on an adaptive channel: it never turns west after it has moved in another direction (R348). -/
def State.turns (s : State) (d b : Nat) (p : Packet) : List Nat :=
  let moved := (s.heldAt d p).any fun x => x.side != 1 && x.side < 4 && inMesh d x.side
  ((permitted d b).filter (s.dirOpen d)).filter fun k => !(moved && k == 3)

/-- A junction forwards (R348 to R353). A packet that it discards takes its consignment with it (R350). For a cluster that resets, requests and partials are answered with RETRY, and what else is addressed to it is
discarded (R353) (DESIGN CHOICE, log 184). A die that drains takes in no packet that it does not hold already (R352). A packet that reaches a stopped cluster
starts its clock (R433). -/
def State.junctionForward (s : State) (d : Nat) (p : Packet) : State :=
  let n := Node.junction d
  if (s.die d).draining ∧ (s.heldAt d p).isNone then s
  else if p.hchk ≠ pktHcheck p ∨ p.hops = 255 then ((s.leaves d p).bump 0x5100 2 1).dieLost d false [] (s.packetRun p).toList
  else match s.targetDie (s.sourceDie d p) p with
    | none => s.waitsAt d p
    | some (b, port) =>
      let x := s.die b
      let c := p.dstEp.toNat % 8192
      let own := port == 4
      if own && x.hole then (s.leaves d p).emit (.packet (retryTo p 2))
      else if own && b == d && (x.resetting || (s.cl c).isolated) then
        (if p.cls = 0 ∨ p.cls = 4 then (s.leaves d p).emit (.packet (retryTo p 1)) else (s.leaves d p).bump 0x5100 3 1)
      else if b = d then
        (if own then ((s.woken c).leaves d p).emit (.forward n port (hopped p))
         else if (s.die d).portsDown.contains port then s.waitsAt d p
         else s.goesOut d port p)
      else if p.esc then s.escapeForward d b p
      else match s.mostCredits d (chanOf p) (s.turns d b p) with
        | none => s.escapeForward d b p
        | some k => s.crosses d k p p

/-- PACKET_FORWARD. -/
def execPacketForward (n : Node) (p : Packet) (s : State) : Res :=
  match n with
  | .junction d => .next (s.junctionForward d p)
  | .linkDie l => .next ((s.linkForward l p).returnCredits l)

/-! ### Reduction in the link dies (R366 to R368, R418) -/

/-- The children of this module in a partition's reduction tree, in increasing `rorder` (R363, R367). -/
def State.children (s : State) (part : Nat) : List (Nat × FEntry) :=
  match (s.pt part).fm with
  | none => []
  | some m =>
    let all := ((List.range m.entries.length).filterMap fun k => (m.entries[k]?).map fun e => (k, e)).filter fun x => x.1 != m.self && x.2.rparent == m.self
    (List.range 256).flatMap fun o => all.filter fun x => x.2.rorder == o

/-- The parent module, if this module is not the root. -/
def State.parentOf (s : State) (part : Nat) : Option (Nat × FEntry) :=
  match (s.pt part).fm with
  | none => none
  | some m => (m.entries[m.self]?).bind fun me => if me.rparent = 0xFF then none else (m.entries[me.rparent]?).map fun e => (me.rparent, e)

/-- The port whose link die reduces a block: number block / 2 048 mod n of the ports towards the parent, or at the root towards the
first child (R366). -/
def State.redPort (s : State) (part block : Nat) : Option Nat :=
  let e : Option FEntry := match s.parentOf part with
    | some x => some x.2
    | none => (s.children part).head?.map fun x => x.2
  e.bind fun e => let ps := s.portsOf e; if ps.isEmpty then none else ps[block / 2048 % ps.length]?

/-- FP32 words of a payload. -/
def wordsOf (bs : List Byte) : List Word32 := (piecesOf 4 (bs.length / 4 + 1) bs).map fun w => BitVec.ofNat 32 (leNat w)

/-- FP32 words as bytes. -/
def bytesOf (ws : List Word32) : List Byte := ws.flatMap fun w => natLe 4 w.toNat

/-- A reduced result for this module's own root: a WRITE under the token its RED_UP carried; the RED_UP is done with (R366, R418) (DEDUCED, log 49). -/
def State.redLand (s : State) (part coll block : Nat) (payload : List Byte) : State :=
  match s.kept.find? fun k => k.p.ptype == 0x0B && k.p.part.toNat == part && k.p.tag.toNat == coll && k.p.addr.toNat == block && k.p.srcMod == 0xFF with
  | none => s
  | some k =>
    let t := { s with kept := s.kept.filter fun x => x != k }
    t.send { packetOf 0x02 0 k.p.srcEp k.p.dstEp 0xFF part k.p.tag block 0 payload with
      window := k.p.window, winGen := k.p.winGen, granule := k.p.granule, gOff := k.p.gOff, last := true, pieces := 1 }

/-- A packet towards a module, leaving a link die on the block's port to it; a partial is kept until its block's result has come down (R344, R418). -/
def State.redTo (s : State) (l part ty cls block coll m : Nat) (e : FEntry) (payload : List Byte) : State :=
  let ps := s.portsOf e
  match ps[block / 2048 % (max 1 ps.length)]? with
  | none => s
  | some q =>
    let p := pktFinish (s.stamp
      (packetOf ty cls (BitVec.ofNat 16 (0x4000 + q / 4)) (BitVec.ofNat 16 (0x4000 + l)) (BitVec.ofNat 8 m) part (BitVec.ofNat 16 coll) block 0 payload))
    let t := s.linkSend l q p
    if cls = 4 then { t with kept := t.kept ++ [{ p := p }] } else t

/-- A collective's number, apart for each partition. -/
def collKey (p : Packet) : Nat := p.part.toNat * 65536 + p.tag.toNat

/-- The place of a partial among [own, child in increasing `rorder` …] (R367). -/
def State.redSource (s : State) (p : Packet) : Option Nat :=
  if p.srcMod = 0xFF ∨ (s.pt p.part.toNat).fm.any (fun m => m.self == p.srcMod.toNat) then some 0
  else
    let ch := s.children p.part.toNat
    if ch.any (fun x => x.1 == p.srcMod.toNat) then some (ch.findIdx (fun x => x.1 == p.srcMod.toNat) + 1) else none

/-- The sum of a node: FP32 in RNE by the pairwise tree of R193, no flags (R367). -/
def redSum (vals : List (List Word32)) : List Word32 :=
  treeSum (fun a b => List.zipWith (fun x y => (fadd x y).1) a b) [] 16 vals

/-- The root cluster's own partial: it stays with its sender, with the granule that is granted for the result, until that has landed (R366, R418). -/
def State.keepOwn (s : State) (p : Packet) : State :=
  if p.dstEp.toNat < 0x2000 ∨ 0x2000 ≤ p.srcEp.toNat ∨ s.kept.any (fun k => k.p == p) then s else { s with kept := s.kept ++ [{ p := p }] }

/-- A partial enters the reduction store as source `k`; the complete sum goes to the parent, or at the root down to each child and to the own root (R366, R367). -/
def State.redTake (s : State) (l : Nat) (p : Packet) (k : Nat) : State :=
  let part := p.part.toNat
  let block := p.addr.toNat
  let key := collKey p
  let mine (e : RedEnt) : Bool := e.coll == key && e.block == block
  let vals := ((((s.link l).red.find? mine).map (·.vals)).getD []) ++ [(k, wordsOf p.payload)]
  let n := (s.children part).length
  let all := (List.range (n + 1)).filterMap fun i => (vals.find? fun v => v.1 == i).map (·.2)
  let others := (s.link l).red.filter fun e => !mine e
  let keep := s.updLink l fun x => { x with red := others ++ [{ coll := key, block := block, vals := vals }] }
  if all.length ≤ n then keep
  else
    let sum := bytesOf (redSum all)
    match s.parentOf part with
    | some (m, e) => keep.redTo l part 0x0B 4 block p.tag.toNat m e sum
    | none =>
      let t := s.updLink l fun x => { x with red := others }
      let t := (s.children part).foldl (fun t c => t.redTo l part 0x0C 5 block p.tag.toNat c.1 c.2 sum) t
      t.redLand part p.tag.toNat block sum

/-- RED_UP at a link die (R366): a block of another link die is passed on across the mesh; a first partial is kept, a duplicate discarded. With a full store
a partial of a new block stays where it is, and with it its credits (R368). -/
def execRedUp (l : Nat) (p : Packet) (s : State) : Res :=
  let part := p.part.toNat
  let block := p.addr.toNat
  if (s.link l).lost then .next s
  else if p.pcrc ≠ pktCheck p then
    .next ((((s.linkLeaves l p).bump 0x5100 1 1).emit (.packet (pktFinish { packetOf 0x09 1 p.srcEp p.dstEp p.srcMod part p.tag block (BitVec.ofNat 128 (p.tag.toNat + 0x0B * 2 ^ 16)) [] with srcMod := p.dstMod }))).returnCredits l)
  else match s.redPort part block, s.redSource p with
    | some q, some k =>
      if q / 4 ≠ l then
        let p' := { p with dstEp := BitVec.ofNat 16 (0x4000 + q / 4) }
        let p' := { p' with pcrc := pktCheck p', hchk := pktHcheck p' }
        .next ((((s.keepOwn p).linkLeaves l p).linkInto l p').returnCredits l)
      else
        let old := (s.link l).red.find? fun e => e.coll == collKey p && e.block == block
        if old.isNone ∧ 16384 ≤ (s.link l).red.length then .next (s.linkWait l p)
        else if old.any (fun e => e.vals.any fun v => v.1 == k) then .next ((s.linkLeaves l p).returnCredits l)
        else .next ((((s.keepOwn p).linkLeaves l p).redTake l p k).returnCredits l)
    | _, _ => .next s

/-- RED_DOWN at a child's link die: passed on to its own children and written to its module's root; the partials are done with (R366, R418). -/
def execRedDown (l : Nat) (p : Packet) (s : State) : Res :=
  let part := p.part.toNat
  let block := p.addr.toNat
  if (s.link l).lost ∨ p.pcrc ≠ pktCheck p then .next (if (s.link l).lost then s else s.bump 0x5100 1 1)
  else
    let t := (s.children part).foldl (fun t c => t.redTo l part 0x0C 5 block p.tag.toNat c.1 c.2 p.payload) (s.linkLeaves l p)
    let t := { t with kept := t.kept.filter fun k => !(k.p.ptype == 0x0B && k.p.srcEp.toNat / 8192 == 2 && k.p.part == p.part && k.p.tag == p.tag && k.p.addr == p.addr) }
    let t := (List.range 8).foldl (fun t k => t.updLink k fun x => { x with red := x.red.filter fun e => !(e.coll == collKey p && e.block == block) }) t
    .next ((t.redLand part p.tag.toNat block p.payload).returnCredits l)

end Sys2Proof.Machine
end

