-- ==== Sys2Proof/Machine/Plate.lean ====
section
/-! DEFINITION. The service plate (chapter 22): the attention drain, physical presence, forced standby, latches, display. -/

namespace Sys2Proof.Machine

/-- The plate changed. -/
def State.updPlate (s : State) (f : Plate → Plate) : State := { s with plate := f s.plate }

/-! ### The attention drain (R512, R513) -/

/-- The seal path of a drain: W2 and W3, or at once ENTER_S3 when the ledger is already sealed (R513). -/
def State.drainSeal (s : State) : State :=
  let t := s.updPlate fun p => { p with drainSealed := true }
  if s.boot.sealed ∧ s.boot.sealAck then
    let t := (List.range 16).foldl (fun t p => t.stopForRerun p fun _ => true) t
    (t.updPlate fun p => { p with attention := 2 }).enterS3
  else t.sealStart

/-- DRAIN_SETTLED: nothing is RUNNING or HELD. With a partner the ledger is sealed; without, the module enters ENTER_S3 once every
partition is disabled and empty (R513). -/
def execDrainSettled (s : State) : Res :=
  if s.plate.attention = 1 ∧ !s.anyRunning ∧ !s.plate.drainSealed then
    if s.hasPartner then .next s.drainSeal
    else if s.quiet then .next (s.updPlate fun p => { p with attention := 3 }).enterS3
    else .next s
  else .next s

/-- DRAIN_LIMIT: with a partner the seal proceeds and what still runs is stopped after it; without, the drain fails and starts
resume, unless every partition is disabled and empty (R513). -/
def execDrainLimit (s : State) : Res :=
  if s.plate.attention = 1 ∧ !s.plate.drainSealed then
    if s.hasPartner then .next s.drainSeal
    else if s.quiet then .next (s.updPlate fun p => { p with attention := 3 }).enterS3
    else .next (s.updPlate fun p => { p with attention := 5 })
  else .next s

/-- TRIPLE_PRESS asserts physical presence and starts no drain, while the always-on domain is powered (R512). -/
def execTriplePress (s : State) : Res :=
  if s.power.st = .s5 then .next s else .next (s.updPlate fun p => { p with presence := true, lastEvent := 3 })

/-- PRESENCE_EXPIRY after 120 s (R512). -/
def execPresenceExpiry (s : State) : Res := .next (s.updPlate fun p => { p with presence := false })

/-- FORCED_STANDBY: the actions of a trip, recorded in `0x9000.04` and counted; in S3 only counted (R514) (DEDUCED, log 139). -/
def execForcedStandby (s : State) : Res :=
  if s.power.st = .s5 then .next s
  else
    let t := s.bump 0x9000 5 1
    if s.power.st = .s3 then .next t
    else
      let t := if t.hasPartner then t.sealStart.sealTaken else t
      .next ((t.toS3.faultCode (asciiBytes "PS")).updPlate fun p => { p with attention := 0, lastEvent := 4 }).redraw

/-! ### Latches and cables (R508, R515, R516) -/

/-- The contact row, A as 0, and the column of a leg of lane n's transmit or receive pair in a link connector (R508). -/
def laneContact (rx neg : Bool) (n : Nat) : Nat × Nat := ((if rx then 6 else 0) + n / 6, 3 * (n % 6) + 1 + (if neg then 1 else 0))

/-- The reference number of connector c of `0x9001`: J11 to J18, then J21 to J24 (R506). -/
def connRef (c : Nat) : Nat := if c < 8 then 11 + c else 13 + c

/-- The latch state of a connector set. -/
def State.setLatch (s : State) (conn v : Nat) : State := s.updPlate fun p => { p with latches := Tab.put p.latches 0 conn v }

/-- The working ports of an entry once those of a connector are gone. -/
def State.portsLeft (s : State) (conn : Nat) (e : FEntry) : List Nat := (s.portsOf e).filter fun p => p / 4 != conn

/-- The connector may not be dropped: some module of a latched map would lose its working path, or the last partner port
would go (R516). Its ports are judged together, as the unplugging takes them (DESIGN CHOICE, log 194). -/
def State.mustStay (s : State) (conn : Nat) : Bool :=
  let partner := (List.range 32).filter fun p => bit1 (s.cfg 0x2110 3) p && s.portUp p
  ((List.range 16).any fun q => match (s.pt q).fm with
    | none => false
    | some m => (List.range m.entries.length).any fun k => k != m.self && (m.entries[k]?).any fun e =>
        !(s.portsOf e).isEmpty && (s.portsLeft conn e).isEmpty) ||
  (s.hasPartner && !partner.isEmpty && partner.all fun p => p / 4 == conn)

/-- The connector carries no traffic: in S3, and when all its ports are not running. -/
def State.connIdle (s : State) (conn : Nat) : Bool :=
  s.power.st == .s3 || (if conn < 8 then (List.range 4).all fun j => (s.port (4 * conn + j)).st != .up else s.plan.cxlDown.contains (conn - 8))

/-- LATCH_TOUCH: the connector's drain starts; its ports leave every port set and unacknowledged packets are sent again, or its CXL
window is served as `hc` 2 (R515, R516). -/
def execLatchTouch (conn : Nat) (s : State) : Res :=
  if 12 ≤ conn ∨ !bit1 (s.obj 0x9002 1) conn ∨ s.latch conn = 4 ∨ s.power.st = .s5 then .next s
  else if s.connIdle conn then .next (s.setLatch conn 2)
  else if conn < 8 ∧ s.mustStay conn then .next (s.setLatch conn 3)
  else if s.latch conn = 1 ∨ s.latch conn = 2 then .next s
  else
    let again := if conn < 8 then s.kept.filter fun k => k.p.dstMod != 0xFF && (s.portFor k.p).any fun q => q / 4 == conn else []
    .next (again.foldl (fun t k => t.emit (.packet k.p)) (s.setLatch conn 1))

/-- Every dirty line of a hub's CXL window is written back (R515). -/
def State.cleanCxl (s : State) (x : Nat) : State :=
  s.updHub x fun h => { h with sets := h.sets.map fun (e : Nat × List Line) => (e.1, e.2.map fun l => if l.cxl then { l with dirty := false } else l) }

/-- CONNECTOR_DRAINED: no traffic, or no dirty line, is left; Ethernet ports are taken down (R515). -/
def execConnectorDrained (conn : Nat) (s : State) : Res :=
  if s.latch conn = 1 then
    if conn < 8 then
      .next ((List.range 4).foldl (fun t j => if (t.port (4 * conn + j)).mode ≠ 0 then
          (t.portDown (4 * conn + j)).updPort (4 * conn + j) fun x => { x with fault := false } else t) (s.setLatch conn 2))
    else .next ((s.setLatch conn 2).cleanCxl (conn - 8))
  else .next s

/-- The ports of a link connector train again and rejoin their port sets once their identity passes (R359, R515). -/
def State.retrainConn (s : State) (conn : Nat) : State :=
  (List.range 4).foldl (fun t j => t.updPort (4 * conn + j) fun x =>
    if x.st = .fused then x else { x with st := .retrain, peer := none, replay := [], rx := [], naking := false, rxSeq := 0, txSeq := 0, ackSeq := 0,
                                              tx := [], txOff := 0, used := [], held := [], owed := [] }) s

/-- The connector's cable is seated: a link connector by its presence contact, a CXL connector while its port is up (R508, R515) (DEDUCED, log 221). -/
def State.seatedAt (s : State) (conn : Nat) : Bool := if conn < 8 then s.plate.seated.contains conn else !s.plan.cxlDown.contains (conn - 8)

/-- LATCH_RELEASE: the hand left a drained connector and the cable is still seated after 5 s (R515); a connector that was not dropped
only loses its light (R516). -/
def execLatchRelease (conn : Nat) (s : State) : Res :=
  if s.latch conn = 3 then .next (s.setLatch conn 0)
  else if (s.latch conn = 1 ∨ s.latch conn = 2) ∧ s.seatedAt conn then
    if conn < 8 ∧ s.power.st ≠ .s3 then .next ((s.setLatch conn 0).retrainConn conn) else .next (s.setLatch conn 0)
  else .next s

/-- CBL_PRES_N_CHANGE: a cable pulled takes its ports down (R418); a cable seated lets them train (R508, R520). -/
def execCblPresNChange (conn : Nat) (seated : Bool) (s : State) : Res :=
  if 8 ≤ conn then .next s
  else
    let t := s.updPlate fun p => { p with seated := setMember p.seated conn seated }
    if seated then
      let t := t.setLatch conn 0
      .next (if s.running ∧ !s.ports.isEmpty then t.retrainConn conn else t)
    else
      let drained := s.latch conn == 2
      .next (((List.range 4).foldl (fun t j => (t.portDown (4 * conn + j)).updPort (4 * conn + j) fun x => { x with fault := x.fault && !drained }) t).setLatch conn 4)

/-! ### Lights and display (R517, R518) -/

/-- The colours of the table of R518. -/
inductive Colour where
  | off | green | blue | amber | red | white
  deriving DecidableEq, Repr

/-- A light: its colour, and whether it blinks, flashes or pulses. -/
structure Light where
  colour : Colour
  blink : Bool
  deriving DecidableEq, Repr

/-- The lowest row of a table that applies (R518). -/
def lowestRow (rows : List (Bool × Light)) : Light :=
  rows.foldl (fun l r => if r.1 then r.2 else l) ⟨.off, false⟩

/-- The LED of a port. Traffic shows as flits not yet acknowledged or a packet partly received (DESIGN CHOICE, log 182). -/
def State.portLed (s : State) (p : Nat) : Light :=
  let x := s.port p
  let l := s.latch (p / 4)
  lowestRow
    [(x.st == .up, ⟨.green, !x.replay.isEmpty || !x.rx.isEmpty⟩),
     (l == 2, ⟨.blue, false⟩),
     (l == 3, ⟨.amber, true⟩),
     ((x.st == .down && x.fault) || x.st == .heldDown, ⟨.red, false⟩)]

/-- The LED of a CXL port: trained once a device has been enumerated, blue when drained, red while the port is down; the traffic of a CXL port is not told
(R515, R518) (DESIGN CHOICE, log 182). -/
def State.cxlLed (s : State) (x : Nat) : Light :=
  lowestRow
    [(decide (Tab.look s.plan.cxlCap 0 x ≠ 0), ⟨.green, false⟩),
     (s.latch (8 + x) == 2, ⟨.blue, false⟩),
     (s.latch (8 + x) == 3, ⟨.amber, true⟩),
     (s.plan.cxlDown.contains x, ⟨.red, false⟩)]

/-- The module light bar; dark without input power and where no row of the table applies (DESIGN CHOICE, log 182). -/
def State.lightBar (s : State) : Light :=
  if s.power.st = .s5 then ⟨.off, false⟩ else
  lowestRow
    [(s.obj 0x9004 1 == 1, ⟨.white, true⟩),
     (s.boot.stage == .l2 && !s.plate.faulted, ⟨.green, false⟩),
     (s.boot.stage != .off && s.boot.stage != .l2, ⟨.green, true⟩),
     (s.plate.attention == 5 || !s.recov.recs.isEmpty, ⟨.amber, false⟩),
     (s.plate.attention == 4, ⟨.blue, false⟩),
     (s.power.tripCause != 0 || (s.plate.lastEvent == 4 && s.power.st == .s3) || s.obj 0x5000 6 == 1, ⟨.red, false⟩)]

/-- The lights of the 32 link ports and the four CXL ports, then the bar. -/
def State.lightsNow (s : State) : List Light := (List.range 32).map s.portLed ++ (List.range 4).map s.cxlLed ++ [s.lightBar]

/-- DISPLAY_REDRAW; without power the panel keeps its image (R517). -/
def execDisplayRedraw (s : State) : Res := if s.power.st = .s5 then .next s else .next s.redraw

/-- CLEAR_FAULT_CODE (R517). -/
def execClearFaultCode (s : State) : Res := .next (s.updPlate fun p => { p with fault := [] })

end Sys2Proof.Machine
end

