-- ==== Sys2Proof/Machine/Mdp.lean ====
section
/-! DEFINITION. The object dictionary and its protocol (chapter 20): values, rights, segmented transfers, the two configuration sets. -/

namespace Sys2Proof.Machine

/-! ### Result codes (R471) -/

def rcOk : Byte := 0x00
def rcNoObject : Byte := 0x01
def rcNoSub : Byte := 0x02
def rcAccess : Byte := 0x03
def rcRole : Byte := 0x04
def rcLength : Byte := 0x05
def rcRange : Byte := 0x06
def rcClaimed : Byte := 0x07
def rcSequence : Byte := 0x08
def rcLocked : Byte := 0x09
def rcNotAvail : Byte := 0x0A
def rcShadow : Byte := 0x0B
def rcMalformed : Byte := 0x0C

/-! ### Values of objects that show the module's state -/

/-- A number of thousandths as F32, rounded once. -/
def f32OfMilli (v : Int) : Nat :=
  (toF32 rne (divV (.fin (decide (v < 0)) v.natAbs 0) (.fin false 1000 0)).1).1.toNat

/-- The hottest of the dies that satisfy a condition; none when none was sampled. -/
def State.hottest (s : State) (f : Nat → Bool) : Option Int :=
  (s.power.temps.filter fun e => f e.1).foldl (fun m e => match m with | none => some e.2 | some x => some (max x e.2)) none

/-- A temperature in F32; a free value while nothing was sampled. -/
def State.tempOf (s : State) (t : Option Int) : Nat :=
  match t with
  | some v => f32OfMilli v
  | none => bits s.freeW.toNat 0 32

/-- The temperature of one part. -/
def State.tempAt (s : State) (k : Nat) : Nat := s.tempOf ((s.power.temps.find? fun e => e.1 == k).map (·.2))

/-- The state of a partition (`0x5802`). -/
def State.partState (s : State) (p : Nat) : Nat :=
  if s.boot.sealed then 3 else if (s.pt p).regs.halted then 2 else if (s.pt p).regs.enable then 1 else 0

/-- The shadow set differs from the active set (R490). -/
def State.modified (s : State) : Bool :=
  s.dict.shadow != s.dict.active || s.octs 0x1100 6 != Tab.look s.dict.octs [] (objKey 0x1100 6 + 2 ^ 24)

/-- Objects that count cycles or tell time, which the model does not keep: a read gives a free value (DESIGN CHOICE, log 4, DESIGN CHOICE, log 5). -/
def timedObj (idx sub : Nat) : Bool :=
  (0x7000 ≤ idx && idx ≤ 0x7007) || [(0x7050, 1), (0x7050, 3), (0x7060, 4), (0x7080, 2), (0x7090, 2), (0x7090, 6), (0x70A0, 6),
    (0x7070, 5), (0x7070, 6), (0x4000, 4), (0x4020, 8), (0x5000, 7), (0x4801, 3)].contains (idx, sub)

/-- The value of a fixed-size RO object (the object tables of every chapter) (DESIGN CHOICE, log 5). -/
def State.roVal (s : State) (idx sub : Nat) : Nat :=
  let b (v : Bool) : Nat := if v then 1 else 0
  let pt := s.pt (sub - 1)
  if 0x7000 ≤ idx ∧ idx ≤ 0x7007 ∧ !pt.counted then 0
  else if idx = 0x7050 ∧ (sub = 1 ∨ sub = 3) ∧ s.obj 0x7050 1 = 0 then 0
  else if timedObj idx sub then s.freeW.toNat
  else if 0x3010 ≤ idx ∧ idx ≤ 0x3017 then
    (if sub = 33 then ((List.range 4).map fun n => if (List.range 4).any fun j => (s.port (4 * (idx - 0x3010) + j)).lanes.contains (32 + n) then 2 ^ n else 0).sum
     else s.laneMap (idx - 0x3010) ((sub - 1) / 8) ((sub - 1) % 8))
  else if 0x3100 ≤ idx ∧ idx ≤ 0x313F then ((s.cl ((idx - 0x3100) * 17 + (sub - 1))).role).getD 0xFFFF
  else if 0xA000 ≤ idx ∧ idx ≤ 0xA050 then
    (let g := s.img ((idx - 0xA000) / 16)
     match sub with | 3 => g.status | 4 => g.result | 5 => g.reason | _ => g.activeVer % 65536 + g.fallbackVer % 65536 * 65536)
  else match idx with
  | 0x1000 => s.sec.boots
  | 0x1800 => (match sub with | 2 => if s.dict.set.st ≠ 0 then s.dict.set.st else b s.modified | 3 => s.dict.set.gen | _ => s.dict.set.last)
  | 0x3000 => (match sub with
      | 1 => s.plan.variant.toNat
      | 2 => ((List.range 64).filter fun d => (s.die d).scanned && !(s.die d).fused && !(s.die d).reserve && !(s.die d).failed).length
      | 3 => ((List.range 64).map s.dieRoles).sum
      | 4 => ((List.range 64).filter fun d => (s.die d).spareUsed).length
      | _ => s.obj idx sub)
  | 0x3001 => s.dieEntry (sub - 1)
  | 0x3020 => if s.plan.lostStacks.contains (sub - 1) then 0 else Tab.look s.plan.stackCap 0 (sub - 1) / 2 ^ 30
  | 0x3021 => (match sub with
      | 1 => s.plan.rows.length
      | 7 => s.hbmLen / 2 ^ 30
      | 8 => s.plan.rowsOk
      | k => ((s.plan.rows[k - 2]?).map (·.1)).getD 0 / 2 ^ 30)
  | 0x3030 => if sub ≤ 4 then Tab.look s.plan.cxlCap 0 (sub - 1)
      else if s.plan.cxlDown.contains (sub - 5) ∨ Tab.look s.plan.cxlCap 0 (sub - 5) = 0 then 0 else Config.cxlLink (sub - 5) % 256
  | 0x3040 => (match sub with
      | 1 => s.dArea 0 false
      | 2 => (s.plan.dAreas.map (·.2)).sum
      | 9 => s.dArea 0 false
      | 10 => s.dArea 0 true
      | 11 => b s.boot.parityReady
      | k => s.dArea ((k - 1) / 2) (k % 2 == 0))
  | 0x4000 => (match sub with
      | 1 => f32OfMilli s.power.mv
      | 2 => bits s.power.amps.toNat 0 32
      | 3 => f32OfMilli (1000 * s.power.avgW)
      | 5 => s.pstate
      | 6 => b s.power.connA
      | 7 => b s.power.connB
      | 8 => b s.power.warn
      | _ => s.obj idx sub)
  | 0x4010 => s.effCap
  | 0x4020 => (match sub with
      | 1 => f32OfMilli s.power.inlet
      | 2 => f32OfMilli s.power.outlet
      | 3 => f32OfMilli s.power.flow
      | 4 => s.tempOf (s.hottest fun k => decide (k < 64))
      | 5 => s.tempOf (s.hottest fun k => decide (100 ≤ k))
      | 6 => s.tempOf (s.hottest fun k => decide (64 ≤ k ∧ k < 100))
      | _ => s.obj idx sub)
  | 0x4021 => s.tempAt (sub - 1)
  | 0x4022 => s.tempAt (100 + (sub - 1))
  | 0x5101 => if sub = 1 then ((List.range 64).map fun d => if (s.die d).hole then 2 ^ d else 0).sum else s.obj idx sub
  | 0x5800 => pt.nextSeq
  | 0x5801 => pt.w
  | 0x5802 => s.partState (sub - 1)
  | 0x5808 => if sub ≠ 1 then s.obj idx sub else if !s.hasPartner then 0 else if !s.partnerUp then 4 else max 1 (s.obj idx sub)
  | 0x5820 => pt.e
  | 0x5821 => pt.s
  | 0x6010 => (match sub with
      | 1 => s.sec.lost
      | 2 => s.sec.q
      | 3 => s.sec.bound
      | 4 => 6400000 - s.sec.ringUsed
      | _ => b s.sec.exhausted)
  | 0x6020 => (s.img (sub - 1)).counter
  | 0x6050 => if sub = 1 then s.sec.lifecycle else s.sec.debugMask.toNat
  | 0x6070 => ((List.range 16).map fun k => if s.sec.revoked.contains k then 2 ^ k else 0).sum
  | 0x8000 => (match sub with
      | 1 => (match s.boot.stage with | .l1 => 1 | .l2 => 2 | _ => 0)
      | 4 => b s.boot.abbreviated
      | 5 => b s.boot.memFault
      | 9 => s.boot.stop
      | _ => s.obj idx sub)
  | 0x9000 => (match sub with
      | 1 => s.plate.attention
      | 2 => b s.plate.presence
      | 4 => s.plate.lastEvent
      | _ => s.obj idx sub)
  | 0x9001 => s.latch (sub - 1)
  | _ => s.obj idx sub

/-- The value of an octet or text object that is read. -/
def State.roOcts (s : State) (idx sub : Nat) : List Byte :=
  match idx, sub with
  | 0x1000, 1 => asciiBytes "Epioter EPT-100"
  | 0x1000, 4 => Config.identity 4
  | 0x1000, 7 => Config.identity 7
  | 0x6000, 1 => deviceCert
  | 0x6000, 2 => s.certBytes s.sec.mgmtKey s.sec.mgmtCert "management" [3]
  | 0x6000, 3 => s.attCertBytes
  | 0x6030, k => Tab.look s.sec.anchors [] k
  | 0x6050, 2 => Config.debugNonce s.sec.powerOns
  | 0x9003, 2 => s.plate.fault
  | _, _ => s.octs idx sub

/-- A CONST object (R488). -/
def State.constVal (s : State) (idx sub : Nat) : Nat :=
  if idx = 0x1000 ∧ sub = 2 then Config.moduleId.toNat
  else if idx = 0x1000 ∧ sub = 3 then s.plan.variant.toNat
  else if idx = 0x1000 ∧ (sub = 5 ∨ sub = 6) then leNat (Config.identity sub)
  else (objDefault idx sub).toNat

/-- 16 zero bytes where an RWS octet object lists none (`0x1100.06`). -/
def octDefault (v : List Byte) : List Byte := if v.isEmpty then List.replicate 16 0 else v

/-- The bytes of an object as a READ returns them (R476, R484). The running uptime is open (DESIGN CHOICE, log 5). -/
def State.objBytes (s : State) (r : ObjRow) (idx sub : Nat) (shadow : Bool) : List Byte :=
  let key := objKey idx sub
  match r.ty with
  | .str | .oct =>
    if r.acc = .rws then octDefault (Tab.look s.dict.octs [] (if shadow then key + 2 ^ 24 else key)) else s.roOcts idx sub
  | .uptime => natLe 8 (if idx = 0x8000 ∨ idx = 0x1800 then s.obj idx sub else s.freeW.toNat) ++ [79, 0]
  | ty => natLe ty.size (match r.acc with
      | .const => s.constVal idx sub
      | .rws => (Tab.look (if shadow then s.dict.shadow else s.dict.active) (objDefault idx sub) key).toNat
      | .rw => if idx = 0x4001 ∧ sub = 1 then s.power.asked else if idx = 0x4001 ∧ sub = 2 then (if s.power.autoWake then 1 else 0) else s.obj idx sub
      | _ => s.roVal idx sub)

/-! ### The two sets (R484 to R486, R489) -/

/-- Port modes take their active values, except on ports that a latched map lists (R370) (DESIGN CHOICE, log 214). -/
def State.applyModes (s : State) : State :=
  (List.range 32).foldl (fun t p =>
    if (t.mapsListing p).isEmpty ∧ (t.port p).mode ≠ t.cfg 0x2101 (p + 1) ∧ (t.port p).st ≠ .fused ∧ !t.ports.isEmpty then
      t.updPort p fun x => { x with mode := t.cfg 0x2101 (p + 1), st := .retrain, peer := none, replay := [], rx := [], tx := [], txOff := 0, used := [], held := [], owed := [] }
    else t) s

/-- The swap: shadow becomes active, the generation advances, the shadow set is a copy of the new active set (R485 steps 3 to 5). DTLS
sessions end when the swap changes a local address. The time of it is open (DESIGN CHOICE, log 5); the family of a session's address is not told, so all of them
end (DESIGN CHOICE, log 145). -/
def State.swapNow (s0 : State) : State :=
  let s := (s0.setObj 0x1800 6 s0.freeW.toNat).drawn
  let differs (k : Nat) : Bool := s.cfg 0x1100 k != (Tab.look s.dict.shadow (objDefault 0x1100 k) (objKey 0x1100 k)).toNat
  let k6 := objKey 0x1100 6
  let sh := Tab.look s.dict.octs [] (k6 + 2 ^ 24)
  let moved := differs 1 || (s.cfg 0x1100 1 == 1 && differs 2) || differs 5 || (s.cfg 0x1100 5 == 1 && sh != s.octs 0x1100 6)
  let t := { s with dict := { s.dict with
    active := s.dict.shadow, octs := Tab.put s.dict.octs [] k6 sh
    set := { st := 0, gen := s.dict.set.gen + 1, last := 1 } } }
  let t := t.applyModes
  let t := { t with hubs := Tab.mapV t.hubs {} fun h => { h with sets := Tab.mapV h.sets [] (trimCxl (t.cfg 0x2060 1)) } }
  if moved then t.openSess.foldl State.endSess t else t

/-- A swap is requested: PENDING, or at once in S2, S3 and before L1 (R485, R504). -/
def State.swapAsk (s : State) : State :=
  if s.dict.set.st ≠ 0 then s
  else if s.power.st = .s2 ∨ s.power.st = .s3 ∨ !s.atL1 then s.swapNow
  else { s with dict := { s.dict with set := { s.dict.set with st := 2 } } }

/-- The active set copied into the shadow set (R486). -/
def State.setCopyNow (s : State) : State :=
  { s with dict := { s.dict with shadow := s.dict.active, octs := Tab.put s.dict.octs [] (objKey 0x1100 6 + 2 ^ 24) (s.octs 0x1100 6) } }

/-- SET_SWAP. -/
def execSetSwap (s : State) : Res := .next s.swapAsk

/-- SET_COPY: refused while PENDING or SWAPPING. -/
def execSetCopy (s : State) : Res := if s.dict.set.st = 0 then .next s.setCopyNow else .next s

/-- A pending swap ends without taking place. -/
def State.swapEnd (s : State) (result : Nat) : State := { s with dict := { s.dict with set := { s.dict.set with st := 0, last := result } } }

/-- SET_CANCEL. -/
def execSetCancel (s : State) : Res := if s.dict.set.st = 2 then .next (s.swapEnd 3) else .next s

/-- SWAP_POINT: nothing is RUNNING or HELD (R485 step 3). -/
def execSwapPoint (s : State) : Res := if s.dict.set.st = 2 ∧ !s.anyRunning then .next s.swapNow else .next s

/-- SWAP_TIMEOUT: the swap point was not reached within `0x1800.05` ms (R486). -/
def execSwapTimeout (ms : Nat) (s : State) : Res :=
  if s.dict.set.st = 2 ∧ clampN 1 600000 (s.obj 0x1800 5) ≤ ms then .next (s.swapEnd 2) else .next s

/-! ### Values written (R477) -/

/-- A value clamped, or 0 read back as 1 within a limit, or refused. -/
def zeroOne (hi v : Nat) : Except Byte Nat := if v = 0 then .ok 1 else if hi < v then .error rcRange else .ok v

def upTo (hi v : Nat) : Except Byte Nat := if hi < v then .error rcRange else .ok v

/-- The value an object takes when a number is written: the read-back rules and ranges of the object tables (DEDUCED, log 34). -/
def normVal (idx sub v : Nat) : Except Byte Nat :=
  match idx, sub with
  | 0x2010, _ => .ok (v % 64)
  | 0x9002, 1 => .ok (v % 4096)
  | 0x2030, 2 => .ok (max 1 v)
  | 0x2040, 1 => zeroOne 24 v
  | 0x2040, 2 => zeroOne 8 v
  | 0x2050, 1 => .ok (min 32 v)
  | 0x2050, 2 => zeroOne 15 v
  | 0x2060, 1 => .ok (min 16 v)
  | 0x2060, 2 => .ok (clampN 16 256 v)
  | 0x2070, 1 => .ok (min 16 v)
  | 0x2070, 2 => zeroOne 16 v
  | 0x2070, 3 => zeroOne 64 v
  | 0x2100, 1 => .ok (max 1 v)
  | 0x2100, 2 => zeroOne 15 v
  | 0x2100, 3 => .ok (max 1 v)
  | 0x2101, _ => .ok (if 2 < v then 0 else v)
  | 0x2111, 1 => .ok (if 1 < v then 0 else v)
  | 0x2120, 1 => .ok (max 1 v)
  | 0x2120, 3 => .ok (clampN 100 4000 v)
  | 0x2120, 4 => .ok (clampN 100 9000 v)
  | 0x2120, 5 => zeroOne 1000 v
  | 0x2120, 6 => zeroOne 16 v
  | 0x4001, 1 => upTo 3 v
  | 0x4001, 3 => .ok (clampN 1 600 v)
  | 0x4010, 1 => .ok (clampN 3000 15000 v)
  | 0x4800, 1 => zeroOne 1000000 v
  | 0x1100, 1 => upTo 2 v
  | 0x1100, 3 => .ok (min 32 v)
  | 0x1100, 7 => upTo 4094 v
  | 0x1100, 8 => upTo 3 v
  | 0x1100, 10 => .ok (clampN 10 3600 v)
  | 0x1101, 1 => if v = 0 ∨ v = 255 then .error rcRange else .ok v
  | 0x1800, 1 => if v = 0 ∨ 3 < v then .error rcRange else .ok v
  | 0x1800, 5 => .ok (clampN 1 600000 v)
  | 0x8000, 7 => .ok (clampN 1 365 v)
  | 0x9000, 3 => .ok (clampN 1 3600 v)
  | _, _ => if 0xA000 ≤ idx ∧ idx ≤ 0xA050 ∧ sub = 2 ∧ (v = 0 ∨ 3 < v) then .error rcRange else .ok v

/-- A BOOL or an F32 value out of its type's range (R477). -/
def typeRange (ty : ObjTy) (v : Nat) : Bool :=
  match ty with
  | .bool => decide (v ≤ 1)
  | .f32 => !nan32 (BitVec.ofNat 32 v)
  | _ => true

/-- The state that a command's answer leaves; `s` where it gives none. -/
def stateOf (r : Res) (s : State) : State :=
  match r with
  | .next t => t
  | _ => s

/-- A request that changes nothing is refused as NOT_AVAILABLE. -/
def orRefuse (s t : State) : Except Byte State := if t = s then .error rcNotAvail else .ok t

/-- The effect of a number written to an RW or WO object, and to an RWS object's shadow value. -/
def State.putVal (s : State) (r : ObjRow) (idx sub v : Nat) : Except Byte State :=
  if r.acc = .rws then
    .ok { s with dict := { s.dict with shadow := Tab.put s.dict.shadow (objDefault idx sub) (objKey idx sub) (BitVec.ofNat 64 v) } }
  else match idx, sub with
  | 0x1800, 1 =>
    if s.dict.set.st ≠ 0 ∧ v ≠ 3 then .error rcShadow
    else .ok (match v with | 1 => s.swapAsk | 2 => s.setCopyNow | _ => stateOf (execSetCancel s) s)
  | 0x4001, 1 =>
    (match v with
     | 1 => if s.power.st = .s3 then orRefuse s (stateOf (execS3Wake s) s) else .ok (stateOf (execWakeRequest s) s)
     | 2 => if s.atL1 then .ok (stateOf (execRequestS2 s) s) else .error rcNotAvail
     | 3 => if s.s3Refused then .error rcNotAvail else .ok (stateOf (execRequestS3 s) s)
     | _ => .ok (s.asks 0))
  | 0x4001, 2 => .ok { s with power := { s.power with autoWake := v == 1 } }
  | 0x8000, 8 => .ok (if v = 1 then stateOf (execClearFailureMarks s) s else s)
  | 0x9003, 3 => .ok (if v = 1 then stateOf (execClearFaultCode s) s else s)
  | 0x6021, k => .ok (stateOf (execCounterAdvance (k - 1) (BitVec.ofNat 8 v) s) s)
  | _, _ =>
    if 0xA000 ≤ idx ∧ idx ≤ 0xA050 ∧ sub = 2 then
      (let n := (idx - 0xA000) / 16
       match v with
       | 1 => orRefuse s (stateOf (execVerify n s) s)
       | 2 => orRefuse s (stateOf (execActivate n s) s)
       | _ => .ok (stateOf (execAbandon n s) s))
    else .ok (s.setObj idx sub v)

/-- The effect of octets or text written. -/
def State.putOcts (s : State) (bus : Bool) (r : ObjRow) (idx sub : Nat) (v : List Byte) : Except Byte State :=
  if r.limit ≠ 0 ∧ r.limit < v.length then .error rcLength
  else match idx, sub with
  | 0x6030, 5 => orRefuse s (stateOf (execAnchorUpdate bus v s) s)
  | 0x6050, 3 => orRefuse s (stateOf (execDebugToken v s) s)
  | 0x6060, 1 => if v.length = 32 then .ok (stateOf (execReportNonceWrite v s) s) else .error rcLength
  | 0x6070, 2 => orRefuse s (stateOf (execRevocation v s) s)
  | 0x1100, 6 =>
    if v.length = 16 then
      .ok { s with dict := { s.dict with octs := Tab.put s.dict.octs [] (objKey idx sub + 2 ^ 24) (if v.all (fun b => b == 0) then [] else v) } }
    else .error rcLength
  | _, _ =>
    let t := { s with dict := { s.dict with octs := Tab.put s.dict.octs [] (objKey idx sub) v } }
    if 0xA000 ≤ idx ∧ idx ≤ 0xA050 then .ok (t.updImg ((idx - 0xA000) / 16) fun g => { g with status := 1, armed := false })
    else .ok t

/-- One whole value written (R477). -/
def State.putBytes (s : State) (bus : Bool) (r : ObjRow) (idx sub : Nat) (bs : List Byte) : Except Byte State :=
  match r.ty with
  | .str | .oct => s.putOcts bus r idx sub bs
  | ty =>
    if bs.length ≠ ty.size then .error rcLength
    else if !typeRange ty (leNat bs) then .error rcRange
    else match normVal idx sub (leNat bs) with
      | .error e => .error e
      | .ok v => s.putVal r idx sub v

/-! ### Requests (R469 to R472, R478, R481 to R483) -/

/-- Debug is closed (R464). -/
def State.debugClosed (s : State) : Bool := s.sec.lifecycle != 0 && s.sec.debugMask == 0

/-- An object's source is running: before L1 and in S3 only the always-on objects answer, and the floor plan after the fuse scan (R420, R483, R492, R500). -/
def State.objUp (s : State) (r : ObjRow) (idx sub : Nat) : Bool :=
  let sd := (0x6000 ≤ idx && idx ≤ 0x63FF && idx != 0x6040) || (0xA000 ≤ idx && idx ≤ 0xAFFF)
  let always := idx == 0x1000 || (0x1100 ≤ idx && idx ≤ 0x1102) || idx == 0x1800 || r.acc == .rws || idx == 0x4000 || idx == 0x4001 ||
    idx == 0x4020 || idx == 0x8000 || (0x9000 ≤ idx && idx ≤ 0x90FF) || (idx == 0x5000 && sub == 7) || sd
  let plan := 0x3000 ≤ idx && idx ≤ 0x33FF
  (sub == 0 || (if plan then s.boot.report.isSome && s.power.st != .s3 else (s.power.st != .s3 && s.atL1) || always)) && !(sd && s.boot.sdFaulted && sub != 0)

/-- A session's right to write an object (R478). -/
def State.mayWrite (s : State) (sess idx sub : Nat) : Bool :=
  let asOperator := !(0x6000 ≤ idx && idx ≤ 0x63FF) && !(0xA000 ≤ idx && idx ≤ 0xAFFF) && !(0xF000 ≤ idx)
  if sess = 0 then
    s.obj 0x1101 2 == 1 && (idx, sub) != (0x1101, 2) &&
    (asOperator || ((idx, sub) == (0x6030, 5) && s.sec.anchors.isEmpty && s.plate.presence))
  else
    let m := (s.sess sess).role
    (bit1 m 0 && asOperator) || bit1 m 1 ||
    (bit1 m 2 && ((idx, sub) == (0x1000, 11) || (idx, sub) == (0x4001, 1) || (0x9000 ≤ idx && idx ≤ 0x90FF)))

/-- The common checks of a READ or WRITE: the object's row, or a result. Debug lock, existence, access right, then role (R471, R478) (DEDUCED, log 33). -/
def State.findObj (s : State) (sess : Nat) (u : MdpUnit) (wr : Bool) : Except Byte ObjRow :=
  let idx := u.index.toNat
  let sub := u.sub.toNat
  if 0xF000 ≤ idx ∧ s.debugClosed then .error rcLocked
  else if 0xF000 ≤ idx ∧ !bit1 (s.sess sess).role 1 then .error rcRole
  else if !objExists idx then .error rcNoObject
  else match objRow idx sub with
    | none => .error rcNoSub
    | some r =>
      if (wr && (r.acc == .const || r.acc == .ro)) || (!wr && r.acc == .wo) || (u.set && r.acc != .rws) then .error rcAccess
      else if wr && !s.mayWrite sess idx sub then .error rcRole
      else if !s.objUp r idx sub then .error rcNotAvail
      else .ok r

/-- A reply: result, data, offset and `final`. -/
structure Reply where
  res : Byte
  data : List Byte := []
  off : Nat := 0
  fin : Bool := false
  deriving DecidableEq, Repr

/-- The most data bytes a unit carries on a path (R468). -/
def unitMax (sess : Nat) : Nat := if sess = 0 then 240 else 1024

/-- A segmented READ: the first segment latches the value, later ones read the latch (R482). -/
def State.segRead (s : State) (sess : Nat) (u : MdpUnit) (r : ObjRow) : State × Reply :=
  let key := objKey u.index.toNat u.sub.toNat
  let off := u.offset.toNat
  let n := unitMax sess
  let answer (t : State) (v : List Byte) : State × Reply :=
    let fin := decide (v.length ≤ off + n)
    (t.updSess sess fun x => { x with latch := if fin then none else some (key, v) },
     { res := rcOk, data := (v.drop off).take n, off := off, fin := fin })
  if off = 0 then
    if key = objKey 0x6060 2 then
      if !s.canReport then (s, { res := rcNotAvail })
      else
        let t := stateOf (execAttestationReportRead sess s) s
        match (t.sess sess).latch with
        | some (k, v) => if k = key then answer t v else (s, { res := rcNotAvail })
        | none => (t, { res := rcNotAvail })
    else answer s.drawn (s.objBytes r u.index.toNat u.sub.toNat u.set)
  else match (s.sess sess).latch with
    | some (k, v) =>
      if k ≠ key then (s, { res := rcSequence })
      else if v.length < off then (s, { res := rcRange, off := off }) else answer s v
    | none => (s, { res := rcSequence })

/-- A READ's effect and reply (DEDUCED, log 222). -/
def State.doRead (s : State) (sess : Nat) (u : MdpUnit) : State × Reply :=
  if u.len ≠ 0 then (s, { res := rcLength }) else
  match s.findObj sess u false with
  | .error e => (s, { res := e })
  | .ok r =>
    if u.seg then s.segRead sess u r
    else
      let v := s.objBytes r u.index.toNat u.sub.toNat u.set
      if (u.index.toNat, u.sub.toNat) = (0x6060, 2) ∨ unitMax sess < v.length then (s, { res := rcLength })
      else (s.drawn, { res := rcOk, data := v })

/-- The claim on an object. -/
def State.claimOn (s : State) (key : Nat) : Option Claim := s.dict.claims.find? fun k => k.key == key

/-- The claim on an object replaced or removed. -/
def State.putClaim (s : State) (key : Nat) (k : Option Claim) : State :=
  { s with dict := { s.dict with claims := s.dict.claims.filter (fun x => x.key != key) ++ k.toList } }

/-- The candidate image of a class, whose claim outlasts the transfer (R465). -/
def isImage (key : Nat) : Bool := (List.range 6).any fun n => key == objKey (0xA000 + 16 * n) 1

/-- A segmented WRITE (R481); image slots keep their claim (R465). -/
def State.segWrite (s : State) (sess : Nat) (u : MdpUnit) (r : ObjRow) : State × Reply :=
  let idx := u.index.toNat
  let key := objKey idx u.sub.toNat
  let image := decide (0xA000 ≤ idx ∧ idx ≤ 0xA050)
  let have' := match s.claimOn key with | some k => if k.sess = sess then k.data else [] | none => []
  let data := if u.offset = 0 then u.data else have' ++ u.data
  let touched := if image ∧ ((s.img ((idx - 0xA000) / 16)).status = 2 ∨ (s.img ((idx - 0xA000) / 16)).status = 4) then
      s.updImg ((idx - 0xA000) / 16) fun g => { g with status := 1, armed := false } else s
  if u.offset ≠ 0 ∧ ((s.claimOn key).isNone ∨ u.offset.toNat ≠ have'.length) then (s, { res := rcSequence, off := have'.length })
  else if r.limit ≠ 0 ∧ r.limit < data.length then (s.putClaim key none, { res := rcLength })
  else if !u.final then (touched.putClaim key (some { key := key, sess := sess, data := data, kept := image }), { res := rcOk, off := u.offset.toNat })
  else match touched.putBytes (sess == 0) r idx u.sub.toNat data with
    | .error e => (s.putClaim key none, { res := e })
    | .ok t => (t.putClaim key (if image then some { key := key, sess := sess, data := [], kept := true } else none), { res := rcOk, off := u.offset.toNat })

/-- A WRITE's effect and reply (DEDUCED, log 33). -/
def State.doWrite (s : State) (sess : Nat) (u : MdpUnit) : State × Reply :=
  match s.findObj sess u true with
  | .error e => (s, { res := e })
  | .ok r =>
    let key := objKey u.index.toNat u.sub.toNat
    if r.acc = .rws ∧ s.dict.set.st ≠ 0 then (s, { res := rcShadow })
    else if (s.claimOn key).any (fun k => k.sess != sess) then (s, { res := rcClaimed })
    else if u.seg then (if r.ty = .str ∨ r.ty = .oct then s.segWrite sess u r else (s, { res := rcLength }))
    else match s.putBytes (sess == 0) r u.index.toNat u.sub.toNat u.data with
      | .error e => (s, { res := e })
      | .ok t => (if isImage key then t.putClaim key (some { key := key, sess := sess, data := [], kept := true }) else t, { res := rcOk })

/-- An ABORT releases this session's claim or latch on the object; an image slot's claim stays (R465, R470) (DEDUCED, log 222). -/
def State.doAbort (s : State) (sess : Nat) (u : MdpUnit) : State × Reply :=
  if u.len ≠ 0 then (s, { res := rcLength }) else
  let key := objKey u.index.toNat u.sub.toNat
  let t := { s with dict := { s.dict with claims := s.dict.claims.filter fun k => !(k.key == key && k.sess == sess && !k.kept) } }
  let t := if (t.sess sess).latch.any (fun l => l.1 == key) then t.updSess sess fun x => { x with latch := none } else t
  (t, { res := rcOk })

/-- The response of a request (R470). -/
def respond (u : MdpUnit) (r : Reply) : MdpUnit :=
  { ver := 1, op := u.op ||| 0x80, reqId := u.reqId, index := u.index, sub := u.sub, set := false, final := r.fin, seg := u.seg, rsv := 0,
    offset := BitVec.ofNat 32 r.off, len := BitVec.ofNat 16 r.data.length, result := r.res, data := r.data }

/-- The unit is malformed: version, operation, reserved fields, or a length that its size does not bear out (R471). -/
def badUnit (sess op : Nat) (u : MdpUnit) : Bool :=
  u.ver != 1 || u.op.toNat != op || u.rsv != 0 || u.result != 0 || u.data.length != u.len.toNat || decide (unitMax sess < u.data.length)

/-- The session can be reached: MDP is up from L0 and in S3, the bus always, a DTLS session while it is open (R483, R492) (DESIGN CHOICE, log 145). -/
def State.mdpUp (s : State) (sess : Nat) : Bool :=
  s.power.st != .s5 && (s.power.st == .s3 || (s.boot.stage != .off && s.boot.stage != .charged)) && (sess == 0 || s.openSess.contains sess)

/-- A unit as bytes: the header of R469, then its data. -/
def unitBytes (u : MdpUnit) : List Byte :=
  let b (v : Bool) (k : Nat) : Nat := if v then 2 ^ k else 0
  natLe 16 (u.ver.toNat + u.op.toNat * 2 ^ 8 + u.reqId.toNat * 2 ^ 16 + u.index.toNat * 2 ^ 32 + u.sub.toNat * 2 ^ 48 + b u.set 56 + b u.final 57 +
    b u.seg 58 + bits u.rsv.toNat 0 5 * 2 ^ 59 + u.offset.toNat * 2 ^ 64 + u.len.toNat * 2 ^ 96 + u.result.toNat * 2 ^ 112 + bits u.rsv.toNat 5 8 * 2 ^ 120) ++ u.data

/-- A service-bus frame but for its check: the bus address, L, the unit (R473). -/
def busBody (addr : Byte) (len : Nat) (u : MdpUnit) : List Byte := addr :: natLe 2 len ++ unitBytes u

/-- A response leaves: to its DTLS session, or framed with the module's bus address (R468, R473). -/
def State.answerMdp (s : State) (addr : Byte) (sess : Nat) (u : MdpUnit) : State :=
  let f := busBody addr (16 + u.data.length) u
  s.emit (if sess = 0 then .bus (f ++ natLe 4 (crc32c f).toNat) else .mdp sess u)

/-- One request: a kept response is sent again; otherwise it is executed once, counted and its response kept (R472). A new bus address takes effect
once the response has gone out. -/
def State.request (s : State) (sess op : Nat) (u : MdpUnit) (f : State → State × Reply) : State :=
  let addr : Byte := BitVec.ofNat 8 (s.obj 0x1101 1)
  match (s.sess sess).kept.find? fun k => k.1.reqId == u.reqId with
  | some k =>
    if k.1 = u then s.answerMdp addr sess k.2
    else ((s.bump 0x1102 5 1).bump 0x1102 6 1).answerMdp addr sess (respond u { res := rcMalformed })
  | none =>
    let (t, r) := if badUnit sess op u then (s, { res := rcMalformed }) else f s
    let t := if s.power.st ≠ .s5 ∧ t.power.st = .s5 then t else t.bump 0x1102 5 1
    let t := if r.res = rcOk then t else t.bump 0x1102 6 1
    let resp := respond u r
    let keep (x : Session) : Session := { x with kept := (x.kept ++ [(u, resp)]).drop (x.kept.length + 1 - 16) }
    let t := if sess = 0 ∨ t.openSess.contains sess then t.updSess sess keep else t
    t.answerMdp addr sess resp

/-! ### The two paths (R468, R472, R473, R475) -/

/-- The session that a unit arrives in: the bus is session 0. -/
def pathSess : MdpPath → Nat
  | .udp k => k
  | .bus .. => 0

/-- An SPDM message: the responder answers while the security die runs, with as much as a unit of the path carries (R420, R458, R468, R470) (PRESUMED, log 142). -/
def State.doSpdm (s : State) (sess req : Nat) (u : MdpUnit) : State × Reply :=
  if s.boot.sdFaulted then (s, { res := rcNotAvail })
  else ((s.spdmDo sess req u.data).1, { res := rcOk, data := (s.spdmDo sess req u.data).2.take (unitMax sess) })

/-- The operation of an SPDM request: 0x08 of R470, with the request's code above it (PRESUMED, log 142). -/
def spdmOp (req : Nat) : Nat := 8 + 256 * req

/-- A NOP does nothing; like ABORT it carries no data (R470, R471) (DEDUCED, log 222). -/
def State.doNop (s : State) (u : MdpUnit) : State × Reply := (s, { res := if u.len = 0 then rcOk else rcLength })

/-- What an operation does (R470). -/
def State.doOp (s : State) (sess op : Nat) (u : MdpUnit) : State × Reply :=
  match op with
  | 1 => s.doRead sess u
  | 2 => s.doWrite sess u
  | 3 => s.doAbort sess u
  | 4 => s.doNop u
  | _ => s.doSpdm sess (op / 256) u

/-- The receive path has room for the whole of a unit, in entries of 32 bits (R66, R475) (DEDUCED, log 166). -/
def State.mdpRoom (s : State) (u : MdpUnit) : Bool := decide (s.mdpRx.entries.length + ceilDiv (16 + u.data.length) 4 ≤ 4096)

/-- A request that has come through the receive path is executed, unless its session has ended. -/
def State.serveMdp (s : State) (path : MdpPath) (op : Nat) (u : MdpUnit) : State :=
  if s.mdpUp (pathSess path) then s.request (pathSess path) (op % 256) u fun t => t.doOp (pathSess path) op u else s

/-- Bytes of the datagrams that the MAC's frame buffer holds. -/
def State.macBytes (s : State) : Nat := (s.mac.map fun x => if pathSess x.1 = 0 then 0 else 16 + x.2.2.data.length).sum

/-- A request reaches the receive path. A datagram that does not fit waits in the 16 KiB frame buffer, and is discarded where that is full, or as the
seventeenth that its session has outstanding; a bus frame that does not fit stalls its receiver (R69, R472, R475) (DEDUCED, log 166). -/
def State.macIn (s : State) (path : MdpPath) (op : Nat) (u : MdpUnit) : State :=
  if s.mac.isEmpty ∧ s.mdpRoom u then s.serveMdp path op u
  else if pathSess path = 0 then { s with mac := s.mac ++ [(path, op, u)] }
  else if 16 ≤ (s.mac.filter fun x => pathSess x.1 == pathSess path).length then s.bump 0x1102 8 1
  else if 16384 < s.macBytes + 16 + u.data.length then s.bump 0x1102 2 1
  else { s with mac := s.mac ++ [(path, op, u)] }

/-- Requests that wait go on, oldest first, while the receive path has room (R475). -/
def State.macRun (s : State) : Nat → State
  | 0 => s
  | fuel + 1 =>
    match s.mac with
    | [] => s
    | x :: rest => if s.mdpRoom x.2.2 then State.macRun ({ s with mac := rest }.serveMdp x.1 x.2.1 x.2.2) fuel else s

def State.macDrain (s : State) : State := s.macRun s.mac.length

/-- A unit arrives. A bus frame with a bad check is counted and sets `tail_bad` of the receive path (R64); that, another address, a reserved one and a wrong length are ignored (R473) (DEDUCED, log 167). A
datagram is counted. -/
def State.mdpArrive (s : State) (path : MdpPath) (op : Nat) (u : MdpUnit) : State :=
  if !s.mdpUp (pathSess path) then s else
  match path with
  | .bus addr len crc =>
    if crc ≠ crc32c (busBody addr len.toNat u) then { s with mdpRx := { s.mdpRx with st := { s.mdpRx.st with tailBad := true } } }.bump 0x1102 7 1
    else if addr.toNat ≠ s.obj 0x1101 1 ∨ addr = 0 ∨ addr = 0xFF ∨ len.toNat ≠ 16 + u.data.length then s
    else s.macIn path op u
  | .udp _ => (s.bump 0x1102 1 1).macIn path op u

/-- MDP_READ. -/
def execMdpRead (path : MdpPath) (u : MdpUnit) (s : State) : Res := .next (s.mdpArrive path 1 u)

/-- MDP_WRITE. -/
def execMdpWrite (path : MdpPath) (u : MdpUnit) (s : State) : Res := .next (s.mdpArrive path 2 u)

/-- MDP_ABORT. -/
def execMdpAbort (path : MdpPath) (u : MdpUnit) (s : State) : Res := .next (s.mdpArrive path 3 u)

/-- MDP_NOP. -/
def execMdpNop (path : MdpPath) (u : MdpUnit) (s : State) : Res := .next (s.mdpArrive path 4 u)

/-! SPDM messages, the data of MDP units (R458, R470) (PRESUMED, log 142). -/

/-- GET_VERSION. -/
def execGetVersion (path : MdpPath) (u : MdpUnit) (s : State) : Res := .next (s.mdpArrive path (spdmOp 0x84) u)

/-- GET_CAPABILITIES. -/
def execGetCapabilities (path : MdpPath) (u : MdpUnit) (s : State) : Res := .next (s.mdpArrive path (spdmOp 0xE1) u)

/-- NEGOTIATE_ALGORITHMS. -/
def execNegotiateAlgorithms (path : MdpPath) (u : MdpUnit) (s : State) : Res := .next (s.mdpArrive path (spdmOp 0xE3) u)

/-- GET_DIGESTS. -/
def execGetDigests (path : MdpPath) (u : MdpUnit) (s : State) : Res := .next (s.mdpArrive path (spdmOp 0x81) u)

/-- GET_CERTIFICATE. -/
def execGetCertificate (path : MdpPath) (u : MdpUnit) (s : State) : Res := .next (s.mdpArrive path (spdmOp 0x82) u)

/-- CHALLENGE. -/
def execChallenge (path : MdpPath) (u : MdpUnit) (s : State) : Res := .next (s.mdpArrive path (spdmOp 0x83) u)

/-- GET_MEASUREMENTS. -/
def execGetMeasurements (path : MdpPath) (u : MdpUnit) (s : State) : Res := .next (s.mdpArrive path (spdmOp 0xE0) u)

/-- KEY_EXCHANGE. -/
def execKeyExchange (path : MdpPath) (u : MdpUnit) (s : State) : Res := .next (s.mdpArrive path (spdmOp 0xE4) u)

/-- FINISH. -/
def execFinish (path : MdpPath) (u : MdpUnit) (s : State) : Res := .next (s.mdpArrive path (spdmOp 0xE5) u)

/-- HEARTBEAT. -/
def execHeartbeat (path : MdpPath) (u : MdpUnit) (s : State) : Res := .next (s.mdpArrive path (spdmOp 0xE8) u)

/-- KEY_UPDATE. -/
def execKeyUpdate (path : MdpPath) (u : MdpUnit) (s : State) : Res := .next (s.mdpArrive path (spdmOp 0xE9) u)

/-- END_SESSION. -/
def execEndSession (path : MdpPath) (u : MdpUnit) (s : State) : Res := .next (s.mdpArrive path (spdmOp 0xEC) u)

/-- CLAIM_TIMEOUT: 30 s without a segment release the session's claims, image slots apart (R465, R481) (DESIGN CHOICE, log 4). -/
def execClaimTimeout (sess : Nat) (s : State) : Res :=
  .next { s with dict := { s.dict with claims := s.dict.claims.filter fun k => k.sess != sess || k.kept } }

/-- LATCH_TIMEOUT (R482). -/
def execLatchTimeout (sess : Nat) (s : State) : Res := .next (s.updSess sess fun x => { x with latch := none })

/-- SESSION_IDLE_TIMEOUT: a DTLS session ends; the service bus has no idle limit (R489). -/
def execSessionIdleTimeout (sess : Nat) (s : State) : Res :=
  if s.openSess.contains sess then .next (s.endSess sess) else .next s

end Sys2Proof.Machine
end

