-- ==== Sys2Proof/Machine/Flags.lean ====
section
/-! DEFINITION. Flags of the single operations that the Vector Station adds (R189): reciprocal, reciprocal square root, 2^a and
log2 a, each the exact result correctly rounded; how flags join a waybill's and a consignment's flag word (R36), and the
warning test of R37. -/

namespace Sys2Proof.Machine

/-- 1/a. -/
def frcp (a : Word32) : Word32 × Byte := fdiv f32One a

/-- 1/√a exactly to more bits than FP32 holds, its last bit sticky: 1/√±0 = ±infinity with DZ; NV for negative operands (DEDUCED, log 50, DESIGN CHOICE, log 51). -/
def rsqrtV (a : Val) : Val × Byte :=
  match a with
  | .nan s => (.nan false, if s then fNV else 0)
  | .inf true => (.nan false, fNV)
  | .inf false => (.fin false 0 0, 0)
  | .fin n 0 _ => (.inf n, fDZ)
  | .fin true _ _ => (.nan false, fNV)
  | .fin false m e =>
    let odd : Nat := if e % 2 = 0 then 0 else 1
    let m' := m * 2 ^ odd
    let r := isqrt 320 (2 ^ 600 / m') 0
    (.fin false (2 * r + (if r * r * m' = 2 ^ 600 then 0 else 1)) (-((e - (odd : Int)) / 2) - 301), 0)

def frsqrt (a : Word32) : Word32 × Byte := rnd32 (rsqrtV (f32Val a))

/-- The product of 2^(2^−i) over the set bits of a fraction, in units of 2^−320; `root` is 2^(2^−i). -/
def exp2Frac : Nat → Nat → Nat → Nat → Nat
  | 0, _, _, acc => acc
  | k + 1, frac, root, acc =>
    let root' := isqrt 322 (root * 2 ^ 320) 0
    let b := frac * 2 / 2 ^ 200
    exp2Frac k (frac * 2 % 2 ^ 200) root' (if b = 1 then acc * root' / 2 ^ 320 else acc)

/-- 2^a: exact for a whole a; otherwise the result is irrational, and 319 of its bits with a sticky bit decide its rounding (DESIGN CHOICE, log 51). -/
def exp2V (a : Val) : Val × Byte :=
  match a with
  | .nan s => (.nan false, if s then fNV else 0)
  | .inf true => (.fin false 0 0, 0)
  | .inf false => (.inf false, 0)
  | .fin n m e =>
    if m = 0 then (.fin false 1 0, 0)
    else if 12 < ilog2 m e then (.fin false 1 (if n then -5000 else 5000), 0)
    else
      let mag := if 0 ≤ e + 200 then m * 2 ^ (e + 200).toNat else m / 2 ^ (-(e + 200)).toNat
      let fx : Int := if n then -(mag : Int) else mag
      let k := fx / (2 ^ 200 : Nat)
      let f := (fx % (2 ^ 200 : Nat)).toNat
      if f = 0 then (.fin false 1 k, 0)
      else (.fin false (2 * exp2Frac 200 f (2 * 2 ^ 320) (2 ^ 320) + 1) (k - 321), 0)

def fexp2 (a : Word32) : Word32 × Byte := rnd32 (exp2V (f32Val a))

/-- Binary digits of log2 y for y in [1, 2), y in units of 2^−500, by repeated squaring. -/
def log2Frac : Nat → Nat → Nat → Nat
  | 0, _, acc => acc
  | k + 1, y, acc =>
    let q := y * y / 2 ^ 500
    if 2 ^ 501 ≤ q then log2Frac k (q / 2) (2 * acc + 1) else log2Frac k q (2 * acc)

/-- log2 a: exact for a power of two; otherwise irrational, and 200 digits of its fraction with a sticky bit decide its rounding.
log2 ±0 is −infinity, as in IEEE 754, with DZ (DEDUCED, log 50, DESIGN CHOICE, log 51). -/
def log2V (a : Val) : Val × Byte :=
  match a with
  | .nan s => (.nan false, if s then fNV else 0)
  | .inf true => (.nan false, fNV)
  | .inf false => (.inf false, 0)
  | .fin n m e =>
    if m = 0 then (.inf true, fDZ)
    else if n then (.nan false, fNV)
    else
      let l := Nat.log2 m
      let k := ilog2 m e
      if m = 2 ^ l then (if k = 0 then .fin false 0 0 else .fin (decide (k < 0)) k.natAbs 0, 0)
      else
        let t : Int := 2 * (k * (2 ^ 200 : Nat) + (log2Frac 200 (m * 2 ^ (500 - l)) 0 : Nat)) + 1
        (.fin (decide (t < 0)) t.natAbs (-201), 0)

def flog2 (a : Word32) : Word32 × Byte := rnd32 (log2V (f32Val a))

/-! ### Flag words (R36 to R38) -/

/-- DONE becomes DONE_WARN when the flag word meets the partition's warning mask; its bits [7:6] are ignored (R37). -/
def State.warned (s : State) (part : Nat) (f : Byte) : Bool :=
  f &&& BitVec.ofNat 8 (s.cfg 0x2010 (part + 1)) &&& 0x3F != 0

end Sys2Proof.Machine
end

