-- ==== Sys2Proof/Machine/Tile.lean ====
section
/-! DEFINITION. Tile objects (R131 to R143): the header, the five encodings, lane plans (R149, R150), reading with its checks
(R142), and writing (R141) with its conversions (R25, R27, R33). -/

namespace Sys2Proof.Machine

/-! ### Packing (R18, R133) -/

/-- Elements and bytes of a packing group, by element width. -/
def elemGroup : Nat → Nat × Nat
  | 4 => (2, 1)
  | 6 => (4, 3)
  | 16 => (1, 2)
  | 32 => (1, 4)
  | _ => (1, 1)

/-- Element codes packed densely, least significant first; the last group is filled with +0 codes (R18, R133). -/
def packElems (w : Nat) (cs : List Nat) : List Byte :=
  (piecesOf (elemGroup w).1 cs.length cs).flatMap fun grp => natLe (elemGroup w).2 (grp.foldr (fun c v => c + v * 2 ^ w) 0)

/-- The first `n` element codes of packed bytes. -/
def unpackElems (w n : Nat) (bs : List Byte) : List Nat :=
  ((piecesOf (elemGroup w).2 bs.length bs).flatMap fun grp => (List.range (elemGroup w).1).map fun i => bits (leNat grp) (w * i) w).take n

/-- A stream of packed codes is what packing the codes gives: its last group is filled with +0 codes (R133). -/
def streamOk (w : Nat) (cs : List Nat) (bs : List Byte) : Bool := packElems w cs == bs

/-- Bytes of a stream of `n` elements. -/
def streamLen (w n : Nat) : Nat := ceilDiv n (elemGroup w).1 * (elemGroup w).2

/-- The dense size of a tile (R46). -/
def denseSize (fmt rows cols : Nat) : Nat := streamLen (fmtWidth fmt) (rows * cols)

/-- The packing rule of a format (R133). -/
def packOk (fmt cols : Nat) : Bool :=
  if fmtWidth fmt = 6 then cols % 4 == 0 else if fmtWidth fmt = 4 then cols % 2 == 0 else true

/-- Bits from the least significant of byte 0 (R135). -/
def boolsOf (n : Nat) (bs : List Byte) : List Bool :=
  (bs.flatMap fun b => (List.range 8).map fun i => b.getLsbD i).take n

/-- Bits as bytes. -/
def bytesOfBools (m : List Bool) : List Byte := packElems 8 ((piecesOf 8 m.length m).map fun g => g.foldr (fun b v => (if b then 1 else 0) + 2 * v) 0)

/-! ### Headers (R132) -/

/-- A tile header. -/
structure Hdr where
  fmt : Nat
  sparse : Nat := 0
  demoted : Bool := false
  orig : Nat := 0
  mx : Bool := false
  mask : Bool := false
  kDown : Bool := false
  plan : Bool := false
  rows : Nat
  cols : Nat
  epoch : Nat := 0
  scale : Word32 := 0
  nnz : Nat := 0
  payload : Nat := 0
  side : Nat := 0
  planN : Nat := 0
  maxLine : Nat := 0
  deriving DecidableEq, Repr

/-- A header read from its 512 bits. -/
def Hdr.parse (v : Nat) : Hdr where
  fmt := bits v 0 4
  sparse := bits v 4 3
  demoted := bit1 v 7
  orig := bits v 8 3
  mx := bit1 v 11
  mask := bit1 v 12
  kDown := bit1 v 13
  plan := bit1 v 14
  rows := bits v 16 9
  cols := bits v 32 13
  epoch := bits v 48 16
  scale := BitVec.ofNat 32 (bits v 64 32)
  nnz := bits v 96 18
  payload := bits v 128 17
  side := bits v 160 10
  planN := bits v 176 9
  maxLine := bits v 192 13

/-- A truth value as a bit. -/
def bn (b : Bool) : Nat := if b then 1 else 0

/-- A header as its 512 bits. -/
def Hdr.pack (h : Hdr) : Nat :=
  h.fmt + h.sparse * 2 ^ 4 + bn h.demoted * 2 ^ 7 + h.orig * 2 ^ 8 + bn h.mx * 2 ^ 11 + bn h.mask * 2 ^ 12 + bn h.kDown * 2 ^ 13 +
  bn h.plan * 2 ^ 14 + h.rows * 2 ^ 16 + h.cols * 2 ^ 32 + h.epoch * 2 ^ 48 + h.scale.toNat * 2 ^ 64 + h.nnz * 2 ^ 96 +
  h.payload * 2 ^ 128 + h.side * 2 ^ 160 + h.planN * 2 ^ 176 + h.maxLine * 2 ^ 192 + 0xE7 * 2 ^ 208

/-- `magic` is right and every reserved field is zero (R142). -/
def hdrMagic (v : Nat) : Bool := (Hdr.parse v).pack == v

/-! ### Lengths (R131 to R140) -/

/-- Blocks of a tile (R134). -/
def nBlocks (rows cols : Nat) (kd : Bool) : Nat := if kd then ceilDiv rows 32 * cols else rows * ceilDiv cols 32

/-- The block of an element (R134). -/
def blockOf (cols : Nat) (kd : Bool) (e : Nat) : Nat :=
  if kd then e / cols / 32 * cols + e % cols else e / cols * ceilDiv cols 32 + e % cols / 32

/-- The payload length of an encoding with `n` mask-on elements. -/
def payloadLen (fmt rows cols sp n : Nat) : Nat :=
  let w := fmtWidth fmt
  let N := rows * cols
  match sp with
  | 0 => denseSize fmt rows cols
  | 3 => roundUp (ceilDiv N 8) 64 + streamLen w n
  | 4 => roundUp (4 * n) 64 + streamLen w n
  | _ => roundUp (ceilDiv (N / 4) 2) 64 + streamLen w (N / 4 * 2)

/-- The side arrays' units. -/
def sideLen (rows cols : Nat) (kd mx mask : Bool) (planN : Nat) : Nat :=
  ceilDiv (if mx then nBlocks rows cols kd else 0) 64 + (if mask then ceilDiv (ceilDiv (rows * cols) 8) 64 else 0) + ceilDiv (4 * planN) 64

/-- The largest object of a tile with a header: M of R222 and R235. -/
def maxObject (fmt rows cols : Nat) (hdr : Bool) : Nat :=
  let d := denseSize fmt rows cols
  if hdr then roundUp (64 + d + ceilDiv (rows * cols) 8 + ceilDiv (rows * cols) 32 + 2048) 64 else d

/-- The extents that S24 and S24T need (R137, R138). -/
def s24Extent (sp rows cols : Nat) (kd : Bool) : Bool :=
  (if kd then rows else cols) % 4 == 0 && (sp != 2 || (if kd then cols else rows) % 4 == 0)

/-- What R142 asks of the header alone. -/
def Hdr.formOk (h : Hdr) : Bool :=
  h.fmt ≤ 9 && h.sparse ≤ 4 && h.orig ≤ 4 && 1 ≤ h.rows && h.rows ≤ 256 && 1 ≤ h.cols && h.cols ≤ 4096 &&
  packOk h.fmt h.cols && (!h.mx || mayMx h.fmt) && (!alwaysMx h.fmt || h.mx) && (h.scale == 0 || scaleOk h.scale) &&
  (if h.demoted then h.sparse == 0 && h.orig != 0 else h.orig == 0) && (!h.mask || h.sparse == 0) &&
  (if h.plan then h.sparse == 3 || h.sparse == 4 || h.orig == 3 || h.orig == 4 else h.planN == 0) &&
  ((h.sparse != 1 && h.sparse != 2) || s24Extent h.sparse h.rows h.cols h.kDown) &&
  h.side == sideLen h.rows h.cols h.kDown h.mx h.mask h.planN &&
  h.payload == payloadLen h.fmt h.rows h.cols h.sparse h.nnz && h.payload ≤ denseSize h.fmt h.rows h.cols

/-! ### Lane plans (R149, R150) -/

/-- An entry of a plan. -/
structure PlanEnt where
  row : Nat
  gs : Nat
  ge : Nat
  lane : Nat
  piece : Nat
  deriving DecidableEq, Repr

/-- A plan word. -/
def PlanEnt.word (e : PlanEnt) : Nat := e.row + e.gs * 2 ^ 8 + e.ge * 2 ^ 16 + e.lane * 2 ^ 24 + e.piece * 2 ^ 28

/-- A plan word read. -/
def PlanEnt.ofWord (v : Nat) : PlanEnt :=
  { row := bits v 0 8, gs := bits v 8 8, ge := bits v 16 8, lane := bits v 24 4, piece := bits v 28 4 }

/-- Pieces follow each other from group `g` as piece `k` and reach the last group. -/
def piecesChain (G : Nat) : Nat → Nat → List PlanEnt → Bool
  | g, _, [] => g == G
  | g, k, e :: es => e.piece == k && e.gs == g && decide (e.gs < e.ge) && piecesChain G e.ge (k + 1) es

/-- The pieces of a row in increasing piece number. -/
def rowPieces (es : List PlanEnt) (row : Nat) : List PlanEnt :=
  (List.range 16).flatMap fun k => es.filter fun e => e.row == row && e.piece == k

/-- The validity rule of R149 for a W tile of this shape. -/
def planOk (rows cols : Nat) (es : List PlanEnt) : Bool :=
  decide (es.Pairwise fun a b => a.lane ≤ b.lane) && es.all (fun e => decide (e.row < rows)) &&
  (List.range rows).all fun r =>
    let ps := rowPieces es r
    piecesChain (ceilDiv cols 32) 0 0 ps && decide ((ps.map (·.lane)).Nodup)

/-- The plan's items before lanes are dealt: row, groups, piece, cost (R150) (DEDUCED, log 163). -/
def planItems (rows cols : Nat) (mask : Array Bool) : List (PlanEnt × Nat) :=
  let G := ceilDiv cols 32
  let cnt (r a b : Nat) : Nat := ((List.range (min (32 * b) cols - 32 * a)).filter fun i => mask.getD (r * cols + 32 * a + i) false).length
  let nnz := ((List.range rows).map fun r => cnt r 0 G).sum
  let target := max (ceilDiv nnz 16) 64
  (List.range rows).flatMap fun r =>
    let n := cnt r 0 G
    if target < n then
      let p := min 16 (ceilDiv n target)
      let edge (j : Nat) : Nat := if j = 0 then 0 else ((List.range (G + 1)).find? fun b => ceilDiv (j * n) p ≤ cnt r 0 b).getD G
      (List.range p).map fun j => ({ row := r, gs := edge j, ge := edge (j + 1), lane := 0, piece := j }, cnt r (edge j) (edge (j + 1)))
    else [({ row := r, gs := 0, ge := G, lane := 0, piece := 0 }, n)]

/-- The lane of least load that holds no other piece of a row, the lowest on a tie (R150). -/
def leastLane (load : List Nat) (held : List PlanEnt) (row : Nat) : Nat :=
  let free := (List.range 16).filter fun l => !held.any fun e => e.row == row && e.lane == l
  free.foldl (fun best l => if load.getD l 0 < load.getD best 0 then l else best) (free.headD 0)

/-- Items dealt in order of their bins. -/
def dealPlan (items : List (PlanEnt × Nat)) : List PlanEnt :=
  let bin (n : Nat) : Nat := if n = 0 then 0 else 1 + Nat.log2 n
  let order := (List.range 14).reverse.flatMap fun b => items.filter fun x => bin x.2 == b
  let (held, _) := order.foldl (fun (st : List PlanEnt × List Nat) x =>
      let l := leastLane st.2 st.1 x.1.row
      (st.1 ++ [{ x.1 with lane := l }], st.2.set l (st.2.getD l 0 + max 1 x.2))) ([], List.replicate 16 0)
  (List.range 16).flatMap fun l => held.filter fun e => e.lane == l

/-- The plan of a mask (R150) (DEDUCED, log 59, DEDUCED, log 163). -/
def buildPlan (rows cols : Nat) (mask : Array Bool) : List PlanEnt := dealPlan (planItems rows cols mask)

/-! ### 2:4 groups (R137) -/

/-- Mask-on positions of a 2:4 code. -/
def s24Pos : Nat → List Nat
  | 5 => [0, 1]
  | 6 => [0, 2]
  | 7 => [0, 3]
  | 8 => [1, 2]
  | 9 => [1, 3]
  | 10 => [2, 3]
  | 0 => []
  | c => if c ≤ 4 then [c - 1] else []

/-- The 2:4 code of positions. -/
def s24Code (on : List Nat) : Nat := ((List.range 11).find? fun c => s24Pos c == on).getD 0

/-- Element `j` of group `k`, and the value index of slot `s`. -/
def s24Elem (cols : Nat) (kd : Bool) (k j : Nat) : Nat :=
  if kd then (4 * (k / cols) + j) * cols + k % cols else 4 * k + j

def s24Slot (cols : Nat) (kd : Bool) (k s : Nat) : Nat :=
  if kd then (2 * (k / cols) + s) * cols + k % cols else 2 * k + s

/-- A mask has at most two elements in each group of four along an index (R137, R138). -/
def s24Fits (rows cols : Nat) (kd : Bool) (mask : Array Bool) : Bool :=
  (List.range (rows * cols / 4)).all fun k => ((List.range 4).filter fun j => mask.getD (s24Elem cols kd k j) false).length ≤ 2

/-! ### Reading (R142, R143) -/

/-- A tile as its consumer holds it: element codes and mask by index, block scales, plan. -/
structure Tile where
  hdr : Hdr
  codes : Array Nat
  mask : Array Bool
  scales : Array Nat := #[]
  planL : List PlanEnt := []
  deriving DecidableEq, Repr

/-- Elements of a tile. -/
def Tile.n (t : Tile) : Nat := t.hdr.rows * t.hdr.cols

/-- The side arrays and payload decoded, with the content checks of R142; a mask array has a bit that is 0 (R135) (DEDUCED, log 60).
The count of a DENSE tile, of its mask array or of all its elements, is held against `nnz` as R132 defines it (DEDUCED, log 161). -/
def decodeBody (h : Hdr) (body : List Byte) : Except Byte Tile :=
  let N := h.rows * h.cols
  let w := fmtWidth h.fmt
  let nb := if h.mx then nBlocks h.rows h.cols h.kDown else 0
  let scales := ((body.take nb).map (·.toNat)).toArray
  let b1 := body.drop (roundUp nb 64)
  let maskB := boolsOf N (b1.take (ceilDiv N 8))
  let b2 := if h.mask then b1.drop (roundUp (ceilDiv N 8) 64) else b1
  let plan := (piecesOf 4 h.planN (b2.take (4 * h.planN))).map fun p => PlanEnt.ofWord (leNat p)
  let pay := body.drop (64 * h.side)
  let mk (codes : Array Nat) (mask : Array Bool) : Except Byte Tile :=
    let on := (mask.toList.filter id).length
    if on = h.nnz ∧ (!h.plan || planOk h.rows h.cols plan) then
      .ok { hdr := h, codes := codes, mask := mask, scales := scales, planL := plan }
    else .error stTile
  match h.sparse with
  | 0 =>
    let m := if h.mask then maskB else List.replicate N true
    if h.mask && m.all id then .error stTile
    else mk ((unpackElems w N pay).zipWith (fun c b => if b then c else 0) m).toArray m.toArray
  | 3 =>
    let m := boolsOf N (pay.take (ceilDiv N 8))
    let str := (pay.drop (roundUp (ceilDiv N 8) 64)).take (streamLen w h.nnz)
    let vals := unpackElems w h.nnz str
    if !streamOk w vals str then .error stTile else
    let codes := (m.foldl (fun (st : List Nat × List Nat) b => if b then (st.1 ++ [st.2.headD 0], st.2.tail) else (st.1 ++ [0], st.2)) ([], vals)).1
    mk codes.toArray m.toArray
  | 4 =>
    let ws := (piecesOf 4 h.nnz (pay.take (4 * h.nnz))).map leNat
    let str := (pay.drop (roundUp (4 * h.nnz) 64)).take (streamLen w h.nnz)
    let vals := unpackElems w h.nnz str
    if !streamOk w vals str then .error stTile else
    let es := ws.map fun v => bits v 12 8 * h.cols + bits v 0 12
    if ws.all (fun v => bits v 20 12 == 0 && decide (bits v 12 8 < h.rows) && decide (bits v 0 12 < h.cols)) ∧ es.Pairwise (· < ·) then
      mk ((es.zip vals).foldl (fun a e => a.setIfInBounds e.1 e.2) (Array.replicate N 0))
         (es.foldl (fun a e => a.setIfInBounds e true) (Array.replicate N false))
    else .error stTile
  | _ =>
    let G := N / 4
    let cs := unpackElems 4 G pay
    let str := (pay.drop (roundUp (ceilDiv G 2) 64)).take (streamLen w (2 * G))
    let vals := (unpackElems w (2 * G) str).toArray
    if cs.any (fun c => 10 < c) || !streamOk w vals.toList str then .error stTile
    else
      let put := (cs.zip (List.range G)).flatMap fun x => (s24Pos x.1).zipIdx.map fun p =>
        (s24Elem h.cols h.kDown x.2 p.1, vals.getD (s24Slot h.cols h.kDown x.2 p.2) 0)
      mk (put.foldl (fun a e => a.setIfInBounds e.1 e.2) (Array.replicate N 0))
         (put.foldl (fun a e => a.setIfInBounds e.1 true) (Array.replicate N false))

/-- Bytes `lo` to `lo + k − 1` of a stream of `n` dense elements of width `w` hold one that its consumer takes in. -/
def takesIn (w n : Nat) (on : Nat → Bool) (lo k : Nat) : Bool :=
  let a := 8 * lo / w
  (List.range (min n (ceilDiv (8 * (lo + k)) w) - a)).any fun i => on (a + i)

/-- Bytes `lo` to `lo + n − 1` of a tile object hold something that its consumer takes in; for the values of a DENSE payload, an
element that is mask-on and in a live lane (R39, R40, R89, R236). -/
def Tile.eats (t : Tile) (live : Nat → Bool) (lo n : Nat) : Bool :=
  let p := 64 * (1 + t.hdr.side)
  let fin := p + t.hdr.payload
  if fin ≤ lo then false
  else if lo < p ∨ t.hdr.sparse ≠ 0 then true
  else takesIn (fmtWidth t.hdr.fmt) t.n (fun e => t.mask.getD e true && live e) (lo - p) (min (lo + n) fin - lo)

/-- What a read found is consumed: a mark first, then a poisoned word, among the parts that are taken in. -/
def consume (g : Got) (base : Nat) (eats : Nat → Nat → Bool) : Job Unit := do
  let part (k w lead : Nat) : Bool := let a := k * w - lead; eats (base + a) (k * w + k - lead - a)
  match g.marks.find? fun e => part 64 e.1 g.lead with
  | some e => Job.fail (g.status e)
  | none => Job.require (!g.bad.any fun w => part 8 w (g.lead % 8)) stUncorrectable

/-- Something of a tile object's bytes is taken in, by offset and bytes. A read through a `Reader` is of the bytes at an offset; it fails, or waits,
only for what is taken in (R39, R64). -/
abbrev Need := Nat → Nat → Bool

abbrev Reader := Need → Nat → Nat → Job Got

/-- A whole range is taken in. -/
def needAll : Need := fun _ _ => true

/-- A tile object with a header read through `rd` (offset, bytes), checked for its format and role (R142, R143). A poisoned word
that holds nothing but masked-off elements is not consumed, whichever operand the tile is (R39, R89, R129) (DEDUCED, log 56, DEDUCED, log 60, DESIGN CHOICE, log 207). -/
def parseTile (rd : Reader) (fmt : Nat) (ok : Hdr → Bool) (live : Nat → Bool := fun _ => true) : Job Tile := do
  let g ← rd needAll 0 64
  consume g 0 needAll
  let v := leNat g.bytes
  let h := Hdr.parse v
  Job.require (hdrMagic v && h.formOk && h.fmt == fmt && ok h) stTile
  let side ← rd needAll 64 (64 * h.side)
  let N := h.rows * h.cols
  let p := 64 * (1 + h.side)
  let mask : Array Bool := if h.mask then
      (boolsOf N (side.bytes.drop (roundUp (if h.mx then nBlocks h.rows h.cols h.kDown else 0) 64))).toArray
    else #[]
  let need : Need := fun lo k => h.sparse != 0 || (decide (p ≤ lo) && takesIn (fmtWidth h.fmt) N (fun e => mask.getD e true && live e) (lo - p) k)
  let pay ← rd need p (roundUp h.payload 64)
  let b := side.join pay (64 * h.side)
  let d := decodeBody h b.bytes
  consume b 64 (match d with | .ok t => t.eats live | .error _ => fun _ _ => true)
  Job.lift d

/-- A bare tile's header: DENSE, t = 1, no block scales (R108, R131). -/
def bareHdr (fmt rows cols : Nat) (kd : Bool) : Hdr :=
  { fmt := fmt, rows := rows, cols := cols, kDown := kd, nnz := rows * cols, payload := denseSize fmt rows cols }

/-- A bare tile from its bytes. -/
def bareOf (fmt rows cols : Nat) (kd : Bool) (bs : List Byte) : Tile :=
  { hdr := bareHdr fmt rows cols kd, codes := (unpackElems (fmtWidth fmt) (rows * cols) bs).toArray, mask := Array.replicate (rows * cols) true }

/-- A bare payload read through `rd`. -/
def parseBare (rd : Reader) (fmt rows cols : Nat) (kd : Bool) (live : Nat → Bool := fun _ => true) : Job Tile := do
  let g ← rd (takesIn (fmtWidth fmt) (rows * cols) live) 0 (denseSize fmt rows cols)
  let t := bareOf fmt rows cols kd g.bytes
  consume g 64 fun lo n => t.eats live lo n
  pure t

/-! ### Values -/

/-- The value of an element: +0 where the mask is off, else by R26 when MX-scaled (R17, R40). -/
def Tile.val (t : Tile) (e : Nat) : Val :=
  if t.mask.getD e false then
    (if t.hdr.mx then mxDecode t.hdr.fmt (t.scales.getD (blockOf t.hdr.cols t.hdr.kDown e) 0) (t.codes.getD e 0)
     else decodeElem t.hdr.fmt (t.codes.getD e 0))
  else .fin false 0 0

/-- An element decoded to FP32 by R26 and R27. -/
def Tile.f32 (t : Tile) (e : Nat) : Word32 × Byte :=
  if !t.mask.getD e false then (0, 0)
  else if t.hdr.scale ≠ 0 then rnd32 (mulV (t.val e) (f32Val t.hdr.scale))
  else if t.hdr.fmt = 0 then (BitVec.ofNat 32 (t.codes.getD e 0), 0)
  else toF32 rne (t.val e)

/-- Every element decoded to FP32, with the flags raised. -/
def Tile.f32s (t : Tile) : Array Word32 × Byte :=
  let xs := (List.range t.n).map t.f32
  ((xs.map (·.1)).toArray, xs.foldl (fun f x => f ||| x.2) 0)

/-- The per-tile scale as a number: 1 when there is none. -/
def Tile.tOf (t : Tile) : Word32 := if t.hdr.scale = 0 then f32One else t.hdr.scale

/-! ### Writing (R141) -/

/-- FP32 values encoded into a format by R27, R25 and R33: codes, block scales, flags. Mask-off elements are +0 and raise nothing. -/
def encodeVals (h : Hdr) (satOff : Bool) (rnd : Nat → Rnd) (vals : Array Word32) (mask : Array Bool) : Array Nat × Array Nat × Byte :=
  let N := h.rows * h.cols
  let u := (fdiv f32One h.scale).1
  let scaled := (List.range N).map fun e =>
    if !mask.getD e false then ((0 : Word32), (0 : Byte)) else if h.scale = 0 then (vals.getD e 0, 0) else fmul (vals.getD e 0) u
  let fl0 := scaled.foldl (fun f x => f ||| x.2) 0
  let xs := (scaled.map (·.1)).toArray
  if h.mx then
    let nb := nBlocks h.rows h.cols h.kDown
    let es := (List.range N).toArray.foldl (fun (a : Array (List Nat)) e => a.modify (blockOf h.cols h.kDown e) (· ++ [e])) (Array.replicate nb [])
    let enc := es.map fun l => (l, mxEncode h.fmt (l.map fun e => (if mask.getD e false then f32Val (xs.getD e 0) else .fin false 0 0, rnd e)))
    let codes := enc.foldl (fun a x => (x.1.zip x.2.2.1).foldl (fun a y => a.setIfInBounds y.1 y.2) a) (Array.replicate N 0)
    (codes, enc.map (·.2.1), enc.foldl (fun f x => f ||| x.2.2.2) fl0)
  else
    let cs := (List.range N).map fun e => if mask.getD e false then ofF32 h.fmt (rnd e) satOff (xs.getD e 0) else (0, 0)
    ((cs.map (·.1)).toArray, #[], cs.foldl (fun f x => f ||| x.2) fl0)

/-- The largest count of mask-on elements on one line along the reduction index. -/
def maxLineNnz (rows cols : Nat) (kd : Bool) (mask : Array Bool) : Nat :=
  if kd then ((List.range cols).map fun c => ((List.range rows).filter fun r => mask.getD (r * cols + c) false).length).foldl max 0
  else ((List.range rows).map fun r => ((List.range cols).filter fun c => mask.getD (r * cols + c) false).length).foldl max 0

/-- The payload of a code. -/
def payloadOf (h : Hdr) (codes : Array Nat) (mask : Array Bool) : List Byte :=
  let N := h.rows * h.cols
  let w := fmtWidth h.fmt
  let on := (List.range N).filter fun e => mask.getD e false
  match h.sparse with
  | 0 => packElems w ((List.range N).map fun e => if mask.getD e false then codes.getD e 0 else 0)
  | 3 => padTo (roundUp (ceilDiv N 8) 64) (bytesOfBools ((List.range N).map fun e => mask.getD e false)) ++ packElems w (on.map fun e => codes.getD e 0)
  | 4 => padTo (roundUp (4 * on.length) 64) (on.flatMap fun e => natLe 4 (e % h.cols + e / h.cols * 2 ^ 12)) ++ packElems w (on.map fun e => codes.getD e 0)
  | _ =>
    let G := N / 4
    let pos (k : Nat) : List Nat := (List.range 4).filter fun j => mask.getD (s24Elem h.cols h.kDown k j) false
    let vals := (List.range G).foldl (fun a k => (pos k).zipIdx.foldl (fun a p =>
      a.setIfInBounds (s24Slot h.cols h.kDown k p.2) (codes.getD (s24Elem h.cols h.kDown k p.1) 0)) a) (Array.replicate (2 * G) 0)
    padTo (roundUp (ceilDiv G 2) 64) (packElems 4 ((List.range G).map fun k => s24Code (pos k))) ++ packElems w vals.toList

/-- A tile object laid out in one encoding: header, block scales, mask, plan, payload (R131). -/
def layAs (h : Hdr) (codes : Array Nat) (mask : Array Bool) (scales : Array Nat) (plan : List PlanEnt) : List Byte :=
  let N := h.rows * h.cols
  let hasMask := h.sparse == 0 && (List.range N).any fun e => !mask.getD e false
  let nnz := ((List.range N).filter fun e => mask.getD e false).length
  let pay := payloadOf h codes mask
  let h' := { h with
    mask := hasMask, plan := !plan.isEmpty, planN := plan.length, nnz := nnz, payload := pay.length,
    side := sideLen h.rows h.cols h.kDown h.mx hasMask plan.length, maxLine := maxLineNnz h.rows h.cols h.kDown mask }
  let pad (b : List Byte) : List Byte := padTo (roundUp b.length 64) b
  natLe 64 h'.pack ++ pad (if h.mx then packElems 8 scales.toList else []) ++
    pad (if hasMask then bytesOfBools ((List.range N).map fun e => mask.getD e false) else []) ++
    pad (plan.flatMap fun e => natLe 4 e.word) ++ pad pay

/-- A tile object written on request for a sparse code (R141), and whether it was demoted. A payload above the dense size is not stored, whatever
the objects' lengths (R131) (DEDUCED, log 162). -/
def layTile (h : Hdr) (codes : Array Nat) (mask : Array Bool) (scales : Array Nat) (sp : Nat) (wantPlan : Bool := false) : List Byte × Bool :=
  let plan := if wantPlan ∧ (sp = 3 ∨ sp = 4) then buildPlan h.rows h.cols mask else []
  let dense (dem : Bool) : List Byte :=
    layAs { h with sparse := 0, demoted := dem, orig := if dem then sp else 0 } codes mask scales plan
  if sp = 0 then (dense false, false)
  else if (sp = 1 ∨ sp = 2) ∧ !(s24Extent sp h.rows h.cols h.kDown && s24Fits h.rows h.cols h.kDown mask &&
      (sp == 1 || s24Fits h.rows h.cols (!h.kDown) mask)) then (dense true, true)
  else
    let o := layAs { h with sparse := sp, demoted := false, orig := 0 } codes mask scales plan
    let d := dense true
    let n := (mask.toList.filter id).length
    if d.length < o.length ∨ denseSize h.fmt h.rows h.cols < payloadLen h.fmt h.rows h.cols sp n then (d, true) else (o, false)

/-- The bytes of a bare tile. -/
def bareBytes (fmt : Nat) (codes : Array Nat) : List Byte := packElems (fmtWidth fmt) codes.toList

/-- The mask of a tile as a list over its elements, all on. -/
def allOn (rows cols : Nat) : Array Bool := Array.replicate (rows * cols) true

end Sys2Proof.Machine
end

