-- ==== Sys2Proof/Machine/Operands.lean ====
section
/-! DEFINITION. Operands of a waybill: its fields (R44), tile addresses (R47), owner tables (R276 to R280), reach (R105, R210),
and the work of a station tile by tile: what a tile's job reads, writes and raises, and how it fails (R72 to R74). -/

namespace Sys2Proof.Machine

/-! ### Fields (R44) -/

/-- A field of a waybill. -/
def fld (w : Desc) (lo n : Nat) : Nat := bits w.toNat lo n

def wbStation (w : Desc) : Nat := fld w 0 4
def wbOp (w : Desc) : Nat := fld w 4 8
def wbRnd (w : Desc) : Nat := fld w 26 2
def wbEpoch (w : Desc) : Nat := fld w 32 16
def wbRows (w : Desc) : Nat := fld w 50 9
def wbCols (w : Desc) : Nat := fld w 64 13
def wbTag (w : Desc) : Nat := fld w 108 16

/-- One side of a waybill: kind, formats, and the descriptor of its tile stream. -/
structure Strm where
  kind : Nat
  fmt : Nat
  sparse : Nat
  addr : Nat
  len0 : Nat
  len1 : Nat
  s0 : Int
  s1 : Int
  /-- address of the block owner table that applies -/
  owner : Option Nat
  /-- the side that is written -/
  wr : Bool := false
  deriving DecidableEq, Repr

/-- The owner table's address, when `owner_sel` names this side. -/
def ownerFor (w : Desc) (side : Nat) : Option Nat := if fld w 48 2 = side then some (64 * fld w 388 42) else none

/-- The source. -/
def srcOf (w : Desc) : Strm :=
  { kind := fld w 28 2, fmt := fld w 12 4, sparse := fld w 20 3, addr := fld w 128 42, len0 := fld w 170 16, len1 := fld w 186 16,
    s0 := signed 28 (fld w 202 28), s1 := signed 28 (fld w 230 28), owner := ownerFor w 1 }

/-- The destination. -/
def dstOf (w : Desc) : Strm :=
  { kind := fld w 30 2, fmt := fld w 16 4, sparse := fld w 23 3, addr := fld w 258 42, len0 := fld w 300 16, len1 := fld w 316 16,
    s0 := signed 28 (fld w 332 28), s1 := signed 28 (fld w 360 28), owner := ownerFor w 2, wr := true }

/-- Tiles of a stream. -/
def Strm.count (t : Strm) : Nat := t.len0 * t.len1

/-- The address of tile (i, j), without loss of bits (R47). -/
def Strm.at (t : Strm) (i j : Nat) : Int := 64 * ((t.addr : Int) + i * t.s0 + j * t.s1)

/-- Tile n of a stream is (i, j) with n = j × len0 + i. -/
def Strm.ij (t : Strm) (n : Nat) : Nat × Nat := (n % t.len0, n / t.len0)

/-- The exact in-place case of R52: the same address, strides, lengths and format width; the tile shape is the waybill's. -/
def exactInPlace (w : Desc) : Bool :=
  let a := srcOf w
  let b := dstOf w
  a.kind == 0 && b.kind == 0 && a.addr == b.addr && a.len0 == b.len0 && a.len1 == b.len1 && a.s0 == b.s0 && a.s1 == b.s1 &&
  fmtWidth a.fmt == fmtWidth b.fmt

/-- A read of a waybill's source, unless the waybill is exactly in place (R52). -/
def sourceRead (w : Desc) (j : Job α) : Job α := if exactInPlace w then j else Job.asSource j

/-- An address of 42 bits in 64-byte units (R44). -/
def va64 (v : Nat) : Nat := 64 * v

/-! ### Places (R47, R276 to R280) -/

/-- Where a tile object lies: an address of this module, one of another module, or nowhere (R278, R279). -/
inductive Loc where
  | here (va : Nat)
  | far (mod : Nat) (va : Nat) (cluster : Option Nat)
  | absent
  deriving DecidableEq, Repr

/-- A tile object of `m` bytes at an address (R47). -/
def placeAt (a : Int) (m : Nat) : Job Loc := if a < 0 ∨ (2 ^ 48 : Int) < a + m then Job.fail stXlate else pure (.here a.toNat)

/-- A read under `demand` rules that leaves no trace beyond the first time (R280). -/
def demandRead (s : State) (x : XCtx) (va n : Nat) (note : Bool) : Job (List Byte) := do
  let ps ← Job.xl s x false va n
  if note then Job.note fun a => { a with reads := a.reads ++ ps.map fun p => (p.pa, p.n, p.hc) }
  let g := s.gotPieces ps 0
  consume g 0 needAll
  pure g.bytes

/-- The owner table's header is well formed (R276); its partition is checked after its form. -/
def ownerHeaderOk (h : Nat) : Bool :=
  bits h 0 8 == 0xB7 && bits h 12 4 == 0 && bits h 40 8 == 0 && bits h 53 11 == 0 && bits h 112 400 == 0 &&
  decide (1 ≤ bits h 16 24) && decide (12 ≤ bits h 48 5) && decide (bits h 48 5 ≤ 30) &&
  decide (bits h 64 48 ≤ bits h 16 24 * 2 ^ bits h 48 5)

/-- An entry's form (R277, R280) (DEDUCED, log 63). -/
def ownerEntryOk (e : Nat) : Bool :=
  bits e 69 59 == 0 && bits e 62 2 != 3 && (bits e 62 2 == 0 || (bits e 56 6 == 0 && bits e 64 5 == 0)) && decide (bits e 64 5 ≤ 16)

/-- The owner table's header, read and checked: its form before its partition (R280). -/
def ownerHeader (s : State) (x : XCtx) (ptr : Nat) (note : Bool) : Job Nat := do
  let h := leNat (← demandRead s x ptr 64 note)
  Job.require (ownerHeaderOk h) stDesc
  Job.require (bits h 8 4 == x.part) stProtect
  pure h

/-- What the owner table says of an object. -/
structure Owned where
  kind : Nat
  home : Nat
  mod : Nat
  va : Nat
  deriving DecidableEq, Repr

/-- The owner table applied to a tensor offset of an object of `m` bytes (R278). The header has been read before the first tile (DEDUCED, log 63). -/
def ownerOf (s : State) (x : XCtx) (ptr : Nat) (off : Int) (m : Nat) : Job Owned := do
  let h ← ownerHeader s x ptr false
  Job.require (decide (0 ≤ off)) stXlate
  let sz := 2 ^ bits h 48 5
  let b := off.toNat / sz
  let y := off.toNat % sz
  Job.require (decide (b < bits h 16 24) && decide (y + m ≤ sz)) stXlate
  let e := leNat (← demandRead s x (ptr + 64 + 16 * b) 16 true)
  Job.require (ownerEntryOk e) stDesc
  pure { kind := bits e 62 2, home := bits e 56 6 * 17 + bits e 64 5, mod := bits e 48 8, va := bits e 0 48 + y }

/-- The owner is this module, by 0xFF or by its own number in the partition's map (R277). -/
def Owned.ours (s : State) (x : XCtx) (o : Owned) : Bool := o.mod == 0xFF || (s.pt x.part).fm.any fun f => f.self == o.mod

/-- The location that an entry gives: an owner of kind 0 on this module holds the bytes `held` of the object in the window of its cluster (R278). -/
def Owned.loc (s : State) (x : XCtx) (o : Owned) (wr : Bool) (m held : Nat) : Job Loc :=
  if o.kind = 2 then pure .absent
  else if !o.ours s x then pure (.far o.mod o.va (if o.kind = 0 then some o.home else none))
  else if o.kind = 0 then do
    let ps ← Job.xl s x wr o.va (max 1 held)
    Job.require (ps.all fun p => padCluster p.pa == some o.home) stXlate
    placeAt o.va m
  else placeAt o.va m

/-- Tile (i, j) of a side, an object of `m` bytes; `held`: those that must lie in the window of an owner of kind 0. -/
def locOf (s : State) (x : XCtx) (t : Strm) (i j m : Nat) (held : Nat := m) : Job Loc :=
  match t.owner with
  | some p => do
    let o ← ownerOf s x p (t.at i j) m
    o.loc s x t.wr m held
  | none => placeAt (t.at i j) m

/-- A waybill reads its owner table's header before its first tile (R280). -/
def ownerStart (s : State) (x : XCtx) (w : Desc) : Job Unit := do
  match (ownerFor w (fld w 48 2)) with
  | some p => if fld w 48 2 = 0 then pure () else do
    let _ ← ownerHeader s x p true
    pure ()
  | none => pure ()

/-! ### The own scratchpad (R105, R210) -/

/-- A range translated for a station that reaches only its own cluster's scratchpad. -/
def ownPieces (s : State) (x : XCtx) (c : Nat) (wr : Bool) (va n : Nat) : Job (List Piece) := do
  Job.require (decide (va + n ≤ 2 ^ 48)) stXlate
  let ps ← Job.xl s x wr va n
  Job.require (ps.all fun p => padCluster p.pa == some c) stXlate
  pure ps

/-- One page's part of a range, translated for a station that reaches the places `ok`. -/
def reachPage (s : State) (x : XCtx) (ok : Nat → Bool) (va n : Nat) : Except Byte Piece :=
  if 2 ^ 48 < va + n then .error stXlate else
  match s.xlate x va false with
  | .error e => .error e
  | .ok p => if ok p.pa then .ok { pa := p.pa, n := n, hc := p.hc, guard := p.guard } else .error stXlate

/-- Pages of a range read in order, from `off` bytes after address `va`, `done` bytes after the first. A page of which nothing is taken in raises no
fault, and reads as zeros (R39). -/
def rdPages (s : State) (x : XCtx) (ok : Nat → Bool) (need : Need) (va off : Nat) : Nat → Nat → Nat → Job Got
  | 0, _, _ => pure { bytes := [], bad := [], marks := [], lead := (va + off) % 64 }
  | fuel + 1, done, n =>
    if n = 0 then pure { bytes := [], bad := [], marks := [], lead := (va + off) % 64 } else do
    let a := va + off + done
    let k := min n (4096 - a % 4096)
    Job.note fun q => { q with walks := q.walks ++ s.walksFor x a k q.walks q.who }
    match reachPage s x ok a k with
    | .ok p => do
      Job.note fun a => { a with reads := a.reads ++ [(p.pa, p.n, p.hc)] }
      let rest ← rdPages s x ok need va off fuel (done + k) (n - k)
      pure ((s.gotPiece p ((va + off) % 64) done).then rest)
    | .error e => do
      Job.require (!need (off + done) k) e
      let rest ← rdPages s x ok need va off fuel (done + k) (n - k)
      pure { rest with bytes := List.replicate k 0 ++ rest.bytes }

/-- A place of the scratchpad of a cluster. -/
def inPad (c : Nat) (pa : Nat) : Bool := padCluster pa == some c

/-- A range of the own scratchpad read, not yet consumed: offset and bytes from an address (R105). -/
def rdOwn (s : State) (x : XCtx) (c va : Nat) : Reader := fun need off n => rdPages s x (inPad c) need va off (n / 4096 + 2) 0 n

/-- A range of the own scratchpad read and consumed. -/
def rdOwnAll (s : State) (x : XCtx) (c va n : Nat) : Job (List Byte) := do
  let g ← rdOwn s x c va needAll 0 n
  consume g 0 needAll
  pure g.bytes

/-- A range of the own scratchpad written. -/
def wrOwn (s : State) (x : XCtx) (c va : Nat) (bs : List Byte) : Job Unit := do
  let ps ← ownPieces s x c true va bs.length
  writePieces s ps bs

/-- A range of the own scratchpad to be written later: its physical ranges. -/
def laterOwn (s : State) (x : XCtx) (c va : Nat) (bs : List Byte) : Job (List (Nat × List Byte)) := do
  let ps ← ownPieces s x c true va bs.length
  pure ((wrPieces ps bs 0 [] []).map fun w => (w.1.pa, w.1.bytes))

/-- The address of a place that must be on this module. -/
def hereOnly : Loc → Job Nat
  | .here va => pure va
  | _ => Job.fail stXlate

/-! ### A station's waybill -/

/-- Step n of an access engine's waybill as a tile (i, j): the side that is a stream of tiles, not a row table or a window (R74, R219, R244 to R247). -/
def engineIJ (w : Desc) (n : Nat) : Nat × Nat :=
  let op := bits (wbOp w) 0 4
  if op = 9 ∨ op = 10 then (srcOf w).ij n
  else if (dstOf w).kind = 0 then (dstOf w).ij n else (srcOf w).ij n

/-- A waybill belongs to a channel of its siding: the access engines have eight, the other stations one (R226). -/
def WbEntry.onChan (st chan : Nat) (e : WbEntry) : Bool := 2 ≤ st || fld e.wb 432 3 == chan

/-- A waybill that its station has still to work at. The Matrix and Sparse Stations go on to the next one while the tiles of an earlier one, all
computed, are in the drain (R114). -/
def WbEntry.ahead (st chan : Nat) (e : WbEntry) : Bool := e.onChan st chan && !((st == 2 || st == 3) && e.phase == .written)

/-- The oldest waybill of a channel that is still to be worked at, and the oldest of all, which completes next. -/
def State.headWb (s : State) (c st chan : Nat) : Option WbEntry := (s.siding c st).find? (WbEntry.ahead st chan)

def State.oldWb (s : State) (c st chan : Nat) : Option WbEntry := (s.siding c st).find? (WbEntry.onChan st chan)

/-- The waybill whose tile leaves the drain of a station next: the oldest with a tile in it. -/
def State.drainWb (s : State) (c st : Nat) : Option WbEntry := (s.siding c st).find? fun e => e.inDrain != 0

/-- The waybill that executes on a channel. -/
def State.runningWb (s : State) (c st chan : Nat) : Option WbEntry :=
  (s.headWb c st chan).bind fun e => if e.phase = .running then some e else none

/-- A function applied to the first list element that satisfies a condition. -/
def mapFirst (p : α → Bool) (f : α → α) : List α → List α
  | [] => []
  | x :: xs => if p x then f x :: xs else x :: mapFirst p f xs

/-- The head waybill of a channel changed. -/
def State.updWb (s : State) (c st chan : Nat) (f : WbEntry → WbEntry) : State :=
  s.updSiding c st (mapFirst (WbEntry.ahead st chan) f)

/-- The waybill whose tile leaves the drain changed. -/
def State.updDrainWb (s : State) (c st : Nat) (f : WbEntry → WbEntry) : State :=
  s.updSiding c st (mapFirst (fun e => e.inDrain != 0) f)

/-- The oldest waybill of a channel leaves its siding. -/
def State.dropWb (s : State) (c st chan : Nat) : State :=
  s.updSiding c st fun l => l.eraseP (WbEntry.onChan st chan)

/-- The completion record of R250. -/
def recordOf (e : WbEntry) (st : Nat) (status : Byte) : Rec128 :=
  BitVec.ofNat 128 (wbTag e.wb + status.toNat * 2 ^ 16 + fld e.wb 432 3 * 2 ^ 24 + st % 2 * 2 ^ 27 +
    (~~~ e.crc).toNat * 2 ^ 32 + e.bytes % 2 ^ 48 * 2 ^ 64 + min e.marked 0xFFFF * 2 ^ 112)

/-- A completion queue 0x0C or 0x0D holds 32 records (R250). -/
def engineRoom (s : State) (c st : Nat) : Bool := (Tab.look (s.cl c).st.cq {} (0x0C + st)).entries.length < 32

/-- A record enters the engine's completion queue. -/
def State.pushRecord (s : State) (c st : Nat) (r : Rec128) : State :=
  s.updSt c fun x => { x with cq := Tab.put x.cq {} (0x0C + st) { Tab.look x.cq {} (0x0C + st) with entries := (Tab.look x.cq {} (0x0C + st)).entries ++ [r] } }

/-- The channel's register keeps the last record (R250, R253). -/
def State.keepRecord (s : State) (c st : Nat) (e : WbEntry) (status : Byte) : State :=
  s.updChan c (8 * st + fld e.wb 432 3) fun k =>
    { k with busy := false, lat := false, prio := 0, lastStatus := status, lastTag := wbTag e.wb, lastCrc := ~~~ e.crc, bytes := e.bytes }

/-- A waybill fails: its engine's record goes out when the queue has room and never waits; the failure is reported and the consignment
stops on the cluster (R72, R74, R250). -/
def State.failWb (s : State) (c st : Nat) (e : WbEntry) (status : Byte) (i j : Nat) : State :=
  let t := if st ≤ 1 then
      let t := s.keepRecord c st e status
      if bit1 e.wb.toNat 447 && engineRoom t c st then t.pushRecord c st (recordOf e st status) else t
    else s
  t.failRun c { status := status, cluster := c, station := st, wbTag := wbTag e.wb, i := i % 65536, j := j % 65536 }

/-- What one tile's work comes to. -/
inductive Move where
  | stall
  /-- requests went out, and the tile waits -/
  | paused (s : State)
  | moved (s : State) (e : WbEntry)
  | failed (s : State) (status : Byte) (i j : Nat)

/-- What a job did is added to its waybill: flags, checksum over the bytes read or written as `crc_src` selects, marked tiles (R36, R250, R251). -/
def WbEntry.gather (e : WbEntry) (a : Acc) : WbEntry :=
  { e with flags := e.flags ||| a.flags, crc := a.crcW, bytes := a.bytesW, marked := e.marked + a.marked,
           srcs := e.srcs ++ a.srcs, dsts := e.dsts ++ a.begun }

/-- Ranges that a waybill of the consignment has begun to write (R73). -/
def State.addBegun (s : State) (c : Nat) (rs : List (Nat × Nat)) : State :=
  if rs.isEmpty then s else s.updRun c fun r => { r with begun := r.begun ++ rs }

/-- A tile's job takes effect, or its failure: what it had begun to write is noted first (R73). `i`, `j` name the tile in progress. -/
def State.tileJob (s : State) (c : Nat) (e : WbEntry) (i j : Nat) (job : Job Unit) : Move :=
  let r := (job.run).run { crcW := e.crc, bytesW := e.bytes, who := wbStation e.wb, home := some c, owner := some (e.part, e.seq) }
  if waits r.1 then .stall else
  if r.2.retained s then .stall else
  match r.1 with
  | .ok _ =>
    let n := r.2.writes.length
    .moved (((s.settle r.2).addBegun c r.2.begun).tilesWritten c (min 1 n)) (e.gather r.2)
  | .error st => .failed (((s.settle r.2.upToFailure).addBegun c r.2.begun).joinFlags e.part e.seq r.2.flags) st i j

/-- A tile that has read bytes which an earlier tile of its waybill wrote, or another waybill that executes at the same time (`other`): the overlap is
undefined, and the tile is worked on what it then holds (R52) (DESIGN CHOICE, log 8). -/
def Move.overlap (m : Move) (e : WbEntry) (other : List (Nat × Nat)) (redo : List (Nat × Nat) → Move) : Move :=
  match m with
  | .moved _ e' =>
    let o := rangesMeet (e'.srcs.drop e.srcs.length) (e.dsts ++ other)
    if o.isEmpty then m else redo o
  | m => m

/-- The waybills of a cluster that have started and are not complete, but for one: no dependency counter orders any two of them (R52) (DESIGN CHOICE, log 8). -/
def State.besides (s : State) (c : Nat) (e : WbEntry) : List WbEntry :=
  (s.cl c).st.sidings.flatMap fun (q : Nat × List WbEntry) => q.2.filter fun o => (o.phase == .running || o.phase == .written) && decide (o ≠ e)

/-- Destination bytes of a waybill that its own sources meet, or what other waybills at work read and write, are undefined (R52). -/
def State.clash (s : State) (dsts own : List (Nat × Nat)) (others : List WbEntry) : State :=
  s.scrambleAll (rangesMeet dsts (own ++ others.flatMap fun o => o.srcs ++ o.dsts))

/-- Operand ranges of a waybill, and of the owner table that it uses, that software has changed since it started (R128, R280) (DESIGN CHOICE, log 205). -/
def State.changed (s : State) (e : WbEntry) : List (Nat × Nat) :=
  e.held.filterMap fun h => if s.hubRead h.1 h.2.length = h.2 then none else some (h.1, h.2.length)

/-- A station works through the tiles of its waybill from the next one, until the last is written, one stalls, or one fails (R43, R72) (DESIGN CHOICE, log 40). -/
def State.runTiles (c st chan total : Nat) (f : State → WbEntry → Move) : Nat → State → State
  | 0, s => s
  | fuel + 1, s =>
    match s.runningWb c st chan with
    | none => s
    | some e =>
      if total ≤ e.next then s.updWb c st chan fun e => { e with phase := .written }
      else match (f s e).overlap e ((s.besides c e).flatMap (·.dsts)) (fun o => f (s.scrambleAll o) e) with
        | .stall => s
        | .paused t => t
        | .failed t status i j => t.failWb c st e status i j
        | .moved t e' =>
          let new := e'.dsts.drop e.dsts.length
          let t := t.clash new e'.srcs (s.besides c e)
          -- a tile of a waybill whose owner table has changed is undefined (R280)
          let t := if (s.changed e).isEmpty then t else t.scrambleAll new
          State.runTiles c st chan total f fuel (t.updWb c st chan fun _ => { e' with next := e.next + 1 })

/-- A station whose event finds its register occupied stalls (R69). -/
def State.eventHeld (s : State) (c st : Nat) : Bool := (s.die (c / 17)).stalled.any fun k => k.1 == 16 * c + st

/-- A waybill's station executes: an operation whose waybill is not the one at work has no effect (DEDUCED, log 6, DESIGN CHOICE, log 40). -/
def State.work (s : State) (c st chan : Nat) (isOp : WbEntry → Bool) (total : WbEntry → Nat) (f : XCtx → State → WbEntry → Move) : State :=
  match s.runningWb c st chan, (s.cl c).run with
  | some e, some r =>
    if isOp e ∧ !r.stopped ∧ !s.eventHeld c st then s.runTiles c st chan (total e) (f (r.ctx c)) (total e - e.next + 2) else s
  | _, _ => s

/-- The draws of a waybill's conversions: key of the run, site, stream in [511:484] (R30). -/
def State.drawsOf (s : State) (c : Nat) (e : WbEntry) (site row col : Nat) : Draws :=
  { key := ((s.cl c).run.map (·.srKey)).getD 0, site := site, stream := fld e.wb 484 28, row := row, col := col }

end Sys2Proof.Machine
end

