-- ==== Sys2Proof/Machine/Window.lean ====
section
/-! DEFINITION. Receive windows, tokens and landing (R91 to R100, R246), software queues (R63 to R69), the scratchpad's own upkeep (R83,
R86, R88, R90), channel control (R252), carried rows (R405), counter waits (R53, R56). -/

namespace Sys2Proof.Machine

/-! ### Granting and landing (R94, R97) -/

/-- Granules that `land_ptr` has passed and that are not released. -/
def Win.landed (w : Win) : Nat := w.size - w.freeCnt - w.granules.length

/-- An endpoint that is this cluster; `mod` is 0xFF for this module. -/
def isSelf (c : Nat) (ep : BitVec 16) (mod : Byte := 0xFF) : Bool := ep.toNat == c && mod == 0xFF

/-- Granules granted to a writer of this module or of another, or to the cluster itself without a mesh message (R94, R238). -/
def State.grantTo (s : State) (c w g first gen part : Nat) (q : TokenReq) : State :=
  if isSelf c q.requester q.mod then
    match (s.cl c).tokWait.find? fun t => t.tag == q.tag && t.window == w && t.target == c with
    | some t => s.updCl c fun cl => { cl with
        held := cl.held ++ [{ chan := t.chan, target := c, window := w, gen := gen, first := first, count := g }]
        tokWait := cl.tokWait.filterMap fun x => if x.tag = t.tag then (if x.count ≤ g then none else some { x with count := x.count - g }) else some x }
    | none => s
  else s.emit (.packet (pktFinish (s.stamp (packetOf 0x06 1 q.requester (BitVec.ofNat 16 c) q.mod part q.tag 0
    (tokenMsg 2 w c g first gen part 0 q.requester q.tag) []))))

/-- The scratchpad address of a granule. -/
def granuleAt (c : Nat) (win : Win) (g : Nat) : Nat := padOf c + (win.base + g) * 2048

/-- Requests of a window are served in arrival order; a part grant stays at the head (R94). A granted granule holds undefined bytes until
pieces land on it (R96, R98). -/
def State.serveTokens (s : State) (c w : Nat) : Nat → State
  | 0 => s
  | fuel + 1 =>
    let win := s.win c w
    match (s.cl c).tokQ.find? (fun q => q.window == w) with
    | none => s
    | some q =>
      if !win.enable || win.closing || win.freeCnt == 0 || win.size == 0 then s else
      let g := min q.count win.freeCnt
      let first := win.grantPtr
      let gs := (List.range g).map fun k => ({ idx := (first + k) % win.size, writer := q.requester, mod := q.mod } : Granule)
      let t := (s.scrambleAll (gs.map fun x => (granuleAt c win x.idx, 2048))).updWin c w fun x => { x with granules := x.granules ++ gs, grantPtr := (first + g) % win.size, freeCnt := x.freeCnt - g }
      let t := t.updCl c fun cl =>
        { cl with tokQ := if g = q.count then cl.tokQ.erase q else mapFirst (fun x => x == q) (fun x => { x with count := x.count - g }) cl.tokQ }
      State.serveTokens (t.grantTo c w g first win.gen win.part q) c w fuel

/-- Tokens served with enough steps for every queued request. -/
def State.serve (s : State) (c w : Nat) : State := s.serveTokens c w ((s.cl c).tokQ.length + 1)

/-- `land_ptr` passes landed granules in grant order and posts for each (R97). -/
def State.landAdvance (s : State) (c w : Nat) : Nat → State
  | 0 => s
  | fuel + 1 =>
    let win := s.win c w
    match win.granules with
    | g :: rest =>
      if g.landed then
        let t := s.updWin c w fun x => { x with granules := rest, landPtr := (x.landPtr + 1) % x.size }
        State.landAdvance (if win.postEn then t.postCore c win.postCtr else t) c w fuel
      else s
    | [] => s

/-- Landing advanced as far as it goes. -/
def State.settleLand (s : State) (c w : Nat) : State := s.landAdvance c w (s.win c w).granules.length

/-! ### WINDOW, RELEASE, LANDCFG (R92, R98, R246) -/

/-- The opening checks of R92. A window that is only `closing` is open too, for its grants still land (DESIGN CHOICE, log 198). -/
def State.winOpenOk (s : State) (c w v : Nat) : Bool :=
  let base := bits v 0 12
  let size := bits v 12 11
  decide (1 ≤ size) && decide (size ≤ 1024) && decide (base + size ≤ 4096) && !(s.win c w).enable &&
  (s.cl c).wins.all fun (e : Nat × Win) => !e.2.enable || !overlaps base size e.2.base e.2.size

/-- LANDCFG (R246). -/
def execLandcfg (c : Nat) (w : BitVec 3) (ra : Reg) (s : State) : Res :=
  s.onCore c fun s =>
    let v := (s.reg c ra).toNat
    let row := bits v 1 12
    let n := bits v 13 12 + 1
    if bits v 25 39 ≠ 0 ∨ 4096 < row + n ∨ (s.win c w.toNat).enable ∨
        (s.cl c).wins.any (fun (e : Nat × Win) => e.2.enable && overlaps row n e.2.base e.2.size) then s.failCore c stTimetable
    else (s.updSt c fun x => { x with land := Tab.put x.land 0 w.toNat (BitVec.ofNat 64 v) }).pcStep c 4

/-! ### Token messages (R94 to R99) -/

/-- The reserved fields of a token message are zero (R95). -/
def tokenRsvOk (m : Nat) : Bool :=
  !bit1 m 7 && bits m 19 13 == 0 && bits m 59 5 == 0 && bits m 74 6 == 0 && bits m 112 16 == 0

/-- A refusal of a token message (R99). -/
def State.refuseMsg (s : State) (c : Nat) (p : Packet) (reason : Nat) : State :=
  let m := p.msg.toNat
  s.refuseToken c (bits m 4 3) (bits m 48 11) (s.win c (bits m 4 3)).part reason (BitVec.ofNat 16 (bits m 32 16)) (BitVec.ofNat 16 (bits m 96 16)) p.srcMod

/-- Granules handed back count as landed with undefined contents (R97). Granules that were not granted to the one who returns them stay as they are,
uncounted (DESIGN CHOICE, log 160). -/
def State.returnGranules (s : State) (c w first count : Nat) (writer : BitVec 16) (mod : Byte := 0xFF) : State :=
  let win := s.win c w
  let mine (g : Granule) : Bool := g.writer == writer && g.mod == mod && !g.landed && (List.range count).any fun k => g.idx == (first + k) % win.size
  let t := (win.granules.filter mine).foldl (fun s g => s.scramble (granuleAt c win g.idx) 2048) s
  (t.updWin c w fun x => { x with granules := x.granules.map fun g => if mine g then { g with landed := true } else g }).settleLand c w

/-- The waybill of a channel 0 to 15 that executes or awaits its acknowledgements fails: with its tile in progress, or
its last (DEDUCED, log 133). -/
def State.failChan (s : State) (c chan : Nat) (status : Byte) : State :=
  match s.headWb c (chan / 8) (chan % 8) with
  | some e =>
    let (i, j) := engineIJ e.wb (if e.phase = .written then e.next - 1 else e.next)
    if e.phase = .running ∨ e.phase = .written then s.failWb c (chan / 8) e status i j else s
  | none => s

/-- The writer's status of a refusal (R99). -/
def refusalStatus (reason : Nat) : Byte := if reason = 4 then stProtect else stToken

/-! ### Checks and resends (R344, R354) -/

/-- A request whose end-to-end check fails is answered with NAK; nothing of it is applied (DESIGN CHOICE, log 15). -/
def State.nak (s : State) (p : Packet) : State :=
  (s.bump 0x5100 1 1).emit (.packet (pktFinish { packetOf 0x09 1 p.srcEp p.dstEp p.srcMod p.part.toNat p.tag p.addr.toNat
    (BitVec.ofNat 128 (p.tag.toNat + p.ptype.toNat * 2 ^ 16)) [] with srcMod := p.dstMod }))

/-- The waybill that owns a packet fails with DATA_UNCORRECTABLE; a refetch stays away. A partial of a reduction belongs to the consignment of its partition
that runs on the root cluster, or, of a link die's, on any (DESIGN CHOICE, log 217) (DESIGN CHOICE, log 17, DEDUCED, log 23). -/
def State.ownerFails (s : State) (p : Packet) : State :=
  let c := p.srcEp.toNat
  if p.ptype = 0x0B then
    (match ((s.clusters.map (·.1)).find? fun k => (if c < 0x2000 then k == c else true) && (s.cl k).run.any fun r => r.part == p.part.toNat) with
     | some k => s.failCore k stUncorrectable
     | none => s)
  else if 0x2000 ≤ c then s else
  match p.ptype.toNat with
  | 0x00 =>
    (match (s.cl c).st.pend.find? fun r => r.tag == p.tag with
     | some r => s.failChan c r.chan stUncorrectable
     | none => s.updCl c fun cl => { cl with watches := cl.watches.map fun w => if w.pending && w.tag == p.tag then { w with pending := false } else w })
  | 0x05 =>
    (match (s.cl c).tokWait.find? fun t => t.tag == p.tag with
     | some t => s.failChan c t.chan stUncorrectable
     | none => s)
  | 0x02 | 0x04 => s.failChan c (8 + p.tag.toNat % 8) stUncorrectable
  | _ => s

/-- A kept packet is sent again; after `0x2100.02` resends, at least 1, its owner fails instead (DESIGN CHOICE, log 22). -/
def State.resend (s : State) (k : Kept) : State :=
  if max 1 (s.cfg 0x2100 2) ≤ k.resends then { s with kept := s.kept.filter fun x => x != k }.ownerFails k.p
  else { s with kept := mapFirst (fun x => x == k) (fun x => { x with resends := x.resends + 1, retrying := false }) s.kept }.emit (.packet k.p)

/-- The kept packets of a source with a tag and a type. -/
def State.keptOf (s : State) (ep tag : BitVec 16) (ty : Nat) : List Kept :=
  s.kept.filter fun k => k.p.srcEp == ep && k.p.tag == tag && k.p.ptype.toNat == ty

/-- A response whose check fails is discarded, and its request is issued again under the same tag. -/
def State.again (s : State) (ep tag : BitVec 16) (tys : List Nat) : State :=
  (tys.flatMap fun ty => s.keptOf ep tag ty).foldl State.resend (s.bump 0x5100 1 1)

/-- A TOKEN_REQ as the token manager takes it, checked in the order of R99 (DEDUCED, log 47). -/
def State.takeReq (s : State) (c : Nat) (p : Packet) : State :=
  let v := p.msg.toNat
  let w := bits v 4 3
  let win := s.win c w
  if bits v 0 4 ≠ 1 ∨ !tokenRsvOk v ∨ bits v 64 10 ≠ 0 ∨ bits v 80 8 ≠ 0 ∨ bits v 92 4 ≠ 0 then s.refuseMsg c p 6
  else if bits v 88 4 ≠ win.part then s.refuseMsg c p 4
  else if !win.enable ∨ win.closing then s.refuseMsg c p 3
  else if bits v 48 11 = 0 ∨ win.size < bits v 48 11 then s.refuseMsg c p 5
  else
    let q : TokenReq := { window := w, requester := BitVec.ofNat 16 (bits v 32 16), count := bits v 48 11, tag := BitVec.ofNat 16 (bits v 96 16),
                          mod := p.srcMod }
    (s.updCl c fun cl => { cl with tokQ := cl.tokQ ++ [q] }).serve c w

/-- A TOKEN_GRANT at its writer: granules for a request that still waits; those of a stopped consignment go back (R72). -/
def State.takeGrant (s : State) (c : Nat) (p : Packet) : State :=
  let v := p.msg.toNat
  let tag : BitVec 16 := BitVec.ofNat 16 (bits v 96 16)
  let h (chan target : Nat) : HeldToken := { chan := chan, target := target, window := bits v 4 3, gen := bits v 80 8, first := bits v 64 10, count := bits v 48 11 }
  let s := s.dropKept (BitVec.ofNat 16 c) tag 0x05
  match (s.cl c).tokWait.find? fun t => t.tag == tag && t.window == bits v 4 3 && t.target % 65536 == bits v 8 11 && targetMod t.target == p.srcMod with
  | some t => s.updCl c fun cl => { cl with
      held := cl.held ++ [h t.chan t.target]
      tokWait := cl.tokWait.filterMap fun x => if x.tag = tag then (if x.count ≤ bits v 48 11 then none else some { x with count := x.count - bits v 48 11 }) else some x }
  | none => s.returnToken c (bits v 88 4) (h 0 (bits v 8 11 + (if p.srcMod = 0xFF then 0 else 65536 * (p.srcMod.toNat + 1))))

/-- A TOKEN_RETURN: it takes effect when its generation is the window's and the window is open or closing; otherwise it is counted (R97). Its partition is
not checked (DESIGN CHOICE, log 199). -/
def State.takeReturn (s : State) (c : Nat) (p : Packet) : State :=
  let v := p.msg.toNat
  let w := bits v 4 3
  if !tokenRsvOk v ∨ bits v 92 4 ≠ 0 then s.refuseMsg c p 6
  else if (s.win c w).enable && bits v 80 8 == (s.win c w).gen then
    s.returnGranules c w (bits v 64 10) (bits v 48 11) (BitVec.ofNat 16 (bits v 32 16)) p.srcMod
  else s.bump 0x5020 3 1

/-- A REFUSED at its writer: the waybill that asked, or that wrote, fails with the status of the reason. The tag of a write names its channel. Where
neither a request nor a write of that tag waits any more, what it refuses has been given up, and it fails nothing. -/
def State.takeRefused (s : State) (c : Nat) (p : Packet) : State :=
  let v := p.msg.toNat
  let tag := bits v 96 16
  let wrote := !(s.keptOf (BitVec.ofNat 16 c) (BitVec.ofNat 16 tag) 0x02 ++ s.keptOf (BitVec.ofNat 16 c) (BitVec.ofNat 16 tag) 0x04).isEmpty
  let s := ((s.dropKept (BitVec.ofNat 16 c) (BitVec.ofNat 16 tag) 0x05).dropKept (BitVec.ofNat 16 c) (BitVec.ofNat 16 tag) 0x02).dropKept (BitVec.ofNat 16 c) (BitVec.ofNat 16 tag) 0x04
  match (s.cl c).tokWait.find? fun t => t.tag.toNat == tag with
  | some t => s.failChan c t.chan (refusalStatus (bits v 92 4))
  | none => if wrote then s.failChan c (8 + tag % 8) (refusalStatus (bits v 92 4)) else s

/-- A token message by its `msg_type`. -/
def State.takeToken (s : State) (c : Nat) (p : Packet) : State :=
  match p.msg.toNat % 16 with
  | 2 => s.takeGrant c p
  | 3 => s.takeReturn c p
  | 4 => s.takeRefused c p
  | _ => s.takeReq c p

/-- Messages that the mesh has held back are taken, oldest first, while the queue of 64 has room (R94). -/
def State.drainMesh (s : State) (c : Nat) : Nat → State
  | 0 => s
  | fuel + 1 =>
    if 64 ≤ (s.cl c).tokQ.length then s else
    match (s.cl c).tokMesh with
    | [] => s
    | p :: rest => State.drainMesh ((s.updCl c fun cl => { cl with tokMesh := rest }).takeToken c p) c fuel

/-- The token manager takes its next messages, and with a full queue none: the mesh holds them back (R94). -/
def State.tokenIn (s : State) (c : Nat) (p : Packet) : State :=
  let t := (s.woken c).updCl c fun cl => { cl with tokMesh := cl.tokMesh ++ [p] }
  t.drainMesh c ((s.cl c).tokMesh.length + 1)

/-- Messages held back are taken once the queue has room again. -/
def State.meshAgain (s : State) (c : Nat) : State := s.drainMesh c (s.cl c).tokMesh.length

/-- TOKEN_REQ at the cluster that the packet names. A cluster that is not active has no token manager at work: no effect and no answer
(DESIGN CHOICE, log 160) (DEDUCED, log 47). -/
def execTokenReq (p : Packet) (s : State) : Res :=
  let c := p.dstEp.toNat
  if 0x2000 ≤ c ∨ (s.cl c).stat ≠ .active ∨ !s.padsOpen ∨ p.msg.toNat % 16 = 2 ∨ p.msg.toNat % 16 = 3 ∨ p.msg.toNat % 16 = 4 then .next s
  else if p.pcrc ≠ pktCheck p then .next (s.nak p)
  else .next (s.tokenIn c p)

/-- TOKEN_GRANT (DESIGN CHOICE, log 160). -/
def execTokenGrant (p : Packet) (s : State) : Res :=
  let c := p.dstEp.toNat
  if 0x2000 ≤ c ∨ (s.cl c).stat ≠ .active ∨ !s.padsOpen ∨ p.msg.toNat % 16 ≠ 2 then .next s
  else if p.pcrc ≠ pktCheck p then .next (s.again p.dstEp p.tag [0x05])
  else .next (s.tokenIn c p)

/-- TOKEN_RETURN (DESIGN CHOICE, log 160). -/
def execTokenReturn (p : Packet) (s : State) : Res :=
  let c := p.dstEp.toNat
  if 0x2000 ≤ c ∨ (s.cl c).stat ≠ .active ∨ !s.padsOpen ∨ p.msg.toNat % 16 ≠ 3 then .next s
  else if p.pcrc ≠ pktCheck p then .next (s.nak p)
  else .next (s.tokenIn c p)

/-- REFUSED (DESIGN CHOICE, log 160). -/
def execRefused (p : Packet) (s : State) : Res :=
  let c := p.dstEp.toNat
  if 0x2000 ≤ c ∨ (s.cl c).stat ≠ .active ∨ !s.padsOpen ∨ p.msg.toNat % 16 ≠ 4 then .next s
  else if p.pcrc ≠ pktCheck p then .next (s.again p.dstEp p.tag [0x05, 0x02, 0x04])
  else .next (s.tokenIn c p)

/-- A cluster's engine asks for granules of a window: through its own token manager without a mesh message, or by TOKEN_REQ (R238). -/
def State.askTokens (s : State) (c chan target w count part : Nat) : State :=
  let tag := (s.cl c).nextTag
  let t := s.updCl c fun cl => { cl with nextTag := tag + 1, tokWait := cl.tokWait ++ [{ tag := tag, chan := chan, target := target, window := w, count := count }] }
  let p := packetOf 0x05 0 (BitVec.ofNat 16 target) (BitVec.ofNat 16 c) (targetMod target) part tag 0
    (tokenMsg 1 w (target % 65536) count 0 0 part 0 (BitVec.ofNat 16 c) tag) []
  if target = c then t.tokenIn c p else t.send p

/-! ### WINDOW and RELEASE (R92, R98) -/

/-- WINDOW w, sN: bit [24] opens or closes (DEDUCED, log 46). -/
def State.windowOp (s : State) (c : Nat) (w : Nat) (v : Nat) : State :=
  if bit1 v 23 || bit1 v 31 || bits v 44 20 != 0 then s.failCore c stTimetable
  else if bit1 v 24 then
    (if s.winOpenOk c w v then
      (s.updWin c w fun x => { base := bits v 0 12, size := bits v 12 11, enable := true, postEn := bit1 v 25, postCtr := bits v 26 5,
                               part := ((s.cl c).run.map (·.part)).getD 0, gen := (x.gen + 1) % 256, freeCnt := bits v 12 11 }).pcStep c 4
     else s.failCore c stTimetable)
  else (((s.updWin c w Win.close).refuseQueued c fun k => k == w).meshAgain c).pcStep c 4

/-- WINDOW_OPEN. -/
def execWindowOpen (c : Nat) (w : BitVec 3) (ra : Reg) (s : State) : Res := s.onCore c fun s => s.windowOp c w.toNat (s.reg c ra).toNat

/-- WINDOW_CLOSE. -/
def execWindowClose (c : Nat) (w : BitVec 3) (ra : Reg) (s : State) : Res := s.onCore c fun s => s.windowOp c w.toNat (s.reg c ra).toNat

/-- WINDOW_CLOSED: a closing window closes once every grant has landed or been returned (R100). -/
def execWindowClosed (c : Nat) (w : BitVec 3) (s : State) : Res := .next ((s.updWin c w.toNat Win.settleClose).meshAgain c)

/-- RELEASE: more granules than lie between `free_ptr` and `land_ptr` are a TIMETABLE_FAULT (R98). -/
def execRelease (c : Nat) (w : BitVec 3) (ra : Reg) (s : State) : Res :=
  s.onCore c fun s =>
    let n := (s.reg c ra).toNat
    let win := s.win c w.toNat
    if win.landed < n then s.failCore c stTimetable
    else (((s.updWin c w.toNat fun x => { x with freePtr := (x.freePtr + n) % x.size, freeCnt := x.freeCnt + n }).serve c w.toNat).meshAgain c).pcStep c 4

/-! ### Landing a remote write (R96, R99) -/

/-- A granule granted to a writer is written by that writer, or, when it was granted to the window's own cluster for a reduced result, by
a link die that spends the token its RED_UP carried (R366). -/
def writerFits (c : Nat) (g : Granule) (src : BitVec 16) (mod : Byte) : Bool :=
  (g.writer == src && g.mod == mod) || (isSelf c g.writer g.mod && src.toNat / 8192 == 2)

/-- The granule that a piece names; a writer of another module does not see where a grant wraps (DESIGN CHOICE, log 172). -/
def Win.granuleNo (w : Win) (p : Packet) : Nat := if p.srcMod = 0xFF then p.granule.toNat else p.granule.toNat % max 1 w.size

/-- The reason for which a remote write is refused, in the order of R99. -/
def State.pieceRefusal (s : State) (c : Nat) (p : Packet) : Option Nat :=
  let win := s.win c p.window.toNat
  let mine := win.granules.any fun g => g.idx == win.granuleNo p && writerFits c g p.srcEp p.srcMod && !g.landed
  if p.rsv ≠ 0 ∨ 32 < p.gOff.toNat + p.lenUnits.toNat ∨ (p.last ∧ (p.pieces.toNat = 0 ∨ 32 < p.pieces.toNat)) then some 6
  else if p.part.toNat ≠ win.part then some 4
  else if !win.enable ∨ (win.closing ∧ !(mine ∧ p.winGen.toNat = win.gen)) then some 3
  else if p.winGen.toNat ≠ win.gen then some 2
  else if !mine then some 1
  else none

/-- A refusal sent for a write (R99). -/
def State.refusePiece (s : State) (c : Nat) (p : Packet) (reason : Nat) : State :=
  s.refuseToken c p.window.toNat 0 (s.win c p.window.toNat).part reason p.srcEp p.tag p.srcMod

/-- A piece of a granule is counted; with all its pieces written the granule lands (R96). -/
def State.countPiece (s : State) (c : Nat) (p : Packet) : State :=
  let upd (g : Granule) : Granule :=
    if g.idx = (s.win c p.window.toNat).granuleNo p ∧ writerFits c g p.srcEp p.srcMod ∧ !g.landed then
      let need := if p.last then some p.pieces.toNat else g.need
      { g with got := g.got + 1, need := need, landed := need.any fun n => n ≤ g.got + 1 }
    else g
  (s.updWin c p.window.toNat fun x => { x with granules := x.granules.map upd }).settleLand c p.window.toNat

/-- Landing into a window that a COMMIT's timetable has opened is exempt from retention (R289): the window is of the cluster's run. -/
def State.landExempt (s : State) (c : Nat) : Option (Nat × Nat) :=
  (s.cl c).run.bind fun r => if r.commit then some (r.part, r.seq) else none

/-- The acknowledgement of a write or an ADD, with the flags it raised (R343, R247). -/
def State.ackWrite (s : State) (src : BitVec 16) (p : Packet) (flags : Byte) : State :=
  s.emit (.packet (pktFinish (s.stamp (packetOf 0x03 1 p.srcEp src p.srcMod p.part.toNat p.tag p.addr.toNat (flags.setWidth 128) []))))

/-! ### Queues (R63, R66, R69) -/

/-- A queue of R66 or a completion queue. -/
def State.queue (s : State) : QueueRef → RecQ
  | .completion c q => s.cqOf c q
  | .mailToAoc => s.mailToAoc
  | .mailToHost => s.mailToHost
  | .events d => (s.die d).events
  | .mdpRx => s.mdpRx

/-- The queue changed. -/
def State.setQueue (s : State) (r : QueueRef) (q : RecQ) : State :=
  match r with
  | .completion c k => s.updCq c k fun _ => q
  | .mailToAoc => { s with mailToAoc := q }
  | .mailToHost => { s with mailToHost := q }
  | .events d => s.updDie d fun x => { x with events := q }
  | .mdpRx => { s with mdpRx := q }

/-- Its depth and the width of an entry (R66, R250). -/
def queueShape : QueueRef → Nat × Nat
  | .completion .. => (cqDepth, 128)
  | .mailToAoc | .mailToHost => (512, 64)
  | .events _ => (64, 128)
  | .mdpRx => (4096, 32)

/-- The exponent k of a depth 2^k of a queue that crosses clock domains (R66). -/
def crossK : QueueRef → Option Nat
  | .completion .. => none
  | .mailToAoc | .mailToHost => some 9
  | .events _ => some 6
  | .mdpRx => some 12

/-- The status word of a queue (R65): one that crosses clock domains shows the reading side's flags (R67, R68) (DESIGN CHOICE, log 156). -/
def State.queueStatus (s : State) (r : QueueRef) : Word :=
  let q := s.queue r
  match crossK r with
  | some k => statusBits (q.cross.count k) q.cross.empty (q.cross.full k) q.st
  | none => statusWord q.entries.length (queueShape r).1 q.st

/-- The RW fields of a status word written by software (R65) (DESIGN CHOICE, log 156). -/
def State.writeQueueStatus (s : State) (r : QueueRef) (v : Nat) : State := s.setQueue r { s.queue r with st := (s.queue r).st.write v }

/-- An entry written into a queue that has room: its write pointer moves. -/
def State.enqueue (s : State) (r : QueueRef) (v : Rec128) : State :=
  let q := s.queue r
  s.setQueue r { q with entries := q.entries ++ [BitVec.ofNat 128 (v.toNat % 2 ^ (queueShape r).2)],
                        cross := match crossK r with | some k => q.cross.wrote k | none => q.cross }

/-- A queue is full as its writer sees it (R67). -/
def State.queueFull (s : State) (r : QueueRef) : Bool :=
  match crossK r with
  | some k => (s.queue r).cross.full k
  | none => decide ((queueShape r).1 ≤ (s.queue r).entries.length)

/-- The oldest entry leaves, or with the queue empty as its reader sees it the last value is read again with `underrun` (R63, R67). -/
def State.dequeue (s : State) (r : QueueRef) : State :=
  let q := s.queue r
  match crossK r with
  | some k =>
    s.setQueue r (if q.cross.empty then { q with st := { q.st with underrun := true } }
                  else { q with entries := q.entries.drop 1, last := q.entries.headD q.last, cross := q.cross.read k })
  | none => s.setQueue r q.pop.2

/-- With room in a die's event queue, the holding registers empty into it, the oldest event first; the event of a stalled station then enters
its station's register, and the station goes on (R69). -/
def State.eventsMove (s : State) (die : Nat) : Nat → State
  | 0 => s
  | fuel + 1 =>
    match (s.die die).holding with
    | (k, ev) :: rest =>
      if s.queueFull (.events die) then s else
      let t := (s.enqueue (.events die) ev).updDie die fun d =>
        { d with holding := rest ++ (d.stalled.find? fun x => x.1 == k).toList, stalled := d.stalled.filter fun x => x.1 != k }
      State.eventsMove t die fuel
    | [] => s

/-- QUEUE_READ: the oldest entry, or the last value again with `underrun`. Events that wait in holding registers, and datagrams that wait for room
in the MDP receive path, follow (R63, R69, R475). -/
def execQueueRead (q : QueueRef) (s : State) : Res :=
  let t := s.dequeue q
  match q with
  | .events d => .next (t.eventsMove d ((t.die d).holding.length + (t.die d).stalled.length))
  | .mdpRx => .next t.macDrain
  | _ => .next t

/-- QUEUE_WRITE: software that finds its queue full has its value discarded, which sets `overflow` (R63). The hardware writer of an event queue
or of the MDP receive path stalls instead, and nothing enters (R69). -/
def execQueueWrite (q : QueueRef) (v : Rec128) (s : State) : Res :=
  if !s.queueFull q then .next (s.enqueue q v)
  else match q with
    | .events _ | .mdpRx => .next s
    | _ => .next (s.setQueue q { s.queue q with st := { (s.queue q).st with overflow := true } })

/-- STATION_EVENT of a station of a cluster: with its die's queue full the event goes into the station's holding register; with that occupied
the station stalls and keeps the event (R69). A stalled station raises none. -/
def execStationEvent (st : StationId) (ev : Rec128) (s : State) : Res :=
  let die := st.cluster / 17
  let k := 16 * st.cluster + st.code
  let x := s.die die
  if x.stalled.any (fun e => e.1 == k) then .next s
  else if x.holding.any fun e => e.1 == k then .next (s.updDie die fun d => { d with stalled := d.stalled ++ [(k, ev)] })
  else if s.queueFull (.events die) then .next (s.updDie die fun d => { d with holding := d.holding ++ [(k, ev)] })
  else .next (s.enqueue (.events die) ev)

/-! ### The scratchpad's own upkeep (R83, R86, R88, R90) -/

/-- AGE_PROMOTION: after `0x2030.01` denied cycles a requester ranks above the drain; 0 disables aging. Results do not depend on it (DESIGN CHOICE, log 132). -/
def execAgePromotion (c requester denied : Nat) (s : State) : Res :=
  if s.cfg 0x2030 1 ≠ 0 ∧ s.cfg 0x2030 1 ≤ denied ∧ !(s.cl c).promoted.contains requester then
    .next (s.updCl c fun cl => { cl with promoted := cl.promoted ++ [requester] })
  else .next s

/-- COALESCE_IDLE_WRITEBACK: an entry idle for `0x2030.02` cycles, at least 1, is written back (DEDUCED, log 9). -/
def execCoalesceIdleWriteback (c chunk idle : Nat) (s : State) : Res :=
  if max 1 (s.cfg 0x2030 2) ≤ idle then .next (s.coalOut c fun e => e.chunk == chunk) else .next s

/-- ECC_CORRECTION_WRITEBACK: the corrected word, by its number in the scratchpad, is written back. -/
def execEccCorrectionWriteback (c word : Nat) (s : State) : Res :=
  if Tab.look s.upset 0 (padOf c / 8 + word) = 3 then .next { s with upset := Tab.put s.upset 0 (padOf c / 8 + word) 0 } else .next s

/-- SCRUB_PASS: every row is read and corrected; a period of 0 stops the scrubber (R90). Uncorrectable words at `0x2120.05` rows of the cluster, whoever has
found them, are a cluster fault (R409) (DEDUCED, log 189). -/
def execScrubPass (c : Nat) (s : State) : Res :=
  if s.cfg 0x2030 3 = 0 then .next s else
  let t := ((Tab.within s.upset (padOf c / 8) (padSize / 8)).map (·.1)).foldl State.resolveWord s
  let t := { t with upset := Tab.clear t.upset (padOf c / 8) (padSize / 8) }
  .next (if max 1 (s.cfg 0x2120 5) ≤ (t.cl c).badRows.length then t.clusterFails c else t)

/-! ### Channels (R252) -/

/-- A channel is disabled: its tokens go back, its refetches end, and every waybill of it fails with DMA_DROPPED; the record of the one in
progress carries an undefined `crc` and `bytes`. -/
def State.dropChannel (s : State) (c chan : Nat) : State :=
  let st := chan / 8
  let part := ((s.cl c).run.map (·.part)).getD 0
  let mine := (s.cl c).held.filter fun h => h.chan == chan
  let t := mine.foldl (fun s h =>
    if h.target = c then s.returnGranules c h.window h.first h.count (BitVec.ofNat 16 c) else s.returnToken c part h) s
  let t := t.updCl c fun cl => { cl with
    held := cl.held.filter fun h => h.chan != chan
    tokWait := cl.tokWait.filter fun w => w.chan != chan
    tokQ := cl.tokQ.filter fun q => !(isSelf c q.requester q.mod && (cl.tokWait.any fun w => w.chan == chan && w.tag == q.tag))
    watches := cl.watches.map fun w => if st = 0 ∧ w.chan = chan then { w with pending := false, queued := false } else w
    sendQ := cl.sendQ.filter fun p => !(chan ≥ 8 && p.tag.toNat % 8 == chan % 8)
    st := { cl.st with pend := cl.st.pend.filter fun r => r.chan != chan } }
  let slots := (s.cl c).watches.filter fun w => st == 0 && w.chan == chan && w.slot.isSome
  let t := if slots.isEmpty then t else t.updTileQ c 0x09 fun q => { q with entries := q.entries.map fun e =>
    { e with pend := e.pend.filter fun u => !slots.any fun w => w.slot == some e.ident && (unitsOf w.dst w.len).contains u } }
  let es := (t.siding c st).filter fun e => fld e.wb 432 3 == chan % 8
  (es.foldl (fun t e =>
    let e := if e.phase = .running ∨ e.phase = .written then
        { e with crc := (Config.freeWord t.free).setWidth 32, bytes := (Config.freeWord (t.free + 1)).toNat % 2 ^ 48 } else e
    let (i, j) := if e.phase = .running then engineIJ e.wb e.next else if e.phase = .written then engineIJ e.wb (e.next - 1) else (0xFFFF, 0xFFFF)
    { t with free := t.free + 2 }.failWb c st e stDmaDropped i j) t)

/-- `ch_disable` takes a value. -/
def State.chctl (s : State) (c chan : Nat) (v : Bool) : State :=
  let t := s.updChan c chan fun k => { k with disable := v }
  if v then t.dropChannel c chan else t

/-- The queue whose status word lies at an offset of the queues' block: the mailboxes, the MDP receive path, the event queues of the dies (DESIGN CHOICE, log 156). -/
def queueAt (o : Nat) : Option QueueRef :=
  match o with
  | 0x00 => some .mailToAoc
  | 0x08 => some .mailToHost
  | 0x10 => some .mdpRx
  | _ => if 0x200 ≤ o ∧ o < 0x400 ∧ o % 8 = 0 then some (.events ((o - 0x200) / 8)) else none

/-- `ch_disable` written by the control core, whose ra[0] is the value, or by firmware. -/
def State.chctlBy (s : State) (c chan : Nat) (src : ChSource) (v : Bool) : Res :=
  match src with
  | .core ra => s.onCore c fun s => (s.chctl c chan (bit1 (s.reg c ra).toNat 0)).pcStep c 4
  | .firmware => if s.padsOpen then .next ((s.woken c).chctl c chan v) else .next s

/-- CHCTL_DISABLE. -/
def execChctlDisable (c : Nat) (chan : BitVec 4) (src : ChSource) (s : State) : Res := s.chctlBy c chan.toNat src true

/-- CHCTL_ENABLE. -/
def execChctlEnable (c : Nat) (chan : BitVec 4) (src : ChSource) (s : State) : Res := s.chctlBy c chan.toNat src false

/-! ### Carried rows (R405) -/

/-- CARRY sN: bit [24] sets or clears rows of the partition's carried map. -/
def State.carryOp (s : State) (c : Nat) (v : Nat) : State :=
  let row := bits v 0 12
  let n := bits v 12 12 + 1
  if bits v 25 39 ≠ 0 ∨ 4096 < row + n then s.failCore c stTimetable
  else
    let p := ((s.cl c).run.map (·.part)).getD 0
    (s.updCl c fun cl =>
      let m := Tab.look cl.carried 0 p
      { cl with carried := Tab.put cl.carried 0 p (if bit1 v 24 then m ||| rowMask row n else m &&& ~~~ rowMask row n) }).pcStep c 4

/-- CARRY_SET. -/
def execCarrySet (c : Nat) (ra : Reg) (s : State) : Res := s.onCore c fun s => s.carryOp c (s.reg c ra).toNat

/-- CARRY_CLEAR. -/
def execCarryClear (c : Nat) (ra : Reg) (s : State) : Res := s.onCore c fun s => s.carryOp c (s.reg c ra).toNat

/-! ### Counter waits (R53, R56) -/

/-- WAIT_RELEASE: the counter has reached the value waited for, by the control core or by a waybill at the head of its siding (DEDUCED, log 37). -/
def execWaitRelease (c : Nat) (station : Option Nat) (chan : Nat) (s : State) : Res :=
  match station with
  | none =>
    (match (s.cl c).core.stall, (s.cl c).run with
     | some (n, v), some r =>
       if v ≤ s.dcOf c n ∧ !r.stopped ∧ !r.ended then .next ((s.updCore c fun k => { k with stall := none }).pcStep c 4) else .next s
     | _, _ => .next s)
  | some st =>
    match s.headWb c st chan with
    | some e =>
      if e.phase = .waiting ∧ fld e.wb 86 16 ≤ s.dcOf c (fld e.wb 81 5) then .next (s.updWb c st chan fun e => { e with phase := .ready })
      else .next s
    | none => .next s

/-- WAIT_TIMEOUT: a wait longer than `0x2020.01` ms ends the consignment with WAIT_TIMEOUT; 0 disables the limit (DESIGN CHOICE, log 4, DEDUCED, log 48). -/
def execWaitTimeout (c : Nat) (station : Option Nat) (chan elapsedMs : Nat) (s : State) : Res :=
  let lim := s.cfg 0x2020 1
  if lim = 0 ∨ elapsedMs ≤ lim then .next s else
  match station with
  | none =>
    (match (s.cl c).core.stall with
     | some (n, v) => if s.dcOf c n < v then .next (s.failCore c stWaitTimeout) else .next s
     | none => .next s)
  | some st =>
    match s.headWb c st chan with
    | some e =>
      if e.phase = .waiting ∧ s.dcOf c (fld e.wb 81 5) < fld e.wb 86 16 then .next (s.failWb c st e stWaitTimeout 0xFFFF 0xFFFF) else .next s
    | none => .next s

end Sys2Proof.Machine
end

