-- ==== Sys2Proof/Machine/Pass.lean ====
section
/-! DEFINITION. The Matrix Station and the Sparse Station (R105 to R129, R144 to R158): drain blocks, accumulation, passes, the fused
drain, the verdict at the end of a pass. -/

namespace Sys2Proof.Machine

/-! ### Segment tables (R120) -/

/-- A segment: `x_lo`, `c0`, `c1`, `c2`. -/
structure Seg where
  lo : Word32
  c0 : Word32
  c1 : Word32
  c2 : Word32
  deriving DecidableEq, Repr

/-- Segments of a table. -/
def segsOf (n : Nat) (bs : List Byte) : List Seg :=
  (piecesOf 16 n bs).map fun p =>
    let v := leNat p
    { lo := BitVec.ofNat 32 (bits v 0 32), c0 := BitVec.ofNat 32 (bits v 32 32), c1 := BitVec.ofNat 32 (bits v 64 32), c2 := BitVec.ofNat 32 (bits v 96 32) }

/-- Smaller, of two FP32 words that are not NaN. -/
def flt (a b : Word32) : Bool := ltV (f32Val a) (f32Val b)

/-- Boundaries of segments 1 onwards are finite and strictly increasing; that of segment 0 is ±0 (R120). -/
def segsOk : List Seg → Bool
  | [] => true
  | s :: rest => (s.lo == 0 || s.lo == 0x80000000) && rest.all (fun x => finite32 x.lo) &&
      decide (rest.Pairwise fun a b => flt a.lo b.lo = true)

/-- A table's value at v (R120), with the flags of its steps. -/
def segEval (segs : List Seg) (limNeg limPos v : Word32) : Word32 × Byte :=
  match f32Val v with
  | .nan s => (0x7FC00000, if s then fNV else 0)
  | .inf true => (limNeg, 0)
  | .inf false => (limPos, 0)
  | _ =>
    let g := segs.tail.foldl (fun best x => if !flt v x.lo then x else best) (segs.headD { lo := 0, c0 := 0, c1 := 0, c2 := 0 })
    let a := fmul g.c2 v
    let b := fadd a.1 g.c1
    let d := fmul b.1 v
    let e := fadd d.1 g.c0
    (e.1, a.2 ||| b.2 ||| d.2 ||| e.2)

/-! ### Drain blocks (R118 to R120, R157) -/

/-- A drain block. -/
structure Drain where
  h : Nat
  segs : List Seg
  deriving DecidableEq, Repr

/-- A block from its bytes; an empty slot is all zeros. -/
def Drain.ofBytes (bs : List Byte) : Drain :=
  let h := leNat (bs.take 64)
  { h := h, segs := segsOf (min 64 (bits h 9 7)) (bs.drop 64) }

def Drain.outScale (d : Drain) : Word32 := BitVec.ofNat 32 (bits d.h 32 32)
def Drain.accBf16 (d : Drain) : Bool := bit1 d.h 8

/-- MX output: set, or forced by a format that is always MX-scaled. -/
def Drain.mxOut (d : Drain) (fmt : Nat) : Bool := bit1 d.h 6 || alwaysMx fmt

/-- What DRAINCFG accepts (R119); SDRAINCFG also refuses `acc_bf16` (R157). -/
def drainOk (bs : List Byte) (sparse : Bool) : Bool :=
  let d := Drain.ofBytes bs
  let n := bits d.h 9 7
  bits d.h 16 16 == 0 && bits d.h 234 22 == 0 && bits d.h 298 22 == 0 && bits d.h 362 150 == 0 &&
  (!bit1 d.h 2 || (decide (1 ≤ n) && decide (n ≤ 64))) && !(bit1 d.h 3 && bit1 d.h 4) &&
  (d.outScale == 0 || scaleOk d.outScale) && segsOk d.segs && (bs.drop (64 + 16 * min 64 n)).all (· == 0) && !(sparse && d.accBf16)

/-- A block loaded into a slot: it waits for the waybills that name the slot; a misaligned address or a refused block ends the consignment
with TIMETABLE_FAULT and leaves the slot (R118) (DEDUCED, log 38). -/
def State.loadSlot (s : State) (c : Nat) (va len : Nat) (busy : WbEntry → Bool) (st : Nat) (ok : List Byte → Bool)
    (put : List Byte → Stations → Stations) : State :=
  if va % 64 ≠ 0 then s.failCore c stTimetable
  else if (s.siding c st).any busy then s
  else
    let r := Job.exec (readVa s (s.ctxOf c) va len)
    if waits r.1 then s else
    let t := s.settle r.2
    match r.1 with
    | .error e => t.failCore c e
    | .ok bs => if ok bs then (t.updSt c (put (if bs.all (· == 0) then [] else bs))).pcStep c 4 else t.failCore c stTimetable

/-- DRAINCFG. -/
def execDraincfg (c : Nat) (d : BitVec 3) (ra : Reg) (s : State) : Res :=
  s.onCore c fun s => s.loadSlot c (s.reg c ra).toNat 1088 (fun e => bits (wbOp e.wb) 2 3 == d.toNat) 2 (fun b => drainOk b false)
    fun b x => { x with drainSlots := Tab.put x.drainSlots [] d.toNat b }

/-- SDRAINCFG. -/
def execSdraincfg (c : Nat) (d : BitVec 2) (ra : Reg) (s : State) : Res :=
  s.onCore c fun s => s.loadSlot c (s.reg c ra).toNat 1088 (fun e => bits (wbOp e.wb) 2 2 == d.toNat) 3 (fun b => drainOk b true)
    fun b x => { x with sdrainSlots := Tab.put x.sdrainSlots [] d.toNat b }

/-! ### Passes (R110 to R113, R154 to R156) -/

/-- What a waybill of either station asks for. -/
structure Pass where
  sparse : Bool
  mode : Nat
  drain : Drain
  nT : Nat
  rows : Nat
  cols : Nat
  kw : Nat
  src : Strm
  dst : Strm
  hdr : Bool
  bOff : Int
  bS0 : Int
  bS1 : Int
  psum : Int
  wTrans : Bool
  epoch : Nat
  rnd : Nat
  deriving Repr

/-- The pass of a waybill. -/
def State.passOf (s : State) (c st : Nat) (w : Desc) : Pass :=
  let op := wbOp w
  if st = 2 then
    { sparse := false, mode := bits op 0 2, drain := Drain.ofBytes (Tab.look (s.cl c).st.drainSlots [] (bits op 2 3)), nT := bits op 5 3 + 1,
      rows := wbRows w, cols := wbCols w, kw := 128, src := srcOf w, dst := dstOf w, hdr := fld w 483 1 == 1,
      bOff := 64 * signed 18 (fld w 432 18), bS0 := 2048 * signed 12 (fld w 450 12), bS1 := 2048 * signed 12 (fld w 462 12),
      psum := 32768 * signed 9 (fld w 474 9), wTrans := false, epoch := wbEpoch w, rnd := wbRnd w }
  else
    { sparse := true, mode := bits op 0 2, drain := Drain.ofBytes (Tab.look (s.cl c).st.sdrainSlots [] (bits op 2 2)), nT := bits op 4 3 + 1,
      rows := wbRows w, cols := wbCols w, kw := fld w 456 13, src := srcOf w, dst := dstOf w, hdr := true,
      bOff := 64 * signed 24 (fld w 432 24), bS0 := 0, bS1 := 0, psum := 32768 * signed 9 (fld w 469 9),
      wTrans := bit1 op 7, epoch := wbEpoch w, rnd := wbRnd w }

/-- Bytes of an accumulator. -/
def Pass.accBytes (p : Pass) : Nat := if p.drain.accBf16 then 2 else 4

/-- Slots C (R112). -/
def slotsC (cols accBytes : Nat) : Nat := min 8 (262144 / (128 * (if cols ≤ 64 then 64 else 128) * accBytes))

/-- The A base address (R113): the source's address field, as the waybill gives it. -/
def Pass.aBase (p : Pass) : Int := 64 * (p.src.addr : Int)

/-- The partial-sum tile of output tile q (R111). -/
def Pass.psumAt (p : Pass) (q : Nat) : Int :=
  p.aBase + p.psum + (q * 2048 * ceilDiv (p.rows * p.cols * p.accBytes) 2048 : Nat)

/-! ### Accumulation (R34, R35) -/

/-- The exact sum of a group of products: an exact zero is +0; NaN for a NaN or opposite infinities. -/
def groupSum (ps : List (Val × Byte)) : Val × Byte :=
  let fl := ps.foldl (fun f p => f ||| p.2) 0
  let pos := ps.any fun p => p.1 == .inf false
  let neg := ps.any fun p => p.1 == .inf true
  let fl := if pos && neg then fl ||| fNV else fl
  if ps.any (fun p => isNanV p.1) || (pos && neg) then (.nan false, fl)
  else if pos then (.inf false, fl)
  else if neg then (.inf true, fl)
  else
    match ps.foldl (fun (v : Val) (p : Val × Byte) =>
        match v, p.1 with
        | .fin a m e, .fin b k f => addFin a m e b k f
        | w, _ => w) (Val.fin false 0 0) with
    | Val.fin _ 0 _ => (Val.fin false 0 0, fl)
    | v => (v, fl)

/-- Kinds of accumulator: 0 FP32, 1 BF16, 2 INT32 (R35, R122). -/
abbrev AccKind := Nat

/-- An accumulator's value. -/
def accVal (k : AccKind) (a : Nat) : Val :=
  match k with
  | 1 => flDecode (flOf 1) true a
  | 2 => let v := signed 32 a; .fin (decide (v < 0)) v.natAbs 0
  | _ => f32Val (BitVec.ofNat 32 a)

/-- A saturating INT32 result, raising OF and SAT (R35). -/
def sat32 (v : Int) : Nat × Byte :=
  if v < -(2 ^ 31 : Int) then (2 ^ 31, fOF ||| fSAT)
  else if (2 ^ 31 - 1 : Int) < v then (2 ^ 31 - 1, fOF ||| fSAT)
  else ((v % (2 ^ 32 : Int)).toNat, 0)

/-- A finite whole value as an integer. -/
def intOf : Val → Int
  | .fin n m e => (if n then -1 else 1) * ((m * 2 ^ e.toNat / 2 ^ (-e).toNat : Nat) : Int)
  | _ => 0

/-- A group sum added into an accumulator with a single rounding (R34, R35, R122). -/
def accAdd (k : AccKind) (a : Nat) (g : Val × Byte) : Nat × Byte :=
  match k with
  | 2 => let r := sat32 (signed 32 a + intOf g.1); (r.1, r.2 ||| g.2)
  | 1 => let r := addV (accVal 1 a) g.1; let e := (flOf 1).encode rne false false r.1; (e.1, e.2 ||| r.2 ||| g.2)
  | _ => let r := addV (accVal 0 a) g.1; let e := flF32.encode rne false false r.1; (e.1, e.2 ||| r.2 ||| g.2)

/-- Groups added one after another. -/
def accRun (k : AccKind) (a : Nat × Byte) (gs : List (Val × Byte)) : Nat × Byte :=
  gs.foldl (fun a g => let r := accAdd k a.1 g; (r.1, r.2 ||| a.2)) a

/-- Two accumulators added, as the merge unit does (R151). -/
def accMerge (k : AccKind) (a b : Nat × Byte) : Nat × Byte :=
  let r := accAdd k a.1 (accVal k b.1, b.2)
  (r.1, r.2 ||| a.2)

/-- One output element over one K tile: `pieces` are the group ranges of the row's plan, one range for an unsplit row; `prods g` are the
products of group g. Piece 0 starts from the accumulator, the others from +0, and the tree of R151 merges them. -/
def accElem (k : AccKind) (a : Nat × Byte) (pieces : List (Nat × Nat)) (prods : Nat → List (Val × Byte)) : Nat × Byte :=
  let run (st : Nat × Byte) (p : Nat × Nat) : Nat × Byte := accRun k st ((List.range (p.2 - p.1)).map fun i => groupSum (prods (p.1 + i)))
  match pieces with
  | [] => a
  | p :: ps => treeSum (accMerge k) (0, 0) 16 (run a p :: ps.map (run (0, 0)))

/-! ### The tiles of a pass -/

/-- The codes a role admits: the waybill's, or DENSE demoted from it (R143). A role that takes DENSE takes any tile whose `sparse`
is 0, demoted or not (DEDUCED) (DEDUCED, log 61). -/
def codeOk (h : Hdr) (sp : Nat) : Bool := h.sparse == sp || (h.demoted && h.orig == sp)

/-- A tile at an address of the own scratchpad, with or without a header. -/
def ownTile (s : State) (x : XCtx) (c : Nat) (va : Int) (hdr : Bool) (fmt rows cols : Nat) (kd : Bool) (ok : Hdr → Bool) : Job Tile := do
  Job.require (decide (0 ≤ va)) stXlate
  if hdr then parseTile (rdOwn s x c va.toNat) fmt fun h => h.rows == rows && h.cols == cols && h.kDown == kd && ok h
  else parseBare (rdOwn s x c va.toNat) fmt rows cols kd

/-- A tile (k, m): the source descriptor's, through its owner table (R113, R156, R279). -/
def passA (s : State) (x : XCtx) (c : Nat) (p : Pass) (k m : Nat) : Job Tile := do
  let mM := maxObject p.src.fmt p.rows p.kw p.hdr
  match ← locOf s x p.src k m mM with
  | .here va => ownTile s x c va p.hdr p.src.fmt p.rows p.kw false fun h => codeOk h (if p.sparse then p.src.sparse else 0)
  | .absent => do
    Job.require (!p.hdr) stTile
    pure (bareOf p.src.fmt p.rows p.kw false (List.replicate (denseSize p.src.fmt p.rows p.kw) 0))
  | .far .. => Job.fail stXlate

/-- B tile (k, n) of the Matrix Station (R113). -/
def matrixB (s : State) (x : XCtx) (c : Nat) (p : Pass) (k n : Nat) : Job Tile :=
  ownTile s x c (p.aBase + p.bOff + k * p.bS0 + n * p.bS1) p.hdr p.src.fmt 128 p.cols true
    fun h => codeOk h p.src.sparse

/-- W tile (k, n) of the Sparse Station, found through the index of U32 offsets (R156); under `w_trans`, the stored tile's transpose (R176). Its
stored lane plan is then not used (R177), yet an invalid one still fails the tile (R142) (DESIGN CHOICE, log 173). -/
def sparseW (s : State) (x : XCtx) (c : Nat) (p : Pass) (k n : Nat) : Job Tile := do
  let idx := p.aBase + p.bOff
  let e := idx + 4 * (k * p.nT + n : Nat)
  Job.require (decide (0 ≤ e)) stXlate
  let off := leNat (← rdOwnAll s x c e.toNat 4)
  let va := idx + 64 * (off : Int)
  let role (h : Hdr) : Bool := h.sparse == 3 || h.sparse == 4 || (h.demoted && (h.orig == 3 || h.orig == 4))
  if p.wTrans then do
    let t ← ownTile s x c va true p.src.fmt p.kw p.cols false fun h => role h && !h.mx
    let perm (e : Nat) : Nat := (e % p.kw) * p.cols + e / p.kw
    let N := p.kw * p.cols
    let mask := ((List.range N).map fun e => t.mask.getD (perm e) false).toArray
    pure { hdr := { t.hdr with rows := p.cols, cols := p.kw }, codes := ((List.range N).map fun e => t.codes.getD (perm e) 0).toArray,
           mask := mask, planL := buildPlan p.cols p.kw mask }
  else ownTile s x c va true p.src.fmt p.cols p.kw false role

/-- The value of B or W at reduction index k for output column n, and whether it is mask-on. -/
def Pass.bAt (p : Pass) (t : Tile) (k n : Nat) : Option Val :=
  let e := if p.sparse then n * p.kw + k else k * p.cols + n
  if t.mask.getD e false then some (t.val e) else none

/-- Activation rows of an m-group (R146). -/
def groupRows (fmt : Nat) : Nat := if fmt = 1 ∨ fmt = 2 then 8 else 16

/-- The table runs in direct mode (R146). -/
def Pass.direct (p : Pass) (as : List Tile) : Bool :=
  as.all (fun t => t.hdr.sparse == 0 && !t.hdr.mask) && decide (p.src.len0 * p.kw ≤ 4096)

/-- The Sparse Station finds reduction index k in the table of row r's m-group (R146, R148). -/
def Pass.keyIn (p : Pass) (a : Tile) (r k : Nat) : Bool :=
  let g := groupRows p.src.fmt
  (List.range g).any fun i => a.mask.getD ((r / g * g + i) * p.kw + k) false && decide (r / g * g + i < p.rows)

/-- The pieces of output column n under a W tile's plan; one piece without (R149). -/
def Pass.piecesFor (p : Pass) (t : Tile) (n : Nat) : List (Nat × Nat) :=
  let G := ceilDiv p.kw 32
  if !p.sparse then [(0, if p.src.fmt = 0 then p.kw else G)]
  else match rowPieces t.planL n with
    | [] => [(0, G)]
    | ps => ps.map fun e => (e.gs, e.ge)

/-- The products of a group of one output element: those of elements that are mask-on in both operands (R34, R39, R40, R148). -/
def Pass.prods (p : Pass) (direct : Bool) (a b : Tile) (r n g : Nat) : List (Val × Byte) :=
  let gs := if !p.sparse && p.src.fmt == 0 then 1 else 32
  (List.range (min gs (p.kw - g * gs))).filterMap fun i =>
    let k := g * gs + i
    match p.bAt b k n with
    | some v => if (p.sparse && !direct && !p.keyIn a r k) || !a.mask.getD (r * p.kw + k) false then none else some (mulV (a.val (r * p.kw + k)) v)
    | none => none

/-- Cuts of the hashed table for keys in increasing order (R147). -/
def cutsOf : Nat → List Nat → Nat
  | 0, _ => 0
  | fuel + 1, ks =>
    let r := ks.foldl (fun (st : Option Nat × Array Nat × Nat) k =>
      match st with
      | (some k, t, n) => (some k, t, n)
      | (none, t, n) =>
        let i := (k * 40503) % 65536 / 64
        if t.getD i 0 < 4 then (none, t.setIfInBounds i (t.getD i 0 + 1), n)
        else if n < 64 then (none, t, n + 1) else (some k, t, n)) (none, Array.replicate 1024 0, 0)
    match r.1 with
    | some k => 1 + cutsOf fuel (ks.filter fun j => k / 32 * 32 ≤ j)
    | none => 0

/-- Table cuts of an output tile: over its m-groups, the keys of the pass (R146, R147). -/
def Pass.cuts (p : Pass) (as : List Tile) : Nat :=
  if !p.sparse || p.direct as then 0 else
  let g := groupRows p.src.fmt
  ((List.range (ceilDiv p.rows g)).map fun i =>
    let keys := (as.zipIdx).flatMap fun (a : Tile × Nat) => ((List.range p.kw).filter fun k => p.keyIn a.1 (i * g) k).map fun k => a.2 * p.kw + k
    cutsOf (keys.length / 32 + 2) keys).sum

/-! ### The drain (R121 to R124) -/

/-- The tail of R121 for one element: scale, column scale, bias, saved bit, activation, derivative. Returns the value, the flags with which its accumulator
entered, and the saved bit: these steps raise none, since a waybill's flags are those of R34, R35 and the conversions of R121 and R122 (R129)
(DEDUCED, log 58). -/
def drainElem (d : Drain) (sc : Word32) (acc : Word32 × Byte) (cs bias : Word32) (bit : Bool) : (Word32 × Byte) × Bool :=
  let step (f : Word32 → Word32 × Byte) (on : Bool) (v : Word32 × Byte) : Word32 × Byte :=
    if on then ((f v.1).1, v.2) else v
  let v := step (fun v => fmul v sc) true acc
  let v := step (fun v => fmul v cs) (bit1 d.h 0) v
  let v := step (fun v => fadd v bias) (bit1 d.h 1) v
  let saved := !nan32 v.1 && flt 0 v.1
  let v := step (fun v => segEval d.segs (BitVec.ofNat 32 (bits d.h 128 32)) (BitVec.ofNat 32 (bits d.h 160 32)) v) (bit1 d.h 2) v
  let v := step (fun v => fmul v (BitVec.ofNat 32 (if bit then bits d.h 96 32 else bits d.h 64 32))) (bit1 d.h 3) v
  (v, saved)

/-- INT32 goes straight to INT8 or INT4 (R122). -/
def directInt (d : Drain) (kind : AccKind) (dstFmt : Nat) (ta tb : Word32) : Bool :=
  kind == 2 && (dstFmt == 8 || dstFmt == 9) && ta == f32One && tb == f32One && bits d.h 0 5 == 0 && d.outScale == 0 && !bit1 d.h 6 

/-- A vector of FP32 words of column-tile n (R123). -/
def colVector (s : State) (x : XCtx) (c : Nat) (on : Bool) (addr n cols : Nat) : Job (Array Word32) :=
  if on then do
    let bs ← rdOwnAll s x c (64 * addr + 4 * (n * cols)) (4 * cols)
    pure ((piecesOf 4 cols bs).map fun b => BitVec.ofNat 32 (leNat b)).toArray
  else pure #[]

/-- The saved bits of output tile q (R123). -/
def bitsArea (addr q rows cols : Nat) : Nat := 64 * addr + q * 64 * ceilDiv (rows * cols) 512

/-! ### Checksums (R125, R126, R153) -/

/-- A value as a term of a sum. -/
def ChkSum.of : Val → ChkSum
  | .fin n m e => { num := if n then -(m : Int) else m, exp := e }
  | _ => { ok := false }

/-- The numerator over a lower exponent. -/
def ChkSum.over (a : ChkSum) (e : Int) : Int := a.num * (2 ^ (a.exp - e).toNat : Nat)

def ChkSum.add (a b : ChkSum) : ChkSum :=
  let e := min a.exp b.exp
  { ok := a.ok && b.ok, num := a.over e + b.over e, exp := e }

def ChkSum.mul (a b : ChkSum) : ChkSum := { ok := a.ok && b.ok, num := a.num * b.num, exp := a.exp + b.exp }

def ChkSum.abs (a : ChkSum) : ChkSum := { a with num := a.num.natAbs }

/-- A sum, and the sum of its magnitudes, of terms by index. -/
def chkTotal (n : Nat) (f : Nat → ChkSum) : ChkSum × ChkSum :=
  (List.range n).foldl (fun a i => (a.1.add (f i), a.2.add (f i).abs)) ({}, {})

/-- Sums of pairs of sums. -/
def chkPlus (a b : ChkSum × ChkSum) : ChkSum × ChkSum := (a.1.add b.1, a.2.add b.2)

/-- Output rows that a checksum of a column takes in: all of them, or those of an m-group (R125, R153). -/
def Pass.chkRows (p : Pass) : Nat := if p.sparse then groupRows p.src.fmt else p.rows

/-- Groups of output rows. -/
def Pass.chkGroups (p : Pass) : Nat := ceilDiv p.rows (max 1 p.chkRows)

/-- Elements of A and of B or W as terms: a masked-off element counts as zero (R125). -/
def Pass.aTerm (p : Pass) (a : Tile) (r k : Nat) : ChkSum := if r < p.rows then ChkSum.of (a.val (r * p.kw + k)) else {}

def Pass.bTerm (p : Pass) (b : Tile) (k n : Nat) : ChkSum := match p.bAt b k n with | some v => ChkSum.of v | none => {}

/-- What a pair of operand tiles adds to chk and mag of row r: Σ a_rk × bsum_k (R125). -/
def Pass.rowChk (p : Pass) (a b : Tile) (r : Nat) : ChkSum × ChkSum :=
  (List.range p.kw).foldl (fun t k =>
    let bs := chkTotal p.cols fun n => p.bTerm b k n
    chkPlus t ((p.aTerm a r k).mul bs.1, (p.aTerm a r k).abs.mul bs.2)) ({}, {})

/-- A probe for reduction index k of column n finds its entry in the table of group g: the weight is stored, and the table holds k (R148, R153). -/
def Pass.probes (p : Pass) (dir : Bool) (a b : Tile) (k n g : Nat) : Bool := (p.bAt b k n).isSome && (dir || p.keyIn a (g * p.chkRows) k)

/-- What it adds to those of column n over the rows of group g: Σ asum_k × b_kn, on the Sparse Station over the probes that match (R125, R153). -/
def Pass.colChk (p : Pass) (dir : Bool) (a b : Tile) (n g : Nat) : ChkSum × ChkSum :=
  (List.range p.kw).foldl (fun t k =>
    if p.sparse && !p.probes dir a b k n g then t else
    let as := chkTotal p.chkRows fun i => p.aTerm a (g * p.chkRows + i) k
    chkPlus t (as.1.mul (p.bTerm b k n), as.2.mul (p.bTerm b k n).abs)) ({}, {})

/-- Sums of accumulators of one row, and of one column over the rows of group g; with magnitudes they seed the checksums of a preloaded tile (R125). -/
def Pass.rowAcc (p : Pass) (kind : AccKind) (acc : Nat → Nat) (r : Nat) : ChkSum × ChkSum :=
  chkTotal p.cols fun n => ChkSum.of (accVal kind (acc (r * p.cols + n)))

def Pass.colAcc (p : Pass) (kind : AccKind) (acc : Nat → Nat) (n g : Nat) : ChkSum × ChkSum :=
  chkTotal p.chkRows fun i => let r := g * p.chkRows + i; if r < p.rows then ChkSum.of (accVal kind (acc (r * p.cols + n))) else {}

/-- ⌈log2 v⌉. -/
def clog2 (v : Nat) : Nat := if v ≤ 1 then 0 else Nat.log2 (v - 1) + 1

/-- A sum that rounds to an FP32 infinity. -/
def ChkSum.huge (a : ChkSum) : Bool := decide ((2 ^ 128 - 2 ^ 103 : Nat) * 2 ^ (-a.exp).toNat ≤ a.num.natAbs * 2 ^ a.exp.toNat)

/-- |S − chk| ≤ 2^−T × mag for one row or column of an FP32 or BF16 tile (R126). Exempt when something is not finite. Up to the bound that R126 gives, a
tile computed without fault passes. The order in which the device sums, at 48 bits or more, is not disclosed: where its rounding decides the test the
outcome is a free value (DEDUCED, log 164). -/
def chkTest (T prec g : Nat) (S chk mag : ChkSum) (at_ : Int) : Bool :=
  if !S.ok || !chk.ok || !mag.ok || S.huge || chk.huge || mag.huge then true else
  let e := min S.exp (min chk.exp mag.exp)
  let d := (S.over e - chk.over e).natAbs
  let m := (mag.over e).natAbs
  let slack := (S.over e).natAbs + (chk.over e).natAbs + m
  if T + clog2 (g + 1) ≤ prec && decide (d * 2 ^ prec ≤ (g + 1) * m) then true
  else if d * 2 ^ (T + 22) + slack * 2 ^ T ≤ m * 2 ^ 22 then true
  else if m * 2 ^ 22 + slack * 2 ^ T < d * 2 ^ (T + 22) then false
  else (Config.unstated 4 [T, prec, g, S.num, S.exp, chk.num, chk.exp, mag.num, mag.exp, at_]).getLsbD 0

/-- One row or column, by the kind of accumulator: INT32 sums are equal, unless an addition has saturated (R126). -/
def lineTest (kind : AccKind) (T g : Nat) (S chk mag : ChkSum) (sat : Bool) (at_ : Int) : Bool :=
  if kind = 2 then (sat || !S.ok || !chk.ok || S.over (min S.exp chk.exp) == chk.over (min S.exp chk.exp))
  else chkTest T (if kind = 1 then 8 else 24) g S chk mag at_

/-- The verdict of a tile: every row, for the Matrix Station, and every column passes its test (R126, R153). -/
def State.verdict (s : State) (p : Pass) (d : DrainTile) : Bool :=
  let T := s.cfg 0x2040 (if d.kind = 1 then 2 else 1)
  let acc := d.acc.toArray
  let at_ (i : Nat) : Nat := (acc.getD i (0, 0)).1
  let sat (i : Nat) : Bool := (acc.getD i (0, 0)).2 &&& fSAT != 0
  let rows := d.rowChk.zipIdx.all fun x =>
    lineTest d.kind T d.adds (p.rowAcc d.kind at_ x.2).1 x.1.1 x.1.2 ((List.range p.cols).any fun n => sat (x.2 * p.cols + n)) x.2
  let cols := d.colChk.zipIdx.all fun x =>
    let n := x.2 / p.chkGroups
    let g := x.2 % p.chkGroups
    lineTest d.kind T d.adds (p.colAcc d.kind at_ n g).1 x.1.1 x.1.2
      ((List.range p.chkRows).any fun i => decide (g * p.chkRows + i < p.rows) && sat ((g * p.chkRows + i) * p.cols + n)) (-1 - x.2)
  rows && cols

/-! ### A pass (R113, R114, R125) -/

/-- The operand tiles of index k for output tile (n, m), the B tile's mask epoch checked (R113, R156, R162). -/
def passB (s : State) (x : XCtx) (c : Nat) (p : Pass) (k n : Nat) : Job Tile := do
  let b ← if p.sparse then sparseW s x c p k n else matrixB s x c p k n
  Job.require (p.epoch == 0 || b.hdr.epoch == p.epoch) stMaskEpoch
  pure b

/-- The accumulator kind that the first A tile and the first B tile of a pass fix (R35) (DEDUCED, log 54). -/
def passKind (p : Pass) (a b : Tile) : AccKind :=
  if p.drain.accBf16 then 1 else if (p.src.fmt = 8 ∨ p.src.fmt = 9) ∧ !a.hdr.mx ∧ !b.hdr.mx then 2 else 0

/-- A slot that the first pair of a pass opens: its accumulators are preloaded or +0, its checksums seeded with them (R113, R125). -/
def Pass.openSlot (p : Pass) (e : WbEntry) (m n : Nat) (raw : Array Nat) (a b : Tile) : DrainTile :=
  let kind := passKind p a b
  let at_ (i : Nat) : Nat := raw.getD i 0
  { seq := e.seq, wbTag := wbTag e.wb, m := m, n := n, room := 128 * (if p.cols ≤ 64 then 64 else 128) * p.accBytes, kind := kind,
    acc := (List.range (p.rows * p.cols)).map fun i => (at_ i, 0), ta := a.tOf, tb := b.tOf,
    rowChk := if p.sparse then [] else (List.range p.rows).map fun r => p.rowAcc kind at_ r,
    colChk := (List.range (p.cols * p.chkGroups)).map fun i => p.colAcc kind at_ (i / p.chkGroups) (i % p.chkGroups) }

/-- A pair of operand tiles fits the pass: the scales of the first pair (R121), and no MX scaling in an INT32 pass (R35). -/
def DrainTile.fits (d : DrainTile) (a b : Tile) : Bool := a.tOf == d.ta && b.tOf == d.tb && (d.kind != 2 || (!a.hdr.mx && !b.hdr.mx))

/-- A pair of operand tiles multiplied into a slot, with the checksum cells beside it (R34, R125, R148). g counts the additions that each accumulator really
makes, of which FP32 operands make more than 128 (R126) (DESIGN CHOICE, log 204). -/
def Pass.addPair (p : Pass) (dir : Bool) (a b : Tile) (d : DrainTile) : DrainTile :=
  let longest := ((List.range p.cols).map fun n => (p.piecesFor b n).length).foldl max 1
  { d with
    acc := d.acc.zipIdx.map fun x =>
      accElem d.kind x.1 (p.piecesFor b (x.2 % p.cols)) (p.prods dir a b (x.2 / p.cols) (x.2 % p.cols))
    rowChk := d.rowChk.zipIdx.map fun x => chkPlus x.1 (p.rowChk a b x.2)
    colChk := d.colChk.zipIdx.map fun x => chkPlus x.1 (p.colChk dir a b (x.2 / p.chkGroups) (x.2 % p.chkGroups))
    adds := d.adds + (if !p.sparse && p.src.fmt == 0 then p.kw else ceilDiv p.kw 32) + clog2 longest }

/-- The partial-sum tile that output tile q preloads (R111). -/
def passPreload (s : State) (x : XCtx) (c : Nat) (p : Pass) (q : Nat) : Job (Array Nat) := do
  let N := p.rows * p.cols
  if p.mode = 2 ∨ p.mode = 3 then
    Job.require (decide (0 ≤ p.psumAt q)) stXlate
    let b ← rdOwnAll s x c (p.psumAt q).toNat (N * p.accBytes)
    pure ((piecesOf p.accBytes N b).map leNat).toArray
  else pure #[]

/-- The tile in progress, as a failure reports it (R74) (DEDUCED, log 62). -/
def passAt (i j : Nat) : Job Unit := Job.note fun a => { a with i := i, j := j }

/-- One pair taken into the slot of column-tile n; the flags it has raised stand if a later pair fails (R36). -/
def passPair (s : State) (x : XCtx) (c : Nat) (p : Pass) (e : WbEntry) (m k : Nat) (dir : Bool) (a : Tile) (raw : Nat → Array Nat) (n : Nat) (d : Option DrainTile) : Job DrainTile := do
  let b ← (passB s x c p k n).asSource
  let d := d.getD (p.openSlot e m n (raw n) a b)
  Job.require (d.fits a b) stTile
  let d := p.addPair dir a b d
  Job.flag (d.acc.foldl (fun f a => f ||| a.2) 0)
  pure d

/-- Column-tiles `ns` of group m on the Matrix Station: each A tile, in increasing k, against the B tiles of all of them; it is read once (R113). -/
def matrixGroup (s : State) (x : XCtx) (c : Nat) (p : Pass) (e : WbEntry) (m : Nat) (ns : List Nat) (raw : Nat → Array Nat) : Job (List DrainTile) := do
  let ds ← Job.fold (fun (ds : List (Nat × Option DrainTile)) k => do
    passAt k m
    let a ← (passA s x c p k m).asSource
    Job.map (fun (d : Nat × Option DrainTile) => do
      let d' ← passPair s x c p e m k true a raw d.1 d.2
      pure (d.1, some d')) ds) (ns.map fun n => (n, none)) (List.range p.src.len0)
  pure (ds.filterMap fun d => d.2)

/-- Column-tiles of group m on the Sparse Station, one output tile after another: its A tiles fill the tables, whose cuts count, then the lanes take
its W tiles in increasing k (R146 to R148, R156) (DEDUCED, log 165). -/
def sparseGroup (s : State) (x : XCtx) (c : Nat) (p : Pass) (e : WbEntry) (m : Nat) (ns : List Nat) (raw : Nat → Array Nat) : Job (List DrainTile) := do
  let ds ← Job.map (fun n => do
    let as ← Job.map (fun k => do
      passAt k m
      (passA s x c p k m).asSource) (List.range p.src.len0)
    Job.count 0x7050 2 (p.cuts as)
    Job.count 0x7050 1 1
    Job.fold (fun (d : Option DrainTile) (ka : Nat × Tile) => do
      passAt ka.1 m
      let d' ← passPair s x c p e m ka.1 (p.direct as) ka.2 raw n d
      pure (some d')) none ((List.range p.src.len0).zip as)) ns
  pure (ds.filterMap id)

/-- Column-tiles of group m: their slots are preloaded or cleared, and their sums formed (R113, R114). -/
def passGroup (s : State) (x : XCtx) (c : Nat) (p : Pass) (e : WbEntry) (m : Nat) (ns : List Nat) : Job (List DrainTile) := do
  let raws ← Job.map (fun n => do
    passAt n m
    passPreload s x c p (m * p.nT + n)) ns
  let raw (n : Nat) : Array Nat := ((ns.zip raws).find? fun r => r.1 == n).map (·.2) |>.getD #[]
  if p.sparse then sparseGroup s x c p e m ns raw else matrixGroup s x c p e m ns raw

/-- The slots of a station's accumulator file that are claimed. -/
def State.slots (s : State) (c st : Nat) : List DrainTile := if st = 2 then (s.cl c).st.drain else (s.cl c).st.sdrain

/-- They change. -/
def State.setSlots (s : State) (c st : Nat) (ds : List DrainTile) : State :=
  s.updSt c fun y => if st = 2 then { y with drain := ds } else { y with sdrain := ds }

/-- `n_tiles` slots of a pass are free: eight slots and 256 KiB in all (R112, R114). -/
def Pass.claims (p : Pass) (ds : List DrainTile) : Bool :=
  decide (ds.length + p.nT ≤ 8) && decide ((ds.map (·.room)).sum + p.nT * (128 * (if p.cols ≤ 64 then 64 else 128) * p.accBytes) ≤ 262144)

/-- The physical ranges of the partial-sum tile of output tile q. -/
def Pass.psumRanges (s : State) (x : XCtx) (p : Pass) (q : Nat) : List (Nat × Nat) :=
  if p.mode = 0 then [] else
  match s.xl x true (p.psumAt q).toNat (p.rows * p.cols * p.accBytes) with
  | .ok ps => ps.map fun y => (y.pa, y.n)
  | .error _ => []

/-- What a waybill's passes and drains read (R128): its A and B tiles, the partial sums that it preloads, its vectors and saved bits. -/
def Pass.operands (s : State) (x : XCtx) (c : Nat) (p : Pass) : List (Nat × Nat) :=
  let reads {α : Type} (j : Job α) : List (Nat × Nat) := (Job.exec j).2.reads.map fun r => (r.1, r.2.1)
  let qs := List.range (p.src.len1 * p.nT)
  let h := p.drain.h
  let fin := p.mode == 0 || p.mode == 3
  ((List.range p.src.len0).flatMap fun k =>
    ((List.range p.src.len1).flatMap fun m => reads (passA s x c p k m)) ++ (List.range p.nT).flatMap fun n => reads (passB s x c p k n)) ++
  qs.flatMap (fun q => reads (passPreload s x c p q)) ++
  (if fin then (List.range p.nT).flatMap (fun n =>
      reads (colVector s x c (bit1 h 0) (bits h 192 42) n p.cols) ++ reads (colVector s x c (bit1 h 1) (bits h 256 42) n p.cols)) ++
    (if bit1 h 3 then qs.flatMap (fun q => reads (rdOwnAll s x c (bitsArea (bits h 320 42) q p.rows p.cols) (ceilDiv (p.rows * p.cols) 8))) else [])
   else [])

/-- The owner table of a stream: its header, and the entries of its tiles (R280). -/
def Strm.table (s : State) (x : XCtx) (t : Strm) : List (Nat × Nat) :=
  let reads {α : Type} (j : Job α) : List (Nat × Nat) := (Job.exec j).2.reads.map fun r => (r.1, r.2.1)
  match t.owner with
  | some p => reads (ownerHeader s x p true) ++ (List.range t.count).flatMap fun n => reads (ownerOf s x p (t.at (t.ij n).1 (t.ij n).2) 1)
  | none => []

/-- What the operands of a waybill hold as it starts (R128), with the owner table that it uses (R280). -/
def State.heldOf (s : State) (c st : Nat) (x : XCtx) (w : Desc) : List (Nat × List Byte) :=
  let ops := if st = 2 ∨ st = 3 then (s.passOf c st w).operands s x c else []
  ((ops ++ (srcOf w).table s x ++ (dstOf w).table s x).dedup).map fun r => (r.1, s.hubRead r.1 r.2)

/-- The station's own writes change no operand in the sense of R128. -/
def State.rehold (s : State) (c st : Nat) (ws : List (Nat × Nat)) : State :=
  s.updSiding c st fun l => l.map fun e => { e with held := e.held.map fun h =>
    if (rangesMeet [(h.1, h.2.length)] ws).isEmpty then h else (h.1, s.hubRead h.1 h.2.length) }

/-- Partial sums written are remembered with their kind (R35). -/
def State.sumsWritten (s : State) (c kind : Nat) (ws : List (Nat × Nat)) : State :=
  s.updCl c fun cl => { cl with sums := (cl.sums.filter fun e => (rangesMeet [(e.1, e.2.2.length)] ws).isEmpty) ++
    (ws.map fun w => (w.1, kind, s.hubRead w.1 w.2)) }

/-- Partial sums that are still as a station wrote them, as accumulators of another kind (R35). -/
def State.otherKind (s : State) (c kind : Nat) (rs : List (Nat × Nat)) : Bool :=
  (s.cl c).sums.any fun e => e.2.1 != kind && s.hubRead e.1 e.2.2.length == e.2.2 && !(rangesMeet [(e.1, e.2.2.length)] rs).isEmpty

/-- A tile just computed: where it writes its partial sums; it is undefined when an operand has changed, or when it preloads partial sums of another kind
(R35, R111, R128) (DESIGN CHOICE, log 205). -/
def State.formed (s : State) (c : Nat) (x : XCtx) (e : WbEntry) (p : Pass) (d : DrainTile) : DrainTile :=
  let rs := p.psumRanges s x (d.m * p.nT + d.n)
  { d with
    psum := if p.mode = 1 ∨ p.mode = 2 then rs else d.psum
    undef := !(s.changed e).isEmpty || ((p.mode == 2 || p.mode == 3) && s.otherKind c d.kind rs) }

/-- A group's sums are formed once `n_tiles` slots are free and every partial sum that it preloads has been written (R111, R112, R114, R71)
(DEDUCED, log 54, DEDUCED, log 55, DEDUCED, log 56). -/
def passMove (c st : Nat) (x : XCtx) (s : State) (e : WbEntry) : Move :=
  let p := s.passOf c st e.wb
  let ns := List.range p.nT
  if !p.claims (s.slots c st) then .stall else
  if (p.mode == 2 || p.mode == 3) && (s.slots c st).any (fun d => ns.any fun n => !(rangesMeet d.psum (p.psumRanges s x (e.next * p.nT + n))).isEmpty) then .stall else
  let r := ((passGroup s x c p e e.next ns).run).run { who := st, home := some c, owner := some (e.part, e.seq) }
  if waits r.1 then .stall else
  let t := s.settle r.2.upToFailure
  match r.1 with
  | .ok ds =>
    .moved (t.setSlots c st (s.slots c st ++ ds.map (s.formed c x e p))) { e with inDrain := e.inDrain + ds.length, srcs := e.srcs ++ r.2.srcs }
  | .error status => .failed (t.joinFlags e.part e.seq r.2.flags) status r.2.i r.2.j

/-- A pass of a mode: the groups of the waybill in order, as far as slots are free. -/
def State.passOp (s : State) (c st mode : Nat) : State :=
  s.work c st 0 (fun e => bits (wbOp e.wb) 0 2 == mode) (fun e => (srcOf e.wb).len1) (passMove c st)

/-- ZERO_FINAL. -/
def execZeroFinal (c : Nat) (s : State) : Res := .next (s.passOp c 2 0)

/-- ZERO_PARTIAL. -/
def execZeroPartial (c : Nat) (s : State) : Res := .next (s.passOp c 2 1)

/-- LOAD_PARTIAL. -/
def execLoadPartial (c : Nat) (s : State) : Res := .next (s.passOp c 2 2)

/-- LOAD_FINAL. -/
def execLoadFinal (c : Nat) (s : State) : Res := .next (s.passOp c 2 3)

/-- SPARSE_ZERO_FINAL. -/
def execSparseZeroFinal (c : Nat) (s : State) : Res := .next (s.passOp c 3 0)

/-- SPARSE_ZERO_PARTIAL. -/
def execSparseZeroPartial (c : Nat) (s : State) : Res := .next (s.passOp c 3 1)

/-- SPARSE_LOAD_PARTIAL. -/
def execSparseLoadPartial (c : Nat) (s : State) : Res := .next (s.passOp c 3 2)

/-- SPARSE_LOAD_FINAL. -/
def execSparseLoadFinal (c : Nat) (s : State) : Res := .next (s.passOp c 3 3)

/-! ### The drain after the verdict (R121 to R127, R153) -/

/-- The values of an output tile through the fused drain: codes, block scales, saved bits, flags (R121, R122) (DEDUCED, log 58). -/
def drainValues (p : Pass) (dr : Draws) (t : DrainTile) (h : Hdr) (cs bias : Array Word32) (sb : Array Bool) : Array Nat × Array Nat × List Bool × Byte :=
  let d := p.drain
  let fmt := p.dst.fmt
  let acc := t.acc.toArray
  if directInt d t.kind fmt t.ta t.tb then
    let w := fmtWidth fmt
    let lim : Int := 2 ^ (w - 1)
    let cv := t.acc.map fun a =>
      let v := signed 32 a.1
      if v < -lim then ((2 ^ (w - 1) : Nat), fSAT) else if lim - 1 < v then (2 ^ (w - 1) - 1, fSAT) else ((v % (2 ^ w : Int)).toNat, (0 : Byte))
    ((cv.map (·.1)).toArray, #[], [], cv.foldl (fun f v => f ||| v.2) 0)
  else
    let sc := fmul t.ta t.tb
    let els := (List.range (p.rows * p.cols)).map fun i =>
      let a := acc.getD i (0, 0)
      let v := if t.kind = 0 then (BitVec.ofNat 32 a.1, (0 : Byte)) else toF32 rne (accVal t.kind a.1)
      drainElem d sc.1 v (cs.getD (i % p.cols) 0) (bias.getD (i % p.cols) 0) (sb.getD i false)
    let r := encodeVals h (bit1 d.h 5) (fun i => dr.rnd p.rnd i) (els.map (·.1.1)).toArray (allOn p.rows p.cols)
    (r.1, r.2.1, els.map (·.2), els.foldl (fun f v => f ||| v.1.2) r.2.2)

/-- Bytes that the manual calls undefined (R6). -/
def State.freeBytes (s : State) (n : Nat) : List Byte := (List.range n).map fun i => Config.freeByte s.free i

/-- A final tile drained: saved bits and the tile are written now, each translated as it is written (R105, R123, R124); or the entry of the drain siding. -/
def drainFinal (s : State) (x : XCtx) (c : Nat) (e : WbEntry) (p : Pass) (t : DrainTile) : Job (Option (List Byte)) := do
  let known (k : Nat) (bs : List Byte) : List Byte := if t.undef then bs.take k ++ s.freeBytes (bs.length - k) else bs
  let d := p.drain
  let q := t.m * p.nT + t.n
  let cs ← colVector s x c (bit1 d.h 0) (bits d.h 192 42) t.n p.cols
  let bias ← colVector s x c (bit1 d.h 1) (bits d.h 256 42) t.n p.cols
  let area := bitsArea (bits d.h 320 42) q p.rows p.cols
  let sb ← if bit1 d.h 3 then (do let b ← rdOwnAll s x c area (ceilDiv (p.rows * p.cols) 8); pure (boolsOf (p.rows * p.cols) b).toArray) else pure #[]
  let fmt := p.dst.fmt
  let h : Hdr := { fmt := fmt, mx := d.mxOut fmt, kDown := bit1 d.h 7, rows := p.rows, cols := p.cols, scale := d.outScale }
  let v := drainValues p (s.drawsOf c e 1 t.m t.n) t h cs bias sb
  Job.flag v.2.2.2
  let obj := if p.hdr ∨ p.dst.kind = 1 then known 64 (layTile h v.1 (allOn p.rows p.cols) v.2.1 0).1 else known 0 (bareBytes fmt v.1)
  if bit1 d.h 4 then wrOwn s x c area (known 0 (bytesOfBools v.2.2.1))
  if p.dst.kind = 1 then pure (some obj)
  else do
    match ← locOf s x p.dst t.n t.m (maxObject fmt p.rows p.cols p.hdr) with
    | .here va => wrOwn s x c va obj
    | .absent => pure ()
    | .far .. => Job.fail stXlate
    pure none

/-- A tile drained: through the fused drain, or as raw partial sums (R110, R111). Its flags are those of its accumulators and of its drain. -/
def drainTile (s : State) (x : XCtx) (c : Nat) (e : WbEntry) (p : Pass) (t : DrainTile) : Job (Option (List Byte)) := do
  Job.flag (t.acc.foldl (fun f a => f ||| a.2) 0)
  if p.mode = 0 ∨ p.mode = 3 then drainFinal s x c e p t
  else do
    let at_ := p.psumAt (t.m * p.nT + t.n)
    Job.require (decide (0 ≤ at_)) stXlate
    wrOwn s x c at_.toNat (if t.undef then s.freeBytes (t.acc.length * p.accBytes) else t.acc.flatMap fun a => natLe p.accBytes a.1)
    pure none

/-- What the array got wrong in a pass: accumulators by index, and the bits of each that are upset. -/
def DrainTile.upsetBy (d : DrainTile) (upset : List (Nat × Word32)) : DrainTile :=
  { d with acc := d.acc.zipIdx.map fun x => (upset.foldl (fun v u => if u.1 = x.2 then v ^^^ u.2.toNat else v) x.1.1, x.1.2) }

/-- The oldest tile of a drain leaves it. -/
def State.slotFreed (s : State) (c st : Nat) (f : WbEntry → WbEntry) : State :=
  (s.setSlots c st (s.slots c st).tail).updDrainWb c st fun e => { f e with inDrain := e.inDrain - 1 }

/-- A verdict fails: the first time it is counted, and the pass of the tile is computed again from its operands and partial sums, its flags formed anew; the
second time the cluster is recorded, the waybill fails with DATA_UNCORRECTABLE, and the cluster is faulted once its consignment has ended (R127, R153, R409). A recomputation that cannot read waits (DEDUCED, log 57). -/
def State.verdictFails (s : State) (c st : Nat) (x : XCtx) (e : WbEntry) (d : DrainTile) : State :=
  if d.again then
    ((((s.bumpFor (e.part, e.seq) 0x5040 2 1).setObj 0x5040 3 c).setSlots c st (s.slots c st).tail).updEntry e.part e.seq
      fun y => { y with twice := y.twice ++ [c] }).failWb c st e stUncorrectable d.n d.m
  else
    let p := s.passOf c st e.wb
    let r := ((passGroup s x c p e d.m [d.n]).run).run { who := st, home := some c, owner := some (e.part, e.seq) }
    if waits r.1 then s else
    let t := (s.bumpFor (e.part, e.seq) 0x5040 1 1).settle r.2.upToFailure
    match r.1 with
    | .ok ds => t.setSlots c st ((ds.map fun d' => { s.formed c x e p d' with again := true, psum := d.psum }) ++ (s.slots c st).tail)
    | .error status => ((t.setSlots c st (s.slots c st).tail).joinFlags e.part e.seq r.2.flags).failWb c st e status r.2.i r.2.j

/-- The tile at the head of a drain as it drains: undefined too when a vector or saved bits that its drain reads have changed (R128) (DESIGN CHOICE, log 205). -/
def State.drainView (s : State) (c st : Nat) (x : XCtx) (e : WbEntry) (p : Pass) (d : DrainTile) : DrainTile :=
  let r := ((drainTile s x c e p d).run).run { who := st, home := some c }
  if (rangesMeet (r.2.reads.map fun y => (y.1, y.2.1)) (s.changed e)).isEmpty then d else { d with undef := true }

/-- A tile whose drain may begin: it is written, or its entry enters the drain siding, where a coupled one arrives with the verdict it will meet: of a
kind-1 tile the verdict runs alongside the drain (R64, R124, R126) (DESIGN CHOICE, log 206). -/
def State.drainOut (s : State) (c st : Nat) (x : XCtx) (e : WbEntry) (p : Pass) (d : DrainTile) (ok : Bool) : State :=
  let d := s.drainView c st x e p d
  let r := ((drainTile s x c e p d).run).run { who := st, home := some c, owner := some (e.part, e.seq) }
  if waits r.1 || r.2.retained s then s else
  match r.1 with
  | .error status =>
    (((s.settle r.2.upToFailure).addBegun c r.2.begun).joinFlags e.part e.seq r.2.flags).failWb c st e status d.n d.m
  | .ok entry =>
    let t := ((s.settle r.2).addBegun c r.2.begun).clash r.2.begun e.srcs (s.besides c e)
    let t := if d.undef then t.drawn else t
    let t := (if p.mode = 1 ∨ p.mode = 2 then t.sumsWritten c d.kind r.2.begun else t).rehold c st r.2.begun
    let cut := (s.tileQ c 0x08).st.cutAt
    match entry with
    | none => (t.tilesWritten c 1).slotFreed c st fun e => { e with flags := e.flags ||| r.2.flags, dsts := e.dsts ++ r.2.begun }
    | some b =>
      let t := (t.tilesWritten c 1).updTileQ c 0x08 fun q => { q with entries := q.entries ++ [
        { bytes := b, arrived := cut == 0, here := if cut = 0 then b.length else t.freeW.toNat % (b.length + 1), row := d.m, col := d.n, tag := d.wbTag }] }
      if cut = 0 then t.slotFreed c st fun e => { e with flags := e.flags ||| r.2.flags }
      else (t.setSlots c st ({ d with entered := some ok, flags := r.2.flags } :: (s.slots c st).tail)).drawn

/-- MATRIX_PASS_END: the verdict of the oldest tile in the drain of a station, whose accumulators are as the array formed them but for what is upset.
Before it no byte of the tile is written; an entry of a coupled siding runs alongside it, while with `cut_at` 0 no failed entry is shown to the consumer,
since its verdict is complete before its last row (R64, R126, R127) (DESIGN CHOICE, log 206). A full drain siding, or one whose last entry is still arriving,
holds the drain (R70, R126, R153). -/
def execMatrixPassEnd (c : Nat) (sparse : Bool) (upset : List (Nat × Word32)) (s : State) : Res :=
  let st := if sparse then 3 else 2
  match s.slots c st, s.drainWb c st, (s.cl c).run with
  | d :: _, some e, some r =>
    let p := s.passOf c st e.wb
    let siding := (p.mode == 0 || p.mode == 3) && p.dst.kind == 1
    if r.stopped ∨ s.eventHeld c st ∨ d.entered.isSome ∨ (siding ∧ (tileDepth ≤ (s.tileQ c 0x08).entries.length ∨ (s.tileQ c 0x08).entries.any (!·.arrived))) then .next s else
    let d := d.upsetBy upset
    let ok := s.verdict p d
    if ok || (siding && (s.tileQ c 0x08).st.cutAt != 0) then .next (s.drainOut c st (r.ctx c) e p d ok)
    else .next (s.verdictFails c st (r.ctx c) e d)
  | _, _, _ => .next s

/-- What the Vector Station did with a coupled entry that fails its check comes back (R64, R197). -/
def State.vRollback (s : State) (c : Nat) : State :=
  match (s.cl c).st.vec.saved with
  | some sv => (s.bump 0x7080 3 1).updSt c fun y => { y with vec := { regs := sv.1, cur := sv.2, saved := none } }
  | none => s

/-- A queue's entry that is still arriving leaves it, having failed its check: `tail_bad` is set (R64). -/
def State.dropArriving (s : State) (c q : Nat) : State :=
  s.updTileQ c q fun x => { x with entries := x.entries.eraseP (fun e => !e.arrived), st := { x.st with tailBad := true } }

/-- The entry has arrived whole and passed its check. -/
def State.keepArriving (s : State) (c q : Nat) : State :=
  s.updTileQ c q fun x => { x with entries := mapFirst (fun (e : TileEntry) => !e.arrived) (fun e => { e with arrived := true, here := e.bytes.length }) x.entries }

/-- ENTRY_ARRIVAL_COMPLETE: a coupled entry has arrived whole. In the drain siding its check is the verdict of its tile; in another, the check's outcome
is `ok`. An entry that fails is discarded with all its effects; a drained tile is then computed again and takes its place (R64, R127, R197). -/
def execEntryArrivalComplete (c q : Nat) (ok : Bool) (s : State) : Res :=
  if (s.tileQ c q).entries.all (·.arrived) then .next s
  else if q = 0x08 then
    let st := if (s.slots c 2).any (·.entered.isSome) then 2 else 3
    match s.slots c st, s.drainWb c st, (s.cl c).run with
    | d :: _, some e, some r =>
      (match d.entered with
       | some true =>
         .next (((s.keepArriving c q).slotFreed c st fun e => { e with flags := e.flags ||| d.flags }).updSt c fun y => { y with vec := { y.vec with saved := none } })
       | some false => .next (((s.dropArriving c q).vRollback c).verdictFails c st (r.ctx c) e { d with entered := none })
       | none => .next s)
    | _, _, _ => .next s
  else .next (if ok then s.keepArriving c q else s.dropArriving c q)

end Sys2Proof.Machine
end

