-- ==== Sys2Proof/Machine/Vector.lean ====
section
/-! DEFINITION. The Vector Station (R182 to R202): kernel blocks, tile registers and predicates, strips, the instructions one by one, loads and
stores, the sampler. One command executes the instruction at the station's own pc; a command whose instruction is not the one there has no
effect. -/

namespace Sys2Proof.Machine

/-! ### Kernel blocks (R185 to R190) -/

/-- A kernel block: header, constants, instruction words, two tables. -/
structure Kern where
  h : Nat
  consts : List Word32
  code : List Nat
  t0 : List Seg
  t1 : List Seg
  deriving DecidableEq, Repr

/-- A block from its bytes; an empty slot is all zeros. -/
def Kern.ofBytes (bs : List Byte) : Kern :=
  let h := leNat (bs.take 64)
  { h := h
    consts := (piecesOf 4 8 (bs.drop 64)).map fun p => BitVec.ofNat 32 (leNat p)
    code := (piecesOf 8 64 (bs.drop 96)).map leNat
    t0 := segsOf (min 64 (bits h 16 7)) (bs.drop 608)
    t1 := segsOf (min 64 (bits h 24 7)) (bs.drop 1632) }

def Kern.n (k : Kern) : Nat := bits k.h 0 7

/-- The instruction at an index; past the last one stands END (DEDUCED, log 76). -/
def Kern.at (k : Kern) (i : Nat) : Nat := if i < k.n then k.code.getD i 0 else 0

def Kern.outScale (k : Kern) : Word32 := BitVec.ofNat 32 (bits k.h 96 32)

/-- MX output in force for a format. -/
def Kern.mxOut (k : Kern) (fmt : Nat) : Bool := bit1 k.h 8 || alwaysMx fmt

/-- Fields of an instruction word (R187). -/
def vOpc (v : Nat) : Nat := bits v 0 8
def vDst (v : Nat) : Nat := bits v 8 5
def vG (v : Nat) : Nat := 2 ^ bits v 32 2
def vTy (v : Nat) : Nat := bits v 34 2
def vAux (v : Nat) : Nat := bits v 43 5

/-- Columns of a register of a type (R182). -/
def vWidth (ty : Nat) : Nat := if ty = 1 then 64 else 32

/-- Registers that a group's columns fill when read as another type (DEDUCED, log 71). -/
def vSpan (ty g srcTy : Nat) : Nat := ceilDiv (g * vWidth ty) (vWidth srcTy)

/-- What an opcode uses: destination registers (0 none, 1 one register, 2 the group), operands a, b, c. -/
def vUses (opc : Nat) : Option (Nat × Bool × Bool × Bool) :=
  match opc with
  | 0x00 => some (0, false, false, false)
  | 0x01 => some (2, true, false, false)
  | 0x02 | 0x03 | 0x04 | 0x06 | 0x07 | 0x0A => some (2, true, true, false)
  | 0x05 => some (2, true, true, true)
  | 0x08 | 0x09 | 0x0B | 0x0C | 0x0D | 0x0E | 0x0F | 0x10 => some (2, true, false, false)
  | 0x11 => some (0, true, true, false)
  | 0x12 => some (2, true, true, false)
  | 0x13 | 0x14 => some (2, true, false, false)
  | 0x18 | 0x19 | 0x1A => some (1, true, false, false)
  | 0x1B | 0x1C => some (2, true, false, false)
  | 0x20 | 0x21 => some (2, false, false, false)
  | 0x22 => some (0, true, false, false)
  | 0x28 => some (0, true, false, false)
  | 0x29 => some (1, false, false, false)
  | 0x2A => some (0, false, false, false)
  | _ => none

/-- An instruction word that VKERNCFG accepts (R187 to R190). MX output is in force, as far as the block alone shows, when `mx_out` is set
(DESIGN CHOICE, log 169). -/
def vInsOk (k : Kern) (v : Nat) : Bool :=
  let opc := vOpc v
  let g := vG v
  let srcs := if opc = 0x14 then vSpan (vTy v) g (bits (vAux v) 0 2) else g
  let selOk (x : Nat) (n : Nat) (used : Bool) : Bool := decide (x < 43) && (!used || decide (32 ≤ x) || decide (x + n ≤ 32))
  match vUses opc with
  | none => false
  | some (d, a, b, c) =>
    !bit1 v 13 && bits v 48 16 == 0 && bits v 41 2 != 3 && vTy v != 3 &&
    selOk (bits v 14 6) srcs a && selOk (bits v 20 6) g b && selOk (bits v 26 6) g c &&
    (d != 2 || decide (vDst v + g ≤ 32)) &&
    (!(decide (0x0A ≤ opc) && decide (opc ≤ 0x10) || opc == 0x13) || vTy v != 2) &&
    (opc != 0x11 || (bits (vAux v) 0 2 != 0 && decide (bits (vAux v) 2 3 < 6))) &&
    (opc != 0x14 || bits (vAux v) 0 2 != 3) &&
    (opc != 0x21 || bits k.h (if bit1 (vAux v) 0 then 362 else 298) 12 != 0) &&
    (opc != 0x22 || bit1 v 39 || !bit1 k.h 8) &&
    (opc != 0x28 || bits k.h 32 7 != 0) &&
    (opc != 0x29 || (let p := f32Val (BitVec.ofNat 32 (bits k.h 64 32)); ltV (.fin false 0 0) p && !ltV (.fin false 1 0) p && isFinV p))

/-- What VKERNCFG accepts (R190) (DEDUCED, log 76). -/
def kernOk (bs : List Byte) : Bool :=
  let k := Kern.ofBytes bs
  let h := k.h
  decide (k.n ≤ 64) && decide (bits h 16 7 ≤ 64) && decide (bits h 24 7 ≤ 64) && decide (bits h 32 7 ≤ 64) &&
  bits h 10 6 == 0 && !bit1 h 23 && !bit1 h 31 && bits h 39 25 == 0 && bits h 311 9 == 0 && bits h 375 137 == 0 &&
  (k.outScale == 0 || scaleOk k.outScale) && segsOk k.t0 && segsOk k.t1 &&
  ((bs.drop (608 + 16 * bits h 16 7)).take (1024 - 16 * bits h 16 7)).all (· == 0) &&
  ((bs.drop (1632 + 16 * bits h 24 7)).take (1024 - 16 * bits h 24 7)).all (· == 0) &&
  (k.code.take k.n).all (vInsOk k)

/-- VKERNCFG. -/
def execVkerncfg (c : Nat) (d : BitVec 3) (ra : Reg) (s : State) : Res :=
  s.onCore c fun s => s.loadSlot c (s.reg c ra).toNat 2656 (fun e => fld e.wb 445 3 == d.toNat) 4 kernOk
    fun b x => { x with kernSlots := Tab.put x.kernSlots [] d.toNat b }

/-! ### Registers (R182, R183) -/

/-- The words of a register. -/
def VRegs.words (v : VRegs) (k : Nat) : List Word32 :=
  match Tab.look v.t [] k with
  | [] => List.replicate 1024 0
  | l => l

/-- The element of a register's words at a row and a column. -/
def wordElem (a : Array Word32) (ty r c : Nat) : Nat :=
  if ty = 1 then bits (a.getD (r * 32 + c / 2) 0).toNat (16 * (c % 2)) 16 else (a.getD (r * 32 + c) 0).toNat

/-- A group read as a type: the element at row r and column c of the group. -/
def VRegs.group (v : VRegs) (base n ty : Nat) : Nat → Nat → Nat :=
  let arrs : Array (Array Word32) := ((List.range n).map fun k => (v.words (base + k)).toArray).toArray
  fun r c => wordElem (arrs.getD (c / vWidth ty) #[]) ty r (c % vWidth ty)

/-- A group written where `f` gives an element. -/
def VRegs.setGroup (v : VRegs) (base n ty : Nat) (f : Nat → Nat → Option Nat) : VRegs :=
  (List.range n).foldl (fun v k =>
    let ws := (v.words (base + k)).zipIdx.map fun (x : Word32 × Nat) =>
      let r := x.2 / 32
      let q := x.2 % 32
      if ty = 1 then
        BitVec.ofNat 32 ((f r (k * 64 + 2 * q)).getD (bits x.1.toNat 0 16) + (f r (k * 64 + 2 * q + 1)).getD (bits x.1.toNat 16 16) * 2 ^ 16)
      else match f r (k * 32 + q) with
        | some y => BitVec.ofNat 32 y
        | none => x.1
    { v with t := Tab.put v.t [] (base + k) (if ws.all (· == 0) then [] else ws) }) v

/-- A bit of a predicate; p0 is all ones (DEDUCED, log 70). -/
def VRegs.pbit (v : VRegs) (p r c : Nat) : Bool := p == 0 || (Tab.look v.p 0 p).getLsbD (r * 512 + c)

/-! ### An instruction in its place (R188, R191, R192) -/

/-- What an instruction sees beside the registers (DEDUCED, log 72). -/
structure VX where
  c : Nat
  e : WbEntry
  x : XCtx
  k : Kern
  ins : Nat
  strip : Nat
  c1 : Nat
  c2 : Nat
  key : Word

namespace VX

def ty (v : VX) : Nat := vTy v.ins
def g (v : VX) : Nat := vG v.ins
def width (v : VX) : Nat := v.g * vWidth v.ty
def aux (v : VX) : Nat := vAux v.ins
def scol (v : VX) : Bool := bit1 v.ins 40
def pmode (v : VX) : Bool := bit1 v.ins 39
def rows (v : VX) : Nat := wbRows v.e.wb
def cols (v : VX) : Nat := wbCols v.e.wb

/-- Rows of the strip within the tile. -/
def stripRows (v : VX) : Nat := min 32 (v.rows - 32 * v.strip)

/-- The predicate lets the lane through. -/
def passes (v : VX) (r : VRegs) (row col : Nat) : Bool := r.pbit (bits v.ins 36 2) row col != bit1 v.ins 38

/-- A lane that is not masked; under `scol` an instruction works on column s alone. -/
def live (v : VX) (r : VRegs) (row col : Nat) : Bool :=
  decide (row < v.stripRows) && (if v.scol then col == v.strip else decide (col < v.cols)) && v.passes r row col

/-- A lane of a reduction's operand: all columns of the group. -/
def liveIn (v : VX) (r : VRegs) (row col : Nat) : Bool :=
  decide (row < v.stripRows) && (v.scol || decide (col < v.cols)) && v.passes r row col

/-- A whole number in a type. -/
def intIn (ty : Nat) (n : Nat) : Nat :=
  match ty with
  | 0 => (toF32 rne (.fin false n 0)).1.toNat
  | 1 => ((flOf 1).encode rne false false (.fin false n 0)).1
  | _ => n % 2 ^ 32

/-- An FP32 constant in a type. -/
def constIn (ty : Nat) (w : Word32) : Nat := if ty = 1 then (convElem 0 1 rne false w.toNat).1 else w.toNat

/-- An operand of a type (R188). -/
def opnd (v : VX) (r : VRegs) (sel ty : Nat) : Nat → Nat → Nat :=
  if sel < 32 then r.group sel (vSpan v.ty v.g ty) ty
  else if sel < 40 then let w := constIn ty (v.k.consts.getD (sel - 32) 0); fun _ _ => w
  else if sel = 40 then let w := constIn ty (BitVec.ofNat 32 (fld v.e.wb 452 32)); fun _ _ => w
  else if sel = 41 then fun row _ => intIn ty (32 * v.strip + row)
  else fun _ col => intIn ty (v.c2 * v.cols + col)

def a (v : VX) (r : VRegs) : Nat → Nat → Nat := v.opnd r (bits v.ins 14 6) v.ty

/-- Operand b under `bcast`. -/
def b (v : VX) (r : VRegs) : Nat → Nat → Nat :=
  let f := v.opnd r (bits v.ins 20 6) v.ty
  match bits v.ins 41 2 with
  | 1 => fun row _ => f row v.strip
  | 2 => fun _ col => f 0 col
  | _ => f

def cOp (v : VX) (r : VRegs) : Nat → Nat → Nat := v.opnd r (bits v.ins 26 6) v.ty

/-- A lane-wise result: unmasked lanes take it; masked lanes keep their value or take +0 (R39, R192). -/
def map (v : VX) (r : VRegs) (f : Nat → Nat → Nat × Byte) : VRegs × Byte :=
  let w := v.width
  let res : Array (Option (Nat × Byte)) := ((List.range (32 * w)).map fun i => if v.live r (i / w) (i % w) then some (f (i / w) (i % w)) else none).toArray
  let put (row col : Nat) : Option Nat :=
    match res.getD (row * w + col) none with
    | some y => some y.1
    | none => if v.pmode && (!v.scol || col == v.strip) then some 0 else none
  (r.setGroup (vDst v.ins) v.g v.ty put, res.foldl (fun fl y => match y with | some z => fl ||| z.2 | none => fl) 0)

/-- The draws of the waybill at the tile's coordinates (R30). -/
def draws (v : VX) (site : Nat) : Draws := { key := v.key, site := site, stream := fld v.e.wb 484 28, row := v.c1, col := v.c2 }

/-- The element number of a lane within its tile. -/
def elemNo (v : VX) (row col : Nat) : Nat := (32 * v.strip + row) * v.cols + col

end VX

/-! ### Arithmetic (R189) -/

/-- The value of an element of a type. -/
def tyVal (ty c : Nat) : Val :=
  match ty with
  | 0 => f32Val (BitVec.ofNat 32 c)
  | 1 => flDecode (flOf 1) true c
  | _ => let v := signed 32 c; .fin (decide (v < 0)) v.natAbs 0

/-- A result rounded once into a float type. -/
def tyEnc (ty : Nat) (v : Val × Byte) : Nat × Byte :=
  let e := (if ty = 1 then flOf 1 else flF32).encode rne false false v.1
  (e.1, e.2 ||| v.2)

/-- An integer result modulo 2^32. -/
def wrap32 (v : Int) : Nat × Byte := ((v % (2 ^ 32 : Int)).toNat, 0)

/-- A float operation, or an integer one that wraps. -/
def arith2 (ty : Nat) (f : Val → Val → Val × Byte) (i : Int → Int → Int) (a b : Nat) : Nat × Byte :=
  if ty = 2 then wrap32 (i (signed 32 a) (signed 32 b)) else tyEnc ty (f (tyVal ty a) (tyVal ty b))

/-- FMA, rounded once. -/
def arithFma (ty a b c : Nat) : Nat × Byte :=
  if ty = 2 then wrap32 (signed 32 a * signed 32 b + signed 32 c)
  else
    let p := mulV (tyVal ty a) (tyVal ty b)
    let q := addV p.1 (tyVal ty c)
    tyEnc ty (q.1, p.2 ||| q.2)

/-- The canonical NaN of a float type. -/
def tyNan (ty : Nat) : Nat := if ty = 1 then 0x7FC0 else 0x7FC00000

/-- −0 orders below +0. -/
def below (a b : Val) : Bool :=
  match a, b with
  | .fin n 0 _, .fin m 0 _ => n && !m
  | _, _ => ltV a b

/-- MIN (`mx` false) and MAX (DEDUCED, log 81). -/
def arithMinMax (ty : Nat) (mx : Bool) (a b : Nat) : Nat × Byte :=
  let x := tyVal ty a
  let y := tyVal ty b
  if isNanV x || isNanV y then (tyNan ty, snanFlag x ||| snanFlag y)
  else (if below x y = mx then b else a, 0)

/-- ABS and NEG: the sign cleared or inverted (DEDUCED, log 81). -/
def arithSign (ty : Nat) (neg : Bool) (a : Nat) : Nat × Byte :=
  if ty = 2 then (let v := signed 32 a; wrap32 (if neg || decide (v < 0) then -v else v))
  else
    let x := tyVal ty a
    let s := if ty = 1 then 2 ^ 15 else 2 ^ 31
    if isNanV x then (tyNan ty, snanFlag x)
    else (if neg then a ^^^ s else a % s, 0)

/-- The conditions of CMP (DEDUCED, log 81). -/
def arithCmp (ty cond a b : Nat) : Bool × Byte :=
  let x := tyVal ty a
  let y := tyVal ty b
  let nan := isNanV x || isNanV y
  let fl := snanFlag x ||| snanFlag y
  (match cond with
   | 0 => !nan && !ltV x y && !ltV y x
   | 1 => nan || ltV x y || ltV y x
   | 2 => !nan && ltV x y
   | 3 => !nan && !ltV y x
   | 4 => !nan && ltV y x
   | _ => !nan && !ltV x y, fl)

/-- TBL: the table in FP32, then rounded to the type. A table without segments gives no value for a finite element: a free value
of the element (DESIGN CHOICE, log 74). -/
def arithTbl (v : VX) (a : Nat) : Nat × Byte :=
  let one := bit1 v.aux 0
  let segs := if one then v.k.t1 else v.k.t0
  let w : Word32 := if v.ty = 1 then (toF32 rne (tyVal 1 a)).1 else BitVec.ofNat 32 a
  let sn := snanFlag (tyVal v.ty a)
  let lims := if one then (bits v.k.h 192 32, bits v.k.h 224 32) else (bits v.k.h 128 32, bits v.k.h 160 32)
  let r := segEval segs (BitVec.ofNat 32 lims.1) (BitVec.ofNat 32 lims.2) w
  let r := if segs.isEmpty && finite32 w then ((Config.unstated 1 [(w.toNat : Int)]).setWidth 32, (0 : Byte)) else r
  if v.ty = 1 then (let e := convElem 0 1 rne false r.1.toNat; (e.1, e.2 ||| r.2 ||| sn)) else (r.1.toNat, r.2 ||| sn)

/-- CVT (R190): between types, under the waybill's `rnd`. -/
def arithCvt (srcTy dstTy : Nat) (rd : Rnd) (a : Nat) : Nat × Byte :=
  if srcTy = dstTy then (a, 0)
  else match dstTy with
    | 2 => intEncode 32 rd (tyVal srcTy a)
    | 1 => if srcTy = 0 then convElem 0 1 rd false a else tyEnc 1 (tyVal 2 a, 0)
    | _ => if srcTy = 1 then convElem 1 0 rd false a else tyEnc 0 (tyVal 2 a, 0)

/-! ### Reductions (R193) -/

/-- Two entries of a tree: a masked partner passes the other up. -/
def treeOpt (f : Nat × Byte → Nat × Byte → Nat × Byte) (a b : Option (Nat × Byte)) : Option (Nat × Byte) :=
  match a, b with
  | some x, some y => some (f x y)
  | some x, none => some x
  | none, y => y

/-- The reduction of elements by position, a masked one absent: `op` 0 sum, 1 maximum, 2 minimum. With none, +0, −infinity or +infinity; for
INT32 no such number exists and the value is a free one. -/
def vReduce (ty op : Nat) (xs : List (Option Nat)) : Nat × Byte :=
  let f (x y : Nat × Byte) : Nat × Byte :=
    let z := if ty = 2 then (if op = 0 then wrap32 (signed 32 x.1 + signed 32 y.1) else arithMinMax 2 (op == 1) x.1 y.1)
      else if op = 0 then (let w := fadd (BitVec.ofNat 32 x.1) (BitVec.ofNat 32 y.1); (w.1.toNat, w.2)) else arithMinMax 0 (op == 1) x.1 y.1
    (z.1, z.2 ||| x.2 ||| y.2)
  let widen (c : Nat) : Nat × Byte := if ty = 1 then (let w := toF32 rne (tyVal 1 c); (w.1.toNat, w.2 ||| snanFlag (tyVal 1 c))) else (c, 0)
  match treeSum (treeOpt f) none 64 (xs.map fun x => x.map widen) with
  | some r => if ty = 1 then (let e := convElem 0 1 rne false r.1; (e.1, e.2 ||| r.2)) else r
  | none =>
    if op = 0 then (0, 0)
    else if ty = 2 then ((Config.unstated 2 [(op : Int)]).toNat % 2 ^ 32, 0)
    else ((if ty = 1 then (if op = 1 then 0xFF80 else 0x7F80) else (if op = 1 then 0xFF800000 else 0x7F800000)), 0)

/-- A row reduction into one column of register d (DEDUCED, log 73, DESIGN CHOICE, log 74). -/
def vRowReduce (op : Nat) (v : VX) (r : VRegs) : VRegs × Byte :=
  let a := v.a r
  let res : Array (Nat × Byte) := ((List.range 32).map fun row =>
    vReduce v.ty op ((List.range v.width).map fun col => if v.liveIn r row col then some (a row col) else none)).toArray
  let col := if v.scol then v.strip else 0
  (r.setGroup (vDst v.ins) 1 v.ty fun row c => if c = col then some (res.getD row (0, 0)).1 else none, res.foldl (fun f y => f ||| y.2) 0)

/-- A column reduction into row 0 of group d. -/
def vColReduce (op : Nat) (v : VX) (r : VRegs) : VRegs × Byte :=
  let a := v.a r
  let here (col : Nat) : Bool := !v.scol || col == v.strip
  let res : Array (Nat × Byte) := ((List.range v.width).map fun col =>
    if here col then vReduce v.ty op ((List.range 32).map fun row => if v.liveIn r row col then some (a row col) else none) else (0, 0)).toArray
  (r.setGroup (vDst v.ins) v.g v.ty fun row c => if row = 0 ∧ here c then some (res.getD c (0, 0)).1 else none, res.foldl (fun f y => f ||| y.2) 0)

/-! ### The sampler (R198) -/

/-- The order of a candidate list: descending value, NaN below every number, the lower index first among equals. -/
def candBefore (a b : Cand) : Bool :=
  if nan32 a.value then nan32 b.value && decide (a.col.toNat ≤ b.col.toNat)
  else nan32 b.value || flt b.value a.value || (!flt a.value b.value && decide (a.col.toNat ≤ b.col.toNat))

/-- A candidate put into a list in its place. -/
def candInsert (x : Cand) : List Cand → List Cand
  | [] => [x]
  | y :: ys => if candBefore y x then y :: candInsert x ys else x :: y :: ys

/-- TOPK: each unmasked element joins its row's list, which keeps its first `topk` (DEDUCED, log 75). -/
def vTopk (v : VX) (r : VRegs) : VRegs × Byte :=
  let a := v.a r
  let n := bits v.k.h 32 7
  let toW (c : Nat) : Word32 := if v.ty = 0 then BitVec.ofNat 32 c else (toF32 rne (tyVal v.ty c)).1
  ((List.range 32).foldl (fun r row =>
    let cs := ((List.range v.width).filter (v.live r row)).map fun col => ({ value := toW (a row col), col := BitVec.ofNat 32 (v.c2 * v.cols + col) } : Cand)
    if cs.isEmpty then r else
    let k := 32 * v.strip + row
    { r with cand := Tab.put r.cand [] k ((cs.foldl (fun l x => candInsert x l) (Tab.look r.cand [] k)).take n) }) r, 0)

/-- SAMPLE on one row's list: each weight's argument is rounded once. Where the list's values order no pick, the value is a free one of them. -/
def samplePick (topP : Word32) (word : Word32) (l : List Cand) : Nat :=
  match l with
  | [] => 0xFFFFFFFF
  | c0 :: _ =>
    let w := l.map fun x => (fexp2 (rnd32 (mulV (addV (f32Val x.value) (f32Val c0.value).neg).1 (f32Val 0x3FB8AA3B))).1).1
    let cum := (w.tail.foldl (fun (st : List Word32) x => st ++ [(fadd (st.getLastD 0) x).1]) [w.headD 0])
    let lim := (fmul topP (cum.getLastD 0)).1
    match (List.range cum.length).find? fun i => let y := cum.getD i 0; !nan32 y && !nan32 lim && !flt y lim with
    | none => (Config.unstated 3 ((topP.toNat : Int) :: word.toNat :: l.flatMap fun x => [(x.value.toNat : Int), (x.col.toNat : Int)])).toNat % 2 ^ 32
    | some i =>
      let u := (toF32 rne (.fin false (word.toNat / 2 ^ 8) (-24))).1
      let t := (fmul u (cum.getD i 0)).1
      let pick := ((List.range (i + 1)).find? fun j => flt t (cum.getD j 0)).getD i
      ((l[pick]?).map fun x => x.col.toNat).getD 0

/-- SAMPLE (DESIGN CHOICE, log 74). -/
def vSample (v : VX) (r : VRegs) : VRegs × Byte :=
  let col := if v.scol then v.strip else 0
  let word (row : Nat) : Word32 := let d := v.draws 6; draw d.key d.site d.stream d.row d.col ((32 * v.strip + row) * v.cols)
  (r.setGroup (vDst v.ins) 1 2 fun row c =>
    if c ≠ col then none
    else if v.live r row col then some (samplePick (BitVec.ofNat 32 (bits v.k.h 64 32)) (word row) (Tab.look r.cand [] (32 * v.strip + row)))
    else if v.pmode then some 0 else none, 0)

/-- SRESET. -/
def vSreset (v : VX) (r : VRegs) : VRegs × Byte := ({ r with cand := Tab.clear r.cand (32 * v.strip) 32 }, 0)

/-! ### Loads and stores (R194 to R197) -/

/-- A read of a siding entry: it waits for bytes that have not arrived (R64). -/
def rdEntry (t : TileEntry) : Reader := fun need off n => do
  Job.require (t.arrived || off + n ≤ t.here || !need (max off t.here) (off + n - max off t.here)) stHold
  pure { bytes := (t.bytes.drop off).take n
         bad := (t.poisoned.filter fun w => off / 8 ≤ w && w < (off + n + 7) / 8).map fun w => w - off / 8
         marks := (t.marks.filter fun e => off / 64 ≤ e.1 && e.1 < (off + n + 63) / 64).map fun e => (e.1 - off / 64, e.2)
         pend := t.pend.map (· - off / 64)
         lead := off % 64 }

/-- Role Vector Station input: shape, DENSE or demoted DENSE (R201). -/
def vRole (w : Desc) (h : Hdr) : Bool := h.rows == wbRows w && h.cols == wbCols w && h.sparse == 0

/-- The source tile of an invocation, its elements taken in where `live` says. -/
def vSource (s : State) (v : VX) (live : Nat → Bool) : Job Tile := sourceRead v.e.wb do
  let w := v.e.wb
  let src := srcOf w
  if src.kind = 1 then
    match (s.tileQ v.c 0x08).entries with
    | t :: _ => parseTile (rdEntry t) src.fmt (vRole w) live
    | [] => Job.fail stTile
  else if src.kind ≠ 0 then Job.fail stTile
  else do
    let (i, j) := src.ij v.e.next
    let hdr := fld w 444 1 == 1
    match ← locOf s v.x src i j (maxObject src.fmt v.rows v.cols hdr) with
    | .here va => if hdr then parseTile (rdOwn s v.x v.c va) src.fmt (vRole w) live else parseBare (rdOwn s v.x v.c va) src.fmt v.rows v.cols false live
    | .absent => do
      Job.require (!hdr) stTile
      pure (bareOf src.fmt v.rows v.cols false (List.replicate (denseSize src.fmt v.rows v.cols) 0))
    | .far .. => Job.fail stXlate

/-- The formats that LDS accepts for a type (R194). -/
def ldsOk (ty : Nat) (t : Tile) : Bool :=
  let plain := !t.hdr.mx && t.tOf == f32One
  match ty with
  | 0 => t.hdr.fmt != 10
  | 1 => plain && [1, 3, 4, 5, 6, 7, 8, 9].contains t.hdr.fmt
  | _ => plain && (t.hdr.fmt == 8 || t.hdr.fmt == 9)

/-- An element as LDS loads it. -/
def ldsElem (ty : Nat) (t : Tile) (e : Nat) : Nat × Byte :=
  if !t.mask.getD e false then (0, 0) else
  match ty with
  | 0 => let x := t.f32 e; (x.1.toNat, x.2)
  | 1 => let c := t.codes.getD e 0; if t.hdr.fmt = 1 then (c, 0) else ((convElem t.hdr.fmt 1 rne false c).1, snanFlag (decodeElem t.hdr.fmt c))
  | _ => wrap32 (signed (fmtWidth t.hdr.fmt) (t.codes.getD e 0))

/-- LDS: the strip into group d, the tile's mask into p3. Positions beyond the tile load as +0 (DEDUCED, log 79). -/
def vLds (s : State) (v : VX) (r : VRegs) : Job (VRegs × Byte) := do
  let t ← vSource s v fun e => e / v.cols / 32 == v.strip && v.live r (e / v.cols % 32) (e % v.cols)
  Job.require (ldsOk v.ty t) stTile
  let cell (row col : Nat) : Option Nat := if row < v.stripRows ∧ col < v.cols then some ((32 * v.strip + row) * v.cols + col) else none
  let w := v.width
  let res : Array (Option (Nat × Byte)) := ((List.range (32 * w)).map fun i =>
    let row := i / w
    let col := i % w
    if v.scol && col != v.strip then none
    else if !v.passes r row col then (if v.pmode then some ((0 : Nat), (0 : Byte)) else none)
    else match cell row col with
      | some e => some (ldsElem v.ty t e)
      | none => some (0, 0)).toArray
  let mask : BitVec 16384 := if t.hdr.mask then
      (List.range (v.stripRows * v.cols)).foldl (fun m i =>
        if t.mask.getD (32 * v.strip * v.cols + i) false then m ||| BitVec.ofNat 16384 (2 ^ (i / v.cols * 512 + i % v.cols)) else m) 0
    else BitVec.allOnes 16384
  let r' := r.setGroup (vDst v.ins) v.g v.ty fun row col => (res.getD (row * w + col) none).map (·.1)
  pure ({ r' with p := Tab.put r'.p 0 3 mask }, res.foldl (fun f y => match y with | some z => f ||| z.2 | none => f) 0)

/-- A place that LDT reads: the own scratchpad or HBM (R195). -/
def inPadOrHbm (c : Nat) (pa : Nat) : Bool := regionOf pa == .hbm || inPad c pa

/-- LDT: 32 rows of a row table; a row without an unmasked lane is not read (DEDUCED, log 77). The tile's first row in R is c1 × `tile_rows`, for every
kind of source (DESIGN CHOICE, log 170). -/
def vLdt (s : State) (v : VX) (r : VRegs) : Job (VRegs × Byte) := do
  let one := bit1 v.aux 0
  let h := v.k.h
  let bf := bit1 h (if one then 374 else 310)
  Job.require (v.ty == 0 || (v.ty == 1 && bf)) stTile
  let addr := bits h (if one then 320 else 256) 42
  let pitch := bits h (if one then 362 else 298) 12
  let R := if bit1 v.aux 1 then fld v.e.wb 452 32 + 32 * v.strip + v.c1 * v.rows else 0
  let es := if bf then 2 else 4
  let rowsR ← Job.map (fun row => do
    let on := (List.range v.width).filter (v.live r row)
    match on.head?, on.getLast? with
    | some lo, some hi => do
      let need : Need := takesIn (8 * es) (hi + 1 - lo) fun i => v.live r row (lo + i)
      let n := es * (hi + 1 - lo)
      let g ← rdPages s v.x (inPadOrHbm v.c) need (64 * (addr + pitch * (R + row)) + es * lo) 0 (n / 4096 + 2) 0 n
      consume g 0 need
      pure (lo, ((piecesOf es (hi + 1 - lo) g.bytes).map leNat).toArray)
    | _, _ => pure (0, #[])) (List.range 32)
  let tbl : Array (Nat × Array Nat) := rowsR.toArray
  pure (v.map r fun row col =>
    let t := tbl.getD row (0, #[])
    let c := t.2.getD (col - t.1) 0
    if bf && v.ty == 0 then ((toF32 rne (tyVal 1 c)).1.toNat, snanFlag (tyVal 1 c)) else (c, 0))

/-- An INT32 element converted for the output: exact where the format holds it, saturating with SAT into INT8 and INT4 (classes F and Q of R33) (DEDUCED, log 78). -/
def intOut (fmt : Nat) (rd : Rnd) (satOff : Bool) (v : Val) : Nat × Byte :=
  match fmt with
  | 8 | 9 =>
    let w := fmtWidth fmt
    let i := intOf v
    if i < -(2 ^ (w - 1) : Int) then (2 ^ (w - 1), fSAT) else if (2 ^ (w - 1) - 1 : Int) < i then (2 ^ (w - 1) - 1, fSAT)
    else ((i % (2 ^ w : Int)).toNat, 0)
  | 10 => e8Encode v
  | 3 => (flOf 3).encode rd (!satOff) satOff v
  | 4 => (flOf 4).encode rd (!satOff) false v
  | 0 => flF32.encode rd false false v
  | f => (flOf f).encode rd false false v

/-- Packed bytes of a row of codes over old bytes, a code that is absent keeping its place; a byte with no new code is absent. -/
def mergeCodes (w : Nat) (old : List Byte) (cs : List (Option Nat)) : List (Option Byte) :=
  let k := (elemGroup w).1
  let b := (elemGroup w).2
  ((piecesOf k cs.length cs).zipIdx).flatMap fun (x : List (Option Nat) × Nat) =>
    if x.1.all (·.isNone) then List.replicate b none
    else
      let was := leNat ((old.drop (x.2 * b)).take b)
      (natLe b ((x.1.zipIdx).foldl (fun v (y : Option Nat × Nat) => v + (y.1.getD (bits was (w * y.2) w)) * 2 ^ (w * y.2)) 0)).map some

/-- Runs of bytes that are present, with their offsets. -/
def runsOf : Nat → List (Option Byte) → List (Nat × List Byte)
  | _, [] => []
  | o, none :: bs => runsOf (o + 1) bs
  | o, some b :: bs =>
    match runsOf (o + 1) bs with
    | (p, r) :: rest => if p = o + 1 then (o, b :: r) :: rest else (o, [b]) :: (p, r) :: rest
    | [] => [(o, [b])]

/-- Bytes laid over others at an offset. -/
def patchAt (bs : List Byte) (off : Nat) (new : List Byte) : List Byte := bs.take off ++ (new ++ bs.drop (off + new.length))

/-- The header of the output tile. -/
def vOutHdr (v : VX) : Hdr :=
  let fmt := (dstOf v.e.wb).fmt
  let mx := v.k.mxOut fmt
  let kd := bit1 v.k.h 9
  { fmt := fmt, mx := mx, kDown := kd, rows := v.rows, cols := v.cols, scale := v.k.outScale, nnz := v.rows * v.cols,
    payload := denseSize fmt v.rows v.cols, side := sideLen v.rows v.cols kd mx false 0, maxLine := if kd then v.rows else v.cols }

/-- The output tile with no strip stored: its header and +0. -/
def vBlankOut (v : VX) : List Byte :=
  let h := vOutHdr v
  natLe 64 h.pack ++ List.replicate (64 * h.side + roundUp h.payload 64) 0

/-- What STS stores of a strip: block scales, element codes where a lane stores one, flags. -/
def vStrip (v : VX) (r : VRegs) : List Nat × List (Option Nat) × Byte :=
  let fmt := (dstOf v.e.wb).fmt
  let h := { vOutHdr v with rows := v.stripRows }
  let a := v.a r
  let N := v.stripRows * v.cols
  let at' (i : Nat) : Nat × Nat := (i / v.cols, i % v.cols)
  let mask : Array Bool := ((List.range N).map fun i => v.live r (at' i).1 (at' i).2).toArray
  let dr := v.draws 2
  let rd (i : Nat) : Rnd := dr.rnd (wbRnd v.e.wb) (32 * v.strip * v.cols + i)
  let code (i : Nat) : Nat := a (at' i).1 (at' i).2
  let lane (i c : Nat) : Option Nat := if mask.getD i false then some c else if v.pmode && (!v.scol || (at' i).2 == v.strip) then some 0 else none
  if v.ty = 2 ∧ !h.mx ∧ h.scale = 0 then
    let cs := (List.range N).map fun i => if mask.getD i false then intOut fmt (rd i) (bit1 v.k.h 7) (tyVal 2 (code i)) else (0, 0)
    ([], (cs.zipIdx).map fun (x : (Nat × Byte) × Nat) => lane x.2 x.1.1, cs.foldl (fun f x => f ||| x.2) 0)
  else
    let vals := (List.range N).map fun i => if !mask.getD i false then ((0 : Word32), (0 : Byte)) else
      if v.ty = 0 then (BitVec.ofNat 32 (code i), 0) else (let w := toF32 rne (tyVal v.ty (code i)); (w.1, w.2 ||| snanFlag (tyVal v.ty (code i))))
    let same := v.ty = 1 ∧ fmt = 1 ∧ h.scale = 0
    let r := encodeVals h (bit1 v.k.h 7) rd (vals.map (·.1)).toArray mask
    let codes (i : Nat) : Nat := if same then code i else r.1.getD i 0
    (r.2.1.toList, (List.range N).map fun i => lane i (codes i), if same then 0 else vals.foldl (fun f x => f ||| x.2) r.2.2)

/-- Bytes that lanes store, written page by page. A page in which every lane is masked raises no fault: where it cannot be written, its lanes are not (R39). -/
def wrLanes (s : State) (x : XCtx) (c va : Nat) (live : Nat → Nat → Bool) : Nat → Nat → List Byte → Job Unit
  | 0, _, _ => pure ()
  | fuel + 1, off, bs =>
    if bs.isEmpty then pure () else do
    let k := min bs.length (4096 - (va + off) % 4096)
    let j := wrOwn s x c (va + off) (bs.take k)
    let r := (Job.exec j).1
    if live off k || (match r with | .ok _ => true | .error e => e == stHold) then j
    wrLanes s x c va live fuel (off + k) (bs.drop k)

/-- STS: the strip of the output tile, in place under kind 0, in the entry under construction under kind 1 (DEDUCED, log 78). A waybill without a
destination has its strip converted and stored nowhere (DESIGN CHOICE, log 168). -/
def vSts (s : State) (v : VX) (r : VRegs) (out : List Byte) : Job (List Byte × Byte) := do
  let dst := dstOf v.e.wb
  let h := vOutHdr v
  let (scales, cs, fl) := vStrip v r
  let w := fmtWidth dst.fmt
  let sOff := 64 + (if h.kDown then v.strip * v.cols else 32 * v.strip * ceilDiv v.cols 32)
  let len := streamLen w (v.stripRows * v.cols)
  if dst.kind = 1 then do
    let o := if out.isEmpty then vBlankOut v else out
    let pOff := 64 * (1 + h.side) + streamLen w (32 * v.strip * v.cols)
    let o := if h.mx then patchAt o sOff (packElems 8 scales) else o
    let o := (runsOf pOff (mergeCodes w ((o.drop pOff).take len) cs)).foldl (fun o x => patchAt o x.1 x.2) o
    pure (o, fl)
  else if dst.kind = 2 then pure (out, fl)
  else do
    let hdr := fld v.e.wb 444 1 == 1
    let (i, j) := dst.ij v.e.next
    match ← locOf s v.x dst i j (maxObject dst.fmt v.rows v.cols hdr) with
    | .far .. => Job.fail stXlate
    | .absent => pure (out, fl)
    | .here va => do
      let pOff := (if hdr then 64 * (1 + h.side) else 0) + streamLen w (32 * v.strip * v.cols)
      if hdr then do
        wrOwn s v.x v.c va (natLe 64 h.pack)
        if h.mx then do
          let nb := nBlocks v.rows v.cols h.kDown
          wrOwn s v.x v.c (va + sOff) (packElems 8 scales)
          wrOwn s v.x v.c (va + 64 + nb) (List.replicate (roundUp nb 64 - nb) 0)
      let old ← if cs.any (·.isSome) ∧ w < 8 then (do let g ← rdPages s v.x (inPad v.c) (fun _ _ => false) va pOff (len / 4096 + 2) 0 len; pure g.bytes) else pure []
      let lanes := runsOf pOff (mergeCodes w [] ((List.range cs.length).map fun i => if v.live r (i / v.cols) (i % v.cols) then some 0 else none))
      let live (off k : Nat) : Bool := lanes.any fun l => decide (l.1 < off + k) && decide (off < l.1 + l.2.length)
      let _ ← Job.map (fun (x : Nat × List Byte) => wrLanes s v.x v.c va live (x.2.length / 4096 + 2) x.1 x.2) (runsOf pOff (mergeCodes w old cs))
      pure (out, fl)

/-! ### The station at work (R191, R197) -/

/-- Tiles of a Vector Station waybill. -/
def vTotal (w : Desc) : Nat := if (srcOf w).kind = 0 then (srcOf w).count else fld w 432 12

/-- The kernel of a waybill. -/
def State.kernOf (s : State) (c : Nat) (w : Desc) : Kern := Kern.ofBytes (Tab.look (s.cl c).st.kernSlots [] (fld w 445 3))

/-- Tile coordinates of an invocation (R191). -/
def vCoords (s : State) (c : Nat) (e : WbEntry) : Nat × Nat :=
  match (srcOf e.wb).kind with
  | 0 => let p := (srcOf e.wb).ij e.next; (p.2, p.1)
  | 1 => match (s.tileQ c 0x08).entries with | t :: _ => (t.row, t.col) | [] => (0, 0)
  | _ => (e.next, 0)

/-- The coordinates in a failure report: the tile in progress of the destination, else of the source (DEDUCED, log 80). -/
def vIJ (e : WbEntry) : Nat × Nat :=
  if (dstOf e.wb).kind = 0 then (dstOf e.wb).ij e.next else if (srcOf e.wb).kind = 0 then (srcOf e.wb).ij e.next else (e.next, 0)

/-- A consumer may begin on an entry: it has arrived, or `cut_at` × 64 bytes of it are present (R64). -/
def TileQ.ready (q : TileQ) (t : TileEntry) : Bool := t.arrived || (q.st.cutAt != 0 && decide (64 * q.st.cutAt.toNat ≤ t.here))

/-- The next invocation is taken up: a kind-1 source needs an entry, which is checked (R197), and an unresolved one is guarded by the saved
registers (DEDUCED, log 41). What is wrong with an entry counts only once it has passed its check (R64). -/
def State.vBegin (s : State) (c : Nat) (e : WbEntry) : State :=
  let v := (s.cl c).st.vec
  if v.cur.active then s else
  let start (saved : Option (VRegs × VCur)) : State :=
    s.updSt c fun y => { y with vec := { y.vec with cur := { active := true, pc := bits (wbOp e.wb) 0 6, tile := e.next }, saved := saved } }
  if (srcOf e.wb).kind ≠ 1 then start none
  else if v.saved.isSome then s
  else match (s.tileQ c 0x08).entries with
    | [] => s
    | t :: _ =>
      if !(s.tileQ c 0x08).ready t then s else
      match (Job.exec (parseTile (rdEntry t) (srcOf e.wb).fmt (vRole e.wb) fun _ => false)).1 with
      | .ok _ => start (if t.arrived then none else some (v.regs, v.cur))
      | .error st => if !t.arrived then s else let p := vIJ e; s.failWb c 4 e st p.1 p.2

/-- The surroundings of the instruction at the station's pc. -/
def State.vCtx (s : State) (c : Nat) (e : WbEntry) (r : Run) : VX :=
  let cur := (s.cl c).st.vec.cur
  let k := s.kernOf c e.wb
  let p := vCoords s c e
  { c := c, e := e, x := r.ctx c, k := k, ins := k.at cur.pc, strip := cur.strip, c1 := p.1, c2 := p.2, key := r.srKey }

/-- What a waybill exactly in place has stored of its tile is not in memory before the tile ends, since the station reads each tile before it writes it (R52). -/
def State.withLater (s : State) (c : Nat) : State := (s.cl c).st.vec.cur.later.foldl (fun s w => s.store { pa := w.1, bytes := w.2.1, who := 4 } w.2.2) s

/-- An instruction of an opcode executes when it is the one at the station's pc; `hold` makes it wait while the entry in hand has not
passed its check, as every failure does then (R64) (DESIGN CHOICE, log 42). Source bytes that its own waybill or another at work has written are undefined,
and so are destination bytes that either reads (R52). -/
def State.vRun (s : State) (c opc : Nat) (hold : Bool) (f : State → VX → VRegs → List Byte → Job (VRegs × List Byte × Byte)) : State :=
  match s.runningWb c 4 0, (s.cl c).run with
  | some e, some r =>
    if r.stopped ∨ s.eventHeld c 4 ∨ vTotal e.wb ≤ e.next then s else
    let s := s.vBegin c e
    let vec := (s.cl c).st.vec
    let v := s.vCtx c e r
    if !vec.cur.active ∨ vOpc v.ins ≠ opc ∨ (hold ∧ vec.saved.isSome) then s else
    let run (s : State) := ((f s v vec.regs vec.cur.outBytes).run).run { who := 4, home := some c, owner := some (e.part, e.seq) }
    let others := s.besides c e
    let o := rangesMeet (run s).2.srcs (e.dsts ++ others.flatMap (·.dsts))
    let s := s.scrambleAll o
    let j := run s
    if waits j.1 || j.2.retained s then s else
    match j.1 with
    | .ok (regs, out, fl) =>
      let a := if exactInPlace e.wb then { j.2 with writes := [] } else j.2
      let t := (((s.settle a).addBegun c a.begun).clash a.begun (e.srcs ++ a.srcs) others)
      let t := (if (s.changed e).isEmpty then t else t.scrambleAll a.begun).updWb c 4 0 fun e =>
        { e with srcs := e.srcs ++ a.srcs, dsts := e.dsts ++ a.begun }
      t.updSt c fun y => { y with vec := { y.vec with
        regs := regs, cur := { y.vec.cur with pc := y.vec.cur.pc + 1, outBytes := out, flags := y.vec.cur.flags ||| fl,
                                              later := y.vec.cur.later ++ if exactInPlace e.wb then j.2.writes.reverse.map fun w => (w.1.pa, w.1.bytes, w.2) else [] } } }
    | .error st =>
      if vec.saved.isSome then s else
      let p := vIJ e
      (((s.settle j.2.upToFailure).addBegun c j.2.begun).joinFlags e.part e.seq (vec.cur.flags ||| j.2.flags)).failWb c 4 e st p.1 p.2
  | _, _ => s

/-- An instruction that works on registers alone. -/
def State.vRegOp (s : State) (c opc : Nat) (f : VX → VRegs → VRegs × Byte) : State :=
  s.vRun c opc false fun _ v r out => pure ((f v r).1, out, (f v r).2)

/-- A lane-wise instruction of operands a, b and c. -/
def State.vLane (s : State) (c opc : Nat) (f : VX → Nat → Nat → Nat → Nat × Byte) : State :=
  s.vRegOp c opc fun v r =>
    let a := v.a r
    let b := v.b r
    let d := v.cOp r
    v.map r fun row col => f v (a row col) (b row col) (d row col)

/-- V_END: the invocation ends. After the last strip the tile is done: its entry of the output siding enters when there is room, its source
entry leaves once its check has resolved, and its flags join the waybill's (DEDUCED, log 41). An invocation counts when its END executes, and
stays counted when its entry is rolled back later (DESIGN CHOICE, log 171). -/
def execVEnd (c : Nat) (s : State) : Res :=
  match s.runningWb c 4 0, (s.cl c).run with
  | some e, some r =>
    if r.stopped ∨ s.eventHeld c 4 ∨ vTotal e.wb ≤ e.next then .next s else
    let s := s.vBegin c e
    let vec := (s.cl c).st.vec
    let v := s.vCtx c e r
    if !vec.cur.active ∨ vOpc v.ins ≠ 0 then .next s
    else if (srcOf e.wb).kind ≠ 2 ∧ 32 * (vec.cur.strip + 1) < v.rows then
      .next ((s.bumpFor (e.part, e.seq) 0x7080 1 1).updSt c fun y => { y with vec := { y.vec with
        cur := { y.vec.cur with strip := y.vec.cur.strip + 1, pc := bits (wbOp e.wb) 0 6 } } })
    else
      let toSiding := (dstOf e.wb).kind == 1
      if vec.saved.isSome ∨ vec.cur.later.any (fun w => s.retainedAt w.1 w.2.1.length none) ∨ (toSiding ∧ tileDepth ≤ (s.tileQ c 0x0B).entries.length) then .next s else
      let later := vec.cur.later
      let ws := later.map fun w => (w.1, w.2.1.length)
      let t := ((s.storeBy c 4 e.part (later.map fun w => ({ pa := w.1, bytes := w.2.1 }, w.2.2))).addBegun c ws).clash ws e.srcs (s.besides c e)
      let t := t.bumpFor (e.part, e.seq) 0x7080 1 1
      let t := if toSiding then
          t.updTileQ c 0x0B fun q => { q with entries := q.entries ++ [{ bytes := if vec.cur.outBytes.isEmpty then vBlankOut v else vec.cur.outBytes, row := v.c1, col := v.c2 }] }
        else t.tilesWritten c 1
      let t := if (srcOf e.wb).kind = 1 then t.updTileQ c 0x08 fun q => { q with entries := q.entries.tail } else t
      let t := t.updSt c fun y => { y with vec := { y.vec with cur := {} } }
      .next (t.updWb c 4 0 fun e => { e with next := e.next + 1, flags := e.flags ||| vec.cur.flags, dsts := e.dsts ++ ws,
                                             phase := if vTotal e.wb ≤ e.next + 1 then .written else e.phase })
  | _, _ => .next s

/-! ### The instructions -/

/-- V_MOV. -/
def execVMov (c : Nat) (s : State) : Res := .next (s.vLane c 0x01 fun _ a _ _ => (a, 0))

/-- V_ADD. -/
def execVAdd (c : Nat) (s : State) : Res := .next (s.vLane c 0x02 fun v a b _ => arith2 v.ty addV (· + ·) a b)

/-- V_SUB. -/
def execVSub (c : Nat) (s : State) : Res := .next (s.vLane c 0x03 fun v a b _ => arith2 v.ty (fun x y => addV x y.neg) (· - ·) a b)

/-- V_MUL. -/
def execVMul (c : Nat) (s : State) : Res := .next (s.vLane c 0x04 fun v a b _ => arith2 v.ty mulV (· * ·) a b)

/-- V_FMA. -/
def execVFma (c : Nat) (s : State) : Res := .next (s.vLane c 0x05 fun v a b d => arithFma v.ty a b d)

/-- V_MIN. -/
def execVMin (c : Nat) (s : State) : Res := .next (s.vLane c 0x06 fun v a b _ => arithMinMax v.ty false a b)

/-- V_MAX. -/
def execVMax (c : Nat) (s : State) : Res := .next (s.vLane c 0x07 fun v a b _ => arithMinMax v.ty true a b)

/-- V_ABS. -/
def execVAbs (c : Nat) (s : State) : Res := .next (s.vLane c 0x08 fun v a _ _ => arithSign v.ty false a)

/-- V_NEG. -/
def execVNeg (c : Nat) (s : State) : Res := .next (s.vLane c 0x09 fun v a _ _ => arithSign v.ty true a)

/-- V_DIV. -/
def execVDiv (c : Nat) (s : State) : Res := .next (s.vLane c 0x0A fun v a b _ => tyEnc v.ty (divV (tyVal v.ty a) (tyVal v.ty b)))

/-- V_RCP. -/
def execVRcp (c : Nat) (s : State) : Res := .next (s.vLane c 0x0B fun v a _ _ => tyEnc v.ty (divV (.fin false 1 0) (tyVal v.ty a)))

/-- V_SQRT. -/
def execVSqrt (c : Nat) (s : State) : Res := .next (s.vLane c 0x0C fun v a _ _ => tyEnc v.ty (sqrtV (tyVal v.ty a)))

/-- V_RSQRT. -/
def execVRsqrt (c : Nat) (s : State) : Res := .next (s.vLane c 0x0D fun v a _ _ => tyEnc v.ty (rsqrtV (tyVal v.ty a)))

/-- V_EXP2. -/
def execVExp2 (c : Nat) (s : State) : Res := .next (s.vLane c 0x0E fun v a _ _ => tyEnc v.ty (exp2V (tyVal v.ty a)))

/-- V_LOG2. -/
def execVLog2 (c : Nat) (s : State) : Res := .next (s.vLane c 0x0F fun v a _ _ => tyEnc v.ty (log2V (tyVal v.ty a)))

/-- V_TBL. -/
def execVTbl (c : Nat) (s : State) : Res := .next (s.vLane c 0x10 fun v a _ _ => arithTbl v a)

/-- CMP's predicate: masked lanes keep their bit, or take 0 under `pmode` 1 (R192). -/
def vCmpOp (v : VX) (r : VRegs) : VRegs × Byte :=
  let a := v.a r
  let b := v.b r
  let p := bits v.aux 0 2
  let cells := (List.range (32 * v.width)).map fun i =>
    let row := i / v.width
    let col := i % v.width
    if v.live r row col then (let x := arithCmp v.ty (bits v.aux 2 3) (a row col) (b row col); (row * 512 + col, some x.1, x.2))
    else (row * 512 + col, if v.pmode && (!v.scol || col == v.strip) then some false else none, (0 : Byte))
  let set := cells.foldl (fun n x => if x.2.1 == some true then n + 2 ^ x.1 else n) 0
  let clr := cells.foldl (fun n x => if x.2.1 == some false then n + 2 ^ x.1 else n) 0
  ({ r with p := Tab.put r.p 0 p ((Tab.look r.p 0 p &&& ~~~ BitVec.ofNat 16384 clr) ||| BitVec.ofNat 16384 set) }, cells.foldl (fun f x => f ||| x.2.2) 0)

/-- V_CMP. -/
def execVCmp (c : Nat) (s : State) : Res := .next (s.vRegOp c 0x11 vCmpOp)

/-- V_SEL. -/
def execVSel (c : Nat) (s : State) : Res :=
  .next (s.vRegOp c 0x12 fun v r =>
    let a := v.a r
    let b := v.b r
    v.map r fun row col => (if r.pbit (bits v.aux 0 2) row col then a row col else b row col, 0))

/-- V_SWP. -/
def execVSwp (c : Nat) (s : State) : Res :=
  .next (s.vRegOp c 0x13 fun v r =>
    let a := v.a r
    v.map r fun row col => if col % 2 = 0 then arithSign v.ty true (a row (col + 1)) else (a row (col - 1), 0))

/-- V_CVT. -/
def execVCvt (c : Nat) (s : State) : Res :=
  .next (s.vRegOp c 0x14 fun v r =>
    let st := bits v.aux 0 2
    let a := v.opnd r (bits v.ins 14 6) st
    let d := v.draws 2
    v.map r fun row col => arithCvt st v.ty (d.rnd (wbRnd v.e.wb) (v.elemNo row col)) (a row col))

/-- V_RSUM. -/
def execVRsum (c : Nat) (s : State) : Res := .next (s.vRegOp c 0x18 (vRowReduce 0))

/-- V_RMAX. -/
def execVRmax (c : Nat) (s : State) : Res := .next (s.vRegOp c 0x19 (vRowReduce 1))

/-- V_RMIN. -/
def execVRmin (c : Nat) (s : State) : Res := .next (s.vRegOp c 0x1A (vRowReduce 2))

/-- V_CSUM. -/
def execVCsum (c : Nat) (s : State) : Res := .next (s.vRegOp c 0x1B (vColReduce 0))

/-- V_CMAX. -/
def execVCmax (c : Nat) (s : State) : Res := .next (s.vRegOp c 0x1C (vColReduce 1))

/-- LDS. -/
def execLds (c : Nat) (s : State) : Res := .next (s.vRun c 0x20 false fun s v r out => do let y ← vLds s v r; pure (y.1, out, y.2))

/-- LDT. -/
def execLdt (c : Nat) (s : State) : Res := .next (s.vRun c 0x21 false fun s v r out => do let y ← vLdt s v r; pure (y.1, out, y.2))

/-- STS. Its effects wait while the entry in hand has not passed its check (R197): it stalls (DEDUCED, log 41). -/
def execSts (c : Nat) (s : State) : Res := .next (s.vRun c 0x22 true fun s v r out => do let y ← vSts (s.withLater c) v r out; pure (r, y.1, y.2))

/-- TOPK. -/
def execTopk (c : Nat) (s : State) : Res := .next (s.vRegOp c 0x28 vTopk)

/-- SAMPLE. -/
def execSample (c : Nat) (s : State) : Res := .next (s.vRegOp c 0x29 vSample)

/-- SRESET. -/
def execSreset (c : Nat) (s : State) : Res := .next (s.vRegOp c 0x2A vSreset)

end Sys2Proof.Machine
end

