-- ==== Sys2Proof/Machine/Turntable.lean ====
section
/-! DEFINITION. The Turntable (R203 to R225): copies, transposes, maps, EXPAND and ENCODE, DROPOUT, gathers and scatters of table rows,
the staging buffer. -/

namespace Sys2Proof.Machine

/-! ### Fields (R211, R213) -/

def ttOp (w : Desc) : Nat := bits (wbOp w) 0 4
def ttKd (w : Desc) : Bool := bit1 (wbOp w) 4
def ttFast (w : Desc) : Bool := bit1 (wbOp w) 5
def ttOpt (w : Desc) : Bool := bit1 (wbOp w) 6
def ttAux (w : Desc) : Nat := 64 * fld w 432 42
def ttHdr (w : Desc) : Bool := fld w 474 1 == 1
def ttSatOff (w : Desc) : Bool := fld w 475 1 == 1
def ttBand (w : Desc) : Nat := fld w 477 5

/-- MX-scaled destination. -/
def ttMx (w : Desc) : Bool := fld w 476 1 == 1 || alwaysMx (dstOf w).fmt

/-- The destination's shape. -/
def ttShape (w : Desc) : Nat × Nat := if ttOp w = 1 ∨ ttOp w = 2 then (wbCols w, wbRows w) else (wbRows w, wbCols w)

/-- Bytes of a table row. -/
def rowLen (fmt cols : Nat) : Nat := streamLen (fmtWidth fmt) cols

/-! ### Overlap and staging (R222, R223) -/

/-- The interval of a stream of tiles of `m` bytes, end excluded: from its corners (R47). -/
def Strm.interval (t : Strm) (m : Nat) : Int × Int :=
  let cs := [t.at 0 0, t.at (t.len0 - 1) 0, t.at 0 (t.len1 - 1), t.at (t.len0 - 1) (t.len1 - 1)]
  (cs.foldl min (t.at 0 0), cs.foldl max (t.at 0 0) + m)

/-- The exact in-place case of R52. -/
def inPlace (w : Desc) : Bool :=
  (ttOp w < 6 || ttOp w == 9) && exactInPlace w && (ttOp w != 1 || wbRows w == wbCols w)

/-- The intersection of the two sides, rounded outwards to 64 bytes: start and size. Sides behind an owner table hold tensor offsets and are not compared (DEDUCED, log 83). -/
def ttOverlap (w : Desc) : Int × Nat :=
  let a := srcOf w
  let b := dstOf w
  if a.kind ≠ 0 ∨ b.kind ≠ 0 ∨ ttOp w = 2 ∨ inPlace w ∨ fld w 48 2 ≠ 0 then (0, 0) else
  let ma := if ttOp w = 6 then rowLen a.fmt (wbCols w) else maxObject a.fmt (wbRows w) (wbCols w) (ttHdr w)
  let mb := if ttOp w = 7 ∨ ttOp w = 8 then rowLen b.fmt (wbCols w) else maxObject b.fmt (ttShape w).1 (ttShape w).2 (ttHdr w)
  let x := a.interval ma
  let y := b.interval mb
  let lo := max x.1 y.1
  let hi := min x.2 y.2
  if hi ≤ lo then (0, 0) else
  let l := lo / 64 * 64
  (l, ((hi + 63) / 64 * 64 - l).toNat)

/-- A unit of the intersection as the staging buffer takes it; a unit that does not translate is not staged. -/
def State.stageUnit (s : State) (x : XCtx) (c : Nat) (va : Int) : List StageUnit :=
  if va < 0 then [] else
  match (Job.exec (rdOwn s x c va.toNat needAll 0 64)).1 with
  | .ok g => [{ va := va.toNat, bytes := g.bytes, bad := g.bad, marks := g.marks, pend := !g.pend.isEmpty }]
  | .error _ => []

/-- What staging does before the first tile: nothing, the copy with its counters and information bit, or a rejection (DEDUCED, log 82). -/
def State.ttStage (s : State) (x : XCtx) (c : Nat) (r : Run) (w : Desc) : Option State :=
  let (l, O) := ttOverlap w
  if 262144 < O then none
  else if O = 0 then some (s.updSt c fun y => { y with stage := [] })
  else
    let us := (List.range (O / 64)).flatMap fun (i : Nat) => s.stageUnit x c (l + 64 * i)
    some ((((s.bumpFor (r.part, r.seq) 0x7090 3 1).bumpFor (r.part, r.seq) 0x7090 4 O).updSt c fun y => { y with stage := us }).updEntry r.part r.seq
      fun e => { e with info := e.info ||| 8 })

/-- What a read found, with staged units in place of memory; the read begins at a multiple of 64. -/
def overlay (us : List StageUnit) (va n : Nat) (g : Got) : Got :=
  us.foldl (fun g u =>
    if va ≤ u.va ∧ u.va < va + n then
      let k := u.va - va
      let m := min 64 (n - k)
      { lead := g.lead, pend := g.pend.filter (· != k / 64)
        bytes := patchAt g.bytes k (u.bytes.take m)
        bad := g.bad.filter (fun b => !(k / 8 ≤ b && b < k / 8 + 8)) ++ (u.bad.filter fun b => b * 8 < m).map fun b => k / 8 + b
        marks := g.marks.filter (fun e => e.1 != k / 64) ++ u.marks.map fun e => (k / 64 + e.1, e.2) }
    else g) g

/-- A read of the own scratchpad through the staging buffer. -/
def rdStaged (s : State) (x : XCtx) (c va : Nat) : Reader := fun need off n => do
  let g ← rdOwn s x c va need off n
  pure (overlay (s.cl c).st.stage (va + off) n g)

/-! ### Source and destination tiles -/

/-- Virtual addresses laid over ranges that follow one another from one. -/
def vaOver : Nat → List (Nat × Nat) → List (Nat × Nat × Nat)
  | _, [] => []
  | va, r :: rs => (va, r.1, r.2) :: vaOver (va + r.2) rs

/-- What two lists have in common at places to which two virtual addresses map (R223). -/
def aliased (a b : List (Nat × Nat × Nat)) : List (Nat × Nat) :=
  a.flatMap fun x => (b.filter fun y => x.1 + y.2.1 != y.1 + x.2.1).flatMap fun y => rangesMeet [x.2] [y.2]

/-- The Turntable's source read at a virtual address. It counts as overlapping where the two sides are not compared, or their intervals do not meet; in
every case, where two virtual addresses map to one place (R223). -/
def ttRead (w : Desc) (va : Nat) (j : Job α) : Job α := do
  let k := (← get).reads.length
  let r ← if ttOp w = 2 ∨ inPlace w ∨ (ttOverlap w).2 ≠ 0 then j else Job.asSource j
  Job.note fun a => { a with vsrcs := a.vsrcs ++ vaOver va ((a.reads.drop k).map fun r => (r.1, r.2.1)) }
  pure r

/-- A write of the Turntable's destination. -/
def ttWrite (s : State) (x : XCtx) (c va : Nat) (bs : List Byte) : Job Unit := do
  let k := (← get).writes.length
  wrOwn s x c va bs
  Job.note fun a => { a with vdsts := a.vdsts ++ vaOver va (((a.writes.take (a.writes.length - k)).reverse).map fun w => (w.1.pa, w.1.bytes.length)) }

/-- A write beside the destination, as of saved bits. -/
def ttBeside (s : State) (x : XCtx) (c va : Nat) (bs : List Byte) : Job Unit := do
  let k := (← get).writes.length
  wrOwn s x c va bs
  Job.note fun a => { a with side := a.side ++ (a.writes.take (a.writes.length - k)).map fun w => (w.1.pa, w.1.bytes.length) }

/-- A source tile: from its siding or from the stream. -/
def ttSource (s : State) (x : XCtx) (c : Nat) (e : WbEntry) (i j : Nat) (ok : Hdr → Bool) : Job Tile := do
  let w := e.wb
  let src := srcOf w
  if src.kind = 1 then
    match (s.tileQ c 0x09).entries with
    | t :: _ => parseTile (rdEntry t) src.fmt ok
    | [] => Job.fail stTile
  else
    match ← locOf s x src i j (maxObject src.fmt (wbRows w) (wbCols w) (ttHdr w)) with
    | .here va => ttRead w va (if ttHdr w then parseTile (rdStaged s x c va) src.fmt ok else parseBare (rdStaged s x c va) src.fmt (wbRows w) (wbCols w) false)
    | .absent => do
      Job.require (!ttHdr w) stTile
      pure (bareOf src.fmt (wbRows w) (wbCols w) false (List.replicate (denseSize src.fmt (wbRows w) (wbCols w)) 0))
    | .far .. => Job.fail stXlate

/-- Role Turntable source with a code, and the waybill's shape. -/
def ttRole (w : Desc) (h : Hdr) : Bool := h.rows == wbRows w && h.cols == wbCols w && h.sparse == 0

/-- Elements of a destination: codes, mask, block scales, flags. -/
structure Moved where
  codes : Array Nat
  mask : Array Bool
  scales : Array Nat
  flags : Byte

/-- The elements of each block of a tile. -/
def blockEls (rows cols : Nat) (kd : Bool) : Array (List Nat) :=
  (List.range (rows * cols)).foldl (fun (a : Array (List Nat)) e => a.modify (blockOf cols kd e) (· ++ [e])) (Array.replicate (nBlocks rows cols kd) [])

/-- The elements in a block of a tile. -/
def blockSize (rows cols : Nat) (kd : Bool) (b : Nat) : Nat :=
  if kd then min 32 (rows - b / cols * 32) else min 32 (cols - b % ceilDiv cols 32 * 32)

/-- The source block that a destination block carries over whole, if there is one. -/
def carriedBlock (t : Tile) (pick : Nat → Option Nat) (els : List Nat) : Option Nat :=
  match els.map pick with
  | some e0 :: rest =>
    let b := blockOf t.hdr.cols t.hdr.kDown e0
    if rest.all (fun p => p.any fun e => blockOf t.hdr.cols t.hdr.kDown e == b) && decide (els.map pick).Nodup && els.length == blockSize t.hdr.rows t.hdr.cols t.hdr.kDown b
    then some b else none
  | _ => none

/-- Class Q of R33: INT8 to INT4 without block scales; with a per-tile scale the element is an FP32 value when it is encoded (DEDUCED, log 155). -/
def classQ (t : Tile) (h : Hdr) : Bool := t.hdr.fmt == 8 && h.fmt == 9 && !t.hdr.mx && !h.mx && t.hdr.scale == 0 && h.scale == 0

/-- R215: codes move unchanged with their block scales, or each element is decoded and encoded again. `pick` names the source element of
each destination element; one without a source is +0, its mask bit as given (DEDUCED, log 155). -/
def ttConvert (t : Tile) (h : Hdr) (pick : Nat → Option Nat) (onNone : Bool) (satOff : Bool) (rnd : Nat → Rnd) : Moved :=
  let N := h.rows * h.cols
  let mask : Array Bool := ((List.range N).map fun d => match pick d with | some e => t.mask.getD e false | none => onNone).toArray
  let carried := if h.mx && t.hdr.mx then (blockEls h.rows h.cols h.kDown).map (carriedBlock t pick) else #[]
  if h.fmt == t.hdr.fmt && h.mx == t.hdr.mx && carried.all (·.isSome) then
    { codes := ((List.range N).map fun d => match pick d with | some e => if t.mask.getD e false then t.codes.getD e 0 else 0 | none => 0).toArray
      mask := mask, scales := carried.map fun b => t.scales.getD (b.getD 0) 0, flags := 0 }
  else if classQ t h then
    let vals := (List.range N).map fun d => match pick d with
      | some e => if t.mask.getD e false then convElem 8 9 (rnd d) satOff (t.codes.getD e 0) else ((0 : Nat), (0 : Byte))
      | none => ((0 : Nat), (0 : Byte))
    { codes := (vals.map (·.1)).toArray, mask := mask, scales := #[], flags := vals.foldl (fun f v => f ||| v.2) 0 }
  else
    let vals := (List.range N).map fun d => match pick d with | some e => t.f32 e | none => ((0 : Word32), (0 : Byte))
    let r := encodeVals h satOff rnd (vals.map (·.1)).toArray mask
    { codes := r.1, mask := mask, scales := r.2.1, flags := vals.foldl (fun f v => f ||| v.2) r.2.2 }

/-- The draws of a waybill's tile at site 0x4: the destination's (j, i), or the source's for a siding (R215). -/
def State.ttDraws (s : State) (c : Nat) (e : WbEntry) (i j : Nat) : Draws := s.drawsOf c e 4 j i

/-- A destination tile laid out and written, or returned as an entry of the output siding. -/
def ttPut (s : State) (x : XCtx) (c : Nat) (e : WbEntry) (i j : Nat) (h : Hdr) (m : Moved) (sp : Nat) (plan : Bool) : Job (Option (List Byte)) := do
  let w := e.wb
  let dst := dstOf w
  Job.flag m.flags
  Job.count 0x7090 1 1
  let o := layTile h m.codes m.mask m.scales sp plan
  let hdr := ttHdr w || dst.kind == 1
  if hdr && o.2 then Job.count 0x7050 4 1
  if dst.kind = 1 then pure (some o.1)
  else
    match ← locOf s x dst i j (maxObject dst.fmt h.rows h.cols (ttHdr w)) with
    | .here va => do ttWrite s x c va (if hdr then o.1 else bareBytes dst.fmt m.codes); pure none
    | .absent => pure none
    | .far .. => Job.fail stXlate

/-- The destination's header for a source tile. -/
def ttHdrOf (w : Desc) (t : Tile) : Hdr :=
  { fmt := (dstOf w).fmt, mx := ttMx w, kDown := ttKd w, rows := (ttShape w).1, cols := (ttShape w).2, epoch := t.hdr.epoch,
    scale := if ttHdr w ∨ (dstOf w).kind = 1 then t.hdr.scale else 0 }

/-- The tile (i, j) of step n, by the side that is kind 0. -/
def ttIJ (w : Desc) (n : Nat) : Nat × Nat := if (dstOf w).kind = 0 ∧ ttOp w ≠ 7 ∧ ttOp w ≠ 8 then (dstOf w).ij n else (srcOf w).ij n

/-- Source tile of step n. -/
def ttSrcIJ (w : Desc) (n : Nat) : Nat × Nat := if (srcOf w).kind = 0 then (srcOf w).ij n else (dstOf w).ij n

/-- A tile operation whose destination elements are source elements in other places. -/
def ttMapTile (s : State) (x : XCtx) (c : Nat) (e : WbEntry) (ok : Hdr → Bool) (pick : Tile → Nat → Option Nat) (onNone : Bool) (sp : Nat) (plan : Bool) :
    Job (Option (List Byte)) := do
  let w := e.wb
  let a := ttSrcIJ w e.next
  let d := ttIJ w e.next
  let t ← ttSource s x c e a.1 a.2 ok
  Job.require (wbEpoch w == 0 || t.hdr.epoch == wbEpoch w) stMaskEpoch
  let h := ttHdrOf w t
  let dr := s.ttDraws c e d.1 d.2
  ttPut s x c e d.1 d.2 h (ttConvert t h (pick t) onNone (ttSatOff w) (dr.rnd (wbRnd w))) sp plan

/-! ### The operations (R207, R212, R213, R224) -/

/-- COPY. -/
def ttCopyTile (x : XCtx) (c : Nat) (s : State) (e : WbEntry) : Job (Option (List Byte)) :=
  ttMapTile s x c e (ttRole e.wb) (fun _ d => some d) true 0 false

/-- Element (r, c) of the transpose is source (c, r). -/
def transPick (rows cols d : Nat) : Nat := d % rows * cols + d / rows

/-- TRANSPOSE. -/
def ttTransposeTile (x : XCtx) (c : Nat) (s : State) (e : WbEntry) : Job (Option (List Byte)) :=
  ttMapTile s x c e (ttRole e.wb) (fun _ d => some (transPick (wbRows e.wb) (wbCols e.wb) d)) true 0 false

/-- ENCODE (DEDUCED, log 84). -/
def ttEncodeTile (x : XCtx) (c : Nat) (s : State) (e : WbEntry) : Job (Option (List Byte)) :=
  ttMapTile s x c e (ttRole e.wb) (fun _ d => some d) true (dstOf e.wb).sparse (ttOpt e.wb)

/-- EXPAND: a row band of the source, element-transposed under `opt`; rows beyond it are mask-off (DEDUCED, log 84). -/
def ttExpandTile (x : XCtx) (c : Nat) (s : State) (e : WbEntry) : Job (Option (List Byte)) :=
  let w := e.wb
  ttMapTile s x c e (fun h => codeOk h (srcOf w).sparse && (if ttOpt w then h.rows else h.cols) == wbCols w)
    (fun t d =>
      let R := ttBand w * wbRows w + d / wbCols w
      let q := d % wbCols w
      if ttOpt w then (if R < t.hdr.cols then some (q * t.hdr.cols + R) else none)
      else (if R < t.hdr.rows then some (R * t.hdr.cols + q) else none)) false 0 false

/-- A map's entries. -/
def mapEntries (n : Nat) (bs : List Byte) : List Nat := (piecesOf 2 n bs).map leNat

/-- PERMUTE: an entry outside the source tile fails the waybill with DESC_INVALID (R212) (DEDUCED, log 87). -/
def ttPermuteTile (x : XCtx) (c : Nat) (s : State) (e : WbEntry) : Job (Option (List Byte)) := do
  let w := e.wb
  let rows := wbRows w
  let cols := wbCols w
  let pr := mapEntries rows (← Job.asSource (rdOwnAll s x c (ttAux w) (2 * rows)))
  let pc := mapEntries cols (← Job.asSource (rdOwnAll s x c (ttAux w + roundUp (2 * rows) 64) (2 * cols)))
  Job.require (pr.all (fun v => v < rows || v == 0xFFFF) && pc.all fun v => v < cols || v == 0xFFFF) stDesc
  let pra := pr.toArray
  let pca := pc.toArray
  ttMapTile s x c e (ttRole w) (fun _ d =>
    let r := pra.getD (d / cols) 0xFFFF
    let q := pca.getD (d % cols) 0xFFFF
    if r = 0xFFFF ∨ q = 0xFFFF then none else some (r * cols + q)) true 0 false

/-- TRANSPOSE_IP: at tile (i, j) with i < j the pair changes places, each transposed; on the diagonal the tile is transposed where it lies. -/
def ttInPlaceTile (x : XCtx) (c : Nat) (s : State) (e : WbEntry) : Job (Option (List Byte)) := do
  let w := e.wb
  let (i, j) := (srcOf w).ij e.next
  let put (a : Tile) (i j : Nat) : Job Unit := do
    let h := ttHdrOf w a
    let dr := s.ttDraws c e i j
    let _ ← ttPut s x c e i j h (ttConvert a h (fun d => some (transPick (wbRows w) (wbCols w) d)) true (ttSatOff w) (dr.rnd (wbRnd w))) 0 false
  if i < j then do
    let a ← ttSource s x c e i j (ttRole w)
    let b ← ttSource s x c e j i (ttRole w)
    put b i j
    put a j i
    pure none
  else if i = j then do
    let a ← ttSource s x c e i j (ttRole w)
    put a i j
    pure none
  else pure none

/-- DROPOUT (R207) (DEDUCED, log 85). -/
def ttDropoutTile (x : XCtx) (c : Nat) (s : State) (e : WbEntry) : Job (Option (List Byte)) := do
  let w := e.wb
  let a := ttSrcIJ w e.next
  let d := ttIJ w e.next
  let blk := leNat (← Job.asSource (rdOwnAll s x c (ttAux w) 64))
  Job.require (bits blk 42 6 == 0 && bits blk 72 24 == 0 && bits blk 128 384 == 0) stDesc
  let keepS : Word32 := BitVec.ofNat 32 (bits blk 96 32)
  let t ← ttSource s x c e a.1 a.2 (ttRole w)
  let dr := s.ttDraws c e d.1 d.2
  let N := t.n
  let kept : Array Bool := ((List.range N).map fun k =>
    t.mask.getD k false && decide (bits blk 48 24 ≤ (draw dr.key dr.site dr.stream dr.row dr.col k).toNat / 2 ^ 8)).toArray
  let area := bitsArea (bits blk 0 42) e.next (wbRows w) (wbCols w)
  let drawn := (List.range N).map fun k => kept.getD k false
  let out ← if ttOpt w then (do
      let old := boolsOf N (← Job.asSource (rdOwnAll s x c area (ceilDiv N 8)))
      pure (drawn.zipWith (fun p q => p && q) old))
    else pure drawn
  let h := ttHdrOf w t
  let m ← if ttHdr w then (do
      let sc := fmul t.tOf keepS
      Job.require (scaleOk sc.1) stTile
      Job.flag sc.2
      let t' : Tile := { t with hdr := { t.hdr with scale := sc.1 }, codes := ((List.range N).map fun k => if kept.getD k false then t.codes.getD k 0 else 0).toArray }
      let h' := { h with scale := sc.1 }
      pure (h', ttConvert t' h' (fun k => some k) true (ttSatOff w) (dr.rnd 0)))
    else (do
      let vs := (List.range N).map fun k => if kept.getD k false then
          (let v := t.f32 k
           let y := fmul v.1 keepS
           let z := ofF32 h.fmt rne (ttSatOff w) y.1
           (z.1, z.2 ||| y.2 ||| v.2)) else ((0 : Nat), (0 : Byte))
      pure (h, { codes := (vs.map (·.1)).toArray, mask := t.mask, scales := #[], flags := vs.foldl (fun f v => f ||| v.2) 0 }))
  let o ← ttPut s x c e d.1 d.2 m.1 m.2 0 false
  ttBeside s x c area (bytesOfBools out)
  pure o

/-! ### Table rows (R219 to R221) -/

/-- The index entries of tile n. -/
def ttIndex (s : State) (x : XCtx) (c : Nat) (w : Desc) (n : Nat) : Job (List Nat) := do
  let bs ← Job.asSource (rdOwnAll s x c (ttAux w + 4 * (n * wbRows w)) (4 * wbRows w))
  pure ((piecesOf 4 (wbRows w) bs).map leNat)

/-- An entry that skips its row. -/
def skipRow : Nat := 0xFFFFFFFF

/-- GATHER: rows of the table make a tile; a skipped row is +0. -/
def ttGatherTile (x : XCtx) (c : Nat) (s : State) (e : WbEntry) : Job (Option (List Byte)) := do
  let w := e.wb
  let src := srcOf w
  let d := ttIJ w e.next
  let idx ← ttIndex s x c w e.next
  let n := rowLen src.fmt (wbCols w)
  let rowsC ← Job.map (fun k =>
    if k = skipRow then pure (List.replicate (wbCols w) 0)
    else if src.len0 ≤ k then Job.fail stXlate
    else do
      match ← locOf s x src k 0 n with
      | .here va => do
        let g ← ttRead w va (rdStaged s x c va needAll 0 n)
        consume g 0 needAll
        pure (unpackElems (fmtWidth src.fmt) (wbCols w) g.bytes)
      | .absent => pure (List.replicate (wbCols w) 0)
      | .far .. => Job.fail stXlate) idx
  let t : Tile := { hdr := bareHdr src.fmt (wbRows w) (wbCols w) false, codes := rowsC.flatten.toArray, mask := allOn (wbRows w) (wbCols w) }
  let h := ttHdrOf w t
  let dr := s.ttDraws c e d.1 d.2
  ttPut s x c e d.1 d.2 h (ttConvert t h (fun k => some k) true (ttSatOff w) (dr.rnd (wbRnd w))) 0 false

/-- SCATTER: rows of a tile go to table rows, in increasing ρ (DEDUCED, log 87). -/
def ttScatterTile (x : XCtx) (c : Nat) (s : State) (e : WbEntry) : Job (Option (List Byte)) := do
  let w := e.wb
  let dst := dstOf w
  let a := ttSrcIJ w e.next
  let idx ← ttIndex s x c w e.next
  let t ← ttSource s x c e a.1 a.2 (ttRole w)
  let h := bareHdr dst.fmt (wbRows w) (wbCols w) (ttKd w)
  let dr := s.ttDraws c e a.1 a.2
  let m := ttConvert t h (fun k => some k) true (ttSatOff w) (dr.rnd (wbRnd w))
  Job.flag m.flags
  let n := rowLen dst.fmt (wbCols w)
  let _ ← Job.map (fun (p : Nat × Nat) =>
    if p.1 = skipRow then pure ()
    else if dst.len0 ≤ p.1 then Job.fail stXlate
    else do
      Job.count 0x7090 1 1
      match ← locOf s x dst p.1 0 n with
      | .here va => ttWrite s x c va (packElems (fmtWidth dst.fmt) ((List.range (wbCols w)).map fun q => m.codes.getD (p.2 * wbCols w + q) 0))
      | .absent => pure ()
      | .far .. => Job.fail stXlate) idx.zipIdx
  pure none

/-- Of up to 8 updates in flight, a free choice goes first (R221). -/
def inFlight : Nat → Nat → List α → List α
  | 0, _, xs => xs
  | fuel + 1, k, xs =>
    let i := (Config.freeWord k).toNat % max 1 (min 8 xs.length)
    match xs[i]? with
    | some x => x :: inFlight fuel (k + 1) (xs.eraseIdx i)
    | none => xs

/-- Updates of table rows: row number, and the element values that are added, absent where masked. -/
abbrev RowAdd := Nat × Array (Option (Word32 × Byte))

/-- The rows of a source tile as updates. -/
def ttAdds (s : State) (x : XCtx) (c : Nat) (e : WbEntry) (n : Nat) : Job (List RowAdd) := do
  let w := e.wb
  let a := ttSrcIJ w n
  Job.note fun q => { q with i := a.1, j := a.2 }
  let idx ← ttIndex s x c w n
  Job.require (idx.all fun k => k == skipRow || decide (k < (dstOf w).len0)) stXlate
  let t ← ttSource s x c { e with next := n } a.1 a.2 (ttRole w)
  pure ((idx.zipIdx.filter fun p => p.1 != skipRow).map fun p =>
    (p.1, ((List.range (wbCols w)).map fun q => let k := p.2 * wbCols w + q; if t.mask.getD k false then some (t.f32 k) else none).toArray))

/-- Updates made one after another: d ← RNE(d + v), each table row read once and written once. -/
def ttAddRows (s : State) (x : XCtx) (c : Nat) (e : WbEntry) (us : List RowAdd) : Job Unit := do
  let w := e.wb
  let dst := dstOf w
  let n := 4 * wbCols w
  let rows ← Job.fold (fun (m : Tab (Nat × Array (Word32 × Bool))) (u : RowAdd) => do
    Job.count 0x7090 1 1
    let was ← (match m.find? fun (r : Nat × (Nat × Array (Word32 × Bool))) => r.1 == u.1 with
      | some r => pure (some r.2)
      | none => do
        match ← locOf s x dst u.1 0 n with
        | .here va => do
          let need : Need := takesIn 32 (wbCols w) fun i => (u.2.getD i none).isSome
          let g ← rdOwn s x c va need 0 n
          consume g 0 need
          pure (some (va, ((piecesOf 4 (wbCols w) g.bytes).map fun b => ((BitVec.ofNat 32 (leNat b) : Word32), false)).toArray))
        | .absent => pure none
        | .far .. => Job.fail stXlate)
    match was with
    | none => pure m
    | some (va, cur) => do
      let res := (cur.toList.zip u.2.toList).map fun (p : (Word32 × Bool) × Option (Word32 × Byte)) =>
        match p.2 with
        | some v => let r := fadd p.1.1 v.1; ((r.1, true), r.2 ||| v.2)
        | none => (p.1, (0 : Byte))
      Job.flag (res.foldl (fun f r => f ||| r.2) 0)
      pure (Tab.put m (0, #[]) u.1 (va, (res.map (·.1)).toArray))) ([] : Tab (Nat × Array (Word32 × Bool))) us
  let _ ← Job.map (fun (r : Nat × (Nat × Array (Word32 × Bool))) =>
    Job.map (fun (q : Nat × List Byte) => ttWrite s x c (r.2.1 + q.1) q.2)
      (runsOf 0 (r.2.2.toList.flatMap fun p => if p.2 then (natLe 4 p.1.toNat).map some else List.replicate 4 none))) rows
  pure ()

/-- SCATTER_ADD. In fast mode from a stream, every tile of the waybill takes part in one run of updates (DESIGN CHOICE, log 86). -/
def ttScatterAddTile (x : XCtx) (c : Nat) (s : State) (e : WbEntry) : Job (Option (List Byte)) := do
  let w := e.wb
  let ns := if ttFast w && (srcOf w).kind == 0 then List.range (srcOf w).count else [e.next]
  let us ← Job.map (fun n => ttAdds s x c e n) ns
  ttAddRows s x c e (if ttFast w then inFlight us.flatten.length s.free us.flatten else us.flatten)
  pure none

/-! ### The station at work -/

/-- Steps of a Turntable waybill. -/
def ttTotal (w : Desc) : Nat :=
  let n := if ttOp w = 7 ∨ ttOp w = 8 then (if (srcOf w).kind = 0 then (srcOf w).count else (dstOf w).count)
    else if (dstOf w).kind = 0 then (dstOf w).count else (srcOf w).count
  if ttOp w = 8 && ttFast w && (srcOf w).kind == 0 then min 1 n else n

/-- The index transposer belongs to a Sparse Station waybill with `w_trans` that has passed its wait (R217). -/
def State.transposerTaken (s : State) (c : Nat) : Bool :=
  (s.siding c 3).any fun e => (e.phase == .ready || e.phase == .running || e.phase == .written) && bit1 (wbOp e.wb) 7

/-- One step: a tile, or a stall for a siding or the transposer (DEDUCED, log 88, DEDUCED, log 89). -/
def ttMove (c : Nat) (f : XCtx → Nat → State → WbEntry → Job (Option (List Byte))) (x : XCtx) (s : State) (e : WbEntry) : Move :=
  let w := e.wb
  let fromQ := (srcOf w).kind == 1
  let intoQ := (dstOf w).kind == 1
  if fromQ && !((s.tileQ c 0x09).entries.head?.any (·.arrived)) then .stall
  else if intoQ && tileDepth ≤ (s.tileQ c 0x0A).entries.length then .stall
  else if ttOp w = 4 && ttOpt w && s.transposerTaken c then .stall
  else
    match (if e.next = 0 then (match (s.cl c).run with | some r => s.ttStage x c r w | none => some s) else some s) with
    | none => .failed (s.bumpFor (e.part, e.seq) 0x7090 5 1) stOverlapRejected 0 0
    | some s =>
      if (s.cl c).st.stage.any (·.pend) then .stall else
      let p := ttIJ w e.next
      let run (s : State) := ((f x c s e).run).run { i := p.1, j := p.2, who := 5, home := some c, owner := some (e.part, e.seq) }
      -- bytes that the waybill has written through another virtual address are undefined (R223)
      let s := s.scrambleAll (aliased (run s).2.vsrcs e.vdsts)
      let r := run s
      if waits r.1 then .stall else
      if r.2.retained s then .stall else
      match r.1 with
      | .ok o =>
        let dsts := r.2.vdsts.map (·.2)
        let t := ((s.settle r.2).addBegun c r.2.begun).tilesWritten c (min 1 r.2.writes.length)
        let t := t.scrambleAll (aliased r.2.vdsts (e.vsrcs ++ r.2.vsrcs) ++ rangesMeet r.2.side e.dsts)
        let t := if fromQ then (t.updTileQ c 0x09 fun q => { q with entries := q.entries.tail }).sweepWatches c else t
        let t := match o with | some b => t.updTileQ c 0x0A fun q => { q with entries := q.entries ++ [{ bytes := b, row := p.2, col := p.1 }] } | none => t
        let t := if ttOp w = 8 && ttFast w then (let t := { t with free := t.free + wbRows w * (if fromQ then 1 else (srcOf w).count) + 1 }
                                              if e.next = 0 then t.bumpFor (e.part, e.seq) 0x7800 (x.part + 1) 1 else t) else t
        .moved t { e with flags := e.flags ||| r.2.flags, srcs := e.srcs ++ r.2.srcs ++ r.2.side, dsts := e.dsts ++ dsts,
                           vsrcs := e.vsrcs ++ r.2.vsrcs, vdsts := e.vdsts ++ r.2.vdsts }
      | .error st => .failed (((s.settle r.2.upToFailure).addBegun c r.2.begun).joinFlags e.part e.seq r.2.flags) st r.2.i r.2.j

/-- A Turntable operation, as far as its sidings let it go. -/
def State.ttRun (s : State) (c op : Nat) (f : XCtx → Nat → State → WbEntry → Job (Option (List Byte))) : State :=
  s.work c 5 0 (fun e => ttOp e.wb == op) (fun e => ttTotal e.wb) (ttMove c f)

/-- TT_COPY. -/
def execTtCopy (c : Nat) (s : State) : Res := .next (s.ttRun c 0 ttCopyTile)

/-- TRANSPOSE. -/
def execTranspose (c : Nat) (s : State) : Res := .next (s.ttRun c 1 ttTransposeTile)

/-- TRANSPOSE_IP. -/
def execTransposeIp (c : Nat) (s : State) : Res := .next (s.ttRun c 2 ttInPlaceTile)

/-- PERMUTE. -/
def execPermute (c : Nat) (s : State) : Res := .next (s.ttRun c 3 ttPermuteTile)

/-- EXPAND. -/
def execExpand (c : Nat) (s : State) : Res := .next (s.ttRun c 4 ttExpandTile)

/-- ENCODE. -/
def execEncode (c : Nat) (s : State) : Res := .next (s.ttRun c 5 ttEncodeTile)

/-- TT_GATHER. -/
def execTtGather (c : Nat) (s : State) : Res := .next (s.ttRun c 6 ttGatherTile)

/-- TT_SCATTER. -/
def execTtScatter (c : Nat) (s : State) : Res := .next (s.ttRun c 7 ttScatterTile)

/-- TT_SCATTER_ADD. -/
def execTtScatterAdd (c : Nat) (s : State) : Res := .next (s.ttRun c 8 ttScatterAddTile)

/-- DROPOUT. -/
def execDropout (c : Nat) (s : State) : Res := .next (s.ttRun c 9 ttDropoutTile)

end Sys2Proof.Machine
end

