-- ==== Sys2Proof/Machine/Access.lean ====
section
/-! DEFINITION. The access engines (R226 to R254): moves and widening, run-ahead reads and their marks, window placement, gathers and scatters,
watches, completion records. -/

namespace Sys2Proof.Machine

/-! ### Fields (R230, R231) -/

def aeOp (w : Desc) : Nat := bits (wbOp w) 0 4
def aeFast (w : Desc) : Bool := bit1 (wbOp w) 4
def aeDemand (w : Desc) : Bool := bit1 (wbOp w) 5
def aeChan (w : Desc) : Nat := fld w 432 3
def aeLat (w : Desc) : Bool := fld w 435 1 == 1
def aePrio (w : Desc) : Nat := fld w 436 3
def aePolicy (w : Desc) : Nat := fld w 439 2
def aeWinEn (w : Desc) : Bool := fld w 441 1 == 1
def aeWin (w : Desc) : Nat := fld w 442 3
def aeHdr (w : Desc) : Bool := fld w 445 1 == 1
def aeCrcSrc (w : Desc) : Bool := fld w 446 1 == 1
def aeCrec (w : Desc) : Bool := fld w 447 1 == 1
def aeIdx (w : Desc) : Nat := 64 * fld w 448 42
def aeSide (w : Desc) : Nat := fld w 490 1

/-- A run-ahead read: on the Intake Station, unless the waybill demands (R234). -/
def aeAhead (w : Desc) : Bool := wbStation w == 0 && !aeDemand w

/-! ### Widening (R233) -/

/-- Class X of R33 for a source that stands without block scales. -/
def classX (s d : Nat) : Bool :=
  match s with
  | 1 | 2 => d == 0
  | 3 | 4 | 8 => d == 0 || d == 1 || d == 2
  | 9 => [0, 1, 2, 3, 4, 5, 8].contains d
  | 10 => d == 0 || d == 1
  | _ => false

/-- The third row of R233: an MX-scaled source into FP32 or BF16. -/
def mxWiden (s d : Nat) : Bool := mayMx s && (d == 0 || d == 1)

/-- The format pair is admitted by R233. -/
def pairOk (s d sp : Nat) : Bool := s == d || (sp == 0 && (classX s d || mxWiden s d))

/-- The largest `side_units` that R131 allows a shape. -/
def sideMax (rows cols : Nat) : Nat :=
  ceilDiv (max (nBlocks rows cols false) (nBlocks rows cols true)) 64 + ceilDiv (ceilDiv (rows * cols) 8) 64 + ceilDiv (4 * 511) 64

/-- The engine's own checks of a header before a move (R233). -/
def moveHdrOk (v sf sp df : Nat) : Bool :=
  let h := Hdr.parse v
  bits v 208 8 == 0xE7 && decide (h.fmt ≤ 9) && h.fmt == sf && decide (h.sparse ≤ 4) && h.sparse == sp &&
  (sf == df || (h.sparse == 0 && (if h.mx then mxWiden sf df else classX sf df))) &&
  decide (h.payload ≤ denseSize h.fmt h.rows h.cols) && decide (h.side ≤ sideMax h.rows h.cols)

/-- Bytes of a tile object with a header. -/
def objLen (v : Nat) : Nat := let h := Hdr.parse v; 64 * (1 + h.side) + roundUp h.payload 64

/-- A tile's elements in a wider format: class X exactly, or by R26 and the FP32 row of R33 in RNE. -/
def widenElem (t : Tile) (df e : Nat) : Nat × Byte :=
  if !t.mask.getD e false then (0, 0)
  else if t.hdr.mx then (let w := toF32 rne (t.val e); let y := ofF32 df rne false w.1; (y.1, y.2 ||| w.2))
  else convElem t.hdr.fmt df rne false (t.codes.getD e 0)

/-- A widened tile, and the flags raised. A destination that is always MX-scaled takes block scales 2^0. -/
def widenTile (t : Tile) (df : Nat) (hdr : Bool) : List Byte × Byte :=
  let cs := (List.range t.n).map (widenElem t df)
  let codes := (cs.map (·.1)).toArray
  let fl := cs.foldl (fun f c => f ||| c.2) 0
  let h : Hdr := { fmt := df, mx := alwaysMx df, kDown := t.hdr.kDown, rows := t.hdr.rows, cols := t.hdr.cols, epoch := t.hdr.epoch, scale := t.hdr.scale }
  let scales := if h.mx then Array.replicate (nBlocks h.rows h.cols h.kDown) 0x7F else #[]
  (if hdr then (layTile h codes t.mask scales 0).1 else bareBytes df codes, fl)

/-- How a widened object lies to its source: where the elements begin in the source and in the object, their widths and number, the object's bytes. -/
structure WideMap where
  s0 : Nat
  d0 : Nat
  ws : Nat
  wd : Nat
  n : Nat
  total : Nat
  deriving DecidableEq, Repr

/-- What an engine carries: bytes, marks of 64-byte units, poisoned words; how a widened one comes from its source. -/
structure Load where
  bytes : List Byte
  marks : List (Nat × Nat) := []
  bad : List Nat := []
  wide : Option WideMap := none
  /-- units whose refetch is pending (R241) -/
  pend : List Nat := []
  deriving DecidableEq, Repr

/-- What consuming a marked unit of a load comes to: its status, or a wait for its refetch (R235, R241). -/
def Load.status (l : Load) (e : Nat × Nat) : Byte := if e.2 = 3 ∧ l.pend.contains e.1 then stHold else markStatus e.2

/-- Elements that lie in bits `lo` to `hi − 1` of an object whose elements of width `w` begin at bit `base`: first, and one past the last. -/
def elemsIn (base w n lo hi : Nat) : Nat × Nat :=
  if hi ≤ base then (0, 0) else ((lo - base) / w, min n (ceilDiv (hi - base) w))

/-- Bytes of a widened object that `l` bytes of its source at `o` supply, first and one past the last: a header or side array supplies all (R233). -/
def WideMap.span (m : WideMap) (o l : Nat) : Nat × Nat :=
  if o < m.s0 then (0, m.total) else
  let r := elemsIn (8 * m.s0) m.ws m.n (8 * o) (8 * (o + l))
  if r.2 ≤ r.1 then (0, 0) else (m.d0 + r.1 * m.wd / 8, m.d0 + (r.2 * m.wd + 7) / 8)

/-- The lower non-zero mark. -/
def lowMark (a b : Nat) : Nat := if a = 0 then b else if b = 0 then a else min a b

/-- Marks and poison carried over element by element into a wider object (R233): `s0`, `d0` are where the elements begin, `hdr` says that
the source's first unit is a header. -/
def carryOver (g : Got) (hdr : Bool) (s0 d0 ws wd n len : Nat) : List (Nat × Nat) × List Nat :=
  let spread (lo hi step : Nat) : List Nat :=
    let r := elemsIn (8 * s0) ws n lo hi
    if r.2 ≤ r.1 then [] else
    let a := (8 * d0 + r.1 * wd) / step
    (List.range ((8 * d0 + r.2 * wd - 1) / step - a + 1)).map fun i => a + i
  let all := List.range (ceilDiv len 64)
  let marks := g.marks.foldl (fun (t : Tab Nat) m =>
    let us := if hdr && m.1 == 0 then all else spread (512 * m.1) (512 * m.1 + 512) 512
    us.foldl (fun t u => Tab.put t 0 u (lowMark (Tab.look t 0 u) m.2)) t) []
  let bad := if g.bad.any fun b => 8 * b < s0 then List.range (ceilDiv len 8)
    else (g.bad.flatMap fun b => spread (64 * b) (64 * b + 64) 64).dedup
  (marks, bad)

/-! ### Reads (R235 to R237, R278) -/

/-- A piece of a read object: its offset, physical and virtual address, bytes, cache policy. -/
structure SrcPiece where
  off : Nat
  pa : Nat
  va : Nat
  n : Nat
  hc : Nat
  deriving DecidableEq, Repr

/-- Pieces with their offsets. -/
def srcPieces : List Piece → Nat → Nat → List SrcPiece
  | [], _, _ => []
  | p :: ps, off, va => { off := off, pa := p.pa, va := va, n := p.n, hc := p.hc } :: srcPieces ps (off + p.n) (va + p.n)

/-- A read that another module must serve: where, and the parts not yet asked for, by offset. -/
structure FarReq where
  mod : Nat
  va : Nat
  cluster : Option Nat
  base : Nat
  parts : List (Nat × Nat)
  deriving DecidableEq, Repr

/-- What a read comes to. -/
inductive Fetch where
  | got (g : Got) (ps : List SrcPiece)
  | dropped (mark : Nat)
  | absent
  | wait (r : FarReq)

/-- A run-ahead read is dropped: counted, and the mark that its units take (R235, R237). -/
def dropRead (e : Byte) : Job Nat := do
  let m := if e = stXlate then 1 else 2
  Job.count 0x70A0 m 1
  pure m

/-- A read that fails: of a run-ahead waybill it is dropped, else the waybill fails (R237, R269). -/
def dropOr {α : Type} (ahead : Bool) (e : Byte) : Job (Except Nat α) :=
  if ahead then do
    let m ← dropRead e
    pure (.error m)
  else Job.fail e

/-- Pieces of one object lie in one cluster's window at most (R91). -/
def oneWindow (ps : List Piece) : Bool := decide ((ps.filterMap fun p => padCluster p.pa).dedup.length ≤ 1)

/-- A translation for a read: a run-ahead read is dropped on a failure or a guarded page. -/
def aeXl (s : State) (x : XCtx) (ahead : Bool) (va n : Nat) : Job (Except Nat (List Piece)) := do
  Job.note fun a => { a with walks := a.walks ++ s.walksFor x va n a.walks a.who }
  let r : Except Byte (List Piece) := if 2 ^ 48 < va + n then .error stXlate else match s.xl x false va n with
    | .error e => .error e
    | .ok ps => if oneWindow ps then .ok ps else .error stXlate
  match r with
  | .error e => dropOr ahead e
  | .ok ps => if ahead && ps.any (·.guard) then dropOr true stXlate else pure (.ok ps)

/-- A range read by an engine. -/
def aeRead (s : State) (x : XCtx) (ahead : Bool) (va n : Nat) : Job Fetch := do
  match ← aeXl s x ahead va n with
  | .error m => pure (.dropped m)
  | .ok ps => do
    Job.note fun a => { a with reads := a.reads ++ ps.map fun p => (p.pa, p.n, p.hc) }
    pure (.got (s.gotPieces ps 0) (srcPieces ps 0 va))

/-- The place of a source object; a run-ahead read whose place does not translate, or is not in the window that the owner table names, is dropped (R237,
R278). -/
def aheadLoc (s : State) (x : XCtx) (ahead : Bool) (t : Strm) (i j m : Nat) : Job (Except Nat Loc) := do
  if !ahead then do
    let l ← locOf s x t i j m
    pure (.ok l)
  else match t.owner with
    | none => if t.at i j < 0 ∨ (2 ^ 48 : Int) < t.at i j + m then dropOr true stXlate else pure (.ok (.here (t.at i j).toNat))
    | some p => do
      let o ← ownerOf s x p (t.at i j) m
      if o.kind ≠ 2 ∧ o.ours s x ∧ 2 ^ 48 < o.va + m then dropOr true stXlate
      else if o.kind ≠ 0 ∨ !o.ours s x then do
        let l ← o.loc s x false m m
        pure (.ok l)
      else match s.xl x false o.va m with
        | .error e => dropOr true e
        | .ok ps => if ps.all fun p => padCluster p.pa == some o.home then pure (.ok (.here o.va)) else dropOr true stXlate

/-- Requests of at most 2 KiB that cross no boundary of 4 KiB of the source, at `va`, or of the destination, `d` bytes into a page (R228). -/
def splitReq : Nat → Nat → Nat → Nat → Nat → List (Nat × Nat)
  | 0, _, _, _, _ => []
  | fuel + 1, va, d, off, n =>
    if n = 0 then [] else
    let k := min n (min (2048 - (va + off) % 2048) (4096 - (d + off) % 4096))
    (off, k) :: splitReq fuel va d (off + k) (n - k)

/-- The requests of a range. -/
def requests (va d off n : Nat) : List (Nat × Nat) := splitReq (n / 1024 + 4) va d off n

/-- What has arrived from another module for an object at `base` in a tile: none, part or all of its requests, as one run. -/
def pendGot (ps : List PendRead) : Option Got :=
  ps.foldl (fun g p =>
    match g, p.data with
    | some g, some d => some { bytes := g.bytes ++ d, bad := g.bad ++ p.bad.map fun b => p.off / 8 + b, marks := g.marks ++ p.marks.map fun m => (p.off / 64 + m.1, m.2) }
    | _, _ => none) (some { bytes := [], bad := [], marks := [] })

/-- An object of another module: asked for, awaited, complete, or refused with a fault, which drops a run-ahead read. `d` is how far into a page its
destination lies; `len` gives its bytes once its first 64 are there (DEDUCED, log 65). -/
def farFetch (s : State) (c chan tile base mod va d : Nat) (cluster : Option Nat) (ahead : Bool) (first : Nat) (len : List Byte → Job Nat) : Job Fetch := do
  let mine := ((s.cl c).st.pend.filter fun p => p.chan == chan && p.tile == tile && p.off / 131072 == base).map fun p => { p with off := p.off % 131072 }
  let req (off n : Nat) : Fetch := .wait { mod := mod, va := va, cluster := cluster, base := base, parts := requests va d off n }
  match mine.find? fun p => p.fault != 0 with
  | some p => do
    match ← dropOr (α := Unit) ahead p.fault with
    | .error m => pure (.dropped m)
    | .ok _ => pure (.dropped 0)
  | none =>
    if mine.isEmpty then pure (req 0 first)
    else match pendGot mine with
      | none => pure (.wait { mod := mod, va := va, cluster := cluster, base := base, parts := [] })
      | some g => do
        let n ← len g.bytes
        if g.bytes.length < n then pure (req g.bytes.length (n - g.bytes.length)) else pure (.got g [])

/-- The object length of a tile whose header is checked first (R233). -/
def movedLen (w : Desc) (head : List Byte) : Job Nat := do
  let v := leNat (head.take 64)
  Job.require (moveHdrOk v (srcOf w).fmt (srcOf w).sparse (dstOf w).fmt) stTile
  pure (objLen v)

/-- How far into a page the destination object of step n lies, where the waybill gives it an address. -/
def dstLead (w : Desc) (n : Nat) : Nat :=
  let d := dstOf w
  if d.kind = 0 ∧ !aeWinEn w then (d.at (d.ij n).1 (d.ij n).2 % 4096).toNat else 0

/-- Source tile n of a LOAD or STORE. -/
def aeSource (s : State) (x : XCtx) (c chan : Nat) (e : WbEntry) : Job Fetch := do
  let w := e.wb
  let src := srcOf w
  let hdr := aeHdr w
  let ahead := aeAhead w
  let bare := denseSize src.fmt (wbRows w) (wbCols w)
  if src.kind = 1 then
    match (s.tileQ c (if aeSide w = 0 then 0x0A else 0x0B)).entries with
    | [] => Job.fail stTile
    | t :: _ => do
      let g ← rdEntry t needAll 0 t.bytes.length
      if hdr then do
        let _ ← movedLen w g.bytes
        pure (.got g [])
      else
        let _ ← movedLen w t.bytes
        let p := 64 * (1 + (Hdr.parse (leNat (t.bytes.take 64))).side)
        let b ← rdEntry t needAll p bare
        pure (.got b [])
  else
    let (i, j) := src.ij e.next
    match ← aheadLoc s x ahead src i j (maxObject src.fmt (wbRows w) (wbCols w) hdr) with
    | .error m => pure (.dropped m)
    | .ok .absent => do
      Job.require (!hdr) stTile
      pure .absent
    | .ok (.far mod va cl) =>
      farFetch s c chan e.next 0 mod va (dstLead w e.next) cl ahead (if hdr then 64 else bare) fun b => if hdr then movedLen w b else pure bare
    | .ok (.here va) =>
      if hdr then do
        match ← aeXl s x ahead va 64 with
        | .error m => pure (.dropped m)
        | .ok ps => do
          let n ← movedLen w (s.gotPieces ps 0).bytes
          aeRead s x ahead va n
      else aeRead s x ahead va bare

/-- An object as it is placed, verbatim or widened, and the flags of widening it (R233) (DESIGN CHOICE, log 53). -/
def widenObject (sf df : Nat) (hdr : Bool) (rows cols : Nat) (g : Got) : Job (Load × Byte) := do
  if sf = df then pure ({ bytes := g.bytes, marks := g.marks, bad := g.bad, pend := g.pend }, 0)
  else do
    let v := leNat (g.bytes.take 64)
    let t ← if hdr then (do
        let h := Hdr.parse v
        Job.require (hdrMagic v && h.formOk && h.rows == rows && h.cols == cols) stTile
        Job.lift (decodeBody h (g.bytes.drop 64)))
      else pure (bareOf sf rows cols false g.bytes)
    let (o, fl) := widenTile t df hdr
    let d0 := if hdr then 64 * (1 + (Hdr.parse (leNat (o.take 64))).side) else 0
    let m : WideMap := { s0 := if hdr then 64 * (1 + t.hdr.side) else 0, d0 := d0, ws := fmtWidth sf, wd := fmtWidth df, n := t.n, total := o.length }
    let k := carryOver g hdr m.s0 d0 m.ws m.wd t.n o.length
    pure ({ bytes := o, marks := k.1, bad := k.2, wide := some m,
            pend := if g.pend.isEmpty then [] else (k.1.filter fun q => q.2 == 3).map (·.1) }, fl)

/-- The object of a waybill. -/
def aeObject (w : Desc) (g : Got) : Job (Load × Byte) := widenObject (srcOf w).fmt (dstOf w).fmt (aeHdr w) (wbRows w) (wbCols w) g

/-- Checksums advance (R251). -/
def crcRead (bs : List Byte) : Job Unit := Job.note fun a => { a with crcR := crc32cRun a.crcR bs, bytesR := a.bytesR + bs.length }

def crcWrote (bs : List Byte) : Job Unit := Job.note fun a => { a with crcW := crc32cRun a.crcW bs, bytesW := a.bytesW + bs.length }

/-! ### Watches (R239) -/

/-- The watches of a read whose data went to places, by offset in the object, `lead` bytes into a page: request by request, each over the units that
its data supplies (R228, R239). -/
def watchesOf (x : XCtx) (w : Desc) (n lead : Nat) (src : List SrcPiece) (dst : List (Nat × Nat × Nat)) (wide : Option WideMap) : List Watch :=
  if !aeAhead w || (aePolicy w != 1 && aePolicy w != 2) then [] else
  (src.filter fun sp => watchable sp.pa).flatMap fun sp =>
    (requests (sp.va - sp.off) lead sp.off sp.n).flatMap fun (q : Nat × Nat) =>
      let span := match wide with | some m => m.span q.1 q.2 | none => (q.1, q.1 + q.2)
      dst.filterMap fun (d : Nat × Nat × Nat) =>
        let lo := max span.1 d.1
        let hi := min span.2 (d.1 + d.2.2)
        if hi ≤ lo then none else
        let pa := sp.pa + (q.1 - sp.off)
        some { region := pa / 4096, src := pa, dst := d.2.1 + (lo - d.1), len := hi - lo, chan := aeChan w, lat := aeLat w, policy := aePolicy w, part := x.part,
               va := sp.va + (q.1 - sp.off), n := q.2, hc := sp.hc, redo := if wide.isSome then some (w, n, lo) else none }

/-- Watches of a job. -/
def addWatch (ws : List Watch) : Job Unit := Job.note fun a => { a with watches := a.watches ++ ws }

/-- Offset, physical address and bytes of each piece of a destination. -/
def placesOf (ps : List Piece) : List (Nat × Nat × Nat) := (srcPieces ps 0 0).map fun p => (p.off, p.pa, p.n)

/-- A region enters its hub's conflict filter with a watcher; a full filter evicts its oldest entry (R239, R240). -/
def State.filterEnter (s : State) (c region : Nat) : State :=
  let h := s.hubOf (region * 4096)
  let f := (s.hub h).filter
  match f.find? fun e => e.region == region with
  | some e =>
    if e.many || e.clusters.contains c then s else
    let e' := if e.clusters.length < 4 then { e with clusters := e.clusters ++ [c] } else { e with many := true }
    s.updHub h fun hb => { hb with filter := mapFirst (fun x => x.region == region) (fun _ => e') hb.filter }
  | none =>
    let s := match f with
      | old :: rest =>
        if f.length < 32768 then s else
        let ws := if old.many then s.activeClusters else old.clusters
        let t := (s.updHub h fun hb => { hb with filter := rest }).bump 0x70A0 5 1
        ws.foldl (fun s d => s.sendNotice h d old.region true) t
      | [] => s
    s.updHub h fun hb => { hb with filter := hb.filter ++ [{ region := region, clusters := [c] }] }

/-- Watches are recorded: table entries, hub entries, watched bits. What an older watch of the cluster still watched of those units ends with the
new data (R242). -/
def State.addWatches (s : State) (c : Nat) (ws : List Watch) : State :=
  if ws.isEmpty then s else
  let us := (ws.filter fun w => w.slot.isNone).flatMap fun w => unitsOf w.dst w.len
  let t := s.updCl c fun cl => { cl with watches := (cl.watches.map fun o =>
    if o.slot.isSome then o else { o with past := o.past ++ (unitsOf o.dst o.len).filter fun u => us.contains u && !o.past.contains u }) ++ ws }
  let t := ((ws.map (·.region)).dedup).foldl (fun s r => s.filterEnter c r) t
  { t with watched := (ws.filter fun w => w.slot.isNone).foldl (fun m w => (unitsOf w.dst w.len).foldl (fun m u => Tab.put m false u true) m) t.watched }

/-! ### Placement (R238, R249) -/

/-- What a tile's move comes to, beyond reads and writes. -/
inductive AeRes where
  /-- packets for window granules or other modules; tokens of a window used of those held for the tile; an entry of the input siding -/
  | done (sends : List Packet) (target win used total : Nat) (entry : Option TileEntry)
  /-- granules that the tile still needs -/
  | tokens (target win count : Nat)
  | wait (rs : List FarReq)

/-- The granules held for a channel's window, in grant order, with their generation. A window of this module shows its size; one of another module
takes the numbers of a grant on from its first, and its landing path takes them modulo its size (DESIGN CHOICE, log 172). -/
def heldFor (s : State) (c chan target win : Nat) : List (Nat × Nat) :=
  let size := if target < 65536 then (s.win target win).size else 0
  ((s.cl c).held.filter fun h => h.chan == chan && h.target == target && h.window == win).flatMap fun h =>
    (List.range h.count).map fun k => (h.gen, if size = 0 then h.first + k else (h.first + k) % size)

/-- A write packet of an engine: its tag names the channel in bits [2:0]. -/
def wrPacket (c chan part : Nat) (dst : BitVec 16) (mod : Byte) (seq addr : Nat) (bs : List Byte) (marks : List (Nat × Nat)) (bad : List Nat) : Packet :=
  { packetOf 0x02 0 dst (BitVec.ofNat 16 c) mod part (BitVec.ofNat 16 (8 * seq + chan % 8)) addr 0 bs with bad := bad, marks := marks }

/-- The part of a load in a range of bytes. -/
def Load.slice (l : Load) (off n : Nat) : Load where
  bytes := (l.bytes.drop off).take n
  marks := (l.marks.filter fun m => off / 64 ≤ m.1 && m.1 < ceilDiv (off + n) 64).map fun m => (m.1 - off / 64, m.2)
  bad := (l.bad.filter fun b => off / 8 ≤ b && b < ceilDiv (off + n) 8).map fun b => b - off / 8

/-- The granule pieces of an object in a window: one piece for each granule. -/
def windowPieces (c chan part target win fmt : Nat) (gs : List (Nat × Nat)) (l : Load) (seq : Nat) : List Packet :=
  (gs.zipIdx).map fun (g : (Nat × Nat) × Nat) =>
    let p := l.slice (2048 * g.2) 2048
    { wrPacket c chan part (BitVec.ofNat 16 target) (targetMod target) seq 0 p.bytes p.marks p.bad with
      window := BitVec.ofNat 3 win, winGen := BitVec.ofNat 8 g.1.1, granule := BitVec.ofNat 10 g.1.2, last := true, pieces := 1,
      srcFmt := BitVec.ofNat 4 fmt }

/-- The granule pieces of an object that its target widens: the source's bytes as they are, an equal share to each granule of the widened object (R246,
R317) (DESIGN CHOICE, log 53). -/
def narrowPieces (c chan part target win : Nat) (w : Desc) (gs : List (Nat × Nat)) (g : Got) (seq : Nat) : List Packet :=
  let sz := roundUp (ceilDiv g.bytes.length (max 1 gs.length)) 64
  let l : Load := { bytes := g.bytes, marks := g.marks, bad := g.bad }
  (gs.zipIdx).map fun (q : (Nat × Nat) × Nat) =>
    let p := l.slice (sz * q.2) sz
    { wrPacket c chan part (BitVec.ofNat 16 target) (targetMod target) seq 0 p.bytes p.marks p.bad with
      window := BitVec.ofNat 3 win, winGen := BitVec.ofNat 8 q.1.1, granule := BitVec.ofNat 10 q.1.2, last := true, pieces := 1,
      srcFmt := BitVec.ofNat 4 (srcOf w).fmt,
      narrow := some { fmt := (dstOf w).fmt, hdr := aeHdr w, k := q.2, count := gs.length, rows := wbRows w, cols := wbCols w, obj := seq } }

/-- A write to another module: pieces of at most 2 KiB, which cross no boundary of 4 KiB of the destination or of the source, `lead` bytes into a page (R228). -/
def farWrites (c chan part mod va lead : Nat) (seq : Nat) (l : Load) : List Packet :=
  (requests va lead 0 l.bytes.length).map fun (q : Nat × Nat) =>
    let p := l.slice q.1 q.2
    wrPacket c chan part (BitVec.ofNat 16 (0x2000 + (va + q.1) / 4096 % 4)) (BitVec.ofNat 8 mod) seq (va + q.1) p.bytes p.marks p.bad

/-- Data sent to HBM, the CXL tier or another module's memory is consumed: its marks fail the waybill (R236). -/
def sendsMarks (l : Load) (ps : List Piece) : Job Unit := do
  let hit := l.marks.find? fun m => (srcPieces ps 0 0).any fun p => !(match regionOf p.pa with | .pad .. => true | _ => false) &&
    decide (p.off / 64 ≤ m.1) && decide (m.1 < ceilDiv (p.off + p.n) 64)
  match hit with
  | some m => Job.fail (l.status m)
  | none => pure ()

/-- How far into a page the bytes of a move's source lie; of a widened one, or one from a siding, 0. -/
def srcLead (src : List SrcPiece) (l : Load) : Nat := if l.wide.isSome then 0 else (src.head?.map (·.va % 4096)).getD 0

/-- A translated destination of an engine without a window: the own scratchpad, and for the Dispatch Station HBM and the CXL tier. -/
def aeDstPieces (s : State) (x : XCtx) (c va n : Nat) (w : Desc) : Job (List Piece) := do
  Job.require (decide (va + n ≤ 2 ^ 48)) stXlate
  let ps ← Job.xl s x true va n
  if wbStation w = 0 then Job.require (ps.all fun p => padCluster p.pa == some c) stXlate
  else if ps.any fun p => (padCluster p.pa).any fun d => d != c then do
    Job.count 0x5020 3 1
    Job.fail stToken
  pure ps

/-- A write of a speculative run that leaves the commit group is held back until the decision (R301). -/
def groupHold (s : State) (x : XCtx) (mod : Nat) : Job Unit := Job.require (!x.spec || (s.pt x.part).groupPeers.contains mod) stHold

/-- The cluster of a window placement (R238): a scratchpad of this module, or of the module that the owner table names. -/
def aeWindowTarget (s : State) (x : XCtx) (c : Nat) (w : Desc) (l : Loc) : Job (Option Nat) := do
  match l with
  | .absent => pure none
  | .far mod _ (some k) => do
    Job.require (wbStation w != 0) stXlate
    groupHold s x mod
    pure (some (k + 65536 * (mod + 1)))
  | .far _ _ none => Job.fail stXlate
  | .here va => do
    let p ← Job.lift (s.xlate x va true)
    match padCluster p.pa with
    | some d => if wbStation w = 0 ∧ d ≠ c then Job.fail stXlate else pure (some d)
    | none => Job.fail stXlate

/-- Tile n's destination. -/
def aeDst (s : State) (x : XCtx) (e : WbEntry) (m : Nat) : Job Loc :=
  let d := dstOf e.wb
  let (i, j) := d.ij e.next
  locOf s x d i j m (if aeWinEn e.wb ∨ aeOp e.wb = 0xA then 1 else m)

/-- An object is placed: in the input siding, a window, or at its address; `mark` stands for a dropped read's mark, whose object covers M
bytes that are marked and not written. `g` is the source as it was read; a target cluster widens it itself, and its flags come back with the
acknowledgements. -/
def aePlace (s : State) (x : XCtx) (c chan : Nat) (e : WbEntry) (g : Got) (o : Load × Byte) (src : List SrcPiece) (mark : Nat) : Job AeRes := do
  let w := e.wb
  let l := o.1
  let dst := dstOf w
  let hdr := aeHdr w
  let rows := wbRows w
  let cols := wbCols w
  let m := maxObject dst.fmt rows cols hdr
  if mark ≠ 0 then Job.note fun a => { a with marked := a.marked + 1 }
  if dst.kind = 1 then do
    Job.flag o.2
    let bytes := if mark ≠ 0 then List.replicate (64 + m) 0 else l.bytes
    let marks := if mark ≠ 0 then (List.range (ceilDiv (64 + m) 64)).map fun u => (u, mark) else l.marks
    let shift : Nat := if hdr || mark != 0 then 0 else 64
    let head := if shift = 0 then [] else
      (let N := rows * cols
       natLe 64 ({ bareHdr dst.fmt rows cols false with nnz := N, payload := denseSize dst.fmt rows cols, maxLine := cols } : Hdr).pack)
    let (i, j) := (srcOf w).ij e.next
    let obj := padTo (roundUp (shift + bytes.length) 64) (head ++ bytes)
    if mark = 0 then crcWrote obj
    let id := (s.cl c).nextTag.toNat + 1
    addWatch ((watchesOf x w e.next 0 src [(0, shift, l.bytes.length)] l.wide).map fun y => { y with slot := some id })
    pure (.done [] 0 0 0 0 (some { bytes := obj, marks := marks.map fun q => (q.1 + shift / 64, q.2),
                                   poisoned := l.bad.map fun b => b + shift / 8, row := j, col := i, ident := id }))
  else do
    let loc ← aeDst s x e m
    if aeWinEn w then do
      match ← aeWindowTarget s x c w loc with
      | none => pure (.done [] 0 0 0 0 none)
      | some tgt => do
        let G := ceilDiv m 2048
        let gs := heldFor s c chan tgt (aeWin w)
        if gs.length < G then pure (.tokens tgt (aeWin w) (G - gs.length))
        else do
          let l' : Load := if mark = 0 then l else
            { bytes := (List.range (2048 * G)).map fun i => Config.freeByte s.free i, marks := (List.range (32 * G)).map fun u => (u, mark), bad := [] }
          let used := (gs.take (ceilDiv l'.bytes.length 2048))
          if mark = 0 then crcWrote l.bytes
          let seq := (s.cl c).nextTag.toNat % 8192
          let narrow := mark = 0 ∧ l.wide.isSome ∧ tgt ≠ c
          if !narrow then Job.flag o.2
          if tgt = c ∧ mark = 0 then
            let places := (used.zipIdx).map fun (g : (Nat × Nat) × Nat) =>
              (2048 * g.2, granuleAt c (s.win c (aeWin w)) g.1.2, min 2048 (l.bytes.length - 2048 * g.2))
            addWatch (watchesOf x w e.next 0 src places l.wide)
          pure (.done (if narrow then narrowPieces c chan x.part tgt (aeWin w) w used g seq else windowPieces c chan x.part tgt (aeWin w) dst.fmt used l' seq)
            tgt (aeWin w) used.length G none)
    else do
      Job.flag o.2
      match loc with
      | .absent => pure (.done [] 0 0 0 0 none)
      | .far mod va none => do
        match l.marks with
        | q :: _ => Job.fail (l.status q)
        | [] => pure ()
        Job.require (wbStation w == 1) stXlate
        groupHold s x mod
        crcWrote l.bytes
        pure (.done (farWrites c chan x.part mod va (srcLead src l) ((s.cl c).nextTag.toNat % 8192) l) 0 0 0 0 none)
      | .far _ _ (some _) => if wbStation w = 1 then Job.fail stToken else Job.fail stXlate
      | .here va =>
        if mark ≠ 0 then do
          let ps ← aeDstPieces s x c va m w
          Job.note fun a => { a with setMarks := a.setMarks ++ ps.map fun p => (p.pa, p.n, mark) }
          pure (.done [] 0 0 0 0 none)
        else do
          let ps ← aeDstPieces s x c va l.bytes.length w
          if wbStation w = 1 then sendsMarks l ps
          writePieces s ps l.bytes l.marks l.bad
          crcWrote l.bytes
          addWatch (watchesOf x w e.next (va % 4096) src (placesOf ps) l.wide)
          pure (.done [] 0 0 0 0 none)

/-- Nothing read. -/
def noGot : Got := { bytes := [], bad := [], marks := [] }

/-- LOAD and STORE of one tile. -/
def aeTile (s : State) (x : XCtx) (c chan : Nat) (e : WbEntry) : Job AeRes := do
  let w := e.wb
  match ← aeSource s x c chan e with
  | .wait r => pure (.wait [r])
  | .dropped m => aePlace s x c chan e noGot ({ bytes := [] }, 0) [] m
  | .absent => aePlace s x c chan e noGot ({ bytes := List.replicate (denseSize (dstOf w).fmt (wbRows w) (wbCols w)) 0 }, 0) [] 0
  | .got g ps => do
    crcRead g.bytes
    let o ← aeObject w g
    aePlace s x c chan e g o ps 0

/-! ### GATHER (R244) -/

/-- A row as it lands: nothing for a dropped read, with its mark. -/
structure RowGot where
  load : Load
  mark : Nat
  src : List SrcPiece
  zero : Bool

/-- Where a row was read. -/
def rowVa (ps : List SrcPiece) : Nat := (ps.head?.map (·.va)).getD 0

/-- Bytes from the start of a destination object to its rows. -/
def rowBase (w : Desc) : Nat := if aeHdr w then 64 else 0

/-- Table row k as row r of a tile. -/
def gatherRow (s : State) (x : XCtx) (c chan : Nat) (e : WbEntry) (r k : Nat) : Job (Sum RowGot FarReq) := do
  let w := e.wb
  let src := srcOf w
  let df := (dstOf w).fmt
  let ahead := aeAhead w
  let n := rowLen src.fmt (wbCols w)
  let zeros : Load := { bytes := List.replicate (rowLen df (wbCols w)) 0 }
  let drop (m : Nat) : Sum RowGot FarReq := .inl { load := { bytes := [] }, mark := m, src := [], zero := false }
  let take (g : Got) (ps : List SrcPiece) : Job (Sum RowGot FarReq) := do
    crcRead g.bytes
    let (l, fl) ← widenObject src.fmt df false 1 (wbCols w) g
    Job.flag fl
    pure (.inl { load := l, mark := 0, src := ps, zero := false })
  if k = skipRow then pure (.inl { load := zeros, mark := 0, src := [], zero := true })
  else if src.len0 ≤ k then (if ahead then pure (drop 1) else Job.fail stXlate)
  else
    match ← aheadLoc s x ahead src k 0 n with
    | .error m => pure (drop m)
    | .ok .absent => pure (.inl { load := zeros, mark := 0, src := [], zero := true })
    | .ok (.far mod va cl) => do
      match ← farFetch s c chan e.next r mod va (dstLead w e.next + rowBase w + r * rowLen df (wbCols w)) cl ahead n fun _ => pure n with
      | .wait q => pure (.inr q)
      | .dropped m => pure (drop m)
      | .got g ps => take g ps
      | .absent => pure (drop 1)
    | .ok (.here va) => do
      match ← aeRead s x ahead va n with
      | .got g ps => take g ps
      | .dropped m => pure (drop m)
      | _ => pure (drop 1)

/-- The index entries of a gather's tile, request by request: an entry whose read was dropped, or whose unit is marked, has that mark instead
(R234, R244) (DEDUCED, log 210). -/
def gatherIndex (s : State) (x : XCtx) (w : Desc) (n : Nat) : Job (List (Except Nat Nat)) := do
  let va := aeIdx w + 4 * (n * wbRows w)
  let parts ← Job.map (fun (q : Nat × Nat) => do
    match ← aeRead s x (aeAhead w) (va + q.1) q.2 with
    | .got g _ =>
      let bad (i : Nat) : Option Nat := (g.marks.find? fun m => m.1 == (g.lead + 4 * i) / 64).map (·.2)
      Job.require (aeAhead w || g.bad.isEmpty) stUncorrectable
      pure ((piecesOf 4 (q.2 / 4) g.bytes).zipIdx.map fun (p : List Byte × Nat) =>
        match bad p.2 with
        | some m => (.error m : Except Nat Nat)
        | none => .ok (leNat p.1))
    | .dropped m => pure (List.replicate (q.2 / 4) (.error m))
    | _ => Job.fail stXlate) (requests va 0 0 (4 * wbRows w))
  pure parts.flatten

/-- GATHER of one tile: header, then its rows, and the payload's padding; rows that were dropped are marked and not written (DEDUCED, log 94). -/
def gatherTile (s : State) (x : XCtx) (c chan : Nat) (e : WbEntry) : Job AeRes := do
  let w := e.wb
  let dst := dstOf w
  let rows := wbRows w
  let cols := wbCols w
  let hdr := aeHdr w
  let m := maxObject dst.fmt rows cols hdr
  let idx ← gatherIndex s x w e.next
  let rs ← Job.map (fun (p : Except Nat Nat × Nat) =>
      match p.1 with
      | .error mk => pure (Sum.inl ({ load := { bytes := [] }, mark := mk, src := [], zero := false } : RowGot))
      | .ok k => gatherRow s x c chan e p.2 k) idx.zipIdx
  match rs.filterMap fun r => match r with | .inr q => some q | .inl _ => none with
  | q :: rest => pure (.wait (q :: rest))
  | [] => do
    let got := rs.filterMap fun r => match r with | .inl g => some g | .inr _ => none
    let rl := rowLen dst.fmt cols
    let h : Hdr := { bareHdr dst.fmt rows cols false with nnz := rows * cols, payload := denseSize dst.fmt rows cols, maxLine := cols }
    let h0 := rowBase w
    let whole := hdr || dst.kind == 1
    let pad : List Byte := if whole then List.replicate (roundUp (rows * rl) 64 - rows * rl) 0 else []
    if got.any (fun g => g.mark != 0) then Job.note fun a => { a with marked := a.marked + 1 }
    if whole then crcWrote (natLe 64 h.pack)
    let _ ← Job.map (fun (g : RowGot) => if g.mark = 0 then crcWrote g.load.bytes else pure ()) got
    crcWrote pad
    if dst.kind = 1 then do
      let body := got.flatMap fun g => if g.mark = 0 then g.load.bytes else List.replicate rl 0
      let marks := (got.zipIdx).foldl (fun (t : Tab Nat) (g : RowGot × Nat) =>
        let o := 64 + g.2 * rl
        (if g.1.mark = 0 then g.1.load.marks.flatMap fun q => (unitsOf (o + 64 * q.1) (min 64 (rl - 64 * q.1))).map fun u => (u, q.2)
         else (unitsOf o rl).map fun u => (u, g.1.mark)).foldl (fun t m => Tab.put t 0 m.1 (lowMark (Tab.look t 0 m.1) m.2)) t) []
      let bad := (got.zipIdx).flatMap fun (g : RowGot × Nat) => g.1.load.bad.map fun b => (64 + g.2 * rl) / 8 + b
      let (i, j) := (dstOf w).ij e.next
      let id := (s.cl c).nextTag.toNat + 1
      addWatch ((got.zipIdx.flatMap fun (g : RowGot × Nat) =>
        watchesOf x w (rowVa g.1.src) 0 g.1.src [(0, 64 + g.2 * rl, rl)] g.1.load.wide).map fun y => { y with slot := some id })
      pure (.done [] 0 0 0 0 (some { bytes := padTo (64 + roundUp body.length 64) (natLe 64 h.pack ++ body), marks := marks, poisoned := bad, row := j, col := i,
                                     ident := id }))
    else
      match ← aeDst s x e m with
      | .absent => pure (.done [] 0 0 0 0 none)
      | .far .. => Job.fail stXlate
      | .here va => do
        if hdr then do
          let ps ← aeDstPieces s x c va 64 w
          writePieces s ps (natLe 64 h.pack)
        let _ ← Job.map (fun (g : RowGot × Nat) => do
          let ps ← aeDstPieces s x c (va + h0 + g.2 * rl) rl w
          if g.1.mark ≠ 0 then Job.note fun a => { a with setMarks := a.setMarks ++ ps.map fun p => (p.pa, p.n, g.1.mark) }
          else do
            writePieces s ps g.1.load.bytes g.1.load.marks g.1.load.bad
            addWatch (watchesOf x w (rowVa g.1.src) ((va + h0 + g.2 * rl) % 4096) g.1.src (placesOf ps) g.1.load.wide)) got.zipIdx
        if !pad.isEmpty then do
          let ps ← aeDstPieces s x c (va + h0 + rows * rl) pad.length w
          writePieces s ps pad
        pure (.done [] 0 0 0 0 none)

/-! ### SCATTER and SCATTER_ADD (R245, R247) -/

/-- A reader whose bytes count as read (R251). -/
def crcReader (rd : Reader) : Reader := fun need off n => do
  let g ← rd need off n
  crcRead g.bytes
  pure g

/-- The source tile of a scatter, read whole and consumed as it leaves for memory. -/
def scatterSource (s : State) (x : XCtx) (c chan : Nat) (e : WbEntry) : Job (Option Tile × Option FarReq) := do
  let w := e.wb
  let src := srcOf w
  let hdr := aeHdr w
  let role (h : Hdr) : Bool := h.rows == wbRows w && h.cols == wbCols w && codeOk h src.sparse
  if src.kind = 1 then
    match (s.tileQ c (if aeSide w = 0 then 0x0A else 0x0B)).entries with
    | [] => Job.fail stTile
    | t :: _ => do
      let y ← parseTile (crcReader (rdEntry t)) src.fmt role
      pure (some y, none)
  else
    let (i, j) := src.ij e.next
    let bare := denseSize src.fmt (wbRows w) (wbCols w)
    let parse (rd : Reader) : Job (Option Tile × Option FarReq) := do
      let y ← if hdr then parseTile (crcReader rd) src.fmt role else parseBare (crcReader rd) src.fmt (wbRows w) (wbCols w) false
      pure (some y, none)
    match ← locOf s x src i j (maxObject src.fmt (wbRows w) (wbCols w) hdr) with
    | .absent => do
      Job.require (!hdr) stTile
      pure (some (bareOf src.fmt (wbRows w) (wbCols w) false (List.replicate bare 0)), none)
    | .far mod va cl => do
      match ← farFetch s c chan e.next 0 mod va 0 cl false (if hdr then 64 else bare) fun b => if hdr then movedLen w b else pure bare with
      | .got g _ => parse (rdEntry { bytes := g.bytes, poisoned := g.bad, marks := g.marks })
      | .wait q => pure (none, some q)
      | _ => Job.fail stXlate
    | .here va =>
      parse fun _ off n => do
        match ← aeRead s x false (va + off) n with
        | .got g _ => pure g
        | _ => Job.fail stXlate

/-- The index entries of tile n of a scatter; one beyond the table raises FAULT_XLATE. -/
def scatterIndex (s : State) (x : XCtx) (w : Desc) (n len : Nat) : Job (List Nat) := do
  let bs ← readVa s x (aeIdx w + 4 * (n * wbRows w)) (4 * wbRows w)
  let ks := (piecesOf 4 (wbRows w) bs).map leNat
  Job.require (ks.all fun k => k == skipRow || decide (k < len)) stXlate
  pure ks

/-- The elements of row r of a tile in a format, packed. -/
def tileRow (t : Tile) (df r : Nat) : List Byte × Byte :=
  let es := (List.range t.hdr.cols).map fun q =>
    let e := r * t.hdr.cols + q
    if t.hdr.fmt = df ∧ !t.hdr.mx then (if t.mask.getD e false then t.codes.getD e 0 else 0, (0 : Byte)) else widenElem t df e
  (packElems (fmtWidth df) (es.map (·.1)), es.foldl (fun f x => f ||| x.2) 0)

/-- How far into a page row r of a source tile lies, where the waybill gives the tile an address (R228). -/
def rowLead (w : Desc) (n : Nat) (t : Tile) (r : Nat) : Nat :=
  let src := srcOf w
  if src.kind = 0 ∧ src.owner.isNone then
    ((src.at (src.ij n).1 (src.ij n).2 + ((if aeHdr w then 64 * (1 + t.hdr.side) else 0) + r * rowLen src.fmt t.hdr.cols : Nat)) % 4096).toNat
  else 0

/-- SCATTER of one tile: rows go out in increasing ρ to a table in HBM or the CXL tier, of this module or another. -/
def scatterTile (s : State) (x : XCtx) (c chan : Nat) (e : WbEntry) : Job AeRes := do
  let w := e.wb
  let dst := dstOf w
  let ks ← scatterIndex s x w e.next dst.len0
  match ← scatterSource s x c chan e with
  | (none, some q) => pure (.wait [q])
  | (none, none) => Job.fail stTile
  | (some t, _) => do
    let n := rowLen dst.fmt (wbCols w)
    let sends ← Job.map (fun (k : Nat × Nat) =>
      if k.1 = skipRow then pure []
      else do
        let (bs, fl) := tileRow t dst.fmt k.2
        Job.flag fl
        crcWrote bs
        match ← locOf s x dst k.1 0 n with
        | .absent => pure []
        | .far mod va none => do
          groupHold s x mod
          pure (farWrites c chan x.part mod va (rowLead w e.next t k.2) ((s.cl c).nextTag.toNat % 8192) { bytes := bs })
        | .far .. => Job.fail stXlate
        | .here va => do
          Job.require (decide (va + n ≤ 2 ^ 48)) stXlate
          let ps ← Job.xl s x true va n
          Job.require (ps.all fun p => (padCluster p.pa).isNone) stXlate
          writePieces s ps bs
          pure []) ks.zipIdx
    pure (.done sends.flatten 0 0 0 0 none)

/-- SCATTER_ADD of one tile: each row that is sent is one ADD piece and spends one granule. Its `addr` is the table row; bit 0 of `msg` is fast
mode. A tile with a scale other than 1 travels as FP32 (DEDUCED, log 95). -/
def scatterAddTile (s : State) (x : XCtx) (c chan : Nat) (e : WbEntry) : Job AeRes := do
  let w := e.wb
  let ks ← scatterIndex s x w e.next (2 ^ 32)
  match ← aeWindowTarget s x c w (← aeDst s x { e with next := 0 } (4 * wbCols w)) with
  | none => pure (.done [] 0 0 0 0 none)
  | some tgt => do
    match ← scatterSource s x c chan e with
    | (none, some q) => pure (.wait [q])
    | (none, none) => Job.fail stTile
    | (some t, _) => do
      Job.require (!t.hdr.mx) stTile
      let sent := ks.zipIdx.filter fun k => k.1 != skipRow
      let gs := heldFor s c chan tgt (aeWin w)
      if gs.length < sent.length then pure (.tokens tgt (aeWin w) (sent.length - gs.length))
      else do
        let fmt := if t.tOf = f32One then (srcOf w).fmt else 0
        let seq0 := Tab.look (s.cl c).st.addSeq 0 (tgt * 8 + chan)
        let ps ← Job.map (fun (p : ((Nat × Nat) × (Nat × Nat)) × Nat) => do
          let (bs, fl) := if fmt = (srcOf w).fmt then ((tileRow t fmt p.1.1.2).1, (0 : Byte)) else
            (let es := (List.range (wbCols w)).map fun q => t.f32 (p.1.1.2 * wbCols w + q)
             (packElems 32 (es.map fun v => v.1.toNat), es.foldl (fun f v => f ||| v.2) 0))
          Job.flag fl
          crcWrote bs
          pure { wrPacket c chan x.part (BitVec.ofNat 16 tgt) (targetMod tgt) 0 p.1.1.1 bs [] [] with
                 off := (List.range (wbCols w)).filter fun q => !t.mask.getD (p.1.1.2 * wbCols w + q) false
                 ptype := 0x04, window := BitVec.ofNat 3 (aeWin w), winGen := BitVec.ofNat 8 p.1.2.1, granule := BitVec.ofNat 10 p.1.2.2, last := true, pieces := 1,
                 srcFmt := BitVec.ofNat 4 fmt, seq := BitVec.ofNat 16 (seq0 + p.2), msg := if aeFast w then 1 else 0 }) (sent.zip gs).zipIdx
        pure (.done ps tgt (aeWin w) sent.length sent.length none)

/-! ### ADD pieces on landing (R246 to R248) -/

/-- The landing descriptor of a window. -/
def State.landDesc (s : State) (c w : Nat) : Nat := (Tab.look (s.cl c).st.land 0 w).toNat

/-- An ADD piece applied: each element that takes part is widened exactly and added to the table row; the granule lands; the flags return with the
acknowledgement (R39, R246, R247) (DESIGN CHOICE, log 53). -/
def State.addApply (s : State) (c : Nat) (p : Packet) : State :=
  let d := s.landDesc c p.window.toNat
  let fmt := p.srcFmt.toNat
  let n := p.payload.length * 8 / fmtWidth fmt
  let t := bareOf fmt 1 n false p.payload
  let pa := padOf c + (bits d 1 12 + p.addr.toNat) * 2048
  let s := s.touch pa (4 * n)
  let old := (piecesOf 4 n (s.mem.readN pa (4 * n))).map fun b => (BitVec.ofNat 32 (leNat b) : Word32)
  let res := (old.zipIdx).map fun (q : Word32 × Nat) =>
    if p.off.contains q.2 then (q.1, (0 : Byte)) else
    let v := t.f32 q.2
    let r := fadd q.1 v.1
    (r.1, r.2 ||| v.2)
  let bad := (s.badWords pa (4 * n)).map fun b => b - pa / 8
  let s := s.store { pa := pa, bytes := res.flatMap fun r => natLe 4 r.1.toNat, bad := (bad ++ p.bad.flatMap fun b =>
      (List.range (ceilDiv (4 * 64) (fmtWidth fmt))).map fun i => (b * 64 / fmtWidth fmt + i) / 2).dedup.filter fun b => 8 * b < 4 * n }
  ((s.granted c 9).countPiece c p).ackWrite (BitVec.ofNat 16 c) p (res.foldl (fun f r => f ||| r.2) 0)

/-- The reason for which an ADD piece is refused. What its window and its table row make of it has reason 0x6, which R99 checks before the others (R247). -/
def State.addRefusal (s : State) (c : Nat) (p : Packet) : Option Nat :=
  let d := s.landDesc c p.window.toNat
  if p.payload.length * 8 / fmtWidth p.srcFmt.toNat * 4 > 2048 ∨ !bit1 d 0 ∨ bits d 13 12 + 1 ≤ p.addr.toNat then some 6
  else s.pieceRefusal c p

/-- The sender channel of an ADD piece: module, endpoint and channel (DESIGN CHOICE, log 17, DEDUCED, log 95). -/
def addKey (p : Packet) : Nat := p.srcMod.toNat * 2 ^ 19 + p.srcEp.toNat * 8 + p.tag.toNat % 8

/-- Held pieces whose turn has come are applied. -/
def State.addDrain (s : State) (c : Nat) : Nat → State
  | 0 => s
  | fuel + 1 =>
    match (s.cl c).st.addHeld.find? fun p => p.seq.toNat == Tab.look (s.cl c).st.addNext 0 (addKey p) % 65536 with
    | some p =>
      let t := s.updSt c fun x => { x with addHeld := x.addHeld.erase p, addNext := Tab.put x.addNext 0 (addKey p) (Tab.look x.addNext 0 (addKey p) + 1) }
      State.addDrain (t.addApply c p) c fuel
    | none => s

/-- An ADD piece arrives at a cluster: refused, applied, or held in the reorder buffer of 16 until its turn (R248). A full buffer leaves it in
the mesh (DEDUCED, log 95). -/
def State.addArrive (s : State) (c : Nat) (p : Packet) : State :=
  match s.addRefusal c p with
  | some r => s.refusePiece c p r
  | none =>
    if bit1 p.msg.toNat 0 then s.addApply c p
    else if p.seq.toNat = Tab.look (s.cl c).st.addNext 0 (addKey p) % 65536 then
      let t := s.updSt c fun x => { x with addNext := Tab.put x.addNext 0 (addKey p) (Tab.look x.addNext 0 (addKey p) + 1) }
      (t.addApply c p).addDrain c 17
    else if 16 ≤ (s.cl c).st.addHeld.length then s
    else s.updSt c fun x => { x with addHeld := x.addHeld ++ [p] }

/-- A write piece lands in a window: its bytes, its marks and poison, its granule (R96) (DEDUCED, log 96). -/
def State.landPiece (s : State) (c : Nat) (p : Packet) : State :=
  let w := s.win c p.window.toNat
  let pa := granuleAt c w (w.granuleNo p) + 64 * p.gOff.toNat
  ((s.store { pa := pa, bytes := p.payload, marks := p.marks, bad := p.bad }).granted c 9).countPiece c p

/-- The pieces of one object: its sender, the channel, the window, the object's number. -/
def sameObject (p q : Packet) : Bool :=
  q.srcEp == p.srcEp && q.srcMod == p.srcMod && q.window == p.window && q.tag.toNat % 8 == p.tag.toNat % 8 && q.narrow.isSome &&
  q.narrow.map (·.obj) == p.narrow.map (·.obj)

/-- A piece whose format is narrower than its granule's: with the last of its object the landing path widens the object, writes every granule of it,
and acknowledges each piece, the last one with the flags of the widening (R246) (DESIGN CHOICE, log 53). -/
def State.landNarrow (s : State) (c : Nat) (p : Packet) (n : Narrow) : State :=
  let held := (s.cl c).st.landHeld
  let others := held.filter fun q => sameObject p q && (q.narrow.map (·.k)) != some n.k
  let all := (List.range n.count).filterMap fun k => (others ++ [p]).find? fun q => (q.narrow.map (·.k)) == some k
  if all.length < n.count then s.updSt c fun y => { y with landHeld := held.filter (fun q => !(sameObject p q && (q.narrow.map (·.k)) == some n.k)) ++ [p] }
  else
    let sz := (all.map fun q => q.payload.length).foldl max 0
    let g : Got := (all.zipIdx).foldl (fun g q => g.join { bytes := q.1.payload, bad := q.1.bad, marks := q.1.marks } (sz * q.2)) noGot
    let o : Load × Byte := match (Job.exec (widenObject p.srcFmt.toNat n.fmt n.hdr n.rows n.cols g)).1 with
      | .ok o => o
      | .error _ => ({ bytes := g.bytes, marks := g.marks, bad := g.bad }, 0)
    let t := s.updSt c fun y => { y with landHeld := held.filter fun q => !sameObject p q }
    (all.zipIdx).foldl (fun t q =>
      let l := o.1.slice (2048 * q.2) 2048
      (t.landPiece c { q.1 with payload := l.bytes, marks := l.marks, bad := l.bad }).ackWrite (BitVec.ofNat 16 c) q.1
        (if q.2 + 1 = n.count then o.2 else 0)) t

/-- A WRITE piece at its target: verbatim or widened (R246). -/
def State.landWrite (s : State) (c : Nat) (p : Packet) : State :=
  match p.narrow with
  | some n => if n.fmt ≠ p.srcFmt.toNat then s.landNarrow c p n else (s.landPiece c p).ackWrite p.dstEp p 0
  | none => (s.landPiece c p).ackWrite p.dstEp p 0

/-! ### The engines at work -/

/-- Tokens leave what a channel holds, oldest first. -/
def spendHeld (chan target win : Nat) : Nat → List HeldToken → List HeldToken
  | _, [] => []
  | n, h :: hs =>
    if n = 0 ∨ !(h.chan == chan && h.target == target && h.window == win) then h :: spendHeld chan target win n hs
    else if h.count ≤ n then spendHeld chan target win (n - h.count) hs
    else { h with first := h.first + n, count := h.count - n } :: hs

/-- The outstanding-request tags of a cluster's engines (R70, R228): the engine of each, and whether its request is of the latency class. Reads of
other modules and refetches hold one until their data is there, writes until they are acknowledged. -/
def State.tags (s : State) (c : Nat) : List (Nat × Bool) :=
  let cl := s.cl c
  let wr (tag : BitVec 16) : Nat × Bool := (1, (s.chan c (8 + tag.toNat % 8)).lat)
  (s.kept.filter fun k => k.p.srcEp.toNat == c && (k.p.ptype == 0x00 || k.p.ptype == 0x02 || k.p.ptype == 0x04)).map (fun k =>
    if k.p.ptype = 0x00 then
      match cl.st.pend.find? fun r => r.tag == k.p.tag with
      | some r => (r.chan / 8, (s.chan c r.chan).lat)
      | none => (0, (cl.watches.find? fun w => w.pending && w.tag == k.p.tag).any (·.lat))
    else wr k.p.tag) ++
  ((s.hubs.flatMap fun h => h.2.acks).filter fun a => a.dstMod == 0xFF && a.dst.toNat == c).map fun a => wr a.tag

/-- Tags that a request may still take: 64 for an engine, of which bulk-class requests hold at most 64 − `0x2050.01` (R228). -/
def State.tagRoom (s : State) (c engine : Nat) (lat : Bool) : Nat :=
  let mine := (s.tags c).filter fun t => t.1 == engine
  let all := 64 - mine.length
  if lat then all else min all (64 - min 32 (s.cfg 0x2050 1) - (mine.filter fun t => !t.2).length)

/-- Reads asked of another module, with fresh tags, as far as there are tags. -/
def State.askFar (s : State) (c chan tile : Nat) (part : Nat) (r : FarReq) : State :=
  (r.parts.take (s.tagRoom c (chan / 8) (s.chan c chan).lat)).foldl (fun s (q : Nat × Nat) =>
    let tag := (s.cl c).nextTag
    let ep : BitVec 16 := match r.cluster with | some k => BitVec.ofNat 16 k | none => BitVec.ofNat 16 (0x2000 + (r.va + q.1) / 4096 % 4)
    let t := s.updCl c fun cl => { cl with nextTag := tag + 1, st := { cl.st with
      pend := cl.st.pend ++ [{ tag := tag, chan := chan, tile := tile, off := r.base * 131072 + q.1, n := q.2 }] } }
    t.send (packetOf 0x00 0 ep (BitVec.ofNat 16 c) (BitVec.ofNat 8 r.mod) part tag (r.va + q.1) (BitVec.ofNat 128 q.2) [])) s

/-- Two writes to memory of one module overlap. -/
def meetsWrite (p q : Packet) : Bool :=
  p.ptype == 0x02 && q.ptype == 0x02 && decide (0x2000 ≤ p.dstEp.toNat) && decide (0x2000 ≤ q.dstEp.toNat) && p.dstMod == q.dstMod &&
  overlaps p.addr.toNat p.payload.length q.addr.toNat q.payload.length

/-- A packet of the Dispatch Station may leave: it finds a tag, and no earlier write to the same place is still unacknowledged (R228, R245). -/
def State.mayLeave (s : State) (c : Nat) (p : Packet) : Bool :=
  decide (0 < s.tagRoom c 1 (s.chan c (8 + p.tag.toNat % 8)).lat) && !s.kept.any fun k => k.p.srcEp.toNat == c && meetsWrite k.p p

/-- Packets that wait leave as far as they may: the first of each channel, one of the latency class before one of bulk class (R228). -/
def State.sendOut (s : State) (c : Nat) : Nat → State
  | 0 => s
  | fuel + 1 =>
    let q := (s.cl c).sendQ
    let firsts := (q.zipIdx.filter fun x => !(q.take x.2).any fun y => y.tag.toNat % 8 == x.1.tag.toNat % 8).map (·.1)
    let ready := firsts.filter (s.mayLeave c)
    match (ready.find? fun p => (s.chan c (8 + p.tag.toNat % 8)).lat).or ready.head? with
    | some p => State.sendOut ((s.updCl c fun cl => { cl with sendQ := cl.sendQ.erase p }).send p) c fuel
    | none => s

/-- All that may leave. -/
def State.sendAll (s : State) (c : Nat) : State := s.sendOut c (s.cl c).sendQ.length

/-- A piece for a window of its own cluster, which the mesh does not carry. -/
def ownPiece (c : Nat) (p : Packet) : Bool := p.dstMod == 0xFF && p.dstEp.toNat == c

/-- The bytes of this module that window pieces are written to, and the table rows that ADD pieces add into (R73). -/
def State.pieceRanges (s : State) (ps : List Packet) : List (Nat × Nat) :=
  (ps.filter fun p => (p.ptype == 0x02 || p.ptype == 0x04) && p.dstMod == 0xFF && decide (p.dstEp.toNat < 0x2000)).map fun p =>
    let d := p.dstEp.toNat
    if p.ptype = 0x02 then (granuleAt d (s.win d p.window.toNat) p.granule.toNat, 2048)
    else (padOf d + (bits (s.landDesc d p.window.toNat) 1 12 + p.addr.toNat) * 2048, 4 * (p.payload.length * 8 / max 1 (fmtWidth p.srcFmt.toNat)))

/-- A finished tile takes effect (DEDUCED, log 92). -/
def State.aeDone (s : State) (c st chan : Nat) (e : WbEntry) (a : Acc) (sends : List Packet) (tgt win used total : Nat) (entry : Option TileEntry) : Move :=
  let w := e.wb
  let ch := 8 * st + chan
  let s := s.sweepWatches c
  if 2048 < (s.cl c).watches.length + a.watches.length then .stall else
  let own := sends.filter fun p => ownPiece c p && p.ptype == 0x02
  let nt := (s.cl c).nextTag.toNat
  let tagOf (i : Nat) : BitVec 16 := BitVec.ofNat 16 (8 * ((nt + i) % 8192) + chan % 8)
  let rest := ((sends.filter fun p => !(ownPiece c p && p.ptype == 0x02)).zipIdx).map fun (p : Packet × Nat) =>
    { p.1 with tag := tagOf p.2 }
  match own.findSome? fun p => s.pieceRefusal c p with
  | some r => .failed ((s.bump 0x5020 3 1).joinFlags e.part e.seq a.flags) (refusalStatus r) a.i a.j
  | none =>
    if own.any fun p => s.retainedAt (granuleAt c (s.win c win) p.granule.toNat) 2048 (s.landExempt c) then .stall else
    let watchers := if st = 1 then s.watchersOf (a.writes.map fun x => (x.1.pa, x.1.bytes.length)) else []
    if !watchers.isEmpty && s.tagRoom c 1 (aeLat w) == 0 then .stall else
    let leaves := st = 1 ∧ (a.writes.any (fun x => (padCluster x.1.pa).isNone) ∨ rest.any fun p => p.ptype == 0x02 && decide (0x2000 ≤ p.dstEp.toNat))
    let t := (s.settle a true).addBegun c (a.begun ++ s.pieceRanges sends)
    let t := if leaves then a.reads.foldl (fun t r => t.unwatch r.1 r.2.1) t else t
    let t := t.awaitAcks (BitVec.ofNat 16 c) 0xFF (tagOf rest.length) e.part watchers
    let t := own.foldl (fun s p => s.landPiece c p) t
    let t := (t.addWatches c a.watches).tilesWritten c 1
    let back := total - used
    let extra := (heldFor s c ch tgt win).drop used |>.take back
    let t := t.updCl c fun cl => { cl with held := spendHeld ch tgt win total cl.held, nextTag := cl.nextTag + BitVec.ofNat 16 (rest.length + 1),
                                           st := { cl.st with pend := cl.st.pend.filter fun p => !(p.chan == ch && p.tile == e.next) } }
    let t := extra.foldl (fun s (g : Nat × Nat) =>
      if tgt = c then s.returnGranules c win g.2 1 (BitVec.ofNat 16 c)
      else s.returnToken c e.part { chan := ch, target := tgt, window := win, gen := g.1, first := g.2, count := 1 }) t
    let adds := if aeFast w then 0 else (rest.filter fun p => p.ptype == 0x04).length
    let t := if adds = 0 then t else t.updSt c fun y => { y with addSeq := Tab.put y.addSeq 0 (tgt * 8 + ch) (Tab.look y.addSeq 0 (tgt * 8 + ch) + adds) }
    let t := (rest.filter (ownPiece c)).foldl (fun s p => s.addArrive c p) t
    let t := (t.updCl c fun cl => { cl with sendQ := cl.sendQ ++ rest.filter fun p => !ownPiece c p }).sendAll c
    let t := match entry with
      | some en => t.updTileQ c 0x09 fun q => { q with entries := q.entries ++ [{ en with arrived := q.st.cutAt == 0, here := if q.st.cutAt = 0 then en.bytes.length else min en.bytes.length (64 * q.st.cutAt.toNat) }] }
      | none => t
    let t := if st = 1 ∧ (srcOf w).kind = 1 then t.updTileQ c (if aeSide w = 0 then 0x0A else 0x0B) fun q => { q with entries := q.entries.tail } else t
    let t := if aeOp w = 0xA && aeFast w && e.next == 0 then t.bumpFor (e.part, e.seq) 0x7800 (e.part + 1) 1 else t
    let src := aeCrcSrc w
    let t := t.updChan c ch fun k => { k with bytes := if src then a.bytesR else a.bytesW }
    .moved { t with free := t.free + 1 } { e with flags := e.flags ||| a.flags, crc := if src then a.crcR else a.crcW, bytes := if src then a.bytesR else a.bytesW,
                                                  marked := e.marked + a.marked, acks := e.acks + rest.length + watchers.length,
                                                  srcs := e.srcs ++ (if exactInPlace w then [] else a.reads.map fun r => (r.1, r.2.1)),
                                                  dsts := e.dsts ++ a.begun }

/-- Tiles of an access engine's waybill, from the side that is a stream of tiles (DEDUCED, log 127). -/
def aeTotal (w : Desc) : Nat :=
  if aeOp w = 1 then (if (dstOf w).kind = 0 then (dstOf w).count else (srcOf w).count)
  else if (srcOf w).kind = 0 then (srcOf w).count else (dstOf w).count

/-- The reads of the tile that lies `k` tiles ahead may go out: a tag is free, the siding that it goes to has room for it, or its granules are held (R234)
(DESIGN CHOICE, log 209). -/
def State.aheadRoom (s : State) (c ch : Nat) (w : Desc) (k : Nat) : Bool :=
  decide (0 < s.tagRoom c (ch / 8) (s.chan c ch).lat) &&
  (if (dstOf w).kind = 1 then decide ((s.tileQ c 0x09).entries.length + k < tileDepth)
   else !aeWinEn w || decide ((k + 1) * ceilDiv (maxObject (dstOf w).fmt (wbRows w) (wbCols w) (aeHdr w)) 2048 ≤
      (((s.cl c).held.filter fun h => h.chan == ch).map (·.count)).sum))

/-- One tile of an access engine's waybill. While it waits for another module, the reads of the tiles after it go out (R234) (DEDUCED, log 64, DEDUCED, log 93). -/
def aeMove (c st chan : Nat) (f : State → XCtx → Nat → Nat → WbEntry → Job AeRes) (x : XCtx) (s : State) (e : WbEntry) : Move :=
  let w := e.wb
  let ch := 8 * st + chan
  let ij := engineIJ w e.next
  let fromQ := st == 1 && (srcOf w).kind == 1
  if fromQ && !((s.tileQ c (if aeSide w = 0 then 0x0A else 0x0B)).entries.head?.any (·.arrived)) then .stall
  else if st = 0 ∧ (dstOf w).kind = 1 ∧ tileDepth ≤ (s.tileQ c 0x09).entries.length then .stall
  else
    let run (s : State) : Except Byte AeRes × Acc :=
      ((f s x c ch e).run).run { crcR := e.crc, bytesR := e.bytes, crcW := e.crc, bytesW := e.bytes, i := ij.1, j := ij.2, who := st, home := some c, owner := some (e.part, e.seq) }
    let ask (s : State) (n : Nat) (qs : List FarReq) : State := qs.foldl (fun s q => s.askFar c ch n x.part q) s
    -- the far reads of tiles to come (R234)
    let ahead (s : State) : State := if st ≠ 0 then s else (List.range (min 63 (aeTotal w - 1 - e.next))).foldl (fun s k =>
      let n := e.next + 1 + k
      if !s.aheadRoom c ch w (n - e.next) then s else
      match ((f s x c ch { e with next := n }).run {}).1 with
      | .ok (.wait qs) => ask s n qs
      | _ => s) s
    let finish (s : State) (again : State → Move) (r : Except Byte AeRes × Acc) : Move :=
      if waits r.1 then .stall else
      if r.2.retained s then .stall else
      match r.1 with
      | .error status => .failed (((s.settle r.2.upToFailure true).addBegun c r.2.begun).joinFlags e.part e.seq r.2.flags) status r.2.i r.2.j
      | .ok (.done sends tgt win used total entry) => s.aeDone c st chan e r.2 sends tgt win used total entry
      | .ok (.tokens tgt win n) => if (s.cl c).tokWait.any fun t => t.chan == ch then .stall else again (s.askTokens c ch tgt win n x.part)
      | .ok (.wait qs) =>
        let t := ahead (ask s e.next qs)
        if (t.cl c).st.pend.length = (s.cl c).st.pend.length then .stall else .paused t
    finish s (fun t => match finish t (fun _ => .stall) (run t) with | .stall => .paused t | m => m) (run s)

/-- An operation of an engine on a channel. -/
def State.aeRun (s : State) (c st op : Nat) (chan : BitVec 3) (f : State → XCtx → Nat → Nat → WbEntry → Job AeRes) : State :=
  s.work c st chan.toNat (fun e => aeOp e.wb == op) (fun e => aeTotal e.wb) (aeMove c st chan.toNat f)

/-- LOAD. -/
def execLoad (c : Nat) (chan : BitVec 3) (s : State) : Res := .next (s.aeRun c 0 0 chan aeTile)

/-- GATHER. -/
def execGather (c : Nat) (chan : BitVec 3) (s : State) : Res := .next (s.aeRun c 0 1 chan gatherTile)

/-- STORE. -/
def execStore (c : Nat) (chan : BitVec 3) (s : State) : Res := .next (s.aeRun c 1 8 chan aeTile)

/-- SCATTER. -/
def execScatter (c : Nat) (chan : BitVec 3) (s : State) : Res := .next (s.aeRun c 1 9 chan scatterTile)

/-- SCATTER_ADD. -/
def execScatterAdd (c : Nat) (chan : BitVec 3) (s : State) : Res := .next (s.aeRun c 1 10 chan scatterAddTile)

/-! ### Stale notices (R240 to R243) -/

/-- A watch entry changed. -/
def State.updWatch (s : State) (c : Nat) (w : Watch) (f : Watch → Watch) : State :=
  s.updCl c fun cl => { cl with watches := mapFirst (fun y => y == w) f cl.watches }

/-- The units of a watch that are still watched take a mark, in the scratchpad or in the entry of the input siding; `pending`: their refetch is pending. -/
def State.markLive (s : State) (c : Nat) (w : Watch) (mark : Nat) (pending : Bool) : State :=
  let us := s.liveUnits c w
  match w.slot with
  | none => { s with marks := us.foldl (fun t u => Tab.put t 0 u mark) s.marks }
  | some k => s.updTileQ c 0x09 fun q => { q with entries := q.entries.map fun e =>
      if e.ident = k then { e with marks := e.marks.filter (fun m => !us.contains m.1) ++ (if mark = 0 then [] else us.map fun u => (u, mark)),
                                   pend := e.pend.filter (fun u => !us.contains u) ++ (if pending then us else []) } else e }

/-- A refetch has nothing more to come: its units keep the mark given. -/
def State.refetchEnds (s : State) (c : Nat) (w : Watch) (mark : Nat) : State :=
  (s.markLive c w mark false).updWatch c w fun y => { y with pending := false, queued := false }

/-- A refetch goes out: a run-ahead read, translated again; one that is dropped marks the units XLATE or PROTECT instead (R234, R237, R243). The hub enters
the region again. Without a tag it waits for one (R228). -/
def State.refetch (s : State) (c : Nat) (w : Watch) : State :=
  match (s.cl c).run with
  | none => s
  | some r =>
    let dropped (m : Nat) (s : State) : State := (s.refetchEnds c w m).bump 0x70A0 m 1
    if s.tagRoom c 0 w.lat = 0 then (s.markLive c w 3 true).updWatch c w fun y => { y with pending := true, queued := true, noticed := false } else
    let s := (s.walksFor (r.ctx c) w.va w.n).foldl State.walked s
    match s.xl (r.ctx c) false w.va w.n with
    | .error e => dropped (if e = stXlate then 1 else 2) s
    | .ok ps =>
      if ps.any (·.guard) then dropped 1 s else
      let pa := (ps.head?.map (·.pa)).getD w.src
      let tag := (s.cl c).nextTag
      let t := (s.markLive c w 3 true).updWatch c w fun y =>
        { y with src := pa, region := pa / 4096, pending := true, queued := false, noticed := false, tag := tag, refetches := y.refetches + 1 }
      let t := (t.updCl c fun cl => { cl with nextTag := tag + 1 }).bump 0x70A0 4 1
      (t.filterEnter c (pa / 4096)).send { packetOf 0x00 0 (BitVec.ofNat 16 (0x2000 + s.hubOf pa)) (BitVec.ofNat 16 c) 0xFF w.part tag pa
        (BitVec.ofNat 128 w.n) [] with hc := (ps.head?.map (·.hc)).getD 0 }

/-- Refetches that wait for a tag go out, one of the latency class before one of bulk class (R228). -/
def State.refetchQueued (s : State) (c : Nat) : Nat → State
  | 0 => s
  | fuel + 1 =>
    let may (w : Watch) : Bool := w.queued && decide (0 < s.tagRoom c 0 w.lat)
    match ((s.cl c).watches.find? fun w => w.lat && may w).or ((s.cl c).watches.find? may) with
    | some w => State.refetchQueued (s.refetch c w) c fuel
    | none => s

/-- A tag has come free: what waited for one goes on (R228). -/
def State.tagFreed (s : State) (c : Nat) : State := (s.sendAll c).refetchQueued c ((s.cl c).watches.filter (·.queued)).length

/-- A notice reaches a cluster: each watch of the region has its watched units marked STALE, and under policy 1 its request is read again
until the limit; the notice is acknowledged after the marks are set (R240, R241). -/
def State.notice (s : State) (c region : Nat) : State :=
  let ws := (s.cl c).watches.filter fun w => w.region == region
  let t := ws.foldl (fun s w =>
    let s := (s.markLive c w 3 w.pending).bump 0x70A0 3 1
    if w.policy = 1 ∧ !(s.chan c w.chan).disable then
      if w.pending then s.updWatch c w fun y => { y with noticed := true }
      else if w.refetches < max 1 (s.cfg 0x2050 2) then s.refetch c w else s
    else s) s
  (t.emit (.packet (pktFinish (packetOf 0x08 1 (BitVec.ofNat 16 (0x2000 + s.hubOf (region * 4096))) (BitVec.ofNat 16 c) 0xFF 0 0 (region * 4096) 0 [])))).sweepWatches c

/-- STALE_NOTICE. -/
def execStaleNotice (c region : Nat) (s : State) : Res := .next (s.notice c region)

/-- LOST_WATCH_NOTICE: treated exactly as a stale notice. -/
def execLostWatchNotice (c region : Nat) (s : State) : Res := .next (s.notice c region)

/-- REFETCH_LIMIT: watch entry k has been refetched `0x2050.02` times: no refetch of it stays pending, and its STALE units fault when consumed. -/
def execRefetchLimit (c k : Nat) (s : State) : Res :=
  match (s.cl c).watches[k]? with
  | some w =>
    if max 1 (s.cfg 0x2050 2) ≤ w.refetches then .next (s.refetchEnds c w 3)
    else .next s
  | none => .next s

end Sys2Proof.Machine
end

