-- ==== Sys2Proof/Machine/Records.lean ====
section
/-! DEFINITION. Parameter records (R283 to R288): headers, shards, the buffer that a view selects, the tiles of a state slot, the derivation of
working copies (R174, R297), the gate of pending writes. -/

namespace Sys2Proof.Machine

/-! ### Headers (R284, R287) -/

/-- A parameter record's header. -/
structure RecH where
  part : Nat
  fact : Bool
  decay : Bool
  kDown : Bool
  mx : Bool
  fmt0 : Nat
  sp0 : Nat
  fmt1 : Nat
  encOk : Nat
  rnd : Nat
  shards : Nat
  rows : Nat
  cols : Nat
  stream : Nat
  tagA : Nat
  mepA : Nat
  tagB : Nat
  mepB : Nat
  deriving DecidableEq, Repr

/-- A header from its 512 bits. -/
def RecH.parse (v : Nat) : RecH where
  part := bits v 8 4
  fact := bit1 v 12
  decay := bit1 v 13
  kDown := bit1 v 14
  mx := bit1 v 15
  fmt0 := bits v 16 4
  sp0 := bits v 20 3
  fmt1 := bits v 24 4
  encOk := bits v 28 5
  rnd := bits v 33 2
  shards := bits v 36 12
  rows := bits v 48 9
  cols := bits v 64 13
  stream := bits v 80 28
  tagA := bits v 128 64
  mepA := bits v 192 16
  tagB := bits v 256 64
  mepB := bits v 320 16

/-- Master elements of a tile. -/
def RecH.n (h : RecH) : Nat := h.rows * h.cols

/-- A second-order copy exists for a forward code (R174). -/
def secondOrder (sp : Nat) : Bool := sp ≤ 2

/-- The second-order copy of a forward code can be written: its format and its geometry (R8, R132, R133) (DEDUCED, log 105). -/
def RecH.secondOk (h : RecH) (sp : Nat) : Bool := !secondOrder sp || (decide (h.fmt1 ≤ 9) && decide (h.cols ≤ 256) && packOk h.fmt1 h.rows)

/-- A header keeps R284: reserved bits, `magic`, codes, tile geometry and the packing rule of its working formats (DEDUCED, log 105). -/
def recOk (v : Nat) : Bool :=
  let h := RecH.parse v
  bits v 0 8 == 0xC5 && !bit1 v 23 && !bit1 v 35 && bits v 57 7 == 0 && bits v 77 3 == 0 && bits v 108 20 == 0 && bits v 208 48 == 0 &&
  bits v 336 176 == 0 && h.rnd != 3 && decide (h.sp0 ≤ 4) && decide (h.fmt0 ≤ 9) && decide (1 ≤ h.shards) &&
  decide (1 ≤ h.rows) && decide (h.rows ≤ 256) && decide (1 ≤ h.cols) && decide (h.cols ≤ 4096) && decide (4 * h.n ≤ 65536) &&
  packOk h.fmt0 h.cols && h.secondOk h.sp0

/-- The buffer that a view selects: false A, true B (R287). -/
def RecH.visible (h : RecH) (v : Nat) : Option Bool :=
  if h.tagA ≤ v ∧ (v < h.tagB ∨ h.tagB ≤ h.tagA) then some false
  else if h.tagB ≤ v then some true
  else none

/-- Tag and mask epoch of a buffer. -/
def RecH.tag (h : RecH) (b : Bool) : Nat := if b then h.tagB else h.tagA
def RecH.mep (h : RecH) (b : Bool) : Nat := if b then h.mepB else h.mepA

/-- Bytes of a tag and a mask epoch as they are written into a buffer's place: offset in the record and bytes. -/
def tagWrites (b : Bool) (tag mep : Nat) : List (Nat × List Byte) :=
  let o := if b then 32 else 16
  [(o, natLe 8 tag), (o + 8, natLe 2 mep)]

/-! ### Shards and slots (R285, R286, R289) -/

/-- A shard entry. -/
structure Shard where
  cluster : Nat
  norm : Bool
  i0 : Nat
  j0 : Nat
  ni : Nat
  nj : Nat
  stA : Nat
  stB : Nat
  wcA : Nat
  wcB : Nat
  row : Nat
  res : Nat
  stSlot : Nat
  slot0 : Nat
  slot1 : Nat
  deriving DecidableEq, Repr

/-- A shard entry from its 512 bits. -/
def Shard.parse (v : Nat) : Shard where
  cluster := bits v 0 11
  norm := bit1 v 11
  i0 := bits v 16 16
  j0 := bits v 32 16
  ni := bits v 48 16
  nj := bits v 64 16
  stA := bits v 80 42
  stB := bits v 128 42
  wcA := bits v 176 42
  wcB := bits v 224 42
  row := bits v 272 12
  res := bits v 288 42
  stSlot := bits v 336 12
  slot0 := bits v 352 12
  slot1 := bits v 364 12

/-- Room of the master, of a moment, and of the second moment (R286). -/
def RecH.lm (h : RecH) : Nat := 64 + 64 * ceilDiv h.n 512 + 4 * h.n
def RecH.lq (h : RecH) : Nat := 64 + 64 * ceilDiv (nBlocks h.rows h.cols h.kDown) 64 + 64 * ceilDiv h.n 64
def RecH.lv (h : RecH) : Nat := if h.fact then 64 * ceilDiv (4 * (h.rows + h.cols)) 64 else h.lq

/-- Scratchpad rows of a tile's reduction buffer (R289). -/
def RecH.rowsQ (h : RecH) : Nat := ceilDiv (4 * h.n) 2048

/-- A shard entry keeps R285, R286 and R289. -/
def shardOk (h : RecH) (v : Nat) : Bool :=
  let d := Shard.parse v
  bits v 12 4 == 0 && bits v 122 6 == 0 && bits v 170 6 == 0 && bits v 218 6 == 0 && bits v 266 6 == 0 && bits v 284 4 == 0 &&
  bits v 330 6 == 0 && bits v 348 4 == 0 && bits v 376 136 == 0 && decide (1 ≤ d.ni) && decide (1 ≤ d.nj) && decide (d.ni * d.nj ≤ 4096) &&
  decide (h.lm + h.lq + h.lv ≤ 64 * d.stSlot) && decide (d.row + d.ni * d.nj * h.rowsQ ≤ 4096)

/-- Tiles of a shard. -/
def Shard.count (d : Shard) : Nat := d.ni * d.nj

/-- Coordinates of shard tile t within the tensor. -/
def Shard.ij (d : Shard) (t : Nat) : Nat × Nat := (d.i0 + t / d.nj, d.j0 + t % d.nj)

/-- State slot of a tile in a buffer. -/
def Shard.stAt (d : Shard) (b : Bool) (t : Nat) : Nat := 64 * ((if b then d.stB else d.stA) + t * d.stSlot)

/-- Forward and second-order working-copy slots. -/
def Shard.wc0At (d : Shard) (b : Bool) (t : Nat) : Nat := 64 * ((if b then d.wcB else d.wcA) + t * d.slot0)
def Shard.wc1At (d : Shard) (b : Bool) (t : Nat) : Nat := 64 * ((if b then d.wcB else d.wcA) + d.count * d.slot0 + t * d.slot1)

/-- Physical address of a tile's reduction buffer in its cluster. -/
def Shard.rbufAt (d : Shard) (h : RecH) (c t : Nat) : Nat := padOf c + (d.row + t * h.rowsQ) * 2048

/-! ### Reading records -/

/-- A record's header read as a number. -/
def recWord (s : State) (x : XCtx) (va : Nat) : Job Nat := do
  let b ← readVa s x va 64
  pure (leNat b)

/-- Shard entry i read as a number. -/
def shardWord (s : State) (x : XCtx) (va i : Nat) : Job Nat := do
  let b ← readVa s x (va + 64 * (1 + i)) 64
  pure (leNat b)

/-- A record's header in its form, whatever its partition (R308). -/
def recForm (s : State) (x : XCtx) (va : Nat) (bad : Byte) : Job RecH := do
  let v ← recWord s x va
  Job.require (recOk v) bad
  pure (RecH.parse v)

/-- A well-formed record of a partition with its header: its form comes first, then its partition (R308). -/
def recOf (s : State) (x : XCtx) (va : Nat) (bad : Byte) : Job RecH := do
  let h ← recForm s x va bad
  Job.require (h.part == x.part) stProtect
  pure h

/-- A well-formed shard of a record. -/
def shardOf (s : State) (x : XCtx) (va : Nat) (h : RecH) (i : Nat) (bad : Byte) : Job Shard := do
  let v ← shardWord s x va i
  Job.require (shardOk h v) bad
  pure (Shard.parse v)

/-- Every shard of a record. -/
def shardsOf (s : State) (x : XCtx) (va : Nat) (h : RecH) (bad : Byte) : Job (List Shard) :=
  Job.map (fun i => shardOf s x va h i bad) (List.range h.shards)

/-- A place that the Update Station of a cluster reaches. -/
def inUpd (c : Nat) (pa : Nat) : Bool := match padCluster pa with | some k => k == c | none => true

/-- A range that the Update Station of a cluster writes: HBM, the CXL tier, its own scratchpad (R305). -/
def updPieces (s : State) (x : XCtx) (c : Nat) (wr : Bool) (va n : Nat) : Job (List Piece) := do
  Job.require (decide (va + n ≤ 2 ^ 48)) stXlate
  let ps ← Job.xl s x wr va n
  Job.require (ps.all fun p => inUpd c p.pa) stXlate
  pure ps

/-- State read at an offset of an object, not yet consumed. -/
def rdUpd (s : State) (x : XCtx) (c va : Nat) : Reader := fun need off n => rdPages s x (inUpd c) need va off (n / 4096 + 2) 0 n

/-- State written. -/
def wrUpd (s : State) (x : XCtx) (c va : Nat) (bs : List Byte) : Job Unit := do
  let ps ← updPieces s x c true va bs.length
  writePieces s ps bs

/-- The epoch comparison of R162: a waybill epoch of 0 compares nothing (DEDUCED, log 128). -/
def epochOk (want : Nat) (h : Hdr) : Job Unit := Job.require (want == 0 || h.epoch == want) stMaskEpoch

/-- The master tile at an address (R286). -/
def masterTile (s : State) (x : XCtx) (c va : Nat) (h : RecH) : Job Tile :=
  parseTile (rdUpd s x c va) 0 fun d => d.sparse == 0 && !d.mx && d.rows == h.rows && d.cols == h.cols && d.kDown == h.kDown

/-- A moment tile; poisoned words of elements that the master masks off are not taken in. -/
def momentTile (s : State) (x : XCtx) (c va : Nat) (h : RecH) (mask : Array Bool) : Job Tile :=
  parseTile (rdUpd s x c va) 8 (fun d => d.sparse == 0 && d.mx && d.rows == h.rows && d.cols == h.cols && d.kDown == h.kDown) fun e => mask.getD e false

/-- FP32 words of a byte run. -/
def words32 (bs : List Byte) : List Word32 := (piecesOf 4 (bs.length / 4) bs).map fun b => BitVec.ofNat 32 (leNat b)

/-- FP32 statistics of a factored second moment. -/
def factStats (s : State) (x : XCtx) (c va : Nat) (h : RecH) : Job (List Word32) := do
  let g ← rdUpd s x c va needAll 0 (4 * (h.rows + h.cols))
  consume g 0 needAll
  pure (words32 g.bytes)

/-- The gradient of a tile in its cluster's reduction buffer: a poisoned or marked part counts where the mask is on. -/
def rbufTile (s : State) (pa n : Nat) (mask : Array Bool) : Job (Array Word32) := do
  let g := s.gotPiece { pa := pa, n := 4 * n, hc := 0, guard := false } (pa % 64) 0
  Job.note fun a => { a with reads := a.reads ++ [(pa, 4 * n, 0)] }
  consume g 0 fun lo k => (List.range (ceilDiv k 4)).any fun i => mask.getD (lo / 4 + i) false
  pure (words32 g.bytes).toArray

/-! ### Working copies (R174, R297) -/

/-- A working format is MX-scaled (R284). -/
def RecH.mxOf (h : RecH) (fmt : Nat) : Bool := alwaysMx fmt || (h.mx && mayMx fmt)

/-- The code of the forward copy after the `coord_below` rule (R164). -/
def fwdCode (sp below nnz n : Nat) : Nat := if sp = 3 ∧ nnz * 256 < n * below then 4 else sp

/-- An array over the transposed tile, from one over the tile. -/
def transposed [Inhabited α] (rows cols : Nat) (a : Array α) : Array α :=
  ((List.range (rows * cols)).map fun e => a.getD (e % rows * cols + e / rows) default).toArray

/-- Working copies of a master: the forward object, the second-order one where there is one, the flags raised, each with whether it was demoted. -/
def deriveCopies (h : RecH) (sp below : Nat) (plan : Bool) (d : Draws) (mep : Nat) (w : Array Word32) (mask : Array Bool) : (List Byte × Bool) × Option (List Byte × Bool) × Byte :=
  let n := h.n
  let nnz := (mask.toList.filter id).length
  let h0 : Hdr := { fmt := h.fmt0, mx := h.mxOf h.fmt0, kDown := h.kDown, rows := h.rows, cols := h.cols, epoch := mep }
  let e0 := encodeVals h0 false (fun e => d.rnd h.rnd (2 * n + e)) w mask
  let o0 := (layTile h0 e0.1 mask e0.2.1 (fwdCode sp below nnz n) plan)
  if secondOrder sp then
    let h1 : Hdr := { fmt := h.fmt1, mx := h.mxOf h.fmt1, kDown := !h.kDown, rows := h.cols, cols := h.rows, epoch := mep }
    let mt := transposed h.rows h.cols mask
    let e1 := encodeVals h1 false (fun e => d.rnd h.rnd (3 * n + (e % h.rows * h.cols + e / h.rows))) (transposed h.rows h.cols w) mt
    (o0, some (layTile h1 e1.1 mt e1.2.1 (if sp = 2 then 2 else 0)), e0.2.2 ||| e1.2.2)
  else (o0, none, e0.2.2)

/-- Working copies written into a buffer's slots; an object larger than its slot is not written, and each demotion
is counted (R141, R174, R297) (DEDUCED, log 152). -/
def writeCopies (s : State) (x : XCtx) (c : Nat) (d : Shard) (b : Bool) (t : Nat) (o : (List Byte × Bool) × Option (List Byte × Bool) × Byte) : Job Unit := do
  Job.flag o.2.2
  Job.require (decide (o.1.1.length ≤ 64 * d.slot0)) stDesc
  wrUpd s x c (d.wc0At b t) o.1.1
  if o.1.2 then Job.count 0x7050 4 1
  match o.2.1 with
  | none => pure ()
  | some o1 => do
    Job.require (decide (o1.1.length ≤ 64 * d.slot1)) stDesc
    wrUpd s x c (d.wc1At b t) o1.1
    if o1.2 then Job.count 0x7050 4 1

/-- A master object (DEDUCED, log 106). -/
def masterObject (h : RecH) (mep : Nat) (scale : Word32) (codes : Array Nat) (mask : Array Bool) : List Byte :=
  layAs { fmt := 0, kDown := h.kDown, rows := h.rows, cols := h.cols, epoch := mep, scale := scale } codes mask #[] []

/-- A moment object from element codes and block scales; it is written with no per-tile scale (DEDUCED, log 106, DESIGN CHOICE, log 208). -/
def momentObject (h : RecH) (mep : Nat) (codes scales : Array Nat) : List Byte :=
  layAs { fmt := 8, mx := true, kDown := h.kDown, rows := h.rows, cols := h.cols, epoch := mep } codes (allOn h.rows h.cols) scales []

/-! ### Views and the gate of pending writes (R287, R288) -/

/-- The committed epochs of partitions 0 to 15. -/
def State.epochs (s : State) : List Nat := (List.range 16).map fun q => (s.pt q).e

/-- Every open consignment that holds a view of a partition holds exactly the given epoch (DEDUCED, log 97). -/
def State.gateOpen (s : State) (q e : Nat) : Bool :=
  s.parts.all fun (p : Nat × Part) => p.2.entries.all fun (n : Entry) => !(n.st == .running || n.st == .held) || n.views.getD q 0 == e

/-- The key with which a record's buffer was last derived; none: a free value (DEDUCED, log 98). -/
def State.keyOf (s : State) (p va : Nat) (b : Bool) : Word := (Tab.look (s.pt p).keys none (2 * va + bn b)).getD s.freeW

/-- It is recorded (DEDUCED, log 98). -/
def State.setKey (s : State) (p va : Nat) (b : Bool) (k : Word) : State :=
  s.updPt p fun pt => { pt with keys := Tab.put pt.keys none (2 * va + bn b) (some k) }

end Sys2Proof.Machine
end

