-- ==== Sys2Proof/Machine/Mask.lean ====
section
/-! DEFINITION. What a MASK_UPDATE computes (R160 to R175): the mask operation block, scoring, pruning, regrowth, and the rebuilt tile. -/

namespace Sys2Proof.Machine

/-! ### The block (R164, R165) -/

def mbPrune (b : Desc) : Nat := fld b 0 3
def mbCons (b : Desc) : Nat := fld b 3 2
def mbScope (b : Desc) : Nat := fld b 5 2
def mbGrow (b : Desc) : Nat := fld b 7 2
def mbConst (b : Desc) : Bool := fld b 9 1 == 1
def mbPlan (b : Desc) : Bool := fld b 10 1 == 1
def mbKeep (b : Desc) : Nat := fld b 16 16
def mbGrowN (b : Desc) : Nat := fld b 32 16
def mbEpoch (b : Desc) : Nat := fld b 48 16
def mbThr (b : Desc) : Word32 := BitVec.ofNat 32 (fld b 64 32)
def mbValue (b : Desc) : Word32 := BitVec.ofNat 32 (fld b 96 32)
def mbEnc (b : Desc) : Nat := fld b 128 3
def mbBelow (b : Desc) : Nat := fld b 136 8
def mbMax (b : Desc) : Nat := fld b 144 18
def mbStream (b : Desc) : Nat := fld b 164 28
def mbRec (b : Desc) : Nat := 64 * fld b 192 42
def mbGrad (b : Desc) : Bool := fld b 240 42 != 0

/-- The gradient is read. -/
def mbNeedsGrad (b : Desc) : Bool := mbPrune b == 2 || mbPrune b == 4 || mbGrow b == 1

/-- A block's own checks: reserved bits and codes (R7, R8), and the combinations of R165. -/
def maskBlockOk (b : Desc) : Bool :=
  fld b 11 5 == 0 && fld b 131 5 == 0 && fld b 162 2 == 0 && fld b 234 6 == 0 && fld b 282 230 == 0 &&
  decide (mbPrune b ≤ 4) && mbCons b != 3 && mbScope b != 3 && mbGrow b != 3 && decide (mbEnc b ≤ 4) &&
  (mbCons b == 0 || (mbScope b == 0 && mbKeep b == 0)) &&
  (mbPrune b == 1 || mbPrune b == 2 || mbKeep b == 0) && (mbGrow b != 0 || mbGrowN b == 0) &&
  (!mbNeedsGrad b || mbGrad b) && (mbBelow b == 0 || mbEnc b == 3)

/-- A block's checks against its record: the extents that its constraint needs, the encoding that the record admits, and the second-order copy that this
encoding brings (R165, R174). -/
def maskRecOk (b : Desc) (h : RecH) : Bool :=
  h.secondOk (mbEnc b) &&
  (mbCons b == 0 || s24Extent (if mbCons b = 1 then 1 else 2) h.rows h.cols h.kDown) && bit1 h.encOk (mbEnc b)

/-- The epoch after an update: from 65 535 to 1 (R161). -/
def nextMep (m : Nat) : Nat := if 65535 ≤ m then 1 else m + 1

/-! ### Rank (R167) -/

/-- A magnitude as a rank: NaN below every number, larger magnitudes higher. -/
def rankOf (v : Word32) : Nat := if nan32 v then 0 else v.toNat % 2 ^ 31 + 1

/-- Elements in rank order: higher ranks first, equal ranks the lower index first. -/
def byRank (key : Nat → Nat) (es : List Nat) : List Nat :=
  es.insertionSort fun a b => key b < key a ∨ (key a = key b ∧ a ≤ b)

/-- Elements with the smaller key first, then the lower index. -/
def byKey (key : Nat → Nat) (es : List Nat) : List Nat :=
  es.insertionSort fun a b => key a < key b ∨ (key a = key b ∧ a ≤ b)

/-- The score of an element and the flags of forming it. -/
def scoreOf (crit : Nat) (w g : Word32) : Word32 × Byte := if crit = 2 ∨ crit = 4 then fmul w g else (w, 0)

/-- A score reaches the threshold. -/
def reaches (score thr : Word32) : Bool :=
  let m : Word32 := BitVec.ofNat 32 (score.toNat % 2 ^ 31)
  !nan32 m && !nan32 thr && !ltV (f32Val m) (f32Val thr)

/-! ### Units and groups (R166, R169) -/

/-- The scope units of a tile, each a list of element indices in increasing order. -/
def scopeUnits (scope rows cols : Nat) (kd : Bool) : List (List Nat) :=
  match scope with
  | 0 => [List.range (rows * cols)]
  | 1 => if kd then (List.range cols).map fun c => (List.range rows).map fun r => r * cols + c
         else (List.range rows).map fun r => (List.range cols).map fun c => r * cols + c
  | _ => (List.range (nBlocks rows cols kd)).map fun b => (List.range (rows * cols)).filter fun e => blockOf cols kd e == b

/-- The group of 4 along the reduction index that holds an element. -/
def group4 (cols : Nat) (kd : Bool) (e : Nat) : List Nat :=
  let r := e / cols
  let c := e % cols
  (List.range 4).map fun j => if kd then (r / 4 * 4 + j) * cols + c else r * cols + (c / 4 * 4 + j)

/-- The row and the column of an element inside its aligned 4 × 4 block. -/
def blockRow (cols e : Nat) : List Nat := (List.range 4).map fun j => e / cols * cols + (e % cols / 4 * 4 + j)
def blockCol (cols e : Nat) : List Nat := (List.range 4).map fun j => (e / cols / 4 * 4 + j) * cols + e % cols

/-- How many of some elements are set. -/
def countOn (m : Array Bool) (es : List Nat) : Nat := (es.filter fun e => m.getD e false).length

/-- An element may join under the constraint: fewer than two in its group, or in its row and its column of the block. -/
def fitsCons (cons cols : Nat) (kd : Bool) (m : Array Bool) (e : Nat) : Bool :=
  match cons with
  | 0 => true
  | 1 => countOn m (group4 cols kd e) < 2
  | _ => countOn m (blockRow cols e) < 2 && countOn m (blockCol cols e) < 2

/-! ### Pruning (R169, R170) -/

/-- The kept set of a tile, as a mask. Under a constraint, a walk over all candidates in rank order decides each group as a walk over the
group alone does, since the constraint of a group looks at no other. -/
def keptMask (b : Desc) (rows cols : Nat) (kd : Bool) (mask : Array Bool) (score : Array Word32) : Array Bool :=
  let n := rows * cols
  let none' := Array.replicate n false
  let cand := (List.range n).filter fun e => mask.getD e false
  let above (e : Nat) : Bool := !(mbPrune b == 3 || mbPrune b == 4) || reaches (score.getD e 0) (mbThr b)
  let rank (e : Nat) : Nat := rankOf (score.getD e 0)
  if mbCons b = 0 then
    (match mbPrune b with
     | 0 => mask
     | 1 | 2 =>
       (scopeUnits (mbScope b) rows cols kd).foldl (fun m u =>
         ((byRank rank (u.filter fun e => mask.getD e false)).take (mbKeep b)).foldl (fun m e => m.setIfInBounds e true) m) none'
     | _ => (cand.filter above).foldl (fun m e => m.setIfInBounds e true) none')
  else
    (byRank rank (cand.filter above)).foldl (fun m e => if fitsCons (mbCons b) cols kd m e then m.setIfInBounds e true else m) none'

/-! ### Regrowth (R171 to R173) -/

/-- The walk of one unit: mask, elements grown, mask-on elements of the tile. -/
def growUnit (b : Desc) (cols n : Nat) (kd : Bool) (limit : Nat) : List Nat → Array Bool × List Nat × Nat → Nat → Array Bool × List Nat × Nat
  | [], st, _ => st
  | e :: es, st, got =>
    if mbGrowN b ≤ got then st
    else if st.2.2 < limit ∧ !st.1.getD e false ∧ fitsCons (mbCons b) cols kd st.1 e then
      growUnit b cols n kd limit es (st.1.setIfInBounds e true, st.2.1 ++ [e], st.2.2 + 1) (got + 1)
    else growUnit b cols n kd limit es st got

/-- Regrowth over a tile: the mask after it, the elements grown, and the units that grew too few. The units of the scope follow one another in increasing
order, which matters where `max_nnz` binds (DESIGN CHOICE, log 202). -/
def regrow (b : Desc) (rows cols : Nat) (kd : Bool) (before kept : Array Bool) (g : Array Word32) (rnd : Nat → Nat) : Array Bool × List Nat × Nat :=
  let n := rows * cols
  if mbGrow b = 0 then (kept, [], 0) else
  let limit := if mbMax b = 0 then n else mbMax b
  let r := (scopeUnits (mbScope b) rows cols kd).foldl (fun (st : Array Bool × List Nat × Nat × Nat) u =>
    let el := u.filter fun e => !before.getD e false
    let ord := if mbGrow b = 1 then byRank (fun e => rankOf (g.getD e 0)) el else byKey rnd el
    let o := growUnit b cols n kd limit ord (st.1, st.2.1, st.2.2.1) 0
    let k := o.2.1.length - st.2.1.length
    (o.1, o.2.1, o.2.2, st.2.2.2 + (if k < mbGrowN b then 1 else 0))) (kept, [], countOn kept (List.range n), 0)
  (r.1, r.2.1, r.2.2.2)

/-! ### One tile (R163, R170, R173, R174) -/

/-- What a mask operation counts: pruned, regrown, short units. -/
abbrev MaskCount := Nat × Nat × Nat

/-- One master tile under a mask operation block: read from the visible buffer, written with its moments and working copies into the other. Its copies
draw with the site and the stream of the record (DEDUCED, log 98), and a poisoned gradient word fails it wherever it lies (DESIGN CHOICE, log 174). -/
def maskTile (s : State) (x : XCtx) (key : Word) (b : Desc) (h : RecH) (d : Shard) (buf : Bool) (t : Nat) : Job MaskCount := do
  let c := d.cluster
  let at0 := d.stAt buf t
  let at1 := d.stAt (!buf) t
  let mt ← masterTile s x c at0 h
  let m1 ← momentTile s x c (at0 + h.lm) h mt.mask
  let v1 ← if h.fact then pure none else (do let y ← momentTile s x c (at0 + h.lm + h.lq) h mt.mask; pure (some y))
  let old ← if h.fact then factStats s x c (at0 + h.lm + h.lq) h else pure []
  let g ← if mbNeedsGrad b then rbufTile s (d.rbufAt h c t) h.n (allOn h.rows h.cols) else pure #[]
  let w0 := mt.f32s
  let sc := (List.range h.n).map fun e => if mt.mask.getD e false then scoreOf (mbPrune b) (w0.1.getD e 0) (g.getD e 0) else (0, 0)
  Job.flag (sc.foldl (fun f y => f ||| y.2) w0.2)
  let kept := keptMask b h.rows h.cols h.kDown mt.mask (sc.map (·.1)).toArray
  let (i, j) := d.ij t
  let r := regrow b h.rows h.cols h.kDown mt.mask kept g fun e => (draw key 5 (mbStream b) i j e).toNat
  let pruned := (List.range h.n).filter fun e => mt.mask.getD e false && !kept.getD e false
  let w := ((List.range h.n).map fun e =>
    if !r.1.getD e false then (0 : Word32) else if r.2.1.contains e then (if mbConst b then mbValue b else 0) else w0.1.getD e 0).toArray
  let clean (k : Array Nat) : Array Nat := ((List.range h.n).map fun e => if !r.1.getD e false || r.2.1.contains e then 0 else k.getD e 0).toArray
  let nu := nextMep (h.mep buf)
  wrUpd s x c at1 (masterObject h nu 0 (w.map (·.toNat)) r.1)
  wrUpd s x c (at1 + h.lm) (momentObject h nu (clean m1.codes) m1.scales)
  wrUpd s x c (at1 + h.lm + h.lq) (match v1 with
    | some y => momentObject h nu (clean y.codes) y.scales
    | none => old.flatMap fun y => natLe 4 y.toNat)
  let dr : Draws := { key := key, site := 3, stream := h.stream, row := i, col := j }
  writeCopies s x c d (!buf) t (deriveCopies h (mbEnc b) (mbBelow b) (mbPlan b) dr nu w r.1)
  pure (pruned.length, r.2.1.length, r.2.2)

/-- What is learnt of a block before anything changes: the record, its shards, the buffer it reads. -/
structure MaskPlan where
  blk : Desc
  h : RecH
  shards : List Shard
  buf : Bool

/-- The checks of R165 over one block, at the committed epoch: the form of its record and shards, then the partition; a shard's cluster must belong to
the set. -/
def maskCheck (s : State) (x : XCtx) (e : Nat) (set : List Nat) (b : Desc) : Job MaskPlan := do
  Job.require (maskBlockOk b) stDesc
  let h ← recForm s x (mbRec b) stDesc
  Job.require (maskRecOk b h) stDesc
  let ds ← shardsOf s x (mbRec b) h stDesc
  Job.require (h.part == x.part) stProtect
  Job.require (ds.all fun d => set.contains d.cluster) stDesc
  match h.visible e with
  | none => Job.fail stDesc
  | some buf => do
    Job.require (mbEpoch b == 0 || mbEpoch b == h.mep buf) stMaskEpoch
    pure { blk := b, h := h, shards := ds, buf := buf }

/-- The blocks of a MASK_UPDATE read and checked, every one of them: no tensor is named twice (R77, R165) (DEDUCED, log 108). -/
def maskPlans (s : State) (x : XCtx) (e : Nat) (set : List Nat) (va n : Nat) : Job (List MaskPlan) := do
  let bs ← Job.map (fun i => do let y ← readVa s x (va + 64 * i) 64; pure (BitVec.ofNat 512 (leNat y) : Desc)) (List.range n)
  Job.require (decide ((bs.map mbRec).Nodup)) stDesc
  Job.all (bs.map (maskCheck s x e set))

/-- The physical ranges of the alternate buffers of the tensors named: state slots and working-copy slots, as far as they translate (R175). -/
def altRanges (s : State) (x : XCtx) (plans : List MaskPlan) : List (Nat × Nat) :=
  plans.flatMap fun m => m.shards.flatMap fun d => (List.range d.count).flatMap fun t =>
    [(d.stAt (!m.buf) t, 64 * d.stSlot), (d.wc0At (!m.buf) t, 64 * d.slot0), (d.wc1At (!m.buf) t, 64 * d.slot1)].flatMap fun (o : Nat × Nat) =>
      match s.xl x true o.1 o.2 with
      | .ok ps => ps.map fun p => (p.pa, p.n)
      | .error _ => []

/-- Every destination buffer takes the tag P and its new mask epoch before any of its bytes is written (R178, R288) (DEDUCED, log 109). -/
def maskTags (s : State) (x : XCtx) (p : Nat) (plans : List MaskPlan) : Job Unit :=
  Job.fold (fun _ (m : MaskPlan) =>
    Job.fold (fun _ (w : Nat × List Byte) => writeVa s x (mbRec m.blk + w.1) w.2) () (tagWrites (!m.buf) p (nextMep (m.h.mep m.buf)))) () plans

/-- The whole work of a MASK_UPDATE (R166 to R175): tiles and copies; what it counts. -/
def maskWork (s : State) (x : XCtx) (key : Word) (plans : List MaskPlan) : Job MaskCount :=
  Job.fold (fun (n : MaskCount) (m : MaskPlan) =>
    Job.fold (fun n (d : Shard) =>
      Job.fold (fun (n : MaskCount) t => do
        let k ← maskTile s x key m.blk m.h d m.buf t
        pure (n.1 + k.1, n.2.1 + k.2.1, n.2.2 + k.2.2)) n (List.range d.count)) n m.shards) (0, 0, 0) plans

/-- The header byte that the flip writes for a record: its `wc0_sparse` (R175). -/
def maskFlips (s : State) (x : XCtx) (m : MaskPlan) : Job (List Flip) := do
  let ps ← Job.xl s x true (mbRec m.blk + 2) 1
  pure (ps.map fun p => { pa := p.pa, hc := p.hc, bytes := [BitVec.ofNat 8 (m.h.fmt0 + 16 * mbEnc m.blk)] })

end Sys2Proof.Machine
end

