-- ==== Sys2Proof/Machine/Update.lean ====
section
/-! DEFINITION. The Update Station (R283 to R309): PBUF, the gate of pending writes, STEP with its optimiser and the working copies, REDUCE, and
the drift monitor. -/

namespace Sys2Proof.Machine

/-! ### PBUF (R287) -/

/-- PBUF with a selector 0 to 3: TIMETABLE_FAULT for a header that breaks its rules, a shard out of range or with a state slot too small (R286), or no
visible buffer. -/
def pbufJob (s : State) (x : XCtx) (views : List Nat) (va sh sel : Nat) : Job Nat := do
  Job.require (va % 64 == 0) stTimetable
  let v ← recWord s x va
  let h := RecH.parse v
  Job.require (recOk v && decide (sh < h.shards)) stTimetable
  let d := Shard.parse (← shardWord s x va sh)
  Job.require (decide (h.lm + h.lq + h.lv ≤ 64 * d.stSlot)) stTimetable
  match h.visible (views.getD h.part 0) with
  | none => Job.fail stTimetable
  | some b =>
    if sel = 2 then pure (h.mep b)
    else if sel = 3 then pure (h.tag b)
    else pure (if sel = 0 then 64 * (if b then d.stB else d.stA) else 64 * (if b then d.wcB else d.wcA))

/-- PBUF sN, sM, sK, c. -/
def State.pbuf (s : State) (c : Nat) (rd ra rb : Reg) (sel : Nat) : Res :=
  s.onCore c fun s =>
    match (s.cl c).run with
    | none => s
    | some r =>
      let views := ((s.entry r.part r.seq).map (·.views)).getD []
      let o := Job.exec (pbufJob s (r.ctx c) views (s.reg c ra).toNat (s.reg c rb).toNat sel)
      if waits o.1 then s else
      let t := s.settle o.2
      match o.1 with
      | .error e => t.failCore c e
      | .ok v => (t.setReg c rd (BitVec.ofNat 64 v)).pcStep c 4

/-- PBUF_STATE: byte address of the state base of the visible buffer. -/
def execPbufState (c : Nat) (rd ra rb : Reg) (s : State) : Res := s.pbuf c rd ra rb 0

/-- PBUF_WC: byte address of its working-copy base. -/
def execPbufWc (c : Nat) (rd ra rb : Reg) (s : State) : Res := s.pbuf c rd ra rb 1

/-- PBUF_MEPOCH: its mask epoch. -/
def execPbufMepoch (c : Nat) (rd ra rb : Reg) (s : State) : Res := s.pbuf c rd ra rb 2

/-- PBUF_TAG: its tag. -/
def execPbufTag (c : Nat) (rd ra rb : Reg) (s : State) : Res := s.pbuf c rd ra rb 3

/-! ### Fields of the waybill (R307) and of the commit block (R292) -/

def upOp (w : Desc) : Nat := bits (wbOp w) 0 3
def upWin (w : Desc) : Nat := bits (wbOp w) 3 3
def upClip (w : Desc) : Bool := bit1 (wbOp w) 6
def upRec (w : Desc) : Nat := 64 * fld w 432 42
def upShard (w : Desc) : Nat := fld w 474 12
def upFirst (w : Desc) : Nat := fld w 486 12
def upCount (w : Desc) : Nat := fld w 498 12

/-- A word of the commit block. -/
def cbWord (b : Desc) (i : Nat) : Word32 := BitVec.ofNat 32 (fld b (32 * i) 32)

/-- The schedule entry in force: `lr`, `wd`, `rbc1`, `rbc2` (R293). -/
def schedOf (s : State) (x : XCtx) (k : Commit) : Job (List Word32) := do
  let b ← readVa s x (64 * fld k.blk 256 42 + 16 * min k.s (fld k.blk 298 16 - 1)) 16
  pure (words32 b)

/-! ### The fused update (R294, R295) -/

/-- A value with the flags that its computation raised. -/
abbrev FxV := Word32 × Byte

/-- An FP32 operation over flagged values. -/
def opF (f : Word32 → Word32 → Word32 × Byte) (a b : FxV) : FxV := let r := f a.1 b.1; (r.1, r.2 ||| a.2 ||| b.2)

/-- A flagged value without flags of its own. -/
def pureF (a : Word32) : FxV := (a, 0)

/-- FP64 addition in RNE. -/
def add64 (a b : Word) : Word :=
  BitVec.ofNat 64 (flF64.encode rne false false (addV (flDecode flF64 true a.toNat) (flDecode flF64 true b.toNat)).1).1

/-- The exact square of an FP32 value as FP64. -/
def sq64 (a : Word32) : Word := BitVec.ofNat 64 (flF64.encode rne false false (mulV (f32Val a) (f32Val a)).1).1

/-- What a STEP computes with: the block, the schedule entry, the gradient scale gs. -/
structure StepArgs where
  b1 : Word32
  ob1 : Word32
  b2 : Word32
  ob2 : Word32
  eps : Word32
  eps2 : Word32
  lr : Word32
  wd : Word32
  rbc1 : Word32
  rbc2 : Word32
  gs : Word32
  deriving DecidableEq, Repr

/-- They are read from the block, the schedule and the clip factor. -/
def stepArgs (k : Commit) (sched : List Word32) (gs : Word32) : StepArgs where
  b1 := cbWord k.blk 2
  ob1 := cbWord k.blk 3
  b2 := cbWord k.blk 4
  ob2 := cbWord k.blk 5
  eps := cbWord k.blk 6
  eps2 := cbWord k.blk 7
  lr := sched.getD 0 0
  wd := sched.getD 1 0
  rbc1 := sched.getD 2 0
  rbc2 := sched.getD 3 0
  gs := gs

/-- A gradient scaled: g = RNE(graw × gs). -/
def StepArgs.grad (a : StepArgs) (graw : Word32) : FxV := opF fmul (pureF graw) (pureF a.gs)

/-- The second moment of an element without `fact`. -/
def StepArgs.second (a : StepArgs) (v : FxV) (g : FxV) : FxV :=
  opF fadd (opF fmul (pureF a.b2) v) (opF fmul (pureF a.ob2) (opF fmul g g))

/-- The first moment of an element. -/
def StepArgs.first (a : StepArgs) (m : FxV) (g : FxV) : FxV := opF fadd (opF fmul (pureF a.b1) m) (opF fmul (pureF a.ob1) g)

/-- The new master of an element from the old one and its new moments. -/
def StepArgs.master (a : StepArgs) (decay : Bool) (w m v : FxV) : FxV :=
  let w := if decay then opF fsub w (opF fmul (pureF a.wd) w) else w
  let mh := opF fmul m (pureF a.rbc1)
  let vh := opF fmul v (pureF a.rbc2)
  let sq := fsqrt vh.1
  let dn := opF fadd (sq.1, sq.2 ||| vh.2) (pureF a.eps)
  opF fsub w (opF fmul (pureF a.lr) (opF fdiv mh dn))

/-- A tree sum of flagged values (R193). -/
def treeF (xs : List FxV) : FxV := treeSum faddF (0, 0) 64 xs

/-- The statistics of a factored second moment after a step, rows then columns (R295). -/
def StepArgs.factNext (a : StepArgs) (rows cols : Nat) (old : List Word32) (q : Array FxV) : List FxV × List FxV :=
  let inv (n : Nat) : FxV := (fdiv f32One (toF32 rne (.fin false n 0)).1)
  let one (p : FxV) (sum : FxV) (iv : FxV) : FxV := opF fadd (opF fmul (pureF a.b2) p) (opF fmul (pureF a.ob2) (opF fmul sum iv))
  ((List.range rows).map fun i => one (pureF (old.getD i 0)) (treeF ((List.range cols).map fun j => q.getD (i * cols + j) (0, 0))) (inv cols),
   (List.range cols).map fun j => one (pureF (old.getD (rows + j) 0)) (treeF ((List.range rows).map fun i => q.getD (i * cols + j) (0, 0))) (inv rows))

/-- The factored second moment of every element. -/
def factSecond (rows cols : Nat) (st : List FxV × List FxV) : Array FxV :=
  let sum := opF fmul (treeF st.1) (fdiv f32One (toF32 rne (.fin false rows 0)).1)
  let r := st.1.toArray
  let c := st.2.toArray
  ((List.range (rows * cols)).map fun e =>
    if isFinV (f32Val sum.1) && (sum.1.toNat % 2 ^ 31 == 0) then (0, sum.2)
    else opF fdiv (opF fmul (r.getD (e / cols) (0, 0)) (c.getD (e % cols) (0, 0))) sum).toArray

/-- What a stepped tile comes to: master, moments, second-moment statistics, gradients, count of non-finite elements, flags. -/
structure Stepped where
  w : Array Word32
  m : Array Word32
  v : Array Word32
  fact : List Word32
  g : List Word32
  nf : Nat
  flags : Byte

/-- The update over a tile's elements in order (R294). Mask-off elements become zero. -/
def stepElems (a : StepArgs) (h : RecH) (mask : Array Bool) (w m v graw : Array Word32) (old : List Word32) : Stepped :=
  let es := List.range h.n
  let on (e : Nat) : Bool := mask.getD e false
  let g := (es.map fun e => if on e then a.grad (graw.getD e 0) else (0, 0)).toArray
  let st := if h.fact then a.factNext h.rows h.cols old ((es.map fun e => if on e then opF fadd (opF fmul (g.getD e (0, 0)) (g.getD e (0, 0))) (pureF a.eps2) else (0, 0)).toArray) else ([], [])
  let fv := if h.fact then factSecond h.rows h.cols st else #[]
  let out := es.map fun e =>
    if !on e then (((0, 0), (0, 0), (0, 0)) : FxV × FxV × FxV) else
    let ge := g.getD e (0, 0)
    let m' := a.first (pureF (m.getD e 0)) ge
    let v' := if h.fact then fv.getD e (0, 0) else a.second (pureF (v.getD e 0)) ge
    (a.master h.decay (pureF (w.getD e 0)) m' v', m', v')
  let bad := (es.zip out).filter fun o => on o.1 &&
    !(finite32 (g.getD o.1 (0, 0)).1 && finite32 o.2.1.1 && finite32 o.2.2.1.1 && finite32 o.2.2.2.1)
  let sf := (st.1 ++ st.2).foldl (fun f (y : FxV) => f ||| y.2) 0
  { w := (out.map (·.1.1)).toArray, m := (out.map (·.2.1.1)).toArray, v := (out.map (·.2.2.1)).toArray
    fact := (st.1 ++ st.2).map (·.1), g := (es.filter on).map fun e => (g.getD e (0, 0)).1, nf := bad.length
    flags := out.foldl (fun f o => f ||| o.1.2 ||| o.2.1.2 ||| o.2.2.2) sf }

/-! ### STEP (R294 to R300) -/

/-- A STEP's work on shard tile t: source and destination buffers, and the sums that it adds for the norm (DEDUCED, log 52, DEDUCED, log 106). -/
def stepTile (s : State) (x : XCtx) (c : Nat) (e : WbEntry) (k : Commit) (key : Word) (t : Nat) : Job (Word × Nat) := do
  let va := upRec e.wb
  let h ← recOf s x va stDesc
  let d ← shardOf s x va h (upShard e.wb) stDesc
  match h.visible (k.p - 1) with
  | none => Job.fail stDesc
  | some b => do
    let at0 := d.stAt b t
    let sched ← schedOf s x k
    let gsc := if upClip e.wb then fmul (cbWord k.blk 0) k.cf else (cbWord k.blk 0, 0)
    let a := stepArgs k sched gsc.1
    let mt ← masterTile s x c at0 h
    epochOk (wbEpoch e.wb) mt.hdr
    let m1 ← momentTile s x c (at0 + h.lm) h mt.mask
    epochOk (wbEpoch e.wb) m1.hdr
    let v1 ← if h.fact then pure none else (do
      let y ← momentTile s x c (at0 + h.lm + h.lq) h mt.mask
      epochOk (wbEpoch e.wb) y.hdr
      pure (some y))
    let old ← if h.fact then factStats s x c (at0 + h.lm + h.lq) h else pure []
    let graw ← rbufTile s (d.rbufAt h c t) h.n mt.mask
    let w0 := mt.f32s
    let m0 := m1.f32s
    let v0 := (v1.map (·.f32s)).getD (#[], 0)
    let r := stepElems a h mt.mask w0.1 m0.1 v0.1 graw old
    let fl0 := (r.flags ||| w0.2 ||| m0.2 ||| v0.2) &&& ~~~ fDZ
    Job.flag (if t = upFirst e.wb then fl0 ||| gsc.2 else fl0)
    let (i, j) := d.ij t
    let dr : Draws := { key := key, site := 3, stream := h.stream, row := i, col := j }
    let hm : Hdr := { fmt := 8, mx := true, kDown := h.kDown, rows := h.rows, cols := h.cols }
    let em := encodeVals hm false (fun q => dr.rnd h.rnd q) r.m mt.mask
    let ev := encodeVals hm false (fun q => dr.rnd h.rnd (h.n + q)) r.v mt.mask
    Job.flag (em.2.2 ||| (if h.fact then 0 else ev.2.2))
    let at1 := d.stAt (!b) t
    let ep := mt.hdr.epoch
    wrUpd s x c at1 (masterObject h ep 0 (r.w.map (·.toNat)) mt.mask)
    wrUpd s x c (at1 + h.lm) (momentObject h ep em.1 em.2.1)
    wrUpd s x c (at1 + h.lm + h.lq) (if h.fact then r.fact.flatMap (fun y => natLe 4 y.toNat) else momentObject h ep ev.1 ev.2.1)
    let below := Tab.look (s.pt x.part).coordBelow 0 va
    writeCopies s x c d (!b) t (deriveCopies h h.sp0 below false dr ep r.w mt.mask)
    pure (if d.norm && !upClip e.wb then r.g.foldl (fun q g => add64 q (sq64 g)) (((s.cl c).run.map (·.sq)).getD 0)
          else ((s.cl c).run.map (·.sq)).getD 0,
          if d.norm then r.nf else 0)

/-- One tile of a STEP waybill, once its gate has passed (R288). -/
def stepMove (c : Nat) (x : XCtx) (s : State) (e : WbEntry) : Move :=
  match (s.pt x.part).commit, (s.cl c).run with
  | some k, some run =>
    if !e.gated then .stall else
    let t := upFirst e.wb + e.next
    let r := ((stepTile s x c e k run.srKey t).run).run { crcW := e.crc, bytesW := e.bytes, who := 6, home := some c, owner := some (e.part, e.seq) }
    if waits r.1 || r.2.retained s then .stall else
    match r.1 with
    | .ok (sq, nf) =>
      let u := ((s.settle r.2).addBegun c r.2.begun).tilesWritten c 1
      let u := u.updRun c fun q => { q with sq := sq, nf := q.nf + nf, stepped := q.stepped ++ [(upRec e.wb, upShard e.wb, t)] }
      let u := match Job.exec (recWord s x (upRec e.wb)) with
        | (.ok v, _) => (match (RecH.parse v).visible (k.p - 1) with | some b => u.setKey x.part (upRec e.wb) (!b) run.srKey | none => u)
        | _ => u
      .moved u (e.gather r.2)
    | .error st => .failed (((s.settle r.2.upToFailure).addBegun c r.2.begun).joinFlags e.part e.seq r.2.flags) st t (upShard e.wb)
  | _, _ => .stall

/-- STEP. -/
def execStep (c : Nat) (s : State) : Res :=
  .next (s.work c 6 0 (fun e => upOp e.wb == 0) (fun e => upCount e.wb) (stepMove c))

/-! ### REDUCE (R290) -/

/-- A REDUCE's work on shard tile t: each element of the received tile joins the reduction buffer (DEDUCED, log 107). -/
def reduceTile (s : State) (x : XCtx) (c : Nat) (e : WbEntry) (t : Nat) : Job Unit := do
  let h ← recOf s x (upRec e.wb) stDesc
  let d ← shardOf s x (upRec e.wb) h (upShard e.wb) stDesc
  let win := s.win c (upWin e.wb)
  let pa := d.rbufAt h c t
  let old ← rbufTile s pa h.n (allOn h.rows h.cols)
  let got ← Job.map (fun q => do
    let g := (e.freePtr + e.next * h.rowsQ + q) % win.size
    rbufTile s (granuleAt c win g) (min 512 (h.n - 512 * q)) (Array.replicate 512 true)) (List.range h.rowsQ)
  let inc := got.flatMap (·.toList)
  let sums := (old.toList.zip inc).map fun y => fadd y.1 y.2
  Job.flag (sums.foldl (fun f y => f ||| y.2) 0)
  writePieces s [{ pa := pa, n := 4 * h.n, hc := 0, guard := false }] (sums.flatMap fun y => natLe 4 y.1.toNat)

/-- One tile of a REDUCE waybill: its writes are exempt from retention (R289). -/
def reduceMove (c : Nat) (x : XCtx) (s : State) (e : WbEntry) : Move :=
  let t := upFirst e.wb + e.next
  let r := ((reduceTile s x c e t).run).run { crcW := e.crc, bytesW := e.bytes, who := 6, home := some c, owner := some (e.part, e.seq) }
  if waits r.1 || r.2.retained s (some (e.part, e.seq)) then .stall else
  match r.1 with
  | .ok _ => .moved (((s.settle r.2).addBegun c r.2.begun).tilesWritten c 1) (e.gather r.2)
  | .error st => .failed (((s.settle r.2.upToFailure).addBegun c r.2.begun).joinFlags e.part e.seq r.2.flags) st t (upShard e.wb)

/-- REDUCE. -/
def execReduce (c : Nat) (s : State) : Res :=
  .next (s.work c 6 0 (fun e => upOp e.wb == 1) (fun e => upCount e.wb) (reduceMove c))

/-! ### The gate of pending writes (R288) -/

/-- PENDING_WRITE_GATE: with every open view of the partition at E, the destination of the waiting STEP's record takes the tag P and the source's
mask epoch, and the STEP may write. -/
def execPendingWriteGate (c : Nat) (s : State) : Res :=
  match s.runningWb c 6 0, (s.cl c).run with
  | some e, some run =>
    let p := run.part
    (match (s.pt p).commit with
     | none => .next s
     | some k =>
       if upOp e.wb ≠ 0 ∨ e.gated ∨ run.stopped ∨ !s.gateOpen p (s.pt p).e then .next s else
       let r := Job.exec (do
         let h ← recOf s (run.ctx c) (upRec e.wb) stDesc
         match h.visible (s.pt p).e with
         | none => Job.fail stDesc
         | some b => Job.fold (fun _ (w : Nat × List Byte) => writeVa s (run.ctx c) (upRec e.wb + w.1) w.2) () (tagWrites (!b) k.p (h.mep b)))
       if waits r.1 then .next s else
       match r.1 with
       | .ok _ => .next ((s.settle r.2).updWb c 6 0 fun e => { e with gated := true })
       | .error st => .next ((s.settle r.2.upToFailure).failWb c 6 e st (upFirst e.wb) (upShard e.wb)))
  | _, _ => .next s

/-! ### The drift monitor (R304) -/

/-- Exponent of one unit in the last place of an element's format at a value (DEDUCED, log 100). -/
def ulpExp (fmt : Nat) (mx : Bool) (scale : Nat) (v : Val) : Int :=
  let x : Int := if mx then (scale : Int) - 127 else 0
  if fmt = 8 then (if mx then x - 6 else 0)
  else if fmt = 9 ∨ fmt = 10 then 0
  else
    let f := flOf fmt
    let lo : Int := 1 - (f.bias : Int)
    match v with
    | .fin _ m e => (if m = 0 then lo else max lo (ilog2 m e - x)) - f.mb + x
    | _ => lo - f.mb + x

/-- |a − b| exceeds 2^u, for finite values. -/
def farApart (a b : Val) (u : Int) : Bool :=
  match (addV a b.neg).1 with
  | .fin _ m e => if m = 0 then false else (let k := e - u; if 0 ≤ k then decide (1 < m * 2 ^ k.toNat) else decide (2 ^ (-k).toNat < m))
  | _ => true

/-- An element of the stored copy differs from the derived one by more than a unit in the last place, or in its mask. -/
def elemDrifts (a b : Tile) (e : Nat) : Bool :=
  if a.mask.getD e false != b.mask.getD e false then true
  else if !a.mask.getD e false then false
  else
    let va := a.val e
    let vb := b.val e
    if !isFinV va || !isFinV vb then va != vb
    else
      let abs (v : Val) : Val := match v with | .fin _ m q => .fin false m q | w => w
      let sc (t : Tile) : Nat := t.scales.getD (blockOf t.hdr.cols t.hdr.kDown e) 0
      let u := if ltV (abs va) (abs vb) then ulpExp b.hdr.fmt b.hdr.mx (sc b) vb else ulpExp a.hdr.fmt a.hdr.mx (sc a) va
      farApart va vb u

/-- The sample: the committed master's forward copy derived again and compared with the stored one. A stored copy whose header fails R142
differs in every element (DEDUCED, log 100). -/
def driftJob (s : State) (x : XCtx) (c : Nat) (q : Drift) : Job Nat := do
  let h ← recOf s x q.va stDesc
  let d ← shardOf s x q.va h q.shard stDesc
  match h.visible (s.pt q.part).e with
  | none => Job.fail stDesc
  | some b => do
    let mt ← masterTile s x c (d.stAt b q.tile) h
    let (i, j) := d.ij q.tile
    let dr : Draws := { key := s.keyOf q.part q.va b, site := 3, stream := h.stream, row := i, col := j }
    let o := deriveCopies h h.sp0 (Tab.look (s.pt q.part).coordBelow 0 q.va) false dr mt.hdr.epoch mt.f32s.1 mt.mask
    let hd := Hdr.parse (leNat (o.1.1.take 64))
    match decodeBody hd (o.1.1.drop 64) with
    | .error e => Job.fail e
    | .ok want => do
      let g ← rdUpd s x c (d.wc0At b q.tile) needAll 0 64
      let v := leNat g.bytes
      let sh := Hdr.parse v
      if !(hdrMagic v && sh.formOk && sh.fmt == h.fmt0 && sh.rows == h.rows && sh.cols == h.cols && sh.kDown == h.kDown) then pure h.n
      else do
        let body ← rdUpd s x c (d.wc0At b q.tile) needAll 64 (64 * sh.side + roundUp sh.payload 64)
        match decodeBody sh body.bytes with
        | .error _ => pure h.n
        | .ok have' => pure ((List.range h.n).filter fun e => elemDrifts want have' e).length

/-- DRIFT_SAMPLE: the sample due on a cluster whose Update Station is idle. Mismatches in `0x2120.06` consecutive samples are a cluster fault (R409) (DESIGN CHOICE, log 99). -/
def execDriftSample (c : Nat) (s : State) : Res :=
  match (s.cl c).driftDue with
  | [] => .next s
  | q :: _ =>
    if !(s.siding c 6).isEmpty ∨ s.cfg 0x2070 4 = 0 then .next s else
    let x : XCtx := { cluster := some c, part := q.part, xroot := (s.pt q.part).x.xroot, xkeys := (s.pt q.part).x.xkeys }
    let r := Job.exec (driftJob s x c q)
    if waits r.1 then .next s else
    match r.1 with
    | .error _ => .next (s.dropDrift c q.part)
    | .ok n =>
      let t := (s.settle r.2 true).drawn
      let t := ((t.updCl c fun cl => { cl with driftDue := cl.driftDue.tail }).bump 0x5070 1 1).bump 0x5070 2 n
      if n = 0 then .next (t.updCl c fun cl => { cl with drifts := 0 })
      else
        let t := ((t.bump 0x5070 3 1).setObj 0x5070 4 c).updCl c fun cl => { cl with drifts := cl.drifts + 1 }
        if max 1 (s.cfg 0x2120 6) ≤ (t.cl c).drifts then .next (t.clusterFails c) else .next t

end Sys2Proof.Machine
end

