-- ==== Sys2Proof/Machine/Start.lean ====
section
/-! DEFINITION. How consignments start, end and decide (R178, R271, R288 to R302, R313, R376 to R384): descriptors and directories, the start
rules, clusters set going, the commit group's values and the decision, discards and reruns, completion. -/

namespace Sys2Proof.Machine

/-! ### Descriptors (R379, R380, R382) -/

def cdType (d : Desc) : Nat := fld d 0 4
def cdSpec (d : Desc) : Bool := fld d 4 1 == 1
def cdHalt (d : Desc) : Bool := fld d 5 1 == 1
def cdTag (d : Desc) : Nat := fld d 16 16
def cdKey (d : Desc) : Word := BitVec.ofNat 64 (fld d 64 64)
def cdAddr0 (d : Desc) : Nat := 64 * fld d 128 42
def cdSize (d : Desc) : Nat := fld d 176 32
def cdAddr1 (d : Desc) : Nat := 64 * fld d 208 42
def cdTo (d : Desc) : Nat := fld d 256 4
def cdExec (d : Desc) : Nat := fld d 260 11

/-- The fields of a type, first bit and width; `ctype`, `host_tag` and `sr_key` belong to every type (DEDUCED, log 66). -/
def descFields (ty : Nat) : List (Nat × Nat) :=
  [(0, 4), (16, 16), (64, 64)] ++ (match ty with
  | 0 => [(4, 1), (128, 42), (176, 32)]
  | 1 => [(128, 42), (176, 32), (208, 42), (260, 11)]
  | 2 => [(128, 42), (176, 32)]
  | 3 => [(128, 42), (176, 32), (208, 42)]
  | 4 => [(256, 4)]
  | 5 => [(128, 42)]
  | 6 => [(5, 1)]
  | _ => [(4, 1)])

/-- The descriptor alone is well formed: a known type, every other field zero, a directory of at most 1088 entries (DEDUCED, log 66). -/
def descOk (d : Desc) : Bool :=
  decide (cdType d ≤ 7) && ((descFields (cdType d)).map fun (f : Nat × Nat) => fld d f.1 f.2 * 2 ^ f.1).sum == d.toNat &&
  (!(cdType d == 0 || cdType d == 3) || decide (cdSize d ≤ 1088))

/-- The cluster set of a partition (R375). -/
def State.setOf (s : State) (p : Nat) : List Nat := ((s.pt p).blk.map (·.clusters)).getD []

/-- A partition holds its set: always without a group (R376) (DEDUCED, log 114). -/
def State.holdsSet (s : State) (p : Nat) : Bool := (s.pt p).regs.holds || ((s.pt p).blk.bind (·.group)).isNone

/-- A failure that no waybill raised (R385). -/
def noWb (st : Byte) : Failure := { status := st, cluster := 0xFFFF, station := 0, wbTag := 0, i := 0xFFFF, j := 0xFFFF }

/-- A timetable directory: cluster and timetable address of each entry. A resumed consignment that names a failed cluster without a
replacement ends with SPARE_EXHAUSTED (R380, R410) (DEDUCED, log 67). -/
def dirOf (s : State) (p : Nat) (d : Desc) (resumed : Bool) : Job (List (Nat × Nat)) := do
  let b ← readVa s (s.ctxPart p) (cdAddr0 d) (8 * cdSize d)
  let vs := (piecesOf 8 (cdSize d) b).map leNat
  let es := vs.map fun v => (bits v 0 11, 64 * bits v 16 42)
  Job.require (!(resumed && es.any fun e => (s.cl e.1).stat == .failed && (s.cl e.1).repl.isNone)) stSpare
  Job.require (vs.all (fun v => bits v 11 5 == 0 && bits v 58 6 == 0) && decide ((es.map (·.1)).Nodup) &&
    es.all fun e => (s.setOf p).contains e.1) stConsignment
  pure es

/-! ### Start rules (R178, R298, R376, R383) -/

/-- Every lower-numbered open entry satisfies a condition. -/
def State.lowers (s : State) (p seq : Nat) (f : Entry → Bool) : Bool := (s.pt p).entries.all fun e => !decide (e.seq < seq) || f e

/-- MASK_UPDATE, PHASE and FENCE hold back everything behind them until they complete. -/
def Entry.barrier (e : Entry) : Bool := cdType e.desc == 2 || cdType e.desc == 4 || cdType e.desc == 6

/-- A consignment uses clusters: it names some, or it is a PHASE (R49, R376). -/
def usesClusters (d : Desc) : Bool := decide (cdType d < 5) && (cdType d == 4 || cdSize d != 0)

/-- What every start needs: the module starts consignments, the partition is enabled, not halted, not stopped by a recovery record, and every
lower-numbered entry has started. -/
def State.mayBegin (s : State) (p : Nat) (e : Entry) : Bool :=
  s.startsOpen && (s.pt p).regs.enable && !(s.pt p).regs.halted && (s.pt p).stops.isEmpty && e.st == .accepted &&
  s.lowers p e.seq (fun x => x.st != .accepted && (!x.barrier || x.st == .finished)) &&
  (s.holdsSet p || !usesClusters e.desc)

/-- No decision is outstanding in the partition. -/
def State.decided (s : State) (p : Nat) : Bool := (s.pt p).commit.all fun k => k.st == .committed || k.st == .aborted

/-- A consignment starts that is not speculative. MASK_UPDATE, COMMIT, PHASE and FENCE need every lower-numbered one completed. -/
def State.mayStart (s : State) (p : Nat) (e : Entry) : Bool :=
  s.mayBegin p e && s.decided p &&
  (!(cdType e.desc == 2 || cdType e.desc == 3 || cdType e.desc == 4 || cdType e.desc == 6) || s.lowers p e.seq fun x => x.st == .finished)

/-- ACCEPTED becomes RUNNING: the geometry generation and the views are latched (R287, R332, R384). -/
def State.enterRun (s : State) (p : Nat) (e : Entry) (spec : Bool) (view : Nat) : State :=
  let t := s.updEntry p e.seq fun e => { e with
    st := .running, geo := (s.pt p).geo, latched := true, spec := spec, spent := [], views := s.epochs.set p view, ended := [], todo := [], fails := [], begun := [], flags := 0, rerun := false, done := false, twice := [] }
  if e.st = .accepted ∧ e.info.getLsbD 1 then t.bump 0x5804 (p + 1) 1 else t

/-- The check of R382 fails: the entry touches nothing more and completes with the status (DEDUCED, log 44). -/
def State.refuseEntry (s : State) (p seq : Nat) (st : Byte) : State :=
  s.updEntry p seq fun e => { e with fails := e.fails ++ [noWb st], done := true, dir := [], todo := [], clusters := [] }

/-- Nothing is left to do for the entry. -/
def State.markDone (s : State) (p seq : Nat) : State := s.updEntry p seq fun e => { e with done := true }

/-! ### Clusters set going (R53, R57, R184, R246, R271) -/

/-- The stations of a cluster as a consignment finds them: queues and channels stand, sidings are empty, drain and kernel slots are all
zeros (R118, R185), counters of sequences and registers start anew. Entries that an END has left in tile sidings, completion records, sticky bits and
`cut_at` stay as they are (DESIGN CHOICE, log 201). -/
def Stations.fresh (st : Stations) : Stations :=
  { st with sidings := [], drain := [], sdrain := [], vec := {}, land := [], landHeld := [], addHeld := [], addNext := [], addSeq := [], pend := [], heldRecs := [],
            drainSlots := [], sdrainSlots := [], kernSlots := [], stage := [] }

/-- A consignment starts on a cluster. A stopped clock wakes (R433). -/
def State.beginOn (s : State) (p : Nat) (e : Entry) (c tt : Nat) : State :=
  let clip := (s.pt p).commit.any fun k => k.seq == e.seq && k.st == .clipping
  let run : Run := { part := p, seq := e.seq, spec := e.spec, clip := clip, commit := cdType e.desc == 3,
                     xroot := (s.pt p).x.xroot, xkeys := (s.pt p).x.xkeys, srKey := cdKey e.desc }
  let t := if (s.cl c).pll then s else s.bump 0x4801 1 1
  t.updCl c fun cl => { cl with core := { pc := BitVec.ofNat 64 tt }, dc := [], run := some run, st := cl.st.fresh, tokWait := [], held := [], hitRows := [], pll := true }

/-- A cluster is free for an entry: it is active, runs nothing, its windows have closed (R100), and every lower-numbered entry that uses it has ended there (R383). -/
def State.freeFor (s : State) (p : Nat) (e : Entry) (c : Nat) : Bool :=
  (s.cl c).run.isNone && (s.cl c).stat == .active && !(s.cl c).isolated && (s.cl c).winsClosed &&
  s.lowers p e.seq fun x => x.st == .finished || x.st == .held || !x.clusters.contains c || x.ended.contains c

/-- A running entry starts on each of its waiting clusters that is free; one that has failed starts nowhere else (R72). -/
def State.startEntry (s : State) (p seq : Nat) : State :=
  match s.entry p seq with
  | none => s
  | some e =>
    if e.st ≠ .running ∨ !e.fails.isEmpty ∨ e.abort ∨ e.rerun then s else
    e.todo.foldl (fun s (c : Nat × Nat) =>
      if s.freeFor p e c.1 then (s.beginOn p e c.1 c.2).updEntry p seq fun e => { e with todo := e.todo.filter fun x => x.1 != c.1 } else s) s

/-- Every running entry of a partition starts where it can, the lowest number first. -/
def State.startReady (s : State) (p : Nat) : State :=
  if (s.pt p).stops.isEmpty then ((s.pt p).entries.map (·.seq)).foldl (fun s q => s.startEntry p q) s else s

/-- A checked directory is taken: its clusters are the entry's, and it starts where it can. -/
def State.takeDir (s : State) (p seq : Nat) (dir : List (Nat × Nat)) : State :=
  (s.updEntry p seq fun e => { e with dir := dir, todo := dir, clusters := dir.map (·.1), ended := [] }).startReady p

/-- A directory of an entry checked and taken, or the entry's refusal. `s0` is the state before the start, to which a start that must wait for a
refetch comes back (R241). -/
def State.runDir (s0 s : State) (p : Nat) (e : Entry) (resumed : Bool) : State :=
  if !descOk e.desc then s.refuseEntry p e.seq stConsignment
  else if cdSize e.desc = 0 then s.markDone p e.seq
  else
    let r := Job.exec (dirOf s p e.desc resumed)
    if waits r.1 then s0 else
    let t := s.settle r.2
    match r.1 with
    | .error st => (t.countFault st).refuseEntry p e.seq st
    | .ok dir => t.takeDir p e.seq dir

/-! ### COMMIT: block and start (R289, R292, R313) -/

/-- The commit block keeps R292. -/
def commitBlockOk (b : Desc) : Bool :=
  fld b 315 5 == 0 && fld b 438 74 == 0 && scaleOk (cbWord b 0) && finite32 (cbWord b 1) && !(fld b 63 1 == 1 && fld b 32 31 != 0) &&
  decide (1 ≤ fld b 298 16) && decide (1 ≤ fld b 426 12)

/-- The records that a COMMIT names, with their shards; any that breaks R308 ends it with CONSIGNMENT_INVALID (R288, R292) (DEDUCED, log 108). -/
def commitRecs (s : State) (p : Nat) (b : Desc) (e : Nat) : Job (List (Nat × RecH × List Shard)) := do
  let x := s.ctxPart p
  let n := fld b 426 12
  let l ← readVa s x (64 * fld b 384 42) (8 * n)
  Job.map (fun (a : List Byte) => do
    let va := leNat a
    Job.require (decide (va < 2 ^ 48) && va % 64 == 0) stConsignment
    let v ← recWord s x va
    let h := RecH.parse v
    Job.require (recOk v && h.part == p && (h.visible e).isSome) stConsignment
    let ds ← shardsOf s x va h stConsignment
    pure (va, h, ds)) (piecesOf 8 n l)

/-- The block and the records of a COMMIT as read at its start. -/
def commitRead (s : State) (p : Nat) (e : Entry) (resumed : Bool) : Job (Desc × List (Nat × RecH × List Shard) × List (Nat × Nat)) := do
  Job.require (descOk e.desc) stConsignment
  let dir ← dirOf s p e.desc resumed
  let y ← readVa s (s.ctxPart p) (cdAddr1 e.desc) 64
  let b : Desc := BitVec.ofNat 512 (leNat y)
  Job.require (commitBlockOk b) stConsignment
  let rs ← commitRecs s p b (s.pt p).e
  pure (b, rs, dir)

/-- The reduction buffers that a COMMIT retains: cluster, first row, rows. -/
def retainedOf (rs : List (Nat × RecH × List Shard)) : List (Nat × Nat × Nat) :=
  rs.flatMap fun (r : Nat × RecH × List Shard) => r.2.2.map fun d => (d.cluster, d.row, d.count * r.2.1.rowsQ)

/-- A COMMIT enters UPDATING: P = E + 1, its buffers retained, drift samples abandoned (R298, R304). A rerun keeps its pairing number (DEDUCED, log 113). -/
def State.beginCommit (s0 s : State) (p : Nat) (e : Entry) (resumed : Bool) : State :=
  let s := s.dropDrifts p
  if descOk e.desc ∧ cdSize e.desc = 0 then s.markDone p e.seq else
  let r := Job.exec (commitRead s p e resumed)
  if waits r.1 then s0 else
  let t := s.settle r.2
  match r.1 with
  | .error st =>
    let t := (t.countFault st).refuseEntry p e.seq st
    if resumed then t.sendService 1 p (s.pt p).groupPeers (s.pt p).pairings false 0 (BitVec.allOnes 64) else t
  | .ok (b, rs, dir) =>
    let k := if resumed then (s.pt p).pairings else (s.pt p).pairings + 1
    let c : Commit := { seq := e.seq, p := (s.pt p).e + 1, clipNorm := cbWord b 1, blk := b, recs := rs.map (·.1),
                        s := if fld b 314 1 = 1 then fld b 320 64 else (s.pt p).s, retained := retainedOf rs, pairing := k }
    ((t.updPt p fun pt => { pt with commit := some c, pairings := k }).takeDir p e.seq dir)

/-! ### Stopping, discarding, running again (R302, R384, R407, R410, R414) -/

/-- A speculative consignment is discarded: it leaves its clusters without a report and is ACCEPTED again. One that the host aborts ends instead (DEDUCED, log 121). -/
def State.discard (s : State) (p : Nat) (e : Entry) : State :=
  let t := (s.clearEntry p e).bump 0x7070 4 1
  let t := (((t.entry p e.seq).map (·.spent)).getD []).foldl (fun t (b : Nat × Nat × Nat) => t.setObj b.1 b.2.1 (t.obj b.1 b.2.1 - b.2.2)) t
  t.updEntry p e.seq fun x =>
    if x.abort then { x with spec := false, st := .running, ended := x.clusters, todo := [], done := true }
    else { x with st := .accepted, spec := false, latched := false, spent := [], fails := [], begun := [], flags := 0, clusters := [], ended := [], todo := [], dir := [], done := false, res0 := 0, res1 := 0, status := 0 }

/-- Every speculative consignment of a partition is discarded. -/
def State.discardAll (s : State) (p : Nat) : State :=
  ((s.pt p).entries.filter fun e => e.spec).foldl (fun s e => s.discard p e) s

/-- A stopped consignment runs again from its start, with REPLAYED: the dirty carried rows of its clusters come back first (R407, R410) (DEDUCED, log 136). -/
def State.rerunEntry (s : State) (p seq : Nat) : State :=
  match s.entry p seq with
  | none => s
  | some e =>
    if !e.rerun ∨ e.frozen ∨ e.st ≠ .running then s else
    let used := e.clusters.filter fun c => (s.cl c).stat == .active
    let t := used.foldl (fun s c => s.restoreDirty c p) s
    let view := if e.spec then ((s.pt p).commit.map (·.p)).getD (s.pt p).e else (s.pt p).e
    let t := t.enterRun p e e.spec view
    let t := t.updEntry p seq fun e => { e with info := e.info ||| 2 }
    let t := (t.bump 0x5804 (p + 1) 1).bump 0x5000 4 1
    match cdType e.desc with
    | 0 => s.runDir t p e true
    | 3 => s.beginCommit t p e true
    | _ => t

/-- Every stopped consignment of a partition that nothing stops runs again. -/
def State.rerunPart (s : State) (p : Nat) : State :=
  if (s.pt p).stops.isEmpty then (((s.pt p).entries.map (·.seq)).foldl (fun s q => s.rerunEntry p q) s).startReady p else s

/-! ### The decision (R291, R298, R299) -/

/-- Values combined position by position: a lone one passes up. -/
def pairOpt (f : α → α → α) : Option α → Option α → Option α
  | some a, some b => some (f a b)
  | some a, none => some a
  | none, b => b

/-- Counts added, saturating. -/
def addSat (a b : Word) : Word := if 2 ^ 64 ≤ a.toNat + b.toNat then BitVec.allOnes 64 else a + b

/-- A cluster's place in the tree: its local role within its die, and its die's position as the floor plan numbers it now (R290, R499). -/
def State.treePlace (s : State) (c : Nat) : Option Nat :=
  match (s.die (c / 17)).treePos, (s.cl c).role with
  | some p, some r => some (16 * p + r % 16)
  | _, _ => none

/-- The place under which a cluster's END values are kept until the decision (R414). -/
def State.endPlace (s : State) (c : Nat) : Nat := (s.treePlace c).getD (1024 + c)

/-- A module's values: the clusters' squared norms by local role within a die and die-tree position across dies, and the sum of the counts. -/
def State.ownValues (_ : State) (k : Commit) : Word × Word :=
  let at' (r : Nat) : Option Word := (k.cvals.find? fun (e : Nat × Word × Nat) => e.1 == r).map fun e => e.2.1
  ((treeSum (pairOpt add64) none 64 ((List.range 1024).map at')).getD 0,
   k.cvals.foldl (fun n (e : Nat × Word × Nat) => addSat n (BitVec.ofNat 64 e.2.2)) 0)

/-- The group's values in increasing module number, once every module has given its own for this pass. -/
def State.groupValues (s : State) (p : Nat) (k : Commit) : Option (List (Word × Word)) :=
  let pt := s.pt p
  let own := s.ownValues k
  match pt.fm with
  | none => some [own]
  | some m =>
    let ms := (List.range m.entries.length).filter fun j => j == m.self || pt.groupPeers.contains j
    ms.foldr (fun j acc =>
      match acc with
      | none => none
      | some l => if j = m.self then some (own :: l) else
        ((pt.peers.find? fun v => v.mod == j && v.k == k.pairing && v.clip == (k.st == .clipping)).map fun v => (v.sq, v.nf) :: l)) (some [])

/-- FP64 values of the gate: G, and the clip factor (R299). -/
def rootOf (g2 : Word) : Word := BitVec.ofNat 64 (flF64.encode rne false false (sqrtV (flDecode flF64 true g2.toNat)).1).1
def f64To32 (v : Word) : Word32 := BitVec.ofNat 32 (flF32.encode rne false false (flDecode flF64 true v.toNat)).1
def clipFactor (norm : Word32) (g : Word) : Word32 :=
  f64To32 (BitVec.ofNat 64 (flF64.encode rne false false (divV (f32Val norm) (flDecode flF64 true g.toNat)).1).1)

/-- The norm bound is exceeded. -/
def clips (norm : Word32) (g : Word) : Bool := norm.toNat % 2 ^ 31 != 0 && ltV (f32Val norm) (flDecode flF64 true g.toNat)

/-- The observed values of a decided COMMIT. -/
def State.showGate (s : State) (p : Nat) (g : Word32) (nf : Word) : State := (s.setObj 0x5822 (p + 1) g.toNat).setObj 0x5823 (p + 1) nf.toNat

/-- Values that the group has used are forgotten. -/
def Part.dropPeers (pt : Part) (k : Nat) : Part := { pt with peers := pt.peers.filter fun v => k < v.k }

/-- COMMITTED: the flip, the drift samples, the speculative runs made real (R298, R302, R304). -/
def State.flip (s : State) (p : Nat) (k : Commit) (g : Word32) (nf : Word) : State :=
  let e := k.p
  let t := s.updPt p fun pt => ({ pt with e := e, s := k.s + 1, commit := some { k with st := .committed, gRes := g, nf := nf.toNat, retained := [] } }).dropPeers k.pairing
  let t := (t.showGate p g nf).bump 0x7070 1 1
  let t := if k.clipped then t.bump 0x7070 2 1 else t
  let t := t.updEntry p k.seq fun x => { x with res0 := g.setWidth 64, res1 := nf, info := if k.clipped then x.info ||| 1 else x.info }
  let t := if s.cfg 0x2070 4 = 0 then t else
    k.stepped.foldl (fun t (y : Nat × List (Nat × Nat × Nat)) =>
      match y.2[e % y.2.length]? with
      | some q => t.updCl y.1 fun cl => if cl.stat = .active then { cl with driftDue := cl.driftDue ++ [{ part := p, va := q.1, shard := q.2.1, tile := q.2.2 }] } else cl
      | none => t) t
  let specs := (t.pt p).entries.filter fun x => x.spec
  let t := specs.foldl (fun t (x : Entry) => x.clusters.foldl (fun t c => t.updRun c fun r => if r.part = p ∧ r.seq = x.seq then { r with spec := false } else r) t) t
  t.updPt p fun pt => { pt with
    fenceErr := pt.entries.foldl (fun m x => if x.st == .held && x.status != stDone && x.status != stDoneWarn then max m x.seq else m) pt.fenceErr
    entries := pt.entries.map fun x => if x.spec then { x with spec := false, spent := [], st := if x.st = .held then .finished else x.st } else x }

/-- ABORTED (R298) (DEDUCED, log 69). -/
def State.abortCommit (s : State) (p : Nat) (k : Commit) (g : Word32) (nf : Word) : State :=
  let t := s.updPt p fun pt => ({ pt with commit := some { k with st := .aborted, gRes := g, nf := nf.toNat, retained := [] } }).dropPeers k.pairing
  let t := (t.showGate p g nf).bump 0x7070 3 1
  let t := t.updEntry p k.seq fun x => { x with res0 := g.setWidth 64, res1 := nf, fails := x.fails ++ [noWb stNonfinite], info := if k.clipped then x.info ||| 1 else x.info }
  t.discardAll p

/-- CLIPPING: the speculative runs are discarded, and every cluster runs the timetable again with s31 = 1 (R298, R300) (DEDUCED, log 68). -/
def State.clipPass (s : State) (p : Nat) (k : Commit) (g : Word) : State :=
  let k' := { k with st := .clipping, clipped := true, g := g, cf := clipFactor k.clipNorm g, gRes := f64To32 g, cvals := [], stepped := [] }
  let t := (s.discardAll p).updPt p fun pt => { pt with commit := some k' }
  (t.updEntry p k.seq fun x => { x with todo := x.dir, ended := [] }).startReady p

/-- The entry of a COMMIT has ended on every cluster. -/
def Entry.allEnded (e : Entry) : Bool := e.clusters.all fun c => e.ended.contains c

/-- The gate decides once the group's values are in. -/
def State.decideGate (s : State) (p : Nat) : State :=
  match (s.pt p).commit with
  | none => s
  | some k =>
    if !(s.entry p k.seq).any fun e => e.allEnded && !e.rerun then s else
    if k.st ≠ .gating ∧ k.st ≠ .clipping then s else
    match s.groupValues p k with
    | none => s
    | some vs =>
      let nf := vs.foldl (fun n v => addSat n v.2) 0
      if k.st = .clipping then
        (if nf ≠ 0 then s.abortCommit p k k.gRes nf else s.flip p k k.gRes nf)
      else
        let g2 := treeSum add64 0 64 (vs.map (·.1))
        let g := rootOf g2
        if nf ≠ 0 then s.abortCommit p k (f64To32 g) nf
        else if clips k.clipNorm g then s.clipPass p k g
        else s.flip p k (f64To32 g) nf

/-- A COMMIT has ended on every cluster of the module: its values go to the group, UPDATING becomes GATING, and the gate decides if it can. -/
def State.commitEnds (s : State) (p : Nat) : State :=
  match (s.pt p).commit with
  | none => s
  | some k =>
    if !(s.entry p k.seq).any fun e => e.allEnded then s else
    let v := s.ownValues k
    match k.st with
    | .updating =>
      let t := s.updPt p fun pt => { pt with commit := some { k with st := .gating } }
      (t.sendService 1 p (s.pt p).groupPeers k.pairing false v.1 v.2).decideGate p
    | .clipping => (s.sendService 1 p (s.pt p).groupPeers k.pairing true v.1 v.2).decideGate p
    | _ => s

/-! ### Completion (R77, R384 to R387, R412) -/

/-- An entry has completed with an error; a FENCE is over (R389). -/
def State.errorAt (s : State) (p seq : Nat) : State := s.updPt p fun pt => { pt with fenceErr := max pt.fenceErr seq }
def State.fenceOver (s : State) (p seq : Nat) : State := s.updPt p fun pt => { pt with fenceAt := max pt.fenceAt seq }

/-- The status of R77: the lowest error code, else DONE_WARN or DONE. -/
def State.statusOf (s : State) (p : Nat) (e : Entry) : Byte :=
  match e.fails.map (·.status) with
  | a :: rest => rest.foldl (fun m x => if x < m then x else m) a
  | [] => if s.warned p e.flags then stDoneWarn else stDone

/-- The entry is over: done, refused, or ended on every cluster on which it started; a COMMIT also has its decision or its failure. -/
def State.isOver (s : State) (p : Nat) (e : Entry) : Bool :=
  e.st == .running && !e.rerun &&
  (e.done ||
   (!e.clusters.isEmpty && e.clusters.all (fun c => e.ended.contains c || ((!e.fails.isEmpty || e.abort) && e.todo.any fun x => x.1 == c)) &&
    (cdType e.desc != 3 || (s.pt p).commit.all fun k => k.seq != e.seq || k.st == .committed || k.st == .aborted || k.st == .failed)))

/-- The record of a completed entry is stored: FINISHED, or HELD while speculative. What its waybills had begun to write is undefined after an error (R73). A row that a poisoned word failed comes back from its
checkpoint (R412). A COMMIT's state returns to IDLE. A cluster on which a second verdict has failed is faulty now that the consignment has completed (R127,
R409, R412). -/
def State.storeRecord (s : State) (p : Nat) (e : Entry) : State :=
  let st := s.statusOf p e
  let err := st != stDone && st != stDoneWarn
  let t := (e.fails.filter fun f => f.status == stUncorrectable && f.cluster != 0xFFFF).foldl (fun s f => s.repairRows f.cluster p) s
  let t := if err then t.scrambleAll e.begun else t
  let t := t.updEntry p e.seq fun x => { x with st := if x.spec then .held else .finished, status := st, begun := [] }
  let t := if err && !e.spec then t.errorAt p e.seq else t
  let t := if cdType e.desc = 6 then t.fenceOver p e.seq else t
  let t := t.updPt p fun pt => { pt with commit := pt.commit.bind fun k => if k.seq = e.seq then none else some k }
  e.twice.foldl State.clusterFails t

end Sys2Proof.Machine
end

