-- ==== Sys2Proof/Machine/Flow.lean ====
section
/-! DEFINITION. The life of a waybill and the end of a consignment on a cluster (R41 to R53, R72, R73, R250): the check of each station, start,
completion, stops, END_COMPLETE. -/

namespace Sys2Proof.Machine

/-! ### The check that every station makes (R7, R8, R44 to R46) -/

/-- A side's kind with its reserved fields and codes (R45); E8M0 is no element format (R19). -/
def Strm.fieldsOk (t : Strm) : Bool :=
  decide (t.kind ≤ 2) && (t.kind == 0 || (t.addr == 0 && t.len0 == 0 && t.len1 == 0 && t.s0 == 0 && t.s1 == 0)) &&
  (if t.kind = 2 then t.fmt == 0 && t.sparse == 0 else decide (t.fmt ≤ 9) && decide (t.sparse ≤ 4))

/-- The shapes whose packing and size count for a side: columns per row, when the waybill gives them. -/
def packSrcOk (w : Desc) : Bool :=
  let f := (srcOf w).fmt
  match wbStation w with
  | 3 => packOk f (fld w 456 13) && (!bit1 (wbOp w) 7 || packOk f (wbCols w))
  | 5 => (ttOp w == 4 && ttOpt w) || packOk f (wbCols w)
  | _ => packOk f (wbCols w)

def packDstOk (w : Desc) : Bool := packOk (dstOf w).fmt (if wbStation w = 5 ∧ ttOp w = 1 then wbRows w else wbCols w)

/-- R46 but for the station's own checks. -/
def commonOk (st : Nat) (w : Desc) : Bool :=
  let a := srcOf w
  let b := dstOf w
  wbStation w == st && fld w 59 5 == 0 && fld w 77 3 == 0 && fld w 124 4 == 0 && fld w 430 2 == 0 && wbRnd w != 3 &&
  fld w 48 2 != 3 && (fld w 48 2 != 0 || fld w 388 42 == 0) && (fld w 48 2 != 1 || a.kind == 0) && (fld w 48 2 != 2 || b.kind == 0) &&
  decide (1 ≤ wbRows w) && decide (wbRows w ≤ 256) && decide (1 ≤ wbCols w) && decide (wbCols w ≤ 4096) && a.fieldsOk && b.fieldsOk &&
  (a.kind == 2 || (decide (denseSize a.fmt (wbRows w) (wbCols w) ≤ 65536) && packSrcOk w)) &&
  (b.kind == 2 || (decide (denseSize b.fmt (wbRows w) (wbCols w) ≤ 65536) && packDstOk w))

/-- A zero count (R49, R200, R307). -/
def zeroCount (w : Desc) : Bool :=
  let z (t : Strm) : Bool := t.kind == 0 && t.count == 0
  z (srcOf w) || z (dstOf w) ||
  (match wbStation w with
   | 4 => (srcOf w).kind != 0 && fld w 432 12 == 0
   | 6 => upCount w == 0
   | _ => false)

/-- A row table keeps R219; `least` is the least pitch in bytes. -/
def rowTableOk (t : Strm) (least : Nat) : Bool :=
  t.kind == 0 && decide (0 < t.s0) && decide ((least : Int) ≤ 64 * t.s0) && t.len1 == 1 && t.s1 == 0

/-! ### The stations' own checks -/

/-- Intake and Dispatch Stations (R232, R233, R244, R247, R319, R336). -/
def aeOk (s : State) (part : Nat) (w : Desc) : Bool :=
  let a := srcOf w
  let b := dstOf w
  let intake := wbStation w == 0
  let op := aeOp w
  let plain := op == 0 || op == 8
  bits (wbOp w) 6 2 == 0 && fld w 491 21 == 0 &&
  (if intake then op == 0 || op == 1 else op == 8 || op == 9 || op == 10) && (!aeFast w || op == 10) &&
  (intake || (!aeDemand w && aePolicy w == 0)) && aePolicy w != 3 &&
  (if intake then a.kind == 0 && b.kind != 2 else a.kind != 2 && b.kind == 0) &&
  (!aeLat w || aePrio w == 0) && (aeSide w == 0 || (!intake && a.kind == 1)) && wbEpoch w == 0 && a.sparse == b.sparse &&
  pairOk a.fmt b.fmt a.sparse && wbRnd w == 0 &&
  (aeHdr w || (a.sparse == 0 && decide (6 < fmtWidth a.fmt) && decide (6 < fmtWidth b.fmt))) &&
  ((aeIdx w != 0) == !plain) &&
  (!aeWinEn w || (plain && b.kind == 0 && b.s0 == 0 && b.s1 == 0 && (a.kind != 0 || (a.len0 == b.len0 && a.len1 == b.len1)))) &&
  (op != 1 || (rowTableOk a 1 && !alwaysMx a.fmt && !alwaysMx b.fmt)) && (op != 9 || rowTableOk b (rowLen b.fmt (wbCols w))) &&
  (op != 10 || (b.fmt == 0 && !alwaysMx a.fmt && decide (4 * wbCols w ≤ 2048) && b.len0 == 1 && b.len1 == 1 && b.s0 == 0 && b.s1 == 0)) &&
  (!plain || a.kind != 0 || b.kind != 0 || a.count == b.count || zeroCount w) &&
  (a.fmt == b.fmt || !bit1 (s.cfg 0x2080 1) part) && (!aeFast w || !bit1 (s.cfg 0x2090 1) part)

/-- Matrix Station (R110, R116, R117). -/
def matrixOk (s : State) (c part : Nat) (w : Desc) : Bool :=
  let a := srcOf w
  let b := dstOf w
  let p := s.passOf c 2 w
  let final := p.mode == 0 || p.mode == 3
  let mx := bit1 p.drain.h 6
  a.kind == 0 && (if final then b.kind != 2 else b.kind == 2) && decide (wbRows w ≤ 128) && decide (wbCols w ≤ 128) && decide (a.len0 ≤ 32) &&
  decide (p.nT ≤ slotsC (wbCols w) p.accBytes) && decide (a.sparse ≤ 2) && b.sparse == 0 &&
  (b.kind != 0 || (b.len0 == p.nT && b.len1 == a.len1)) &&
  (p.hdr || (!alwaysMx a.fmt && !alwaysMx b.fmt && a.sparse == 0 && !mx)) &&
  (!p.drain.accBf16 || (a.fmt != 8 && a.fmt != 9 && bit1 (s.cfg 0x2040 3) part)) &&
  (p.mode != 0 || p.psum == 0) && (!(final && mx) || mayMx b.fmt)

/-- Sparse Station (R155, R158). -/
def sparseOk (s : State) (c : Nat) (w : Desc) : Bool :=
  let a := srcOf w
  let b := dstOf w
  let p := s.passOf c 3 w
  let final := p.mode == 0 || p.mode == 3
  fld w 478 6 == 0 && a.kind == 0 && (if final then b.kind == 0 else b.kind == 2) && decide (wbRows w ≤ 128) && decide (wbCols w ≤ 128) && a.fmt != 0 &&
  (a.sparse == 0 || a.sparse == 3 || a.sparse == 4) && b.sparse == 0 &&
  decide (1 ≤ p.kw) && decide (p.kw ≤ 4096) && (p.kw % 32 == 0 || decide (a.len0 ≤ 1)) && decide (a.len0 * p.kw ≤ 65536) &&
  decide (denseSize a.fmt (wbRows w) p.kw ≤ 65536) && decide (denseSize a.fmt (wbCols w) p.kw ≤ 65536) &&
  decide (p.nT ≤ slotsC (wbCols w) p.accBytes) && (p.mode != 0 || p.psum == 0) && (!(final && bit1 p.drain.h 6) || mayMx b.fmt)

/-- Vector Station (R200, R201). -/
def vectorOk (s : State) (c : Nat) (w : Desc) : Bool :=
  let a := srcOf w
  let b := dstOf w
  let k := s.kernOf c w
  let entry := bits (wbOp w) 0 6
  let code := k.code.take k.n
  bits (wbOp w) 6 2 == 0 && fld w 448 4 == 0 && (a.kind != 2 || code.all fun v => vOpc v != 0x20) &&
  a.sparse == 0 && b.sparse == 0 && wbEpoch w == 0 && (if k.n = 0 then entry == 0 else decide (entry < k.n)) &&
  code.all (fun v => (vOpc v != 0x20 && vOpc v != 0x22) || decide (wbCols w ≤ vG v * vWidth (vTy v))) &&
  (b.kind != 0 || b.count == vTotal w || zeroCount w) &&
  (fld w 444 1 == 1 || (!alwaysMx a.fmt && !k.mxOut b.fmt)) && (!bit1 k.h 8 || mayMx b.fmt)

/-- Sparse codes of the Turntable's operations (R212). -/
def ttSparseOk (w : Desc) : Bool :=
  let a := (srcOf w).sparse
  let b := (dstOf w).sparse
  match ttOp w with
  | 4 => a != 0 && b == 0
  | 5 => a == 0
  | _ => a == 0 && b == 0

/-- TRANSPOSE_IP (R224). -/
def ttInPlaceOk (w : Desc) : Bool :=
  let a := srcOf w
  let b := dstOf w
  let m : Int := maxObject a.fmt (wbRows w) (wbCols w) (ttHdr w)
  a.kind == 0 && b.kind == 0 && a.addr == b.addr && a.len0 == b.len0 && a.len1 == b.len1 && a.s0 == b.s0 && a.s1 == b.s1 && a.len0 == a.len1 &&
  wbRows w == wbCols w && a.s0 != 0 && a.s1 != 0 && decide (m ≤ 64 * a.s0.natAbs) && decide (m ≤ 64 * a.s1.natAbs)

/-- Turntable (R211 to R214, R219, R224, R336). -/
def turntableOk (s : State) (part : Nat) (w : Desc) : Bool :=
  let a := srcOf w
  let b := dstOf w
  let op := ttOp w
  let indexed := op == 3 || op == 6 || op == 7 || op == 8 || op == 9
  let mx := fld w 476 1 == 1
  decide (op ≤ 9) && !bit1 (wbOp w) 7 && fld w 482 2 == 0 && a.kind != 2 && b.kind != 2 && !(a.kind == 1 && b.kind == 1) &&
  (op == 2 || op == 6 || op == 7 || op == 8 || a.kind != 0 || b.kind != 0 || a.count == b.count || zeroCount w) && ttSparseOk w &&
  (!(op == 1 || op == 2) || (decide (wbCols w ≤ 256) && packOk b.fmt (wbRows w))) && (op != 8 || b.fmt == 0) &&
  (!(op == 9 || op == 2) || a.fmt == b.fmt) && (op != 9 || wbRnd w == 0) && ((ttAux w != 0) == indexed) &&
  (ttHdr w || !(op == 4 || op == 5 || decide (fmtWidth a.fmt ≤ 6) || decide (fmtWidth b.fmt ≤ 6) || mx)) && (!mx || mayMx b.fmt) &&
  (wbEpoch w == 0 || op == 4 || op == 5) && (!ttOpt w || op == 4 || op == 5 || op == 9) && (!ttFast w || op == 8) &&
  (!ttKd w || !(op == 7 || op == 8)) && (ttBand w == 0 || op == 4) &&
  (op != 2 || ttInPlaceOk w) && (op != 6 || rowTableOk a 1) && (!(op == 7 || op == 8) || rowTableOk b (rowLen b.fmt (wbCols w))) &&
  (!ttFast w || !bit1 (s.cfg 0x2090 1) part)

/-- Update Station (R308): the form of the record comes before its partition. -/
def updateOk (s : State) (x : XCtx) (c : Nat) (r : Run) (w : Desc) : Job Unit := do
  let op := upOp w
  Job.require (r.commit && (srcOf w).kind == 2 && (dstOf w).kind == 2 && decide (op ≤ 1) && !bit1 (wbOp w) 7 && fld w 510 2 == 0 && (!upClip w || r.clip) &&
    (op != 0 || upWin w == 0) && (op != 1 || !r.clip)) stDesc
  match (s.pt r.part).commit with
  | none => Job.fail stDesc
  | some k => do
    let h ← recForm s x (upRec w) stDesc
    Job.require (decide (upShard w < h.shards)) stDesc
    let d ← shardOf s x (upRec w) h (upShard w) stDesc
    Job.require (h.part == x.part) stProtect
    Job.require (k.recs.contains (upRec w) && wbRows w == h.rows && wbCols w == h.cols && wbRnd w == h.rnd) stDesc
    Job.require (d.cluster == c && decide (upFirst w + upCount w ≤ d.count)) stDesc
    match h.visible (k.p - 1) with
    | none => Job.fail stDesc
    | some b => do
      Job.require (op != 1 || ((s.win c (upWin w)).enable && (s.win c (upWin w)).part == r.part)) stDesc
      Job.require (wbEpoch w == 0 || h.mep b == wbEpoch w) stMaskEpoch

/-- The whole check of a waybill at the head of a siding. A station that the partition has not powered fails it (R393) (DEDUCED, log 90, DEDUCED, log 123, DEDUCED, log 124, DEDUCED, log 125, DEDUCED, log 126, DEDUCED, log 127, DEDUCED, log 128, DEDUCED, log 129). -/
def wbCheck (s : State) (c st : Nat) (r : Run) (w : Desc) : Job Unit := do
  Job.require (commonOk st w && ((s.pt r.part).blk.any fun b => b.stations.getLsbD st)) stDesc
  match st with
  | 0 | 1 => Job.require (aeOk s r.part w) stDesc
  | 2 => Job.require (matrixOk s c r.part w) stDesc
  | 3 => Job.require (sparseOk s c w) stDesc
  | 4 => Job.require (vectorOk s c w) stDesc
  | 5 => Job.require (turntableOk s r.part w) stDesc
  | _ => updateOk s (r.ctx c) c r w

/-- WAYBILL_AT_HEAD: the check comes before any wait. A channel that is disabled fails its waybill with DMA_DROPPED (R252) (DEDUCED, log 6, DEDUCED, log 39). -/
def execWaybillAtHead (c station chan : Nat) (s : State) : Res :=
  match s.headWb c station chan, (s.cl c).run with
  | some e, some r =>
    if e.phase ≠ .queued ∨ r.stopped then .next s
    else if station ≤ 1 ∧ (s.chan c (8 * station + chan)).disable then .next (s.failWb c station e stDmaDropped 0xFFFF 0xFFFF)
    else
      let o := Job.exec (wbCheck s c station r e.wb)
      if waits o.1 then .next s else
      let t := s.settle o.2
      match o.1 with
      | .error status => .next (t.failWb c station e status 0xFFFF 0xFFFF)
      | .ok _ => .next (t.updWb c station chan fun e => { e with phase := if fld e.wb 80 1 = 1 then .waiting else .ready })
  | _, _ => .next s

/-- WAYBILL_START: a checked waybill whose wait is met starts; a zero count has nothing to move (R49). It reads the header of its owner table before
its first tile (R280). A REDUCE reads `free_ptr` now (R290). From now on the operands of a Matrix or Sparse waybill must not change (R128) (DEDUCED, log 39). -/
def execWaybillStart (c station chan : Nat) (s : State) : Res :=
  match s.headWb c station chan, (s.cl c).run with
  | some e, some r =>
    if e.phase ≠ .ready ∨ r.stopped then .next s
    else
      let o := Job.exec (if zeroCount e.wb then pure () else ownerStart s (r.ctx c) e.wb)
      if waits o.1 then .next s else
      let s := s.settle o.2
      match o.1 with
      | .error status => .next (s.failWb c station e status 0 0)
      | .ok _ =>
      let t := s.updWb c station chan fun e => { e with
        phase := if zeroCount e.wb then .written else .running
        held := if zeroCount e.wb then [] else s.heldOf c station (r.ctx c) e.wb
        freePtr := if station = 6 then (s.win c (upWin e.wb)).freePtr else 0 }
      .next (if station ≤ 1 then t.updChan c (8 * station + chan) fun k =>
        { k with busy := true, lat := aeLat e.wb, prio := aePrio e.wb, bytes := 0 } else t)
  | _, _ => .next s

/-! ### Completion (R43, R49, R53, R250) -/

/-- The indices of a waybill's last tile; all-ones where it moves none (DEDUCED, log 130). -/
def lastTile (w : Desc) : Nat × Nat :=
  if zeroCount w then (0xFFFF, 0xFFFF) else
  let a := srcOf w
  let b := dstOf w
  match wbStation w with
  | 0 | 1 => if b.kind = 0 ∧ a.count = b.count then b.ij (aeTotal w - 1) else a.ij (aeTotal w - 1)
  | 2 => (bits (wbOp w) 5 3, a.len1 - 1)
  | 3 => (bits (wbOp w) 4 3, a.len1 - 1)
  | 4 => if b.kind = 0 then b.ij (vTotal w - 1) else if a.kind = 0 then a.ij (vTotal w - 1) else (vTotal w - 1, 0)
  | 5 => if a.kind = 0 then a.ij (a.count - 1) else b.ij (b.count - 1)
  | _ => (upFirst w + upCount w - 1, upShard w)

/-- A waybill completes with DONE: its flags join the consignment's, it leaves its siding, its counter is posted. -/
def State.finishWb (s : State) (c st chan : Nat) (e : WbEntry) : State :=
  let t := if st ≤ 1 then s.keepRecord c st e stDone else s
  let t := (t.joinFlags e.part e.seq e.flags).dropWb c st chan
  let t := t.coalFlush c st
  let l := lastTile e.wb
  if fld e.wb 102 1 = 1 then t.post c (fld e.wb 103 5) st (wbTag e.wb) (l.1 % 65536) (l.2 % 65536) else t

/-- A record of this channel is held already. -/
def State.recHeld (s : State) (c st chan : Nat) : Bool :=
  (s.cl c).st.heldRecs.any fun h => h.engine == (st == 1) && bits h.record.toNat 24 3 == chan

/-- WAYBILL_COMPLETE: every tile is written and every write acknowledged (R240). A record that finds its queue full is held, and holds the completion and
the post (R250) (DEDUCED, log 39). -/
def execWaybillComplete (c station chan : Nat) (s : State) : Res :=
  match s.oldWb c station chan with
  | some e =>
    if e.phase ≠ .written ∨ e.acks ≠ 0 ∨ e.inDrain ≠ 0 ∨ s.acksDue c station ∨ s.recHeld c station chan then .next s
    else if station ≤ 1 ∧ fld e.wb 447 1 = 1 then
      let r := recordOf e station stDone
      if engineRoom s c station then .next ((s.pushRecord c station r).finishWb c station chan e)
      else .next (s.updSt c fun x => { x with heldRecs := x.heldRecs ++ [{ engine := station == 1, record := r }] })
    else .next (s.finishWb c station chan e)
  | none => .next s

/-- COMPLETION_RECORD_PUSH: a held record enters its engine's queue once that has room, and its waybill completes (DEDUCED, log 131). -/
def execCompletionRecordPush (c : Nat) (engine : Bool) (s : State) : Res :=
  let st := if engine then 1 else 0
  match (s.cl c).st.heldRecs.find? fun h => h.engine == engine with
  | some h =>
    if !engineRoom s c st then .next s else
    let chan := bits h.record.toNat 24 3
    let t := (s.pushRecord c st h.record).updSt c fun x => { x with heldRecs := x.heldRecs.erase h }
    (match t.headWb c st chan with
     | some e => .next (t.finishWb c st chan e)
     | none => .next t)
  | none => .next s

/-! ### Stops and ends (R41, R72, R291, R298) -/

/-- CONSIGNMENT_STOP: a consignment that has failed on another cluster, that the host aborts, or that is to be run again stops here too. -/
def execConsignmentStop (c : Nat) (s : State) : Res :=
  match (s.cl c).run with
  | some r =>
    (match s.entry r.part r.seq with
     | some e => if !e.fails.isEmpty || e.abort || e.rerun then .next (s.stopOn c !e.rerun) else .next s
     | none => .next s)
  | none => .next s

/-- Nothing of the run is left on the cluster but its end. -/
def Cluster.drained (cl : Cluster) : Bool :=
  cl.st.sidings.isEmpty && cl.st.drain.isEmpty && cl.st.sdrain.isEmpty && cl.st.heldRecs.isEmpty && cl.winsClosed

/-- Memory requests and writes of a cluster that have not been answered (R72) (DEDUCED, log 43). -/
def State.outstanding (s : State) (c : Nat) : Bool :=
  (s.kept.any fun k => k.p.srcEp.toNat == c && (k.p.ptype == 0x00 || k.p.ptype == 0x02 || k.p.ptype == 0x04)) ||
  (List.range 16).any fun k => s.acksDue c k

/-- What a cluster's run of a COMMIT hands to the commit unit at its end (R291, R304). -/
def State.giveValues (s : State) (c : Nat) (r : Run) : State :=
  s.updPt r.part fun pt => { pt with commit := pt.commit.map fun k =>
    if k.seq = r.seq then { k with cvals := k.cvals.filter (fun (e : Nat × Word × Nat) => e.1 != s.endPlace c) ++ [(s.endPlace c, r.sq, r.nf)]
                                   stepped := k.stepped.filter (fun (e : Nat × List (Nat × Nat × Nat)) => e.1 != c) ++ [(c, r.stepped)] } else k }

/-- END_COMPLETE: the run has ended or stopped, its waybills are gone, its windows closed. The checkpoint of END is committed (R406), watches end
(R242), a COMMIT's values join, and what waits for the cluster starts (DEDUCED, log 43). -/
def execEndComplete (c : Nat) (s : State) : Res :=
  match (s.cl c).run with
  | none => .next s
  | some r =>
    if !(r.ended || r.stopped) || !(s.cl c).drained || s.outstanding c then .next s else
    let t := if r.stopped then s else s.commitCkpt c r.part r.seq
    let t := t.endWatches c
    let t := if r.commit && !r.stopped then t.giveValues c r else t
    let t := t.updEntry r.part r.seq fun e => { e with ended := if e.ended.contains c then e.ended else e.ended ++ [c], begun := e.begun ++ r.begun }
    let t := t.updCl c fun cl => { cl with run := none }
    let t := if r.commit then t.commitEnds r.part else t
    .next (t.startReady r.part)

end Sys2Proof.Machine
end

