-- ==== Sys2Proof/Machine/Ledger.lean ====
section
/-! DEFINITION. The work ledger's commands (chapter 16): consignments of every type started, completed and logged, the commit group's packets,
appends, aborts, and the recovery of stopped partitions (R410 to R414). -/

namespace Sys2Proof.Machine

/-! ### RUN, NOP, FENCE, SPECULATIVE_START -/

/-- RUN: the consignment starts, and starts on its clusters as they become free (R380, R383). -/
def execRun (part seq : Nat) (s : State) : Res :=
  match s.entry part seq with
  | none => .next s
  | some e =>
    if cdType e.desc ≠ 0 then .next s
    else if s.mayStart part e then .next (s.runDir (s.enterRun part e false (s.pt part).e) part e e.rerun)
    else .next (s.startReady part)

/-- NOP: it has no work. A descriptor of a reserved type, which no other command starts, starts here too and fails its check (R8, R382;
DESIGN CHOICE of the command) (DESIGN CHOICE, log 122). -/
def execNop (part seq : Nat) (s : State) : Res :=
  match s.entry part seq with
  | none => .next s
  | some e =>
    if 7 ≤ cdType e.desc ∧ s.mayStart part e then
      let t := s.enterRun part e false (s.pt part).e
      .next (if descOk e.desc then t.markDone part seq else t.refuseEntry part seq stConsignment)
    else .next s

/-- SPECULATIVE_START: while the COMMIT is in GATING, a RUN or NOP marked `spec` starts in sequence order on the pending epoch, up to the limit (R301). -/
def execSpeculativeStart (part seq : Nat) (s : State) : Res :=
  match s.entry part seq, (s.pt part).commit with
  | some e, some k =>
    let n := ((s.pt part).entries.filter fun x => x.spec && x.st == .running).length
    if s.mayBegin part e ∧ k.st = .gating ∧ (cdType e.desc = 0 ∨ cdType e.desc = 7) ∧ cdSpec e.desc ∧ n < min 16 (s.cfg 0x2070 1) then
      let t := s.enterRun part e true k.p
      if cdType e.desc = 0 then .next (s.runDir t part { e with spec := true } false)
      else .next (if descOk e.desc then t.markDone part seq else t.refuseEntry part seq stConsignment)
    else .next s
  | _, _ => .next s

/-- FENCE: it completes with DONE; with `halt` set and an error since the previous FENCE the partition halts, with event 0x01 (R389) (DEDUCED, log 111). -/
def execFence (part seq : Nat) (s : State) : Res :=
  match s.entry part seq with
  | none => .next s
  | some e =>
    if cdType e.desc = 6 ∧ s.mayStart part e then
      let t := s.enterRun part e false (s.pt part).e
      if !descOk e.desc then .next (t.refuseEntry part seq stConsignment) else
      let halt := cdHalt e.desc && decide ((s.pt part).fenceAt < (s.pt part).fenceErr)
      let t := (t.updPt part fun pt => { pt with regs := { pt.regs with halted := pt.regs.halted || halt } }).fenceOver part seq
      let t := t.updEntry part seq fun e => { e with st := .finished, status := stDone, done := true }
      .next (if halt then t.event 1 part seq else t)
    else .next s

/-! ### COPY (R381) -/

/-- The part of a write that a copy of overlapping ranges leaves undefined: offset and bytes within the destination (DESIGN CHOICE, log 112). -/
def copyOverlap (a b n : Nat) : Nat × Nat :=
  if a = b then (0, 0) else if a < b then (if b < a + n then (0, a + n - b) else (0, 0)) else (if a < b + n then (a - b, b + n - a) else (0, 0))

/-- Bytes with a run of them undefined. -/
def blurBytes (s : State) (bs : List Byte) (off n : Nat) : List Byte :=
  bs.take off ++ ((bs.drop off).take n).zipIdx.map (fun y => Config.freeByte s.free y.2) ++ bs.drop (off + n)

/-- What a COPY does: it reads under demand rules, and writes directly into the executing cluster's scratchpad or, through its last 128 rows,
elsewhere. True when staged. -/
def copyJob (s : State) (p : Nat) (d : Desc) : Job (List Byte × Bool) := do
  let c := cdExec d
  let n := 64 * cdSize d
  let x : XCtx := { s.ctxPart p with cluster := some c }
  let g ← readRaw s x (cdAddr0 d) n
  let ps ← Job.xl s x true (cdAddr1 d) n
  Job.require (ps.all fun q => match padCluster q.pa with | some k => k == c | none => true) stXlate
  let staged := ps.any fun q => padCluster q.pa != some c
  if staged then consume { g with bad := [] } 0 fun _ _ => true
  let o := copyOverlap (cdAddr0 d) (cdAddr1 d) n
  let bs := blurBytes s g.bytes o.1 o.2
  writePieces s ps bs g.marks g.bad
  pure (bs, staged)

/-- Units of a failed COPY that it may have begun to write: those before the first whose read or write fails (R73, R381) (DESIGN CHOICE, log 112). -/
def copyBegun (s : State) (p : Nat) (d : Desc) : Nat :=
  let c := cdExec d
  let x : XCtx := { s.ctxPart p with cluster := some c }
  let unit (k : Nat) : Job Unit := do
    let g ← readRaw s x (cdAddr0 d + 64 * k) 64
    let ps ← Job.xl s x true (cdAddr1 d + 64 * k) 64
    Job.require (ps.all fun q => match padCluster q.pa with | some k => k == c | none => true) stXlate
    if ps.any fun q => padCluster q.pa != some c then consume { g with bad := [] } 0 fun _ _ => true
  ((List.range (cdSize d)).find? fun k => (match (Job.exec (unit k)).1 with | .ok _ => false | .error _ => true)).getD (cdSize d)

/-- COPY: the bytes move on channel 7 of the executing cluster, once it is free; the rows through which they pass are undefined afterwards, whether it fails or
not (DESIGN CHOICE, log 112, DEDUCED, log 153). -/
def execCopy (part seq : Nat) (s : State) : Res :=
  match s.entry part seq with
  | none => .next s
  | some e =>
    let d := e.desc
    let c := cdExec d
    if cdType d ≠ 1 ∨ !s.mayStart part e then .next s
    else
      let t := s.enterRun part e false (s.pt part).e
      if !descOk d ∨ !(s.setOf part).contains c then .next (t.refuseEntry part seq stConsignment)
      else if cdSize d = 0 then .next (t.markDone part seq)
      else if !s.freeFor part e c then .next s
      else if (s.chan c 7).disable ∨ (s.chan c 15).disable then .next (t.refuseEntry part seq stDmaDropped)
      else
        let r := Job.exec (copyJob t part d)
        if waits r.1 || r.2.retained t then .next s else
        match r.1 with
        | .error st =>
          let u := t.settle r.2.upToFailure true
          let own := match t.xlate { t.ctxPart part with cluster := some c } (cdAddr1 d) true with | .ok q => padCluster q.pa == some c | .error _ => false
          let u := if own then u else u.scramble (padOf c + 3968 * 2048) (128 * 2048)
          let dst := match t.xl (t.ctxPart part) true (cdAddr1 d) (64 * copyBegun t part d) with | .ok ps => ps | .error _ => []
          let begun := dst.filter fun q => !t.lostIn q.pa q.n
          let u := begun.foldl (fun u (q : Piece) => u.scramble q.pa q.n) u
          .next ((u.countFault st).refuseEntry part seq st)
        | .ok (bs, staged) =>
          let u := (t.settle r.2 true).drawn
          let u := if staged then u.scramble (padOf c + 3968 * 2048) (128 * 2048) else u
          .next (u.updEntry part seq fun e => { e with done := true, res0 := (crc32c bs).setWidth 64, res1 := BitVec.ofNat 64 bs.length })

/-! ### COMMIT and its group (R291, R298, R313, R314, R414) -/

/-- COMMIT: it starts, enters UPDATING and retains its reduction buffers; started, it goes on where clusters are free. -/
def execCommit (part seq : Nat) (s : State) : Res :=
  match s.entry part seq with
  | none => .next s
  | some e =>
    if cdType e.desc ≠ 3 then .next s
    else if s.mayStart part e then .next (s.beginCommit (s.enterRun part e false (s.pt part).e) part e false)
    else .next (s.startReady part)

/-- COMMIT_PARTIALS: the values of another module for the k-th COMMIT and pass; a later message of that module for the same pass replaces
them. The gate decides once every module's values are in. -/
def execCommitPartials (part mod k : Nat) (clip : Bool) (sq nf : Word) (s : State) : Res :=
  if !((s.pt part).groupPeers.contains mod) then .next s else
  .next ((s.updPt part fun pt => { pt with
    peers := (pt.peers.filter fun v => !(v.mod == mod && v.k == k && v.clip == clip)) ++ [{ k := k, clip := clip, mod := mod, sq := sq, nf := nf }] }).decideGate part)

/-- RERUN_NOTICE: the paired COMMIT of this module stops and runs again from UPDATING, with REPLAYED; after a die loss it stays stopped until the host aborts
it (R414) (DESIGN CHOICE, log 196). -/
def execRerunNotice (note : RerunNote) (s : State) : Res :=
  let part := note.part
  match (s.pt part).commit with
  | none => .next s
  | some k =>
    if k.st = .committed ∨ k.st = .aborted ∨ k.st = .failed then .next s else
    match s.entry part k.seq with
    | none => .next s
    | some e =>
      let t := (s.discardAll part).updPt part fun pt => { pt with peers := pt.peers.filter fun v => v.k != k.pairing }
      let t := t.stopEntry part e
      .next (if note.dieLoss then t.updEntry part e.seq fun x => { x with frozen := true } else t.rerunPart part)

/-! ### PHASE (R376, R393) -/

/-- The PHASE may pass the set to the named partition. -/
def State.phaseOk (s : State) (p : Nat) (d : Desc) : Bool :=
  let q := cdTo d
  q != p && (s.pt q).regs.enable && (match (s.pt p).blk.bind (·.group), (s.pt q).blk.bind (·.group) with | some a, some b => a == b | _, _ => false)

/-- The first step of a PHASE is over: every window of the set has closed, and the AOC has read the events of its dies (R393) (DEDUCED, log 101). -/
def State.phaseIdle (s : State) (p : Nat) : Bool :=
  (s.setOf p).all fun c => (s.cl c).winsClosed &&
    ((s.die (c / 17)).events.entries.isEmpty && (s.die (c / 17)).holding.isEmpty && (s.die (c / 17)).stalled.isEmpty)

/-- The buffers of the set are written back, translations dropped, stations gated, and the set passes to partition q (R376, R393) (DEDUCED, log 101). -/
def State.phasePass (s : State) (p q seq : Nat) : State :=
  let gated := !((s.pt q).blk.any fun b => b.stations.getLsbD 6)
  let t := (s.setOf p).foldl (fun t c =>
    let t := if gated then t.dropDrift c p else t
    (t.coalOut c fun _ => true).updCl c fun cl => { cl with tlb := cl.tlb.filter fun y => y.part != p }) s
  let t := t.updPt p fun pt => { pt with regs := { pt.regs with holds := false } }
  let t := t.updPt q fun pt => { pt with regs := { pt.regs with holds := true }, counted := true }
  t.markDone p seq

/-- PHASE: it starts, and passes the set once its first step is over; RUNNING, it goes on from there (DEDUCED, log 101). -/
def execPhase (part seq : Nat) (s : State) : Res :=
  match s.entry part seq with
  | none => .next s
  | some e =>
    if cdType e.desc ≠ 4 then .next s
    else if e.st = .running then
      .next (if e.done ∨ e.abort ∨ e.rerun ∨ !s.phaseIdle part then s else s.phasePass part (cdTo e.desc) seq)
    else if !s.mayStart part e then .next s
    else
      let t := s.enterRun part e false (s.pt part).e
      if !descOk e.desc ∨ !s.phaseOk part e.desc then .next (t.refuseEntry part seq stConsignment)
      else .next (if t.phaseIdle part then t.phasePass part (cdTo e.desc) seq else t)

/-! ### SNAPSHOT (R394, R395) -/

/-- The ports that a SNAPSHOT block names, in increasing number. -/
def snapPorts (b : Desc) : List Nat := (List.range 32).filter fun n => fld b (64 + n) 1 == 1

/-- A SNAPSHOT block keeps R394: reserved bits, at least one record, ports in Ethernet mode. -/
def State.snapOk (s : State) (b : Desc) : Bool :=
  fld b 99 29 == 0 && fld b 182 10 == 0 && fld b 224 288 == 0 && decide (1 ≤ fld b 170 12) && !(snapPorts b).isEmpty &&
  (snapPorts b).all fun n => (s.port n).mode != 0 && (s.port n).st != .fused

/-- The payload stream: for each record its header, then shard by shard and tile by tile the forward working-copy object at view E (DEDUCED, log 108). -/
def snapStream (s : State) (p : Nat) (b : Desc) (e : Nat) : Job (List Byte) := do
  let x := s.ctxPart p
  let n := fld b 170 12
  let l ← readVa s x (64 * fld b 128 42) (8 * n)
  let parts ← Job.map (fun (a : List Byte) => do
    let va := leNat a
    Job.require (decide (va < 2 ^ 48) && va % 64 == 0) stConsignment
    let v ← recWord s x va
    let h := RecH.parse v
    Job.require (recOk v && h.part == p) stConsignment
    match h.visible e with
    | none => Job.fail stConsignment
    | some buf => do
      let ds ← shardsOf s x va h stConsignment
      let os ← Job.map (fun (d : Shard) => Job.map (fun t => do
        let hb ← readVa s x (d.wc0At buf t) 64
        let w := leNat hb
        Job.require (hdrMagic w && (Hdr.parse w).formOk) stTile
        let body ← readVa s x (d.wc0At buf t + 64) (64 * (Hdr.parse w).side + roundUp (Hdr.parse w).payload 64)
        pure (hb ++ body)) (List.range d.count)) ds
      pure (natLe 64 v ++ (os.flatten).flatten)) (piecesOf 8 n l)
  pure parts.flatten

/-- One frame: addresses, tag, EtherType 0x88B5, the snapshot header, the payload, padded to the Ethernet minimum (DESIGN CHOICE, log 117) (DESIGN CHOICE, log 214). -/
def snapFrame (b : Desc) (e port n : Nat) (pay : List Byte) (trailer : Bool) : List Byte :=
  let tag : List Byte := if fld b 48 16 = 0 then [] else [0x81, 0x00] ++ (natLe 2 (fld b 48 16)).reverse
  let hdr := natLe 4 (fld b 192 32) ++ natLe 4 n ++ natLe 8 Config.moduleId.toNat ++ natLe 8 e ++ natLe 4 pay.length ++ natLe 4 (bn trailer)
  padTo 60 (natLe 6 (fld b 0 48) ++ Config.portMac port ++ tag ++ [0x88, 0xB5] ++ hdr ++ pay)

/-- The priority of the frames: of the tag, or `pcp` when untagged (R394). -/
def snapPrio (b : Desc) : Nat := if fld b 48 16 = 0 then fld b 96 3 else fld b 61 3

/-- SNAPSHOT: it starts once every lower-numbered consignment has started, and completes when its trailer has left (DEDUCED, log 118). -/
def execSnapshot (part seq : Nat) (s : State) : Res :=
  match s.entry part seq with
  | none => .next s
  | some e =>
    if cdType e.desc ≠ 5 ∨ !s.mayStart part e then .next s else
    let ep := (s.pt part).e
    let t := s.enterRun part e false ep
    if !descOk e.desc then .next (t.refuseEntry part seq stConsignment) else
    let r := Job.exec (do
      let y ← readVa t (t.ctxPart part) (cdAddr0 e.desc) 64
      let b : Desc := BitVec.ofNat 512 (leNat y)
      Job.require (t.snapOk b) stConsignment
      let z ← snapStream t part b ep
      pure (b, z))
    if waits r.1 then .next s else
    let u := t.settle r.2
    match r.1 with
    | .error st => .next ((u.countFault st).refuseEntry part seq st)
    | .ok (b, z) =>
      let ports := snapPorts b
      let data := piecesOf 8192 (z.length / 8192 + 1) z
      let frames := data ++ [natLe 8 z.length ++ natLe 4 (crc32c z).toNat]
      let u := frames.zipIdx.foldl (fun u (f : List Byte × Nat) =>
        let port := ports.getD (f.2 % ports.length) 0
        u.emit (.frame port (snapPrio b) (snapFrame b ep port f.2 f.1 (f.2 == data.length)))) u
      .next (u.updEntry part seq fun e => { e with done := true, res0 := BitVec.ofNat 64 frames.length, res1 := BitVec.ofNat 64 (z.length + 12) })

/-! ### MASK_UPDATE and its flip (R161, R165 to R178) -/

/-- The work of a started MASK_UPDATE, once the gate of R288 is open: into the alternate buffers only. A failure leaves them undefined, with
their tags, and so does one that follows work which a fault has stopped. The flags of its arithmetic join its word (DEDUCED, log 109, DESIGN CHOICE, log 110, DESIGN CHOICE, log 203). -/
def State.maskRun (s : State) (p : Nat) (e : Entry) : State :=
  if !e.fails.isEmpty ∨ e.abort ∨ e.done ∨ e.rerun ∨ !e.flips.isEmpty ∨ !s.gateOpen p (s.pt p).e then s else
  let x := s.ctxPart p
  let r0 := Job.exec (do
    let plans ← maskPlans s x (s.pt p).e (s.setOf p) (cdAddr0 e.desc) (cdSize e.desc)
    maskTags s x ((s.pt p).e + 1) plans
    pure plans)
  if waits r0.1 then s else
  match r0.1 with
  | .error st => (((s.settle r0.2.upToFailure).scrambleAll e.alt).countFault st).refuseEntry p e.seq st
  | .ok plans =>
    let s0 := s
    let s := s.settle r0.2
    let r := Job.exec (do
      let n ← maskWork s x (cdKey e.desc) plans
      let fl ← Job.map (maskFlips s x) plans
      pure (n, fl.flatten))
    if waits r.1 then s0 else
    match r.1 with
    | .error st =>
      let t := (s.settle r.2.upToFailure).scrambleAll (altRanges s x plans)
      ((t.joinFlags p e.seq r.2.flags).countFault st).refuseEntry p e.seq st
    | .ok (n, fl) =>
      let t := (s.settle r.2).joinFlags p e.seq r.2.flags
      let t := plans.foldl (fun t m => t.setKey p (mbRec m.blk) (!m.buf) (cdKey e.desc)) t
      t.updEntry p e.seq fun e => { e with flips := fl, alt := altRanges s x plans, counts := n, below := plans.map fun m => (mbRec m.blk, mbBelow m.blk) }

/-- MASK_UPDATE: a barrier that starts when everything before it has completed; its check precedes any change (R165, R178). -/
def execMaskUpdate (part seq : Nat) (s : State) : Res :=
  match s.entry part seq with
  | none => .next s
  | some e =>
    if cdType e.desc ≠ 2 then .next s
    else if e.st = .running then .next (s.maskRun part e)
    else if !s.mayStart part e then .next s
    else
      let t := (s.enterRun part e false (s.pt part).e).dropDrifts part
      if !descOk e.desc then .next (t.refuseEntry part seq stConsignment)
      else if cdSize e.desc = 0 then .next (t.markDone part seq)
      else
        let r := Job.exec (maskPlans t (t.ctxPart part) (t.pt part).e (t.setOf part) (cdAddr0 e.desc) (cdSize e.desc))
        if waits r.1 then .next s else
        match r.1 with
        | .error st => .next (((t.settle r.2).countFault st).refuseEntry part seq st)
        | .ok _ =>
          let u := t.settle r.2
          (match u.entry part seq with
           | some e' => .next (u.maskRun part e')
           | none => .next u)

/-- MASK_FLIP: every cluster has finished: all named pairs flip, `wc0_sparse` is written, E advances, S stays, the counts are added (R175, R181). -/
def execMaskFlip (part : Nat) (s : State) : Res :=
  match (s.pt part).entries.find? fun e => e.st == .running && cdType e.desc == 2 && !e.flips.isEmpty && !e.done && !e.rerun && !e.abort && e.fails.isEmpty with
  | none => .next s
  | some e =>
    let t := e.flips.foldl (fun s f => s.store { pa := f.pa, bytes := f.bytes } f.hc) s
    let t := t.updPt part fun pt => { pt with e := pt.e + 1, coordBelow := e.below.foldl (fun t b => Tab.put t 0 b.1 b.2) pt.coordBelow }
    let t := ((t.bump 0x7060 1 e.counts.1).bump 0x7060 2 e.counts.2.1).bump 0x7060 3 e.counts.2.2
    .next (t.updEntry part e.seq fun x => { x with done := true, flips := [], alt := [], res0 := BitVec.ofNat 64 e.counts.1, res1 := BitVec.ofNat 64 e.counts.2.1 })

/-! ### Completion and the log (R77, R384 to R386) -/

/-- CONSIGNMENT_COMPLETE: the record of an entry that is over is stored (DEDUCED, log 179). -/
def execConsignmentComplete (part seq : Nat) (s : State) : Res :=
  match s.entry part seq with
  | some e => if s.isOver part e then .next ((s.storeRecord part e).startReady part) else .next s
  | none => .next s

/-- A completion record (R385). The failure fields describe the first failure reported with the status (DEDUCED, log 45). -/
def State.recordBytes (s : State) (p : Nat) (e : Entry) (info lap : Nat) : List Byte :=
  let f := (e.fails.find? fun f => f.status == e.status).getD (noWb 0)
  let v := e.seq + e.status.toNat * 2 ^ 48 + cdType e.desc * 2 ^ 56 + p * 2 ^ 60 + e.flags.toNat * 2 ^ 64 + info * 2 ^ 72 + lap * 2 ^ 76 +
    cdTag e.desc * 2 ^ 80 + e.geo % 2 ^ 32 * 2 ^ 96 + e.res0.toNat * 2 ^ 128 + e.res1.toNat * 2 ^ 192 + f.cluster % 65536 * 2 ^ 256 +
    f.station % 16 * 2 ^ 272 + f.wbTag % 65536 * 2 ^ 280 + f.i % 65536 * 2 ^ 296 + f.j % 65536 * 2 ^ 312 + (s.pt p).e % 2 ^ 64 * 2 ^ 328
  natLe 64 v

/-- The completion log's records, when its place is one that R374 allows. -/
def State.clogSize (s : State) (p : Nat) : Nat :=
  let v := (s.pt p).regs.clogBase.toNat
  let k := bits v 0 5
  if 6 ≤ k ∧ k ≤ 16 ∧ s.plan.carve ≤ bits v 12 36 * 4096 ∧ bits v 12 36 * 4096 + 64 * 2 ^ k ≤ s.hbmLen then 2 ^ k else 0

/-- LOG_RECORD: the oldest open entry is FINISHED and the log has space: its record is written and W advances. A full log raises event 0x09 once (R386, R392) (DEDUCED, log 45).
The record of an entry that never started shows the generation of the record before it (R332) (DESIGN CHOICE, log 178). -/
def execLogRecord (part : Nat) (s : State) : Res :=
  let pt := s.pt part
  match pt.entries with
  | [] => .next s
  | e :: rest =>
    let n := s.clogSize part
    if e.st ≠ .finished ∨ s.boot.sealed ∨ n = 0 then .next s
    else if n ≤ (pt.regs.head + 2 ^ 32 - pt.regs.tail) % 2 ^ 32 then
      .next (if pt.fullTold then s else (s.updPt part fun q => { q with fullTold := true }).event 9 part pt.regs.head)
    else
      let h := pt.regs.head
      let e := if e.latched then e else { e with geo := pt.lastGeo }
      let info := (e.info.toNat &&& 0xB) + (if e.geo ≠ pt.lastGeo then 4 else 0)
      let lap := if h / n % 2 = 0 then 1 else 0
      let t := s.store { pa := bits pt.regs.clogBase.toNat 12 36 * 4096 + 64 * (h % n), bytes := s.recordBytes part e info lap }
      let t := t.updPt part fun q => { q with entries := rest, w := e.seq, lastGeo := e.geo, fullTold := false, regs := { q.regs with head := (h + 1) % 2 ^ 32 } }
      .next (if pt.regs.tail = h then t.msiFor pt.regs.irq else t)

/-! ### APPEND (R377) -/

/-- The reason for BUSY, in the order disabled, sealed, rebuilding, numbers used up, ledger full (R377) (DESIGN CHOICE, log 186). -/
def State.busyReason (s : State) (p : Nat) : Option Nat :=
  if !(s.pt p).regs.enable then some 2
  else if s.boot.sealed then some 4
  else if (s.pt p).rebuilding then some 3
  else if 2 ^ 48 ≤ (s.pt p).nextSeq then some 5
  else if 65536 ≤ (s.pt p).entries.length then some 1
  else none

/-- APPEND: the read takes the slot as it stands, or answers BUSY (DESIGN CHOICE, log 187). -/
def execAppend (part : Nat) (s : State) : Res :=
  match s.busyReason part with
  | some r =>
    .next ((s.updPt part fun pt => { pt with regs := { pt.regs with append := BitVec.ofNat 64 (0x10 * 2 ^ 48 + r * 2 ^ 56) } }).bump 0x5803 (part + 1) 1)
  | none =>
    .next (s.updPt part fun pt => { pt with
      nextSeq := pt.nextSeq + 1
      entries := pt.entries ++ [{ seq := pt.nextSeq, desc := pt.regs.slot }]
      regs := { pt.regs with append := BitVec.ofNat 64 pt.nextSeq, lastSeq := pt.nextSeq, lastTag := cdTag pt.regs.slot } })

/-! ### HOST_ABORT (R388) -/

/-- One entry under an abort (DEDUCED, log 115, DEDUCED, log 121). -/
def State.abortEntry (s : State) (p : Nat) (e : Entry) : State :=
  let f := noWb stAborted
  match e.st with
  | .finished => s
  | .accepted =>
    let t := (s.updEntry p e.seq fun x => { x with st := .finished, status := stAborted, fails := [f] }).errorAt p e.seq
    if cdType e.desc = 6 then t.fenceOver p e.seq else t
  | .held => (s.updEntry p e.seq fun x => { x with fails := x.fails ++ [f], st := .finished, spec := false, status := stAborted }).errorAt p e.seq
  | .running =>
    let past := (s.pt p).commit.any fun k => k.seq == e.seq && (k.st == .committed || k.st == .aborted)
    if past then s else
    if e.done then s.updEntry p e.seq fun x => { x with fails := x.fails ++ [f] } else
    let mine := (s.pt p).commit.any fun k => k.seq == e.seq
    let t := (s.scrambleAll e.alt).updEntry p e.seq fun x => { x with abort := true, fails := x.fails ++ [f], flips := [], alt := [] }
    let t := if mine then (t.updPt p fun pt => { pt with commit := pt.commit.map fun k => { k with st := .failed } }).discardAll p else t
    if e.rerun ∨ cdType e.desc = 2 ∨ cdType e.desc = 4 then t.updEntry p e.seq fun x => { x with rerun := false, frozen := false, done := true, ended := x.clusters, todo := [] }
    else t

/-- HOST_ABORT: every consignment numbered at most A without a stored record ends (R388). -/
def execHostAbort (part : Nat) (a : BitVec 48) (s : State) : Res :=
  let t := s.updPt part fun pt => { pt with regs := { pt.regs with abortSeq := a.toNat } }
  if a.toNat ≤ (s.pt part).w then .next t else
  let es := (s.pt part).entries.filter fun e => decide (e.seq ≤ a.toNat)
  .next ((es.map (·.seq)).foldl (fun t q => match t.entry part q with | some e => t.abortEntry part e | none => t) t)

/-- AUTO_WAKE: a consignment that could start if the module ran wakes it from S2 when `auto_wake` is set (R438). -/
def execAutoWake (s : State) : Res :=
  let run := { s with power := { s.power with st := .s0 } }
  if s.power.st = .s2 ∧ s.power.autoWake ∧ s.parts.any (fun (e : Nat × Part) => e.2.entries.any fun x => run.mayStart e.1 x) then
    .next { s with power := { s.power with st := .wake } }
  else .next s

/-! ### RACK (R407, R408, R410, R411) -/

/-- The working copies of one tile derived again for both buffers from their own masters (R408). -/
def rederiveTile (s : State) (x : XCtx) (c va : Nat) (h : RecH) (d : Shard) (b : Bool) (t : Nat) : Job Unit := do
  let mt ← masterTile s x c (d.stAt b t) h
  let (i, j) := d.ij t
  let dr : Draws := { key := s.keyOf x.part va b, site := 3, stream := h.stream, row := i, col := j }
  writeCopies s x c d b t (deriveCopies h h.sp0 (Tab.look (s.pt x.part).coordBelow 0 va) false dr mt.hdr.epoch mt.f32s.1 mt.mask)

/-- A buffer's working-copy slots translate into the window of the cluster. -/
def State.wcInPad (s : State) (x : XCtx) (c : Nat) (d : Shard) (b : Bool) : Bool :=
  match s.xlate x (d.wc0At b 0) true with
  | .ok p => padCluster p.pa == some c
  | .error _ => false

/-- Every resident working copy that a partition's list names is derived again on the spare; what cannot be read stays as it is. -/
def State.rederive (s : State) (p c : Nat) : State :=
  let v := (s.pt p).x.rlist.toNat
  if !bit1 v 0 then s else
  let x : XCtx := { s.ctxPart p with cluster := some c }
  let base := bits v 6 42 * 64
  let vas := (List.range (bits v 48 12)).map fun i => leNat (s.mem.readN (base + 8 * i) 8)
  vas.foldl (fun s va =>
    match Job.exec (do let h ← recOf s x va stDesc; let ds ← shardsOf s x va h stDesc; pure (h, ds)) with
    | (.ok (h, ds), _) =>
      ds.foldl (fun s (d : Shard) =>
        [false, true].foldl (fun s b =>
          if !s.wcInPad x c d b then s else
          (List.range d.count).foldl (fun s t =>
            let r := Job.exec (rederiveTile s x c va h d b t)
            match r.1 with | .ok _ => (s.settle r.2 true).drawn | .error _ => s) s) s) s
    | _ => s) s

/-- RACK: the presented record is acknowledged: a spare reads back its carried rows and derives its working copies, partitions that no waiting
record stops run their stopped consignments again, and the next record is presented. -/
def execRack (v : Word) (s : State) : Res :=
  match s.recov.recs with
  | [] => .next s
  | r :: rest =>
    if v.toNat % 65536 ≠ r.no then .next s else
    let t := { s with recov := { s.recov with recs := rest } }
    let t := match r.repl with
      | some sp => if (t.cl sp).stat = .active then (List.range 16).foldl (fun t p => t.rederive p sp) (t.restoreAll sp) else t
      | none => t
    let t := r.parts.foldl (fun t p => t.updPt p fun pt => { pt with stops := pt.stops.filter (· != r.no) }) t
    let t := (List.range 16).foldl (fun t p => t.rerunPart p) t
    .next (if rest.isEmpty then t else t.msiFor t.recov.irq)

/-! ### The attention button (R512, R513) -/

/-- A cancelling press: the drain ends, and a seal that has completed ends as for a released PWR_WARN_N; consignments that the drain has stopped run
again (R513) (DEDUCED, log 193). -/
def State.drainCancel (s : State) : State :=
  let t := s.updPlate fun p => { p with attention := 0, lastEvent := 2, drainSealed := false }
  let t := if t.power.st = .enterS3 then { t with power := { t.power with st := .s0, s3Pend := false } } else t
  let t := if s.plate.drainSealed ∧ !s.power.warn then t.sealEnd else t
  (List.range 16).foldl (fun t p => t.rerunPart p) t

/-- SHORT_PRESS: starts the attention drain, or cancels one; before L1 it is a request for S3 (R504, R513). In S3 it has no effect (DEDUCED, log 193). -/
def execShortPress (s : State) : Res :=
  if !s.running then .next s
  else if s.plate.attention = 1 ∨ s.plate.attention = 2 ∨ s.plate.attention = 3 then .next s.drainCancel
  else if !s.atL1 then .next ((s.updPlate fun p => { p with lastEvent := 1, attention := 3 }).enterS3)
  else if s.power.st = .enterS3 then .next s
  else .next (s.updPlate fun p => { p with attention := 1, lastEvent := 1 })

end Sys2Proof.Machine
end

