-- ==== Sys2Proof/Machine/Xreg.lean ====
section
/-! DEFINITION. The translation registers of a partition and cached translations (R268 to R273). -/

namespace Sys2Proof.Machine

/-- The translation registers of a partition changed. -/
def State.updX (s : State) (p : Nat) (f : XRegs → XRegs) : State := s.updPt p fun pt => { pt with x := f pt.x }

/-- PAGE_WALK_COMPLETE: a valid translation is cached by the cluster's unit; an invalid one never is (R268, R270) (DEDUCED, log 120). -/
def execPageWalkComplete (c part : Nat) (va : BitVec 48) (s : State) : Res :=
  let root := match (s.cl c).run with | some r => if r.part = part then r.xroot else (s.pt part).x.xroot | none => (s.pt part).x.xroot
  .next (s.walked { c := some c, part := part, root := root, va := va.toNat })

/-- An invalidation begins, or is held while another is in progress. Two held ones become one that drops every translation, which drops
nothing that may not be dropped at any time. -/
def State.startInv (s : State) (p : Nat) (v : Word) : State :=
  s.updX p fun x =>
    if x.done then { x with done := false, inv := some v }
    else match x.held with
      | none => { x with held := some v }
      | some h => { x with held := some (if h = v then v else 1) }

/-- The bits of XROOT that a write sets, and those of XINV. -/
def xrootBits (v : Word) : Word := v &&& 0x0000FFFFFFFFF001
def xinvBits (v : Word) : Word := v &&& 0x0000FFFFFFFFF001

/-- XROOT_WRITE: it takes effect from the partition's next consignment, and performs an `all` invalidation (R271). -/
def execXrootWrite (part : Nat) (v : Word) (s : State) : Res :=
  .next ((s.updX part fun x => { x with xroot := xrootBits v }).startInv part 1)

/-- XINV_ALL (R273) (DEDUCED, log 116). -/
def execXinvAll (part : Nat) (s : State) : Res := .next (s.startInv part 1)

/-- XINV_PAGE (R273) (DEDUCED, log 116). -/
def execXinvPage (part : Nat) (page : BitVec 36) (s : State) : Res := .next (s.startInv part (BitVec.ofNat 64 (page.toNat * 4096)))

/-- Cached translations of a partition that an invalidation names are dropped everywhere. -/
def State.dropTlb (s : State) (p : Nat) (v : Word) : State :=
  let gone (t : Tlb) : Bool := t.part == p && (bit1 v.toNat 0 || (t.va ≤ bits v.toNat 12 36 * 4096 && bits v.toNat 12 36 * 4096 < t.va + t.size))
  { s with clusters := Tab.mapV s.clusters {} fun cl => { cl with tlb := cl.tlb.filter fun t => !gone t } }

/-- Requests of a partition that a unit has translated and that are still under way: refetches, writes whose notices are unanswered, and the writes that a
MASK_UPDATE holds until its flip (R175) (DEDUCED, log 180). -/
def State.xlUnderway (s : State) (p : Nat) : Bool :=
  ((s.pt p).entries.any fun e => e.st == .running && !e.flips.isEmpty) ||
  (s.clusters.any fun e => e.2.watches.any fun w => w.part == p && w.pending) || s.hubs.any fun h => h.2.acks.any fun a => a.part == p

/-- INVALIDATION_DONE: every unit has dropped what the invalidation names, and once no request translated before is under way `done` reads 1; a held
write begins (R273) (DEDUCED, log 180). -/
def execInvalidationDone (part : Nat) (s : State) : Res :=
  match (s.pt part).x.inv with
  | none => .next s
  | some v =>
    if s.xlUnderway part then .next (s.dropTlb part v) else
    .next ((s.dropTlb part v).updX part fun x =>
      match x.held with
      | some h => { x with inv := some h, held := none, done := false }
      | none => { x with inv := none, done := true })

end Sys2Proof.Machine
end

