-- ==== Sys2Proof/Machine/Registers.lean ====
section
/-! DEFINITION. Control-space registers (R271, R361, R374 to R376, R392, R408, R411, R439): writes, latches, reads, partition control. -/

namespace Sys2Proof.Machine

/-- The ledger registers of a partition changed. -/
def State.updRegs (s : State) (p : Nat) (f : LedgerRegs → LedgerRegs) : State := s.updPt p fun pt => { pt with regs := f pt.regs }

/-! ### PCTL (R374, R376, R389, R504) -/

/-- PCTL_ENABLE: `enable` is written; a 1 before L1 is held until L1 (R504). -/
def execPctlEnable (part : Nat) (v : Bool) (s : State) : Res :=
  if v ∧ !(s.boot.stage == .l1 || s.boot.stage == .l2) then
    .next { s with boot := { s.boot with heldEnables := if s.boot.heldEnables.contains part then s.boot.heldEnables else s.boot.heldEnables ++ [part] } }
  else
    let t := { s with boot := { s.boot with heldEnables := s.boot.heldEnables.filter (· != part) } }
    .next (t.updRegs part fun r => { r with enable := v }).formHolds

/-- PCTL_INIT: with `enable` 0 and no open entry the ledger is emptied and the next sequence number is 1; otherwise it is ignored (DEDUCED, log 103). -/
def execPctlInit (part : Nat) (s : State) : Res :=
  if (s.pt part).regs.enable ∨ !(s.pt part).entries.isEmpty then .next s
  else
    let t := s.updPt part fun pt => { pt with nextSeq := 1, w := 0, entries := [], fenceErr := 0, fenceAt := 0 }
    .next (t.setObj 0x5805 1 (let v := s.obj 0x5805 1; if bit1 v part then v - 2 ^ part else v))

/-- PCTL_RESUME: the partition leaves HALTED (R389). -/
def execPctlResume (part : Nat) (s : State) : Res := .next (s.updRegs part fun r => { r with halted := false })

/-! ### Held writes and latches (R361, R364, R374, R375) -/

/-- The bits of PBLK and FMAP, and of CLOG_BASE, that a write sets. -/
def ptrBits (v : Word) : Word := v &&& 0x0000FFFFFFFFFFC1
def clogBits (v : Word) : Word := v &&& 0x0000FFFFFFFFF01F

/-- PBLK_WRITE: the write is held until the latch; a further one replaces it. -/
def execPblkWrite (part : Nat) (v : Word) (s : State) : Res := .next (s.updRegs part fun r => { r with pblkHeld := some (ptrBits v) })

/-- CLOG_BASE_WRITE. -/
def execClogBaseWrite (part : Nat) (v : Word) (s : State) : Res := .next (s.updRegs part fun r => { r with clogHeld := some (clogBits v) })

/-- FMAP_WRITE. -/
def execFmapWrite (part : Nat) (v : Word) (s : State) : Res := .next (s.updX part fun x => { x with fmapHeld := some (ptrBits v) })

/-- Bytes of a block in HBM; nothing when it does not lie there wholly or holds a poisoned word. -/
def State.hbmBlock (s : State) (pa n : Nat) : Option (List Byte) :=
  if pa + n ≤ s.hbmLen ∧ (s.badWords pa n).isEmpty then some (s.mem.readN pa n) else none

/-- A partition block from its 1536 bits. -/
def blockOfBits (v : Nat) : Block where
  clusters := (List.range 1088).filter fun c => bit1 v c
  group := if bits v 1088 8 = 0xFF then none else some (bits v 1088 8)
  stations := BitVec.ofNat 7 (bits v 1096 7)

/-- Two lists share a member. -/
def meets (a b : List Nat) : Bool := a.any fun x => b.contains x

/-- A partition block passes its check (R375). -/
def State.blockOk (s : State) (p v : Nat) : Bool :=
  let b := blockOfBits v
  bits v 1103 433 == 0 && b.stations.getLsbD 0 && b.stations.getLsbD 1 && (bits v 1088 8 == 0xFF || decide (bits v 1088 8 ≤ 15)) &&
  b.clusters.all (fun c => (s.cl c).stat == .active) &&
  (List.range 16).all fun q => q == p || (match (s.pt q).blk with
    | none => true
    | some o =>
      if o.group.isSome && o.group == b.group then o.clusters.all b.clusters.contains && b.clusters.all o.clusters.contains
      else !((s.pt q).regs.enable && meets b.clusters o.clusters))

/-- The map of a partition's carried rows in a cluster's checkpoint slot is cleared (R405). -/
def State.clearSlotMap (s : State) (c p : Nat) : State :=
  match (s.cl c).role.bind s.ckptSlot with
  | some slot => s.store { pa := slot + 0x1000 + p * 512, bytes := List.replicate 512 0 }
  | none => s

/-- Clusters that leave a partition's set are cleared when `0x6040.01` asks for it (R463). -/
def State.clearLeavers (s : State) (p : Nat) (old new : List Nat) : State :=
  if bit1 (s.cfg 0x6040 1) p then
    (old.filter fun c => !new.contains c).foldl (fun s c => ((s.padInit c).updCl c fun cl => { cl with carried := Tab.put cl.carried 0 p 0 }).clearSlotMap c p) s
  else s

/-- PBLK_LATCH: with no open entry the held write takes effect, or its block fails its check, leaves the previous block in force, and `0x5806.01` names the partition (DEDUCED, log 104). -/
def execPblkLatch (part : Nat) (s : State) : Res :=
  match (s.pt part).regs.pblkHeld with
  | none => .next s
  | some v =>
    if !(s.pt part).entries.isEmpty then .next s else
    let old := s.setOf part
    let t := s.updRegs part fun r => { r with pblkHeld := none }
    if !bit1 v.toNat 0 then
      .next ((((t.updPt part fun pt => { pt with blk := none }).updRegs part fun r => { r with pblk := v, holds := false }).clearLeavers part old []).formHolds)
    else
      match s.hbmBlock (bits v.toNat 6 42 * 64) 192 with
      | none => .next (t.setObj 0x5806 1 part)
      | some bs =>
        if s.blockOk part (leNat bs) then
          let b := blockOfBits (leNat bs)
          let stay := (s.pt part).regs.holds && ((s.pt part).blk.bind (·.group)) == b.group
          .next ((((t.updPt part fun pt => { pt with blk := some b }).updRegs part fun r => { r with pblk := v, holds := stay }).clearLeavers part old b.clusters).formHolds)
        else .next (t.setObj 0x5806 1 part)

/-- CLOG_BASE_LATCH: with no open entry the held write takes effect; `head` and `tail` become 0. -/
def execClogBaseLatch (part : Nat) (s : State) : Res :=
  match (s.pt part).regs.clogHeld with
  | none => .next s
  | some v =>
    if !(s.pt part).entries.isEmpty then .next s
    else .next (s.updPt part fun pt => { pt with fullTold := false, regs := { pt.regs with clogBase := v, clogHeld := none, head := 0, tail := 0 } })

/-- A fabric map from its bytes: header word and entries. -/
def fmapOf (bs : List Byte) : Nat × List FEntry :=
  let h := leNat (bs.take 64)
  (h, (piecesOf 64 (bits h 16 8) (bs.drop 64)).map fun b =>
    let v := leNat b
    { modId := BitVec.ofNat 64 v, ports := BitVec.ofNat 32 (bits v 64 32), cgroup := bits v 96 8, rgroup := bits v 104 8, rparent := bits v 112 8, rorder := bits v 120 8 })

/-- Following parents from a module reaches the root of its group. -/
def reachesRoot (es : List FEntry) : Nat → Nat → Bool
  | 0, _ => false
  | f + 1, k => match es[k]? with
    | some e => e.rparent == 0xFF || reachesRoot es f e.rparent
    | none => false

/-- A fabric map passes its check (R364). -/
def State.fmapOk (s : State) (p : Nat) (bs : List Byte) : Bool :=
  let (h, es) := fmapOf bs
  let n := bits h 16 8
  let self := bits h 24 8
  let portsOf' (e : FEntry) : List Nat := (List.range 32).filter fun i => e.ports.getLsbD i
  bits h 0 8 == 0xF4 && bits h 12 4 == 0 && bits h 32 480 == 0 && ((piecesOf 64 n (bs.drop 64)).all fun b => bits (leNat b) 128 384 == 0) &&
  bits h 8 4 == p && n != 0 && decide (self < n) &&
  (es[self]?).any (fun e => e.modId == Config.moduleId && e.ports == 0) && decide ((es.map (·.modId)).Nodup) &&
  (es.zipIdx.all fun e => e.2 == self || e.1.ports != 0) && decide ((es.flatMap portsOf').Nodup) &&
  (es.flatMap portsOf').all (fun i => (s.port i).st != .fused && (s.port i).mode == 0) &&
  (es.zipIdx.all fun e => e.1.rparent == 0xFF || (e.1.rparent != e.2 && (es[e.1.rparent]?).any fun q => q.rgroup == e.1.rgroup)) &&
  (es.all fun e => (es.filter fun q => q.rgroup == e.rgroup && q.rparent == 0xFF).length == 1) &&
  ((List.range n).all fun k => reachesRoot es (n + 1) k) &&
  decide (((es.filter fun e => e.rparent != 0xFF).map fun e => (e.rparent, e.rorder)).Nodup)

/-- FMAP_LATCH: with no open entry the map is read, checked and latched, and the pairing count starts from zero (R361, R364);
a port that no latched map lists any more takes its mode (R370) (DEDUCED, log 104). -/
def execFmapLatch (part : Nat) (s : State) : Res :=
  match (s.pt part).x.fmapHeld with
  | none => .next s
  | some v =>
    if !(s.pt part).entries.isEmpty then .next s else
    let t := s.updX part fun x => { x with fmapHeld := none }
    let take (m : Option FMap) : Res :=
      .next (t.updPt part fun pt => { pt with fm := m, pairings := 0, peers := [], x := { pt.x with fmap := v } }).applyModes
    if !bit1 v.toNat 0 then take none
    else
      let pa := bits v.toNat 6 42 * 64
      match (s.hbmBlock pa 64).bind fun h => s.hbmBlock pa (64 * (1 + bits (leNat h) 16 8)) with
      | some bs =>
        if s.fmapOk part bs then take (some { self := bits (leNat (bs.take 64)) 24 8, entries := (fmapOf bs).2 })
        else .next (t.setObj 0x5101 2 part)
      | none => .next (t.setObj 0x5101 2 part)

/-! ### REGISTER_WRITE -/

/-- One word of the staging slot replaced. -/
def slotPut (d : Desc) (i : Nat) (v : Word) : Desc :=
  let k := 64 * (i % 8)
  (d &&& ~~~ (BitVec.ofNat 512 ((2 ^ 64 - 1) * 2 ^ k))) ||| BitVec.ofNat 512 (v.toNat * 2 ^ k)

/-- The fields of an IRQ register. -/
def irqBits (v : Word) : Word := v &&& 0x7FFFF

/-- The state after a meaning that always answers a next state. -/
def resState (d : State) : Res → State
  | .next t => t
  | _ => d

/-- PCTL written: `enable`, then `init`, then `resume` (DEDUCED, log 119). -/
def State.pctl (s : State) (p : Nat) (v : Nat) : State :=
  let t := resState s (execPctlEnable p (bit1 v 0) s)
  let t := if bit1 v 1 then resState t (execPctlInit p t) else t
  if bit1 v 2 then resState t (execPctlResume p t) else t

/-- PSTATE written: `auto_wake`, the request, `s3_ok` (R439). -/
def State.pstateWrite (s : State) (v : Nat) : State :=
  let t := { s with power := { s.power with autoWake := bit1 v 5 } }
  let t := match bits v 3 2 with
    | 1 => resState t (execWakeRequest t)
    | 2 => resState t (execRequestS2 t)
    | 3 => resState t (execRequestS3 t)
    | _ => t
  if bit1 v 7 then resState t (execS3Ok t) else t

/-- A ledger register of partition p at offset o. -/
def State.ledgerWrite (s : State) (p o : Nat) (v : Word) : Res :=
  if o < 0x40 then .next (s.updRegs p fun r => { r with slot := slotPut r.slot (o / 8) v })
  else match o with
  | 0x48 => .next (s.pctl p v.toNat)
  | 0x50 => execHostAbort p (v.setWidth 48) s
  | 0x58 => execPblkWrite p v s
  | 0x60 => execClogBaseWrite p v s
  | 0x70 => .next (s.updRegs p fun r => { r with tail := v.toNat % 2 ^ 32 })
  | 0x78 => .next (s.updRegs p fun r => { r with irq := irqBits v })
  | _ => .next s

/-- A translation or fabric register of partition p at offset o; XINV with `all` drops everything, otherwise a page. -/
def State.xlateWrite (s : State) (p o : Nat) (v : Word) (pa : Nat) : Res :=
  match o with
  | 0x00 => execXrootWrite p v s
  | 0x08 => .next (s.updX p fun x => { x with xkeys := v &&& 0xFFFFFFFF })
  | 0x10 => if bit1 v.toNat 0 then execXinvAll p s else execXinvPage p (BitVec.ofNat 36 (bits v.toNat 12 36)) s
  | 0x18 => execFmapWrite p v s
  | 0x20 => .next (s.updX p fun x => { x with rlist := v &&& 0x0FFFFFFFFFFFFFC1 })
  | _ => .fault (.absentAddress pa)

/-- The clusters' registers in control space: 4 KiB for each, with the windows of R93 from its start and the channels of R253 from 0x100 on
(DESIGN CHOICE, log 156). -/
def clBlock : Nat := 0xF1000000000

/-- A register of a cluster as it reads (DESIGN CHOICE, log 156). -/
def State.clusterRead (s : State) (c o : Nat) : Option Word :=
  let half (v : Rec128) : Word := BitVec.ofNat 64 (if o % 16 = 0 then v.toNat else v.toNat / 2 ^ 64)
  if o < 0x80 then some (half (s.win c (o / 16)).word)
  else if 0x100 ≤ o ∧ o < 0x200 then some (half (s.chan c ((o - 0x100) / 16)).word)
  else none

/-- A register of a cluster written by firmware: only `ch_disable` takes a value (R93, R252, R253) (DESIGN CHOICE, log 156). -/
def State.clusterWrite (s : State) (c o : Nat) (v : Word) (pa : Nat) : Res :=
  if o < 0x80 then .next (s.woken c)
  else if 0x100 ≤ o ∧ o < 0x200 then
    (if o % 16 = 0 then .next ((s.woken c).chctl c ((o - 0x100) / 16) (bit1 v.toNat 0)) else .next (s.woken c))
  else .fault (.absentAddress pa)

/-- The status words of the queues that cross clock domains (R65) (DESIGN CHOICE, log 156). -/
def qBlock : Nat := 0xF0000210000

/-- The recovery, event and power registers (R392, R411, R439). -/
def State.blockWrite (s : State) (pa : Nat) (v : Word) : Res :=
  match pa with
  | 0xF0000201000 => .next { s with evt := { s.evt with base := clogBits v, head := 0, tail := 0 } }
  | 0xF0000201008 => .next s
  | 0xF0000201010 => .next { s with evt := { s.evt with tail := v.toNat % 2 ^ 32 } }
  | 0xF0000201018 => .next { s with evt := { s.evt with irq := irqBits v } }
  | 0xF0000202000 => .next s
  | 0xF0000202008 => execRack v s
  | 0xF0000202010 => .next { s with recov := { s.recov with irq := irqBits v } }
  | 0xF0000202018 => .next s
  | 0xF0000203000 => .next (s.pstateWrite v.toNat)
  | _ =>
    match if qBlock ≤ pa then queueAt (pa - qBlock) else none with
    | some q => .next (s.writeQueueStatus q v.toNat)
    | none => .fault (.absentAddress pa)

/-- REGISTER_WRITE: an 8-byte store into control space. A register of its own command has that command's meaning; read-only and reserved
places ignore it. Without power to answer, nothing happens (R437) (DEDUCED, log 10, DEDUCED, log 11, DEDUCED, log 102). -/
def execRegisterWrite (pa : BitVec 48) (v : Word) (s : State) : Res :=
  let a := pa.toNat
  if s.power.st = .s3 ∨ s.power.st = .s5 then .next s
  else if a % 8 ≠ 0 then .fault (.absentAddress a)
  else if 0xF0000200000 ≤ a ∧ a < 0xF0000201000 then s.ledgerWrite ((a - 0xF0000200000) / 0x100) ((a - 0xF0000200000) % 0x100) v
  else if 0xF0000100000 ≤ a ∧ a < 0xF0000100400 then s.xlateWrite ((a - 0xF0000100000) / 0x40) ((a - 0xF0000100000) % 0x40) v a
  else if clBlock ≤ a ∧ a < clBlock + 1088 * 0x1000 then
    (if s.padsOpen then s.clusterWrite ((a - clBlock) / 0x1000) ((a - clBlock) % 0x1000) v a else .next s)
  else s.blockWrite a v

/-! ### Reads -/

/-- A ledger register as it reads. -/
def State.ledgerRead (s : State) (p o : Nat) : Word :=
  let r := (s.pt p).regs
  match o with
  | 0x40 => r.append
  | 0x48 => BitVec.ofNat 64 (bn r.enable + 8 * bn r.halted + 16 * bn ((s.pt p).blk.isSome && s.holdsSet p))
  | 0x50 => BitVec.ofNat 64 r.abortSeq
  | 0x58 => r.pblk
  | 0x60 => r.clogBase
  | 0x68 => BitVec.ofNat 64 r.head
  | 0x70 => BitVec.ofNat 64 r.tail
  | 0x78 => r.irq
  | 0x80 => BitVec.ofNat 64 (r.lastSeq + r.lastTag * 2 ^ 48)
  | _ => 0

/-- The presented recovery record (R411). -/
def State.rrec (s : State) : Word :=
  match s.recov.recs with
  | [] => 0
  | r :: _ => BitVec.ofNat 64 (1 + r.kind * 2 + r.failed % 2048 * 2 ^ 4 + (r.repl.getD 0x7FF) * 2 ^ 15 + (r.parts.map fun p => 2 ^ p).sum * 2 ^ 26 + r.no * 2 ^ 42)

/-- A control register as it reads; nothing where the manual lays none. A read of APPEND is the command APPEND (DEDUCED, log 191). -/
def State.readReg (s : State) (a : Nat) : Option Word :=
  if 0xF0000200000 ≤ a ∧ a < 0xF0000201000 then some (s.ledgerRead ((a - 0xF0000200000) / 0x100) ((a - 0xF0000200000) % 0x100))
  else if 0xF0000100000 ≤ a ∧ a < 0xF0000100400 then
    (let x := (s.pt ((a - 0xF0000100000) / 0x40)).x
     match (a - 0xF0000100000) % 0x40 with
     | 0x00 => some x.xroot
     | 0x08 => some x.xkeys
     | 0x10 => some (if x.done then 2 else 0)
     | 0x18 => some x.fmap
     | 0x20 => some x.rlist
     | _ => none)
  else if clBlock ≤ a ∧ a < clBlock + 1088 * 0x1000 then s.clusterRead ((a - clBlock) / 0x1000) ((a - clBlock) % 0x1000)
  else match a with
  | 0xF0000201000 => some s.evt.base
  | 0xF0000201008 => some (BitVec.ofNat 64 s.evt.head)
  | 0xF0000201010 => some (BitVec.ofNat 64 s.evt.tail)
  | 0xF0000201018 => some s.evt.irq
  | 0xF0000202000 => some s.rrec
  | 0xF0000202008 => some 0
  | 0xF0000202010 => some s.recov.irq
  | 0xF0000202018 => some (BitVec.ofNat 64 (min 64 s.recov.recs.length))
  | 0xF0000203000 => some (BitVec.ofNat 64 (s.pstate + 32 * bn s.power.autoWake + 64 * bn s.power.s3Pend + ((s.dies.map fun e => s.throttle e.1).foldl max 0) * 2 ^ 8))
  | _ => (if qBlock ≤ a then queueAt (a - qBlock) else none).map s.queueStatus

end Sys2Proof.Machine
end

