-- ==== Sys2Proof/Machine/Packets.lean ====
section
/-! DEFINITION. Packets at their destinations (R343, R344, R354, R365): reads, writes, acknowledgements, notices, resends. -/

namespace Sys2Proof.Machine

/-! ### Answers to requests (R344, R354) -/

/-- NAK: nothing was applied; the source sends the packet again. The message names its tag and type; a reduce packet is named by its block too. A NAK whose own
check fails is a response like any other: the request is issued again (R344) (DESIGN CHOICE, log 216). -/
def execNak (p : Packet) (s : State) : Res :=
  let ty := bits p.msg.toNat 16 5
  if p.pcrc ≠ pktCheck p then .next (s.again p.dstEp p.tag [ty]) else
  .next (((s.keptOf p.dstEp p.tag ty).filter fun k => ty != 0x0B || k.p.addr == p.addr).foldl State.resend s)

/-- RETRY: the sender keeps the packet, its tag and its token, and sends it again after its interval (R354). The packet is that of the message's tag and type
which went to the place that answers. A RETRY whose own check fails says nothing: it is counted (R344) (DESIGN CHOICE, log 216). -/
def execRetry (p : Packet) (s : State) : Res :=
  let tag : BitVec 16 := BitVec.ofNat 16 (bits p.msg.toNat 0 16)
  let ty := bits p.msg.toNat 16 5
  if p.pcrc ≠ pktCheck p then .next (s.bump 0x5100 1 1) else
  .next ({ s with kept := s.kept.map fun (k : Kept) => if k.p.srcEp = p.dstEp ∧ k.p.dstEp = p.srcEp ∧ k.p.tag = tag ∧ k.p.ptype.toNat = ty then { k with retrying := true } else k }.bump 0x5100 4 1)

/-- RETRY_RESEND: the interval of a packet that was answered RETRY has passed. -/
def execRetryResend (ep tag : BitVec 16) (s : State) : Res :=
  let due (k : Kept) : Bool := k.p.srcEp == ep && k.p.tag == tag && k.retrying
  .next ((s.kept.filter due).foldl (fun s k => s.emit (.packet k.p))
    { s with kept := s.kept.map fun k => if due k then { k with retrying := false } else k })

/-! ### Where a request goes (R91, R256, R257, R278, R365) -/

/-- The range exists in the physical map and in this floor plan. -/
def State.exists? (s : State) (pa n : Nat) : Bool :=
  match regionOf pa with
  | .hbm => decide (pa + n ≤ s.hbmLen)
  | .pad .. => true
  | .cxl x o => decide (o + n ≤ Tab.look s.plan.cxlCap 0 x)
  | _ => false

/-- The places of a request: a physical address from this module; from another, a virtual one of its partition, translated here. A window of a
cluster that is not active, and a range that leaves a window, fault (R91) (DEDUCED, log 19). -/
def State.reqPieces (s : State) (p : Packet) (wr : Bool) (n : Nat) : Except Byte (List Piece) :=
  let a := p.addr.toNat
  if p.srcMod = 0xFF then
    match padCluster a with
    | some c => if (s.cl c).stat = .active ∧ (n = 0 ∨ padCluster (a + n - 1) = some c) then .ok [{ pa := a, n := n, hc := p.hc, guard := false }] else .error stXlate
    | none => .ok [{ pa := a, n := n, hc := p.hc, guard := false }]
  else if !s.peerOk p then .error stProtect
  else match p.phys with
  | some pa =>
    if p.dstEp.toNat < 0x2000 ∧ padCluster pa != some p.dstEp.toNat then .error stXlate else .ok [{ pa := pa, n := n, hc := p.hc, guard := false }]
  | none => match s.xl (s.ctxPart p.part.toNat) wr a n with
    | .error e => .error e
    | .ok ps => if p.dstEp.toNat < 0x2000 ∧ !(ps.all fun q => padCluster q.pa == some p.dstEp.toNat) then .error stXlate else .ok ps

/-- The module answers accesses: it is powered (R437) (DEDUCED, log 11). -/
def State.answers (s : State) : Bool := !(s.power.st == .s3 || s.power.st == .s5)

/-! ### READ_REQ and READ_RESP -/

/-- Read data, or a fault status in the message (R343) (DESIGN CHOICE, log 15). -/
def State.respond (s : State) (p : Packet) (status : Byte) (g : Got) : State :=
  s.emit (.packet (pktFinish (s.stamp { packetOf 0x01 1 p.srcEp p.dstEp p.srcMod p.part.toNat p.tag p.addr.toNat (status.setWidth 128) g.bytes with
    bad := g.bad, marks := g.marks })))

/-- A read of a control register; a read of APPEND appends (R374) (DEDUCED, log 24). -/
def State.readControl (s : State) (p : Packet) : Res :=
  let a := p.addr.toNat
  if a % 8 ≠ 0 then .fault (.absentAddress a) else
  let t := if 0xF0000200000 ≤ a ∧ a < 0xF0000201000 ∧ (a - 0xF0000200000) % 0x100 = 0x40 then resState s (execAppend ((a - 0xF0000200000) / 0x100) s) else s
  let own := decide (clBlock ≤ a) && decide (a < clBlock + 1088 * 0x1000)
  if own ∧ !s.padsOpen then .next s else
  let t := if own then t.woken ((a - clBlock) / 0x1000) else t
  match t.readReg a with
  | some v => .next (t.respond p 0 { bytes := natLe 8 v.toNat, bad := [], marks := [] })
  | none => .fault (.absentAddress a)

/-- READ_REQ: the message gives the length, at most 2 KiB. The hub's or the cluster's arrival order is the order of accesses (R261).
A host core's read of a sector that cannot be corrected raises an access fault there: it gets the status and no data (R398) (DEDUCED, log 10, DEDUCED, log 215). -/
def execReadReq (p : Packet) (s : State) : Res :=
  let n := min 2048 (p.msg.toNat % 65536)
  if !s.answers then .next s
  else if p.pcrc ≠ pktCheck p then .next (s.nak p)
  else if p.srcMod = 0xFF ∧ regionOf p.addr.toNat = .control then s.readControl p
  else if p.srcMod = 0xFF ∧ !s.exists? p.addr.toNat n then .fault (.absentAddress p.addr.toNat)
  else match s.reqPieces p false n with
    | .error e => .next (s.respond p e { bytes := [], bad := [], marks := [] })
    | .ok ps =>
      if !s.padsOpen && ps.any (fun q => (padCluster q.pa).isSome) then .next s else
      let g := s.gotPieces ps 0
      if p.srcMod = 0xFF ∧ p.srcEp.toNat / 8192 = 3 ∧ !g.bad.isEmpty then
        .next ((ps.foldl (fun s (q : Piece) => s.touch q.pa q.n q.hc) s).respond p stUncorrectable { bytes := [], bad := [], marks := [] })
      else
      let s := (ps.filterMap fun q => padCluster q.pa).foldl State.woken s
      .next ((ps.foldl (fun s (q : Piece) => s.touch q.pa q.n q.hc) s).respond p 0 g)

/-- The data of a refetch for its watched units: as it came, or for a widened read the tile's object formed again (R233, R243) (DEDUCED, log 91). -/
def State.refetched (s : State) (c : Nat) (w : Watch) (p : Packet) : Except Byte (List Byte × List Nat) × Byte :=
  match w.redo, (s.cl c).run with
  | none, _ => (.ok (p.payload, p.bad), 0)
  | some _, none => (.error stXlate, 0)
  | some (wb, n, d0), some r =>
    let x := r.ctx c
    let o := Job.exec (do
      let got ← (if aeOp wb = 1 then aeRead s x true n (rowLen (srcOf wb).fmt (wbCols wb))
        else aeSource s x c w.chan { wb := wb, part := r.part, seq := r.seq, next := n })
      match got with
      | .got g _ => do
        let o ← if aeOp wb = 1 then widenObject (srcOf wb).fmt (dstOf wb).fmt false 1 (wbCols wb) g else aeObject wb g
        Job.flag o.2
        pure (o.1.bytes.drop d0, (o.1.bad.filter fun b => d0 / 8 ≤ b).map fun b => b - d0 / 8)
      | .dropped m => Job.fail (markStatus m)
      | _ => Job.fail stXlate)
    (o.1, o.2.flags)

/-- Bytes put into an entry of a siding at an offset, with their poisoned words. -/
def TileEntry.patch (e : TileEntry) (off : Nat) (bs : List Byte) (bad : List Nat) : TileEntry :=
  let (w0, k) := wholeIn off bs.length 8
  { e with bytes := e.bytes.take off ++ bs ++ e.bytes.drop (off + bs.length),
           poisoned := (e.poisoned.filter fun b => !(w0 ≤ b && b < w0 + k)) ++ bad.map fun b => off / 8 + b }

/-- A refetch lands: on the units that are still watched, whose marks it clears and which stay watched (R241, R243). -/
def State.landRefetch (s : State) (c : Nat) (w : Watch) (bytes : List Byte) (bad : List Nat) : State :=
  let live := s.liveUnits c w
  let part (u : Nat) : Nat × List Byte × List Nat :=
    let lo := max (64 * u) w.dst
    let hi := min (64 * u + 64) (w.dst + w.len)
    (lo, (bytes.drop (lo - w.dst)).take (hi - lo), (bad.filter fun b => lo ≤ w.dst + 8 * b && w.dst + 8 * b < hi).map fun b => b - (lo - w.dst) / 8)
  match w.slot with
  | some k =>
    let put (e : TileEntry) : TileEntry := if e.ident = k then live.foldl (fun e u => e.patch (part u).1 (part u).2.1 (part u).2.2) e else e
    (s.updTileQ c 0x09 fun q => { q with entries := q.entries.map put }).markLive c w 0 false
  | none =>
    let t := live.foldl (fun s u => s.storeRaw { pa := (part u).1, bytes := (part u).2.1, bad := (part u).2.2 }) s
    { t with marks := live.foldl (fun m u => Tab.put m 0 u 0) t.marks, watched := live.foldl (fun m u => Tab.put m false u true) t.watched }

/-- The answer to a refetch. A notice since it was issued leaves the units STALE and issues a further one, up to the limit (DEDUCED, log 23); a fault
drops it (R237). -/
def State.endRefetch (s : State) (c : Nat) (w : Watch) (p : Packet) : State :=
  let dropped (e : Byte) : State :=
    let m := if e = stXlate then 1 else 2
    (s.refetchEnds c w m).bump 0x70A0 m 1
  let status : Byte := BitVec.ofNat 8 p.msg.toNat
  if status ≠ 0 then dropped status
  else if w.noticed then (if w.refetches < max 1 (s.cfg 0x2050 2) then s.refetch c w else s.refetchEnds c w 3)
  else
    let r := s.refetched c w p
    match r.1 with
    | .error e => dropped e
    | .ok (bs, bad) =>
      let t := (s.landRefetch c w bs bad).updWatch c w fun y => { y with pending := false, queued := false }
      match (s.cl c).run with
      | some q => t.joinFlags q.part q.seq r.2
      | none => t

/-- READ_RESP: the data of a request of this cluster, by its tag (R91) (DESIGN CHOICE, log 176). -/
def execReadResp (p : Packet) (s : State) : Res :=
  let c := p.dstEp.toNat
  if 0x2000 ≤ c then .next s
  else if (s.keptOf p.dstEp p.tag 0x00).isEmpty then .next s
  else if p.pcrc ≠ pktCheck p then .next (s.again p.dstEp p.tag [0x00])
  else
    let t := s.dropKept p.dstEp p.tag 0x00
    let t := t.updSt c fun x => { x with pend := x.pend.map fun r =>
      if r.tag = p.tag then { r with data := some (p.payload.take r.n), bad := p.bad, marks := p.marks, fault := BitVec.ofNat 8 p.msg.toNat } else r }
    match (t.cl c).watches.find? fun w => w.pending && w.tag == p.tag with
    | some w => .next ((t.endRefetch c w p).tagFreed c)
    | none => .next (t.tagFreed c)

/-! ### WRITE and ADD_PIECE -/

/-- The acknowledgement of a write: flags in [7:0] of the message, a fault status in [15:8] (DESIGN CHOICE, log 15). -/
def State.ackFault (s : State) (p : Packet) (status : Byte) : State :=
  s.emit (.packet (pktFinish (s.stamp (packetOf 0x03 1 p.srcEp p.dstEp p.srcMod p.part.toNat p.tag p.addr.toNat (BitVec.ofNat 128 (status.toNat * 256)) []))))

/-- A write to a cluster: a piece of a granule, refused or landed. A row that a COMMIT retains holds it back in the mesh (R289) (DEDUCED, log 21). -/
def State.writeCluster (s : State) (c : Nat) (p : Packet) : State :=
  if !s.peerOk p then s.ackFault p stProtect
  else if (s.cl c).stat ≠ .active then s.ackFault p stXlate
  else if !s.padsOpen then s
  else match s.pieceRefusal c p with
    | some r => (s.woken c).refusePiece c p r
    | none =>
      if s.retainedAt (granuleAt c (s.win c p.window.toNat) p.granule.toNat) 2048 (s.landExempt c) then s
      else (s.woken c).landWrite c p

/-- A write to HBM or the CXL tier: ordered at its hub, acknowledged after the notices it caused are (R240, R261). A scratchpad takes no
write without a token (R91) (DEDUCED, log 21). -/
def State.writeMem (s : State) (p : Packet) : State :=
  match s.reqPieces p true p.payload.length with
  | .error e => s.ackFault p e
  | .ok ps =>
    match ps.findSome? fun q => padCluster q.pa with
    | some c => s.refusePiece c p 1
    | none =>
      if ps.any fun q => s.lostIn q.pa q.n then s.ackFault p stUncorrectable
      else
        let ws := s.watchersOf (ps.map fun q => (q.pa, q.n))
        let t := (wrPieces ps p.payload 0 [] p.bad).foldl (fun s w => s.store w.1 w.2) s
        if ws.isEmpty then t.ackWrite p.dstEp p 0 else t.awaitAcks p.srcEp p.srcMod p.tag p.part.toNat ws

/-- WRITE. Into control space it is a register write, which a fenced host die can no longer make (R419) (DEDUCED, log 10). -/
def execWrite (p : Packet) (s : State) : Res :=
  if !s.answers then .next s
  else if p.pcrc ≠ pktCheck p then .next (s.nak p)
  else if p.dstEp.toNat < 0x2000 then .next (s.writeCluster p.dstEp.toNat p)
  else if p.srcMod = 0xFF ∧ regionOf p.addr.toNat = .control then
    (if s.fenced p.srcEp p.srcMod then .next s else
     if p.payload.length ≠ 8 then .fault (.absentAddress p.addr.toNat) else
     match execRegisterWrite p.addr (BitVec.ofNat 64 (leNat p.payload)) s with
     | .next t => .next (t.ackWrite p.dstEp p 0)
     | o => o)
  else if p.srcMod = 0xFF ∧ !s.exists? p.addr.toNat p.payload.length then .fault (.absentAddress p.addr.toNat)
  else .next (s.writeMem p)

/-- ADD_PIECE (R247, R248). -/
def execAddPiece (p : Packet) (s : State) : Res :=
  let c := p.dstEp.toNat
  if p.pcrc ≠ pktCheck p then .next (s.nak p)
  else if 0x2000 ≤ c then .next s
  else if !s.peerOk p then .next (s.ackFault p stProtect)
  else if (s.cl c).stat ≠ .active then .next (s.ackFault p stXlate)
  else if !s.padsOpen then .next s
  else if s.retainedAt (padOf c + (bits (s.landDesc c p.window.toNat) 1 12 + p.addr.toNat) * 2048) 2048 (s.landExempt c) then .next s
  else .next ((s.woken c).addArrive c p)

/-- Flags of an addition whose waybill has left its siding join the consignment that still runs on the cluster (R36, R247). -/
def State.lateFlags (s : State) (c : Nat) (mine : List Kept) (p : Packet) : State :=
  match (s.cl c).run with
  | some r => if mine.any fun k => k.p.ptype == 0x04 && k.p.part.toNat == r.part then s.joinFlags r.part r.seq (BitVec.ofNat 8 p.msg.toNat) else s
  | none => s

/-- WR_ACK: one write of the channel that its tag names is acknowledged; flags join the waybill's, a fault status fails it (R247, R249) (DESIGN CHOICE, log 17).
A status byte that is a reserved code of R75 is reported as it stands, here and from a READ_RESP (R8) (DESIGN CHOICE, log 176). -/
def execWrAck (p : Packet) (s : State) : Res :=
  let c := p.dstEp.toNat
  let chan := p.tag.toNat % 8
  let mine := (s.keptOf p.dstEp p.tag 0x02) ++ (s.keptOf p.dstEp p.tag 0x04)
  if p.pcrc ≠ pktCheck p then .next (s.again p.dstEp p.tag [0x02, 0x04])
  else
    let t := (s.dropKept p.dstEp p.tag 0x02).dropKept p.dstEp p.tag 0x04
    let t := if c < 0x2000 then t.tagFreed c else t
    if 0x2000 ≤ c ∨ (mine.isEmpty ∧ !(p.srcMod == 0xFF && p.srcEp.toNat / 8192 == 1)) then .next t
    else match t.headWb c 1 chan with
      | some e =>
        if e.acks = 0 then .next (t.lateFlags c mine p) else
        let t := t.updWb c 1 chan fun e => { e with acks := e.acks - 1, flags := e.flags ||| BitVec.ofNat 8 p.msg.toNat }
        let status : Byte := BitVec.ofNat 8 (bits p.msg.toNat 8 8)
        .next (if status = 0 then t else t.failChan c (8 + chan) status)
      | none => .next (t.lateFlags c mine p)

/-- NOTICE_ACK at a hub: the write that caused the notice is acknowledged once every watcher has answered (R240). -/
def execNoticeAck (p : Packet) (s : State) : Res :=
  let h := p.dstEp.toNat % 8192
  let c := p.srcEp.toNat
  let region := p.addr.toNat / 4096
  let mine (k : Kept) : Bool := k.p.srcEp == p.dstEp && k.p.dstEp == p.srcEp && k.p.ptype == 0x07 && k.p.addr.toNat / 4096 == region
  if p.pcrc ≠ pktCheck p then .next (match s.kept.find? mine with
    | some k => (s.bump 0x5100 1 1).resend k
    | none => s.bump 0x5100 1 1)
  else
    let s := { s with kept := s.kept.eraseP mine }
    let hit (a : PendAck) : Bool := a.region == region && a.waiting.contains c
    match (s.hub h).acks.find? hit with
    | none => .next s
    | some a =>
      let left := a.waiting.erase c
      if !left.isEmpty then .next (s.updHub h fun b => { b with acks := mapFirst hit (fun x => { x with waiting := left }) b.acks })
      else
        let t := s.updHub h fun b => { b with acks := b.acks.erase a }
        if a.who ≠ 1 then .next t else
        .next (t.emit (.packet (pktFinish (t.stamp (packetOf 0x03 1 a.dst p.dstEp a.dstMod a.part a.tag (region * 4096) 0 [])))))

end Sys2Proof.Machine
end

