-- ==== Sys2Proof/Machine/Dispatch.lean ====
section
/-! DEFINITION. One arm for each command: a direct call of its meaning. -/

namespace Sys2Proof.Machine

/-- A command's effect on everything but the queue. -/
def exec (i : Instr) (s : State) : Host.Outcome State Fault Refusal :=
  match i with
  | .add c rd ra rb => Sys2Proof.Machine.execAdd c rd ra rb s
  | .sub c rd ra rb => Sys2Proof.Machine.execSub c rd ra rb s
  | .and c rd ra rb => Sys2Proof.Machine.execAnd c rd ra rb s
  | .or c rd ra rb => Sys2Proof.Machine.execOr c rd ra rb s
  | .xor c rd ra rb => Sys2Proof.Machine.execXor c rd ra rb s
  | .shl c rd ra rb => Sys2Proof.Machine.execShl c rd ra rb s
  | .shr c rd ra rb => Sys2Proof.Machine.execShr c rd ra rb s
  | .sra c rd ra rb => Sys2Proof.Machine.execSra c rd ra rb s
  | .mul c rd ra rb => Sys2Proof.Machine.execMul c rd ra rb s
  | .minu c rd ra rb => Sys2Proof.Machine.execMinu c rd ra rb s
  | .maxu c rd ra rb => Sys2Proof.Machine.execMaxu c rd ra rb s
  | .slt c rd ra rb => Sys2Proof.Machine.execSlt c rd ra rb s
  | .sltu c rd ra rb => Sys2Proof.Machine.execSltu c rd ra rb s
  | .addi c rd ra imm => Sys2Proof.Machine.execAddi c rd ra imm s
  | .andi c rd ra imm => Sys2Proof.Machine.execAndi c rd ra imm s
  | .ori c rd ra imm => Sys2Proof.Machine.execOri c rd ra imm s
  | .xori c rd ra imm => Sys2Proof.Machine.execXori c rd ra imm s
  | .shli c rd ra sh => Sys2Proof.Machine.execShli c rd ra sh s
  | .shri c rd ra sh => Sys2Proof.Machine.execShri c rd ra sh s
  | .srai c rd ra sh => Sys2Proof.Machine.execSrai c rd ra sh s
  | .liw c rd value => Sys2Proof.Machine.execLiw c rd value s
  | .ld c rd ra imm => Sys2Proof.Machine.execLd c rd ra imm s
  | .lw c rd ra imm => Sys2Proof.Machine.execLw c rd ra imm s
  | .st c rd ra imm => Sys2Proof.Machine.execSt c rd ra imm s
  | .sw c rd ra imm => Sys2Proof.Machine.execSw c rd ra imm s
  | .beq c ra rb off => Sys2Proof.Machine.execBeq c ra rb off s
  | .bne c ra rb off => Sys2Proof.Machine.execBne c ra rb off s
  | .blt c ra rb off => Sys2Proof.Machine.execBlt c ra rb off s
  | .bge c ra rb off => Sys2Proof.Machine.execBge c ra rb off s
  | .bltu c ra rb off => Sys2Proof.Machine.execBltu c ra rb off s
  | .bgeu c ra rb off => Sys2Proof.Machine.execBgeu c ra rb off s
  | .jmp c off => Sys2Proof.Machine.execJmp c off s
  | .jr c ra => Sys2Proof.Machine.execJr c ra s
  | .post c n => Sys2Proof.Machine.execPost c n s
  | .wait c n ra => Sys2Proof.Machine.execWait c n ra s
  | .waitRelease c station chan => Sys2Proof.Machine.execWaitRelease c station chan s
  | .waitTimeout c station chan elapsedMs => Sys2Proof.Machine.execWaitTimeout c station chan elapsedMs s
  | .rdctr c rd n => Sys2Proof.Machine.execRdctr c rd n s
  | .readq c rd q => Sys2Proof.Machine.execReadq c rd q s
  | .qstat c rd q => Sys2Proof.Machine.execQstat c rd q s
  | .qctl c ra q => Sys2Proof.Machine.execQctl c ra q s
  | .issue c station ra patches => Sys2Proof.Machine.execIssue c station ra patches s
  | .endT c => Sys2Proof.Machine.execEndT c s
  | .endComplete c => Sys2Proof.Machine.execEndComplete c s
  | .windowOpen c w ra => Sys2Proof.Machine.execWindowOpen c w ra s
  | .windowClose c w ra => Sys2Proof.Machine.execWindowClose c w ra s
  | .windowClosed c w => Sys2Proof.Machine.execWindowClosed c w s
  | .release c w ra => Sys2Proof.Machine.execRelease c w ra s
  | .landcfg c w ra => Sys2Proof.Machine.execLandcfg c w ra s
  | .draincfg c d ra => Sys2Proof.Machine.execDraincfg c d ra s
  | .sdraincfg c d ra => Sys2Proof.Machine.execSdraincfg c d ra s
  | .vkerncfg c d ra => Sys2Proof.Machine.execVkerncfg c d ra s
  | .chctlDisable c chan src => Sys2Proof.Machine.execChctlDisable c chan src s
  | .chctlEnable c chan src => Sys2Proof.Machine.execChctlEnable c chan src s
  | .carrySet c ra => Sys2Proof.Machine.execCarrySet c ra s
  | .carryClear c ra => Sys2Proof.Machine.execCarryClear c ra s
  | .pbufState c rd ra rb => Sys2Proof.Machine.execPbufState c rd ra rb s
  | .pbufWc c rd ra rb => Sys2Proof.Machine.execPbufWc c rd ra rb s
  | .pbufMepoch c rd ra rb => Sys2Proof.Machine.execPbufMepoch c rd ra rb s
  | .pbufTag c rd ra rb => Sys2Proof.Machine.execPbufTag c rd ra rb s
  | .illegalInstruction c cause => Sys2Proof.Machine.execIllegalInstruction c cause s
  | .waybillAtHead c station chan => Sys2Proof.Machine.execWaybillAtHead c station chan s
  | .waybillStart c station chan => Sys2Proof.Machine.execWaybillStart c station chan s
  | .waybillComplete c station chan => Sys2Proof.Machine.execWaybillComplete c station chan s
  | .consignmentStop c => Sys2Proof.Machine.execConsignmentStop c s
  | .queueRead q => Sys2Proof.Machine.execQueueRead q s
  | .queueWrite q v => Sys2Proof.Machine.execQueueWrite q v s
  | .entryArrivalComplete c q ok => Sys2Proof.Machine.execEntryArrivalComplete c q ok s
  | .stationEvent st ev => Sys2Proof.Machine.execStationEvent st ev s
  | .agePromotion c requester denied => Sys2Proof.Machine.execAgePromotion c requester denied s
  | .coalesceIdleWriteback c chunk idle => Sys2Proof.Machine.execCoalesceIdleWriteback c chunk idle s
  | .eccCorrectionWriteback c word => Sys2Proof.Machine.execEccCorrectionWriteback c word s
  | .scrubPass c => Sys2Proof.Machine.execScrubPass c s
  | .tokenReq p => Sys2Proof.Machine.execTokenReq p s
  | .tokenGrant p => Sys2Proof.Machine.execTokenGrant p s
  | .tokenReturn p => Sys2Proof.Machine.execTokenReturn p s
  | .refused p => Sys2Proof.Machine.execRefused p s
  | .zeroFinal c => Sys2Proof.Machine.execZeroFinal c s
  | .zeroPartial c => Sys2Proof.Machine.execZeroPartial c s
  | .loadPartial c => Sys2Proof.Machine.execLoadPartial c s
  | .loadFinal c => Sys2Proof.Machine.execLoadFinal c s
  | .matrixPassEnd c sparse upset => Sys2Proof.Machine.execMatrixPassEnd c sparse upset s
  | .sparseZeroFinal c => Sys2Proof.Machine.execSparseZeroFinal c s
  | .sparseZeroPartial c => Sys2Proof.Machine.execSparseZeroPartial c s
  | .sparseLoadPartial c => Sys2Proof.Machine.execSparseLoadPartial c s
  | .sparseLoadFinal c => Sys2Proof.Machine.execSparseLoadFinal c s
  | .vEnd c => Sys2Proof.Machine.execVEnd c s
  | .vMov c => Sys2Proof.Machine.execVMov c s
  | .vAdd c => Sys2Proof.Machine.execVAdd c s
  | .vSub c => Sys2Proof.Machine.execVSub c s
  | .vMul c => Sys2Proof.Machine.execVMul c s
  | .vFma c => Sys2Proof.Machine.execVFma c s
  | .vMin c => Sys2Proof.Machine.execVMin c s
  | .vMax c => Sys2Proof.Machine.execVMax c s
  | .vAbs c => Sys2Proof.Machine.execVAbs c s
  | .vNeg c => Sys2Proof.Machine.execVNeg c s
  | .vDiv c => Sys2Proof.Machine.execVDiv c s
  | .vRcp c => Sys2Proof.Machine.execVRcp c s
  | .vSqrt c => Sys2Proof.Machine.execVSqrt c s
  | .vRsqrt c => Sys2Proof.Machine.execVRsqrt c s
  | .vExp2 c => Sys2Proof.Machine.execVExp2 c s
  | .vLog2 c => Sys2Proof.Machine.execVLog2 c s
  | .vTbl c => Sys2Proof.Machine.execVTbl c s
  | .vCmp c => Sys2Proof.Machine.execVCmp c s
  | .vSel c => Sys2Proof.Machine.execVSel c s
  | .vSwp c => Sys2Proof.Machine.execVSwp c s
  | .vCvt c => Sys2Proof.Machine.execVCvt c s
  | .vRsum c => Sys2Proof.Machine.execVRsum c s
  | .vRmax c => Sys2Proof.Machine.execVRmax c s
  | .vRmin c => Sys2Proof.Machine.execVRmin c s
  | .vCsum c => Sys2Proof.Machine.execVCsum c s
  | .vCmax c => Sys2Proof.Machine.execVCmax c s
  | .lds c => Sys2Proof.Machine.execLds c s
  | .ldt c => Sys2Proof.Machine.execLdt c s
  | .sts c => Sys2Proof.Machine.execSts c s
  | .topk c => Sys2Proof.Machine.execTopk c s
  | .sample c => Sys2Proof.Machine.execSample c s
  | .sreset c => Sys2Proof.Machine.execSreset c s
  | .ttCopy c => Sys2Proof.Machine.execTtCopy c s
  | .transpose c => Sys2Proof.Machine.execTranspose c s
  | .transposeIp c => Sys2Proof.Machine.execTransposeIp c s
  | .permute c => Sys2Proof.Machine.execPermute c s
  | .expand c => Sys2Proof.Machine.execExpand c s
  | .encode c => Sys2Proof.Machine.execEncode c s
  | .ttGather c => Sys2Proof.Machine.execTtGather c s
  | .ttScatter c => Sys2Proof.Machine.execTtScatter c s
  | .ttScatterAdd c => Sys2Proof.Machine.execTtScatterAdd c s
  | .dropout c => Sys2Proof.Machine.execDropout c s
  | .load c chan => Sys2Proof.Machine.execLoad c chan s
  | .gather c chan => Sys2Proof.Machine.execGather c chan s
  | .store c chan => Sys2Proof.Machine.execStore c chan s
  | .scatter c chan => Sys2Proof.Machine.execScatter c chan s
  | .scatterAdd c chan => Sys2Proof.Machine.execScatterAdd c chan s
  | .staleNotice c region => Sys2Proof.Machine.execStaleNotice c region s
  | .lostWatchNotice c region => Sys2Proof.Machine.execLostWatchNotice c region s
  | .refetchLimit c k => Sys2Proof.Machine.execRefetchLimit c k s
  | .completionRecordPush c engine => Sys2Proof.Machine.execCompletionRecordPush c engine s
  | .readReq p => Sys2Proof.Machine.execReadReq p s
  | .readResp p => Sys2Proof.Machine.execReadResp p s
  | .write p => Sys2Proof.Machine.execWrite p s
  | .wrAck p => Sys2Proof.Machine.execWrAck p s
  | .noticeAck p => Sys2Proof.Machine.execNoticeAck p s
  | .nak p => Sys2Proof.Machine.execNak p s
  | .retry p => Sys2Proof.Machine.execRetry p s
  | .retryResend ep tag => Sys2Proof.Machine.execRetryResend ep tag s
  | .packetForward n p => Sys2Proof.Machine.execPacketForward n p s
  | .redUp l p => Sys2Proof.Machine.execRedUp l p s
  | .redDown l p => Sys2Proof.Machine.execRedDown l p s
  | .commitPartials part mod k clip sq nf => Sys2Proof.Machine.execCommitPartials part mod k clip sq nf s
  | .rerunNotice note => Sys2Proof.Machine.execRerunNotice note s
  | .pageWalkComplete c part va => Sys2Proof.Machine.execPageWalkComplete c part va s
  | .xrootWrite part v => Sys2Proof.Machine.execXrootWrite part v s
  | .xinvAll part => Sys2Proof.Machine.execXinvAll part s
  | .xinvPage part page => Sys2Proof.Machine.execXinvPage part page s
  | .invalidationDone part => Sys2Proof.Machine.execInvalidationDone part s
  | .step c => Sys2Proof.Machine.execStep c s
  | .reduce c => Sys2Proof.Machine.execReduce c s
  | .pendingWriteGate c => Sys2Proof.Machine.execPendingWriteGate c s
  | .run part seq => Sys2Proof.Machine.execRun part seq s
  | .copy part seq => Sys2Proof.Machine.execCopy part seq s
  | .maskUpdate part seq => Sys2Proof.Machine.execMaskUpdate part seq s
  | .maskFlip part => Sys2Proof.Machine.execMaskFlip part s
  | .commit part seq => Sys2Proof.Machine.execCommit part seq s
  | .speculativeStart part seq => Sys2Proof.Machine.execSpeculativeStart part seq s
  | .driftSample c => Sys2Proof.Machine.execDriftSample c s
  | .phase part seq => Sys2Proof.Machine.execPhase part seq s
  | .snapshot part seq => Sys2Proof.Machine.execSnapshot part seq s
  | .fence part seq => Sys2Proof.Machine.execFence part seq s
  | .nop part seq => Sys2Proof.Machine.execNop part seq s
  | .consignmentComplete part seq => Sys2Proof.Machine.execConsignmentComplete part seq s
  | .logRecord part => Sys2Proof.Machine.execLogRecord part s
  | .append part => Sys2Proof.Machine.execAppend part s
  | .pctlEnable part v => Sys2Proof.Machine.execPctlEnable part v s
  | .pctlInit part => Sys2Proof.Machine.execPctlInit part s
  | .pctlResume part => Sys2Proof.Machine.execPctlResume part s
  | .hostAbort part a => Sys2Proof.Machine.execHostAbort part a s
  | .pblkWrite part v => Sys2Proof.Machine.execPblkWrite part v s
  | .pblkLatch part => Sys2Proof.Machine.execPblkLatch part s
  | .clogBaseWrite part v => Sys2Proof.Machine.execClogBaseWrite part v s
  | .clogBaseLatch part => Sys2Proof.Machine.execClogBaseLatch part s
  | .fmapWrite part v => Sys2Proof.Machine.execFmapWrite part v s
  | .fmapLatch part => Sys2Proof.Machine.execFmapLatch part s
  | .registerWrite pa v => Sys2Proof.Machine.execRegisterWrite pa v s
  | .rack v => Sys2Proof.Machine.execRack v s
  | .checkpointFlush c => Sys2Proof.Machine.execCheckpointFlush c s
  | .clusterFault f => Sys2Proof.Machine.execClusterFault f s
  | .handshakeTimeout c us => Sys2Proof.Machine.execHandshakeTimeout c us s
  | .dieLoss die junctionOk cutOff => Sys2Proof.Machine.execDieLoss die junctionOk cutOff s
  | .hubLoss h => Sys2Proof.Machine.execHubLoss h s
  | .mirrorRebuilt part => Sys2Proof.Machine.execMirrorRebuilt part s
  | .stackLoss m => Sys2Proof.Machine.execStackLoss m s
  | .cxlPortLoss x => Sys2Proof.Machine.execCxlPortLoss x s
  | .portDown p => Sys2Proof.Machine.execPortDown p s
  | .linkDieLoss l => Sys2Proof.Machine.execLinkDieLoss l s
  | .hostDieLoss => Sys2Proof.Machine.execHostDieLoss s
  | .heartbeatTimeout ms => Sys2Proof.Machine.execHeartbeatTimeout ms s
  | .sdFault => Sys2Proof.Machine.execSdFault s
  | .aocMismatch => Sys2Proof.Machine.execAocMismatch s
  | .computeReset die => Sys2Proof.Machine.execComputeReset die s
  | .fabricReset die => Sys2Proof.Machine.execFabricReset die s
  | .junctionEmpty die => Sys2Proof.Machine.execJunctionEmpty die s
  | .junctionDrainTimeout die => Sys2Proof.Machine.execJunctionDrainTimeout die s
  | .sflFlit p fecOk bytes => Sys2Proof.Machine.execSflFlit p fecOk bytes s
  | .portRetrain p => Sys2Proof.Machine.execPortRetrain p s
  | .retrainDone p ok => Sys2Proof.Machine.execRetrainDone p ok s
  | .identityFlit p ident peerPort => Sys2Proof.Machine.execIdentityFlit p ident peerPort s
  | .laneSignalLoss p lane => Sys2Proof.Machine.execLaneSignalLoss p lane s
  | .laneErrorThreshold p lane rate => Sys2Proof.Machine.execLaneErrorThreshold p lane rate s
  | .spareLaneTrained p => Sys2Proof.Machine.execSpareLaneTrained p s
  | .clusterIdleStop c us => Sys2Proof.Machine.execClusterIdleStop c us s
  | .clusterWake c => Sys2Proof.Machine.execClusterWake c s
  | .pllLockFail c => Sys2Proof.Machine.execPllLockFail c s
  | .powerCapControl avgW => Sys2Proof.Machine.execPowerCapControl avgW s
  | .thermalSample temps => Sys2Proof.Machine.execThermalSample temps s
  | .flowLowTimeout => Sys2Proof.Machine.execFlowLowTimeout s
  | .powerApplied mv => Sys2Proof.Machine.execPowerApplied mv s
  | .chargeComplete => Sys2Proof.Machine.execChargeComplete s
  | .inputLoss => Sys2Proof.Machine.execInputLoss s
  | .inputReturn mv => Sys2Proof.Machine.execInputReturn mv s
  | .holdupExpiry => Sys2Proof.Machine.execHoldupExpiry s
  | .overvoltage => Sys2Proof.Machine.execOvervoltage s
  | .singleFeed lostB => Sys2Proof.Machine.execSingleFeed lostB s
  | .lowInput mv => Sys2Proof.Machine.execLowInput mv s
  | .pwrWarnAssert => Sys2Proof.Machine.execPwrWarnAssert s
  | .partnerSealAck => Sys2Proof.Machine.execPartnerSealAck s
  | .pwrWarnRelease => Sys2Proof.Machine.execPwrWarnRelease s
  | .requestS2 => Sys2Proof.Machine.execRequestS2 s
  | .s2Entry => Sys2Proof.Machine.execS2Entry s
  | .wakeRequest => Sys2Proof.Machine.execWakeRequest s
  | .autoWake => Sys2Proof.Machine.execAutoWake s
  | .wakeDone => Sys2Proof.Machine.execWakeDone s
  | .requestS3 => Sys2Proof.Machine.execRequestS3 s
  | .s3Ok => Sys2Proof.Machine.execS3Ok s
  | .s3GraceExpiry => Sys2Proof.Machine.execS3GraceExpiry s
  | .s3Wake => Sys2Proof.Machine.execS3Wake s
  | .fuseScanDone r => Sys2Proof.Machine.execFuseScanDone r s
  | .hbmStackTested m ok => Sys2Proof.Machine.execHbmStackTested m ok s
  | .firmwareBroadcast good => Sys2Proof.Machine.execFirmwareBroadcast good s
  | .clusterDigestTimeout c => Sys2Proof.Machine.execClusterDigestTimeout c s
  | .l1Reached => Sys2Proof.Machine.execL1Reached s
  | .l2Reached => Sys2Proof.Machine.execL2Reached s
  | .mdpRead path u => Sys2Proof.Machine.execMdpRead path u s
  | .mdpWrite path u => Sys2Proof.Machine.execMdpWrite path u s
  | .mdpAbort path u => Sys2Proof.Machine.execMdpAbort path u s
  | .mdpNop path u => Sys2Proof.Machine.execMdpNop path u s
  | .claimTimeout sess => Sys2Proof.Machine.execClaimTimeout sess s
  | .latchTimeout sess => Sys2Proof.Machine.execLatchTimeout sess s
  | .sessionIdleTimeout sess => Sys2Proof.Machine.execSessionIdleTimeout sess s
  | .dtlsHandshake anchor cas leaf => Sys2Proof.Machine.execDtlsHandshake anchor cas leaf s
  | .sessionKeyUpdate sess => Sys2Proof.Machine.execSessionKeyUpdate sess s
  | .setSwap => Sys2Proof.Machine.execSetSwap s
  | .setCopy => Sys2Proof.Machine.execSetCopy s
  | .setCancel => Sys2Proof.Machine.execSetCancel s
  | .swapPoint => Sys2Proof.Machine.execSwapPoint s
  | .swapTimeout ms => Sys2Proof.Machine.execSwapTimeout ms s
  | .getVersion path u => Sys2Proof.Machine.execGetVersion path u s
  | .getCapabilities path u => Sys2Proof.Machine.execGetCapabilities path u s
  | .negotiateAlgorithms path u => Sys2Proof.Machine.execNegotiateAlgorithms path u s
  | .getDigests path u => Sys2Proof.Machine.execGetDigests path u s
  | .getCertificate path u => Sys2Proof.Machine.execGetCertificate path u s
  | .challenge path u => Sys2Proof.Machine.execChallenge path u s
  | .getMeasurements path u => Sys2Proof.Machine.execGetMeasurements path u s
  | .keyExchange path u => Sys2Proof.Machine.execKeyExchange path u s
  | .finish path u => Sys2Proof.Machine.execFinish path u s
  | .heartbeat path u => Sys2Proof.Machine.execHeartbeat path u s
  | .keyUpdate path u => Sys2Proof.Machine.execKeyUpdate path u s
  | .endSession path u => Sys2Proof.Machine.execEndSession path u s
  | .reportNonceWrite nonce => Sys2Proof.Machine.execReportNonceWrite nonce s
  | .attestationReportRead sess => Sys2Proof.Machine.execAttestationReportRead sess s
  | .debugToken obj => Sys2Proof.Machine.execDebugToken obj s
  | .anchorUpdate overBus obj => Sys2Proof.Machine.execAnchorUpdate overBus obj s
  | .revocation obj => Sys2Proof.Machine.execRevocation obj s
  | .counterAdvance cls v => Sys2Proof.Machine.execCounterAdvance cls v s
  | .verify cls => Sys2Proof.Machine.execVerify cls s
  | .verifyDone cls => Sys2Proof.Machine.execVerifyDone cls s
  | .activate cls => Sys2Proof.Machine.execActivate cls s
  | .abandon cls => Sys2Proof.Machine.execAbandon cls s
  | .clearFailureMarks => Sys2Proof.Machine.execClearFailureMarks s
  | .clearFaultCode => Sys2Proof.Machine.execClearFaultCode s
  | .shortPress => Sys2Proof.Machine.execShortPress s
  | .drainSettled => Sys2Proof.Machine.execDrainSettled s
  | .drainLimit => Sys2Proof.Machine.execDrainLimit s
  | .triplePress => Sys2Proof.Machine.execTriplePress s
  | .presenceExpiry => Sys2Proof.Machine.execPresenceExpiry s
  | .forcedStandby => Sys2Proof.Machine.execForcedStandby s
  | .latchTouch conn => Sys2Proof.Machine.execLatchTouch conn s
  | .latchRelease conn => Sys2Proof.Machine.execLatchRelease conn s
  | .displayRedraw => Sys2Proof.Machine.execDisplayRedraw s
  | .addPiece p => Sys2Proof.Machine.execAddPiece p s
  | .geometryAdvanceNotice part => Sys2Proof.Machine.execGeometryAdvanceNotice part s
  | .dieToDiePortDown die side => Sys2Proof.Machine.execDieToDiePortDown die side s
  | .cxlPortRetrained x lossReported => Sys2Proof.Machine.execCxlPortRetrained x lossReported s
  | .coolantSample inlet outlet flow => Sys2Proof.Machine.execCoolantSample inlet outlet flow s
  | .singleFeedEnd => Sys2Proof.Machine.execSingleFeedEnd s
  | .connectorDrained conn => Sys2Proof.Machine.execConnectorDrained conn s
  | .cblPresNChange conn seated => Sys2Proof.Machine.execCblPresNChange conn seated s
  | .l0Reached => Sys2Proof.Machine.execL0Reached s
  | .sdRestart => Sys2Proof.Machine.execSdRestart s
  | .computeResetEnd die => Sys2Proof.Machine.execComputeResetEnd die s
  | .dieReturn die => Sys2Proof.Machine.execDieReturn die s

end Sys2Proof.Machine
end

