-- ==== Sys2Proof/WellFormed.lean ====
section
/-! DEFINITION. Well-formed commands: every number names something that the module has. -/

namespace Sys2Proof

/-- A number below a bound: a cluster index (R12), a partition, a die, a station code (R45), a channel, a hub, a link die, a port (R13), a lane,
a connector, an image class. -/
def inRange (v n : Nat) : Bool := decide (v < n)

/-- A packet's payload fills at most the units that its header names, 32 at most (R341, R342). -/
def packetWf (p : Packet) : Bool := decide (p.lenUnits.toNat ≤ 32) && decide (p.payload.length ≤ 64 * p.lenUnits.toNat)

/-- A place that forwards packets. -/
def nodeWf : Node → Bool
  | .junction d => inRange d 64
  | .linkDie l => inRange l 8

/-- A queue that exists: completion queues are 0x0C and 0x0D (R60). -/
def queueWf : QueueRef → Bool
  | .completion c q => inRange c 1088 && (q == 0x0C || q == 0x0D)
  | .events d => inRange d 64
  | .mailToAoc | .mailToHost | .mdpRx => true

/-- An MDP unit carries the bytes that its header counts (R469). -/
def unitWf (u : MdpUnit) : Bool := u.data.length == u.len.toNat

/-- A datagram names a session, numbered from 1; session 0 is the service bus (R468). -/
def pathWf : MdpPath → Bool
  | .udp sess => sess != 0
  | .bus _ _ _ => true

/-- An MDP unit that carries the SPDM request of a code (R458, R470). -/
def spdmWf (code : Byte) (u : MdpUnit) : Bool := unitWf u && u.data[1]? == some code

/-- A command is well formed. -/
def wellFormed : Instr → Bool
  | .add c _ _ _ | .sub c _ _ _ | .and c _ _ _ | .or c _ _ _ | .xor c _ _ _ | .shl c _ _ _ | .shr c _ _ _ | .sra c _ _ _ | .mul c _ _ _
  | .minu c _ _ _ | .maxu c _ _ _ | .slt c _ _ _ | .sltu c _ _ _ | .addi c _ _ _ | .andi c _ _ _ | .ori c _ _ _ | .xori c _ _ _
  | .shli c _ _ _ | .shri c _ _ _ | .srai c _ _ _ | .liw c _ _ | .ld c _ _ _ | .lw c _ _ _ | .st c _ _ _ | .sw c _ _ _ | .beq c _ _ _
  | .bne c _ _ _ | .blt c _ _ _ | .bge c _ _ _ | .bltu c _ _ _ | .bgeu c _ _ _ | .jmp c _ | .jr c _ | .post c _ | .wait c _ _
  | .rdctr c _ _ | .readq c _ _ | .qstat c _ _ | .qctl c _ _ | .endT c | .endComplete c | .windowOpen c _ _ | .windowClose c _ _
  | .windowClosed c _ | .release c _ _ | .landcfg c _ _ | .draincfg c _ _ | .sdraincfg c _ _ | .vkerncfg c _ _ | .chctlDisable c _ _
  | .chctlEnable c _ _ | .carrySet c _ | .carryClear c _ | .pbufState c _ _ _ | .pbufWc c _ _ _ | .pbufMepoch c _ _ _ | .pbufTag c _ _ _
  | .illegalInstruction c _ | .consignmentStop c | .agePromotion c _ _ | .coalesceIdleWriteback c _ _ | .eccCorrectionWriteback c _
  | .scrubPass c | .zeroFinal c | .zeroPartial c | .loadPartial c | .loadFinal c | .matrixPassEnd c _ _ | .sparseZeroFinal c
  | .sparseZeroPartial c | .sparseLoadPartial c | .sparseLoadFinal c | .vEnd c | .vMov c | .vAdd c | .vSub c | .vMul c | .vFma c | .vMin c
  | .vMax c | .vAbs c | .vNeg c | .vDiv c | .vRcp c | .vSqrt c | .vRsqrt c | .vExp2 c | .vLog2 c | .vTbl c | .vCmp c | .vSel c | .vSwp c
  | .vCvt c | .vRsum c | .vRmax c | .vRmin c | .vCsum c | .vCmax c | .lds c | .ldt c | .sts c | .topk c | .sample c | .sreset c | .ttCopy c
  | .transpose c | .transposeIp c | .permute c | .expand c | .encode c | .ttGather c | .ttScatter c | .ttScatterAdd c | .dropout c
  | .load c _ | .gather c _ | .store c _ | .scatter c _ | .scatterAdd c _ | .staleNotice c _ | .lostWatchNotice c _ | .refetchLimit c _
  | .completionRecordPush c _ | .step c | .reduce c | .pendingWriteGate c | .driftSample c | .checkpointFlush c | .clusterFault ⟨c, _⟩
  | .handshakeTimeout c _ | .clusterIdleStop c _ | .clusterWake c | .pllLockFail c | .clusterDigestTimeout c => inRange c 1088
  | .waitRelease c station chan | .waitTimeout c station chan _ => inRange c 1088 && station.all (fun k => inRange k 7) && inRange chan 8
  | .issue c _ _ patches => inRange c 1088 && decide (patches.length ≤ 7)
  | .waybillAtHead c station chan | .waybillStart c station chan | .waybillComplete c station chan => inRange c 1088 && inRange station 7 && inRange chan 8
  | .queueRead q | .queueWrite q _ => queueWf q
  | .entryArrivalComplete c q _ => inRange c 1088 && inRange q 16
  | .stationEvent ⟨c, station⟩ _ => inRange c 1088 && inRange station 7
  | .computeReset die | .fabricReset die | .junctionEmpty die | .junctionDrainTimeout die | .computeResetEnd die
  | .dieReturn die => inRange die 64
  | .retryResend _ _ | .registerWrite _ _ | .rack _ | .hostDieLoss
  | .heartbeatTimeout _ | .sdFault | .aocMismatch | .powerCapControl _ | .thermalSample _ | .flowLowTimeout | .powerApplied _
  | .chargeComplete | .inputLoss | .inputReturn _ | .holdupExpiry | .overvoltage | .singleFeed _ | .lowInput _ | .pwrWarnAssert
  | .partnerSealAck | .pwrWarnRelease | .requestS2 | .s2Entry | .wakeRequest | .autoWake | .wakeDone | .requestS3 | .s3Ok | .s3GraceExpiry
  | .s3Wake | .fuseScanDone _ | .firmwareBroadcast _ | .l1Reached | .l2Reached | .claimTimeout _ | .latchTimeout _ | .sessionIdleTimeout _
  | .dtlsHandshake _ _ _ | .sessionKeyUpdate _ | .setSwap | .setCopy | .setCancel | .swapPoint | .swapTimeout _ | .attestationReportRead _ | .debugToken _
  | .anchorUpdate _ _ | .revocation _ | .clearFailureMarks | .clearFaultCode | .shortPress | .drainSettled | .drainLimit | .triplePress
  | .presenceExpiry | .forcedStandby | .displayRedraw | .coolantSample _ _ _ | .singleFeedEnd | .l0Reached | .sdRestart => true
  | .tokenReq p | .tokenGrant p | .tokenReturn p | .refused p | .readReq p | .readResp p | .write p | .wrAck p | .noticeAck p | .nak p | .retry p | .addPiece p => packetWf p
  | .packetForward n p => nodeWf n && packetWf p
  | .redUp l p | .redDown l p => inRange l 8 && packetWf p
  | .commitPartials part mod _ _ _ _ => inRange part 16 && inRange mod 256
  | .rerunNotice ⟨part, _⟩ | .xrootWrite part _ | .xinvAll part | .xinvPage part _ | .invalidationDone part | .run part _ | .copy part _
  | .maskUpdate part _ | .maskFlip part | .commit part _ | .speculativeStart part _ | .phase part _ | .snapshot part _ | .fence part _
  | .nop part _ | .consignmentComplete part _ | .logRecord part | .append part | .pctlEnable part _ | .pctlInit part | .pctlResume part
  | .hostAbort part _ | .pblkWrite part _ | .pblkLatch part | .clogBaseWrite part _ | .clogBaseLatch part | .fmapWrite part _
  | .fmapLatch part | .mirrorRebuilt part | .geometryAdvanceNotice part => inRange part 16
  | .pageWalkComplete c part _ => inRange c 1088 && inRange part 16
  | .dieLoss die _ cutOff => inRange die 64 && cutOff.all (fun d => inRange d 64)
  | .hubLoss h => inRange h 4
  | .stackLoss m | .hbmStackTested m _ => inRange m 20
  | .cxlPortLoss x | .cxlPortRetrained x _ => inRange x 4
  | .portDown p | .sflFlit p _ _ | .portRetrain p | .retrainDone p _ | .identityFlit p _ _ | .spareLaneTrained p => inRange p 32
  | .linkDieLoss l => inRange l 8
  | .laneSignalLoss p lane | .laneErrorThreshold p lane _ => inRange p 32 && inRange lane 8
  | .mdpRead path u | .mdpWrite path u | .mdpAbort path u | .mdpNop path u => pathWf path && unitWf u
  | .getVersion path u => pathWf path && spdmWf 0x84 u
  | .getCapabilities path u => pathWf path && spdmWf 0xE1 u
  | .negotiateAlgorithms path u => pathWf path && spdmWf 0xE3 u
  | .getDigests path u => pathWf path && spdmWf 0x81 u
  | .getCertificate path u => pathWf path && spdmWf 0x82 u
  | .challenge path u => pathWf path && spdmWf 0x83 u
  | .getMeasurements path u => pathWf path && spdmWf 0xE0 u
  | .keyExchange path u => pathWf path && spdmWf 0xE4 u
  | .finish path u => pathWf path && spdmWf 0xE5 u
  | .heartbeat path u => pathWf path && spdmWf 0xE8 u
  | .keyUpdate path u => pathWf path && spdmWf 0xE9 u
  | .endSession path u => pathWf path && spdmWf 0xEC u
  | .reportNonceWrite nonce => nonce.length == 32
  | .counterAdvance cls _ | .verify cls | .verifyDone cls | .activate cls | .abandon cls => inRange cls 6
  | .latchTouch conn | .latchRelease conn | .connectorDrained conn | .cblPresNChange conn _ => inRange conn 12
  | .dieToDiePortDown die side => inRange die 64 && inRange side 4

end Sys2Proof
end

