-- ==== Sys2Proof/Safety.lean ====
section
/-! DEFINITION. What the statements say of a run: the canonical form of the state's tables, and what no command does. -/

namespace Sys2Proof.Machine

/-- The port table's keys rise and no port is listed at its power-on value. -/
def portsWf (t : Tab Port) : Bool := decide (t.Pairwise fun a b => a.1 < b.1) && t.all fun e => decide (e.2 ≠ portInit e.1)

/-- Memory and every table of the state are canonical: addresses strictly rising, nothing listed at its default. Equal contents are then
equal data. -/
def State.canon (s : State) : Bool :=
  s.mem.wf && Tab.wf s.poison false && Tab.wf s.upset 0 && Tab.wf s.marks 0 && Tab.wf s.watched false && Tab.wf s.clusters {} &&
  Tab.wf s.dies {} && Tab.wf s.hubs {} && Tab.wf s.links {} && Tab.wf s.parts {} && portsWf s.ports

/-- From `s` to `t` the queue is as it was, what has been sent stays sent, no free value is drawn twice, and a canonical state stays canonical. -/
def Keeps (s t : State) : Prop :=
  t.pending = s.pending ∧ s.out <+: t.out ∧ s.free ≤ t.free ∧ (s.canon = true → t.canon = true)

/-- A command that goes on keeps all that. -/
def KeepsR (s : State) (r : Host.Outcome State Fault Refusal) : Prop := ∀ t, r = .next t → Keeps s t

/-! ### Completion and frames -/

/-- A command answers a next state, and that state satisfies `P`. -/
def Runs (i : Instr) (s : State) (P : State → Prop) : Prop := ∃ t, exec i s = .next t ∧ P t

/-- Nothing changes but the control core of one cluster: its pc, registers and stall. -/
def OnlyCore (s t : State) (c : Nat) : Prop := ∃ k : Core, t = s.updCl c fun cl => { cl with core := k }

/-- Nothing changes but one cluster. -/
def OnlyCluster (s t : State) (c : Nat) : Prop := ∃ cl : Cluster, t = s.updCl c fun _ => cl

/-- Nothing changes but one partition. -/
def OnlyPart (s t : State) (p : Nat) : Prop := ∃ pt : Part, t = s.updPt p fun _ => pt

/-- A partition without what its speculative runs have counted so far. -/
def Part.seen (pt : Part) : Part := { pt with entries := pt.entries.map fun e => { e with spent := [] } }

/-- Every partition is as it was, but for what its speculative runs have counted. -/
def SameParts (s t : State) : Prop := ∀ p, (t.pt p).seen = (s.pt p).seen

/-- Nothing changes but one compute die. -/
def OnlyDie (s t : State) (d : Nat) : Prop := ∃ x : Die, t = s.updDie d fun _ => x

/-- Nothing changes but one link port. -/
def OnlyPort (s t : State) (p : Nat) : Prop := ∃ x : Port, t = s.updPort p fun _ => x

/-- Nothing changes but the object dictionary. -/
def OnlyDict (s t : State) : Prop := ∃ d : Dict, t = { s with dict := d }

/-- Nothing changes but the power state and its telemetry. -/
def OnlyPower (s t : State) : Prop := ∃ p : Power, t = { s with power := p }

/-- Nothing changes but the service plate. -/
def OnlyPlate (s t : State) : Prop := ∃ p : Plate, t = { s with plate := p }

/-- Nothing changes but the security die. -/
def OnlySec (s t : State) : Prop := ∃ x : Sec, t = { s with sec := x }

/-- Nothing changes but what has been sent, by these. -/
def OnlyOut (s t : State) (os : List Out) : Prop := t = { s with out := s.out ++ os }

/-- An instruction's result: rd takes a value, s31 excepted (R57), pc moves on, and nothing else changes. -/
def Result (s t : State) (c : Nat) (rd : Reg) (v n : Word) : Prop :=
  OnlyCore s t c ∧ (t.cl c).core.pc = (s.cl c).core.pc + n ∧ (t.cl c).core.stall = (s.cl c).core.stall ∧
  ∀ r, t.reg c r = if r = rd ∧ rd.toNat ≠ 31 then v else s.reg c r

/-- What a command of a station does with the waybill at work on a channel whose operation it is, unless an event holds the station: with one tile
left, that tile's move brings it to written, with what the move left, but that what the tile wrote over its own waybill's source, or over what a waybill at
work beside it reads or writes, is undefined, and so is all that it wrote where its owner table has changed (R52, R280); a tile
that stalls leaves the state as it is, and one that waits for what it has asked leaves what its move left; a tile that fails fails the waybill with
the move's status and indices. -/
def TileWork (i : Instr) (s : State) (c st chan : Nat) (isOp : WbEntry → Bool) (total : WbEntry → Nat) (f : XCtx → State → WbEntry → Move) : Prop :=
  ∀ e r, s.runningWb c st chan = some e → (s.cl c).run = some r → r.stopped = false → isOp e = true → e.next < total e →
    s.eventHeld c st = false →
    let m := (f (r.ctx c) s e).overlap e ((s.besides c e).flatMap (·.dsts)) fun o => f (r.ctx c) (s.scrambleAll o) e
    (∀ t e', e.next + 1 = total e → m = .moved t e' → t.runningWb c st chan = some e → e'.wb = e.wb → e'.phase = .running →
      let new := e'.dsts.drop e.dsts.length
      let w := t.clash new e'.srcs (s.besides c e)
      Runs i s (fun u => u.mem = (if (s.changed e).isEmpty then w else w.scrambleAll new).mem ∧ u.parts = t.parts ∧ u.out = t.out ∧
        { e' with next := e.next + 1, phase := .written } ∈ u.siding c st)) ∧
    (m = .stall → exec i s = .next s) ∧ (∀ t, m = .paused t → exec i s = .next t) ∧
    (∀ t status x y, m = .failed t status x y → exec i s = .next (t.failWb c st e status x y))

/-- The Vector Station is at an instruction of this opcode, within an invocation of the waybill at work. -/
def State.vecAt (s : State) (c : Nat) (e : WbEntry) (r : Run) (opc : Nat) : Prop :=
  s.runningWb c 4 0 = some e ∧ (s.cl c).run = some r ∧ r.stopped = false ∧ s.eventHeld c 4 = false ∧ e.next < vTotal e.wb ∧ (s.cl c).st.vec.cur.active = true ∧
  vOpc (s.vCtx c e r).ins = opc

/-- A register instruction is done: registers and held flags take its result, the station's pc moves on, and nothing else changes. -/
def VecDone (s t : State) (c : Nat) (y : VRegs × Byte) : Prop :=
  let q := (s.cl c).st.vec
  OnlyCluster s t c ∧ (∀ st, t.siding c st = s.siding c st) ∧
  t.cl c = { s.cl c with st := { (s.cl c).st with sidings := (t.cl c).st.sidings, vec := { q with regs := y.1, cur := { q.cur with
    pc := q.cur.pc + 1, flags := q.cur.flags ||| y.2 } } } }

end Sys2Proof.Machine
end

