-- ==== Sys2Proof/Certificates/Slice0/Obligations.lean ====
section
/-! DEFINITION. The statements about the model. Each names the rules of the spec that it rests on. -/

open Sys2Proof Sys2Proof.Machine

/-- A step takes the command at the front of the queue and answers what exec answers on the state with the queue's rest; on an empty queue the block idles, which is
the model's own choice (log entry 3: the spec has no row for a tick). -/
def Obligations.StepRunsFront : Prop := ∀ (s : State),
  (∀ c q, step { s with pending := c :: q } = exec c { s with pending := q }) ∧ (s.pending = [] → step s = .next s)

/-- The state after reset (R53, R57, R63, R65, R90, R93, R271, R374, R377, R437, R484, R487, R498): no command waits, no power, every cluster, station, window,
queue and counter empty, partitions disabled with number 1 next and W, E and S 0, every object at its default, both sets equal; its tables are canonical. That
a byte never written reads 0 is the model's choice (log entry 2).
(What is the model's own in it: log entry 1.) -/
def Obligations.ResetState : Prop :=
  State.reset.pending = [] ∧ State.reset.out = [] ∧ State.reset.power.st = .s5 ∧ State.reset.boot.stage = .off ∧ State.reset.canon = true ∧
  (∀ a, State.reset.mem.byte a = 0) ∧
  (∀ c, State.reset.cl c = {} ∧ (∀ n, State.reset.dcOf c n = 0) ∧ (∀ r, State.reset.reg c r = 0) ∧ (∀ w, (State.reset.win c w).enable = false) ∧
    ∀ st, State.reset.siding c st = []) ∧
  (∀ p, (State.reset.pt p).regs.enable = false ∧ (State.reset.pt p).nextSeq = 1 ∧ (State.reset.pt p).w = 0 ∧ (State.reset.pt p).e = 0 ∧
    (State.reset.pt p).s = 0 ∧ (State.reset.pt p).entries = [] ∧ (State.reset.pt p).x.done = true) ∧
  (∀ idx sub, State.reset.obj idx sub = (objDefault idx sub).toNat ∧ State.reset.cfg idx sub = (objDefault idx sub).toNat) ∧
  State.reset.dict.shadow = State.reset.dict.active ∧ State.reset.recov.recs = [] ∧ ∀ q, (State.reset.queue q).entries = []

/-- The invariant of every step: memory and every table of the state stay canonical, so that equal contents are equal data; from every state that is
canonical, whatever command is at the front and whatever it does. (That it holds at reset is part of ResetState.)
(What is the model's own in it: log entry 2.) -/
def Obligations.StepKeepsCanon : Prop := ∀ s t : State, s.canon = true → step s = .next t → t.canon = true

/-- What no command does, whichever of the 300 it is: it touches the queue of waiting commands, takes back what the module has sent, or draws a free value twice.
(What is the model's own in it: log entry 150.) -/
def Obligations.CommandsKeep : Prop := ∀ (i : Instr) (s t : State), exec i s = .next t → t.pending = s.pending ∧ s.out <+: t.out ∧ s.free ≤ t.free

/-- The thirteen register instructions of the control core complete whenever it executes and their word is fetched (R57 to R59, R61, R62): from the state that the fetch leaves, which CoreFailures gives, rd takes the value,
pc moves on by 4, s31 takes nothing, and every other register, counter, queue and byte of the module is unchanged. -/
def Obligations.AluRegister : Prop := ∀ (s u : State) (c : Nat) (rd ra rb : Reg), s.coreLive c = true → s.fetch c 4 = (u, true) →
  Runs (.add c rd ra rb) s (fun t => Result u t c rd (s.reg c ra + s.reg c rb) 4) ∧
  Runs (.sub c rd ra rb) s (fun t => Result u t c rd (s.reg c ra - s.reg c rb) 4) ∧
  Runs (.and c rd ra rb) s (fun t => Result u t c rd (s.reg c ra &&& s.reg c rb) 4) ∧
  Runs (.or c rd ra rb) s (fun t => Result u t c rd (s.reg c ra ||| s.reg c rb) 4) ∧
  Runs (.xor c rd ra rb) s (fun t => Result u t c rd (s.reg c ra ^^^ s.reg c rb) 4) ∧
  Runs (.shl c rd ra rb) s (fun t => Result u t c rd (s.reg c ra <<< ((s.reg c rb).toNat % 64)) 4) ∧
  Runs (.shr c rd ra rb) s (fun t => Result u t c rd (s.reg c ra >>> ((s.reg c rb).toNat % 64)) 4) ∧
  Runs (.sra c rd ra rb) s (fun t => Result u t c rd ((s.reg c ra).sshiftRight ((s.reg c rb).toNat % 64)) 4) ∧
  Runs (.mul c rd ra rb) s (fun t => Result u t c rd (s.reg c ra * s.reg c rb) 4) ∧
  Runs (.minu c rd ra rb) s (fun t => Result u t c rd (BitVec.ofNat 64 (min (s.reg c ra).toNat (s.reg c rb).toNat)) 4) ∧
  Runs (.maxu c rd ra rb) s (fun t => Result u t c rd (BitVec.ofNat 64 (max (s.reg c ra).toNat (s.reg c rb).toNat)) 4) ∧
  Runs (.slt c rd ra rb) s (fun t => Result u t c rd (if (s.reg c ra).toInt < (s.reg c rb).toInt then 1 else 0) 4) ∧
  Runs (.sltu c rd ra rb) s (fun t => Result u t c rd (if (s.reg c ra).toNat < (s.reg c rb).toNat then 1 else 0) 4)

/-- The immediate forms, LIW (12 bytes long), RDCTR and QSTAT complete whenever the control core executes and their words are fetched (R58 to R62, R65); QSTAT of a
queue number that R60 does not give ends the consignment with TIMETABLE_FAULT. Immediates are sign-extended.
(What is the model's own in it: log entry 154.) -/
def Obligations.AluImmediate : Prop := ∀ (s u : State) (c : Nat) (rd ra : Reg), s.coreLive c = true →
  (s.fetch c 4 = (u, true) →
  (∀ imm : BitVec 14,
    Runs (.addi c rd ra imm) s (fun t => Result u t c rd (s.reg c ra + imm.signExtend 64) 4) ∧
    Runs (.andi c rd ra imm) s (fun t => Result u t c rd (s.reg c ra &&& imm.signExtend 64) 4) ∧
    Runs (.ori c rd ra imm) s (fun t => Result u t c rd (s.reg c ra ||| imm.signExtend 64) 4) ∧
    Runs (.xori c rd ra imm) s (fun t => Result u t c rd (s.reg c ra ^^^ imm.signExtend 64) 4)) ∧
  (∀ sh : BitVec 6,
    Runs (.shli c rd ra sh) s (fun t => Result u t c rd (s.reg c ra <<< sh.toNat) 4) ∧
    Runs (.shri c rd ra sh) s (fun t => Result u t c rd (s.reg c ra >>> sh.toNat) 4) ∧
    Runs (.srai c rd ra sh) s (fun t => Result u t c rd ((s.reg c ra).sshiftRight sh.toNat) 4)) ∧
  (∀ n : BitVec 5, Runs (.rdctr c rd n) s (fun t => Result u t c rd (BitVec.ofNat 64 (s.dcOf c n.toNat)) 4)) ∧
  (∀ q : BitVec 5, queueKnown q.toNat = true → Runs (.qstat c rd q) s (fun t => Result u t c rd (u.qstatus c q.toNat) 4)) ∧
  (∀ q : BitVec 5, queueKnown q.toNat = false → exec (.qstat c rd q) s = .next (u.failCore c stTimetable))) ∧
  (s.fetch c 12 = (u, true) → ∀ v : Word, Runs (.liw c rd v) s (fun t => Result u t c rd v 12))

/-- The branches and jumps complete whenever the control core executes and their word is fetched (R58, R59, R61, R62): pc takes the target, counted in words from the
instruction itself, or the next instruction; nothing else changes. JR to an address that is not a multiple of 4 ends the consignment. -/
def Obligations.Branches : Prop := ∀ (s u : State) (c : Nat) (ra rb : Reg), s.coreLive c = true → s.fetch c 4 = (u, true) →
  let goes (take : Bool) (off : BitVec 14) (t : State) : Prop :=
    t = u.updCl c fun cl => { cl with core := { cl.core with pc := cl.core.pc + if take then 4 * off.signExtend 64 else 4 } }
  (∀ off : BitVec 14,
    Runs (.beq c ra rb off) s (goes (decide (s.reg c ra = s.reg c rb)) off) ∧
    Runs (.bne c ra rb off) s (goes (decide (s.reg c ra ≠ s.reg c rb)) off) ∧
    Runs (.blt c ra rb off) s (goes (decide ((s.reg c ra).toInt < (s.reg c rb).toInt)) off) ∧
    Runs (.bge c ra rb off) s (goes (decide ((s.reg c rb).toInt ≤ (s.reg c ra).toInt)) off) ∧
    Runs (.bltu c ra rb off) s (goes (decide ((s.reg c ra).toNat < (s.reg c rb).toNat)) off) ∧
    Runs (.bgeu c ra rb off) s (goes (decide ((s.reg c rb).toNat ≤ (s.reg c ra).toNat)) off)) ∧
  (∀ off : BitVec 24, Runs (.jmp c off) s (fun t => t = u.updCl c fun cl => { cl with core := { cl.core with pc := cl.core.pc + 4 * off.signExtend 64 } })) ∧
  ((u.reg c ra).toNat % 4 = 0 → Runs (.jr c ra) s (fun t => t = u.updCl c fun cl => { cl with core := { cl.core with pc := u.reg c ra } })) ∧
  ((u.reg c ra).toNat % 4 ≠ 0 → exec (.jr c ra) s = .next (u.failCore c stTimetable))

/-- LD and LW, fetched, complete on an aligned address that translates to readable, unpoisoned, unmarked bytes: rd takes the little-endian value
zero-extended, pc moves on by 4, and memory stays (R61, R89, R236). A misaligned address ends the consignment with TIMETABLE_FAULT. -/
def Obligations.Loads : Prop := ∀ (s u : State) (c : Nat) (rd ra : Reg) (imm : BitVec 14), s.coreLive c = true → s.fetch c 4 = (u, true) →
  let does (i : Instr) (n : Nat) : Prop :=
    let va := u.reg c ra + BitVec.ofNat 64 n * imm.signExtend 64
    (∀ ps, va.toNat % n = 0 → u.xl (u.ctxOf c) false va.toNat n = .ok ps → (u.gotPieces ps 0).marks = [] → (u.gotPieces ps 0).bad = [] →
      Runs i s (fun t => t.reg c rd = (if rd.toNat = 31 then u.reg c rd else BitVec.ofNat 64 (leNat (u.gotPieces ps 0).bytes)) ∧
        (∀ r, r ≠ rd → t.reg c r = u.reg c r) ∧ (t.cl c).core.pc = (u.cl c).core.pc + 4 ∧ t.mem = u.mem)) ∧
    (va.toNat % n ≠ 0 → exec i s = .next (u.failCore c stTimetable))
  does (.ld c rd ra imm) 8 ∧ does (.lw c rd ra imm) 4

/-- ST and SW, fetched, complete on an aligned address that translates to HBM, the CXL tier or the cluster's own scratchpad, outside retained rows and
lost places: exactly the 8 or 4 bytes at the translated address take the register's value, little-endian, every other byte of memory and every
register stays, and pc moves on by 4 (R61, R85, R289). A misaligned address ends the consignment with TIMETABLE_FAULT.
(What is the model's own in it: log entry 9.) -/
def Obligations.Stores : Prop := ∀ (s u : State) (c : Nat) (rd ra : Reg) (imm : BitVec 14), s.coreLive c = true → s.fetch c 4 = (u, true) →
  let does (i : Instr) (n : Nat) : Prop :=
    let va := u.reg c ra + BitVec.ofNat 64 n * imm.signExtend 64
    (∀ p, va.toNat % n = 0 → u.xl (u.ctxOf c) true va.toNat n = .ok [p] → (padCluster p.pa = none ∨ padCluster p.pa = some c) →
      u.retainedAt p.pa p.n none = false → (padCluster p.pa = none → u.lostIn p.pa p.n = false) →
      Runs i s (fun t =>
        (∀ a, t.mem.byte a = if p.pa ≤ a ∧ a < p.pa + n then BitVec.ofNat 8 ((u.reg c rd).toNat >>> (8 * (a - p.pa))) else u.mem.byte a) ∧
        (∀ r, t.reg c r = u.reg c r) ∧ (t.cl c).core.pc = (u.cl c).core.pc + 4)) ∧
    (va.toNat % n ≠ 0 → exec i s = .next (u.failCore c stTimetable))
  does (.st c rd ra imm) 8 ∧ does (.sw c rd ra imm) 4

/-- POST, WAIT, WAIT_RELEASE and WAIT_TIMEOUT (R53, R54, R56, R87, R240). POST, once every write of the control core is acknowledged, adds 1 to its counter once every entry of the coalescing buffer that holds bytes of the
control core is written back; WAIT goes on when
the counter has reached ra[15:0] and stalls the core otherwise; a stalled core or waiting waybill whose counter has arrived is released; a wait
longer than `0x2020.01` milliseconds is reported as WAIT_TIMEOUT.
(What is the model's own in it: log entries 37, 48.) -/
def Obligations.CounterWaits : Prop := ∀ (s : State) (c : Nat),
  (∀ (u : State) (n : BitVec 5), s.coreLive c = true → s.fetch c 4 = (u, true) → u.acksDue c 0xF = false → u.dcOf c n.toNat ≠ 65535 →
    Runs (.post c n) s (fun t => (u.upset = [] → OnlyCluster u t c) ∧ t.mem = u.mem ∧ t.parts = u.parts ∧ t.out = u.out ∧
      (t.cl c).core = { (u.cl c).core with pc := (u.cl c).core.pc + 4 } ∧ (∀ e ∈ (t.cl c).coal, e.owners.contains 0xF = false) ∧
      (∀ e ∈ (u.cl c).coal, e.owners.contains 0xF = false → e ∈ (t.cl c).coal) ∧
      ∀ k, t.dcOf c k = if k = n.toNat then u.dcOf c k + 1 else u.dcOf c k)) ∧
  (∀ (u : State) (n : BitVec 5), s.coreLive c = true → s.fetch c 4 = (u, true) → u.acksDue c 0xF = true → exec (.post c n) s = .next u) ∧
  (∀ (u : State) (n : BitVec 5) (ra : Reg), s.coreLive c = true → s.fetch c 4 = (u, true) →
    Runs (.wait c n ra) s (fun t => t = u.updCl c fun cl => { cl with core := (
      if bits (u.reg c ra).toNat 0 16 ≤ u.dcOf c n.toNat then { cl.core with pc := cl.core.pc + 4 }
      else { cl.core with stall := some (n.toNat, bits (u.reg c ra).toNat 0 16) }) })) ∧
  (∀ n v run, (s.cl c).core.stall = some (n, v) → (s.cl c).run = some run → run.stopped = false → run.ended = false → v ≤ s.dcOf c n →
    Runs (.waitRelease c none 0) s (fun t => t = (s.updCl c fun cl => { cl with core := { cl.core with stall := none } }).updCl c
      fun cl => { cl with core := { cl.core with pc := cl.core.pc + 4 } })) ∧
  (∀ st chan e, s.headWb c st chan = some e → e.phase = .waiting → fld e.wb 86 16 ≤ s.dcOf c (fld e.wb 81 5) →
    Runs (.waitRelease c (some st) chan) s (fun t => t = s.updWb c st chan fun e => { e with phase := .ready })) ∧
  (∀ n v run ms, (s.cl c).core.stall = some (n, v) → (s.cl c).run = some run → run.stopped = false → s.dcOf c n < v →
    s.cfg 0x2020 1 ≠ 0 → s.cfg 0x2020 1 < ms →
    Runs (.waitTimeout c none 0 ms) s (fun t => t = s.failCore c stWaitTimeout ∧ (t.cl c).run.all (·.stopped) = true))

/-- PBUF (R287), fetched, on an aligned record that reads clean and keeps R283's form, for a shard in range whose entry reads clean and whose state slot holds a
tile's state (R286), under the view of its partition that the consignment latched: rd takes the mask epoch or the tag of the visible buffer, or from the
shard entry the byte address of its state or working-copy base. Without a visible buffer, with a state slot too small, and on a misaligned address, the
consignment ends with TIMETABLE_FAULT. -/
def Obligations.PairBuffers : Prop := ∀ (s u : State) (c : Nat) (rd ra rb : Reg) (run : Run) (ps : List Piece), s.coreLive c = true → s.fetch c 4 = (u, true) → (s.cl c).run = some run →
  let va := (u.reg c ra).toNat
  let sh := (u.reg c rb).toNat
  let hv := leNat (u.gotPieces ps 0).bytes
  let h := RecH.parse hv
  let vis := h.visible ((((u.entry run.part run.seq).map (·.views)).getD []).getD h.part 0)
  let clean (qs : List Piece) : Prop := (u.gotPieces qs 0).marks = [] ∧ (u.gotPieces qs 0).bad = []
  let gives (i : Instr) (v : Nat) : Prop := Runs i s (fun t => t.mem = u.mem ∧ (t.cl c).core.pc = (u.cl c).core.pc + 4 ∧
    ∀ r, t.reg c r = if r = rd ∧ rd.toNat ≠ 31 then BitVec.ofNat 64 v else u.reg c r)
  let all := [Instr.pbufState c rd ra rb, .pbufWc c rd ra rb, .pbufMepoch c rd ra rb, .pbufTag c rd ra rb]
  (∀ qs, va % 64 = 0 → u.xl (u.ctxOf c) false va 64 = .ok ps → clean ps → recOk hv = true → sh < h.shards →
    u.xl (u.ctxOf c) false (va + 64 * (1 + sh)) 64 = .ok qs → clean qs →
    let d := Shard.parse (leNat (u.gotPieces qs 0).bytes)
    (∀ b, vis = some b → h.lm + h.lq + h.lv ≤ 64 * d.stSlot →
      gives (.pbufMepoch c rd ra rb) (h.mep b) ∧ gives (.pbufTag c rd ra rb) (h.tag b) ∧
      gives (.pbufState c rd ra rb) (64 * if b then d.stB else d.stA) ∧ gives (.pbufWc c rd ra rb) (64 * if b then d.wcB else d.wcA)) ∧
    ((vis = none ∨ 64 * d.stSlot < h.lm + h.lq + h.lv) → ∀ i ∈ all,
      Runs i s (fun t => ∀ x, u.entry run.part run.seq = some x → ∃ x', t.entry run.part run.seq = some x' ∧ x'.fails.map (·.status) = x.fails.map (·.status) ++ [stTimetable]))) ∧
  (va % 64 ≠ 0 → ∀ i ∈ all, exec i s = .next (u.failCore c stTimetable))

/-- Fetching, and what a failure does (R61, R62, R72, R74, R89). An instruction whose lines the buffer holds, none of its words poisoned, is fetched with
nothing changed; a line that is missing is read by its virtual address and enters the buffer, up to 256 lines, with memory, registers and pc as they were; a
poisoned word, a line that does not translate and a marked one end the consignment. A failure of the control core, such as an illegal instruction, appends one report to its consignment's
entry: its status, the cluster, station code 0xF, tag 0 and all-ones indices. The consignment stops on the cluster: no waybill of it is left in a
siding, no granule is held, no request waits, and every open window starts to close. A failed instruction fetch reports the fetch's status.
(What is the model's own in it: log entries 43, 195.) -/
def Obligations.CoreFailures : Prop := ∀ (s : State) (c : Nat) (r : Run) (x : Entry), (s.cl c).run = some r → s.entry r.part r.seq = some x →
  let fails (i : Instr) (st : Byte) : Prop := Runs i s (fun t =>
    (∃ x', t.entry r.part r.seq = some x' ∧ x'.fails = x.fails ++ [{ status := st, cluster := c, station := 0xF, wbTag := 0, i := 0xFFFF, j := 0xFFFF }]) ∧
    (t.cl c).run = some { r with stopped := true, begun := [] } ∧ (t.cl c).held = [] ∧ (t.cl c).tokWait = [] ∧ (t.cl c).tokQ = [] ∧
    (∀ st, ∀ w ∈ t.siding c st, ¬(w.part = r.part ∧ w.seq = r.seq)) ∧ ∀ w, (t.win c w).enable = true → (t.win c w).closing = true)
  s.coreLive c = true →
  (∀ w, (s.fetch c 4).2 = true → eciWord w = false → fails (.illegalInstruction c (.word w)) stTimetable) ∧
  (∀ n w, (s.fetch c 8).2 = true → patchOk n.toNat w = false → fails (.illegalInstruction c (.patch n w)) stTimetable) ∧
  (∀ l e, s.codeMisses c 4 = [l] → s.xl (s.ctxOf c) false (64 * l) 64 = .error e → e ≠ stHold → fails (.illegalInstruction c .fetch) e) ∧
  ∀ n, (s.codeMisses c n = [] → s.fetch c n = if s.codePoisoned c n then (s.failCore c stUncorrectable, false) else (s, true)) ∧
    ∀ l ps, s.codeMisses c n = [l] → s.xl (s.ctxOf c) false (64 * l) 64 = .ok ps →
      let g := s.gotPieces ps 0
      (g.marks = [] → ∃ u : State, s.fetch c n = (if u.codePoisoned c n then (u.failCore c stUncorrectable, false) else (u, true)) ∧ u.mem = s.mem ∧
        (∀ k, u.reg c k = s.reg c k) ∧ (u.cl c).core.pc = (s.cl c).core.pc ∧ (u.cl c).core.buf.length ≤ max 256 (s.cl c).core.buf.length ∧
        (l, g.bytes, g.bad) ∈ (u.cl c).core.buf ∧ ((s.cl c).core.buf.length < 256 → (u.cl c).core.buf = (s.cl c).core.buf ++ [(l, g.bytes, g.bad)])) ∧
      (∀ m ms, g.marks = m :: ms → g.status m ≠ stHold → ∃ u : State, s.fetch c n = (u.failCore c (g.status m), false) ∧ u.mem = s.mem)

/-- Queues that software reads and writes (R60, R63, R65 to R67, R69, R250). A read takes the oldest entry, or the last value again with `underrun`
when the queue is empty; a write enters, or is discarded with `overflow` when the queue is full. A queue that crosses clock domains is empty and full as its
pointers say, and they move with it. A hardware writer that finds its queue full stalls: nothing enters, and a station's event waits in its holding register, and behind that in the
station. READQ puts the record into rd and rd + 1; QCTL
writes the RW bits of a status word; a held completion record enters its queue once that has room and its waybill completes. Each leaves memory.
(What is the model's own in it: log entries 131, 154.) -/
def Obligations.Queues : Prop := ∀ (s : State) (c : Nat),
  (∀ (u : State) (rd : Reg) (q : BitVec 5), s.coreLive c = true → s.fetch c 4 = (u, true) → rd.toNat % 2 = 0 → rd.toNat ≤ 28 → (q = 0x0C ∨ q = 0x0D) →
    Runs (.readq c rd q) s (fun t => OnlyCluster u t c ∧ (t.cl c).core.pc = (u.cl c).core.pc + 4 ∧
      t.reg c rd ++ t.reg c (rd + 1) = (let v := (u.cqOf c q.toNat).pop.1; v.extractLsb' 0 64 ++ v.extractLsb' 64 64) ∧
      t.cqOf c q.toNat = (u.cqOf c q.toNat).pop.2 ∧ ∀ r, r ≠ rd → r ≠ rd + 1 → t.reg c r = u.reg c r)) ∧
  (∀ (u : State) (rd : Reg) (q : BitVec 5), s.coreLive c = true → s.fetch c 4 = (u, true) → (rd.toNat % 2 ≠ 0 ∨ 28 < rd.toNat ∨ (q ≠ 0x0C ∧ q ≠ 0x0D)) →
    exec (.readq c rd q) s = .next (u.failCore c stTimetable)) ∧
  (∀ (u : State) (ra : Reg) (q : BitVec 5), s.coreLive c = true → s.fetch c 4 = (u, true) → queueKnown q.toNat = true →
    Runs (.qctl c ra q) s (fun t => OnlyCluster u t c ∧ (t.cl c).core.pc = (u.cl c).core.pc + 4 ∧ (∀ r, t.reg c r = u.reg c r) ∧
      (let v := (u.reg c ra).toNat
       let put (o : QStat) : QStat := { underrun := o.underrun && !bit1 v 15, overflow := o.overflow && !bit1 v 16,
                                        tailBad := o.tailBad && !bit1 v 17, cutAt := BitVec.ofNat 8 (bits v 24 8) }
       if q.toNat ≤ 6 then Tab.look (t.cl c).st.sidSt {} q.toNat = put (Tab.look (u.cl c).st.sidSt {} q.toNat)
       else if q.toNat ≤ 11 then t.tileQ c q.toNat = { u.tileQ c q.toNat with st := put (u.tileQ c q.toNat).st }
       else t.cqOf c q.toNat = { u.cqOf c q.toNat with st := put (u.cqOf c q.toNat).st }))) ∧
  (∀ q : QueueRef, (∀ d, q ≠ .events d) → (q = .mdpRx → s.mac = []) → Runs (.queueRead q) s (fun t => t.mem = s.mem ∧
    (crossK q = none → t.queue q = (s.queue q).pop.2) ∧
    ∀ k, crossK q = some k →
      ((s.queue q).cross.empty = true → t.queue q = { s.queue q with st := { (s.queue q).st with underrun := true } }) ∧
      ∀ e rest, (s.queue q).cross.empty = false → (s.queue q).entries = e :: rest →
        t.queue q = { s.queue q with entries := rest, last := e, cross := (s.queue q).cross.read k })) ∧
  (∀ d e rest, (s.die d).events.cross.empty = false → (s.die d).events.entries = e :: rest → (s.die d).holding = [] →
    Runs (.queueRead (.events d)) s (fun t => OnlyDie s t d ∧ (t.die d).events.entries = rest ∧ (t.die d).events.last = e)) ∧
  (∀ (q : QueueRef) (v : Rec128), s.queueFull q = false → Runs (.queueWrite q v) s (fun t => t.mem = s.mem ∧
    (t.queue q).entries = (s.queue q).entries ++ [BitVec.ofNat 128 (v.toNat % 2 ^ (queueShape q).2)] ∧ (t.queue q).st = (s.queue q).st ∧
    ∀ k, crossK q = some k → (t.queue q).cross = (s.queue q).cross.wrote k)) ∧
  (∀ (q : QueueRef) (v : Rec128), s.queueFull q = true → q ≠ .mdpRx → (∀ d, q ≠ .events d) → Runs (.queueWrite q v) s (fun t => t.mem = s.mem ∧
    t.queue q = { s.queue q with st := { (s.queue q).st with overflow := true } })) ∧
  (∀ (q : QueueRef) (v : Rec128), s.queueFull q = true → (q = .mdpRx ∨ ∃ d, q = .events d) → exec (.queueWrite q v) s = .next s) ∧
  (∀ st ev, let d := c / 17
    let k := 16 * c + st
    let waits (l : List (Nat × Rec128)) : Bool := l.any fun e => e.1 == k
    (waits (s.die d).stalled = true → exec (.stationEvent ⟨c, st⟩ ev) s = .next s) ∧
    (waits (s.die d).stalled = false → waits (s.die d).holding = false → s.queueFull (.events d) = false →
      Runs (.stationEvent ⟨c, st⟩ ev) s (fun t => OnlyDie s t d ∧ (t.die d).events.entries = (s.die d).events.entries ++ [ev] ∧ (t.die d).holding = (s.die d).holding)) ∧
    (waits (s.die d).stalled = false → waits (s.die d).holding = false → s.queueFull (.events d) = true →
      Runs (.stationEvent ⟨c, st⟩ ev) s (fun t => OnlyDie s t d ∧ (t.die d).events = (s.die d).events ∧ (t.die d).holding = (s.die d).holding ++ [(k, ev)])) ∧
    (waits (s.die d).stalled = false → waits (s.die d).holding = true →
      Runs (.stationEvent ⟨c, st⟩ ev) s (fun t => OnlyDie s t d ∧ (t.die d).events = (s.die d).events ∧ (t.die d).holding = (s.die d).holding ∧
        (t.die d).stalled = (s.die d).stalled ++ [(k, ev)]))) ∧
  (∀ (engine : Bool) h e, (s.cl c).st.heldRecs.find? (fun h => h.engine == engine) = some h → engineRoom s c engine.toNat = true →
    s.headWb c engine.toNat (bits h.record.toNat 24 3) = some e → fld e.wb 102 1 = 0 →
    Runs (.completionRecordPush c engine) s (fun t => t.mem = s.mem ∧
      t.cqOf c (0x0C + engine.toNat) = { s.cqOf c (0x0C + engine.toNat) with entries := (s.cqOf c (0x0C + engine.toNat)).entries ++ [h.record] } ∧
      (t.cl c).st.heldRecs = (s.cl c).st.heldRecs.erase h ∧
      t.siding c engine.toNat = (s.siding c engine.toNat).eraseP (WbEntry.onChan engine.toNat (bits h.record.toNat 24 3))))

/-- ISSUE, its two words fetched, appends the patched template to its station's siding and pc moves on by 8; a template off the 64-byte grid or a station code above 6
is a TIMETABLE_FAULT; a full siding of 16 holds the core where it is (R41, R44, R59, R70). -/
def Obligations.Issue : Prop := ∀ (s u : State) (c : Nat) (station : BitVec 5) (ra : Reg) (ps : List (BitVec 3 × Reg)), s.coreLive c = true → s.fetch c 8 = (u, true) →
  (∀ run pieces, (u.cl c).run = some run → (u.reg c ra).toNat % 64 = 0 → station.toNat ≤ 6 → ps.length ≤ 4 → (u.siding c station.toNat).length < 16 →
    u.xl (u.ctxOf c) false (u.reg c ra).toNat 64 = .ok pieces → (u.gotPieces pieces 0).marks = [] → (u.gotPieces pieces 0).bad = [] →
    Runs (.issue c station ra ps) s (fun t => t.mem = u.mem ∧ (t.cl c).core.pc = (u.cl c).core.pc + 8 ∧ (∀ r, t.reg c r = u.reg c r) ∧
      t.siding c station.toNat = u.siding c station.toNat ++
        [{ wb := BitVec.ofNat 512 (u.patched c (leNat (u.gotPieces pieces 0).bytes) ps), part := run.part, seq := run.seq }])) ∧
  (((u.reg c ra).toNat % 64 ≠ 0 ∨ 6 < station.toNat ∨ 4 < ps.length) → exec (.issue c station ra ps) s = .next (u.failCore c stTimetable)) ∧
  ((u.reg c ra).toNat % 64 = 0 → station.toNat ≤ 6 → ps.length ≤ 4 → 16 ≤ (u.siding c station.toNat).length → exec (.issue c station ra ps) s = .next s)

/-- The end of a consignment on a cluster (R41, R72, R87, R100). END, once every write of the control core is acknowledged (R54, R240), writes the control core's bytes of the coalescing buffer back, ends the timetable and starts to close every open window; CONSIGNMENT_STOP
stops a failed or aborted consignment; END_COMPLETE, once sidings, drain, held records, windows and requests are done, takes the run off the
cluster.
(What is the model's own in it: log entry 43.) -/
def Obligations.Ends : Prop := ∀ (s : State) (c : Nat) (r : Run), (s.cl c).run = some r →
  (∀ u : State, s.coreLive c = true → s.fetch c 4 = (u, true) →
    (u.acksDue c 0xF = false →
      Runs (.endT c) s (fun t => t.mem = u.mem ∧ (∀ e ∈ (t.cl c).coal, e.owners.contains 0xF = false) ∧ (t.cl c).run = some { r with ended := true } ∧
        (t.cl c).core = (u.cl c).core ∧ (∀ w, (t.win c w).closing = ((u.win c w).enable || (u.win c w).closing)) ∧ (t.cl c).tokQ = [])) ∧
    (u.acksDue c 0xF = true → exec (.endT c) s = .next u)) ∧
  (∀ e, s.entry r.part r.seq = some e → (e.fails ≠ [] ∨ e.abort = true ∨ e.rerun = true) → r.stopped = false →
    Runs (.consignmentStop c) s (fun t => (t.cl c).run = some { r with stopped := true, begun := [] } ∧ (t.cl c).held = [] ∧ (t.cl c).watches = [] ∧
      (t.cl c).st.heldRecs = [])) ∧
  ((r.ended = true ∨ r.stopped = true) → (s.cl c).drained = true → s.outstanding c = false →
    Runs (.endComplete c) s (fun t => ∃ u : State, (u.cl c).run = none ∧
      (∀ e, s.entry r.part r.seq = some e → ∃ e', u.entry r.part r.seq = some e' ∧ c ∈ e'.ended) ∧
      t = (if r.commit then u.commitEnds r.part else u).startReady r.part))

/-- Windows and landing descriptors (R92, R98, R100, R246). Opening sets the register from sN's fields, a new generation and zero pointers;
closing waits in `closing`; a closing window without grants outstanding closes; RELEASE returns granules; LANDCFG loads a descriptor. Each instruction, fetched, completes
with pc moved on by 4, and, with no token message held back in the mesh, leaves memory.
(What is the model's own in it: log entries 46, 198.) -/
def Obligations.Windows : Prop := ∀ (s : State) (c : Nat) (w : BitVec 3) (ra : Reg), (s.cl c).tokMesh = [] →
  ((s.win c w.toNat).closing = true → (s.win c w.toNat).granules = [] →
    Runs (.windowClosed c w) s (fun t => OnlyCluster s t c ∧ t.win c w.toNat = { s.win c w.toNat with closing := false, enable := false })) ∧
  ∀ u : State, s.coreLive c = true → s.fetch c 4 = (u, true) →
  let v := (u.reg c ra).toNat
  (bit1 v 23 = false → bit1 v 31 = false → bits v 44 20 = 0 →
    (bit1 v 24 = true → u.winOpenOk c w.toNat v = true →
      Runs (.windowOpen c w ra) s (fun t => OnlyCluster u t c ∧ (t.cl c).core.pc = (u.cl c).core.pc + 4 ∧
        t.win c w.toNat = { base := bits v 0 12, size := bits v 12 11, enable := true, postEn := bit1 v 25, postCtr := bits v 26 5,
                            part := ((u.cl c).run.map (·.part)).getD 0, gen := ((u.win c w.toNat).gen + 1) % 256, freeCnt := bits v 12 11 })) ∧
    (bit1 v 24 = true → u.winOpenOk c w.toNat v = false → exec (.windowOpen c w ra) s = .next (u.failCore c stTimetable)) ∧
    (bit1 v 24 = false →
      Runs (.windowClose c w ra) s (fun t => t.mem = u.mem ∧ (t.cl c).core.pc = (u.cl c).core.pc + 4 ∧
        t.win c w.toNat = (if (u.win c w.toNat).enable then { u.win c w.toNat with closing := true } else u.win c w.toNat) ∧
        (t.cl c).tokQ = (u.cl c).tokQ.filter fun q => q.window != w.toNat))) ∧
  (v ≤ (u.win c w.toNat).landed → (u.cl c).tokQ = [] →
    Runs (.release c w ra) s (fun t => OnlyCluster u t c ∧ (t.cl c).core.pc = (u.cl c).core.pc + 4 ∧
      t.win c w.toNat = { u.win c w.toNat with freePtr := ((u.win c w.toNat).freePtr + v) % (u.win c w.toNat).size,
                                               freeCnt := (u.win c w.toNat).freeCnt + v })) ∧
  ((u.win c w.toNat).landed < v → exec (.release c w ra) s = .next (u.failCore c stTimetable)) ∧
  (bits v 25 39 = 0 → bits v 1 12 + bits v 13 12 + 1 ≤ 4096 → (u.win c w.toNat).enable = false →
    (u.cl c).wins.all (fun e => !(e.2.enable && overlaps (bits v 1 12) (bits v 13 12 + 1) e.2.base e.2.size)) = true →
    Runs (.landcfg c w ra) s (fun t => OnlyCluster u t c ∧ (t.cl c).core.pc = (u.cl c).core.pc + 4 ∧
      ∀ k, Tab.look (t.cl c).st.land 0 k = if k = w.toNat then BitVec.ofNat 64 v else Tab.look (u.cl c).st.land 0 k))

/-- The blocks that the control core loads into slots (R118, R157, R185), their instruction fetched: a block that reads clean and passes its check is the slot's contents from
then on, when no waybill in the siding names the slot, and pc moves on by 4; a misaligned address or a block that fails its check ends the
consignment with TIMETABLE_FAULT.
(What is the model's own in it: log entry 76.) -/
def Obligations.Slots : Prop := ∀ (s u : State) (c : Nat) (ra : Reg) (ps : List Piece), s.coreLive c = true → s.fetch c 4 = (u, true) →
  let va := (u.reg c ra).toNat
  let loads (i : Instr) (len : Nat) (st : Nat) (busy : WbEntry → Bool) (ok : List Byte → Bool) (slot : State → List Byte) : Prop :=
    (va % 64 = 0 → (u.siding c st).any busy = false → u.xl (u.ctxOf c) false va len = .ok ps → (u.gotPieces ps 0).marks = [] →
      (u.gotPieces ps 0).bad = [] → ok (u.gotPieces ps 0).bytes = true →
      Runs i s (fun t => t.mem = u.mem ∧ (t.cl c).core.pc = (u.cl c).core.pc + 4 ∧ slot t = (let b := (u.gotPieces ps 0).bytes; if b.all (· == 0) then [] else b))) ∧
    (va % 64 ≠ 0 → exec i s = .next (u.failCore c stTimetable))
  (∀ d : BitVec 3, loads (.draincfg c d ra) 1088 2 (fun e => bits (wbOp e.wb) 2 3 == d.toNat) (fun b => drainOk b false)
    (fun t => Tab.look (t.cl c).st.drainSlots [] d.toNat)) ∧
  (∀ d : BitVec 2, loads (.sdraincfg c d ra) 1088 3 (fun e => bits (wbOp e.wb) 2 2 == d.toNat) (fun b => drainOk b true)
    (fun t => Tab.look (t.cl c).st.sdrainSlots [] d.toNat)) ∧
  (∀ d : BitVec 3, loads (.vkerncfg c d ra) 2656 4 (fun e => fld e.wb 445 3 == d.toNat) kernOk
    (fun t => Tab.look (t.cl c).st.kernSlots [] d.toNat))

/-- Channel control and carried rows (R252, R405, R433). Firmware's write wakes a cluster that is stopped for idleness, and waits in S2 and WAKE (R102). A channel's `ch_disable` takes its value, and a disabled channel keeps no waybill; CARRY sets or
clears rows of the partition's carried map. -/
def Obligations.ChannelsAndRows : Prop := ∀ (s : State) (c : Nat) (ra : Reg),
  (∀ chan : BitVec 4, s.padsOpen = true →
    Runs (.chctlEnable c chan .firmware) s (fun t => OnlyCluster (s.woken c) t c ∧ t.chan c chan.toNat = { s.chan c chan.toNat with disable := false } ∧
      ∀ k, k ≠ chan.toNat → t.chan c k = s.chan c k)) ∧
  (∀ chan : BitVec 4, s.padsOpen = false → exec (.chctlEnable c chan .firmware) s = .next s ∧ exec (.chctlDisable c chan .firmware) s = .next s) ∧
  (∀ chan : BitVec 4, s.padsOpen = true → (s.cl c).run = none → (s.cl c).held = [] → (s.siding c (chan.toNat / 8)).all (fun e => fld e.wb 432 3 != chan.toNat % 8) = true →
    Runs (.chctlDisable c chan .firmware) s (fun t => OnlyCluster (s.woken c) t c ∧ t.chan c chan.toNat = { s.chan c chan.toNat with disable := true } ∧
      (t.cl c).tokWait = (s.cl c).tokWait.filter fun w => w.chan != chan.toNat)) ∧
  ∀ u : State, s.coreLive c = true → s.fetch c 4 = (u, true) →
  (∀ chan : BitVec 4, bit1 (u.reg c ra).toNat 0 = false →
    Runs (.chctlEnable c chan (.core ra)) s (fun t => OnlyCluster u t c ∧ (t.cl c).core.pc = (u.cl c).core.pc + 4 ∧ (t.chan c chan.toNat).disable = false)) ∧
  (∀ run, (u.cl c).run = some run → bits (u.reg c ra).toNat 25 39 = 0 →
    bits (u.reg c ra).toNat 0 12 + bits (u.reg c ra).toNat 12 12 + 1 ≤ 4096 →
    (bit1 (u.reg c ra).toNat 24 = true → Runs (.carrySet c ra) s (fun t => OnlyCluster u t c ∧ (t.cl c).core.pc = (u.cl c).core.pc + 4 ∧
      ∀ row < 4096, (Tab.look (t.cl c).carried 0 run.part).getLsbD row = ((Tab.look (u.cl c).carried 0 run.part).getLsbD row ||
        (decide (bits (u.reg c ra).toNat 0 12 ≤ row) && decide (row ≤ bits (u.reg c ra).toNat 0 12 + bits (u.reg c ra).toNat 12 12))))) ∧
    (bit1 (u.reg c ra).toNat 24 = false → Runs (.carryClear c ra) s (fun t => OnlyCluster u t c ∧ (t.cl c).core.pc = (u.cl c).core.pc + 4 ∧
      ∀ row < 4096, (Tab.look (t.cl c).carried 0 run.part).getLsbD row = ((Tab.look (u.cl c).carried 0 run.part).getLsbD row &&
        !(decide (bits (u.reg c ra).toNat 0 12 ≤ row) && decide (row ≤ bits (u.reg c ra).toNat 0 12 + bits (u.reg c ra).toNat 12 12))))))

/-- A token request (R6, R94, R95, R98, R99, R433). It wakes a cluster stopped for idleness. Checked in the order form, partition, window, count, it is refused with reason 0x6, 0x4, 0x3 or 0x5, and the refusal
is counted and sent; with none of these and no request before it, a request from another endpoint that the free granules cover is granted whole in one
TOKEN_GRANT to the module it came from; with none free it waits in the queue; and with 64 in the queue the mesh holds it back. A granule granted has undefined
contents, and no byte outside the granules changes.
(What is the model's own in it: log entry 47.) -/
def Obligations.TokenRequests : Prop := ∀ (s : State) (p : Packet),
  let v := p.msg.toNat
  let u := s.woken p.dstEp.toNat
  let c := p.dstEp.toNat
  let w := bits v 4 3
  let n := bits v 48 11
  let win := s.win c w
  let req : BitVec 16 := BitVec.ofNat 16 (bits v 32 16)
  let tag : BitVec 16 := BitVec.ofNat 16 (bits v 96 16)
  let form : Prop := bits v 0 4 = 1 ∧ tokenRsvOk v = true ∧ bits v 64 10 = 0 ∧ bits v 80 8 = 0 ∧ bits v 92 4 = 0
  let open' : Prop := win.enable = true ∧ win.closing = false
  let answered (m : Rec128) (t : State) : Prop :=
    t.out = u.out ++ [.packet (pktFinish (u.stamp (packetOf 0x06 1 req (BitVec.ofNat 16 c) p.srcMod win.part tag 0 m [])))]
  let refuses (reason : Nat) : Prop := Runs (.tokenReq p) s (fun t => t.mem = s.mem ∧ t.parts = s.parts ∧ (∀ k, t.cl k = u.cl k) ∧
    t.obj 0x5020 3 = (s.obj 0x5020 3 + 1) % 2 ^ 64 ∧ answered (tokenMsg 4 w c n 0 0 0 reason req tag) t)
  let waiting : TokenReq := { window := w, requester := req, count := n, tag := tag, mod := p.srcMod }
  p.pcrc = pktCheck p → c < 0x2000 → (s.cl c).stat = .active → s.padsOpen = true → (bits v 0 4 ≠ 2 ∧ bits v 0 4 ≠ 3 ∧ bits v 0 4 ≠ 4) →
  (64 ≤ (s.cl c).tokQ.length → Runs (.tokenReq p) s (fun t => OnlyCluster u t c ∧ t.cl c = { u.cl c with tokMesh := (s.cl c).tokMesh ++ [p] })) ∧
  ((s.cl c).tokQ.length < 64 → (s.cl c).tokMesh = [] →
    (¬ form → refuses 6) ∧
    (form → bits v 88 4 ≠ win.part → refuses 4) ∧
    (form → bits v 88 4 = win.part → ¬ open' → refuses 3) ∧
    (form → bits v 88 4 = win.part → open' → (n = 0 ∨ win.size < n) → refuses 5) ∧
    (form → bits v 88 4 = win.part → open' → 1 ≤ n → n ≤ win.size → (s.cl c).tokQ = [] → n ≤ win.freeCnt → isSelf c req p.srcMod = false →
      Runs (.tokenReq p) s (fun t => (t.cl c).tokQ = [] ∧
        t.win c w = { win with granules := win.granules ++ (List.range n).map fun k => { idx := (win.grantPtr + k) % win.size, writer := req, mod := p.srcMod }
                               grantPtr := (win.grantPtr + n) % win.size, freeCnt := win.freeCnt - n } ∧
        (∀ a, (∀ k < n, ¬(granuleAt c win ((win.grantPtr + k) % win.size) ≤ a ∧ a < granuleAt c win ((win.grantPtr + k) % win.size) + 2048)) →
          t.mem.byte a = s.mem.byte a) ∧
        answered (tokenMsg 2 w c n win.grantPtr win.gen win.part 0 req tag) t)) ∧
    (form → bits v 88 4 = win.part → open' → 1 ≤ n → n ≤ win.size → (s.cl c).tokQ = [] → win.freeCnt = 0 →
      Runs (.tokenReq p) s (fun t => OnlyCluster u t c ∧ t.cl c = { u.cl c with tokQ := [waiting] })))

/-- The answers to token requests (R72, R94, R97, R99, R433). Each wakes a cluster stopped for idleness. A grant is held by the channel that waits for it, and goes back when nothing waits; a
return counts its granules as landed, leaves every byte outside the writer's granules, and is only counted when its generation is not the window's;
a refusal fails the waybill of the channel that asked, with FAULT_PROTECT for reason 0x4 and FAULT_TOKEN otherwise.
(What is the model's own in it: log entry 199.) -/
def Obligations.TokenAnswers : Prop := ∀ (s : State) (p : Packet),
  let v := p.msg.toNat
  let c := p.dstEp.toNat
  let same (t : State) : Prop := t.mem = s.mem ∧ t.out = s.out ∧ t.parts = s.parts ∧ ∀ k, t.cl k = (s.woken c).cl k
  p.pcrc = pktCheck p → c < 0x2000 → (s.cl c).stat = .active → s.padsOpen = true → (s.cl c).tokMesh = [] → (s.cl c).tokQ.length < 64 →
  (∀ q : TokenWait, bits v 0 4 = 2 → (s.cl c).tokWait = [q] → q.tag = BitVec.ofNat 16 (bits v 96 16) → q.window = bits v 4 3 →
    q.target % 65536 = bits v 8 11 → targetMod q.target = p.srcMod → q.count = bits v 48 11 →
    Runs (.tokenGrant p) s (fun t => t.mem = s.mem ∧ t.out = s.out ∧ (t.cl c).tokWait = [] ∧
      (t.cl c).held = (s.cl c).held ++ [{ chan := q.chan, target := q.target, window := q.window, gen := bits v 80 8, first := bits v 64 10, count := q.count }])) ∧
  (bits v 0 4 = 2 → (s.cl c).tokWait = [] →
    Runs (.tokenGrant p) s (fun t => ∃ u : State, same u ∧ t = u.returnToken c (bits v 88 4)
      { chan := 0, target := bits v 8 11 + (if p.srcMod = 0xFF then 0 else 65536 * (p.srcMod.toNat + 1)), window := bits v 4 3, gen := bits v 80 8,
        first := bits v 64 10, count := bits v 48 11 })) ∧
  (let w := bits v 4 3; let win := s.win c w
   bits v 0 4 = 3 → tokenRsvOk v = true → bits v 92 4 = 0 →
    (win.enable = true → bits v 80 8 = win.gen → win.postEn = false →
      Runs (.tokenReturn p) s (fun t => (∀ n, t.dcOf c n = s.dcOf c n) ∧
        (∀ a, (∀ g ∈ win.granules, g.writer = BitVec.ofNat 16 (bits v 32 16) → ¬(granuleAt c win g.idx ≤ a ∧ a < granuleAt c win g.idx + 2048)) →
          t.mem.byte a = s.mem.byte a) ∧
        (∀ g ∈ (t.win c w).granules, g.writer = BitVec.ofNat 16 (bits v 32 16) → g.mod = p.srcMod →
          (∃ k < bits v 48 11, g.idx = (bits v 64 10 + k) % win.size) → g.landed = true))) ∧
    ((win.enable = false ∨ bits v 80 8 ≠ win.gen) → Runs (.tokenReturn p) s (fun t => ∃ u : State, same u ∧ (u.obj 0x5020 3 = s.obj 0x5020 3) ∧ t = u.bump 0x5020 3 1))) ∧
  (∀ (q : TokenWait) (e : WbEntry) (r : Run) (x : Entry),
    bits v 0 4 = 4 → (s.cl c).tokWait = [q] → q.tag.toNat = bits v 96 16 → q.chan < 16 → s.headWb c (q.chan / 8) (q.chan % 8) = some e →
    e.phase = .running → (s.cl c).run = some r → s.entry r.part r.seq = some x →
    Runs (.refused p) s (fun t => ∃ x' f, t.entry r.part r.seq = some x' ∧ x'.fails = x.fails ++ [f] ∧ f.cluster = c ∧ f.station = q.chan / 8 ∧
      f.wbTag = fld e.wb 108 16 ∧ f.status = (if bits v 92 4 = 4 then stProtect else stToken)))

/-- The scratchpad's own upkeep (R63, R64, R83, R86, R88, R90). An entry of a tile siding arrives whole and clean, or is discarded and sets `tail_bad`; a
requester denied `0x2030.01` times is promoted; an idle coalescing entry, a corrected word and a scrubbed row are written back. None of these changes a byte of
memory, since what is written back is what every reader already sees; a scrub that finds a cluster at its limit of rows is a cluster fault (R409). A notice of a stale or lost
watch is acknowledged to its hub and changes no byte; at the refetch limit no refetch of the entry stays pending (R240 to R243).
(What is the model's own in it: log entries 9, 38, 132, 189.) -/
def Obligations.Upkeep : Prop := ∀ (s : State) (c : Nat),
  (∀ req n, s.cfg 0x2030 1 ≠ 0 → s.cfg 0x2030 1 ≤ n → (s.cl c).promoted.contains req = false →
    Runs (.agePromotion c req n) s (fun t => t = s.updCl c fun cl => { cl with promoted := cl.promoted ++ [req] })) ∧
  (∀ chunk idle, max 1 (s.cfg 0x2030 2) ≤ idle →
    Runs (.coalesceIdleWriteback c chunk idle) s (fun t => t.mem = s.mem ∧ t.parts = s.parts ∧ t.out = s.out ∧ t.marks = s.marks ∧
      (t.cl c).coal = ((s.cl c).coal.filter fun e => e.chunk != chunk) ∧ (s.upset = [] → OnlyCluster s t c))) ∧
  (∀ word, Tab.look s.upset 0 (padOf c / 8 + word) = 3 →
    Runs (.eccCorrectionWriteback c word) s (fun t => t.mem = s.mem ∧ t.clusters = s.clusters ∧ t.poison = s.poison ∧
      ∀ w, Tab.look t.upset 0 w = if w = padOf c / 8 + word then 0 else Tab.look s.upset 0 w)) ∧
  (s.cfg 0x2030 3 ≠ 0 → (Tab.within s.upset (padOf c / 8) (padSize / 8)).length + (s.cl c).badRows.length < max 1 (s.cfg 0x2120 5) →
    Runs (.scrubPass c) s (fun t => t.mem = s.mem ∧ t.parts = s.parts ∧ t.out = s.out ∧
      ∀ w, Tab.look t.upset 0 w ≠ 0 → ¬(padOf c / 8 ≤ w ∧ w < padOf c / 8 + padSize / 8))) ∧
  (s.cfg 0x2030 3 ≠ 0 → s.upset = [] → max 1 (s.cfg 0x2120 5) ≤ (s.cl c).badRows.length → (s.cl c).stat = .active →
    Runs (.scrubPass c) s (fun t => (t.cl c).stat = .failed)) ∧
  (∀ (q : Nat) (ok : Bool) (e : TileEntry) (rest : List TileEntry), (s.tileQ c q).entries = e :: rest → e.arrived = false → 0x08 < q → q ≤ 0x0B →
    Runs (.entryArrivalComplete c q ok) s (fun t => OnlyCluster s t c ∧
      (t.tileQ c q).st = (if ok then (s.tileQ c q).st else { (s.tileQ c q).st with tailBad := true }) ∧
      (t.tileQ c q).entries = if ok then { e with arrived := true, here := e.bytes.length } :: rest else rest)) ∧
  ∀ region : Nat,
    (∀ i ∈ [Instr.staleNotice c region, .lostWatchNotice c region],
      Runs i s (fun t => t.mem = s.mem ∧ t.parts = s.parts ∧
        Out.packet (pktFinish (packetOf 0x08 1 (BitVec.ofNat 16 (0x2000 + s.hubOf (region * 4096))) (BitVec.ofNat 16 c) 0xFF 0 0 (region * 4096) 0 [])) ∈ t.out ∧
        ((∀ w ∈ (s.cl c).watches, w.region = region → w.policy ≠ 1) → ∀ w ∈ (s.cl c).watches, w.region = region → w.slot = none →
          ∀ u ∈ s.liveUnits c w, Tab.look t.marks 0 u = 3))) ∧
    (∀ k w, (s.cl c).watches[k]? = some w → max 1 (s.cfg 0x2050 2) ≤ w.refetches →
      Runs (.refetchLimit c k) s (fun t => t.mem = s.mem ∧ t.parts = s.parts ∧ t.out = s.out ∧
        (t.cl c).watches = mapFirst (fun y => y == w) (fun y => { y with pending := false, queued := false }) (s.cl c).watches ∧
        (w.slot = none → ∀ u ∈ s.liveUnits c w, Tab.look t.marks 0 u = 3)))

/-- The life of a waybill in its siding (R43, R46, R49, R53, R72, R240, R250). At the head it is checked before any wait: it then waits or is ready, or
fails with the check's status and all-ones indices; a disabled channel drops it. It starts when ready, once the header of its owner table has been read, with
its last tile written at once for a zero
count. Written, out of the drain and acknowledged, it leaves the siding, joins its flags to its consignment's, posts its counter, and pushes its record when
`crec` is set and the queue has room.
(What is the model's own in it: log entries 39, 130.) -/
def Obligations.WaybillLife : Prop := ∀ (s : State) (c st chan : Nat) (e : WbEntry) (r : Run),
  (s.headWb c st chan = some e → (s.cl c).run = some r → r.stopped = false →
  (e.phase = .queued →
    (¬(st ≤ 1 ∧ (s.chan c (8 * st + chan)).disable = true) →
      (∀ a, Job.exec (wbCheck s c st r e.wb) = (.ok (), a) →
        Runs (.waybillAtHead c st chan) s (fun t => t = (s.settle a).updWb c st chan fun e => { e with phase := if fld e.wb 80 1 = 1 then .waiting else .ready })) ∧
      (∀ status a, Job.exec (wbCheck s c st r e.wb) = (.error status, a) → status ≠ stHold →
        exec (.waybillAtHead c st chan) s = .next ((s.settle a).failWb c st e status 0xFFFF 0xFFFF))) ∧
    (st ≤ 1 → (s.chan c (8 * st + chan)).disable = true → exec (.waybillAtHead c st chan) s = .next (s.failWb c st e stDmaDropped 0xFFFF 0xFFFF))) ∧
  (e.phase = .ready → ∀ o, Job.exec (if zeroCount e.wb then pure () else ownerStart s (r.ctx c) e.wb) = o →
    (o.1 = .ok () → Runs (.waybillStart c st chan) s (fun t => OnlyCluster (s.settle o.2) t c ∧
      ∃ e' ∈ t.siding c st, e'.wb = e.wb ∧ e'.phase = (if zeroCount e.wb then .written else .running) ∧ e'.next = e.next ∧ e'.flags = e.flags)) ∧
    (∀ status, o.1 = .error status → status ≠ stHold → exec (.waybillStart c st chan) s = .next ((s.settle o.2).failWb c st e status 0 0)))) ∧
  (s.oldWb c st chan = some e → e.phase = .written → e.acks = 0 → e.inDrain = 0 → s.acksDue c st = false → s.recHeld c st chan = false →
    (st ≤ 1 → fld e.wb 447 1 = 1 → engineRoom s c st = true) → (fld e.wb 102 1 = 1 → s.dcOf c (fld e.wb 103 5) ≠ 65535) →
    Runs (.waybillComplete c st chan) s (fun t => t.mem = s.mem ∧ t.siding c st = (s.siding c st).eraseP (WbEntry.onChan st chan) ∧
      (∀ n, t.dcOf c n = if fld e.wb 102 1 = 1 ∧ n = fld e.wb 103 5 then s.dcOf c n + 1 else s.dcOf c n) ∧
      (∀ x, s.entry e.part e.seq = some x → t.entry e.part e.seq = some { x with flags := x.flags ||| e.flags }) ∧
      (st ≤ 1 → fld e.wb 447 1 = 1 → (t.cqOf c (0x0C + st)).entries = (s.cqOf c (0x0C + st)).entries ++ [recordOf e st stDone])))

/-- The work of the stations on one tile. Matrix and Sparse Station (R112, R114, R119, R155): each of the eight passes works, group by group, on the waybill at its station whose
mode it is. The Turntable's ten operations (R210 to R225, R336) and the access engines' five (R226 to R238, R247): each works on the waybill of its station, and its
channel, whose operation it is. The last tile's move brings the waybill to written; a stalled tile leaves the state as it is; a failed tile fails the waybill
with the tile's status and indices.
(What is the model's own in it: log entry 40.) -/
def Obligations.StationTiles : Prop := ∀ (s : State) (c : Nat),
  let pass (i : Instr) (st mode : Nat) : Prop := TileWork i s c st 0 (fun e => bits (wbOp e.wb) 0 2 == mode) (fun e => (srcOf e.wb).len1) (passMove c st)
  pass (.zeroFinal c) 2 0 ∧ pass (.zeroPartial c) 2 1 ∧ pass (.loadPartial c) 2 2 ∧ pass (.loadFinal c) 2 3 ∧
  pass (.sparseZeroFinal c) 3 0 ∧ pass (.sparseZeroPartial c) 3 1 ∧ pass (.sparseLoadPartial c) 3 2 ∧ pass (.sparseLoadFinal c) 3 3 ∧
  let tt (i : Instr) (op : Nat) (f : XCtx → Nat → State → WbEntry → Job (Option (List Byte))) : Prop :=
    TileWork i s c 5 0 (fun e => bits (wbOp e.wb) 0 4 == op) (fun e => ttTotal e.wb) (ttMove c f)
  let ae (i : Instr) (st op chan : Nat) (f : State → XCtx → Nat → Nat → WbEntry → Job AeRes) : Prop :=
    TileWork i s c st chan (fun e => aeOp e.wb == op) (fun e => aeTotal e.wb) (aeMove c st chan f)
  tt (.ttCopy c) 0 ttCopyTile ∧ tt (.transpose c) 1 ttTransposeTile ∧ tt (.transposeIp c) 2 ttInPlaceTile ∧ tt (.permute c) 3 ttPermuteTile ∧
  tt (.expand c) 4 ttExpandTile ∧ tt (.encode c) 5 ttEncodeTile ∧ tt (.ttGather c) 6 ttGatherTile ∧ tt (.ttScatter c) 7 ttScatterTile ∧
  tt (.ttScatterAdd c) 8 ttScatterAddTile ∧ tt (.dropout c) 9 ttDropoutTile ∧
  ∀ chan : BitVec 3,
    ae (.load c chan) 0 0 chan.toNat aeTile ∧ ae (.gather c chan) 0 1 chan.toNat gatherTile ∧ ae (.store c chan) 1 8 chan.toNat aeTile ∧
    ae (.scatter c chan) 1 9 chan.toNat scatterTile ∧ ae (.scatterAdd c chan) 1 10 chan.toNat scatterAddTile

/-- The verdict on the oldest tile in the drain of a station, from its accumulators and its checksums (R64, R125 to R127, R153). Passed, its saved bits and its
bytes are written and nothing else of memory, its entry joins the drain siding, its flags its waybill's. Failed once, it is counted in `0x5040.01`, its pass is
computed again, and nothing is written; failed again, it fails its waybill with DATA_UNCORRECTABLE, counted in `0x5040.02` and in `0x5040.03`, and its cluster is faulted when its record is stored
(R409). With the drain siding full it waits. A
coupled entry whose check has passed stays, and one whose check has failed is discarded.
(What is the model's own in it: log entries 57, 164, 205, 206.) -/
def Obligations.Verdicts : Prop := ∀ (s : State) (c : Nat) (sparse : Bool) (upset : List (Nat × Word32)) (d : DrainTile) (rest : List DrainTile) (e : WbEntry) (r : Run),
  let st := if sparse then 3 else 2
  let p := s.passOf c st e.wb
  let d' := d.upsetBy upset
  let siding : Prop := (p.mode = 0 ∨ p.mode = 3) ∧ p.dst.kind = 1
  s.slots c st = d :: rest → s.drainWb c st = some e → (s.cl c).run = some r → r.stopped = false → s.eventHeld c st = false →
  (d.entered = none → siding → 4 ≤ (s.tileQ c 0x08).entries.length → exec (.matrixPassEnd c sparse upset) s = .next s) ∧
  (d.entered = none → (siding → (s.tileQ c 0x08).entries.length < 4 ∧ (s.tileQ c 0x08).entries.all (·.arrived) = true ∧ (s.tileQ c 0x08).st.cutAt = 0) →
    (s.verdict p d' = true → ∀ entry a,
      ((drainTile s (r.ctx c) c e p (s.drainView c st (r.ctx c) e p d')).run).run { who := st, home := some c, owner := some (e.part, e.seq) } = (.ok entry, a) →
      a.retained s = false → rangesMeet a.begun (e.srcs ++ (s.besides c e).flatMap fun o => o.srcs ++ o.dsts) = [] →
      Runs (.matrixPassEnd c sparse upset) s (fun t => t.mem = a.writes.reverse.foldl (fun m w => m.writeN w.1.pa w.1.bytes) s.mem ∧ t.slots c st = rest ∧
        SameParts s t ∧ ((t.tileQ c 0x08).entries.map (·.bytes)) = (s.tileQ c 0x08).entries.map (·.bytes) ++ entry.toList ∧
        ∃ e' ∈ t.siding c st, e'.wb = e.wb ∧ e'.flags = e.flags ||| a.flags ∧ e'.inDrain = e.inDrain - 1)) ∧
    (s.verdict p d' = false → d.again = false → ∀ ds a, ((passGroup s (r.ctx c) c p e d.m [d.n]).run).run { who := st, home := some c, owner := some (e.part, e.seq) } = (.ok ds, a) →
      Runs (.matrixPassEnd c sparse upset) s (fun t => t.mem = s.mem ∧ t.out = s.out ∧ t.obj 0x5040 1 = (s.obj 0x5040 1 + 1) % 2 ^ 64 ∧
        t.slots c st = (ds.map fun y => { s.formed c (r.ctx c) e p y with again := true, psum := d.psum }) ++ rest)) ∧
    (s.verdict p d' = false → d.again = true → exec (.matrixPassEnd c sparse upset) s =
      .next (((((s.bumpFor (e.part, e.seq) 0x5040 2 1).setObj 0x5040 3 c).setSlots c st rest).updEntry e.part e.seq
        fun y => { y with twice := y.twice ++ [c] }).failWb c st e stUncorrectable d.n d.m))) ∧
  (∀ (k : TileEntry) (pass ok : Bool), d.entered = some pass → (s.tileQ c 0x08).entries = [k] → k.arrived = false →
    (st = 3 → (s.slots c 2).any (·.entered.isSome) = false) →
    (pass = true → Runs (.entryArrivalComplete c 0x08 ok) s (fun t => OnlyCluster s t c ∧ t.slots c st = rest ∧ (t.cl c).st.vec.saved = none ∧
      (t.tileQ c 0x08).entries = [{ k with arrived := true, here := k.bytes.length }])) ∧
    (pass = false → d.again = true → Runs (.entryArrivalComplete c 0x08 ok) s (fun t => (t.tileQ c 0x08).entries = [] ∧
      ∀ x, s.entry r.part r.seq = some x → ∃ x' f, t.entry r.part r.seq = some x' ∧ x'.fails = x.fails ++ [f] ∧ f.status = stUncorrectable)))

/-- The Update Station (R286, R288, R290, R304). STEP and REDUCE work tile by tile as the other stations do; a STEP whose pending-write gate is open
has the tag of its destination written and may write; a drift sample that agrees clears the cluster's count.
(What is the model's own in it: log entries 97, 99, 110.) -/
def Obligations.Updates : Prop := ∀ (s : State) (c : Nat),
  TileWork (.step c) s c 6 0 (fun e => upOp e.wb == 0) (fun e => upCount e.wb) (stepMove c) ∧
  TileWork (.reduce c) s c 6 0 (fun e => upOp e.wb == 1) (fun e => upCount e.wb) (reduceMove c) ∧
  (∀ e run k a, s.runningWb c 6 0 = some e → (s.cl c).run = some run → (s.pt run.part).commit = some k → upOp e.wb = 0 → e.gated = false →
    run.stopped = false → s.gateOpen run.part (s.pt run.part).e = true →
    Job.exec (do let h ← recOf s (run.ctx c) (upRec e.wb) stDesc
                 match h.visible (s.pt run.part).e with
                 | none => Job.fail stDesc
                 | some b => Job.fold (fun _ (w : Nat × List Byte) => writeVa s (run.ctx c) (upRec e.wb + w.1) w.2) () (tagWrites (!b) k.p (h.mep b))) = (.ok (), a) →
    Runs (.pendingWriteGate c) s (fun t => ∃ e', t.headWb c 6 0 = some e' ∧ e'.gated = true ∧ e'.wb = e.wb ∧ t.mem = (s.settle a).mem)) ∧
  (∀ q rest a, (s.cl c).driftDue = q :: rest → s.siding c 6 = [] → s.cfg 0x2070 4 ≠ 0 →
    Job.exec (driftJob s { cluster := some c, part := q.part, xroot := (s.pt q.part).x.xroot, xkeys := (s.pt q.part).x.xkeys } c q) = (.ok 0, a) →
    Runs (.driftSample c) s (fun t => (t.cl c).driftDue = rest ∧ (t.cl c).drifts = 0 ∧ t.mem = s.mem))

/-- The lane-wise instructions of the Vector Station (R188, R189, R190, R192): the instruction at the station's pc is executed once over the strip, the
destination group takes the results of its unmasked lanes, pc moves on, and the flags are kept for the tile.
(What is the model's own in it: log entries 42, 51.) -/
def Obligations.VectorLanes : Prop := ∀ (s : State) (c : Nat) (e : WbEntry) (r : Run),
  let v := s.vCtx c e r
  let regs := (s.cl c).st.vec.regs
  let a := v.a regs
  let b := v.b regs
  let d := v.cOp regs
  let lane (i : Instr) (opc : Nat) (f : Nat → Nat → Nat × Byte) : Prop := s.vecAt c e r opc → Runs i s (fun t => VecDone s t c (v.map regs f))
  lane (.vMov c) 0x01 (fun x y => (a x y, 0)) ∧
  lane (.vAdd c) 0x02 (fun x y => arith2 v.ty addV (· + ·) (a x y) (b x y)) ∧
  lane (.vSub c) 0x03 (fun x y => arith2 v.ty (fun p q => addV p q.neg) (· - ·) (a x y) (b x y)) ∧
  lane (.vMul c) 0x04 (fun x y => arith2 v.ty mulV (· * ·) (a x y) (b x y)) ∧
  lane (.vFma c) 0x05 (fun x y => arithFma v.ty (a x y) (b x y) (d x y)) ∧
  lane (.vMin c) 0x06 (fun x y => arithMinMax v.ty false (a x y) (b x y)) ∧
  lane (.vMax c) 0x07 (fun x y => arithMinMax v.ty true (a x y) (b x y)) ∧
  lane (.vAbs c) 0x08 (fun x y => arithSign v.ty false (a x y)) ∧
  lane (.vNeg c) 0x09 (fun x y => arithSign v.ty true (a x y)) ∧
  lane (.vDiv c) 0x0A (fun x y => tyEnc v.ty (divV (tyVal v.ty (a x y)) (tyVal v.ty (b x y)))) ∧
  lane (.vRcp c) 0x0B (fun x y => tyEnc v.ty (divV (.fin false 1 0) (tyVal v.ty (a x y)))) ∧
  lane (.vSqrt c) 0x0C (fun x y => tyEnc v.ty (sqrtV (tyVal v.ty (a x y)))) ∧
  lane (.vRsqrt c) 0x0D (fun x y => tyEnc v.ty (rsqrtV (tyVal v.ty (a x y)))) ∧
  lane (.vExp2 c) 0x0E (fun x y => tyEnc v.ty (exp2V (tyVal v.ty (a x y)))) ∧
  lane (.vLog2 c) 0x0F (fun x y => tyEnc v.ty (log2V (tyVal v.ty (a x y)))) ∧
  lane (.vTbl c) 0x10 (fun x y => arithTbl v (a x y)) ∧
  lane (.vSel c) 0x12 (fun x y => (if regs.pbit (bits v.aux 0 2) x y then a x y else b x y, 0)) ∧
  lane (.vSwp c) 0x13 (fun x y => if y % 2 = 0 then arithSign v.ty true (a x (y + 1)) else (a x (y - 1), 0)) ∧
  lane (.vCvt c) 0x14 (fun x y => arithCvt (bits v.aux 0 2) v.ty ((v.draws 2).rnd (wbRnd e.wb) (v.elemNo x y))
    (v.opnd regs (bits v.ins 14 6) (bits v.aux 0 2) x y))

/-- Comparison, the reductions, the sampler, loads and stores, and the end of a strip (R191 to R198). CMP writes a predicate; a reduction writes one
column or row; TOPK, SAMPLE and SRESET work on the strip's candidate lists; LDS, LDT and STS take effect when their reads and writes succeed and meet
no range that another part of the work writes or reads (R52); the tiles of an in-place waybill are written when it ends the tile;
V_END goes on to the next strip, and after the last one ends the tile.
(What is the model's own in it: log entries 42, 72, 78.) -/
def Obligations.VectorOthers : Prop := ∀ (s : State) (c : Nat) (e : WbEntry) (r : Run),
  let v := s.vCtx c e r
  let regs := (s.cl c).st.vec.regs
  let out := (s.cl c).st.vec.cur.outBytes
  let on (i : Instr) (opc : Nat) (y : VRegs × Byte) : Prop := s.vecAt c e r opc → Runs i s (fun t => VecDone s t c y)
  let others := s.besides c e
  let memory (i : Instr) (opc : Nat) (j : Job (VRegs × List Byte × Byte)) : Prop := s.vecAt c e r opc → ∀ regs' out' fl a,
    (j.run).run { who := 4, home := some c, owner := some (e.part, e.seq) } = (.ok (regs', out', fl), a) → a.retained s = false →
    rangesMeet a.srcs (e.dsts ++ others.flatMap (·.dsts)) = [] → rangesMeet a.begun (e.srcs ++ a.srcs ++ others.flatMap fun o => o.srcs ++ o.dsts) = [] →
    s.changed e = [] →
    Runs i s (fun t => t.mem = (s.settle (if exactInPlace e.wb then { a with writes := [] } else a)).mem ∧ (t.cl c).st.vec.regs = regs' ∧
      (t.cl c).st.vec.cur = { (s.cl c).st.vec.cur with
        pc := (s.cl c).st.vec.cur.pc + 1, outBytes := out', flags := (s.cl c).st.vec.cur.flags ||| fl
        later := (s.cl c).st.vec.cur.later ++ if exactInPlace e.wb then a.writes.reverse.map fun w => (w.1.pa, w.1.bytes, w.2) else [] })
  on (.vCmp c) 0x11 (vCmpOp v regs) ∧
  on (.vRsum c) 0x18 (vRowReduce 0 v regs) ∧ on (.vRmax c) 0x19 (vRowReduce 1 v regs) ∧ on (.vRmin c) 0x1A (vRowReduce 2 v regs) ∧
  on (.vCsum c) 0x1B (vColReduce 0 v regs) ∧ on (.vCmax c) 0x1C (vColReduce 1 v regs) ∧
  on (.topk c) 0x28 (vTopk v regs) ∧ on (.sample c) 0x29 (vSample v regs) ∧ on (.sreset c) 0x2A (vSreset v regs) ∧
  memory (.lds c) 0x20 (do let y ← vLds s v regs; pure (y.1, out, y.2)) ∧
  memory (.ldt c) 0x21 (do let y ← vLdt s v regs; pure (y.1, out, y.2)) ∧
  ((s.cl c).st.vec.saved = none → memory (.sts c) 0x22 (do let y ← vSts (s.withLater c) v regs out; pure (regs, y.1, y.2))) ∧
  (s.vecAt c e r 0x00 → (srcOf e.wb).kind ≠ 2 → 32 * ((s.cl c).st.vec.cur.strip + 1) < wbRows e.wb →
    Runs (.vEnd c) s (fun t => t.mem = s.mem ∧ (t.cl c).st.vec.regs = regs ∧ (t.cl c).st.vec.cur =
      { (s.cl c).st.vec.cur with strip := (s.cl c).st.vec.cur.strip + 1, pc := bits (wbOp e.wb) 0 6 })) ∧
  (s.vecAt c e r 0x00 → ((srcOf e.wb).kind = 2 ∨ wbRows e.wb ≤ 32 * ((s.cl c).st.vec.cur.strip + 1)) → (s.cl c).st.vec.saved = none →
    ((dstOf e.wb).kind = 1 → (s.tileQ c 0x0B).entries.length < 4) →
    let later := (s.cl c).st.vec.cur.later
    later.any (fun w => s.retainedAt w.1 w.2.1.length none) = false →
    rangesMeet (later.map fun w => (w.1, w.2.1.length)) (e.srcs ++ others.flatMap fun o => o.srcs ++ o.dsts) = [] →
    Runs (.vEnd c) s (fun t => t.mem = later.foldl (fun m w => m.writeN w.1 w.2.1) s.mem ∧ (t.cl c).st.vec.cur = {} ∧ ∃ e', t.headWb c 4 0 = some e' ∧ e'.next = e.next + 1 ∧
      e'.flags = e.flags ||| (s.cl c).st.vec.cur.flags ∧ e'.phase = (if vTotal e.wb ≤ e.next + 1 then .written else .running)))

/-- Predication (R39, R192): after a lane-wise result, an unmasked position of the destination group holds it; a masked one holds +0 under `pmode` 1
(under `scol`, in column s alone) and its old element otherwise.
(What is the model's own in it: log entry 70.) -/
def Obligations.VectorMask : Prop := ∀ (v : VX) (r : VRegs) (f : Nat → Nat → Nat × Byte) (row col : Nat), v.ty ≤ 2 → row < 32 → col < v.width →
  (∀ x y, (f x y).1 < 2 ^ (if v.ty = 1 then 16 else 32)) → (∀ k, (r.words k).length = 1024) →
  (v.map r f).1.group (vDst v.ins) v.g v.ty row col =
    if v.live r row col then (f row col).1
    else if v.pmode && (!v.scol || col == v.strip) then 0
    else r.group (vDst v.ins) v.g v.ty row col

/-- Reads and writes of HBM that reach their hub from this module (R256, R258, R259, R261, R343, R344, R398, R400, R402). A request whose end-to-end check holds is served: a read
answers with the bytes at its address, as its hub returns them, and changes none; a host core's read of what cannot be corrected is answered with the fault alone; a write stores its payload at its address and nothing else, and is acknowledged at
once when it hits no watched region. A request whose check fails is answered with NAK and nothing of it is applied; one beyond the
recorded length faults. No two addresses share a place in a stack, 256 bytes of a stack lie in one of its 32 pseudo-channels and the next in the next, and a
granule of a protected block is what the other two of its group and their parity give.
(What is the model's own in it: log entries 10, 15, 18, 64, 146, 215.) -/
def Obligations.MemoryRequests : Prop := ∀ (s : State) (p : Packet),
  let a := p.addr.toNat
  let n := min 2048 (p.msg.toNat % 65536)
  s.answers = true →
  (p.pcrc = pktCheck p → p.srcMod = 0xFF → regionOf a = .hbm →
    let g := s.gotPieces [{ pa := a, n := n, hc := 0, guard := false }] 0
    let access : Prop := p.srcEp.toNat / 8192 = 3 ∧ g.bad ≠ []
    (a + n ≤ s.hbmLen → ¬ access → Runs (.readReq p) s (fun t => t.mem = s.mem ∧ t.parts = s.parts ∧
      ((∀ h ∈ s.hubs, h.2.lost = false) → s.plan.lostStacks = [] → (∀ d ∈ s.plan.dAreas.head?, ¬(a < d.1 + d.2 ∧ d.1 < a + n)) → g.bytes = s.mem.readN a n) ∧
      t.out = s.out ++ [.packet (pktFinish { packetOf 0x01 1 p.srcEp p.dstEp 0xFF p.part.toNat p.tag a 0 g.bytes with bad := g.bad, marks := g.marks })])) ∧
    (a + n ≤ s.hbmLen → access → Runs (.readReq p) s (fun t => t.mem = s.mem ∧ t.parts = s.parts ∧
      t.out = s.out ++ [.packet (pktFinish (packetOf 0x01 1 p.srcEp p.dstEp 0xFF p.part.toNat p.tag a (stUncorrectable.setWidth 128) []))])) ∧
    (s.hbmLen < a + n → exec (.readReq p) s = .fault (.absentAddress a)) ∧
    (0x2000 ≤ p.dstEp.toNat → a + p.payload.length ≤ s.hbmLen → s.lostIn a p.payload.length = false → s.watchersOf [(a, p.payload.length)] = [] →
      Runs (.write p) s (fun t => t.parts = s.parts ∧
        (∀ b, t.mem.byte b = if a ≤ b ∧ b < a + p.payload.length then p.payload.getD (b - a) 0 else s.mem.byte b) ∧
        Out.packet (pktFinish (packetOf 0x03 1 p.srcEp p.dstEp 0xFF p.part.toNat p.tag a 0 [])) ∈ t.out)) ∧
    (0x2000 ≤ p.dstEp.toNat → s.hbmLen < a + p.payload.length → exec (.write p) s = .fault (.absentAddress a))) ∧
  (p.pcrc ≠ pktCheck p → exec (.readReq p) s = .next (s.nak p) ∧ exec (.write p) s = .next (s.nak p) ∧ exec (.addPiece p) s = .next (s.nak p)) ∧
  ((s.plan.rows.flatMap (·.2)).Nodup → ∀ b x, s.stackPlace a = some x → s.stackPlace b = some x → a = b) ∧
  (pseudoChannel a < 32 ∧ pseudoChannel (a / 256 * 256) = pseudoChannel a ∧ pseudoChannel (a + 256) = (pseudoChannel a + 1) % 32) ∧
  (∀ b, b ≤ a → a < b + 49152 → s.rebuilt b a = s.mem.byte a)

/-- Answers that reach a cluster or a hub, and pieces of a SCATTER_ADD (R91, R240, R247, R249). A response gives its data to the read that waits for its
tag; an acknowledgement counts one write of its channel and joins its flags; a piece in its turn is added, and one ahead of its turn is
held; the last acknowledgement of a notice releases what waits for it: the write that caused it is acknowledged, and a station's or control core's own write
goes on.
(What is the model's own in it: log entries 15, 64, 96.) -/
def Obligations.Answers : Prop := ∀ (s : State) (p : Packet), p.pcrc = pktCheck p →
  (∀ r, p.dstEp.toNat < 0x2000 → (s.keptOf p.dstEp p.tag 0x00).isEmpty = false → (s.cl p.dstEp.toNat).watches = [] → (s.cl p.dstEp.toNat).sendQ = [] →
    (s.cl p.dstEp.toNat).st.pend = [r] → r.tag = p.tag →
    Runs (.readResp p) s (fun t => t.mem = s.mem ∧ t.out = s.out ∧ t.keptOf p.dstEp p.tag 0x00 = [] ∧ (t.cl p.dstEp.toNat).st.pend =
      [{ r with data := some (p.payload.take r.n), bad := p.bad, marks := p.marks, fault := BitVec.ofNat 8 p.msg.toNat }])) ∧
  (∀ e, p.dstEp.toNat < 0x2000 → (s.keptOf p.dstEp p.tag 0x02).isEmpty = false → s.headWb p.dstEp.toNat 1 (p.tag.toNat % 8) = some e → e.acks ≠ 0 →
    (s.cl p.dstEp.toNat).watches = [] → (s.cl p.dstEp.toNat).sendQ = [] → bits p.msg.toNat 8 8 = 0 →
    Runs (.wrAck p) s (fun t => t.mem = s.mem ∧ t.out = s.out ∧ t.keptOf p.dstEp p.tag 0x02 = [] ∧
      t.headWb p.dstEp.toNat 1 (p.tag.toNat % 8) = some { e with acks := e.acks - 1, flags := e.flags ||| BitVec.ofNat 8 p.msg.toNat })) ∧
  (let c := p.dstEp.toNat
   c < 0x2000 → s.peerOk p = true → (s.cl c).stat = .active → s.padsOpen = true → s.addRefusal c p = none → bit1 p.msg.toNat 0 = false →
    s.retainedAt (padOf c + (bits (s.landDesc c p.window.toNat) 1 12 + p.addr.toNat) * 2048) 2048 (s.landExempt c) = false →
    (p.seq.toNat = Tab.look (s.cl c).st.addNext 0 (addKey p) % 65536 →
      Runs (.addPiece p) s (fun t => ∃ u : State, (∀ k, Tab.look (u.cl c).st.addNext 0 k =
          if k = addKey p then Tab.look (s.cl c).st.addNext 0 k + 1 else Tab.look (s.cl c).st.addNext 0 k) ∧ u.mem = s.mem ∧ t = (u.addApply c p).addDrain c 17)) ∧
    (p.seq.toNat ≠ Tab.look (s.cl c).st.addNext 0 (addKey p) % 65536 → (s.cl c).st.addHeld.length < 16 →
      Runs (.addPiece p) s (fun t => OnlyCluster (s.woken c) t c ∧ (t.cl c).st.addHeld = (s.cl c).st.addHeld ++ [p]))) ∧
  (let h := p.dstEp.toNat % 8192
   let region := p.addr.toNat / 4096
   ∀ a, (s.hub h).acks.find? (fun a => a.region == region && a.waiting.contains p.srcEp.toNat) = some a →
    (a.waiting = [p.srcEp.toNat] → Runs (.noticeAck p) s (fun t => t.mem = s.mem ∧ t.clusters = s.clusters ∧ (t.hub h).acks = (s.hub h).acks.erase a ∧
      (a.who ≠ 1 → t.out = s.out) ∧
      (a.who = 1 → a.dstMod = 0xFF → t.out = s.out ++ [.packet (pktFinish (packetOf 0x03 1 a.dst p.dstEp 0xFF a.part a.tag (region * 4096) 0 []))]))) ∧
    (a.waiting.erase p.srcEp.toNat ≠ [] → Runs (.noticeAck p) s (fun t => t.mem = s.mem ∧ t.clusters = s.clusters ∧ t.out = s.out ∧
      { a with waiting := a.waiting.erase p.srcEp.toNat } ∈ (t.hub h).acks)))

/-- Resends (R344, R354). NAK sends the kept packet it names once more until `0x2100.02` resends, a partial only when it names its block; RETRY keeps the packet
for its interval, when it comes from where the packet went; RETRY_RESEND sends what has waited. A NAK whose own check fails is counted, and its request is issued
again; a RETRY whose check fails is counted alone. Nothing else of the module changes but the counters.
(What is the model's own in it: log entries 15, 22, 216.) -/
def Obligations.Resends : Prop := ∀ (s : State) (p : Packet),
  let ty := bits p.msg.toNat 16 5
  let still (t : State) : Prop := t.mem = s.mem ∧ t.clusters = s.clusters ∧ t.kept.map (·.p) = s.kept.map (·.p)
  (p.pcrc = pktCheck p → (∀ k, s.keptOf p.dstEp p.tag ty = [k] → k.resends < max 1 (s.cfg 0x2100 2) →
    ((ty ≠ 0x0B ∨ k.p.addr = p.addr) → Runs (.nak p) s (fun t => t.out = s.out ++ [.packet k.p] ∧ still t)) ∧
    (ty = 0x0B → k.p.addr ≠ p.addr → exec (.nak p) s = .next s)) ∧
   Runs (.retry p) s (fun t => t.out = s.out ∧ still t ∧ t.obj 0x5100 4 = (s.obj 0x5100 4 + 1) % 2 ^ 64 ∧
    ∀ k ∈ t.kept, k.p.srcEp = p.dstEp → k.p.dstEp = p.srcEp → k.p.tag.toNat = bits p.msg.toNat 0 16 → k.p.ptype.toNat = ty → k.retrying = true)) ∧
  (p.pcrc ≠ pktCheck p →
    (∀ k, s.keptOf p.dstEp p.tag ty = [k] → k.resends < max 1 (s.cfg 0x2100 2) →
      Runs (.nak p) s (fun t => t.out = s.out ++ [.packet k.p] ∧ still t ∧ t.obj 0x5100 1 = (s.obj 0x5100 1 + 1) % 2 ^ 64)) ∧
    Runs (.retry p) s (fun t => OnlyDict s t ∧ t.obj 0x5100 1 = (s.obj 0x5100 1 + 1) % 2 ^ 64)) ∧
  (∀ ep tag, Runs (.retryResend ep tag) s (fun t => t.mem = s.mem ∧ t.clusters = s.clusters ∧
    t.out = s.out ++ ((s.kept.filter fun k => k.p.srcEp == ep && k.p.tag == tag && k.retrying).map fun k => Out.packet k.p) ∧
    ∀ k ∈ t.kept, k.p.srcEp = ep → k.p.tag = tag → k.retrying = false))

/-- Forwarding (R10, R346 to R350, R358, R363, R433). A packet with a good header check and hops left that has reached its die leaves to the cluster, which it wakes when it is
stopped, or by the outward port of its hub or, against that port's credits, of its link die, with one more hop; elsewhere it crosses to a neighbour on a shortest way, in the direction
whose channel holds the most credits, never west after another direction, or, where none is open, by the escape table, and waits in its buffer while the credits do not cover it. A link
die hands a packet for its own module to the mesh, by one of its two ports that may take it, and one for another module to a port of its set: into the unit stream of its own port, while
the other side has room for its units, or across the mesh to the die that owns the port; else the packet waits. A packet whose header fails in a link die is dropped and counted, and its
consignment runs again. Credits that its ports owe go back with flits.
(What is the model's own in it: log entries 12, 13, 181, 185, 211.) -/
def Obligations.Forwarding : Prop := ∀ (s : State) (p : Packet),
  let rest (t : State) : Prop := t.mem = s.mem ∧ t.clusters = s.clusters ∧ t.parts = s.parts
  let flits (os : List Out) : Prop := ∀ o ∈ os, ∃ q f, o = .flit q f
  (p.hchk = pktHcheck p → p.hops ≠ 255 →
    (∀ d b port, s.targetDie (s.sourceDie d p) p = some (b, port) → ((s.die d).draining = true → (s.heldAt d p).isSome = true) →
      (port = 4 → (s.die b).hole = false ∧ (b = d → (s.die d).resetting = false ∧ (s.cl (p.dstEp.toNat % 8192)).isolated = false)) →
      let runs := Runs (.packetForward (.junction d) p) s
      let waits (t : State) : Prop := rest t ∧ t.out = s.out ∧ (t.heldAt d p).isSome = true
      let way (k : Nat) (q : Packet) : Prop :=
        (pktFill q (chanOf q) ≤ s.credits d k (chanOf q) → runs fun t => rest t ∧ t.out = s.out ++ [.forward (.junction d) k (hopped q)] ∧
          ∃ x ∈ (t.die (beside d k)).bufs, x.p = hopped q ∧ x.side = opposite k) ∧
        (s.credits d k (chanOf q) < pktFill q (chanOf q) → runs waits)
      let leaves (u t : State) : Prop := t.mem = s.mem ∧ t.parts = s.parts ∧ t.clusters = u.clusters ∧ t.out = s.out ++ [.forward (.junction d) port (hopped p)] ∧
        ∀ x, s.heldAt d p = some x → (t.die d).bufs = (s.die d).bufs.erase x
      (b = d → port = 4 → runs (leaves (s.woken (p.dstEp.toNat % 8192)))) ∧
      (b = d → port ≠ 4 → (s.die d).portsDown.contains port = true → runs waits) ∧
      (b = d → port ≠ 4 → (s.die d).portsDown.contains port = false →
        (linkBehind d port = none → runs (leaves s)) ∧
        (∀ l k, linkBehind d port = some (l, k) →
          ((s.link l).lost = false → pktFill p (chanOf p) ≤ s.credits d port (chanOf p) → runs fun t => leaves s t ∧ ∃ x ∈ (t.link l).bufs, x.p = hopped p ∧ x.side = k) ∧
          (((s.link l).lost = true ∨ s.credits d port (chanOf p) < pktFill p (chanOf p)) → runs waits))) ∧
      (b ≠ d → p.esc = false → s.turns d b p ≠ [] → ∃ k ∈ s.turns d b p,
        (∀ j ∈ s.turns d b p, s.credits d j (chanOf p) ≤ s.credits d k (chanOf p)) ∧ way k p) ∧
      (b ≠ d → (p.esc = true ∨ s.turns d b p = []) →
        (∀ k, s.escapeDir d b = some k → way k { p with esc := true }) ∧ (s.escapeDir d b = none → runs waits))) ∧
    (∀ l, (s.link l).lost = false →
      let runs := Runs (.packetForward (.linkDie l) p) s
      let ours := p.dstMod = 0xFF ∨ (s.pt p.part.toNat).fm.any (fun m => m.self == p.dstMod.toNat) = true
      let waits (t : State) : Prop := rest t ∧ (∃ os, t.out = s.out ++ os ∧ flits os) ∧ p ∈ (t.link l).waiting
      let inward : Prop :=
        (s.waysIn l p ≠ [] → ∃ k ∈ s.waysIn l p, runs fun t => rest t ∧ (∃ os, t.out = s.out ++ .forward (.linkDie l) (32 + k) (hopped p) :: os ∧ flits os) ∧
          ∃ x ∈ (t.die ((linkAttach l).getD k 0)).bufs, x.p = hopped p ∧ x.side = l / 2) ∧
        (s.waysIn l p = [] → runs waits)
      (ours → (p.dstEp.toNat ≠ 0x4000 + l → inward) ∧ (p.dstEp.toNat = 0x4000 + l → runs waits)) ∧
      (¬ ours → (s.portFor p = none → runs waits) ∧ ∀ q, s.portFor p = some q →
        (q / 4 ≠ l → inward) ∧
        (q / 4 = l → Tab.look (s.port q).used 0 p.cls.toNat + pktUnits p ≤ 512 → runs fun t => rest t ∧
          (∃ os, t.out = s.out ++ .forward (.linkDie l) q (hopped p) :: os ∧ flits os) ∧
          Tab.look (t.port q).used 0 p.cls.toNat = Tab.look (s.port q).used 0 p.cls.toNat + pktUnits p ∧
          ((s.port q).tx.length + 64 * pktUnits p < 608 → p.payload.length = 64 * p.lenUnits.toNat → (t.port q).tx = (s.port q).tx ++ pktBytes (hopped p))) ∧
        (q / 4 = l → 512 < Tab.look (s.port q).used 0 p.cls.toNat + pktUnits p → runs waits)))) ∧
  (∀ l, (s.link l).lost = false → (p.hchk ≠ pktHcheck p ∨ p.hops = 255) →
    Runs (.packetForward (.linkDie l) p) s (fun t => ∃ u : State, rest u ∧ u.out = s.out ∧ u.obj 0x5100 2 = (s.obj 0x5100 2 + 1) % 2 ^ 64 ∧
      t = ((match s.packetRun p with | some x => u.stopForRerun x.1 fun e => e.seq == x.2 | none => u).returnCredits l)))

/-- Holes (R350 to R352). The hole map of every junction is what `0x5101.01` mirrors; whichever junction first sees a packet addressed to a cluster on a hole
answers it with RETRY, reason 2; of no packet does a junction send anything on to a side where a hole lies; and a junction that drains takes in nothing. A packet whose header fails, or has come too far, loses the die, and the consignment whose packet it is runs again (R350).
(What is the model's own in it: log entries 12, 15.) -/
def Obligations.Holes : Prop := ∀ (s : State) (d : Nat) (p : Packet),
  (∀ k < 64, bit1 (s.roVal 0x5101 1) k = (s.die k).hole) ∧
  ((s.die d).draining = true → s.heldAt d p = none → exec (.packetForward (.junction d) p) s = .next s) ∧
  (((s.die d).draining = true → (s.heldAt d p).isSome = true) →
    (p.hchk = pktHcheck p → p.hops ≠ 255 →
      (∀ b, s.targetDie (s.sourceDie d p) p = some (b, 4) → (s.die b).hole = true → Runs (.packetForward (.junction d) p) s (fun t =>
        t.out = s.out ++ [.packet (retryTo p 2)] ∧ t.mem = s.mem ∧ t.clusters = s.clusters ∧ t.parts = s.parts ∧ (t.die d).bufs.length ≤ (s.die d).bufs.length)) ∧
      Runs (.packetForward (.junction d) p) s (fun t => ∃ os, t.out = s.out ++ os ∧ t.mem = s.mem ∧ (∀ k, (t.die k).hole = (s.die k).hole) ∧
        ∀ k q, Out.forward (.junction d) k q ∈ os → k < 4 → inMesh d k = true → (s.die (beside d k)).hole = false)) ∧
    ((p.hchk ≠ pktHcheck p ∨ p.hops = 255) → exec (.packetForward (.junction d) p) s = .next (((s.leaves d p).bump 0x5100 2 1).dieLost d false [] (s.packetRun p).toList)))

/-- Reduction in a link die (R344, R358, R366 to R368, R418). A partial of a block this die reduces is kept once, a duplicate is discarded, and with a full store one of a new block
waits; the root cluster's own stays with its sender as well. With every partial in, a die below the root sends the sum, formed in tree order over its own value and its children's, to the
parent by the block's port, and keeps it, and the root sends it to each child, by the block's port towards it, against its credits or across the mesh to the die that owns the port; a
partial of another die's block goes on into the mesh. A RED_DOWN ends the block in every link die, goes on to each child, and is written to the place that the module's own RED_UP named,
which is then done with. What leaves the die's buffers is returned as credits.
(What is the model's own in it: log entries 49, 211.) -/
def Obligations.Reduction : Prop := ∀ (s : State) (l : Nat) (p : Packet), (s.link l).lost = false → p.pcrc = pktCheck p →
  let part := p.part.toNat
  let block := p.addr.toNat
  let port (e : FEntry) : Option Nat := (s.portsOf e)[block / 2048 % (max 1 (s.portsOf e).length)]?
  let done (e : RedEnt) : Bool := e.coll == collKey p && e.block == block
  let flits (os : List Out) : Prop := ∀ o ∈ os, ∃ q f, o = .flit q f
  let rest (t : State) : Prop := t.mem = s.mem ∧ t.clusters = s.clusters ∧ t.parts = s.parts
  let quiet (t : State) : Prop := rest t ∧ ∃ os, t.out = s.out ++ os ∧ flits os
  let down (t : State) (bs : List Byte) : Prop := ∀ m e q, (∀ f, (s.pt part).fm = some f → f.entries.length ≤ 256) → (m, e) ∈ s.children part → port e = some q →
    ∃ o, o.ptype = 0x0C ∧ o.dstMod = BitVec.ofNat 8 m ∧ o.dstEp.toNat = 0x4000 + q / 4 ∧ o.addr = p.addr ∧ o.payload = bs ∧
      (q / 4 = l → (Out.forward (.linkDie l) q (hopped o) ∈ t.out ∨ o ∈ (t.link l).waiting) ∧
        (Tab.look (s.port q).used 0 5 + 65 * (s.children part).length ≤ 512 → Out.forward (.linkDie l) q (hopped o) ∈ t.out)) ∧
      (q / 4 ≠ l → (∃ k < 2, Out.forward (.linkDie l) (32 + k) (hopped o) ∈ t.out) ∨ o ∈ (t.link l).waiting)
  (∀ q k, s.redPort part block = some q → s.redSource p = some k →
    (q / 4 ≠ l → ∃ o : Packet, o.dstEp.toNat = 0x4000 + q / 4 ∧ { o with dstEp := p.dstEp, pcrc := p.pcrc, hchk := p.hchk } = p ∧
      (s.waysIn l p ≠ [] → Runs (.redUp l p) s (fun t => rest t ∧ t.kept = (s.keepOwn p).kept ∧
        ∃ k ∈ s.waysIn l p, ∃ os, t.out = s.out ++ .forward (.linkDie l) (32 + k) (hopped o) :: os ∧ flits os)) ∧
      (s.waysIn l p = [] → Runs (.redUp l p) s (fun t => quiet t ∧ t.kept = (s.keepOwn p).kept ∧ o ∈ (t.link l).waiting))) ∧
    (q / 4 = l →
      let old := (s.link l).red.find? done
      let vals := ((old.map (·.vals)).getD []) ++ [(k, wordsOf p.payload)]
      let all := (List.range ((s.children part).length + 1)).filterMap fun i => (vals.find? fun v => v.1 == i).map (·.2)
      (old = none → 16384 ≤ (s.link l).red.length → Runs (.redUp l p) s (fun t => (t = s.updLink l fun _ => t.link l) ∧ p ∈ (t.link l).waiting ∧
        (t.link l).red = (s.link l).red)) ∧
      (old.any (fun e => e.vals.any fun v => v.1 == k) = true → Runs (.redUp l p) s (fun t => quiet t ∧ t.kept = s.kept ∧ (t.link l).red = (s.link l).red)) ∧
      (old.any (fun e => e.vals.any fun v => v.1 == k) = false → (old = none → (s.link l).red.length < 16384) →
        Runs (.redUp l p) s (fun t => rest t ∧
          (all.length ≤ (s.children part).length → quiet t ∧ (t.link l).red.find? done = some { coll := collKey p, block := block, vals := vals } ∧
            (p.srcEp.toNat < 0x2000 → 0x2000 ≤ p.dstEp.toNat → ∃ k ∈ t.kept, k.p = p)) ∧
          (∀ m e, all.length = (s.children part).length + 1 → s.parentOf part = some (m, e) →
            ∃ o, o.ptype = 0x0B ∧ o.dstMod = BitVec.ofNat 8 m ∧ o.payload = bytesOf (redSum all) ∧ (∃ k ∈ t.kept, k.p = o) ∧
              (Tab.look (s.port q).used 0 4 + pktUnits o ≤ 512 → ∃ os, t.out = s.out ++ .forward (.linkDie l) q (hopped o) :: os ∧ flits os) ∧
              (512 < Tab.look (s.port q).used 0 4 + pktUnits o → quiet t ∧ o ∈ (t.link l).waiting)) ∧
          (all.length = (s.children part).length + 1 → s.parentOf part = none → (t.link l).red.find? done = none ∧ down t (bytesOf (redSum all))))))) ∧
  (let mine (k : Kept) : Bool := k.p.ptype == 0x0B && k.p.srcEp.toNat / 8192 == 2 && k.p.part == p.part && k.p.tag == p.tag && k.p.addr == p.addr
   let own (k : Kept) : Bool := k.p.ptype == 0x0B && k.p.part.toNat == part && k.p.tag == p.tag && k.p.addr == p.addr && k.p.srcMod == 0xFF
   Runs (.redDown l p) s (fun t => rest t ∧ down t p.payload ∧
     (∀ k < 8, (t.link k).red = (s.link k).red.filter fun e => !done e) ∧ (∀ k ∈ t.kept, mine k = false) ∧
     (s.children part = [] → (s.kept.filter fun k => !mine k).find? own = none → quiet t) ∧
     ∀ k, (s.kept.filter fun k => !mine k).find? own = some k → (∃ o, Out.packet o ∈ t.out ∧ o.ptype = 0x02 ∧ o.dstEp = k.p.dstEp ∧ o.window = k.p.window ∧
       o.granule = k.p.granule ∧ o.payload = p.payload) ∧ ∀ x ∈ t.kept, x ≠ k))

/-- Flits (R356 to R358, R365). On a port that is up in SFL mode, a flit that the FEC cannot correct, or whose length or check is wrong, is discarded: nothing is
received, and the port asks for a replay with one flit, which returns the credits it owes, unless 2 048 already await acknowledgement. A good flit in order, of whole packets whose headers hold,
advances the sequence expected, and its packets go to the link die. That answers a request whose source is not in the partition's map, or whose port's neighbour is not the map's; it
translates a read or write of memory for this module, answers one that fails, and sends what is for this module into the mesh, or keeps it waiting.
(What is the model's own in it: log entries 20, 211, 213.) -/
def Obligations.Flits : Prop := ∀ (s : State) (p : Nat) (fec : Bool) (bytes : List Byte), (s.port p).st = .up → (s.port p).mode = 0 →
  let good := fec && bytes.length == 640 && leNat ((bytes.drop 624).take 8) == (crc64 (bytes.take 624)).toNat
  let h := leNat (bytes.take 16)
  let l := p / 4
  (good = false → Runs (.sflFlit p fec bytes) s (fun t => t.mem = s.mem ∧ t.clusters = s.clusters ∧ t.parts = s.parts ∧ (t.port p).rxSeq = (s.port p).rxSeq ∧
    (t.port p).rx = (s.port p).rx ∧ (t.port p).naking = true ∧ ((s.port p).replay.length < 2048 → (t.port p).owed = [] ∧
      t.out = s.out ++ [.flit p (flitOf (flitHeader (s.port p).txSeq (((s.port p).rxSeq + 4095) % 4096) true true 0
        ((List.range 8).map fun k => Tab.look (s.port p).owed 0 k)) [])]))) ∧
  (good = true → bits h 0 12 = (s.port p).rxSeq → bit1 h 24 = false → (s.port p).replay = [] →
    let load := if bit1 h 25 then [] else if (s.port p).rx.isEmpty then ((bytes.drop 16).take 608).drop (bits h 26 6) else (bytes.drop 16).take 608
    let got := unitsSplit 16 ((s.port p).rx ++ load)
    (∀ q ∈ got.1, q.hchk = pktHcheck q ∧ q.hops ≠ 255) →
    Runs (.sflFlit p fec bytes) s (fun t => t.mem = s.mem ∧ t.parts = s.parts ∧ (t.port p).rxSeq = ((s.port p).rxSeq + 1) % 4096 ∧
      (t.port p).naking = false ∧ (t.port p).rx = got.2 ∧ ∀ q, got.1 = [q] → (s.link l).lost = false → q.srcMod ≠ 0xFF →
        let known := s.peerOk q && s.portMatches p q
        let answered (status : Byte) : Prop := ∀ a, refuseAnswer q status = some a → Out.packet (pktFinish a) ∈ t.out
        let goes (r : Packet) : Prop := (∃ k < 2, Out.forward (.linkDie l) (32 + k) (hopped r) ∈ t.out) ∨ r ∈ (t.link l).waiting
        (known = false → answered stProtect) ∧
        (known = true → (q.dstMod = 0xFF ∨ (s.pt q.part.toNat).fm.any (fun m => m.self == q.dstMod.toNat) = true) → q.dstEp.toNat ≠ 0x4000 + l →
          (s.forUs q = false → goes q) ∧
          (s.forUs q = true →
            let xl := s.xl (s.ctxPart q.part.toNat) (q.ptype == 0x02) q.addr.toNat (if q.ptype = 0x00 then min 2048 (q.msg.toNat % 65536) else q.payload.length)
            (∀ x, xl = .ok [x] → goes { q with phys := some x.pa, hc := x.hc }) ∧
            (∀ e, xl = .error e → e ≠ stHold → answered e)))))

/-- The identity of a neighbour (R359). A port in SFL mode that trains sends the module's identity, `0x1000.02`, and its number; a port is used for a map's entry only
when its neighbour holds the entry's identity; a port whose flit names a module other than one that a latched map, or the ledger partner's object, gives the
port is held down and counted in `0x5100.06`; otherwise it comes up with that neighbour. -/
def Obligations.Identity : Prop := ∀ (s : State) (p : Nat),
  s.constVal 0x1000 2 = Config.moduleId.toNat ∧
  ((s.port p).st = .retrain → (s.port p).mode = 0 → Runs (.retrainDone p true) s (fun t => t.out = s.out ++ [.identity p Config.moduleId] ++
    (s.port p).replay.map (fun f => Out.flit p f.2))) ∧
  (∀ e : FEntry, p ∈ s.portsOf e → (s.port p).peer = some e.modId) ∧
  (∀ (ident : Word) (pp : Nat), (s.port p).st ≠ .fused → (s.port p).st ≠ .down → (s.port p).mode = 0 →
    let badMap := (s.mapsListing p).any fun e => e.modId != ident
    let badPartner := s.cfg 0x2110 1 == 1 && bit1 (s.cfg 0x2110 3) p && s.cfg 0x2110 2 != ident.toNat
    ((badMap || badPartner) = true → Runs (.identityFlit p ident pp) s (fun t => t.port p = { s.port p with st := .heldDown, peer := some ident } ∧
      t.obj 0x5100 6 = (s.obj 0x5100 6 + 1) % 2 ^ 64 ∧ t.mem = s.mem ∧ t.parts = s.parts ∧ t.out = s.out ∧ ∀ q ≠ p, t.port q = s.port q)) ∧
    ((badMap || badPartner) = false → Runs (.identityFlit p ident pp) s (fun t => OnlyPort s t p ∧ t.port p = { s.port p with st := .up, peer := some ident })))

/-- Link ports and lanes (R357, R360, R403, R418, R423). A retrained port comes up and replays what it kept, which counts; one whose retraining fails spares a lane and
comes up at x4, or goes down; a failed lane of an x8 port starts a spare,
or leaves the port at x4 when none is free; a second failed lane takes it down; the trained spare takes the lane's place. A link die that is lost takes its
four ports down, is reset, and loses its reduction store and what waited in it.
(What is the model's own in it: log entries 29, 31, 212.) -/
def Obligations.Ports : Prop := ∀ (s : State) (p : Nat),
  ((s.port p).st = .up → Runs (.portRetrain p) s (fun t => OnlyPort s t p ∧ t.port p = { s.port p with st := .retrain, replays := 0 })) ∧
  ((s.port p).st = .retrain → Runs (.retrainDone p true) s (fun t => t.port p = { s.port p with st := .up, replays := 0, naking := false } ∧
    t.out = s.out ++ (if (s.port p).mode = 0 then [.identity p Config.moduleId] else []) ++ (s.port p).replay.map (fun f => Out.flit p f.2) ∧
    t.mem = s.mem ∧ t.parts = s.parts ∧ t.obj 0x5100 5 = (s.obj 0x5100 5 + (s.port p).replay.length) % 2 ^ 64)) ∧
  ((s.port p).st = .retrain →
    (((s.port p).mode ≠ 0 ∨ (s.port p).x4 = true) → Runs (.retrainDone p false) s (fun t => (t.port p).st = .down)) ∧
    (∀ n, (s.port p).mode = 0 → (s.port p).x4 = false → s.freeSpare (p / 4) = some n → Runs (.retrainDone p false) s (fun t => (t.port p).st = .down ∨
      ∃ lane < 8, t.port p = { s.port p with st := .up, replays := 0, naking := false, x4 := true, sparing := some (lane, n) }))) ∧
  ((s.port p).st ≠ .fused → (s.port p).st ≠ .down →
    Runs (.portDown p) s (fun t => (t.port p).st = .down ∧ (t.port p).replay = [] ∧ (t.port p).peer = none ∧ t.kept = s.kept ∧ (∀ q ≠ p, t.port q = s.port q) ∧
      t.out = s.out ++ (s.kept.filter fun k => k.p.dstMod != 0xFF && s.portFor k.p == some p).map (fun k => Out.packet k.p)) ∧
    (∀ lane n, (s.port p).mode = 0 → (s.port p).x4 = false → s.freeSpare (p / 4) = some n →
      ∀ i ∈ [Instr.laneSignalLoss p lane, .laneErrorThreshold p lane (s.cfg 0x2100 4 + 1)], Runs i s (fun t => OnlyPort s t p ∧
        t.port p = { s.port p with x4 := true, sparing := some (lane, n) })) ∧
    (∀ lane, (s.port p).mode = 0 → (s.port p).x4 = false → s.freeSpare (p / 4) = none →
      Runs (.laneSignalLoss p lane) s (fun t => t.port p = { s.port p with x4 := true, sparing := some (lane, 255) } ∧ t.obj 0x5000 6 = 1)) ∧
    (∀ lane, (s.port p).x4 = true → Runs (.laneSignalLoss p lane) s (fun t => (t.port p).st = .down))) ∧
  (∀ lane n, (s.port p).sparing = some (lane, n) → n < 36 → Runs (.spareLaneTrained p) s (fun t =>
    t.port p = { s.port p with x4 := false, sparing := none, lanes := (s.port p).lanes.set lane n } ∧ t.mem = s.mem ∧ t.parts = s.parts ∧ t.out = s.out)) ∧
  (∀ l, (s.link l).lost = false → Runs (.linkDieLoss l) s (fun t => (t.link l).lost = true ∧ (t.link l).red = [] ∧ (t.link l).waiting = [] ∧ Out.resetPart 2 l ∈ t.out ∧ t.kept = s.kept ∧
    ∀ j < 4, (t.port (4 * l + j)).st = .down ∨ (t.port (4 * l + j)).st = .fused))

/-- Translation caches and their invalidation (R268, R270, R271, R273). A finished walk is counted and a valid entry cached; a write of XROOT takes its
defined bits and begins an `all` invalidation; XINV begins one or is held while one runs; when it is done no unit of the module holds what it
names, a held one begins, and until no request that was translated before is under way `done` stays 0.
(What is the model's own in it: log entries 116, 120.) -/
def Obligations.Translations : Prop := ∀ (s : State) (p : Nat),
  (∀ c va pte size, (s.cl c).run = none → s.walk (s.pt p).x.xroot va = some (pte, size) → va < 2 ^ 48 →
    Runs (.pageWalkComplete c p (BitVec.ofNat 48 va)) s (fun t => t.mem = s.mem ∧ t.parts = s.parts ∧ t.obj 0x70B0 1 = (s.obj 0x70B0 1 + 1) % 2 ^ 64 ∧
      (t.cl c).tlb.getLast? = some { part := p, va := va / size * size, size := size, pte := BitVec.ofNat 64 pte, root := (s.pt p).x.xroot })) ∧
  (∀ v, (s.pt p).x.done = true →
    Runs (.xrootWrite p v) s (fun t => OnlyPart s t p ∧ (t.pt p).x = { (s.pt p).x with xroot := v &&& 0x0000FFFFFFFFF001, done := false, inv := some 1 })) ∧
  ((s.pt p).x.done = true → Runs (.xinvAll p) s (fun t => OnlyPart s t p ∧ (t.pt p).x = { (s.pt p).x with done := false, inv := some 1 })) ∧
  (∀ page : BitVec 36, (s.pt p).x.done = true → Runs (.xinvPage p page) s (fun t => OnlyPart s t p ∧
    (t.pt p).x = { (s.pt p).x with done := false, inv := some (BitVec.ofNat 64 (page.toNat * 4096)) })) ∧
  (∀ page : BitVec 36, (s.pt p).x.done = false → (s.pt p).x.held = none → Runs (.xinvPage p page) s (fun t => OnlyPart s t p ∧
    (t.pt p).x = { (s.pt p).x with held := some (BitVec.ofNat 64 (page.toNat * 4096)) })) ∧
  (∀ v, (s.pt p).x.inv = some v → Runs (.invalidationDone p) s (fun t => t.mem = s.mem ∧
    (t.pt p).x = (if s.xlUnderway p then (s.pt p).x else match (s.pt p).x.held with | some h => { (s.pt p).x with inv := some h, held := none, done := false } | none => { (s.pt p).x with inv := none, done := true }) ∧
    (∀ q ≠ p, t.pt q = s.pt q) ∧
    ∀ e ∈ t.clusters, ∀ x ∈ e.2.tlb, x.part = p → ¬(bit1 v.toNat 0 = true ∨ (x.va ≤ bits v.toNat 12 36 * 4096 ∧ bits v.toNat 12 36 * 4096 < x.va + x.size))))

/-- The ledger registers of a partition (R361, R370, R374, R375, R389). `init` needs `enable` 0 and no open entry, and makes the next sequence number 1; `resume`
leaves HALTED; PBLK, CLOG_BASE and FMAP writes are held until no entry is open, and the latch of CLOG_BASE zeroes head and tail;
a map that fails its check is not latched, and `0x5101.02` names the partition;
a port that no latched map lists any more takes its mode (R370).
(What is the model's own in it: log entries 103, 104.) -/
def Obligations.LedgerRegisters : Prop := ∀ (s : State) (p : Nat),
  (∀ b, (b = true → s.boot.stage = .l1 ∨ s.boot.stage = .l2) → p < 16 → Runs (.pctlEnable p b) s (fun t => (t.pt p).regs.enable = b ∧ t.mem = s.mem ∧
    (t.pt p).entries = (s.pt p).entries ∧ t.clusters = s.clusters ∧ t.out = s.out)) ∧
  (s.boot.stage ≠ .l1 → s.boot.stage ≠ .l2 → Runs (.pctlEnable p true) s (fun t => p ∈ t.boot.heldEnables ∧ t.parts = s.parts ∧ t.clusters = s.clusters)) ∧
  ((s.pt p).regs.enable = false → (s.pt p).entries = [] →
    Runs (.pctlInit p) s (fun t => (t.pt p) = { s.pt p with nextSeq := 1, w := 0, entries := [], fenceErr := 0, fenceAt := 0 } ∧ t.mem = s.mem ∧ t.clusters = s.clusters)) ∧
  (((s.pt p).regs.enable = true ∨ (s.pt p).entries ≠ []) → exec (.pctlInit p) s = .next s) ∧
  Runs (.pctlResume p) s (fun t => OnlyPart s t p ∧ t.pt p = { s.pt p with regs := { (s.pt p).regs with halted := false } }) ∧
  (∀ v, Runs (.pblkWrite p v) s (fun t => OnlyPart s t p ∧ t.pt p = { s.pt p with regs := { (s.pt p).regs with pblkHeld := some (v &&& 0x0000FFFFFFFFFFC1) } })) ∧
  (∀ v, Runs (.clogBaseWrite p v) s (fun t => OnlyPart s t p ∧ t.pt p = { s.pt p with regs := { (s.pt p).regs with clogHeld := some (v &&& 0x0000FFFFFFFFF01F) } })) ∧
  (∀ v, Runs (.fmapWrite p v) s (fun t => OnlyPart s t p ∧ t.pt p = { s.pt p with x := { (s.pt p).x with fmapHeld := some (v &&& 0x0000FFFFFFFFFFC1) } })) ∧
  (∀ v, (s.pt p).regs.clogHeld = some v → (s.pt p).entries = [] → Runs (.clogBaseLatch p) s (fun t => OnlyPart s t p ∧
    t.pt p = { s.pt p with fullTold := false, regs := { (s.pt p).regs with clogBase := v, clogHeld := none, head := 0, tail := 0 } })) ∧
  (∀ v, (s.pt p).regs.pblkHeld = some v → (s.pt p).entries = [] → bit1 v.toNat 0 = true → p < 16 →
    (∀ bs, s.hbmBlock (bits v.toNat 6 42 * 64) 192 = some bs → s.blockOk p (leNat bs) = true →
      Runs (.pblkLatch p) s (fun t => (t.pt p).blk = some (blockOfBits (leNat bs)) ∧ (t.pt p).regs.pblk = v ∧ (t.pt p).regs.pblkHeld = none)) ∧
    (∀ bs, s.hbmBlock (bits v.toNat 6 42 * 64) 192 = some bs → s.blockOk p (leNat bs) = false →
      exec (.pblkLatch p) s = .next ((s.updRegs p fun r => { r with pblkHeld := none }).setObj 0x5806 1 p))) ∧
  (∀ v, (s.pt p).x.fmapHeld = some v → (s.pt p).entries = [] → bit1 v.toNat 0 = false →
    Runs (.fmapLatch p) s (fun t => t.mem = s.mem ∧ t.clusters = s.clusters ∧ t.out = s.out ∧ (∀ q ≠ p, t.pt q = s.pt q) ∧
      (t.pt p).fm = none ∧ (t.pt p).pairings = 0 ∧ (t.pt p).x.fmap = v ∧
      ∀ q < 32, t.mapsListing q = [] → (s.port q).st ≠ .fused → s.ports ≠ [] → (t.port q).mode = s.cfg 0x2101 (q + 1))) ∧
  (∀ v bs, (s.pt p).x.fmapHeld = some v → (s.pt p).entries = [] → bit1 v.toNat 0 = true →
    ((s.hbmBlock (bits v.toNat 6 42 * 64) 64).bind fun h => s.hbmBlock (bits v.toNat 6 42 * 64) (64 * (1 + bits (leNat h) 16 8))) = some bs →
    Runs (.fmapLatch p) s (fun t => (t.pt p).x.fmapHeld = none ∧ t.mem = s.mem ∧
      if s.fmapOk p bs then (t.pt p).fm = some { self := bits (leNat (bs.take 64)) 24 8, entries := (fmapOf bs).2 } ∧ (t.pt p).pairings = 0
      else (t.pt p).fm = (s.pt p).fm ∧ (t.pt p).x.fmap = (s.pt p).x.fmap ∧ t.obj 0x5101 2 = p % 2 ^ 64))

/-- REGISTER_WRITE (R65, R93, R252, R257, R374, R392, R411). An aligned write of a word of the staging slot, of TAIL, of an IRQ register or of the event log's base takes its
value there and changes nothing else; one of a cross-domain queue's status clears its sticky bits and sets `cut_at`; one of a channel register switches the channel; a read of a window
register answers its two words; an unaligned one faults.
(What is the model's own in it: log entries 10, 102, 156.) -/
def Obligations.RegisterWrites : Prop := ∀ (s : State) (v : Word), s.power.st ≠ .s3 → s.power.st ≠ .s5 →
  (∀ p < 16, ∀ i < 8, Runs (.registerWrite (BitVec.ofNat 48 (0xF0000200000 + 256 * p + 8 * i)) v) s (fun t => OnlyPart s t p ∧
    (∀ j < 8, bits (t.pt p).regs.slot.toNat (64 * j) 64 = if j = i then v.toNat else bits (s.pt p).regs.slot.toNat (64 * j) 64))) ∧
  (∀ p < 16, Runs (.registerWrite (BitVec.ofNat 48 (0xF0000200000 + 256 * p + 0x70)) v) s (fun t => OnlyPart s t p ∧ (t.pt p).regs.tail = v.toNat % 2 ^ 32)) ∧
  (∀ p < 16, Runs (.registerWrite (BitVec.ofNat 48 (0xF0000200000 + 256 * p + 0x78)) v) s (fun t => OnlyPart s t p ∧ (t.pt p).regs.irq = v &&& 0x7FFFF)) ∧
  Runs (.registerWrite 0xF0000201000 v) s (fun t => t = { s with evt := { s.evt with base := v &&& 0x0000FFFFFFFFF01F, head := 0, tail := 0 } }) ∧
  Runs (.registerWrite 0xF0000202010 v) s (fun t => t = { s with recov := { s.recov with irq := v &&& 0x7FFFF } }) ∧
  (∀ o q, queueAt o = some q → Runs (.registerWrite (BitVec.ofNat 48 (0xF0000210000 + o)) v) s (fun t =>
    t = s.setQueue q { s.queue q with st := (s.queue q).st.write v.toNat })) ∧
  (s.padsOpen = true → ∀ c < 1088,
    (∀ chan < 16, Runs (.registerWrite (BitVec.ofNat 48 (0xF1000000000 + 0x1000 * c + 0x100 + 16 * chan)) v) s (fun t => t = (s.woken c).chctl c chan (bit1 v.toNat 0))) ∧
    ∀ (p : Packet) (w : Nat), w < 8 → p.pcrc = pktCheck p → p.srcMod = 0xFF →
      let word (n : Nat) : Prop := Runs (.readReq p) s (fun t => t.mem = s.mem ∧ t.parts = s.parts ∧
        t.out = s.out ++ [.packet (pktFinish (packetOf 0x01 1 p.srcEp p.dstEp 0xFF p.part.toNat p.tag p.addr.toNat 0 (natLe 8 (n % 2 ^ 64))))])
      (p.addr.toNat = 0xF1000000000 + 0x1000 * c + 16 * w → word (s.win c w).word.toNat) ∧
      (p.addr.toNat = 0xF1000000000 + 0x1000 * c + 16 * w + 8 → word ((s.win c w).word.toNat / 2 ^ 64))) ∧
  ∀ pa : BitVec 48, pa.toNat % 8 ≠ 0 → exec (.registerWrite pa v) s = .fault (.absentAddress pa.toNat)

/-- APPEND (R377). When no reason for BUSY holds the read takes the slot as the next entry, whatever the descriptor, and answers status 0 and its sequence number; the
numbers run 1, 2, 3 and so on. When one holds it answers BUSY with a reason that holds, records nothing, leaves the slot, and is counted in `0x5803`. -/
def Obligations.Appends : Prop := ∀ (s : State) (p : Nat),
  let holds (r : Nat) : Prop := (r = 1 ∧ 65536 ≤ (s.pt p).entries.length) ∨ (r = 2 ∧ (s.pt p).regs.enable = false) ∨ (r = 3 ∧ (s.pt p).rebuilding = true) ∨
    (r = 4 ∧ s.boot.sealed = true) ∨ (r = 5 ∧ 2 ^ 48 ≤ (s.pt p).nextSeq)
  (State.reset.pt p).nextSeq = 1 ∧
  ((∀ r, ¬ holds r) → Runs (.append p) s (fun t => OnlyPart s t p ∧ (t.pt p).entries = (s.pt p).entries ++ [{ seq := (s.pt p).nextSeq, desc := (s.pt p).regs.slot }] ∧
    (t.pt p).nextSeq = (s.pt p).nextSeq + 1 ∧ (t.pt p).regs.append = BitVec.ofNat 64 (s.pt p).nextSeq ∧ (t.pt p).regs.lastSeq = (s.pt p).nextSeq)) ∧
  ((∃ r, holds r) → Runs (.append p) s (fun t => (t.pt p).entries = (s.pt p).entries ∧ (t.pt p).nextSeq = (s.pt p).nextSeq ∧ (t.pt p).regs.slot = (s.pt p).regs.slot ∧
    (∃ r, holds r ∧ (t.pt p).regs.append = BitVec.ofNat 64 (0x10 * 2 ^ 48 + r * 2 ^ 56)) ∧ t.obj 0x5803 (p + 1) = (s.obj 0x5803 (p + 1) + 1) % 2 ^ 64 ∧
    t.clusters = s.clusters ∧ t.mem = s.mem ∧ t.out = s.out))

/-- FENCE and the halt (R389). A FENCE whose start rules hold and whose descriptor is well formed completes at once with DONE; with `halt` set and an error recorded
since the previous FENCE the partition halts and event 0x01 is raised; either way later FENCEs look at later entries only. The number of an entry that completes with an error is
recorded. A halted partition accepts appends, starts nothing, and takes aborts; writing `resume` ends the halt. -/
def Obligations.Fence : Prop := ∀ (s : State) (p seq : Nat) (e : Entry), s.entry p seq = some e → e.seq = seq →
  (cdType e.desc = 6 → descOk e.desc = true → s.mayStart p e = true →
    Runs (.fence p seq) s (fun t => ∃ u : State,
      (u.pt p).fenceErr = (s.pt p).fenceErr ∧ (u.pt p).fenceAt = max (s.pt p).fenceAt seq ∧
      (u.pt p).regs.halted = ((s.pt p).regs.halted || (cdHalt e.desc && decide ((s.pt p).fenceAt < (s.pt p).fenceErr))) ∧
      (∃ e', u.entry p seq = some e' ∧ e'.st = .finished ∧ e'.status = stDone ∧ e'.done = true) ∧ u.mem = s.mem ∧ u.clusters = s.clusters ∧ u.out = s.out ∧
      t = if cdHalt e.desc && decide ((s.pt p).fenceAt < (s.pt p).fenceErr) then u.event 1 p seq else u)) ∧
  (s.isOver p e = true → e.spec = false → e.fails ≠ [] → (∀ f ∈ e.fails, f.status ≠ stUncorrectable ∧ stDoneWarn < f.status) →
    Runs (.consignmentComplete p seq) s (fun t => ∃ u : State, t = (e.twice.foldl State.clusterFails u).startReady p ∧ (u.pt p).fenceErr = max (s.pt p).fenceErr seq)) ∧
  ((s.pt p).regs.halted = true →
    (∀ x, s.mayStart p x = false ∧ s.mayBegin p x = false) ∧
    Runs (.pctlResume p) s (fun t => t = s.updPt p fun pt => { pt with regs := { pt.regs with halted := false } }) ∧
    (s.busyReason p = none → Runs (.append p) s (fun t => (t.pt p).entries.length = (s.pt p).entries.length + 1)) ∧
    (∀ a : BitVec 48, (s.pt p).entries = [e] → e.st = .accepted → seq ≤ a.toNat → (s.pt p).w < a.toNat →
      Runs (.hostAbort p a) s (fun t => ∃ e', t.entry p seq = some e' ∧ e'.st = .finished ∧ e'.status = stAborted)))

/-- RUN, NOP, speculative starts and COMMIT (R287, R289, R298, R301, R380, R382, R383). A consignment whose start rules hold enters RUNNING, with the views and
the geometry generation latched. A NOP, and a RUN with no directory entries, has nothing to do; a RUN or COMMIT whose directory checks starts on its
clusters as they are free; a descriptor that breaks R382 completes with CONSIGNMENT_INVALID.
(What is the model's own in it: log entries 44, 113.) -/
def Obligations.Starts : Prop := ∀ (s : State) (p seq : Nat) (e : Entry), s.entry p seq = some e → e.seq = seq →
  let t0 := s.enterRun p e false (s.pt p).e
  (s.mayStart p e = true → descOk e.desc = true →
    (cdType e.desc = 7 → Runs (.nop p seq) s (fun t => ∃ e', t.entry p seq = some e' ∧ e'.st = .running ∧ e'.done = true ∧ e'.desc = e.desc ∧ e'.spec = false ∧ t.mem = s.mem ∧ t.clusters = s.clusters)) ∧
    (cdType e.desc = 0 → cdSize e.desc = 0 → Runs (.run p seq) s (fun t => ∃ e', t.entry p seq = some e' ∧ e'.st = .running ∧ e'.done = true)) ∧
    (cdType e.desc = 0 → cdSize e.desc ≠ 0 → ∀ dir a, Job.exec (dirOf t0 p e.desc e.rerun) = (.ok dir, a) →
      Runs (.run p seq) s (fun t => ∃ u : State, (∃ e', u.entry p seq = some e' ∧ e'.st = .running ∧ e'.dir = dir ∧ e'.todo = dir ∧ e'.clusters = dir.map (·.1)) ∧
        t = u.startReady p)) ∧
    (cdType e.desc = 3 → cdSize e.desc ≠ 0 → ∀ b rs dir a, Job.exec (commitRead (t0.dropDrifts p) p e false) = (.ok (b, rs, dir), a) →
      Runs (.commit p seq) s (fun t => ∃ u : State, t = u.takeDir p seq dir ∧ (∃ k, (u.pt p).commit = some k ∧ k.seq = seq ∧ k.st = .updating ∧ k.p = (s.pt p).e + 1 ∧
        k.retained = retainedOf rs ∧ k.pairing = (s.pt p).pairings + 1 ∧ k.s = (if fld b 314 1 = 1 then fld b 320 64 else (s.pt p).s))))) ∧
  (s.mayStart p e = true → descOk e.desc = false → cdType e.desc = 0 ∨ cdType e.desc = 7 →
    exec (if cdType e.desc = 0 then .run p seq else .nop p seq) s = .next (t0.refuseEntry p seq stConsignment)) ∧
  (∀ k, (s.pt p).commit = some k → k.st = .gating → s.mayBegin p e = true → cdSpec e.desc = true → cdType e.desc = 7 → descOk e.desc = true →
    ((s.pt p).entries.filter fun x => x.spec && x.st == .running).length < min 16 (s.cfg 0x2070 1) →
    Runs (.speculativeStart p seq) s (fun t => ∃ e', t.entry p seq = some e' ∧ e'.st = .running ∧ e'.spec = true ∧ e'.done = true ∧ e'.views = s.epochs.set p k.p))

/-- COPY (R381): once started on a free cluster of its set with both channels 7 enabled, and if its ranges read and write, the bytes of the source are stored over
the destination, in the bytes that do not overlap, and the entry is done with their CRC-32C and count as results.
(What is the model's own in it: log entries 112, 153.) -/
def Obligations.Copies : Prop := ∀ (s : State) (p seq : Nat) (e : Entry), s.entry p seq = some e → e.seq = seq → cdType e.desc = 1 → descOk e.desc = true →
  s.mayStart p e = true → (s.setOf p).contains (cdExec e.desc) = true → cdSize e.desc ≠ 0 → s.freeFor p e (cdExec e.desc) = true →
  (s.chan (cdExec e.desc) 7).disable = false → (s.chan (cdExec e.desc) 15).disable = false →
  let t0 := s.enterRun p e false (s.pt p).e
  (∀ bs staged a, Job.exec (copyJob t0 p e.desc) = (.ok (bs, staged), a) → a.retained t0 = false →
    Runs (.copy p seq) s (fun t => (∃ e', t.entry p seq = some e' ∧ e'.done = true ∧ e'.res0 = (crc32c bs).setWidth 64 ∧ e'.res1 = BitVec.ofNat 64 bs.length) ∧
      (staged = false → t.mem = (t0.settle a true).mem))) ∧
  (∀ g q d, Job.exec (readRaw t0 { t0.ctxPart p with cluster := some (cdExec e.desc) } (cdAddr0 e.desc) (64 * cdSize e.desc)) = (.ok g, q) →
    t0.xl { t0.ctxPart p with cluster := some (cdExec e.desc) } true (cdAddr1 e.desc) (64 * cdSize e.desc) = .ok [d] → padCluster d.pa = some (cdExec e.desc) →
    t0.lostIn d.pa d.n = false → t0.retainedAt d.pa d.n none = false → copyOverlap (cdAddr0 e.desc) (cdAddr1 e.desc) (64 * cdSize e.desc) = (0, 0) → g.bytes.length = d.n →
    Runs (.copy p seq) s (fun t => ∀ a, t.mem.byte a = if d.pa ≤ a ∧ a < d.pa + d.n then g.bytes.getD (a - d.pa) 0 else s.mem.byte a))

/-- PHASE, SNAPSHOT and MASK_UPDATE (R165, R175, R376, R393 to R395). A PHASE that checks waits until the windows, events and stations of its set are idle, then hands its group's set to the partition it names and is done; a SNAPSHOT that
reads its records sends its frames and is done with their number; a started MASK_UPDATE without records is done, and one whose blocks check and whose work succeeds
has written its alternate buffers and holds its flips and counts; the flip of a finished one writes its pairs, and
E advances while S stays.
(What is the model's own in it: log entries 101, 110, 117, 118.) -/
def Obligations.PhaseSnapshotMask : Prop := ∀ (s : State) (p seq : Nat) (e : Entry), s.entry p seq = some e → e.seq = seq →
  let t0 := s.enterRun p e false (s.pt p).e
  let passes (e : Entry) (t : State) : Prop := (t.pt (cdTo e.desc)).regs.holds = true ∧ (t.pt p).regs.holds = false ∧ t.mem = s.mem ∧
    ∃ e', t.entry p seq = some e' ∧ e'.done = true ∧ e'.st = .running
  (s.mayStart p e = true → descOk e.desc = true → cdType e.desc = 4 → s.phaseOk p e.desc = true →
    (s.phaseIdle p = true → Runs (.phase p seq) s (passes e)) ∧
    (s.phaseIdle p = false → Runs (.phase p seq) s (fun t => t.mem = s.mem ∧ t.clusters = s.clusters ∧ (∀ q ≠ p, t.pt q = s.pt q) ∧
      ∃ e', t.entry p seq = some e' ∧ e'.done = false ∧ e'.st = .running))) ∧
  (cdType e.desc = 4 → e.st = .running → e.done = false → e.abort = false → e.rerun = false → cdTo e.desc ≠ p →
    (s.phaseIdle p = true → Runs (.phase p seq) s (passes e)) ∧ (s.phaseIdle p = false → exec (.phase p seq) s = .next s)) ∧
  (s.mayStart p e = true → descOk e.desc = true → cdType e.desc = 2 → cdSize e.desc = 0 →
    Runs (.maskUpdate p seq) s (fun t => t.mem = s.mem ∧ ∃ e', t.entry p seq = some e' ∧ e'.done = true ∧ e'.st = .running)) ∧
  (s.mayStart p e = true → descOk e.desc = true → cdType e.desc = 2 → cdSize e.desc ≠ 0 → e.flips = [] → e.abort = false →
    let t1 := t0.dropDrifts p
    ∀ ps0 a0, Job.exec (maskPlans t1 (t1.ctxPart p) (t1.pt p).e (t1.setOf p) (cdAddr0 e.desc) (cdSize e.desc)) = (.ok ps0, a0) →
    let u := t1.settle a0
    u.gateOpen p (u.pt p).e = true → ∀ plans a1, Job.exec (do
      let plans ← maskPlans u (u.ctxPart p) (u.pt p).e (u.setOf p) (cdAddr0 e.desc) (cdSize e.desc)
      maskTags u (u.ctxPart p) ((u.pt p).e + 1) plans
      pure plans) = (.ok plans, a1) →
    let v := u.settle a1
    ∀ n fl a2, Job.exec (do
      let n ← maskWork v (u.ctxPart p) (cdKey e.desc) plans
      let fl ← Job.map (maskFlips v (u.ctxPart p)) plans
      pure (n, fl.flatten)) = (.ok (n, fl), a2) →
    Runs (.maskUpdate p seq) s (fun t => t.mem = (v.settle a2).mem ∧ (t.pt p).e = (s.pt p).e ∧ ∃ e', t.entry p seq = some e' ∧ e'.st = .running ∧ e'.fails = [] ∧
      e'.flips = fl ∧ e'.counts = n)) ∧
  (s.mayStart p e = true → descOk e.desc = true → cdType e.desc = 5 → ∀ b z a,
    Job.exec (do let y ← readVa t0 (t0.ctxPart p) (cdAddr0 e.desc) 64
                 let b : Desc := BitVec.ofNat 512 (leNat y)
                 Job.require (t0.snapOk b) stConsignment
                 let z ← snapStream t0 p b (s.pt p).e
                 pure (b, z)) = (.ok (b, z), a) → a.writes = [] → a.outs = [] →
    Runs (.snapshot p seq) s (fun t => t.mem = s.mem ∧ (∃ e' n, t.entry p seq = some e' ∧ e'.done = true ∧ e'.res0 = BitVec.ofNat 64 n ∧
      e'.res1 = BitVec.ofNat 64 (z.length + 12) ∧ t.out.length = s.out.length + n))) ∧
  ((s.pt p).entries.find? (fun e => e.st == .running && cdType e.desc == 2 && !e.flips.isEmpty && !e.done && !e.rerun && !e.abort && e.fails.isEmpty) = some e →
    Runs (.maskFlip p) s (fun t => t.mem = e.flips.foldl (fun m f => m.writeN f.pa f.bytes) s.mem ∧ (t.pt p).e = (s.pt p).e + 1 ∧ (t.pt p).s = (s.pt p).s ∧
      ∃ e', t.entry p seq = some e' ∧ e'.done = true ∧ e'.flips = [] ∧ e'.res0 = BitVec.ofNat 64 e.counts.1 ∧ e'.res1 = BitVec.ofNat 64 e.counts.2.1))

/-- Completion and the log (R77, R384 to R386, R388, R409). The record of an entry that is over is stored: FINISHED, or HELD while speculative, with the lowest error
code of its reports, else DONE_WARN or DONE; after an error the bytes that its waybills had begun to write are undefined, and no others change, and a cluster that failed a second verdict for it is faulted (R409). The oldest FINISHED entry is written to the log when it has space, at the place of HEAD, and W takes its number.
An abort ends an ACCEPTED entry at once.
(What is the model's own in it: log entry 45.) -/
def Obligations.Completion : Prop := ∀ (s : State) (p seq : Nat) (e : Entry), s.entry p seq = some e → e.seq = seq →
  (s.isOver p e = true → (∀ f ∈ e.fails, f.status ≠ stUncorrectable) → Runs (.consignmentComplete p seq) s (fun t => ∃ u : State, t = (e.twice.foldl State.clusterFails u).startReady p ∧
    u.mem = (if s.statusOf p e = stDone ∨ s.statusOf p e = stDoneWarn then s.mem else (s.scrambleAll e.begun).mem) ∧
    (∃ e', u.entry p seq = some e' ∧ e'.st = (if e.spec then .held else .finished) ∧ e'.status = s.statusOf p e ∧ e'.fails = e.fails ∧ e'.flags = e.flags) ∧
    (u.pt p).w = (s.pt p).w)) ∧
  (∀ rest, (s.pt p).entries = e :: rest → e.st = .finished → s.boot.sealed = false → s.clogSize p ≠ 0 →
    ((s.pt p).regs.head + 2 ^ 32 - (s.pt p).regs.tail) % 2 ^ 32 < s.clogSize p →
    Runs (.logRecord p) s (fun t => (t.pt p).entries = rest ∧ (t.pt p).w = seq ∧ (t.pt p).regs.head = ((s.pt p).regs.head + 1) % 2 ^ 32 ∧
      ∀ a, ¬(bits (s.pt p).regs.clogBase.toNat 12 36 * 4096 + 64 * ((s.pt p).regs.head % s.clogSize p) ≤ a ∧
             a < bits (s.pt p).regs.clogBase.toNat 12 36 * 4096 + 64 * ((s.pt p).regs.head % s.clogSize p) + 64) → t.mem.byte a = s.mem.byte a)) ∧
  (∀ a : BitVec 48, (s.pt p).entries = [e] → e.st = .accepted → seq ≤ a.toNat → (s.pt p).w < a.toNat →
    Runs (.hostAbort p a) s (fun t => OnlyPart s t p ∧ (t.pt p).regs.abortSeq = a.toNat ∧ (t.pt p).fenceErr = max (s.pt p).fenceErr seq ∧
      ∃ e', t.entry p seq = some e' ∧ e'.st = .finished ∧ e'.status = stAborted))

/-- Other modules and recovery (R291, R313, R332, R410, R411, R414). Values of a module of the group are kept for the gate; a geometry advance counts one; a rerun
notice stops the undecided COMMIT, drops the values of its pairing, and runs it again from UPDATING, or, after a die loss, leaves it stopped; a record is acknowledged by its number, which lets its partitions go on.
(What is the model's own in it: log entries 113, 136, 196.) -/
def Obligations.GroupAndRecovery : Prop := ∀ (s : State) (p : Nat),
  (∀ mod k clip sq nf, (s.pt p).groupPeers.contains mod = true → Runs (.commitPartials p mod k clip sq nf) s (fun t => ∃ u : State, t = u.decideGate p ∧ OnlyPart s u p ∧
    (u.pt p).peers = (s.pt p).peers.filter (fun v => !(v.mod == mod && v.k == k && v.clip == clip)) ++ [{ k := k, clip := clip, mod := mod, sq := sq, nf := nf }])) ∧
  (p < 16 → Runs (.geometryAdvanceNotice p) s (fun t => (∀ q, t.pt q = if q = p then { s.pt p with geo := ((s.pt p).geo + 1) % 2 ^ 32 } else s.pt q) ∧
    t.obj 0x7801 (p + 1) = ((s.pt p).geo + 1) % 2 ^ 32)) ∧
  (∀ k e, (s.pt p).commit = some k → k.st = .updating ∨ k.st = .gating ∨ k.st = .clipping → s.entry p k.seq = some e →
    e.abort = false → e.twice = [] → (∀ f ∈ e.fails, f.status ≠ stFirmware) →
    let stopped (u : State) : Prop := (∃ e', u.entry p k.seq = some e' ∧ e'.desc = e.desc ∧ e'.rerun = true ∧ e'.fails = [] ∧ e'.ended = [] ∧ e'.todo = []) ∧
      (∃ k', (u.pt p).commit = some k' ∧ k'.seq = k.seq ∧ k'.pairing = k.pairing ∧ k'.st = .updating ∧ k'.cvals = [] ∧ k'.stepped = []) ∧
      ∀ v ∈ (u.pt p).peers, v.k ≠ k.pairing
    Runs (.rerunNotice ⟨p, false⟩) s (fun t => ∃ u, stopped u ∧ t = u.rerunPart p) ∧
    Runs (.rerunNotice ⟨p, true⟩) s (fun t => stopped t ∧ ∃ e', t.entry p k.seq = some e' ∧ e'.frozen = true)) ∧
  (∀ v r rest, s.recov.recs = r :: rest → v.toNat % 65536 ≠ r.no → exec (.rack v) s = .next s) ∧
  (∀ v r rest, s.recov.recs = r :: rest → r.repl = none → v.toNat % 65536 = r.no → (∀ q < 16, (s.pt q).entries = []) →
    Runs (.rack v) s (fun t => t.mem = s.mem ∧ t.recov = { s.recov with recs := rest } ∧
      ∀ q, (t.pt q).stops = if q ∈ r.parts then (s.pt q).stops.filter (· != r.no) else (s.pt q).stops)) ∧
  (∀ v r, s.recov.recs = [r] → r.repl = none → v.toNat % 65536 = r.no → Runs (.rack v) s (fun t => ∃ u : State, u.recov = { s.recov with recs := [] } ∧
    (∀ q, (u.pt q).stops = if q ∈ r.parts then (s.pt q).stops.filter (· != r.no) else (s.pt q).stops) ∧ (∀ q, (u.pt q).entries = (s.pt q).entries) ∧
    u.mem = s.mem ∧ u.clusters = s.clusters ∧ t = (List.range 16).foldl (fun t p => t.rerunPart p) u))

/-- Cluster faults (R403, R409 to R412, R497). A fault of an active cluster of a running module whose die has its spare left, or a handshake unanswered for
`0x2120.04` (held between its bounds), marks the cluster failed, gives the spare its role, clears both scratchpads to zero, and posts record kind 1, which
stops the partitions it names. Where the fault is an inconsistency that the core's firmware found, its consignment fails with FIRMWARE_ERROR as well (R75).
(What is the model's own in it: log entries 137, 179.) -/
def Obligations.ClusterFaults : Prop := ∀ (s : State) (c sp : Nat), (s.cl c).stat = .active → s.spareOf (c / 17) = some sp →
  (s.recov.recs.any fun r => (r.kind == 1 || r.kind == 2) && r.failed / 17 == c / 17) = false → s.boot.stage = .l1 ∨ s.boot.stage = .l2 →
  let after (t : State) : Prop := (t.cl c).stat = .failed ∧ (t.cl c).repl = some sp ∧ (t.cl sp).stat = .active ∧ (t.cl sp).role = (s.cl c).role ∧
    (t.die (c / 17)).spareUsed = true ∧ (∀ a, (padOf c ≤ a ∧ a < padOf c + padSize) ∨ (padOf sp ≤ a ∧ a < padOf sp + padSize) → t.mem.byte a = 0) ∧
    ∃ ps, t.recov.recs = s.recov.recs ++ [{ kind := 1, failed := c, repl := some sp, parts := ps, no := s.recov.next % 65536 }] ∧
      ∀ p ∈ ps, s.recov.next % 65536 ∈ (t.pt p).stops
  Runs (.clusterFault ⟨c, false⟩) s after ∧
  ((s.cl c).run = none → Runs (.clusterFault ⟨c, true⟩) s after) ∧
  (∀ r x, (s.cl c).run = some r → s.entry r.part r.seq = some x → r.part < 16 → r.commit = false →
    Runs (.clusterFault ⟨c, true⟩) s (fun t => after t ∧ ∃ x', t.entry r.part r.seq = some x' ∧ ∃ f ∈ x'.fails, f.status = stFirmware ∧ f.cluster = c)) ∧
  ∀ us, clampN 100 9000 (s.cfg 0x2120 4) ≤ us → Runs (.handshakeTimeout c us) s after

/-- Losses of a die, a hub, a stack, a CXL port (R413, R415 to R417, R499). Each loss of a part not yet lost marks it and posts its record; a die loss fails every
cluster of the die and advances the geometry of every partition, and a second failed cluster of a die within one recovery is a die loss; a lost hub takes its attach ports down; a port of the CXL tier that returns with no loss reported keeps its bytes. The standby host die takes over, at once or when no heartbeat has come for `0x2120.03`; an SD fault ends every verification under way with reason 6; a restart of
the AOC leaves the module as it is; checkpoint rows are flushed into the slot's copies and nowhere else (R406, R409, R419 to R421).
(What is the model's own in it: log entry 135.) -/
def Obligations.Losses : Prop := ∀ (s : State),
  (s.boot.stage = .l1 ∨ s.boot.stage = .l2 →
    let posts (t : State) (kind failed : Nat) : Prop :=
      ∃ ps, t.recov.recs = s.recov.recs ++ [{ kind := kind, failed := failed, repl := none, parts := ps, no := s.recov.next % 65536 }]
    (∀ d ok, (s.die d).failed = false → Runs (.dieLoss d ok []) s (fun t => posts t 3 d ∧ (t.die d).failed = true ∧ (t.die d).treePos = none ∧
      (∀ k < 17, (s.cl (d * 17 + k)).stat ≠ .fusedOff → (t.cl (d * 17 + k)).stat = .failed ∧ (t.cl (d * 17 + k)).run = none) ∧
      ∀ p < 16, (t.pt p).geo = ((s.pt p).geo + 1) % 2 ^ 32)) ∧
    (∀ c, (s.cl c).stat = .active → (s.recov.recs.any fun r => (r.kind == 1 || r.kind == 2) && r.failed / 17 == c / 17) = true →
      Runs (.clusterFault ⟨c, false⟩) s (fun t => posts t 3 (c / 17) ∧ (t.die (c / 17)).failed = true)) ∧
    (∀ h < 4, (s.hub h).lost = false → Runs (.hubLoss h) s (fun t => posts t 4 h ∧ (t.hub h).lost = true ∧ h ∈ t.plan.cxlDown ∧ ∀ d ∈ hubAttach h, h ∈ (t.die d).portsDown)) ∧
    (∀ p, (s.pt p).rebuilding = true → Runs (.mirrorRebuilt p) s (fun t => (t.pt p).rebuilding = false ∧ (t.pt p).entries = (s.pt p).entries)) ∧
    (∀ m, s.plan.lostStacks.contains m = false → Runs (.stackLoss m) s (fun t => posts t 5 m ∧ t.plan.lostStacks = s.plan.lostStacks ++ [m] ∧ t.boot.memFault = true)) ∧
    (∀ x, s.plan.cxlDown.contains x = false → Runs (.cxlPortLoss x) s (fun t => posts t 6 x ∧ t.plan.cxlDown = s.plan.cxlDown ++ [x])) ∧
    (∀ x, s.plan.cxlDown.contains x = true → (s.hub x).lost = false → Runs (.cxlPortRetrained x false) s (fun t => t.mem = s.mem ∧
      t.plan.cxlDown = s.plan.cxlDown.filter (· != x)))) ∧
  (let p := s.boot.hostPrimary
   let takes (t : State) : Prop := t.boot.hostPrimary = 1 - p ∧ t.boot.hostsLost = s.boot.hostsLost ++ [p] ∧ t.obj 0x5000 9 = 1 - p ∧ t.parts = s.parts
   s.boot.hostsLost.contains p = false → s.boot.hostsLost.contains (1 - p) = false →
    Runs .hostDieLoss s takes ∧ ∀ ms, clampN 100 4000 (s.cfg 0x2120 3) ≤ ms → Runs (.heartbeatTimeout ms) s takes) ∧
  Runs .sdFault s (fun t => t.boot.sdFaulted = true ∧ t.mem = s.mem ∧ t.parts = s.parts ∧ t.clusters = s.clusters ∧
    ∀ n < 6, t.img n = if (s.img n).status = 2 then { s.img n with status := 5, result := 0xA7, reason := 6 } else s.img n) ∧
  Runs .aocMismatch s (fun t => t = s) ∧
  (∀ c r role slot, (s.cl c).run = some r → max 1 (s.cfg 0x2120 1) ≤ (s.cl c).sinceFlush → (s.cl c).role = some role → s.ckptSlot role = some slot →
    Runs (.checkpointFlush c) s (fun t => (t.cl c).sinceFlush = 0 ∧ (t.cl c).run = some r ∧ t.parts = s.parts ∧
      ∀ a, ¬(slot + 0x4000 ≤ a ∧ a < slot + 0x1004000) → t.mem.byte a = s.mem.byte a))

/-- Resets of a die (R346, R347, R349, R352, R353, R403, R409, R422, R498). A compute-domain reset clears the die's clusters, but for the generations of their windows, and their scratchpads then read zero, and is issued over the sideband; a
fabric-domain reset sets the hole bit, loses the dies that the mesh is then cut off from, and drains the junction, and proceeds when it is empty, or out of time, with what it still holds discarded and counted; its
neighbours then hold all their credits towards it. A returned die loses its hole bit, and the geometry advances where it takes a position again. A port that goes down is
down for the dies at both of its ends, and with the last attach port of a hub the hub is lost (R409).
(What is the model's own in it: log entry 138.) -/
def Obligations.Resets : Prop := ∀ (s : State) (d : Nat),
  let cut (u : State) : List Nat := (u.cutOffBy 64).filter fun a => !(u.die a).failed
  Runs (.computeReset d) s (fun t => (t.die d).resetting = true ∧ Out.reset d false ∈ t.out ∧
    ∀ k < 17, t.cl (d * 17 + k) = { stat := (s.cl (d * 17 + k)).stat, role := (s.cl (d * 17 + k)).role, fwOk := (s.cl (d * 17 + k)).fwOk, wins := (t.cl (d * 17 + k)).wins } ∧
      (∀ w < 8, t.win (d * 17 + k) w = { gen := (s.win (d * 17 + k) w).gen }) ∧
      ∀ a, padOf (d * 17 + k) ≤ a → a < padOf (d * 17 + k) + padSize → t.mem.byte a = 0) ∧
  Runs (.computeResetEnd d) s (fun t => (t.die d).resetting = false ∧ t.mem = s.mem ∧ t.clusters = s.clusters ∧ t.parts = s.parts ∧
    ∀ k ∈ t.kept, k.retrying = true → k.p.dstEp.toNat < 0x2000 → k.p.dstEp.toNat / 17 ≠ d) ∧
  (let u := s.updDie d fun x => { x with hole := true, draining := true }
   (cut u = [] → Runs (.fabricReset d) s (fun t => OnlyDie s t d ∧ t.die d = { s.die d with hole := true, draining := true })) ∧
   Runs (.fabricReset d) s (fun t => (t.die d).hole = true ∧ ∀ a ∈ cut u, (t.die a).failed = true ∧ (t.die a).hole = true ∧ (t.die a).treePos = none)) ∧
  ((s.die d).draining = true → (s.die d).bufs ≠ [] → exec (.junctionEmpty d) s = .next s) ∧
  ((s.die d).draining = true → ∀ i ∈ [Instr.junctionEmpty d, .junctionDrainTimeout d], (i = .junctionEmpty d → (s.die d).bufs = []) →
    Runs i s (fun t => Out.reset d true ∈ t.out ∧ t.die d = { s.die d with draining := false, resetting := false, bufs := [], sent := [], events := {}, holding := [], stalled := [],
                                                                           portsDown := (List.range 4).filter fun h => hubBehind d h == some h && (s.hub h).lost } ∧
      (∀ k < 4, inMesh d k = true → ∀ e ∈ (t.die (beside d k)).sent, e.1 / 16 ≠ opposite k) ∧
      t.obj 0x5100 2 = (s.obj 0x5100 2 + (s.die d).bufs.length) % 2 ^ 64)) ∧
  ((s.die d).hole = true ∨ (s.die d).failed = true → Runs (.dieReturn d) s (fun t => (t.die d).hole = false ∧ (t.die d).failed = false ∧
    t.recov = s.recov ∧ ∀ p < 16, (t.pt p).geo = if (t.die d).treePos ≠ (s.die d).treePos ∧ s.atL1 = true then ((s.pt p).geo + 1) % 2 ^ 32 else (s.pt p).geo)) ∧
  (∀ side, (hubBehind d side = none ∨ ∃ a ∈ hubAttach side, a ≠ d ∧ side ∉ (s.die a).portsDown) →
    (inMesh d side = true → cut ((s.sideDown d side).sideDown (beside d side) (opposite side)) = []) →
    Runs (.dieToDiePortDown d side) s (fun t => t.mem = s.mem ∧ t.clusters = s.clusters ∧ t.parts = s.parts ∧ t.out = s.out ∧
      side ∈ (t.die d).portsDown ∧ (∀ k, (t.die k).hole = (s.die k).hole) ∧ (inMesh d side = true → opposite side ∈ (t.die (beside d side)).portsDown))) ∧
  (∀ side, hubBehind d side = some side → (∀ a ∈ hubAttach side, a ≠ d → side ∈ (s.die a).portsDown) →
    Runs (.dieToDiePortDown d side) s (fun t => (t.hub side).lost = true))

/-- Power and thermal throttling (R428, R442 to R446). A window average above the effective cap raises every compute die's power level by one, one at least 3 % below
lowers it; a compute die's thermal level follows its temperature; a temperature below every limit changes no state but the levels; an inlet at 50 °C trips
the module to S3 with cause 4. An idle cluster stops
its clock after the delay, a stopped one wakes, but in S2 and during a wake, and is counted, and a lost lock is counted and is a cluster fault (R432, R433).
(What is the model's own in it: log entry 4.) -/
def Obligations.Throttling : Prop := ∀ (s : State),
  (∀ w, s.effCap < w → Runs (.powerCapControl w) s (fun t => t.mem = s.mem ∧ t.parts = s.parts ∧ t.clusters = s.clusters ∧
    ((s.dies.map (·.1)).Nodup → ∀ d, d ∈ s.dies.map (·.1) → t.die d = { s.die d with powerThrottle := min 7 ((s.die d).powerThrottle + 1) }))) ∧
  (∀ w, ¬ s.effCap < w → w * 100 ≤ s.effCap * 97 → Runs (.powerCapControl w) s (fun t => t.mem = s.mem ∧ t.parts = s.parts ∧ t.clusters = s.clusters ∧
    ((s.dies.map (·.1)).Nodup → ∀ d, d ∈ s.dies.map (·.1) → t.die d = { s.die d with powerThrottle := (s.die d).powerThrottle - 1 }))) ∧
  (∀ d x, d < 64 → ({ s with power := { s.power with temps := Tab.put s.power.temps 0 d x } } : State).tripNow = 0 →
    Runs (.thermalSample [(d, x)]) s (fun t => t.mem = s.mem ∧ t.parts = s.parts ∧ t.clusters = s.clusters ∧
      t.die d = { s.die d with thermalThrottle := thermNext (s.die d).thermalThrottle x } ∧ ∀ e ≠ d, t.die e = s.die e)) ∧
  (∀ i o f, ({ s with power := { s.power with inlet := i, outlet := o, flow := f } } : State).tripNow = 0 →
    Runs (.coolantSample i o f) s (fun t => t = { s with power := { s.power with inlet := i, outlet := o, flow := f } })) ∧
  (∀ i o f, s.running = true → 50000 ≤ i → s.power.temps = [] → Runs (.coolantSample i o f) s (fun t => t.power.st = .s3 ∧ t.power.tripped = true ∧ t.power.tripCause = 4 ∧ t.obj 0x4020 7 = 4)) ∧
  (s.running = true → s.waterFlow < 12000 → Runs .flowLowTimeout s (fun t => t.power.st = .s3 ∧ t.power.tripped = true ∧ t.power.tripCause = 6 ∧ t.obj 0x4020 7 = 6)) ∧
  ∀ c : Nat,
    (∀ us, (s.cl c).pll = true → s.idleCluster c = true → max 1 (s.cfg 0x4800 1) ≤ us →
      Runs (.clusterIdleStop c us) s (fun t => t = s.updCl c fun cl => { cl with pll := false })) ∧
    (s.padsOpen = false → exec (.clusterWake c) s = .next s) ∧
    ((s.cl c).pll = false → (s.cl c).stat = .active → s.padsOpen = true → Runs (.clusterWake c) s (fun t => t.cl c = { s.cl c with pll := true } ∧ t.obj 0x4801 1 = (s.obj 0x4801 1 + 1) % 2 ^ 64 ∧
      t.mem = s.mem ∧ t.parts = s.parts ∧ ∀ d ≠ c, t.cl d = s.cl d)) ∧
    ((s.cl c).stat = .active ∨ (s.cl c).stat = .spare → Runs (.pllLockFail c) s (fun t => (t.cl c).stat = .failed ∧ t.obj 0x4801 2 = (s.obj 0x4801 2 + 1) % 2 ^ 64))

/-- The 56 V input (R427 to R430, R519): each event's effect on the power state, and the seal around a power warning. Hold-up that expires ends in S5, or is a trip
when an overvoltage holds the switches open.
(What is the model's own in it: log entries 139, 140, 190.) -/
def Obligations.PowerInput : Prop := ∀ (s : State),
  (∀ mv, s.power.st = .s5 → Runs (.powerApplied mv) s (fun t => OnlyPower s t ∧ t.power.mv = mv ∧ t.power.connA = true ∧ t.power.connB = true ∧ t.power.swOpen = false)) ∧
  (s.power.st ≠ .s5 → Runs .inputLoss s (fun t => t = { s with power := { s.power with holdup := true } })) ∧
  (s.power.st = .s5 → exec .inputLoss s = .next s ∧ exec .overvoltage s = .next s ∧ ∀ mv, exec (.inputReturn mv) s = .next s) ∧
  (∀ mv, s.power.st ≠ .s5 → s.power.holdup = false → Runs (.inputReturn mv) s (fun t => t = { s with power := { s.power with swOpen := false, mv := mv, low := decide (mv < 52000) } })) ∧
  (∀ mv, s.power.st ≠ .s5 → s.power.holdup = true → Runs (.inputReturn mv) s (fun t => t.power = { s.power with holdup := false, swOpen := false, mv := mv, low := decide (mv < 52000) } ∧
    t.obj 0x4000 9 = (s.obj 0x4000 9 + 1) % 2 ^ 64 ∧ t.mem = s.mem ∧ t.parts = s.parts ∧ t.clusters = s.clusters)) ∧
  (s.power.holdup = true → s.power.swOpen = false → Runs .holdupExpiry s (fun t => t.power = { st := .s5 } ∧ t.clusters = [] ∧ t.parts = [] ∧ t.dict.sessions = [] ∧
    ∀ e ∈ t.mem, 0x100000000000 ≤ e.1)) ∧
  (s.power.holdup = true → s.power.swOpen = true → Runs .holdupExpiry s (fun t => t.power.st = .s3 ∧ t.power.tripped = true ∧ t.power.tripCause = 7)) ∧
  (s.power.st ≠ .s5 → Runs .overvoltage s (fun t => t = { s with power := { s.power with swOpen := true, holdup := true } })) ∧
  (∀ b, Runs (.singleFeed b) s (fun t => t = { s with power := { s.power with single := true, connA := b, connB := !b } })) ∧
  Runs .singleFeedEnd s (fun t => t = { s with power := { s.power with single := false, connA := true, connB := true } }) ∧
  (∀ mv, 50000 ≤ mv → mv < 52000 → Runs (.lowInput mv) s (fun t => t = { s with power := { s.power with mv := mv, low := true } })) ∧
  (s.power.warn = false → s.cfg 0x2110 1 = 1 → s.boot.sealed = false → Runs .pwrWarnAssert s (fun t => t.power.warn = true ∧ t.boot.sealed = true ∧ t.boot.sealAck = false ∧
    Out.ledgerSeal ∈ t.out ∧ t.parts = s.parts)) ∧
  (s.boot.sealed = true → s.boot.sealAck = false → s.plate.drainSealed = false → Runs .partnerSealAck s (fun t => t.boot.sealAck = true ∧ t.boot.sealed = true ∧
    t.boot.atPartner = (List.range 16).map (fun p => (p, (s.pt p).nextSeq, (s.pt p).w, (s.pt p).entries)) ∧ t.obj 0x5808 1 = 2)) ∧
  (s.plate.drainSealed = false → s.boot.sealed = true → Runs .pwrWarnRelease s (fun t => t.power.warn = false ∧ t.boot.sealed = false ∧ t.boot.sealAck = false ∧
    t.boot.atPartner = [] ∧ t.obj 0x5808 1 = 1 ∧ t.parts = s.parts))

/-- Power states (R100, R102, R435, R437 to R441, R504): the request, entry and wake of S2, and the request, grace and entry of S3. A request made during ENTER_S2 or WAKE waits for
its end; the entry to S2 closes every window and waits for those with outstanding grants. In S3 nothing of the clusters and of the partitions' ledgers is left, while what the security die
and the frame buffer hold stays; a wake from S2 clears the stations and every upset of the scratchpads.
(What is the model's own in it: log entries 140, 197.) -/
def Obligations.PowerStates : Prop := ∀ (s : State),
  let set (st : PState) (req asked : Nat) : State := { s with power := { s.power with st := st, req := req, asked := asked } }
  (s.power.st = .s0 → s.boot.stage = .l2 → Runs .requestS2 s (fun t => t = set .enterS2 0 2)) ∧
  (s.power.st = .s0 → s.boot.stage = .l1 → Runs .requestS2 s (fun t => t = set .s0 2 2)) ∧
  (s.power.st = .s0 → s.boot.stage ≠ .l1 → s.boot.stage ≠ .l2 → exec .requestS2 s = .next s) ∧
  ((s.power.st = .enterS2 ∨ s.power.st = .wake) → Runs .requestS2 s (fun t => t = set s.power.st 2 2) ∧ Runs .wakeRequest s (fun t => t = set s.power.st 1 1) ∧
    Runs .requestS3 s (fun t => t = set s.power.st 3 3)) ∧
  (s.power.st = .enterS2 → s.anyRunning = false → s.dict.set.st = 0 →
    ((∀ e ∈ s.clusters, ∀ w ∈ e.2.wins, w.2.granules = []) → Runs .s2Entry s (fun t => t.mem = s.mem ∧ t.parts = s.parts ∧
      ((s.power.req = 0 ∨ s.power.req = 2) → t.power.st = .s2) ∧ (s.power.req = 1 → t.power.st = .wake) ∧
      (∀ e ∈ t.clusters, e.2.pll = false ∧ e.2.wins = [] ∧ e.2.coal = []) ∧ ∀ e ∈ t.hubs, e.2.sets = [])) ∧
    (∀ c w, (s.win c w).enable = true → (s.win c w).granules ≠ [] → Runs .s2Entry s (fun t => t.power = s.power ∧ t.mem = s.mem ∧ t.parts = s.parts ∧
      (t.win c w).closing = true ∧ (t.win c w).enable = true))) ∧
  (s.power.st = .s2 → Runs .wakeRequest s (fun t => t = set .wake 0 1)) ∧
  (s.power.st = .s2 → s.power.autoWake = true →
    let run : State := { s with power := { s.power with st := .s0 } }
    let ready := s.parts.any fun e => e.2.entries.any fun x => run.mayStart e.1 x
    (ready = true → Runs .autoWake s (fun t => t = { s with power := { s.power with st := .wake } })) ∧ (ready = false → exec .autoWake s = .next s)) ∧
  (s.power.st = .wake → Runs .wakeDone s (fun t => ((s.power.req = 0 ∨ s.power.req = 1) → t.power.st = .s0) ∧
    (s.power.req = 2 → s.boot.stage = .l2 → t.power.st = .enterS2) ∧ t.mem = s.mem ∧ t.parts = s.parts ∧
    ∀ e ∈ t.clusters, e.2.st = {} ∧ e.2.wins = [] ∧ e.2.dc = [] ∧ e.2.core = {} ∧ e.2.watches = [] ∧ e.2.tlb = [] ∧ e.2.pll = false)) ∧
  ((s.power.st = .s0 ∨ s.power.st = .s2) → (s.atL1 = false ∨ s.quiet = true) → Runs .requestS3 s (fun t =>
    t = { s with power := { s.power with st := .enterS3, s3Pend := true, req := 0, asked := 3 } })) ∧
  ((s.power.st = .s0 ∨ s.power.st = .s2) → s.atL1 = true → s.quiet = false → exec .requestS3 s = .next s) ∧
  (s.power.st = .enterS3 → ∀ i ∈ [Instr.s3Ok, .s3GraceExpiry], Runs i s (fun t => t.power.st = .s3 ∧ t.plate.shown = t.panel ∧ t.clusters = [] ∧
    (∀ p, (t.pt p).entries = [] ∧ (t.pt p).regs = {} ∧ (t.pt p).blk = none) ∧ t.sec.spdm = s.sec.spdm ∧ t.mdpRx = s.mdpRx ∧ ∀ e ∈ t.mem, 0x100000000000 ≤ e.1))

/-- The bring-up (R340, R420, R446, R451, R453, R465, R491 to R499, R504). Power with both connectors, or a wake from S3 without a trip condition, starts the boot chain, which stops at
B1 when the SD has no image that verifies, and at B2 when the AOC has none; the fuse scan lays HBM out below the carve-out and names the first working hub in the service registers; firmware that verifies is sent;
a cluster that does not report is failed; a request for S3 stops the bring-up; L1 takes held enables and sets every generation to 0; L2 needs every row tested, and a full test without fault leaves a record of the stacks; none goes on while the SD has failed (R420). Whether an image verifies
is a free value of the model, so each stage says both outcomes.
(What is the model's own in it: log entries 26, 141, 143, 219.) -/
def Obligations.BringUp : Prop := ∀ (s : State),
  let fw := (s.bootClass 2).2 && ((s.bootClass 2).1.bootClass 3).2
  let h := s.takeCandidates [4, 5]
  let host := (h.bootClass 4).2 && ((h.bootClass 4).1.bootClass 5).2
  let on : State := { s with sec := { s.sec with powerOns := s.sec.powerOns + 1 } }
  let persists : Prop := s.tripNow ≠ 0 ∨ s.waterFlow < 12000 ∨ s.power.swOpen = true
  (s.power.st = .s5 → s.power.connA = true → s.power.connB = true → s.power.mv ≠ 0 →
    Runs .chargeComplete s (fun t => t.boot.stage = .charged ∧ t.power.st = .s0 ∧ t.power.charged = true ∧ t.boot.stop = if (on.bootOn.bootClass 0).2 then 0 else 1)) ∧
  (s.power.st = .s3 → s.power.tripped = true → persists → exec .s3Wake s = .next s) ∧
  (s.power.st = .s3 → (s.power.tripped = true → ¬ persists) →
    Runs .s3Wake s (fun t => t.boot.stage = .charged ∧ t.power.st = .s0 ∧ t.power.tripCause = 0 ∧ t.power.tripped = false ∧ t.boot.stop = if (s.bootOn.bootClass 0).2 then 0 else 1)) ∧
  (s.boot.sdFaulted = true → exec .l0Reached s = .next s ∧ exec .l1Reached s = .next s ∧ ∀ good, exec (.firmwareBroadcast good) s = .next s) ∧
  (s.power.st = .enterS3 → exec .l0Reached s = .next s ∧ exec .l1Reached s = .next s ∧ (∀ r, exec (.fuseScanDone r) s = .next s) ∧
    (∀ good, exec (.firmwareBroadcast good) s = .next s) ∧ ∀ m ok, exec (.hbmStackTested m ok) s = .next s) ∧
  (s.boot.stop = 0 → s.power.st ≠ .enterS3 →
  (s.boot.stage = .charged → s.boot.sdFaulted = false → Runs .l0Reached s (fun t => t.boot.stage = .l0 ∧ t.mem = s.mem ∧ t.boot.stop = if (s.bootClass 1).2 then 0 else 2)) ∧
  (∀ r, s.boot.stage = .l0 → 12000 ≤ s.waterFlow → r.variant = variantA ∨ r.variant = variantM ∨ r.variant = variantC →
    Runs (.fuseScanDone r) s (fun t => t.boot.stage = .scanned ∧ t.boot.report = some r ∧ t.plan.variant = r.variant ∧
      t.plan.carve = t.hbmLen - clampN 16 256 (s.cfg 0x2060 2) * 2 ^ 30 ∧ (s.boot.record = [] → t.boot.abbreviated = false) ∧
      ∀ h < 4, (s.hub h).lost = false → (∀ k < h, (s.hub k).lost = true) → ∀ l < 8, (t.link l).service = BitVec.ofNat 64 (h + 4))) ∧
  (∀ r, s.boot.stage = .l0 → 12000 ≤ s.waterFlow → r.variant ≠ variantA → r.variant ≠ variantM → r.variant ≠ variantC →
    Runs (.fuseScanDone r) s (fun t => t.boot.stop = 4 ∧ t.boot.stage = .l0)) ∧
  (s.boot.stage = .scanned → s.boot.sdFaulted = false → ∀ good, Runs (.firmwareBroadcast good) s (fun t => t.mem = s.mem ∧ t.boot.stage = (if fw then .fw else .scanned) ∧
    (fw = true → ∀ c ∈ good, ((s.cl c).stat = .active ∨ (s.cl c).stat = .spare) → (t.cl c).fwOk = true))) ∧
  (∀ c, s.boot.stage = .fw → (s.cl c).fwOk = false → (s.cl c).stat = .active ∨ (s.cl c).stat = .spare → Runs (.clusterDigestTimeout c) s (fun t => (t.cl c).stat = .failed ∧
    c ∈ t.boot.badClusters ∧ t.mem = s.mem ∧ ∀ d ≠ c, t.cl d = s.cl d)) ∧
  (s.boot.stage = .fw → s.boot.sdFaulted = false → s.boot.topFirst = true → (∀ e ∈ s.clusters, e.2.stat = .active ∨ e.2.stat = .spare → e.2.fwOk = true) →
    Runs .l1Reached s (fun t => t.boot.stage = (if host then .l1 else .fw) ∧ (host = true → t.boot.hostReady = true ∧ t.boot.heldEnables = [] ∧
      (∀ p < 16, (t.pt p).geo = 0) ∧ ∀ p ∈ s.boot.heldEnables, (t.pt p).regs.enable = true))) ∧
  (s.boot.stage = .l1 → s.plan.rowsOk = 2 ^ s.plan.rows.length - 1 → Runs .l2Reached s (fun t => t.boot.stage = .l2 ∧ t.boot.parityReady = true ∧ t.mem = s.mem ∧
    (s.boot.abbreviated = false → s.plan.lostStacks = [] → t.boot.memFault = false ∧ t.boot.record = (List.range 20).map fun m => Tab.look s.plan.stackCap 0 m / 2 ^ 30) ∧
    (s.power.req = 2 → s.power.st = .s0 → t.power.st = .enterS2) ∧ ((s.power.req = 0 ∨ s.power.st ≠ .s0) → t.power.st = s.power.st))) ∧
  Runs .clearFailureMarks s (fun t => t = { s with boot := { s.boot with badClusters := [], badDies := [], badStacks := [] } }) ∧
  (∀ m k base size, s.boot.report ≠ none → s.plan.lostStacks.contains m = false → rowWith s.plan.rows m = some (k, base, size) →
    (Runs (.hbmStackTested m false) s (fun t => t.plan.lostStacks = s.plan.lostStacks ++ [m] ∧ t.boot.memFault = true ∧ m ∈ t.boot.badStacks ∧
      (s.atL1 = true → ∃ q ∈ t.recov.recs, q.kind = 5 ∧ q.failed = m))) ∧
    (k + 1 ≠ s.plan.rows.length → Runs (.hbmStackTested m true) s (fun t => (100 + m) ∈ t.boot.tested ∧ (∀ a, base ≤ a → a < base + size → s.stackOf a = some m → t.mem.byte a = 0) ∧
      ∀ a, s.stackOf a ≠ some m → t.mem.byte a = s.mem.byte a))))

/-- The management protocol (R64, R69, R458, R470 to R473, R475, R482, R484, R489). A reachable session's request that was answered before is answered the same again, or
MALFORMED when its unit differs, and is not executed; a malformed unit is answered MALFORMED; any other request is executed once, answered, and its response kept among the
last 16. An unreachable session gets nothing. A bus frame whose check fails is counted and sets the receive path's `tail_bad`, and one for another address or with a wrong length is ignored. A datagram that
the receive path has no room for waits in the frame buffer, and is discarded and counted where that is full. A numeric write to an RWS object changes its shadow value
alone, and while a swap is pending it is refused. An SPDM message arrives in the same way. Idle limits release the claims, the latch, or the session and its SPDM connection.
(What is the model's own in it: log entries 33, 34, 142, 145, 166, 167.) -/
def Obligations.MdpRequests : Prop := ∀ (s : State) (path : MdpPath) (u : MdpUnit),
  let sess := pathSess path
  let sent (r : MdpUnit) : Out :=
    let f := busBody (BitVec.ofNat 8 (s.obj 0x1101 1)) (16 + r.data.length) r
    if sess = 0 then .bus (f ++ natLe 4 (crc32c f).toNat) else .mdp sess r
  let tells (t : State) (r : MdpUnit) (before : List Out) : Prop := t.out = before ++ [sent r]
  let keptFor := (s.sess sess).kept.find? fun k => k.1.reqId == u.reqId
  let arrives : Prop := match path with
    | .udp _ => True
    | .bus addr len crc => crc = crc32c (busBody addr len.toNat u) ∧ addr.toNat = s.obj 0x1101 1 ∧ addr ≠ 0 ∧ addr ≠ 0xFF ∧ len.toNat = 16 + u.data.length
  let counted : State := match path with
    | .udp _ => s.bump 0x1102 1 1
    | .bus .. => s
  let does (i : Instr) (op : Nat) (f : State → State × Reply) : Prop :=
    (s.mdpUp sess = false → exec i s = .next s) ∧
    (s.mdpUp sess = true → arrives → s.mac = [] → s.mdpRoom u = true →
      (∀ k, keptFor = some k → Runs i s (fun t => OnlyDict { s with out := t.out } t ∧ t.dict.shadow = s.dict.shadow ∧ t.dict.active = s.dict.active ∧
        tells t (if k.1 = u then k.2 else respond u { res := rcMalformed }) s.out)) ∧
      (keptFor = none → badUnit sess (op % 256) u = true → Runs i s (fun t => OnlyDict { s with out := t.out } t ∧ t.dict.shadow = s.dict.shadow ∧
        tells t (respond u { res := rcMalformed }) s.out)) ∧
      (keptFor = none → badUnit sess (op % 256) u = false → Runs i s (fun t => t.mem = (f counted).1.mem ∧ t.parts = (f counted).1.parts ∧ t.sec = (f counted).1.sec ∧
        t.dict.shadow = (f counted).1.dict.shadow ∧ tells t (respond u (f counted).2) (f counted).1.out ∧
        ((sess = 0 ∨ (f counted).1.openSess.contains sess = true) →
          (t.sess sess).kept = (((f counted).1.sess sess).kept ++ [(u, respond u (f counted).2)]).drop (((f counted).1.sess sess).kept.length + 1 - 16))))) ∧
    (∀ addr len crc, path = .bus addr len crc → s.mdpUp sess = true →
      (crc ≠ crc32c (busBody addr len.toNat u) → exec i s =
        .next (({ s with mdpRx := { s.mdpRx with st := { s.mdpRx.st with tailBad := true } } } : State).bump 0x1102 7 1)) ∧
      (crc = crc32c (busBody addr len.toNat u) → addr.toNat ≠ s.obj 0x1101 1 ∨ len.toNat ≠ 16 + u.data.length → exec i s = .next s)) ∧
    (∀ k, path = .udp k → k ≠ 0 → s.mdpUp k = true → s.mdpRoom u = false →
      (16 ≤ (s.mac.filter fun x => pathSess x.1 == k).length → Runs i s (fun t => t.mac = s.mac ∧ t.out = s.out ∧ t.obj 0x1102 8 = (s.obj 0x1102 8 + 1) % 2 ^ 64)) ∧
      ((s.mac.filter fun x => pathSess x.1 == k).length < 16 →
      (s.macBytes + 16 + u.data.length ≤ 16384 → Runs i s (fun t => t.mac = s.mac ++ [(path, op, u)] ∧ t.out = s.out ∧ t.mem = s.mem ∧ t.parts = s.parts)) ∧
      (16384 < s.macBytes + 16 + u.data.length → Runs i s (fun t => t.mac = s.mac ∧ t.out = s.out ∧ t.mem = s.mem ∧ t.parts = s.parts ∧
        t.obj 0x1102 2 = (s.obj 0x1102 2 + 1) % 2 ^ 64))))
  does (.mdpRead path u) 1 (fun t => t.doRead sess u) ∧ does (.mdpWrite path u) 2 (fun t => t.doWrite sess u) ∧
  does (.mdpAbort path u) 3 (fun t => t.doAbort sess u) ∧ does (.mdpNop path u) 4 (fun t => t.doNop u) ∧
  (let spdm (i : Instr) (req : Nat) : Prop := does i (spdmOp req) (fun t => t.doSpdm sess req u)
   spdm (.getVersion path u) 0x84 ∧ spdm (.getCapabilities path u) 0xE1 ∧ spdm (.negotiateAlgorithms path u) 0xE3 ∧ spdm (.getDigests path u) 0x81 ∧
   spdm (.getCertificate path u) 0x82 ∧ spdm (.challenge path u) 0x83 ∧ spdm (.getMeasurements path u) 0xE0 ∧ spdm (.keyExchange path u) 0xE4 ∧
   spdm (.finish path u) 0xE5 ∧ spdm (.heartbeat path u) 0xE8 ∧ spdm (.keyUpdate path u) 0xE9 ∧ spdm (.endSession path u) 0xEC) ∧
  (∀ r, s.findObj sess u true = .ok r → r.acc = .rws → s.dict.set.st ≠ 0 → s.doWrite sess u = (s, { res := rcShadow })) ∧
  (∀ r v, s.findObj sess u true = .ok r → r.acc = .rws → s.dict.set.st = 0 → s.claimOn (objKey u.index.toNat u.sub.toNat) = none → u.seg = false →
    r.ty ≠ .str → r.ty ≠ .oct → u.data.length = r.ty.size → typeRange r.ty (leNat u.data) = true → normVal u.index.toNat u.sub.toNat (leNat u.data) = .ok v →
    (s.doWrite sess u).2 = { res := rcOk } ∧ OnlyDict s (s.doWrite sess u).1 ∧ (s.doWrite sess u).1.dict.active = s.dict.active ∧
    ∀ k, Tab.look (s.doWrite sess u).1.dict.shadow (objDefault u.index.toNat u.sub.toNat) k =
      if k = objKey u.index.toNat u.sub.toNat then BitVec.ofNat 64 v else Tab.look s.dict.shadow (objDefault u.index.toNat u.sub.toNat) k) ∧
  Runs (.claimTimeout sess) s (fun t => OnlyDict s t ∧ t.dict.claims = s.dict.claims.filter fun k => k.sess != sess || k.kept) ∧
  Runs (.latchTimeout sess) s (fun t => OnlyDict s t ∧ (t.sess sess).latch = none ∧ ∀ n, n ≠ sess → t.sess n = s.sess n) ∧
  (s.openSess.contains sess = true → Runs (.sessionIdleTimeout sess) s (fun t => OnlyDict { s with sec := t.sec } t ∧
    t.sec = { s.sec with spdm := s.sec.spdm.filter fun e => e.1 != sess } ∧ t.openSess = s.openSess.filter (· != sess) ∧
    t.dict.claims = s.dict.claims.filter fun k => k.sess != sess))

/-- The configuration sets (R370, R484 to R486, R504). A request for a swap waits for the swap point from L1 in S0, and takes place at once in S2, S3 and before L1; at the
swap point, when nothing is RUNNING or HELD, the active set takes the shadow values, the generation advances, and a port that no latched map lists takes its mode (R370); a timeout or a cancel ends it with result 2 or 3,
both sets as they were. A copy, and another request, are refused while a swap is pending. -/
def Obligations.ConfigurationSets : Prop := ∀ (s : State),
  let swapped (t : State) : Prop := t.dict.active = s.dict.shadow ∧ t.dict.shadow = s.dict.shadow ∧ t.dict.set = { st := 0, gen := s.dict.set.gen + 1, last := 1 } ∧
    t.mem = s.mem ∧ t.parts = s.parts ∧ t.clusters = s.clusters ∧
    ∀ q < 32, s.mapsListing q = [] → (s.port q).st ≠ .fused → s.ports ≠ [] → (t.port q).mode = t.cfg 0x2101 (q + 1)
  let ended (r : Nat) (t : State) : Prop := t = { s with dict := { s.dict with set := { s.dict.set with st := 0, last := r } } }
  (s.dict.set.st = 0 →
    (s.power.st ≠ .s2 → s.power.st ≠ .s3 → s.atL1 = true → Runs .setSwap s (fun t => t = { s with dict := { s.dict with set := { s.dict.set with st := 2 } } })) ∧
    ((s.power.st = .s2 ∨ s.power.st = .s3 ∨ s.atL1 = false) → Runs .setSwap s swapped) ∧
    Runs .setCopy s (fun t => OnlyDict s t ∧ t.dict.shadow = s.dict.active ∧ t.dict.active = s.dict.active ∧ t.dict.set = s.dict.set)) ∧
  (s.dict.set.st ≠ 0 → exec .setSwap s = .next s ∧ exec .setCopy s = .next s) ∧
  (s.dict.set.st = 2 →
    (s.anyRunning = false → Runs .swapPoint s swapped) ∧ (s.anyRunning = true → exec .swapPoint s = .next s) ∧ Runs .setCancel s (ended 3) ∧
    ∀ ms, clampN 1 600000 (s.obj 0x1800 5) ≤ ms → Runs (.swapTimeout ms) s (ended 2))

/-- The object table (R480): every object has subindex 0, a U8 CONST that gives its highest subindex, and exactly the subindices up to it; the image objects of class n
lie at 0xA000 + 0x10·n; an index without an object answers NO_OBJECT and a subindex above the highest NO_SUBINDEX, to every request that the debug lock
does not stop first. -/
def Obligations.ObjectTable : Prop :=
  (∀ idx, objExists idx = true → ∃ r, objRow idx 0 = some r ∧ r.ty = .u8 ∧ r.acc = .const ∧
    ∀ sub, sub < 256 → ((objRow idx sub).isSome = true ↔ sub ≤ (objDefault idx 0).toNat)) ∧
  (∀ idx, 0xA000 ≤ idx → idx ≤ 0xAFFF → (objExists idx = true ↔ ∃ n < 6, idx = 0xA000 + 0x10 * n)) ∧
  (∀ (s : State) (sess : Nat) (u : MdpUnit) (wr : Bool), (0xF000 ≤ u.index.toNat → s.debugClosed = false ∧ bit1 (s.sess sess).role 1 = true) →
    (objExists u.index.toNat = false → s.findObj sess u wr = .error rcNoObject) ∧
    (objExists u.index.toNat = true → (objDefault u.index.toNat 0).toNat < u.sub.toNat → s.findObj sess u wr = .error rcNoSub)) ∧
  (∀ (s : State) (sess : Nat) (u : MdpUnit), s.findObj sess u false ≠ .error rcLocked → u.len = 0 → objExists u.index.toNat = true → u.sub = 0 → u.seg = false → u.set = false →
    (0xF000 ≤ u.index.toNat → bit1 (s.sess sess).role 1 = true) →
    (s.doRead sess u).2 = { res := rcOk, data := [BitVec.ofNat 8 (objDefault u.index.toNat 0).toNat] })

/-- SPDM (R450, R458, R460, R464). While the security die runs, an SPDM request that arrives and is well formed as an MDP unit is answered with one MDP response: the version exchange opens a
connection, capabilities choose version 1.2 or 1.3 and algorithms follow in order, every further request needs the version and the algorithms, digests and certificates show the chain,
measurements show the eleven blocks, a signed answer needs L1 and the alias key, at most four sessions are secured, and a session's own requests need one. A request out of order is
answered with an error and changes nothing.
(What is the model's own in it: log entry 142.) -/
def Obligations.SpdmExchange : Prop := ∀ (s : State) (path : MdpPath) (u : MdpUnit),
  let sess := pathSess path
  let m := u.data
  let arrives : Prop := match path with
    | .udp _ => True
    | .bus addr len crc => crc = crc32c (busBody addr len.toNat u) ∧ addr.toNat = s.obj 0x1101 1 ∧ addr ≠ 0 ∧ addr ≠ 0xFF ∧ len.toNat = 16 + u.data.length
  s.boot.sdFaulted = false → s.mdpUp sess = true → arrives → s.mac = [] → s.mdpRoom u = true → (s.sess sess).kept.find? (fun k => k.1.reqId == u.reqId) = none →
  badUnit sess 8 u = false →
  let sent (r : MdpUnit) : Out :=
    let f := busBody (BitVec.ofNat 8 (s.obj 0x1101 1)) (16 + r.data.length) r
    if sess = 0 then .bus (f ++ natLe 4 (crc32c f).toNat) else .mdp sess r
  let x := s.spdmOf sess
  let gives (i : Instr) (data : List Byte) (y : Spdm) : Prop := Runs i s (fun t => t.mem = s.mem ∧ t.parts = s.parts ∧ t.clusters = s.clusters ∧ t.spdmOf sess = y ∧
    (∀ n, n ≠ sess → t.spdmOf n = s.spdmOf n) ∧ t.out = s.out ++ [sent (respond u { res := rcOk, data := data.take (unitMax sess) })])
  let errs (i : Instr) (code : Nat) : Prop := gives i (spdmErr code m) x
  let signs := s.atL1 && !s.sec.keysGone
  let slot0 : Prop := bits (m.getD 2 0).toNat 0 4 = 0
  let asks := [Instr.getDigests path u, .getCertificate path u, .challenge path u, .getMeasurements path u, .keyExchange path u]
  let secured := [Instr.finish path u, .heartbeat path u, .keyUpdate path u, .endSession path u]
  (m.head? = some 0x10 → gives (.getVersion path u) (spdmSay 0x04 [] m) { version := 1 }) ∧
  (m.head? ≠ some 0x10 → errs (.getVersion path u) 0x41) ∧
  (x.version = 0 → errs (.getCapabilities path u) 0x04) ∧
  (x.version < 2 → errs (.negotiateAlgorithms path u) 0x04) ∧
  (x.speaks m = false → (x.version ≠ 0 → errs (.getCapabilities path u) 0x41) ∧ (2 ≤ x.version → errs (.negotiateAlgorithms path u) 0x41) ∧ ∀ i ∈ asks ++ secured, errs i 0x41) ∧
  (x.speaks m = true →
    (x.version ≠ 0 → gives (.getCapabilities path u) (spdmSay 0x61 [] m) { x with version := 2, ver := m.head?.getD 0 }) ∧
    (2 ≤ x.version → gives (.negotiateAlgorithms path u) (spdmSay 0x63 [] m) { x with algos := true }) ∧
    (x.algos = false → ∀ i ∈ asks, errs i 0x04) ∧
    (x.algos = true →
      gives (.getDigests path u) (spdmSay 0x01 s.spdmChain m) x ∧
      (slot0 → gives (.getCertificate path u) (spdmSay 0x02 s.spdmChain m) x) ∧
      (¬ slot0 → errs (.getCertificate path u) 0x01 ∧ errs (.challenge path u) 0x01) ∧
      (bit1 (m.getD 2 0).toNat 0 = false → gives (.getMeasurements path u) (spdmSay 0x60 s.measBlocks m) x) ∧
      (signs = true → (slot0 → gives (.challenge path u) (spdmSay 0x03 (s.signedBy (s.spdmChain ++ s.measBlocks) m) m) x) ∧
        (bit1 (m.getD 2 0).toNat 0 = true → gives (.getMeasurements path u) (spdmSay 0x60 (s.signedBy s.measBlocks m) m) x) ∧
        (s.spdmSessions < 4 → gives (.keyExchange path u) (spdmSay 0x64 (s.signedBy (s.spdmChain ++ s.measBlocks) m) m) { x with opening := x.opening + 1 })) ∧
      (signs = false → (slot0 → errs (.challenge path u) 0x42) ∧ (bit1 (m.getD 2 0).toNat 0 = true → errs (.getMeasurements path u) 0x42) ∧
        (s.spdmSessions < 4 → errs (.keyExchange path u) 0x42)) ∧
      (4 ≤ s.spdmSessions → errs (.keyExchange path u) 0x0A)) ∧
    (x.opening = 0 → errs (.finish path u) 0x04) ∧
    (x.opening ≠ 0 → gives (.finish path u) (spdmSay 0x65 [] m) { x with opening := x.opening - 1, secured := x.secured + 1 }) ∧
    (x.secured = 0 → ∀ i ∈ secured.tail, errs i 0x04) ∧
    (x.secured ≠ 0 → gives (.heartbeat path u) (spdmSay 0x68 [] m) x ∧ gives (.keyUpdate path u) (spdmSay 0x69 [] m) x ∧
      gives (.endSession path u) (spdmSay 0x6C [] m) { x with secured := x.secured - 1 }))

/-- The security die (R420, R454 to R457, R459, R462, R464 to R466, R489). A restart loses the open leaves and uses none below those, whatever it certifies anew; a report uses one leaf and is latched for its session; an image slot goes
from loaded over verifying and verified to activated, or back; a counter only takes the version of a running active image at L2. A debug token, an anchor update, a
revocation and a handshake take effect when what they carry verifies and R462, R464 or R466 admits it, and otherwise leave the module as it was, but for the
count of a refused handshake. Each of these thirteen commands completes: whether a signature verifies is a free value, so both outcomes are said.
(What is the model's own in it: log entries 141, 144, 218.) -/
def Obligations.Security : Prop := ∀ (s : State),
  Runs .sdRestart s (fun t => t.boot.sdFaulted = false ∧ t.sec.lost = s.sec.lost + (s.sec.bound - s.sec.q) ∧ s.sec.bound ≤ t.sec.q ∧ t.sec.q ≤ t.sec.bound ∧
    (s.boot.stage = .off ∨ s.boot.stage = .charged → t.sec.q = s.sec.bound ∧ t.sec.bound = s.sec.bound) ∧
    t.mem = s.mem ∧ t.parts = s.parts ∧ t.clusters = s.clusters ∧ t.dict = s.dict) ∧
  (∀ nonce : List Byte, nonce.length = 32 → Runs (.reportNonceWrite nonce) s (fun t => t = { s with sec := { s.sec with nonce := nonce } })) ∧
  (∀ sess, s.canReport = true →
    (s.sec.q < s.sec.bound → Runs (.attestationReportRead sess) s (fun t => t.sec = { s.sec with
        q := s.sec.q + 1, topBound := max s.sec.topBound ((s.sec.q + 1) / 2 ^ 20 + if 2 ^ 19 ≤ (s.sec.q + 1) % 2 ^ 20 then 2 else 1)
        exhausted := decide (2 ^ 40 ≤ s.sec.q + 1) || (decide (6400000 ≤ s.sec.ringUsed) && decide (s.sec.bound ≤ s.sec.q + 1)) } ∧
      (t.sess sess).latch = some (objKey 0x6060 2, s.report) ∧ t.mem = s.mem ∧ t.parts = s.parts)) ∧
    (s.sec.q = s.sec.bound → s.sec.ringUsed < 6400000 → s.sec.bound < 2 ^ 40 → Runs (.attestationReportRead sess) s (fun t => t.sec.bound = s.sec.bound + 1024 ∧
      t.sec.ringUsed = s.sec.ringUsed + 1 ∧ t.sec.q = s.sec.q + 1 ∧ (t.sess sess).latch = some (objKey 0x6060 2, s.report))) ∧
    (s.sec.bound ≤ s.sec.q → (6400000 ≤ s.sec.ringUsed ∨ 2 ^ 40 ≤ s.sec.bound) → Runs (.attestationReportRead sess) s (fun t =>
      t = { s with sec := { s.sec with exhausted := true } }))) ∧
  (∀ sess, s.canReport = false → exec (.attestationReportRead sess) s = .next s) ∧
  (∀ n, ((s.img n).status = 1 → s.boot.sdFaulted = false → Runs (.verify n) s (fun t => OnlySec s t ∧ t.img n = { s.img n with status := 2 } ∧ ∀ k, k ≠ n → t.img k = s.img k)) ∧
    ((s.img n).status = 2 → Runs (.verifyDone n) s (fun t => OnlySec s t ∧ (∀ k, k ≠ n → t.img k = s.img k) ∧
      t.img n = (if s.imageReason n (s.candidate n) = 0 then
          { s.img n with status := 3, result := 0, reason := 0, candVer := Config.imageVersion (s.candidate n) }
        else { s.img n with status := 5, result := 0xA7, reason := s.imageReason n (s.candidate n) }))) ∧
    ((s.img n).status = 3 → Runs (.activate n) s (fun t => OnlySec s t ∧ t.img n = { s.img n with status := 4, armed := true } ∧ ∀ k, k ≠ n → t.img k = s.img k)) ∧
    Runs (.abandon n) s (fun t => t.img n = { s.img n with status := 0, armed := false, candVer := 0 } ∧ t.candidate n = [] ∧ (∀ k, k ≠ n → t.img k = s.img k) ∧
      (∀ k ∈ t.dict.claims, k.key ≠ objKey (0xA000 + 16 * n) 1) ∧ t.mem = s.mem) ∧
    (∀ v : Byte, s.boot.stage = .l2 → n < 6 → v.toNat ≤ 63 → (s.img n).counter ≤ v.toNat → (s.img n).counter ≤ (s.img n).activeVer → (s.img n).activeVer ≤ 63 →
      Runs (.counterAdvance n v) s (fun t => OnlySec s t ∧ t.img n = { s.img n with counter := (s.img n).activeVer })) ∧
    (∀ v : Byte, 63 < v.toNat ∨ v.toNat < (s.img n).counter → exec (.counterAdvance n v) s = .next s)) ∧
  (∀ obj, Runs (.revocation obj) s (fun t => OnlySec s t ∧
    let ok : Prop := s.verifies obj 4 roleRevoke = true ∧ s.boot.sdFaulted = false ∧ Config.revokedSlot obj < 16 ∧ (∃ b, sigBlock obj = some b ∧ b.signer ≠ Config.revokedSlot obj) ∧
        (∃ k < 16, k ≠ Config.revokedSlot obj ∧ k ∉ s.sec.revoked ∧ bit1 (Tab.look s.sec.signers ([], 0) k).2 roleFirmware = true)
    (ok → ∀ k, k ∈ t.sec.revoked ↔ k ∈ s.sec.revoked ∨ k = Config.revokedSlot obj) ∧ (¬ok → t = s))) ∧
  (∀ obj, s.boot.sdFaulted = false → s.sec.anchors = [] → s.plate.presence = true →
    Runs (.anchorUpdate true obj) s (fun t => t = if anchorsOk (Config.anchorResult obj []) then { s with sec := { s.sec with anchors := Config.anchorResult obj [] } } else s)) ∧
  (∀ l : List (Nat × List Byte), anchorsOk l = true ↔ l ≠ [] ∧ (∀ e ∈ l, 1 ≤ e.1 ∧ e.1 ≤ 4 ∧ e.2 ≠ []) ∧ (l.map (·.1)).Nodup) ∧
  (∀ obj, s.sec.anchors = [] → exec (.anchorUpdate false obj) s = .next s) ∧
  (∀ obj bus, s.sec.anchors ≠ [] → Runs (.anchorUpdate bus obj) s (fun t => t =
    let new := Config.anchorResult obj s.sec.anchors
    if s.boot.sdFaulted = false ∧ anchorsOk new = true ∧ ∃ a, s.anchorVerifies obj 3 = some a ∧ (a, Tab.look s.sec.anchors [] a) ∈ new
    then { s with sec := { s.sec with anchors := new } } else s)) ∧
  (∀ obj, Runs (.debugToken obj) s (fun t => t.mem = s.mem ∧ t.parts = s.parts ∧ t.clusters = s.clusters ∧
    let (mid, nonce, mask) := Config.tokenBinds obj
    let ok : Prop := s.verifies obj 2 roleDebug = true ∧ s.boot.sdFaulted = false ∧ mid = Config.moduleId ∧ nonce = Config.debugNonce s.sec.powerOns ∧
        (∀ d < 64, bit1 mask.toNat d = true → ∀ e ∈ s.parts, e.2.regs.enable = true → ∀ b, e.2.blk = some b → ∀ c ∈ b.clusters, c / 17 ≠ d)
    (ok → t.sec.keysGone = true ∧ t.sec.debugSeen = true ∧ t.sec.mgmtKey = [] ∧ t.sec.attKey = [] ∧ t.openSess = [] ∧ t.sec.debugMask = s.sec.debugMask ||| mask ∧
      ∀ d < 64, (t.die d).debugOpen = ((s.die d).debugOpen || bit1 mask.toNat d)) ∧ (¬ok → t = s))) ∧
  (∀ anchor cas leaf, Runs (.dtlsHandshake anchor cas leaf) s (fun t => OnlyDict s t ∧
    let chain := cas ++ [leaf]
    let a := Tab.look s.sec.anchors [] anchor
    let ok : Prop := a ≠ [] ∧
        (∀ k cert sigs, chain[k]? = some (cert, sigs) →
          let keys := if k = 0 then Config.anchorKeys a else Config.certKeys ((chain[k - 1]?).map (·.1) |>.getD [])
          Config.ecdsaVerify keys.1 cert (sigs.take 96) = true ∧ Config.hssVerify keys.2 cert (sigs.drop 96) = true) ∧
        s.sec.mgmtKey ≠ [] ∧ s.sec.keysGone = false ∧ s.sec.exhausted = false ∧ s.boot.sdFaulted = false ∧ s.running = true ∧
        (∃ k, 1 ≤ k ∧ k ≤ 8 ∧ s.openSess.contains k = false)
    (ok → t.obj 0x1102 3 = (s.obj 0x1102 3 + 1) % 2 ^ 64 ∧
      ∃ k, 1 ≤ k ∧ k ≤ 8 ∧ s.openSess.contains k = false ∧ t.openSess.contains k = true ∧ (t.sess k).role = 8 + Config.anchorRole a) ∧
    (¬ok → t.openSess = s.openSess ∧ t.obj 0x1102 4 = (s.obj 0x1102 4 + 1) % 2 ^ 64))) ∧
  (∀ sess, s.openSess.contains sess = true → Runs (.sessionKeyUpdate sess) s (fun t => OnlyDict s t ∧ t.sess sess = { s.sess sess with keyUpdates := (s.sess sess).keyUpdates + 1 }))

/-- The service plate (R418, R512 to R518, R520). A short press starts the attention drain, or cancels one and lets what it stopped run again; the drain ends in ENTER_S3 when nothing runs and every
partition is quiet, and fails at its limit otherwise; a forced standby goes to S3 at once. A touched connector is dropped only when every module keeps a path;
a drained one that is released trains again; a pulled cable takes its ports down. A port's light and the bar show the lowest row of their table that applies. -/
def Obligations.ServicePlate : Prop := ∀ (s : State),
  (s.running = true → s.plate.attention = 0 ∨ s.plate.attention = 4 ∨ s.plate.attention = 5 → s.atL1 = true → s.power.st ≠ .enterS3 →
    Runs .shortPress s (fun t => t = { s with plate := { s.plate with attention := 1, lastEvent := 1 } })) ∧
  (s.running = true → s.plate.attention = 0 → s.atL1 = false → (s.power.st = .s0 ∨ s.power.st = .s2) →
    Runs .shortPress s (fun t => t.power.st = .enterS3 ∧ t.plate.attention = 3 ∧ t.plate.lastEvent = 1 ∧ t.mem = s.mem ∧ t.parts = s.parts)) ∧
  (s.running = true → s.plate.attention = 1 → s.power.st = .s0 → s.plate.drainSealed = false →
    Runs .shortPress s (fun t => t = (List.range 16).foldl (fun t p => t.rerunPart p) { s with plate := { s.plate with attention := 0, lastEvent := 2, drainSealed := false } })) ∧
  (s.plate.attention = 1 → s.plate.drainSealed = false → s.hasPartner = false →
    (s.anyRunning = false → s.quiet = true → (s.power.st = .s0 ∨ s.power.st = .s2) → Runs .drainSettled s (fun t => t.power.st = .enterS3 ∧ t.plate.attention = 3 ∧ t.mem = s.mem ∧ t.parts = s.parts)) ∧
    (s.quiet = true → (s.power.st = .s0 ∨ s.power.st = .s2) → Runs .drainLimit s (fun t => t.power.st = .enterS3 ∧ t.plate.attention = 3)) ∧
    (s.quiet = false → Runs .drainLimit s (fun t => OnlyPlate s t ∧ t.plate = { s.plate with attention := 5 }) ∧ exec .drainSettled s = .next s)) ∧
  (s.plate.attention = 1 → s.plate.drainSealed = false → s.hasPartner = true → s.boot.sealed = false →
    Runs .drainLimit s (fun t => t.boot.sealed = true ∧ t.plate.drainSealed = true ∧ Out.ledgerSeal ∈ t.out) ∧
    (s.anyRunning = false → Runs .drainSettled s (fun t => t.boot.sealed = true ∧ t.plate.drainSealed = true ∧ Out.ledgerSeal ∈ t.out))) ∧
  (s.power.st ≠ .s5 → Runs .triplePress s (fun t => t = { s with plate := { s.plate with presence := true, lastEvent := 3 } })) ∧
  Runs .presenceExpiry s (fun t => t = { s with plate := { s.plate with presence := false } }) ∧
  (s.power.st ≠ .s5 → s.power.st ≠ .s3 → Runs .forcedStandby s (fun t => t.plate.shown = t.panel ∧ t.power.st = .s3 ∧ t.plate.lastEvent = 4 ∧ t.plate.attention = 0 ∧ t.clusters = [] ∧
    t.obj 0x9000 5 = (s.obj 0x9000 5 + 1) % 2 ^ 64)) ∧
  (s.power.st = .s3 → Runs .forcedStandby s (fun t => t = s.bump 0x9000 5 1)) ∧
  (∀ conn < 12, bit1 (s.obj 0x9002 1) conn = true → s.latch conn = 0 → s.power.st ≠ .s5 →
    (s.connIdle conn = true → Runs (.latchTouch conn) s (fun t => OnlyPlate s t ∧ t.latch conn = 2 ∧ ∀ k, k ≠ conn → t.latch k = s.latch k)) ∧
    (s.connIdle conn = false → conn < 8 → s.mustStay conn = true → Runs (.latchTouch conn) s (fun t => OnlyPlate s t ∧ t.latch conn = 3)) ∧
    (s.connIdle conn = false → s.mustStay conn = false → Runs (.latchTouch conn) s (fun t => t.latch conn = 1 ∧ t.mem = s.mem ∧ t.ports = s.ports ∧ t.kept = s.kept))) ∧
  (∀ conn < 8, s.latch conn = 1 → Runs (.connectorDrained conn) s (fun t => t.latch conn = 2 ∧ t.mem = s.mem ∧ t.parts = s.parts ∧
    ∀ j < 4, (s.port (4 * conn + j)).mode ≠ 0 → (t.port (4 * conn + j)).st = .down ∨ (t.port (4 * conn + j)).st = .fused)) ∧
  (∀ conn, s.latch conn = 3 → Runs (.latchRelease conn) s (fun t => OnlyPlate s t ∧ t.latch conn = 0)) ∧
  (∀ conn < 8, s.latch conn = 2 → s.plate.seated.contains conn = true → s.power.st ≠ .s3 → Runs (.latchRelease conn) s (fun t => t.latch conn = 0 ∧ t.mem = s.mem ∧
    ∀ j < 4, (s.port (4 * conn + j)).st ≠ .fused → (t.port (4 * conn + j)).st = .retrain ∧ (t.port (4 * conn + j)).peer = none)) ∧
  (∀ conn < 8, Runs (.cblPresNChange conn false) s (fun t => t.latch conn = 4 ∧ t.plate.seated.contains conn = false ∧ t.mem = s.mem ∧
    ∀ j < 4, (t.port (4 * conn + j)).st = .down ∨ (t.port (4 * conn + j)).st = .fused)) ∧
  (∀ conn < 8, Runs (.cblPresNChange conn true) s (fun t => t.latch conn = 0 ∧ t.plate.seated.contains conn = true ∧ t.mem = s.mem)) ∧
  (s.power.st ≠ .s5 → Runs .displayRedraw s (fun t => t = { s with plate := { s.plate with shown := s.panel } })) ∧
  (s.power.st = .s5 → exec .triplePress s = .next s ∧ exec .displayRedraw s = .next s ∧ ∀ conn, exec (.latchTouch conn) s = .next s) ∧
  Runs .clearFaultCode s (fun t => t = { s with plate := { s.plate with fault := [] } }) ∧
  (∀ p, let x := s.port p
    ((x.st = .down ∧ x.fault = true) ∨ x.st = .heldDown → s.portLed p = ⟨.red, false⟩) ∧
    (¬((x.st = .down ∧ x.fault = true) ∨ x.st = .heldDown) → s.latch (p / 4) = 3 → s.portLed p = ⟨.amber, true⟩) ∧
    (¬((x.st = .down ∧ x.fault = true) ∨ x.st = .heldDown) → s.latch (p / 4) = 2 → s.portLed p = ⟨.blue, false⟩) ∧
    (x.st = .up → s.latch (p / 4) ≠ 2 → s.latch (p / 4) ≠ 3 → (s.portLed p).colour = .green) ∧
    (x.st = .fused ∨ (x.st = .down ∧ x.fault = false) → s.latch (p / 4) ≠ 2 → s.latch (p / 4) ≠ 3 → s.portLed p = ⟨.off, false⟩)) ∧
  (s.power.st ≠ .s5 →
    (s.power.tripCause ≠ 0 ∨ s.obj 0x5000 6 = 1 → s.lightBar = ⟨.red, false⟩) ∧
    (s.power.tripCause = 0 → s.plate.lastEvent ≠ 4 → s.obj 0x5000 6 ≠ 1 →
      (s.plate.attention = 4 → s.lightBar = ⟨.blue, false⟩) ∧
      (s.plate.attention = 5 ∨ (s.recov.recs ≠ [] ∧ s.plate.attention ≠ 4) → s.lightBar = ⟨.amber, false⟩) ∧
      (s.boot.stage = .l2 → s.plate.faulted = false → s.plate.attention < 4 → s.recov.recs = [] → s.lightBar = ⟨.green, false⟩) ∧
      (s.obj 0x9004 1 = 1 → s.boot.stage = .off → s.plate.attention < 4 → s.recov.recs = [] → s.lightBar = ⟨.white, true⟩)))
end

