-- ==== Sys2Proof/Laws/Tab.lean ====
section
/-! SUPPORT. The laws of tables and of memory: a read after a write, and the canonical form that every operation keeps. -/

namespace Sys2Proof.Machine

variable {α : Type}

theorem tab_wf_iff [DecidableEq α] (t : Tab α) (d : α) :
    Tab.wf t d = true ↔ t.Pairwise (fun a b => a.1 < b.1) ∧ ∀ e ∈ t, e.2 ≠ d := by
  simp [Tab.wf]

/-- Any part of a canonical table, kept in order, is canonical. -/
theorem tab_wf_sublist [DecidableEq α] {t u : Tab α} {d : α} (h : Tab.wf t d = true) (hu : u.Sublist t) : Tab.wf u d = true := by
  rw [tab_wf_iff] at *
  exact ⟨h.1.sublist hu, fun e he => h.2 e (hu.subset he)⟩

theorem tab_wf_nil [DecidableEq α] (d : α) : Tab.wf ([] : Tab α) d = true := by simp [Tab.wf]

theorem tab_wf_filter [DecidableEq α] {t : Tab α} {d : α} (h : Tab.wf t d = true) (p : Nat × α → Bool) : Tab.wf (List.filter p t) d = true :=
  tab_wf_sublist h List.filter_sublist

theorem tab_wf_clear [DecidableEq α] {t : Tab α} {d : α} (h : Tab.wf t d = true) (a n : Nat) : Tab.wf (Tab.clear t a n) d = true :=
  tab_wf_filter h _

/-- The keys of a table rise after a put, whatever its default. -/
theorem tab_rising_put [DecidableEq α] {t : Tab α} {d : α} (h : t.Pairwise fun a b => a.1 < b.1) (k : Nat) (v : α) :
    (Tab.put t d k v).Pairwise fun a b => a.1 < b.1 := by
  unfold Tab.put
  rw [List.pairwise_append, List.pairwise_append]
  refine ⟨h.sublist List.filter_sublist, ⟨?_, h.sublist List.filter_sublist, ?_⟩, ?_⟩
  · split <;> simp
  · intro a ha b hb
    split at ha
    · simp at ha
    · simp only [List.mem_singleton] at ha; subst ha; simpa using (List.mem_filter.mp hb).2
  · intro a ha b hb
    have ha' : a.1 < k := by simpa using (List.mem_filter.mp ha).2
    rcases List.mem_append.mp hb with hb | hb
    · split at hb
      · simp at hb
      · simp only [List.mem_singleton] at hb; subst hb; exact ha'
    · have : k < b.1 := by simpa using (List.mem_filter.mp hb).2
      omega

/-- What a put leaves in a table. -/
theorem tab_mem_put [DecidableEq α] {t : Tab α} {d : α} {k : Nat} {v : α} {e : Nat × α} (h : e ∈ Tab.put t d k v) :
    e ∈ t ∨ (e = (k, v) ∧ v ≠ d) := by
  unfold Tab.put at h
  rcases List.mem_append.mp h with h | h
  · exact .inl (List.mem_filter.mp h).1
  · rcases List.mem_append.mp h with h | h
    · split at h
      · simp at h
      · simp only [List.mem_singleton] at h; exact .inr ⟨h, ‹_›⟩
    · exact .inl (List.mem_filter.mp h).1

theorem tab_wf_put [DecidableEq α] {t : Tab α} {d : α} (h : Tab.wf t d = true) (k : Nat) (v : α) : Tab.wf (Tab.put t d k v) d = true := by
  rw [tab_wf_iff] at *
  refine ⟨tab_rising_put h.1 k v, fun e he => ?_⟩
  rcases tab_mem_put he with he | ⟨rfl, hv⟩
  · exact h.2 e he
  · exact hv

theorem tab_wf_mapV [DecidableEq α] {t : Tab α} {d : α} (h : Tab.wf t d = true) (f : α → α) : Tab.wf (Tab.mapV t d f) d = true := by
  rw [tab_wf_iff] at *
  constructor
  · refine List.Pairwise.sublist List.filter_sublist ?_
    rw [List.pairwise_map]
    exact h.1
  · intro e he
    simpa using (List.mem_filter.mp he).2

theorem tab_wf_foldl [DecidableEq α] {β : Type} {d : α} (f : Tab α → β → Tab α) (hf : ∀ t x, Tab.wf t d = true → Tab.wf (f t x) d = true)
    (l : List β) : ∀ {t : Tab α}, Tab.wf t d = true → Tab.wf (l.foldl f t) d = true := by
  induction l with
  | nil => intro t h; exact h
  | cons x l ih => intro t h; exact ih (hf t x h)

theorem tab_find_append_none {t u : Tab α} {k : Nat} (h : ∀ e ∈ t, e.1 ≠ k) :
    (t ++ u).find? (fun e => e.1 == k) = u.find? (fun e => e.1 == k) := by
  rw [List.find?_append]
  have : t.find? (fun e => e.1 == k) = none := by
    rw [List.find?_eq_none]; intro e he; simpa using h e he
  simp [this]

/-- A lookup in the part of a table whose keys satisfy a condition. -/
theorem tab_find_filter (t : Tab α) (p : Nat → Bool) (j : Nat) :
    (t.filter fun e => p e.1).find? (fun e => e.1 == j) = if p j then t.find? (fun e => e.1 == j) else none := by
  induction t with
  | nil => simp
  | cons e t ih =>
    by_cases he : e.1 = j
    · subst he
      by_cases hp : p e.1
      · simp [hp]
      · simp only [List.filter_cons, hp, Bool.false_eq_true, if_false] at ih ⊢
        exact ih
    · have hne : (e.1 == j) = false := by simpa using he
      rw [List.find?_cons_of_neg (by simp [he]), ← ih, List.filter_cons]
      split
      · rw [List.find?_cons_of_neg (by simp [he])]
      · rfl

/-- A key just put reads as the value put. -/
@[simp] theorem tab_look_put_same [DecidableEq α] (t : Tab α) (d : α) (k : Nat) (v : α) : Tab.look (Tab.put t d k v) d k = v := by
  unfold Tab.look Tab.put
  rw [tab_find_append_none (by intro e he; have := (List.mem_filter.mp he).2; simp at this; omega)]
  split
  · rename_i e h
    split at h
    · rw [List.nil_append] at h
      have h1 := List.mem_of_find?_eq_some h
      have h2 := List.find?_some h
      have := (List.mem_filter.mp h1).2
      simp at this h2; omega
    · simp at h; rw [← h]
  · rename_i h
    split at h
    · symm; assumption
    · simp at h

/-- Another key reads as before. -/
theorem tab_look_put_ne [DecidableEq α] (t : Tab α) (d d' : α) {k j : Nat} (v : α) (h : j ≠ k) :
    Tab.look (Tab.put t d k v) d' j = Tab.look t d' j := by
  unfold Tab.look
  have hput : (Tab.put t d k v).find? (fun e => e.1 == j) = (t.filter (fun e => e.1 < k) ++ t.filter (fun e => k < e.1)).find? (fun e => e.1 == j) := by
    unfold Tab.put
    rw [List.find?_append, List.find?_append, List.find?_append]
    have : (if v = d then ([] : Tab α) else [(k, v)]).find? (fun e => e.1 == j) = none := by
      split
      · rfl
      · simp; omega
    simp [this]
  rw [hput, List.find?_append, tab_find_filter t (fun n => decide (n < k)), tab_find_filter t (fun n => decide (k < n))]
  rcases Nat.lt_or_gt_of_ne h with hlt | hgt
  · have : ¬ k < j := by omega
    simp [hlt, this]
  · have : ¬ j < k := by omega
    simp [hgt, this]

theorem tab_look_put [DecidableEq α] (t : Tab α) (d : α) (k j : Nat) (v : α) :
    Tab.look (Tab.put t d k v) d j = if j = k then v else Tab.look t d j := by
  split
  · subst j; simp
  · exact tab_look_put_ne t d d v ‹_›

/-! ### Memory -/

theorem cellsOf_mem (bs : List Byte) : ∀ (a : Nat) (e : Nat × Byte), e ∈ cellsOf a bs → a ≤ e.1 ∧ e.1 < a + bs.length ∧ e.2 ≠ 0 := by
  induction bs with
  | nil => intro a e h; simp [cellsOf] at h
  | cons b bs ih =>
    intro a e h
    unfold cellsOf at h
    split at h
    · have := ih (a + 1) e h; simp only [List.length_cons]; exact ⟨by omega, by omega, this.2.2⟩
    · rcases List.mem_cons.mp h with h | h
      · subst h; simp; assumption
      · have := ih (a + 1) e h; simp only [List.length_cons]; exact ⟨by omega, by omega, this.2.2⟩

theorem cellsOf_pairwise (bs : List Byte) : ∀ (a : Nat), (cellsOf a bs).Pairwise (fun x y => x.1 < y.1) := by
  induction bs with
  | nil => intro a; simp [cellsOf]
  | cons b bs ih =>
    intro a
    unfold cellsOf
    split
    · exact ih _
    · refine List.Pairwise.cons ?_ (ih _)
      intro e he; have := cellsOf_mem bs (a + 1) e he; simp; omega

/-- A write of bytes keeps the canonical form. -/
theorem memory_wf_writeN {m : Memory} (h : m.wf = true) (a : Nat) (bs : List Byte) : (m.writeN a bs).wf = true := by
  unfold Memory.wf at *
  rw [tab_wf_iff] at *
  obtain ⟨hp, hd⟩ := h
  unfold Memory.writeN
  constructor
  · rw [List.pairwise_append, List.pairwise_append]
    refine ⟨hp.sublist List.filter_sublist, ⟨cellsOf_pairwise bs a, hp.sublist List.filter_sublist, ?_⟩, ?_⟩
    · intro x hx y hy
      have h1 := cellsOf_mem bs a x hx
      have h2 : a + bs.length ≤ y.1 := by simpa using (List.mem_filter.mp hy).2
      omega
    · intro x hx y hy
      have h1 : x.1 < a := by simpa using (List.mem_filter.mp hx).2
      rcases List.mem_append.mp hy with hy | hy
      · have h2 := cellsOf_mem bs a y hy; omega
      · have h2 : a + bs.length ≤ y.1 := by simpa using (List.mem_filter.mp hy).2
        omega
  · intro e he
    rcases List.mem_append.mp he with he | he
    · exact hd e (List.mem_filter.mp he).1
    · rcases List.mem_append.mp he with he | he
      · exact (cellsOf_mem bs a e he).2.2
      · exact hd e (List.mem_filter.mp he).1

theorem memory_wf_filter {m : Memory} (h : m.wf = true) (p : Nat × Byte → Bool) : Memory.wf (List.filter p m) = true := tab_wf_filter h p

theorem cellsOf_find (bs : List Byte) : ∀ (a i : Nat), i < bs.length →
    ((cellsOf a bs).find? (fun e => e.1 == a + i)).elim (0 : Byte) (·.2) = bs[i]?.getD 0 := by
  induction bs with
  | nil => intro a i h; simp at h
  | cons b bs ih =>
    intro a i h
    cases i with
    | zero =>
      unfold cellsOf
      split
      · rename_i hb
        have : (cellsOf (a + 1) bs).find? (fun e => e.1 == a + 0) = none := by
          rw [List.find?_eq_none]; intro e he; have := cellsOf_mem bs (a + 1) e he; simp; omega
        simp at this ⊢
        rw [List.find?_eq_none.mpr (by intro e he; have := cellsOf_mem bs (a + 1) e he; simp; omega)]
        simp [hb]
      · simp
    | succ i =>
      have hi : i < bs.length := by simpa using h
      have := ih (a + 1) i hi
      unfold cellsOf
      split
      · simpa [Nat.add_assoc, Nat.add_comm 1 i] using this
      · rw [List.find?_cons_of_neg (by simp)]
        simpa [Nat.add_assoc, Nat.add_comm 1 i] using this

/-- A byte just written reads as written, and every other byte reads as before. -/
theorem memory_byte_writeN (m : Memory) (a : Nat) (bs : List Byte) (b : Nat) :
    (m.writeN a bs).byte b = if a ≤ b ∧ b < a + bs.length then bs[b - a]?.getD 0 else m.byte b := by
  unfold Memory.byte
  split
  · rename_i h
    have e1 : (m.writeN a bs).find? (fun e => e.1 == b) = (cellsOf a bs).find? (fun e => e.1 == b) := by
      unfold Memory.writeN
      rw [tab_find_append_none (by intro e he; have := (List.mem_filter.mp he).2; simp at this; omega), List.find?_append]
      have : (m.filter fun e => decide (a + bs.length ≤ e.1)).find? (fun e => e.1 == b) = none := by
        rw [List.find?_eq_none]; intro e he; have := (List.mem_filter.mp he).2; simp at this ⊢; omega
      rw [this]; simp
    have e2 := cellsOf_find bs a (b - a) (by omega)
    have e3 : a + (b - a) = b := by omega
    rw [e3] at e2
    unfold Tab.look
    rw [e1]
    revert e2
    cases (cellsOf a bs).find? (fun e => e.1 == b) <;> simp
  · rename_i h
    have : (m.writeN a bs).find? (fun e => e.1 == b) = m.find? (fun e => e.1 == b) := by
      unfold Memory.writeN
      have hc : (cellsOf a bs).find? (fun e => e.1 == b) = none := by
        rw [List.find?_eq_none]; intro e he; have := cellsOf_mem bs a e he; simp; omega
      rw [List.find?_append, List.find?_append, hc, tab_find_filter m (fun n => decide (n < a)),
        tab_find_filter m (fun n => decide (a + bs.length ≤ n))]
      by_cases hb : b < a
      · have : ¬ a + bs.length ≤ b := by omega
        simp [hb, this]
      · have : a + bs.length ≤ b := by omega
        simp [hb, this]
    unfold Tab.look
    rw [this]

end Sys2Proof.Machine
end

