-- ==== Sys2Proof/Laws/State.lean ====
section
/-! SUPPORT. One lemma for each field under each named update of the state, and the read of a piece after its update:
what a proof uses in place of unfolding a record update. -/

namespace Sys2Proof.Machine

variable (s : State)

/-! ### updCl -/

@[simp] theorem updCl_pending (c : Nat) (f : Cluster → Cluster) : (s.updCl c f).pending = s.pending := rfl
@[simp] theorem updCl_free (c : Nat) (f : Cluster → Cluster) : (s.updCl c f).free = s.free := rfl
@[simp] theorem updCl_out (c : Nat) (f : Cluster → Cluster) : (s.updCl c f).out = s.out := rfl
@[simp] theorem updCl_mem (c : Nat) (f : Cluster → Cluster) : (s.updCl c f).mem = s.mem := rfl
@[simp] theorem updCl_poison (c : Nat) (f : Cluster → Cluster) : (s.updCl c f).poison = s.poison := rfl
@[simp] theorem updCl_upset (c : Nat) (f : Cluster → Cluster) : (s.updCl c f).upset = s.upset := rfl
@[simp] theorem updCl_marks (c : Nat) (f : Cluster → Cluster) : (s.updCl c f).marks = s.marks := rfl
@[simp] theorem updCl_watched (c : Nat) (f : Cluster → Cluster) : (s.updCl c f).watched = s.watched := rfl
@[simp] theorem updCl_dies (c : Nat) (f : Cluster → Cluster) : (s.updCl c f).dies = s.dies := rfl
@[simp] theorem updCl_hubs (c : Nat) (f : Cluster → Cluster) : (s.updCl c f).hubs = s.hubs := rfl
@[simp] theorem updCl_links (c : Nat) (f : Cluster → Cluster) : (s.updCl c f).links = s.links := rfl
@[simp] theorem updCl_ports (c : Nat) (f : Cluster → Cluster) : (s.updCl c f).ports = s.ports := rfl
@[simp] theorem updCl_parts (c : Nat) (f : Cluster → Cluster) : (s.updCl c f).parts = s.parts := rfl
@[simp] theorem updCl_kept (c : Nat) (f : Cluster → Cluster) : (s.updCl c f).kept = s.kept := rfl
@[simp] theorem updCl_mailToAoc (c : Nat) (f : Cluster → Cluster) : (s.updCl c f).mailToAoc = s.mailToAoc := rfl
@[simp] theorem updCl_mailToHost (c : Nat) (f : Cluster → Cluster) : (s.updCl c f).mailToHost = s.mailToHost := rfl
@[simp] theorem updCl_mdpRx (c : Nat) (f : Cluster → Cluster) : (s.updCl c f).mdpRx = s.mdpRx := rfl
@[simp] theorem updCl_mac (c : Nat) (f : Cluster → Cluster) : (s.updCl c f).mac = s.mac := rfl
@[simp] theorem updCl_evt (c : Nat) (f : Cluster → Cluster) : (s.updCl c f).evt = s.evt := rfl
@[simp] theorem updCl_recov (c : Nat) (f : Cluster → Cluster) : (s.updCl c f).recov = s.recov := rfl
@[simp] theorem updCl_plan (c : Nat) (f : Cluster → Cluster) : (s.updCl c f).plan = s.plan := rfl
@[simp] theorem updCl_power (c : Nat) (f : Cluster → Cluster) : (s.updCl c f).power = s.power := rfl
@[simp] theorem updCl_boot (c : Nat) (f : Cluster → Cluster) : (s.updCl c f).boot = s.boot := rfl
@[simp] theorem updCl_dict (c : Nat) (f : Cluster → Cluster) : (s.updCl c f).dict = s.dict := rfl
@[simp] theorem updCl_sec (c : Nat) (f : Cluster → Cluster) : (s.updCl c f).sec = s.sec := rfl
@[simp] theorem updCl_plate (c : Nat) (f : Cluster → Cluster) : (s.updCl c f).plate = s.plate := rfl
@[simp] theorem updCl_cl_same (c : Nat) (f : Cluster → Cluster) : (s.updCl c f).cl c = f (s.cl c) := tab_look_put_same ..
theorem updCl_cl_ne (c : Nat) (f : Cluster → Cluster) (k : Nat) (hk : k ≠ c) : (s.updCl c f).cl k = s.cl k := tab_look_put_ne _ _ _ _ hk
@[simp] theorem updCl_pt (c : Nat) (f : Cluster → Cluster) (k : Nat) : (s.updCl c f).pt k = s.pt k := rfl
@[simp] theorem updCl_die (c : Nat) (f : Cluster → Cluster) (k : Nat) : (s.updCl c f).die k = s.die k := rfl
@[simp] theorem updCl_hub (c : Nat) (f : Cluster → Cluster) (k : Nat) : (s.updCl c f).hub k = s.hub k := rfl
@[simp] theorem updCl_link (c : Nat) (f : Cluster → Cluster) (k : Nat) : (s.updCl c f).link k = s.link k := rfl
@[simp] theorem updCl_port (c : Nat) (f : Cluster → Cluster) (k : Nat) : (s.updCl c f).port k = s.port k := rfl
@[simp] theorem updCl_obj (c : Nat) (f : Cluster → Cluster) (i j : Nat) : (s.updCl c f).obj i j = s.obj i j := rfl
@[simp] theorem updCl_cfg (c : Nat) (f : Cluster → Cluster) (i j : Nat) : (s.updCl c f).cfg i j = s.cfg i j := rfl

/-! ### updPt -/

@[simp] theorem updPt_pending (p : Nat) (f : Part → Part) : (s.updPt p f).pending = s.pending := rfl
@[simp] theorem updPt_free (p : Nat) (f : Part → Part) : (s.updPt p f).free = s.free := rfl
@[simp] theorem updPt_out (p : Nat) (f : Part → Part) : (s.updPt p f).out = s.out := rfl
@[simp] theorem updPt_mem (p : Nat) (f : Part → Part) : (s.updPt p f).mem = s.mem := rfl
@[simp] theorem updPt_poison (p : Nat) (f : Part → Part) : (s.updPt p f).poison = s.poison := rfl
@[simp] theorem updPt_upset (p : Nat) (f : Part → Part) : (s.updPt p f).upset = s.upset := rfl
@[simp] theorem updPt_marks (p : Nat) (f : Part → Part) : (s.updPt p f).marks = s.marks := rfl
@[simp] theorem updPt_watched (p : Nat) (f : Part → Part) : (s.updPt p f).watched = s.watched := rfl
@[simp] theorem updPt_clusters (p : Nat) (f : Part → Part) : (s.updPt p f).clusters = s.clusters := rfl
@[simp] theorem updPt_dies (p : Nat) (f : Part → Part) : (s.updPt p f).dies = s.dies := rfl
@[simp] theorem updPt_hubs (p : Nat) (f : Part → Part) : (s.updPt p f).hubs = s.hubs := rfl
@[simp] theorem updPt_links (p : Nat) (f : Part → Part) : (s.updPt p f).links = s.links := rfl
@[simp] theorem updPt_ports (p : Nat) (f : Part → Part) : (s.updPt p f).ports = s.ports := rfl
@[simp] theorem updPt_kept (p : Nat) (f : Part → Part) : (s.updPt p f).kept = s.kept := rfl
@[simp] theorem updPt_mailToAoc (p : Nat) (f : Part → Part) : (s.updPt p f).mailToAoc = s.mailToAoc := rfl
@[simp] theorem updPt_mailToHost (p : Nat) (f : Part → Part) : (s.updPt p f).mailToHost = s.mailToHost := rfl
@[simp] theorem updPt_mdpRx (p : Nat) (f : Part → Part) : (s.updPt p f).mdpRx = s.mdpRx := rfl
@[simp] theorem updPt_mac (p : Nat) (f : Part → Part) : (s.updPt p f).mac = s.mac := rfl
@[simp] theorem updPt_evt (p : Nat) (f : Part → Part) : (s.updPt p f).evt = s.evt := rfl
@[simp] theorem updPt_recov (p : Nat) (f : Part → Part) : (s.updPt p f).recov = s.recov := rfl
@[simp] theorem updPt_plan (p : Nat) (f : Part → Part) : (s.updPt p f).plan = s.plan := rfl
@[simp] theorem updPt_power (p : Nat) (f : Part → Part) : (s.updPt p f).power = s.power := rfl
@[simp] theorem updPt_boot (p : Nat) (f : Part → Part) : (s.updPt p f).boot = s.boot := rfl
@[simp] theorem updPt_dict (p : Nat) (f : Part → Part) : (s.updPt p f).dict = s.dict := rfl
@[simp] theorem updPt_sec (p : Nat) (f : Part → Part) : (s.updPt p f).sec = s.sec := rfl
@[simp] theorem updPt_plate (p : Nat) (f : Part → Part) : (s.updPt p f).plate = s.plate := rfl
@[simp] theorem updPt_cl (p : Nat) (f : Part → Part) (k : Nat) : (s.updPt p f).cl k = s.cl k := rfl
@[simp] theorem updPt_pt_same (p : Nat) (f : Part → Part) : (s.updPt p f).pt p = f (s.pt p) := tab_look_put_same ..
theorem updPt_pt_ne (p : Nat) (f : Part → Part) (k : Nat) (hk : k ≠ p) : (s.updPt p f).pt k = s.pt k := tab_look_put_ne _ _ _ _ hk
@[simp] theorem updPt_die (p : Nat) (f : Part → Part) (k : Nat) : (s.updPt p f).die k = s.die k := rfl
@[simp] theorem updPt_hub (p : Nat) (f : Part → Part) (k : Nat) : (s.updPt p f).hub k = s.hub k := rfl
@[simp] theorem updPt_link (p : Nat) (f : Part → Part) (k : Nat) : (s.updPt p f).link k = s.link k := rfl
@[simp] theorem updPt_port (p : Nat) (f : Part → Part) (k : Nat) : (s.updPt p f).port k = s.port k := rfl
@[simp] theorem updPt_obj (p : Nat) (f : Part → Part) (i j : Nat) : (s.updPt p f).obj i j = s.obj i j := rfl
@[simp] theorem updPt_cfg (p : Nat) (f : Part → Part) (i j : Nat) : (s.updPt p f).cfg i j = s.cfg i j := rfl

/-! ### updDie -/

@[simp] theorem updDie_pending (d : Nat) (f : Die → Die) : (s.updDie d f).pending = s.pending := rfl
@[simp] theorem updDie_free (d : Nat) (f : Die → Die) : (s.updDie d f).free = s.free := rfl
@[simp] theorem updDie_out (d : Nat) (f : Die → Die) : (s.updDie d f).out = s.out := rfl
@[simp] theorem updDie_mem (d : Nat) (f : Die → Die) : (s.updDie d f).mem = s.mem := rfl
@[simp] theorem updDie_poison (d : Nat) (f : Die → Die) : (s.updDie d f).poison = s.poison := rfl
@[simp] theorem updDie_upset (d : Nat) (f : Die → Die) : (s.updDie d f).upset = s.upset := rfl
@[simp] theorem updDie_marks (d : Nat) (f : Die → Die) : (s.updDie d f).marks = s.marks := rfl
@[simp] theorem updDie_watched (d : Nat) (f : Die → Die) : (s.updDie d f).watched = s.watched := rfl
@[simp] theorem updDie_clusters (d : Nat) (f : Die → Die) : (s.updDie d f).clusters = s.clusters := rfl
@[simp] theorem updDie_hubs (d : Nat) (f : Die → Die) : (s.updDie d f).hubs = s.hubs := rfl
@[simp] theorem updDie_links (d : Nat) (f : Die → Die) : (s.updDie d f).links = s.links := rfl
@[simp] theorem updDie_ports (d : Nat) (f : Die → Die) : (s.updDie d f).ports = s.ports := rfl
@[simp] theorem updDie_parts (d : Nat) (f : Die → Die) : (s.updDie d f).parts = s.parts := rfl
@[simp] theorem updDie_kept (d : Nat) (f : Die → Die) : (s.updDie d f).kept = s.kept := rfl
@[simp] theorem updDie_mailToAoc (d : Nat) (f : Die → Die) : (s.updDie d f).mailToAoc = s.mailToAoc := rfl
@[simp] theorem updDie_mailToHost (d : Nat) (f : Die → Die) : (s.updDie d f).mailToHost = s.mailToHost := rfl
@[simp] theorem updDie_mdpRx (d : Nat) (f : Die → Die) : (s.updDie d f).mdpRx = s.mdpRx := rfl
@[simp] theorem updDie_mac (d : Nat) (f : Die → Die) : (s.updDie d f).mac = s.mac := rfl
@[simp] theorem updDie_evt (d : Nat) (f : Die → Die) : (s.updDie d f).evt = s.evt := rfl
@[simp] theorem updDie_recov (d : Nat) (f : Die → Die) : (s.updDie d f).recov = s.recov := rfl
@[simp] theorem updDie_plan (d : Nat) (f : Die → Die) : (s.updDie d f).plan = s.plan := rfl
@[simp] theorem updDie_power (d : Nat) (f : Die → Die) : (s.updDie d f).power = s.power := rfl
@[simp] theorem updDie_boot (d : Nat) (f : Die → Die) : (s.updDie d f).boot = s.boot := rfl
@[simp] theorem updDie_dict (d : Nat) (f : Die → Die) : (s.updDie d f).dict = s.dict := rfl
@[simp] theorem updDie_sec (d : Nat) (f : Die → Die) : (s.updDie d f).sec = s.sec := rfl
@[simp] theorem updDie_plate (d : Nat) (f : Die → Die) : (s.updDie d f).plate = s.plate := rfl
@[simp] theorem updDie_cl (d : Nat) (f : Die → Die) (k : Nat) : (s.updDie d f).cl k = s.cl k := rfl
@[simp] theorem updDie_pt (d : Nat) (f : Die → Die) (k : Nat) : (s.updDie d f).pt k = s.pt k := rfl
@[simp] theorem updDie_die_same (d : Nat) (f : Die → Die) : (s.updDie d f).die d = f (s.die d) := tab_look_put_same ..
theorem updDie_die_ne (d : Nat) (f : Die → Die) (k : Nat) (hk : k ≠ d) : (s.updDie d f).die k = s.die k := tab_look_put_ne _ _ _ _ hk
@[simp] theorem updDie_hub (d : Nat) (f : Die → Die) (k : Nat) : (s.updDie d f).hub k = s.hub k := rfl
@[simp] theorem updDie_link (d : Nat) (f : Die → Die) (k : Nat) : (s.updDie d f).link k = s.link k := rfl
@[simp] theorem updDie_port (d : Nat) (f : Die → Die) (k : Nat) : (s.updDie d f).port k = s.port k := rfl
@[simp] theorem updDie_obj (d : Nat) (f : Die → Die) (i j : Nat) : (s.updDie d f).obj i j = s.obj i j := rfl
@[simp] theorem updDie_cfg (d : Nat) (f : Die → Die) (i j : Nat) : (s.updDie d f).cfg i j = s.cfg i j := rfl

/-! ### updHub -/

@[simp] theorem updHub_pending (h : Nat) (f : Hub → Hub) : (s.updHub h f).pending = s.pending := rfl
@[simp] theorem updHub_free (h : Nat) (f : Hub → Hub) : (s.updHub h f).free = s.free := rfl
@[simp] theorem updHub_out (h : Nat) (f : Hub → Hub) : (s.updHub h f).out = s.out := rfl
@[simp] theorem updHub_mem (h : Nat) (f : Hub → Hub) : (s.updHub h f).mem = s.mem := rfl
@[simp] theorem updHub_poison (h : Nat) (f : Hub → Hub) : (s.updHub h f).poison = s.poison := rfl
@[simp] theorem updHub_upset (h : Nat) (f : Hub → Hub) : (s.updHub h f).upset = s.upset := rfl
@[simp] theorem updHub_marks (h : Nat) (f : Hub → Hub) : (s.updHub h f).marks = s.marks := rfl
@[simp] theorem updHub_watched (h : Nat) (f : Hub → Hub) : (s.updHub h f).watched = s.watched := rfl
@[simp] theorem updHub_clusters (h : Nat) (f : Hub → Hub) : (s.updHub h f).clusters = s.clusters := rfl
@[simp] theorem updHub_dies (h : Nat) (f : Hub → Hub) : (s.updHub h f).dies = s.dies := rfl
@[simp] theorem updHub_links (h : Nat) (f : Hub → Hub) : (s.updHub h f).links = s.links := rfl
@[simp] theorem updHub_ports (h : Nat) (f : Hub → Hub) : (s.updHub h f).ports = s.ports := rfl
@[simp] theorem updHub_parts (h : Nat) (f : Hub → Hub) : (s.updHub h f).parts = s.parts := rfl
@[simp] theorem updHub_kept (h : Nat) (f : Hub → Hub) : (s.updHub h f).kept = s.kept := rfl
@[simp] theorem updHub_mailToAoc (h : Nat) (f : Hub → Hub) : (s.updHub h f).mailToAoc = s.mailToAoc := rfl
@[simp] theorem updHub_mailToHost (h : Nat) (f : Hub → Hub) : (s.updHub h f).mailToHost = s.mailToHost := rfl
@[simp] theorem updHub_mdpRx (h : Nat) (f : Hub → Hub) : (s.updHub h f).mdpRx = s.mdpRx := rfl
@[simp] theorem updHub_mac (h : Nat) (f : Hub → Hub) : (s.updHub h f).mac = s.mac := rfl
@[simp] theorem updHub_evt (h : Nat) (f : Hub → Hub) : (s.updHub h f).evt = s.evt := rfl
@[simp] theorem updHub_recov (h : Nat) (f : Hub → Hub) : (s.updHub h f).recov = s.recov := rfl
@[simp] theorem updHub_plan (h : Nat) (f : Hub → Hub) : (s.updHub h f).plan = s.plan := rfl
@[simp] theorem updHub_power (h : Nat) (f : Hub → Hub) : (s.updHub h f).power = s.power := rfl
@[simp] theorem updHub_boot (h : Nat) (f : Hub → Hub) : (s.updHub h f).boot = s.boot := rfl
@[simp] theorem updHub_dict (h : Nat) (f : Hub → Hub) : (s.updHub h f).dict = s.dict := rfl
@[simp] theorem updHub_sec (h : Nat) (f : Hub → Hub) : (s.updHub h f).sec = s.sec := rfl
@[simp] theorem updHub_plate (h : Nat) (f : Hub → Hub) : (s.updHub h f).plate = s.plate := rfl
@[simp] theorem updHub_cl (h : Nat) (f : Hub → Hub) (k : Nat) : (s.updHub h f).cl k = s.cl k := rfl
@[simp] theorem updHub_pt (h : Nat) (f : Hub → Hub) (k : Nat) : (s.updHub h f).pt k = s.pt k := rfl
@[simp] theorem updHub_die (h : Nat) (f : Hub → Hub) (k : Nat) : (s.updHub h f).die k = s.die k := rfl
@[simp] theorem updHub_hub_same (h : Nat) (f : Hub → Hub) : (s.updHub h f).hub h = f (s.hub h) := tab_look_put_same ..
theorem updHub_hub_ne (h : Nat) (f : Hub → Hub) (k : Nat) (hk : k ≠ h) : (s.updHub h f).hub k = s.hub k := tab_look_put_ne _ _ _ _ hk
@[simp] theorem updHub_link (h : Nat) (f : Hub → Hub) (k : Nat) : (s.updHub h f).link k = s.link k := rfl
@[simp] theorem updHub_port (h : Nat) (f : Hub → Hub) (k : Nat) : (s.updHub h f).port k = s.port k := rfl
@[simp] theorem updHub_obj (h : Nat) (f : Hub → Hub) (i j : Nat) : (s.updHub h f).obj i j = s.obj i j := rfl
@[simp] theorem updHub_cfg (h : Nat) (f : Hub → Hub) (i j : Nat) : (s.updHub h f).cfg i j = s.cfg i j := rfl

/-! ### updLink -/

@[simp] theorem updLink_pending (l : Nat) (f : LinkDie → LinkDie) : (s.updLink l f).pending = s.pending := rfl
@[simp] theorem updLink_free (l : Nat) (f : LinkDie → LinkDie) : (s.updLink l f).free = s.free := rfl
@[simp] theorem updLink_out (l : Nat) (f : LinkDie → LinkDie) : (s.updLink l f).out = s.out := rfl
@[simp] theorem updLink_mem (l : Nat) (f : LinkDie → LinkDie) : (s.updLink l f).mem = s.mem := rfl
@[simp] theorem updLink_poison (l : Nat) (f : LinkDie → LinkDie) : (s.updLink l f).poison = s.poison := rfl
@[simp] theorem updLink_upset (l : Nat) (f : LinkDie → LinkDie) : (s.updLink l f).upset = s.upset := rfl
@[simp] theorem updLink_marks (l : Nat) (f : LinkDie → LinkDie) : (s.updLink l f).marks = s.marks := rfl
@[simp] theorem updLink_watched (l : Nat) (f : LinkDie → LinkDie) : (s.updLink l f).watched = s.watched := rfl
@[simp] theorem updLink_clusters (l : Nat) (f : LinkDie → LinkDie) : (s.updLink l f).clusters = s.clusters := rfl
@[simp] theorem updLink_dies (l : Nat) (f : LinkDie → LinkDie) : (s.updLink l f).dies = s.dies := rfl
@[simp] theorem updLink_hubs (l : Nat) (f : LinkDie → LinkDie) : (s.updLink l f).hubs = s.hubs := rfl
@[simp] theorem updLink_ports (l : Nat) (f : LinkDie → LinkDie) : (s.updLink l f).ports = s.ports := rfl
@[simp] theorem updLink_parts (l : Nat) (f : LinkDie → LinkDie) : (s.updLink l f).parts = s.parts := rfl
@[simp] theorem updLink_kept (l : Nat) (f : LinkDie → LinkDie) : (s.updLink l f).kept = s.kept := rfl
@[simp] theorem updLink_mailToAoc (l : Nat) (f : LinkDie → LinkDie) : (s.updLink l f).mailToAoc = s.mailToAoc := rfl
@[simp] theorem updLink_mailToHost (l : Nat) (f : LinkDie → LinkDie) : (s.updLink l f).mailToHost = s.mailToHost := rfl
@[simp] theorem updLink_mdpRx (l : Nat) (f : LinkDie → LinkDie) : (s.updLink l f).mdpRx = s.mdpRx := rfl
@[simp] theorem updLink_mac (l : Nat) (f : LinkDie → LinkDie) : (s.updLink l f).mac = s.mac := rfl
@[simp] theorem updLink_evt (l : Nat) (f : LinkDie → LinkDie) : (s.updLink l f).evt = s.evt := rfl
@[simp] theorem updLink_recov (l : Nat) (f : LinkDie → LinkDie) : (s.updLink l f).recov = s.recov := rfl
@[simp] theorem updLink_plan (l : Nat) (f : LinkDie → LinkDie) : (s.updLink l f).plan = s.plan := rfl
@[simp] theorem updLink_power (l : Nat) (f : LinkDie → LinkDie) : (s.updLink l f).power = s.power := rfl
@[simp] theorem updLink_boot (l : Nat) (f : LinkDie → LinkDie) : (s.updLink l f).boot = s.boot := rfl
@[simp] theorem updLink_dict (l : Nat) (f : LinkDie → LinkDie) : (s.updLink l f).dict = s.dict := rfl
@[simp] theorem updLink_sec (l : Nat) (f : LinkDie → LinkDie) : (s.updLink l f).sec = s.sec := rfl
@[simp] theorem updLink_plate (l : Nat) (f : LinkDie → LinkDie) : (s.updLink l f).plate = s.plate := rfl
@[simp] theorem updLink_cl (l : Nat) (f : LinkDie → LinkDie) (k : Nat) : (s.updLink l f).cl k = s.cl k := rfl
@[simp] theorem updLink_pt (l : Nat) (f : LinkDie → LinkDie) (k : Nat) : (s.updLink l f).pt k = s.pt k := rfl
@[simp] theorem updLink_die (l : Nat) (f : LinkDie → LinkDie) (k : Nat) : (s.updLink l f).die k = s.die k := rfl
@[simp] theorem updLink_hub (l : Nat) (f : LinkDie → LinkDie) (k : Nat) : (s.updLink l f).hub k = s.hub k := rfl
@[simp] theorem updLink_link_same (l : Nat) (f : LinkDie → LinkDie) : (s.updLink l f).link l = f (s.link l) := tab_look_put_same ..
theorem updLink_link_ne (l : Nat) (f : LinkDie → LinkDie) (k : Nat) (hk : k ≠ l) : (s.updLink l f).link k = s.link k := tab_look_put_ne _ _ _ _ hk
@[simp] theorem updLink_port (l : Nat) (f : LinkDie → LinkDie) (k : Nat) : (s.updLink l f).port k = s.port k := rfl
@[simp] theorem updLink_obj (l : Nat) (f : LinkDie → LinkDie) (i j : Nat) : (s.updLink l f).obj i j = s.obj i j := rfl
@[simp] theorem updLink_cfg (l : Nat) (f : LinkDie → LinkDie) (i j : Nat) : (s.updLink l f).cfg i j = s.cfg i j := rfl

/-! ### updPort -/

@[simp] theorem updPort_pending (p : Nat) (f : Port → Port) : (s.updPort p f).pending = s.pending := rfl
@[simp] theorem updPort_free (p : Nat) (f : Port → Port) : (s.updPort p f).free = s.free := rfl
@[simp] theorem updPort_out (p : Nat) (f : Port → Port) : (s.updPort p f).out = s.out := rfl
@[simp] theorem updPort_mem (p : Nat) (f : Port → Port) : (s.updPort p f).mem = s.mem := rfl
@[simp] theorem updPort_poison (p : Nat) (f : Port → Port) : (s.updPort p f).poison = s.poison := rfl
@[simp] theorem updPort_upset (p : Nat) (f : Port → Port) : (s.updPort p f).upset = s.upset := rfl
@[simp] theorem updPort_marks (p : Nat) (f : Port → Port) : (s.updPort p f).marks = s.marks := rfl
@[simp] theorem updPort_watched (p : Nat) (f : Port → Port) : (s.updPort p f).watched = s.watched := rfl
@[simp] theorem updPort_clusters (p : Nat) (f : Port → Port) : (s.updPort p f).clusters = s.clusters := rfl
@[simp] theorem updPort_dies (p : Nat) (f : Port → Port) : (s.updPort p f).dies = s.dies := rfl
@[simp] theorem updPort_hubs (p : Nat) (f : Port → Port) : (s.updPort p f).hubs = s.hubs := rfl
@[simp] theorem updPort_links (p : Nat) (f : Port → Port) : (s.updPort p f).links = s.links := rfl
@[simp] theorem updPort_parts (p : Nat) (f : Port → Port) : (s.updPort p f).parts = s.parts := rfl
@[simp] theorem updPort_kept (p : Nat) (f : Port → Port) : (s.updPort p f).kept = s.kept := rfl
@[simp] theorem updPort_mailToAoc (p : Nat) (f : Port → Port) : (s.updPort p f).mailToAoc = s.mailToAoc := rfl
@[simp] theorem updPort_mailToHost (p : Nat) (f : Port → Port) : (s.updPort p f).mailToHost = s.mailToHost := rfl
@[simp] theorem updPort_mdpRx (p : Nat) (f : Port → Port) : (s.updPort p f).mdpRx = s.mdpRx := rfl
@[simp] theorem updPort_mac (p : Nat) (f : Port → Port) : (s.updPort p f).mac = s.mac := rfl
@[simp] theorem updPort_evt (p : Nat) (f : Port → Port) : (s.updPort p f).evt = s.evt := rfl
@[simp] theorem updPort_recov (p : Nat) (f : Port → Port) : (s.updPort p f).recov = s.recov := rfl
@[simp] theorem updPort_plan (p : Nat) (f : Port → Port) : (s.updPort p f).plan = s.plan := rfl
@[simp] theorem updPort_power (p : Nat) (f : Port → Port) : (s.updPort p f).power = s.power := rfl
@[simp] theorem updPort_boot (p : Nat) (f : Port → Port) : (s.updPort p f).boot = s.boot := rfl
@[simp] theorem updPort_dict (p : Nat) (f : Port → Port) : (s.updPort p f).dict = s.dict := rfl
@[simp] theorem updPort_sec (p : Nat) (f : Port → Port) : (s.updPort p f).sec = s.sec := rfl
@[simp] theorem updPort_plate (p : Nat) (f : Port → Port) : (s.updPort p f).plate = s.plate := rfl
@[simp] theorem updPort_cl (p : Nat) (f : Port → Port) (k : Nat) : (s.updPort p f).cl k = s.cl k := rfl
@[simp] theorem updPort_pt (p : Nat) (f : Port → Port) (k : Nat) : (s.updPort p f).pt k = s.pt k := rfl
@[simp] theorem updPort_die (p : Nat) (f : Port → Port) (k : Nat) : (s.updPort p f).die k = s.die k := rfl
@[simp] theorem updPort_hub (p : Nat) (f : Port → Port) (k : Nat) : (s.updPort p f).hub k = s.hub k := rfl
@[simp] theorem updPort_link (p : Nat) (f : Port → Port) (k : Nat) : (s.updPort p f).link k = s.link k := rfl
@[simp] theorem updPort_port_same (p : Nat) (f : Port → Port) : (s.updPort p f).port p = f (s.port p) := tab_look_put_same ..
theorem updPort_port_ne (p : Nat) (f : Port → Port) (k : Nat) (hk : k ≠ p) : (s.updPort p f).port k = s.port k := tab_look_put_ne _ _ _ _ hk
@[simp] theorem updPort_obj (p : Nat) (f : Port → Port) (i j : Nat) : (s.updPort p f).obj i j = s.obj i j := rfl
@[simp] theorem updPort_cfg (p : Nat) (f : Port → Port) (i j : Nat) : (s.updPort p f).cfg i j = s.cfg i j := rfl

/-! ### emit -/

@[simp] theorem emit_pending (o : Out) : (s.emit o).pending = s.pending := rfl
@[simp] theorem emit_free (o : Out) : (s.emit o).free = s.free := rfl
@[simp] theorem emit_mem (o : Out) : (s.emit o).mem = s.mem := rfl
@[simp] theorem emit_poison (o : Out) : (s.emit o).poison = s.poison := rfl
@[simp] theorem emit_upset (o : Out) : (s.emit o).upset = s.upset := rfl
@[simp] theorem emit_marks (o : Out) : (s.emit o).marks = s.marks := rfl
@[simp] theorem emit_watched (o : Out) : (s.emit o).watched = s.watched := rfl
@[simp] theorem emit_clusters (o : Out) : (s.emit o).clusters = s.clusters := rfl
@[simp] theorem emit_dies (o : Out) : (s.emit o).dies = s.dies := rfl
@[simp] theorem emit_hubs (o : Out) : (s.emit o).hubs = s.hubs := rfl
@[simp] theorem emit_links (o : Out) : (s.emit o).links = s.links := rfl
@[simp] theorem emit_ports (o : Out) : (s.emit o).ports = s.ports := rfl
@[simp] theorem emit_parts (o : Out) : (s.emit o).parts = s.parts := rfl
@[simp] theorem emit_kept (o : Out) : (s.emit o).kept = s.kept := rfl
@[simp] theorem emit_mailToAoc (o : Out) : (s.emit o).mailToAoc = s.mailToAoc := rfl
@[simp] theorem emit_mailToHost (o : Out) : (s.emit o).mailToHost = s.mailToHost := rfl
@[simp] theorem emit_mdpRx (o : Out) : (s.emit o).mdpRx = s.mdpRx := rfl
@[simp] theorem emit_mac (o : Out) : (s.emit o).mac = s.mac := rfl
@[simp] theorem emit_evt (o : Out) : (s.emit o).evt = s.evt := rfl
@[simp] theorem emit_recov (o : Out) : (s.emit o).recov = s.recov := rfl
@[simp] theorem emit_plan (o : Out) : (s.emit o).plan = s.plan := rfl
@[simp] theorem emit_power (o : Out) : (s.emit o).power = s.power := rfl
@[simp] theorem emit_boot (o : Out) : (s.emit o).boot = s.boot := rfl
@[simp] theorem emit_dict (o : Out) : (s.emit o).dict = s.dict := rfl
@[simp] theorem emit_sec (o : Out) : (s.emit o).sec = s.sec := rfl
@[simp] theorem emit_plate (o : Out) : (s.emit o).plate = s.plate := rfl
@[simp] theorem emit_cl (o : Out) (k : Nat) : (s.emit o).cl k = s.cl k := rfl
@[simp] theorem emit_pt (o : Out) (k : Nat) : (s.emit o).pt k = s.pt k := rfl
@[simp] theorem emit_die (o : Out) (k : Nat) : (s.emit o).die k = s.die k := rfl
@[simp] theorem emit_hub (o : Out) (k : Nat) : (s.emit o).hub k = s.hub k := rfl
@[simp] theorem emit_link (o : Out) (k : Nat) : (s.emit o).link k = s.link k := rfl
@[simp] theorem emit_port (o : Out) (k : Nat) : (s.emit o).port k = s.port k := rfl
@[simp] theorem emit_obj (o : Out) (i j : Nat) : (s.emit o).obj i j = s.obj i j := rfl
@[simp] theorem emit_cfg (o : Out) (i j : Nat) : (s.emit o).cfg i j = s.cfg i j := rfl

/-! ### drawn -/

@[simp] theorem drawn_pending : (s.drawn).pending = s.pending := rfl
@[simp] theorem drawn_out : (s.drawn).out = s.out := rfl
@[simp] theorem drawn_mem : (s.drawn).mem = s.mem := rfl
@[simp] theorem drawn_poison : (s.drawn).poison = s.poison := rfl
@[simp] theorem drawn_upset : (s.drawn).upset = s.upset := rfl
@[simp] theorem drawn_marks : (s.drawn).marks = s.marks := rfl
@[simp] theorem drawn_watched : (s.drawn).watched = s.watched := rfl
@[simp] theorem drawn_clusters : (s.drawn).clusters = s.clusters := rfl
@[simp] theorem drawn_dies : (s.drawn).dies = s.dies := rfl
@[simp] theorem drawn_hubs : (s.drawn).hubs = s.hubs := rfl
@[simp] theorem drawn_links : (s.drawn).links = s.links := rfl
@[simp] theorem drawn_ports : (s.drawn).ports = s.ports := rfl
@[simp] theorem drawn_parts : (s.drawn).parts = s.parts := rfl
@[simp] theorem drawn_kept : (s.drawn).kept = s.kept := rfl
@[simp] theorem drawn_mailToAoc : (s.drawn).mailToAoc = s.mailToAoc := rfl
@[simp] theorem drawn_mailToHost : (s.drawn).mailToHost = s.mailToHost := rfl
@[simp] theorem drawn_mdpRx : (s.drawn).mdpRx = s.mdpRx := rfl
@[simp] theorem drawn_mac : (s.drawn).mac = s.mac := rfl
@[simp] theorem drawn_evt : (s.drawn).evt = s.evt := rfl
@[simp] theorem drawn_recov : (s.drawn).recov = s.recov := rfl
@[simp] theorem drawn_plan : (s.drawn).plan = s.plan := rfl
@[simp] theorem drawn_power : (s.drawn).power = s.power := rfl
@[simp] theorem drawn_boot : (s.drawn).boot = s.boot := rfl
@[simp] theorem drawn_dict : (s.drawn).dict = s.dict := rfl
@[simp] theorem drawn_sec : (s.drawn).sec = s.sec := rfl
@[simp] theorem drawn_plate : (s.drawn).plate = s.plate := rfl
@[simp] theorem drawn_cl (k : Nat) : (s.drawn).cl k = s.cl k := rfl
@[simp] theorem drawn_pt (k : Nat) : (s.drawn).pt k = s.pt k := rfl
@[simp] theorem drawn_die (k : Nat) : (s.drawn).die k = s.die k := rfl
@[simp] theorem drawn_hub (k : Nat) : (s.drawn).hub k = s.hub k := rfl
@[simp] theorem drawn_link (k : Nat) : (s.drawn).link k = s.link k := rfl
@[simp] theorem drawn_port (k : Nat) : (s.drawn).port k = s.port k := rfl
@[simp] theorem drawn_obj (i j : Nat) : (s.drawn).obj i j = s.obj i j := rfl
@[simp] theorem drawn_cfg (i j : Nat) : (s.drawn).cfg i j = s.cfg i j := rfl

/-! ### setObj -/

@[simp] theorem setObj_pending (idx sub v : Nat) : (s.setObj idx sub v).pending = s.pending := rfl
@[simp] theorem setObj_free (idx sub v : Nat) : (s.setObj idx sub v).free = s.free := rfl
@[simp] theorem setObj_out (idx sub v : Nat) : (s.setObj idx sub v).out = s.out := rfl
@[simp] theorem setObj_mem (idx sub v : Nat) : (s.setObj idx sub v).mem = s.mem := rfl
@[simp] theorem setObj_poison (idx sub v : Nat) : (s.setObj idx sub v).poison = s.poison := rfl
@[simp] theorem setObj_upset (idx sub v : Nat) : (s.setObj idx sub v).upset = s.upset := rfl
@[simp] theorem setObj_marks (idx sub v : Nat) : (s.setObj idx sub v).marks = s.marks := rfl
@[simp] theorem setObj_watched (idx sub v : Nat) : (s.setObj idx sub v).watched = s.watched := rfl
@[simp] theorem setObj_clusters (idx sub v : Nat) : (s.setObj idx sub v).clusters = s.clusters := rfl
@[simp] theorem setObj_dies (idx sub v : Nat) : (s.setObj idx sub v).dies = s.dies := rfl
@[simp] theorem setObj_hubs (idx sub v : Nat) : (s.setObj idx sub v).hubs = s.hubs := rfl
@[simp] theorem setObj_links (idx sub v : Nat) : (s.setObj idx sub v).links = s.links := rfl
@[simp] theorem setObj_ports (idx sub v : Nat) : (s.setObj idx sub v).ports = s.ports := rfl
@[simp] theorem setObj_parts (idx sub v : Nat) : (s.setObj idx sub v).parts = s.parts := rfl
@[simp] theorem setObj_kept (idx sub v : Nat) : (s.setObj idx sub v).kept = s.kept := rfl
@[simp] theorem setObj_mailToAoc (idx sub v : Nat) : (s.setObj idx sub v).mailToAoc = s.mailToAoc := rfl
@[simp] theorem setObj_mailToHost (idx sub v : Nat) : (s.setObj idx sub v).mailToHost = s.mailToHost := rfl
@[simp] theorem setObj_mdpRx (idx sub v : Nat) : (s.setObj idx sub v).mdpRx = s.mdpRx := rfl
@[simp] theorem setObj_mac (idx sub v : Nat) : (s.setObj idx sub v).mac = s.mac := rfl
@[simp] theorem setObj_evt (idx sub v : Nat) : (s.setObj idx sub v).evt = s.evt := rfl
@[simp] theorem setObj_recov (idx sub v : Nat) : (s.setObj idx sub v).recov = s.recov := rfl
@[simp] theorem setObj_plan (idx sub v : Nat) : (s.setObj idx sub v).plan = s.plan := rfl
@[simp] theorem setObj_power (idx sub v : Nat) : (s.setObj idx sub v).power = s.power := rfl
@[simp] theorem setObj_boot (idx sub v : Nat) : (s.setObj idx sub v).boot = s.boot := rfl
@[simp] theorem setObj_sec (idx sub v : Nat) : (s.setObj idx sub v).sec = s.sec := rfl
@[simp] theorem setObj_plate (idx sub v : Nat) : (s.setObj idx sub v).plate = s.plate := rfl
@[simp] theorem setObj_cl (idx sub v : Nat) (k : Nat) : (s.setObj idx sub v).cl k = s.cl k := rfl
@[simp] theorem setObj_pt (idx sub v : Nat) (k : Nat) : (s.setObj idx sub v).pt k = s.pt k := rfl
@[simp] theorem setObj_die (idx sub v : Nat) (k : Nat) : (s.setObj idx sub v).die k = s.die k := rfl
@[simp] theorem setObj_hub (idx sub v : Nat) (k : Nat) : (s.setObj idx sub v).hub k = s.hub k := rfl
@[simp] theorem setObj_link (idx sub v : Nat) (k : Nat) : (s.setObj idx sub v).link k = s.link k := rfl
@[simp] theorem setObj_port (idx sub v : Nat) (k : Nat) : (s.setObj idx sub v).port k = s.port k := rfl
@[simp] theorem setObj_cfg (idx sub v : Nat) (i j : Nat) : (s.setObj idx sub v).cfg i j = s.cfg i j := rfl

/-! ### bump -/

@[simp] theorem bump_pending (idx sub n : Nat) : (s.bump idx sub n).pending = s.pending := rfl
@[simp] theorem bump_free (idx sub n : Nat) : (s.bump idx sub n).free = s.free := rfl
@[simp] theorem bump_out (idx sub n : Nat) : (s.bump idx sub n).out = s.out := rfl
@[simp] theorem bump_mem (idx sub n : Nat) : (s.bump idx sub n).mem = s.mem := rfl
@[simp] theorem bump_poison (idx sub n : Nat) : (s.bump idx sub n).poison = s.poison := rfl
@[simp] theorem bump_upset (idx sub n : Nat) : (s.bump idx sub n).upset = s.upset := rfl
@[simp] theorem bump_marks (idx sub n : Nat) : (s.bump idx sub n).marks = s.marks := rfl
@[simp] theorem bump_watched (idx sub n : Nat) : (s.bump idx sub n).watched = s.watched := rfl
@[simp] theorem bump_clusters (idx sub n : Nat) : (s.bump idx sub n).clusters = s.clusters := rfl
@[simp] theorem bump_dies (idx sub n : Nat) : (s.bump idx sub n).dies = s.dies := rfl
@[simp] theorem bump_hubs (idx sub n : Nat) : (s.bump idx sub n).hubs = s.hubs := rfl
@[simp] theorem bump_links (idx sub n : Nat) : (s.bump idx sub n).links = s.links := rfl
@[simp] theorem bump_ports (idx sub n : Nat) : (s.bump idx sub n).ports = s.ports := rfl
@[simp] theorem bump_parts (idx sub n : Nat) : (s.bump idx sub n).parts = s.parts := rfl
@[simp] theorem bump_kept (idx sub n : Nat) : (s.bump idx sub n).kept = s.kept := rfl
@[simp] theorem bump_mailToAoc (idx sub n : Nat) : (s.bump idx sub n).mailToAoc = s.mailToAoc := rfl
@[simp] theorem bump_mailToHost (idx sub n : Nat) : (s.bump idx sub n).mailToHost = s.mailToHost := rfl
@[simp] theorem bump_mdpRx (idx sub n : Nat) : (s.bump idx sub n).mdpRx = s.mdpRx := rfl
@[simp] theorem bump_mac (idx sub n : Nat) : (s.bump idx sub n).mac = s.mac := rfl
@[simp] theorem bump_evt (idx sub n : Nat) : (s.bump idx sub n).evt = s.evt := rfl
@[simp] theorem bump_recov (idx sub n : Nat) : (s.bump idx sub n).recov = s.recov := rfl
@[simp] theorem bump_plan (idx sub n : Nat) : (s.bump idx sub n).plan = s.plan := rfl
@[simp] theorem bump_power (idx sub n : Nat) : (s.bump idx sub n).power = s.power := rfl
@[simp] theorem bump_boot (idx sub n : Nat) : (s.bump idx sub n).boot = s.boot := rfl
@[simp] theorem bump_sec (idx sub n : Nat) : (s.bump idx sub n).sec = s.sec := rfl
@[simp] theorem bump_plate (idx sub n : Nat) : (s.bump idx sub n).plate = s.plate := rfl
@[simp] theorem bump_cl (idx sub n : Nat) (k : Nat) : (s.bump idx sub n).cl k = s.cl k := rfl
@[simp] theorem bump_pt (idx sub n : Nat) (k : Nat) : (s.bump idx sub n).pt k = s.pt k := rfl
@[simp] theorem bump_die (idx sub n : Nat) (k : Nat) : (s.bump idx sub n).die k = s.die k := rfl
@[simp] theorem bump_hub (idx sub n : Nat) (k : Nat) : (s.bump idx sub n).hub k = s.hub k := rfl
@[simp] theorem bump_link (idx sub n : Nat) (k : Nat) : (s.bump idx sub n).link k = s.link k := rfl
@[simp] theorem bump_port (idx sub n : Nat) (k : Nat) : (s.bump idx sub n).port k = s.port k := rfl
@[simp] theorem bump_cfg (idx sub n : Nat) (i j : Nat) : (s.bump idx sub n).cfg i j = s.cfg i j := rfl

@[simp] theorem emit_out (o : Out) : (s.emit o).out = s.out ++ [o] := rfl

@[simp] theorem drawn_free : s.drawn.free = s.free + 1 := rfl

/-- An object just set reads as its value, in 64 bits. -/
@[simp] theorem setObj_obj_same (idx sub v : Nat) : (s.setObj idx sub v).obj idx sub = v % 2 ^ 64 := by
  simp [State.obj, State.setObj]

theorem setObj_obj_ne (idx sub v i j : Nat) (h : objKey i j ≠ objKey idx sub) : (s.setObj idx sub v).obj i j = s.obj i j := by
  simp [State.obj, State.setObj, tab_look_put_ne _ _ _ _ h]

/-- A counter just advanced. -/
theorem bump_obj_same (idx sub n : Nat) : (s.bump idx sub n).obj idx sub = (s.obj idx sub + n) % 2 ^ 64 := by
  simp [State.bump]

end Sys2Proof.Machine
end

