-- ==== Sys2Proof/Laws/Update.lean ====
section
/-! SUPPORT. Updates of one piece of the state composed and observed: what two updates of the same piece come to, and what a register, counter,
window, siding or entry reads as after the update of its home. -/

namespace Sys2Proof.Machine

/-- Of two values put at one key the later stands. -/
theorem tab_put_put [DecidableEq α] (t : Tab α) (d : α) (k : Nat) (a b : α) : Tab.put (Tab.put t d k a) d k b = Tab.put t d k b := by
  have h1 : (t.filter fun e => decide (e.1 < k)).filter (fun e => decide (e.1 < k)) = t.filter fun e => decide (e.1 < k) := by
    simp [List.filter_filter]
  have h2 : (t.filter fun e => decide (k < e.1)).filter (fun e => decide (e.1 < k)) = [] := by
    rw [List.filter_filter, List.filter_eq_nil_iff]; intro e _; simp; omega
  have h3 : (t.filter fun e => decide (e.1 < k)).filter (fun e => decide (k < e.1)) = [] := by
    rw [List.filter_filter, List.filter_eq_nil_iff]; intro e _; simp; omega
  have h4 : (t.filter fun e => decide (k < e.1)).filter (fun e => decide (k < e.1)) = t.filter fun e => decide (k < e.1) := by
    simp [List.filter_filter]
  unfold Tab.put
  by_cases ha : a = d <;> simp [ha, List.filter_append, h1, h2, h3, h4]

section
variable (s : State)

@[simp] theorem updCl_updCl (c : Nat) (f g : Cluster → Cluster) : (s.updCl c f).updCl c g = s.updCl c fun x => g (f x) := by
  simp [State.updCl, State.cl, tab_put_put]

@[simp] theorem updPt_updPt (p : Nat) (f g : Part → Part) : (s.updPt p f).updPt p g = s.updPt p fun x => g (f x) := by
  simp [State.updPt, State.pt, tab_put_put]

@[simp] theorem updDie_updDie (d : Nat) (f g : Die → Die) : (s.updDie d f).updDie d g = s.updDie d fun x => g (f x) := by
  simp [State.updDie, State.die, tab_put_put]

@[simp] theorem updPort_updPort (p : Nat) (f g : Port → Port) : (s.updPort p f).updPort p g = s.updPort p fun x => g (f x) := by
  simp [State.updPort, State.port, tab_put_put]

/-- An update depends on its function only at the piece it finds. -/
theorem updCl_congr {c : Nat} {f g : Cluster → Cluster} (h : f (s.cl c) = g (s.cl c)) : s.updCl c f = s.updCl c g := by
  simp [State.updCl, h]

/-- Any update of a cluster changes only that cluster. -/
theorem onlyCluster_updCl (c : Nat) (f : Cluster → Cluster) : OnlyCluster s (s.updCl c f) c := ⟨f (s.cl c), by simp [State.updCl]⟩

/-- A register after a write: s31 takes nothing (R57). -/
theorem reg_setReg (c : Nat) (rd r : Reg) (v : Word) :
    (s.setReg c rd v).reg c r = if r = rd ∧ rd.toNat ≠ 31 then v else s.reg c r := by
  unfold State.setReg State.reg State.updCore
  by_cases h31 : rd.toNat = 31
  · simp [h31]
  · by_cases hr : r = rd
    · subst hr; simp [h31]
    · have : r.toNat ≠ rd.toNat := fun h => hr (BitVec.eq_of_toNat_eq h)
      by_cases h : r.toNat = 31 <;> simp [h31, hr, h, tab_look_put_ne, this]

@[simp] theorem reg_pcStep (c : Nat) (n : Word) (r : Reg) : (s.pcStep c n).reg c r = s.reg c r := by simp [State.pcStep, State.updCore, State.reg]

/-- A live core whose words are there runs what it is given on the state that the fetch leaves. -/
theorem onCore_live {s u : State} {c n : Nat} (h : s.coreLive c = true) (hf : s.fetch c n = (u, true)) (f : State → State) : s.onCore c f n = .next (f u) := by
  simp [State.onCore, h, hf]

/-- A register written and the pc moved on is one update of the core. -/
theorem alu_result (c : Nat) (rd : Reg) (v n : Word) : Result s ((s.setReg c rd v).pcStep c n) c rd v n := by
  refine ⟨?_, ?_, ?_, ?_⟩
  · unfold State.setReg State.pcStep State.updCore OnlyCore
    split
    · exact ⟨_, updCl_congr _ rfl⟩
    · exact ⟨_, by rw [updCl_updCl]; exact updCl_congr _ rfl⟩
  · unfold State.setReg State.pcStep State.updCore; split <;> simp
  · unfold State.setReg State.pcStep State.updCore; split <;> simp
  · intro r; rw [reg_pcStep, reg_setReg]

end

end Sys2Proof.Machine
end

