-- ==== Sys2Proof/Laws/Frames.lean ====
section
/-! SUPPORT. What the shared operations of reads, writes and watches leave as it was: one relation, `Calm`, that each of them keeps, and what each does to memory. -/

namespace Sys2Proof.Machine

/-- A cluster without what reads, writes and watches change in it: the coalescing buffer, the row bits, the rows with errors, the
watches, the cached translations, the promoted requesters, the rows of the last poisoned read. -/
def Cluster.seen (cl : Cluster) : Cluster := { cl with coal := [], wr := 0, fl := 0, badRows := [], watches := [], tlb := [], promoted := [], hitRows := [] }

/-- From `s` to `t` nothing changes but memory with its side tables, hub caches and filters, what `Cluster.seen` and `Part.seen` leave out,
counters of objects, what has been sent, notices that wait for an acknowledgement, and the count of free values. -/
structure Calm (s t : State) : Prop where
  pending : t.pending = s.pending
  dies : t.dies = s.dies
  links : t.links = s.links
  ports : t.ports = s.ports
  kept : s.kept <+: t.kept
  mailToAoc : t.mailToAoc = s.mailToAoc
  mailToHost : t.mailToHost = s.mailToHost
  mdpRx : t.mdpRx = s.mdpRx
  mac : t.mac = s.mac
  evt : t.evt = s.evt
  recov : t.recov = s.recov
  plan : t.plan = s.plan
  power : t.power = s.power
  boot : { t.boot with memFault := true } = { s.boot with memFault := true }
  sec : t.sec = s.sec
  plate : t.plate = s.plate
  dict : { t.dict with vals := [] } = { s.dict with vals := [] }
  cl : ∀ c, (t.cl c).seen = (s.cl c).seen
  pt : ∀ p, (t.pt p).seen = (s.pt p).seen

theorem calm_refl (s : State) : Calm s s := by constructor <;> first | exact List.prefix_rfl | rfl | intro; rfl

theorem calm_trans {r s t : State} (h : Calm r s) (k : Calm s t) : Calm r t where
  pending := k.pending.trans h.pending
  dies := k.dies.trans h.dies
  links := k.links.trans h.links
  ports := k.ports.trans h.ports
  kept := h.kept.trans k.kept
  mailToAoc := k.mailToAoc.trans h.mailToAoc
  mailToHost := k.mailToHost.trans h.mailToHost
  mdpRx := k.mdpRx.trans h.mdpRx
  mac := k.mac.trans h.mac
  evt := k.evt.trans h.evt
  recov := k.recov.trans h.recov
  plan := k.plan.trans h.plan
  power := k.power.trans h.power
  boot := k.boot.trans h.boot
  sec := k.sec.trans h.sec
  plate := k.plate.trans h.plate
  dict := k.dict.trans h.dict
  cl := fun c => (k.cl c).trans (h.cl c)
  pt := fun p => (k.pt p).trans (h.pt p)

/-- A loop of calm steps is calm. -/
theorem calm_foldl {α : Type} {f : State → α → State} (hf : ∀ s x, Calm s (f s x)) (l : List α) : ∀ s, Calm s (l.foldl f s) := by
  induction l with
  | nil => exact calm_refl
  | cons x l ih => intro s; exact calm_trans (hf s x) (ih _)

/-- What a loop's every step leaves, the loop leaves. -/
theorem foldl_same {α β : Type} {f : State → α → State} {P : State → β} (hf : ∀ s x, P (f s x) = P s) (l : List α) : ∀ s, P (l.foldl f s) = P s := by
  induction l with
  | nil => intro s; rfl
  | cons x l ih => intro s; exact (ih _).trans (hf s x)

/-- Any change of the side tables, of hubs, of memory, of the log and of the free count is calm. -/
theorem calm_mk (s : State) (mem : Memory) (poison : Tab Bool) (upset marks : Tab Nat) (watched : Tab Bool) (hubs : Tab Hub) (out : List Out) (free : Nat) :
    Calm s { s with mem := mem, poison := poison, upset := upset, marks := marks, watched := watched, hubs := hubs, out := out, free := free } := by
  constructor <;> first | exact List.prefix_rfl | rfl | intro; rfl

/-- The same with the memory-fault flag set. -/
theorem calm_memFault (s : State) (poison : Tab Bool) (upset : Tab Nat) :
    Calm s { s with poison := poison, upset := upset, boot := { s.boot with memFault := true } } := by
  constructor <;> first | exact List.prefix_rfl | rfl | intro; rfl

/-- An update of a cluster that `Cluster.seen` does not show is calm. -/
theorem calm_updCl (s : State) (c : Nat) (f : Cluster → Cluster) (h : (f (s.cl c)).seen = (s.cl c).seen) : Calm s (s.updCl c f) := by
  constructor
  case cl =>
    intro k
    by_cases e : k = c
    · subst e; simpa using h
    · rw [updCl_cl_ne _ _ _ _ e]
  case kept => exact List.prefix_rfl
  all_goals first | rfl | intro; rfl

/-- What is counted for a run changes nothing that `Part.seen` shows. -/
theorem calm_tally (s : State) (p q : Nat) (bs : List (Nat × Nat × Nat)) : Calm s (s.tally p q bs) := by
  unfold State.tally
  split
  · exact calm_refl s
  constructor
  case pt =>
    intro k
    by_cases e : k = p
    · subst e
      simp only [State.updEntry, updPt_pt_same, Part.seen, List.map_map]
      congr 1
      refine List.map_congr_left fun e _ => ?_
      simp only [Function.comp]
      split
      · split <;> rfl
      · rfl
    · unfold State.updEntry; rw [updPt_pt_ne _ _ _ _ e]
  case kept => exact List.prefix_rfl
  all_goals first | rfl | intro; rfl

@[simp] theorem tally_mem (s : State) (p q : Nat) (bs : List (Nat × Nat × Nat)) : (s.tally p q bs).mem = s.mem := by
  unfold State.tally; split <;> rfl

@[simp] theorem tally_out (s : State) (p q : Nat) (bs : List (Nat × Nat × Nat)) : (s.tally p q bs).out = s.out := by
  unfold State.tally; split <;> rfl

theorem calm_emit (s : State) (o : Out) : Calm s (s.emit o) := by constructor <;> first | exact List.prefix_rfl | rfl | intro; rfl

theorem calm_bump (s : State) (i j n : Nat) : Calm s (s.bump i j n) := by constructor <;> first | exact List.prefix_rfl | rfl | intro; rfl

theorem calm_setObj (s : State) (i j n : Nat) : Calm s (s.setObj i j n) := by constructor <;> first | exact List.prefix_rfl | rfl | intro; rfl

theorem calm_drawn (s : State) : Calm s s.drawn := by constructor <;> first | exact List.prefix_rfl | rfl | intro; rfl

theorem calm_updHub (s : State) (k : Nat) (f : Hub → Hub) : Calm s (s.updHub k f) := by constructor <;> first | exact List.prefix_rfl | rfl | intro; rfl

/-! ### Hubs and notices -/

theorem calm_lineAccess (s : State) (pa : Nat) (wr whole : Bool) (hc : Nat) : Calm s (s.lineAccess pa wr whole hc) := by
  unfold State.lineAccess
  extract_lets h cxl k drained hc key r t
  have ht : Calm s t := calm_updHub _ _ _
  clear_value t
  repeat' (first | exact ht | exact calm_trans ht (calm_bump _ _ _ _) | split)

@[simp] theorem lineAccess_mem (s : State) (pa : Nat) (wr whole : Bool) (hc : Nat) : (s.lineAccess pa wr whole hc).mem = s.mem := by
  unfold State.lineAccess; dsimp only; repeat' (first | rfl | split)

@[simp] theorem lineAccess_out (s : State) (pa : Nat) (wr whole : Bool) (hc : Nat) : (s.lineAccess pa wr whole hc).out = s.out := by
  unfold State.lineAccess; dsimp only; repeat' (first | rfl | split)

theorem calm_hubTouch (s : State) (pa n : Nat) (wr : Bool) (hc : Nat) : Calm s (s.hubTouch pa n wr hc) := by
  unfold State.hubTouch
  repeat' (first | exact calm_refl s | exact calm_foldl (fun s x => calm_lineAccess _ _ _ _ _) _ _ | split)

@[simp] theorem hubTouch_mem (s : State) (pa n : Nat) (wr : Bool) (hc : Nat) : (s.hubTouch pa n wr hc).mem = s.mem := by
  unfold State.hubTouch
  repeat' (first | rfl | exact foldl_same (P := State.mem) (fun s x => lineAccess_mem _ _ _ _ _) _ _ | split)

@[simp] theorem hubTouch_out (s : State) (pa n : Nat) (wr : Bool) (hc : Nat) : (s.hubTouch pa n wr hc).out = s.out := by
  unfold State.hubTouch
  repeat' (first | rfl | exact foldl_same (P := State.out) (fun s x => lineAccess_out _ _ _ _ _) _ _ | split)

/-- A notice goes out and is kept until it is acknowledged; nothing else changes. -/
theorem calm_sendNotice (s : State) (h c r : Nat) (lost : Bool) : Calm s (s.sendNotice h c r lost) := by
  constructor <;> first | exact List.prefix_append _ _ | rfl | intro; rfl

theorem calm_noticeRegion (s : State) (r : Nat) : Calm s (s.noticeRegion r).1 := by
  unfold State.noticeRegion
  dsimp only
  split
  · exact calm_refl s
  · exact calm_trans (calm_updHub s _ _) (calm_foldl (fun s x => calm_sendNotice _ _ _ _ _) _ _)

theorem noticeRegion_mem (s : State) (r : Nat) : (s.noticeRegion r).1.mem = s.mem := by
  unfold State.noticeRegion
  dsimp only
  split
  · rfl
  · exact (foldl_same (P := State.mem) (by intros; rfl) _ _).trans rfl

theorem calm_noticeWrite (s : State) (pa n : Nat) : Calm s (s.noticeWrite pa n) := by
  unfold State.noticeWrite
  split
  · exact calm_foldl (fun s x => calm_noticeRegion _ _) _ _
  · exact calm_foldl (fun s x => calm_noticeRegion _ _) _ _
  · exact calm_refl s

/-! ### Latent errors -/

theorem calm_resolveWord (s : State) (w : Nat) : Calm s (s.resolveWord w) := by
  unfold State.resolveWord
  split
  · exact calm_refl s
  · exact calm_trans (calm_mk s ..) (calm_bump _ _ _ _)
  · split
    · exact calm_trans (calm_memFault s s.poison _) (calm_bump _ _ _ _)
    · exact calm_trans (calm_memFault s _ _) (calm_bump _ _ _ _)
  · split
    · exact calm_trans (calm_mk s ..) (calm_bump _ _ _ _)
    · split
      · refine calm_trans (calm_trans (calm_trans (calm_trans (calm_mk s ..) (calm_bump _ _ _ _)) (calm_setObj _ _ _ _)) (calm_setObj _ _ _ _)) (calm_updCl _ _ _ ?_)
        split <;> rfl
      · exact calm_mk s ..
    · exact calm_refl s

@[simp] theorem resolveWord_mem (s : State) (w : Nat) : (s.resolveWord w).mem = s.mem := by
  unfold State.resolveWord; repeat' (first | rfl | split)

@[simp] theorem resolveWord_out (s : State) (w : Nat) : (s.resolveWord w).out = s.out := by
  unfold State.resolveWord; repeat' (first | rfl | split)

/-! ### The coalescing buffer -/

theorem calm_coalOut (s : State) (c : Nat) (g : Coal → Bool) : Calm s (s.coalOut c g) := by
  unfold State.coalOut
  dsimp only
  refine calm_trans (calm_foldl (fun s w => ?_) _ _) (calm_updCl _ _ _ rfl)
  exact calm_trans (calm_resolveWord s w) (calm_mk _ ..)

@[simp] theorem coalOut_mem (s : State) (c : Nat) (g : Coal → Bool) : (s.coalOut c g).mem = s.mem := by
  unfold State.coalOut
  dsimp only
  rw [updCl_mem]
  refine foldl_same (P := State.mem) (fun s w => ?_) _ _
  exact resolveWord_mem s w

@[simp] theorem coalOut_out (s : State) (c : Nat) (g : Coal → Bool) : (s.coalOut c g).out = s.out := by
  unfold State.coalOut
  dsimp only
  rw [updCl_out]
  refine foldl_same (P := State.out) (fun s w => ?_) _ _
  exact resolveWord_out s w

theorem calm_coalMerge (s : State) (c off : Nat) (bs : List Byte) (who : Nat) : Calm s (s.coalMerge c off bs who) := by
  unfold State.coalMerge
  dsimp only
  split
  · exact calm_trans (calm_mk s s.mem _ _ s.marks s.watched s.hubs s.out s.free) (calm_updCl _ _ _ rfl)
  · refine calm_trans ?_ (calm_updCl _ _ _ rfl)
    split
    · split
      · exact calm_coalOut _ _ _
      · exact calm_refl s
    · exact calm_refl s

theorem calm_coalStore (s : State) (c off : Nat) (bs : List Byte) (who : Nat) : Calm s (s.coalStore c off bs who) := by
  unfold State.coalStore
  exact calm_foldl (fun s p => calm_coalMerge _ _ _ _ _) _ _

theorem calm_coalAhead (s : State) (pa n : Nat) : Calm s (s.coalAhead pa n) := by
  unfold State.coalAhead
  split
  · dsimp only
    split
    · exact calm_coalOut _ _ _
    · exact calm_refl s
  · exact calm_refl s

/-! ### Watches -/

theorem calm_sweepWatches (s : State) (c : Nat) : Calm s (s.sweepWatches c) :=
  calm_trans (calm_updCl s _ _ rfl) (calm_foldl (by intros; exact calm_updHub ..) _ _)

@[simp] theorem sweepWatches_mem (s : State) (c : Nat) : (s.sweepWatches c).mem = s.mem :=
  (foldl_same (P := State.mem) (by intros; rfl) _ _).trans rfl

@[simp] theorem sweepWatches_out (s : State) (c : Nat) : (s.sweepWatches c).out = s.out :=
  (foldl_same (P := State.out) (by intros; rfl) _ _).trans rfl

/-! ### Stores -/

theorem calm_storeSide (s : State) (w : Wr) : Calm s (s.storeSide w) := by
  refine calm_trans (calm_coalAhead s w.pa w.bytes.length) ?_
  unfold State.storeSide
  generalize s.coalAhead w.pa w.bytes.length = s
  dsimp only
  split
  · split
    · exact calm_mk s ..
    · exact calm_trans (calm_trans (calm_mk s s.mem _ _ _ _ s.hubs s.out s.free) (calm_coalStore _ _ _ _ _)) (calm_updCl _ _ _ rfl)
  · exact calm_mk s ..

@[simp] theorem storeRaw_mem (s : State) (w : Wr) (hc : Nat) : (s.storeRaw w hc).mem = s.mem.writeN w.pa w.bytes := rfl

theorem calm_storeRaw (s : State) (w : Wr) (hc : Nat) : Calm s (s.storeRaw w hc) := by
  unfold State.storeRaw
  exact calm_trans (calm_trans (calm_trans (calm_storeSide s w) (calm_hubTouch _ _ _ _ _)) (calm_noticeWrite _ _ _)) (calm_mk _ ..)

/-- A store changes memory at its bytes alone. -/
@[simp] theorem store_mem (s : State) (w : Wr) (hc : Nat) : (s.store w hc).mem = s.mem.writeN w.pa w.bytes := by
  unfold State.store
  repeat' (first | rfl | (rw [sweepWatches_mem]; rfl) | split)

theorem calm_store (s : State) (w : Wr) (hc : Nat) : Calm s (s.store w hc) := by
  unfold State.store
  repeat' (first | exact calm_storeRaw s w hc | exact calm_trans (calm_storeRaw s w hc) (calm_sweepWatches _ _) | split)

theorem calm_storeAll (s : State) (ws : List Wr) : Calm s (s.storeAll ws) := calm_foldl (by intros; exact calm_store ..) ws s

theorem calm_scramble (s : State) (pa n : Nat) : Calm s (s.scramble pa n) := calm_mk s ..

@[simp] theorem scramble_mem (s : State) (pa n : Nat) :
    (s.scramble pa n).mem = s.mem.writeN pa ((List.range n).map fun i => Config.freeByte s.free (pa + i)) := rfl

/-- Undefined bytes lie in their range alone. -/
theorem scramble_byte (s : State) (pa n a : Nat) (h : ¬(pa ≤ a ∧ a < pa + n)) : (s.scramble pa n).mem.byte a = s.mem.byte a := by
  simp only [scramble_mem, memory_byte_writeN, List.length_map, List.length_range, if_neg h]

/-! ### Reads -/

theorem calm_touch (s : State) (pa n hc : Nat) : Calm s (s.touch pa n hc) := by
  have hb := fun l s => calm_foldl (f := State.resolveWord) calm_resolveWord l s
  unfold State.touch
  split
  · exact calm_refl s
  · dsimp only
    split
    · refine calm_trans ?_ (hb _ _)
      split
      · exact calm_coalOut _ _ _
      · exact calm_refl s
    · refine calm_trans ?_ (calm_hubTouch _ _ _ _ _)
      have hk : ∀ t : State, Calm s t → Calm s (if t.rebuiltIn pa n = 0 then t else t.bump 0x5010 3 (t.rebuiltIn pa n)) := by
        intro t k; split
        · exact k
        · exact calm_trans k (calm_bump _ _ _ _)
      exact hk _ (hb _ _)

@[simp] theorem touch_mem (s : State) (pa n hc : Nat) : (s.touch pa n hc).mem = s.mem := by
  have hb := fun l s => foldl_same (P := State.mem) (f := State.resolveWord) resolveWord_mem l s
  unfold State.touch
  split
  · rfl
  · dsimp only
    split
    · rw [hb]; split <;> simp
    · rw [hubTouch_mem, apply_ite State.mem, bump_mem, ite_self]; exact hb _ _

@[simp] theorem touch_out (s : State) (pa n hc : Nat) : (s.touch pa n hc).out = s.out := by
  have hb := fun l s => foldl_same (P := State.out) (f := State.resolveWord) resolveWord_out l s
  unfold State.touch
  split
  · rfl
  · dsimp only
    split
    · rw [hb]; split <;> simp
    · rw [hubTouch_out, apply_ite State.out, bump_out, ite_self]; exact hb _ _

/-! ### Walks -/

theorem calm_walked (s : State) (w : Walk) : Calm s (s.walked w) := by
  have hb := fun l s => calm_foldl (f := fun (s : State) a => s.touch a 8) (fun s a => calm_touch _ _ _ _) l s
  unfold State.walked
  dsimp only
  split
  · exact calm_trans (calm_trans (hb _ _) (calm_bump _ _ _ _)) (calm_updCl _ _ _ rfl)
  · exact calm_trans (hb _ _) (calm_bump _ _ _ _)

@[simp] theorem walked_mem (s : State) (w : Walk) : (s.walked w).mem = s.mem := by
  have hb := fun l s => foldl_same (P := State.mem) (f := fun (s : State) a => s.touch a 8) (fun s a => touch_mem _ _ _ _) l s
  unfold State.walked
  dsimp only
  split
  · rw [updCl_mem, bump_mem]; exact hb _ _
  · rw [bump_mem]; exact hb _ _

@[simp] theorem walked_out (s : State) (w : Walk) : (s.walked w).out = s.out := by
  have hb := fun l s => foldl_same (P := State.out) (f := fun (s : State) a => s.touch a 8) (fun s a => touch_out _ _ _ _) l s
  unfold State.walked
  dsimp only
  split
  · rw [updCl_out, bump_out]; exact hb _ _
  · rw [bump_out]; exact hb _ _

/-! ### Consumption -/

theorem calm_unwatch (s : State) (pa n : Nat) : Calm s (s.unwatch pa n) := by
  unfold State.unwatch
  split
  · split
    · exact calm_refl s
    · exact calm_trans (calm_mk s ..) (calm_sweepWatches _ _)
  · exact calm_refl s

@[simp] theorem unwatch_mem (s : State) (pa n : Nat) : (s.unwatch pa n).mem = s.mem := by
  unfold State.unwatch
  split
  · split
    · rfl
    · rw [sweepWatches_mem]
  · rfl

@[simp] theorem unwatch_out (s : State) (pa n : Nat) : (s.unwatch pa n).out = s.out := by
  unfold State.unwatch
  split
  · split
    · rfl
    · rw [sweepWatches_out]
  · rfl

theorem calm_endWatches (s : State) (c : Nat) : Calm s (s.endWatches c) := by
  unfold State.endWatches
  split
  · exact calm_refl s
  · exact calm_trans (calm_mk s ..) (calm_sweepWatches _ _)

@[simp] theorem endWatches_mem (s : State) (c : Nat) : (s.endWatches c).mem = s.mem := by
  unfold State.endWatches
  split
  · rfl
  · rw [sweepWatches_mem]

/-! ### A job's effect -/

theorem calm_markUnits (s : State) (pa n m : Nat) : Calm s (s.markUnits pa n m) := by
  unfold State.markUnits
  split
  · exact calm_mk s ..
  · exact calm_refl s

@[simp] theorem markUnits_mem (s : State) (pa n m : Nat) : (s.markUnits pa n m).mem = s.mem := by
  unfold State.markUnits; split <;> rfl

theorem calm_granted (s : State) (c req : Nat) : Calm s (s.granted c req) := by
  unfold State.granted
  split
  · exact calm_updCl _ _ _ rfl
  · exact calm_refl s

@[simp] theorem granted_mem (s : State) (c req : Nat) : (s.granted c req).mem = s.mem := by unfold State.granted; split <;> rfl
@[simp] theorem granted_out (s : State) (c req : Nat) : (s.granted c req).out = s.out := by unfold State.granted; split <;> rfl

/-- A store by a station or the core: each of its writes, then the acknowledgements it waits for. -/
theorem calm_storeBy (s : State) (c who part : Nat) (ws : List (Wr × Nat)) : Calm s (s.storeBy c who part ws) := by
  unfold State.storeBy State.awaitAcks
  exact calm_trans (calm_foldl (by intros; exact calm_store ..) _ _) (calm_foldl (by intros; exact calm_updHub ..) _ _)

/-- Stores one after another write their bytes one after another. -/
theorem stores_mem (who : Nat) (l : List (Wr × Nat)) : ∀ t : State,
    (l.foldl (fun s w => s.store { w.1 with who := who } w.2) t).mem = l.foldl (fun m w => m.writeN w.1.pa w.1.bytes) t.mem := by
  induction l with
  | nil => intro t; rfl
  | cons x l ih => intro t; rw [List.foldl_cons, ih, store_mem]; rfl

@[simp] theorem storeBy_mem (s : State) (c who part : Nat) (ws : List (Wr × Nat)) :
    (s.storeBy c who part ws).mem = ws.foldl (fun m w => m.writeN w.1.pa w.1.bytes) s.mem := by
  unfold State.storeBy State.awaitAcks
  exact (foldl_same (P := State.mem) (by intros; rfl) _ _).trans (stores_mem who ws s)

/-- Nothing stored sends nothing. -/
@[simp] theorem storeBy_out_nil (s : State) (c who part : Nat) : (s.storeBy c who part []).out = s.out := by
  unfold State.storeBy State.awaitAcks
  exact foldl_same (P := State.out) (by intros; rfl) _ _

theorem calm_tallyHub (t s : State) (o : Option (Nat × Nat)) : Calm t (t.tallyHub s o) := by
  unfold State.tallyHub
  split
  · exact calm_refl t
  · exact calm_tally ..

@[simp] theorem tallyHub_mem (t s : State) (o : Option (Nat × Nat)) : (t.tallyHub s o).mem = t.mem := by unfold State.tallyHub; split <;> simp
@[simp] theorem tallyHub_out (t s : State) (o : Option (Nat × Nat)) : (t.tallyHub s o).out = t.out := by unfold State.tallyHub; split <;> simp

theorem calm_settle (s : State) (a : Acc) (moves : Bool) : Calm s (s.settle a moves) := by
  unfold State.settle
  extract_lets s0 s1 s2 s3 s4 s5 s6 s7 s8 s9
  have h1 : Calm s s1 := calm_foldl (by intros; exact calm_walked ..) _ _
  have h2 : Calm s s2 := calm_trans h1 (calm_foldl (by intros; exact calm_touch ..) _ _)
  have h3 : Calm s2 s3 := by
    change Calm s2 (match a.home with | some c => _ | none => _)
    split
    · have hg := fun c => calm_foldl (f := fun (s : State) q => s.granted c q) (by intros; exact calm_granted ..) (a.grants c) s2
      dsimp only
      split
      · exact calm_trans (hg _) (calm_updCl _ _ _ rfl)
      · exact hg _
    · exact calm_refl _
  have h4 : Calm s3 s4 := by
    change Calm s3 (if moves = true then s3 else _)
    split
    · exact calm_refl _
    · exact calm_foldl (by intros; exact calm_unwatch ..) _ _
  have h5 : Calm s4 s5 := by
    change Calm s4 (match a.home with | some c => _ | none => _)
    split
    · exact calm_storeBy ..
    · exact calm_foldl (by intros; exact calm_store ..) _ _
  have h6 : Calm s5 s6 := calm_foldl (by intros; exact calm_markUnits ..) _ _
  have h7 : Calm s6 s7 := calm_foldl (by intros; exact calm_bump ..) _ _
  have h8 : Calm s7 s8 := by
    change Calm s7 (match a.owner with | some o => _ | none => _)
    split
    · exact calm_tally ..
    · exact calm_refl _
  have h9 : Calm s8 s9 := calm_tallyHub ..
  refine calm_trans ?_ (calm_foldl (by intros; exact calm_emit ..) _ _)
  exact calm_trans (calm_trans (calm_trans (calm_trans (calm_trans (calm_trans (calm_trans h2 h3) h4) h5) h6) h7) h8) h9

/-- A job that settles writes its bytes in order and nothing else. -/
theorem settle_mem (s : State) (a : Acc) (moves : Bool) :
    (s.settle a moves).mem = a.writes.reverse.foldl (fun m w => m.writeN w.1.pa w.1.bytes) s.mem := by
  unfold State.settle
  extract_lets s0 s1 s2 s3 s4 s5 s6 s7 s8 s9
  have h1 : s1.mem = s.mem := foldl_same (P := State.mem) (by intros; exact walked_mem ..) _ _
  have h2 : s2.mem = s1.mem := foldl_same (P := State.mem) (by intros; exact touch_mem ..) _ _
  have h3 : s3.mem = s2.mem := by
    have hg := fun c => foldl_same (P := State.mem) (f := fun (s : State) q => s.granted c q) (by intros; exact granted_mem ..) (a.grants c) s2
    change (match a.home with | some c => _ | none => _ : State).mem = s2.mem
    split
    · dsimp only
      split <;> exact hg _
    · rfl
  have h4 : s4.mem = s3.mem := by
    change (if moves = true then s3 else _ : State).mem = s3.mem
    split
    · rfl
    · exact foldl_same (P := State.mem) (by intros; exact unwatch_mem ..) _ _
  have h5 : s5.mem = a.writes.reverse.foldl (fun m w => m.writeN w.1.pa w.1.bytes) s4.mem := by
    change (match a.home with | some c => _ | none => _ : State).mem = _
    split
    · exact storeBy_mem ..
    · exact stores_mem ..
  have h6 : s6.mem = s5.mem := foldl_same (P := State.mem) (by intros; unfold State.markUnits; split <;> rfl) _ _
  have h7 : s7.mem = s6.mem := foldl_same (P := State.mem) (by intros; rfl) _ _
  have h8 : s8.mem = s7.mem := by
    change (match a.owner with | some o => _ | none => _ : State).mem = s7.mem
    split <;> simp
  have h9 : s9.mem = s8.mem := tallyHub_mem ..
  exact (foldl_same (P := State.mem) (by intros; rfl) _ _).trans (by rw [h9, h8, h7, h6, h5, h4, h3, h2, h1])

/-- A job without writes leaves memory. -/
theorem settle_mem_none (s : State) (a : Acc) (moves : Bool) (h : a.writes = []) : (s.settle a moves).mem = s.mem := by
  rw [settle_mem, h]; rfl

/-- A job without packets sends only what its stores notify; without writes, nothing. -/
theorem settle_out_none (s : State) (a : Acc) (moves : Bool) (h : a.writes = []) (ho : a.outs = []) : (s.settle a moves).out = s.out := by
  unfold State.settle
  extract_lets s0 s1 s2 s3 s4 s5 s6 s7 s8 s9
  have h1 : s1.out = s.out := foldl_same (P := State.out) (by intros; exact walked_out ..) _ _
  have h2 : s2.out = s1.out := foldl_same (P := State.out) (by intros; exact touch_out ..) _ _
  have h3 : s3.out = s2.out := by
    have hg := fun c => foldl_same (P := State.out) (f := fun (s : State) q => s.granted c q) (by intros; exact granted_out ..) (a.grants c) s2
    change (match a.home with | some c => _ | none => _ : State).out = s2.out
    split
    · dsimp only
      split <;> exact hg _
    · rfl
  have h4 : s4.out = s3.out := by
    change (if moves = true then s3 else _ : State).out = s3.out
    split
    · rfl
    · exact foldl_same (P := State.out) (by intros; exact unwatch_out ..) _ _
  have h5 : s5.out = s4.out := by
    change (match a.home with | some c => _ | none => _ : State).out = _
    simp only [h, List.reverse_nil]
    split
    · exact storeBy_out_nil ..
    · rfl
  have h6 : s6.out = s5.out := foldl_same (P := State.out) (by intros; unfold State.markUnits; split <;> rfl) _ _
  have h7 : s7.out = s6.out := foldl_same (P := State.out) (by intros; rfl) _ _
  have h8 : s8.out = s7.out := by
    change (match a.owner with | some o => _ | none => _ : State).out = s7.out
    split <;> simp
  have h9 : s9.out = s8.out := tallyHub_out ..
  rw [ho]
  exact h9.trans (h8.trans (h7.trans (h6.trans (h5.trans (h4.trans (h3.trans (h2.trans h1)))))))

/-! ### What a calm change leaves of a cluster -/

section
variable {s t : State} (h : Calm s t) (c : Nat)

include h

theorem calm_stat : (t.cl c).stat = (s.cl c).stat := by have := congrArg Cluster.stat (h.cl c); simpa [Cluster.seen] using this
theorem calm_run : (t.cl c).run = (s.cl c).run := by have := congrArg Cluster.run (h.cl c); simpa [Cluster.seen] using this
theorem calm_core : (t.cl c).core = (s.cl c).core := by have := congrArg Cluster.core (h.cl c); simpa [Cluster.seen] using this
theorem calm_dc : (t.cl c).dc = (s.cl c).dc := by have := congrArg Cluster.dc (h.cl c); simpa [Cluster.seen] using this
theorem calm_st : (t.cl c).st = (s.cl c).st := by have := congrArg Cluster.st (h.cl c); simpa [Cluster.seen] using this
theorem calm_wins : (t.cl c).wins = (s.cl c).wins := by have := congrArg Cluster.wins (h.cl c); simpa [Cluster.seen] using this
theorem calm_tokQ : (t.cl c).tokQ = (s.cl c).tokQ := by have := congrArg Cluster.tokQ (h.cl c); simpa [Cluster.seen] using this
theorem calm_tokWait : (t.cl c).tokWait = (s.cl c).tokWait := by have := congrArg Cluster.tokWait (h.cl c); simpa [Cluster.seen] using this
theorem calm_held : (t.cl c).held = (s.cl c).held := by have := congrArg Cluster.held (h.cl c); simpa [Cluster.seen] using this
theorem calm_reg (r : Reg) : t.reg c r = s.reg c r := by unfold State.reg; rw [calm_run h, calm_core h]
theorem calm_siding (st : Nat) : t.siding c st = s.siding c st := by unfold State.siding; rw [calm_st h]
theorem calm_win (w : Nat) : t.win c w = s.win c w := by unfold State.win; rw [calm_wins h]
theorem calm_dcOf (n : Nat) : t.dcOf c n = s.dcOf c n := by unfold State.dcOf; rw [calm_dc h]
theorem calm_cfg (i j : Nat) : t.cfg i j = s.cfg i j := by
  have := congrArg Dict.active h.dict
  unfold State.cfg; simpa using congrArg (fun a => (Tab.look a (objDefault i j) (objKey i j)).toNat) this

end

end Sys2Proof.Machine
end

