-- ==== Sys2Proof/Laws/Jobs.lean ====
section
/-! SUPPORT. Jobs step by step: what each building block of a job answers and leaves in its record. -/

namespace Sys2Proof.Machine

/-- A job run from a record. -/
def jobFrom (j : Job α) (a : Acc) : Except Byte α × Acc := (j.run).run a
theorem jobExec_eq (j : Job α) : Job.exec j = jobFrom j {} := rfl
@[simp] theorem jobFrom_pure (x : α) (a : Acc) : jobFrom (pure x) a = (.ok x, a) := rfl
@[simp] theorem jobFrom_fail (e : Byte) (a : Acc) : jobFrom (Job.fail e : Job α) a = (.error e, a) := rfl
@[simp] theorem jobFrom_throw (e : Byte) (a : Acc) : jobFrom (throw e : Job α) a = (.error e, a) := rfl
@[simp] theorem jobFrom_note (f : Acc → Acc) (a : Acc) : jobFrom (Job.note f) a = (.ok (), f a) := rfl
@[simp] theorem jobFrom_require (b : Bool) (e : Byte) (a : Acc) : jobFrom (Job.require b e) a = (if b then .ok () else .error e, a) := by
  unfold Job.require; split <;> rfl
@[simp] theorem jobFrom_lift (x : Except Byte α) (a : Acc) : jobFrom (Job.lift x) a = (x, a) := by cases x <;> rfl
@[simp] theorem jobFrom_bind (j : Job α) (f : α → Job β) (a : Acc) : jobFrom (j >>= f) a = match jobFrom j a with | (.ok x, b) => jobFrom (f x) b | (.error e, b) => (.error e, b) := by
  unfold jobFrom
  rcases h : StateT.run (ExceptT.run j) a with ⟨x, b⟩
  have h' : StateT.run j a = (x, b) := h
  simp only [ExceptT.run_bind, StateT.run_bind]
  rw [show (StateT.run (ExceptT.run j) a : Id _) = (x, b) from h]
  cases x <;> rfl
@[simp] theorem jobFrom_map (f : α → β) (j : Job α) (a : Acc) : jobFrom (f <$> j) a = match jobFrom j a with | (.ok x, b) => (.ok (f x), b) | (.error e, b) => (.error e, b) := by
  rw [map_eq_pure_bind, jobFrom_bind]; rfl

/-- A translation answers as the state translates, and records its walks. -/
@[simp] theorem jobFrom_xl (s : State) (x : XCtx) (wr : Bool) (va n : Nat) (a : Acc) :
    jobFrom (Job.xl s x wr va n) a = (s.xl x wr va n, { a with walks := a.walks ++ s.walksFor x va n a.walks a.who }) := by
  simp [Job.xl]

/-- A read with no mark and no poisoned word in it answers its bytes and records its walks and its pieces. -/
theorem jobFrom_readVa_ok {s : State} {x : XCtx} {va n : Nat} {ps : List Piece} {a : Acc} (h : s.xl x false va n = .ok ps) (hm : (s.gotPieces ps 0).marks = [])
    (hb : (s.gotPieces ps 0).bad = []) :
    jobFrom (readVa s x va n) a = (.ok (s.gotPieces ps 0).bytes,
      { a with walks := a.walks ++ s.walksFor x va n a.walks a.who, reads := a.reads ++ ps.map fun p => (p.pa, p.n, p.hc) }) := by
  simp [readVa, readRaw, h, hm, hb]

/-- A read that does not translate fails with the translation's status and records its walks alone. -/
theorem jobFrom_readVa_error {s : State} {x : XCtx} {va n : Nat} {e : Byte} {a : Acc} (h : s.xl x false va n = .error e) :
    jobFrom (readVa s x va n) a = (.error e, { a with walks := a.walks ++ s.walksFor x va n a.walks a.who }) := by
  simp [readVa, readRaw, h]

/-- A settled empty record changes nothing. -/
@[simp] theorem settle_empty (s : State) (m : Bool) : s.settle {} m = s := by cases m <;> rfl

end Sys2Proof.Machine
end

