-- ==== Sys2Proof/Laws/Keeps.lean ====
section
/-! SUPPORT. `Keeps` of the named updates and of the stores: the queue stays, the log grows, free values are fresh, tables stay canonical. -/

namespace Sys2Proof.Machine

/-- The fields that canonical form speaks of. -/
def State.tabs (s : State) : Memory × Tab Bool × Tab Nat × Tab Nat × Tab Bool × Tab Cluster × Tab Die × Tab Hub × Tab LinkDie × Tab Part × Tab Port :=
  (s.mem, s.poison, s.upset, s.marks, s.watched, s.clusters, s.dies, s.hubs, s.links, s.parts, s.ports)

theorem canon_iff (s : State) : s.canon = true ↔ s.mem.wf = true ∧ Tab.wf s.poison false = true ∧ Tab.wf s.upset 0 = true ∧
    Tab.wf s.marks 0 = true ∧ Tab.wf s.watched false = true ∧ Tab.wf s.clusters {} = true ∧ Tab.wf s.dies {} = true ∧
    Tab.wf s.hubs {} = true ∧ Tab.wf s.links {} = true ∧ Tab.wf s.parts {} = true ∧ portsWf s.ports = true := by
  simp only [State.canon, Bool.and_eq_true, and_assoc]

/-- Equal tables are canonical together. -/
theorem canon_tabs {s t : State} (h : t.tabs = s.tabs) : t.canon = s.canon := by
  simp only [State.tabs, Prod.mk.injEq] at h
  obtain ⟨h1, h2, h3, h4, h5, h6, h7, h8, h9, h10, h11⟩ := h
  simp only [State.canon, h1, h2, h3, h4, h5, h6, h7, h8, h9, h10, h11]

theorem keeps_refl (s : State) : Keeps s s := ⟨rfl, List.prefix_refl _, Nat.le_refl _, id⟩

theorem keeps_trans {r s t : State} (h : Keeps r s) (k : Keeps s t) : Keeps r t :=
  ⟨k.1.trans h.1, h.2.1.trans k.2.1, Nat.le_trans h.2.2.1 k.2.2.1, fun c => k.2.2.2 (h.2.2.2 c)⟩

/-- An update of fields that `Keeps` does not speak of. -/
theorem keeps_same {r s t : State} (hp : t.pending = s.pending) (ho : t.out = s.out) (hf : t.free = s.free) (ht : t.tabs = s.tabs)
    (h : Keeps r s) : Keeps r t := by
  refine keeps_trans h ⟨hp, ?_, ?_, ?_⟩
  · rw [ho]
  · rw [hf]
  · rw [canon_tabs ht]; exact id

/-- The same, with the tables changed from canonical ones to canonical ones. -/
theorem keeps_canon {r s t : State} (hp : t.pending = s.pending) (ho : t.out = s.out) (hf : t.free = s.free)
    (ht : s.canon = true → t.canon = true) (h : Keeps r s) : Keeps r t := by
  refine keeps_trans h ⟨hp, ?_, ?_, ht⟩
  · rw [ho]
  · rw [hf]

/-- The free-value counter moves on. -/
theorem keeps_free {r s t : State} (hp : t.pending = s.pending) (ho : t.out = s.out) (hf : s.free ≤ t.free) (ht : t.tabs = s.tabs)
    (h : Keeps r s) : Keeps r t := by
  refine keeps_trans h ⟨hp, ?_, hf, ?_⟩
  · rw [ho]
  · rw [canon_tabs ht]; exact id

/-! ### Tables by table -/

theorem canon_clusters {s : State} (h : s.canon = true) {t : Tab Cluster} (ht : Tab.wf s.clusters {} = true → Tab.wf t {} = true) :
    { s with clusters := t }.canon = true := by
  rw [canon_iff] at *; tauto

theorem canon_parts {s : State} (h : s.canon = true) {t : Tab Part} (ht : Tab.wf s.parts {} = true → Tab.wf t {} = true) :
    { s with parts := t }.canon = true := by
  rw [canon_iff] at *; tauto

theorem canon_dies {s : State} (h : s.canon = true) {t : Tab Die} (ht : Tab.wf s.dies {} = true → Tab.wf t {} = true) :
    { s with dies := t }.canon = true := by
  rw [canon_iff] at *; tauto

theorem canon_hubs {s : State} (h : s.canon = true) {t : Tab Hub} (ht : Tab.wf s.hubs {} = true → Tab.wf t {} = true) :
    { s with hubs := t }.canon = true := by
  rw [canon_iff] at *; tauto

theorem canon_links {s : State} (h : s.canon = true) {t : Tab LinkDie} (ht : Tab.wf s.links {} = true → Tab.wf t {} = true) :
    { s with links := t }.canon = true := by
  rw [canon_iff] at *; tauto

theorem canon_ports {s : State} (h : s.canon = true) {t : Tab Port} (ht : portsWf s.ports = true → portsWf t = true) :
    { s with ports := t }.canon = true := by
  rw [canon_iff] at *; tauto

/-- Memory, poison, latent errors, marks and watched bits. -/
theorem canon_cells {s t : State} (h : s.canon = true) (hm : s.mem.wf = true → t.mem.wf = true)
    (hp : Tab.wf s.poison false = true → Tab.wf t.poison false = true) (hu : Tab.wf s.upset 0 = true → Tab.wf t.upset 0 = true)
    (hk : Tab.wf s.marks 0 = true → Tab.wf t.marks 0 = true) (hw : Tab.wf s.watched false = true → Tab.wf t.watched false = true)
    (hr : (t.clusters, t.dies, t.hubs, t.links, t.parts, t.ports) = (s.clusters, s.dies, s.hubs, s.links, s.parts, s.ports)) :
    t.canon = true := by
  simp only [Prod.mk.injEq] at hr
  obtain ⟨h1, h2, h3, h4, h5, h6⟩ := hr
  rw [canon_iff] at *
  rw [h1, h2, h3, h4, h5, h6]
  tauto

theorem portsWf_put {t : Tab Port} (h : portsWf t = true) (p : Nat) (v : Port) : portsWf (Tab.put t (portInit p) p v) = true := by
  simp only [portsWf, Bool.and_eq_true, decide_eq_true_eq, List.all_eq_true] at *
  refine ⟨tab_rising_put h.1 p v, fun e he => ?_⟩
  rcases tab_mem_put he with he | ⟨rfl, hv⟩
  · exact h.2 e he
  · exact hv

/-! ### The named updates -/

theorem keeps_updCl {r s : State} (c : Nat) (f : Cluster → Cluster) (h : Keeps r s) : Keeps r (s.updCl c f) :=
  keeps_canon (by rfl) (by rfl) (by rfl) (fun hc => canon_clusters hc fun hw => tab_wf_put hw ..) h

theorem keeps_updPt {r s : State} (p : Nat) (f : Part → Part) (h : Keeps r s) : Keeps r (s.updPt p f) :=
  keeps_canon (by rfl) (by rfl) (by rfl) (fun hc => canon_parts hc fun hw => tab_wf_put hw ..) h

theorem keeps_updDie {r s : State} (d : Nat) (f : Die → Die) (h : Keeps r s) : Keeps r (s.updDie d f) :=
  keeps_canon (by rfl) (by rfl) (by rfl) (fun hc => canon_dies hc fun hw => tab_wf_put hw ..) h

theorem keeps_updHub {r s : State} (k : Nat) (f : Hub → Hub) (h : Keeps r s) : Keeps r (s.updHub k f) :=
  keeps_canon (by rfl) (by rfl) (by rfl) (fun hc => canon_hubs hc fun hw => tab_wf_put hw ..) h

theorem keeps_updLink {r s : State} (l : Nat) (f : LinkDie → LinkDie) (h : Keeps r s) : Keeps r (s.updLink l f) :=
  keeps_canon (by rfl) (by rfl) (by rfl) (fun hc => canon_links hc fun hw => tab_wf_put hw ..) h

theorem keeps_updPort {r s : State} (p : Nat) (f : Port → Port) (h : Keeps r s) : Keeps r (s.updPort p f) :=
  keeps_canon (by rfl) (by rfl) (by rfl) (fun hc => canon_ports hc fun hw => portsWf_put hw ..) h

theorem keeps_emit {r s : State} (o : Out) (h : Keeps r s) : Keeps r (s.emit o) :=
  keeps_trans h ⟨rfl, List.prefix_append _ _, Nat.le_refl _, fun hc => by rw [canon_tabs (s := s) (t := s.emit o) rfl]; exact hc⟩

theorem keeps_drawn {r s : State} (h : Keeps r s) : Keeps r s.drawn := keeps_free (by rfl) (by rfl) (Nat.le_succ _) (by rfl) h

theorem keeps_setObj {r s : State} (idx sub v : Nat) (h : Keeps r s) : Keeps r (s.setObj idx sub v) :=
  keeps_same (by rfl) (by rfl) (by rfl) (by rfl) h

theorem keeps_bump {r s : State} (idx sub n : Nat) (h : Keeps r s) : Keeps r (s.bump idx sub n) := keeps_setObj _ _ _ h

/-- A record update of the fields that `Keeps` does not speak of. -/
theorem keeps_mk {r s : State} {kept : List Kept} {ma mh mr : RecQ} {mac : List (MdpPath × Nat × MdpUnit)} {evt : EvtLog} {recov : Recovery} {plan : Plan} {power : Power} {boot : Bring}
    {dict : Dict} {sec : Sec} {plate : Plate} (h : Keeps r s) :
    Keeps r { s with kept := kept, mailToAoc := ma, mailToHost := mh, mdpRx := mr, mac := mac, evt := evt, recov := recov, plan := plan, power := power,
                     boot := boot, dict := dict, sec := sec, plate := plate } :=
  keeps_same (by rfl) (by rfl) (by rfl) (by rfl) h

/-! ### Choices and loops -/

theorem keeps_ite {r s t : State} (c : Prop) [Decidable c] (hs : Keeps r s) (ht : Keeps r t) : Keeps r (if c then s else t) := by
  split <;> assumption

theorem keeps_foldl {α : Type} {r : State} (f : State → α → State) (hf : ∀ t x, Keeps r t → Keeps r (f t x)) (l : List α) :
    ∀ {s : State}, Keeps r s → Keeps r (l.foldl f s) := by
  induction l with
  | nil => intro s h; exact h
  | cons x l ih => intro s h; exact ih (hf s x h)

theorem keepsR_next {r s : State} (h : Keeps r s) : KeepsR r (.next s) := by
  intro t ht; cases ht; exact h

theorem keepsR_fault (r : State) (f : Fault) : KeepsR r (.fault f) := by
  intro t ht; cases ht

theorem keepsR_ite {r : State} {x y : Host.Outcome State Fault Refusal} (c : Prop) [Decidable c] (hx : KeepsR r x) (hy : KeepsR r y) :
    KeepsR r (if c then x else y) := by
  split <;> assumption

/-! ### Stores, reads, watches (Machine/Ops.lean, Machine/Translate.lean) -/

theorem keeps_lineAccess {r s : State} (pa : Nat) (wr whole : Bool) (hc : Nat) (h : Keeps r s) : Keeps r (s.lineAccess pa wr whole hc) := by
  unfold State.lineAccess
  exact keeps_ite _ (keeps_bump _ _ _ (keeps_updHub _ _ h)) (keeps_ite _ (keeps_updHub _ _ h) (keeps_bump _ _ _ (keeps_updHub _ _ h)))

theorem keeps_hubTouch {r s : State} (pa n : Nat) (wr : Bool) (hc : Nat) (h : Keeps r s) : Keeps r (s.hubTouch pa n wr hc) := by
  unfold State.hubTouch
  repeat' first
    | assumption
    | apply keeps_ite
    | refine keeps_foldl _ (fun _ _ k => keeps_lineAccess _ _ _ _ k) _ ?_
    | split

theorem keeps_sendNotice {r s : State} (x c region : Nat) (lost : Bool) (h : Keeps r s) : Keeps r (s.sendNotice x c region lost) :=
  keeps_same (by rfl) (by rfl) (by rfl) (by rfl) (keeps_emit _ h)

theorem keeps_noticeRegion {r s : State} (region : Nat) (h : Keeps r s) : Keeps r (s.noticeRegion region).1 := by
  unfold State.noticeRegion
  dsimp only
  split
  · exact h
  · exact keeps_foldl _ (fun _ _ k => keeps_sendNotice _ _ _ _ k) _ (keeps_updHub _ _ h)

theorem keeps_noticeWrite {r s : State} (pa n : Nat) (h : Keeps r s) : Keeps r (s.noticeWrite pa n) := by
  unfold State.noticeWrite
  split
  · exact keeps_foldl _ (fun _ _ k => keeps_noticeRegion _ k) _ h
  · exact keeps_foldl _ (fun _ _ k => keeps_noticeRegion _ k) _ h
  · exact h

/-- Marks, poison, latent errors or watched bits changed: canonical ones to canonical ones. -/
theorem keeps_cells {r s : State} (m : Memory) (po : Tab Bool) (u mk : Tab Nat) (w : Tab Bool) (hm : s.mem.wf = true → m.wf = true)
    (hp : Tab.wf s.poison false = true → Tab.wf po false = true) (hu : Tab.wf s.upset 0 = true → Tab.wf u 0 = true)
    (hk : Tab.wf s.marks 0 = true → Tab.wf mk 0 = true) (hw : Tab.wf s.watched false = true → Tab.wf w false = true) (h : Keeps r s) :
    Keeps r { s with mem := m, poison := po, upset := u, marks := mk, watched := w } :=
  keeps_canon (s := s) (by rfl) (by rfl) (by rfl) (fun hc => canon_cells hc hm hp hu hk hw (by rfl)) h

theorem keeps_poison {r s : State} (t : Tab Bool) (ht : Tab.wf s.poison false = true → Tab.wf t false = true) (h : Keeps r s) :
    Keeps r { s with poison := t } := keeps_cells s.mem t s.upset s.marks s.watched id ht id id id h

theorem keeps_upset {r s : State} (t : Tab Nat) (ht : Tab.wf s.upset 0 = true → Tab.wf t 0 = true) (h : Keeps r s) :
    Keeps r { s with upset := t } := keeps_cells s.mem s.poison t s.marks s.watched id id ht id id h

theorem keeps_marks {r s : State} (t : Tab Nat) (ht : Tab.wf s.marks 0 = true → Tab.wf t 0 = true) (h : Keeps r s) :
    Keeps r { s with marks := t } := keeps_cells s.mem s.poison s.upset t s.watched id id id ht id h

theorem keeps_watched {r s : State} (t : Tab Bool) (ht : Tab.wf s.watched false = true → Tab.wf t false = true) (h : Keeps r s) :
    Keeps r { s with watched := t } := keeps_cells s.mem s.poison s.upset s.marks t id id id id ht h

theorem keeps_mem {r s : State} (m : Memory) (hm : s.mem.wf = true → m.wf = true) (h : Keeps r s) : Keeps r { s with mem := m } :=
  keeps_cells m s.poison s.upset s.marks s.watched hm id id id id h

theorem tab_wf_foldPut {α β : Type} [DecidableEq α] {d : α} (k : β → Nat) (v : β → α) (l : List β) {t : Tab α} (h : Tab.wf t d = true) :
    Tab.wf (l.foldl (fun t x => Tab.put t d (k x) (v x)) t) d = true :=
  tab_wf_foldl _ (fun _ _ k => tab_wf_put k ..) l h

theorem keeps_resolveWord {r s : State} (w : Nat) (h : Keeps r s) : Keeps r (s.resolveWord w) := by
  have hu (v : Nat) : Tab.wf s.upset 0 = true → Tab.wf (Tab.put s.upset 0 w v) 0 = true := fun k => tab_wf_put k ..
  have hp : Tab.wf s.poison false = true → Tab.wf (Tab.put s.poison false w true) false = true := fun k => tab_wf_put k ..
  unfold State.resolveWord
  split
  · exact h
  · exact keeps_bump _ _ _ (keeps_upset _ (hu 0) h)
  · split
    · exact keeps_bump _ _ _ (keeps_upset _ (hu 0) h)
    · exact keeps_bump _ _ _ (keeps_cells s.mem _ _ s.marks s.watched id (fun k => tab_wf_foldPut _ _ _ k) (hu 0) id id h)
  · split
    · exact keeps_bump _ _ _ (keeps_upset _ (hu 3) h)
    · dsimp only
      split
      · exact keeps_updCl _ _ (keeps_setObj _ _ _ (keeps_setObj _ _ _ (keeps_bump _ _ _ (keeps_cells s.mem _ _ s.marks s.watched id hp (hu 0) id id h))))
      · exact keeps_cells s.mem _ _ s.marks s.watched id hp (hu 0) id id h
    · exact h

theorem keeps_unfilter {r s : State} (c region : Nat) (h : Keeps r s) : Keeps r (s.unfilter c region) := keeps_updHub _ _ h

theorem keeps_sweepWatches {r s : State} (c : Nat) (h : Keeps r s) : Keeps r (s.sweepWatches c) :=
  keeps_foldl _ (fun _ _ k => keeps_unfilter _ _ k) _ (keeps_updCl _ _ h)

theorem keeps_coalOut {r s : State} (c : Nat) (gone : Coal → Bool) (h : Keeps r s) : Keeps r (s.coalOut c gone) :=
  keeps_updCl _ _ (keeps_foldl _ (fun _ _ k => keeps_upset _ (fun k => tab_wf_put k ..) (keeps_resolveWord _ k)) _ h)

theorem keeps_coalMerge {r s : State} (c off : Nat) (bs : List Byte) (who : Nat) (h : Keeps r s) : Keeps r (s.coalMerge c off bs who) := by
  unfold State.coalMerge
  dsimp only
  split
  · exact keeps_updCl _ _ (keeps_cells s.mem _ _ s.marks s.watched id (fun k => tab_wf_filter k _) (fun k => tab_wf_filter k _) id id h)
  · refine keeps_updCl _ _ ?_
    split
    · exact keeps_ite _ (keeps_coalOut _ _ h) h
    · exact h

theorem keeps_coalStore {r s : State} (c off : Nat) (bs : List Byte) (who : Nat) (h : Keeps r s) : Keeps r (s.coalStore c off bs who) := by
  unfold State.coalStore
  exact keeps_foldl _ (fun _ _ k => keeps_coalMerge _ _ _ _ k) _ h

theorem keeps_coalAhead {r s : State} (pa n : Nat) (h : Keeps r s) : Keeps r (s.coalAhead pa n) := by
  unfold State.coalAhead
  split
  · exact keeps_ite _ (keeps_coalOut _ _ h) h
  · exact h

theorem keeps_storeSide {r s : State} (w : Wr) (h : Keeps r s) : Keeps r (s.storeSide w) := by
  have h := keeps_coalAhead w.pa w.bytes.length h
  unfold State.storeSide
  generalize s.coalAhead w.pa w.bytes.length = s at h ⊢
  dsimp only
  have hp (l : List Nat) (a n : Nat) : Tab.wf s.poison false = true →
      Tab.wf (l.foldl (fun t b => Tab.put t false b true) (Tab.clear s.poison a n)) false = true :=
    fun k => tab_wf_foldPut _ _ _ (tab_wf_clear k ..)
  have h1 (l : List Nat) (a n a' n' : Nat) : Keeps r { s with
      poison := l.foldl (fun t b => Tab.put t false b true) (Tab.clear s.poison a n), upset := Tab.clear s.upset a' n' } :=
    keeps_cells s.mem _ _ s.marks s.watched id (hp _ _ _) (fun k => tab_wf_clear k ..) id id h
  split
  · split
    · exact h1 ..
    · refine keeps_updCl _ _ (keeps_coalStore _ _ _ _ ?_)
      refine keeps_cells (s := s) s.mem _ _ _ _ id (hp _ _ _) (fun k => tab_wf_clear k ..) (fun k => ?_) (fun k => tab_wf_clear k ..) h
      refine tab_wf_foldl _ (fun t e ht => tab_wf_foldPut _ _ _ ht) _ ?_
      split
      · exact tab_wf_clear k ..
      · exact tab_wf_foldPut _ _ _ (tab_wf_clear k ..)
  · exact h1 ..

theorem keeps_storeRaw {r s : State} (w : Wr) (hc : Nat) (h : Keeps r s) : Keeps r (s.storeRaw w hc) := by
  have h1 : Keeps s (((s.storeSide w).hubTouch w.pa w.bytes.length true hc).noticeWrite w.pa w.bytes.length) :=
    keeps_noticeWrite _ _ (keeps_hubTouch _ _ _ _ (keeps_storeSide w (keeps_refl s)))
  refine keeps_trans h ⟨h1.1, h1.2.1, h1.2.2.1, fun c => ?_⟩
  have c1 := h1.2.2.2 c
  refine canon_cells c1 (fun _ => ?_) id id id id (by rfl)
  exact memory_wf_writeN ((canon_iff s).mp c).1 ..

theorem keeps_store {r s : State} (w : Wr) (hc : Nat) (h : Keeps r s) : Keeps r (s.store w hc) := by
  unfold State.store
  have h1 := keeps_storeRaw w hc h
  dsimp only
  split
  · exact keeps_ite _ h1 (keeps_sweepWatches _ h1)
  · exact h1

theorem keeps_storeAll {r s : State} (ws : List Wr) (h : Keeps r s) : Keeps r (s.storeAll ws) :=
  keeps_foldl _ (fun _ _ k => keeps_store _ _ k) _ h

theorem keeps_scramble {r s : State} (pa n : Nat) (h : Keeps r s) : Keeps r (s.scramble pa n) := by
  have h1 : Keeps r { s with mem := s.mem.writeN pa ((List.range n).map fun i => Config.freeByte s.free (pa + i)) } :=
    keeps_mem _ (fun k => memory_wf_writeN k ..) h
  exact keeps_drawn h1

theorem keeps_scrambleAll {r s : State} (l : List (Nat × Nat)) (h : Keeps r s) : Keeps r (s.scrambleAll l) :=
  keeps_foldl _ (fun _ _ k => keeps_scramble _ _ k) _ h

theorem keeps_touch {r s : State} (pa n hc : Nat) (h : Keeps r s) : Keeps r (s.touch pa n hc) := by
  unfold State.touch
  dsimp only
  split
  · exact h
  · split
    · exact keeps_foldl _ (fun _ _ k => keeps_resolveWord _ k) _ (keeps_ite _ (keeps_coalOut _ _ h) h)
    · have h1 := keeps_foldl (r := r) State.resolveWord (fun _ _ k => keeps_resolveWord _ k)
      exact keeps_hubTouch _ _ _ _ (keeps_ite _ (h1 _ h) (keeps_bump _ _ _ (h1 _ h)))

theorem keeps_unwatch {r s : State} (pa n : Nat) (h : Keeps r s) : Keeps r (s.unwatch pa n) := by
  unfold State.unwatch
  split
  · split
    · exact h
    · exact keeps_sweepWatches _ (keeps_watched _ (fun k => tab_wf_clear k ..) h)
  · exact h

theorem keeps_endWatches {r s : State} (c : Nat) (h : Keeps r s) : Keeps r (s.endWatches c) := by
  unfold State.endWatches
  split
  · exact h
  · exact keeps_sweepWatches _ (keeps_watched _ (fun k => tab_wf_clear k ..) h)

theorem keeps_markUnits {r s : State} (pa n mark : Nat) (h : Keeps r s) : Keeps r (s.markUnits pa n mark) := by
  unfold State.markUnits
  split
  · exact keeps_marks _ (fun k => tab_wf_foldPut _ _ _ k) h
  · exact h

theorem keeps_updEntry {r s : State} (p seq : Nat) (f : Entry → Entry) (h : Keeps r s) : Keeps r (s.updEntry p seq f) := keeps_updPt _ _ h

theorem keeps_tally {r s : State} (p seq : Nat) (l : List (Nat × Nat × Nat)) (h : Keeps r s) : Keeps r (s.tally p seq l) :=
  keeps_ite _ h (keeps_updEntry _ _ _ h)

theorem keeps_bumpFor {r s : State} (o : Nat × Nat) (idx sub n : Nat) (h : Keeps r s) : Keeps r (s.bumpFor o idx sub n) :=
  keeps_tally _ _ _ (keeps_bump _ _ _ h)

theorem keeps_walked {r s : State} (w : Walk) (h : Keeps r s) : Keeps r (s.walked w) := by
  unfold State.walked
  dsimp only
  have h1 := fun l : List Nat => keeps_bump 0x70B0 1 1 (keeps_foldl (fun (s : State) a => s.touch a 8) (fun _ _ k => keeps_touch _ _ _ k) l h)
  split
  · exact keeps_updCl _ _ (h1 _)
  · exact h1 _

theorem keeps_tallyHub {r t : State} (s : State) (o : Option (Nat × Nat)) (h : Keeps r t) : Keeps r (t.tallyHub s o) := by
  unfold State.tallyHub
  split
  · exact h
  · exact keeps_tally _ _ _ h

theorem keeps_granted {r s : State} (c req : Nat) (h : Keeps r s) : Keeps r (s.granted c req) := keeps_ite _ (keeps_updCl _ _ h) h

theorem keeps_awaitAcks {r s : State} (ep : BitVec 16) (mod : Byte) (tag : BitVec 16) (part : Nat) (due : List (Nat × Nat × List Nat)) (who : Nat) (h : Keeps r s) :
    Keeps r (s.awaitAcks ep mod tag part due who) :=
  keeps_foldl _ (fun _ _ k => keeps_updHub _ _ k) _ h

theorem keeps_storeBy {r s : State} (c who part : Nat) (ws : List (Wr × Nat)) (h : Keeps r s) : Keeps r (s.storeBy c who part ws) :=
  keeps_awaitAcks _ _ _ _ _ _ (keeps_foldl _ (fun _ _ k => keeps_store _ _ k) _ h)

theorem keeps_settle {r s : State} (a : Acc) (moves : Bool) (h : Keeps r s) : Keeps r (s.settle a moves) := by
  unfold State.settle
  have h0 := keeps_foldl State.walked (fun _ _ k => keeps_walked _ k) a.walks h
  have h1 := keeps_foldl (fun (s : State) (x : Nat × Nat × Nat) => s.touch x.1 x.2.1 x.2.2) (fun _ _ k => keeps_touch _ _ _ k) a.reads h0
  dsimp only
  generalize List.foldl (fun (s : State) (x : Nat × Nat × Nat) => s.touch x.1 x.2.1 x.2.2) (List.foldl State.walked s a.walks) a.reads = s1 at h1 ⊢
  refine keeps_foldl _ (fun _ _ k => keeps_emit _ k) _ (keeps_tallyHub _ _ ?_)
  have fin {x : State} (k : Keeps r x) : Keeps r (match a.owner with | some o => x.tally o.1 o.2 a.bumps | none => x) := by
    split
    · exact keeps_tally _ _ _ k
    · exact k
  refine fin (keeps_foldl _ (fun _ _ k => keeps_bump _ _ _ k) _ (keeps_foldl _ (fun _ _ k => keeps_markUnits _ _ _ k) _ ?_))
  have unw {x : State} (k : Keeps r x) : Keeps r (if moves = true then x else a.reads.foldl (fun s r => s.unwatch r.1 r.2.1) x) :=
    keeps_ite _ k (keeps_foldl _ (fun _ _ k => keeps_unwatch _ _ k) _ k)
  generalize a.home = home
  cases home with
  | none => exact keeps_foldl _ (fun _ _ k => keeps_store _ _ k) _ (unw h1)
  | some c =>
    refine keeps_storeBy _ _ _ _ (unw ?_)
    exact keeps_ite _ (keeps_updCl _ _ (keeps_foldl _ (fun _ _ k => keeps_granted _ _ k) _ h1)) (keeps_foldl _ (fun _ _ k => keeps_granted _ _ k) _ h1)

end Sys2Proof.Machine
end

