-- ==== Sys2Proof/Laws/KeepsCore.lean ====
section
/-! SUPPORT. `Keeps` of the state operations of Machine/Consign, Machine/Reliab, Machine/Power, Machine/Num, Machine/Security, Machine/Boot, Machine/Link, Machine/Plate, Machine/Mdp, in their order. -/

namespace Sys2Proof.Machine

theorem keeps_updRun {r s : State} (c : Nat) (f : Run → Run) (h : Keeps r s) : Keeps r (State.updRun s c f) := by
  unfold State.updRun
  repeat' first
    | with_reducible assumption
    | with_reducible apply keeps_updCl
    | fail_if_no_progress with_reducible apply keeps_mk

theorem keeps_updCore {r s : State} (c : Nat) (f : Core → Core) (h : Keeps r s) : Keeps r (State.updCore s c f) := by
  unfold State.updCore
  repeat' first
    | with_reducible assumption
    | with_reducible apply keeps_updCl
    | fail_if_no_progress with_reducible apply keeps_mk

theorem keeps_updSt {r s : State} (c : Nat) (f : Stations → Stations) (h : Keeps r s) : Keeps r (State.updSt s c f) := by
  unfold State.updSt
  repeat' first
    | with_reducible assumption
    | with_reducible apply keeps_updCl
    | fail_if_no_progress with_reducible apply keeps_mk

theorem keeps_updWin {r s : State} (c : Nat) (w : Nat) (f : Win → Win) (h : Keeps r s) : Keeps r (State.updWin s c w f) := by
  unfold State.updWin
  repeat' first
    | with_reducible assumption
    | with_reducible apply keeps_updCl
    | fail_if_no_progress with_reducible apply keeps_mk

theorem keeps_updSiding {r s : State} (c : Nat) (st : Nat) (f : List WbEntry → List WbEntry) (h : Keeps r s) : Keeps r (State.updSiding s c st f) := by
  unfold State.updSiding
  repeat' first
    | with_reducible assumption
    | with_reducible apply keeps_updSt
    | fail_if_no_progress with_reducible apply keeps_mk

theorem keeps_updTileQ {r s : State} (c : Nat) (q : Nat) (f : TileQ → TileQ) (h : Keeps r s) : Keeps r (State.updTileQ s c q f) := by
  unfold State.updTileQ
  repeat' first
    | with_reducible assumption
    | with_reducible apply keeps_updSt
    | fail_if_no_progress with_reducible apply keeps_mk

theorem keeps_updChan {r s : State} (c : Nat) (k : Nat) (f : Chan → Chan) (h : Keeps r s) : Keeps r (State.updChan s c k f) := by
  unfold State.updChan
  repeat' first
    | with_reducible assumption
    | with_reducible apply keeps_updSt
    | fail_if_no_progress with_reducible apply keeps_mk

theorem keeps_setReg {r s : State} (c : Nat) (r' : Reg) (v : Word) (h : Keeps r s) : Keeps r (State.setReg s c r' v) := by
  unfold State.setReg
  repeat' first
    | with_reducible assumption
    | with_reducible apply keeps_updCore
    | with_reducible apply keeps_ite
    | split
    | fail_if_no_progress with_reducible apply keeps_mk

theorem keeps_countFault {r s : State} (st : Byte) (h : Keeps r s) : Keeps r (State.countFault s st) := by
  unfold State.countFault
  repeat' first
    | with_reducible assumption
    | with_reducible apply keeps_bump
    | (refine keeps_foldl _ (fun _ _ _ => ?_) _ ?_)

theorem keeps_send {r s : State} (p : Packet) (h : Keeps r s) : Keeps r (State.send s p) := by
  unfold State.send
  repeat' first
    | with_reducible assumption
    | with_reducible apply keeps_emit
    | with_reducible apply keeps_ite
    | split
    | fail_if_no_progress with_reducible apply keeps_mk
    | dsimp only

theorem keeps_returnToken {r s : State} (c : Nat) (part : Nat) (h' : HeldToken) (h : Keeps r s) : Keeps r (State.returnToken s c part h') := by
  unfold State.returnToken
  repeat' first
    | with_reducible assumption
    | with_reducible apply keeps_send
    | with_reducible apply keeps_updCl
    | with_reducible apply keeps_ite
    | split
    | fail_if_no_progress with_reducible apply keeps_mk
    | dsimp only

theorem keeps_dropKept {r s : State} (ep : BitVec 16) (tag : BitVec 16) (ty : Nat) (h : Keeps r s) : Keeps r (State.dropKept s ep tag ty) := by
  unfold State.dropKept
  repeat' first
    | with_reducible assumption
    | fail_if_no_progress with_reducible apply keeps_mk

theorem keeps_refuseToken {r s : State} (c : Nat) (w : Nat) (count : Nat) (part : Nat) (reason : Nat) (requester : BitVec 16) (tag : BitVec 16) (mod : Byte) (h : Keeps r s) : Keeps r (State.refuseToken s c w count part reason requester tag mod) := by
  unfold State.refuseToken
  repeat' first
    | with_reducible assumption
    | with_reducible apply keeps_emit
    | with_reducible apply keeps_bump

theorem keeps_refuseQueued {r s : State} (c : Nat) (f : Nat → Bool) (h : Keeps r s) : Keeps r (State.refuseQueued s c f) := by
  unfold State.refuseQueued
  repeat' first
    | with_reducible assumption
    | with_reducible apply keeps_refuseToken
    | with_reducible apply keeps_updCl
    | (refine keeps_foldl _ (fun _ _ _ => ?_) _ ?_)
    | fail_if_no_progress with_reducible apply keeps_mk
    | dsimp only

theorem keeps_closeWindows {r s : State} (c : Nat) (h : Keeps r s) : Keeps r (State.closeWindows s c) := by
  unfold State.closeWindows
  repeat' first
    | with_reducible assumption
    | with_reducible apply keeps_refuseQueued
    | with_reducible apply keeps_updCl
    | fail_if_no_progress with_reducible apply keeps_mk

theorem keeps_sendService {r s : State} (kind : Nat) (part : Nat) (mods : List Nat) (k : Nat) (clip : Bool) (a : Word) (b : Word) (h : Keeps r s) : Keeps r (State.sendService s kind part mods k clip a b) := by
  unfold State.sendService
  repeat' first
    | with_reducible assumption
    | with_reducible apply keeps_emit
    | (refine keeps_foldl _ (fun _ _ _ => ?_) _ ?_)

theorem keeps_commitFails {r s : State} (p : Nat) (seq : Nat) (h : Keeps r s) : Keeps r (State.commitFails s p seq) := by
  unfold State.commitFails
  repeat' first
    | with_reducible assumption
    | with_reducible apply keeps_sendService
    | with_reducible apply keeps_updPt
    | with_reducible apply keeps_ite
    | split
    | fail_if_no_progress with_reducible apply keeps_mk

theorem keeps_joinFlags {r s : State} (p seq : Nat) (f : Byte) (h : Keeps r s) : Keeps r (s.joinFlags p seq f) := keeps_updEntry _ _ _ h



theorem keeps_stopOn {r s : State} (c : Nat) (failed : Bool) (h : Keeps r s) : Keeps r (State.stopOn s c failed) := by
  unfold State.stopOn
  split
  · exact h
  · refine keeps_ite _ h (keeps_closeWindows _ (keeps_updCl _ _ (keeps_endWatches _ ?_)))
    refine keeps_foldl _ (fun _ _ k => keeps_returnToken _ _ _ k) _ ?_
    exact keeps_ite _ (keeps_scrambleAll _ (keeps_joinFlags _ _ _ h)) (keeps_joinFlags _ _ _ h)

theorem keeps_failRun {r s : State} (c : Nat) (f : Failure) (h : Keeps r s) : Keeps r (State.failRun s c f) := by
  unfold State.failRun
  repeat' first
    | with_reducible assumption
    | with_reducible apply keeps_updEntry
    | with_reducible apply keeps_countFault
    | with_reducible apply keeps_tally
    | with_reducible apply keeps_commitFails
    | with_reducible apply keeps_stopOn
    | with_reducible apply keeps_ite
    | split
    | fail_if_no_progress with_reducible apply keeps_mk
    | dsimp only

theorem keeps_failCore {r s : State} (c : Nat) (st : Byte) (h : Keeps r s) : Keeps r (State.failCore s c st) := by
  unfold State.failCore
  repeat' first
    | with_reducible assumption
    | with_reducible apply keeps_failRun

theorem keeps_post {r s : State} (c : Nat) (n : Nat) (station : Nat) (tag : Nat) (i : Nat) (j : Nat) (h : Keeps r s) : Keeps r (State.post s c n station tag i j) := by
  unfold State.post
  repeat' first
    | with_reducible assumption
    | with_reducible apply keeps_failRun
    | with_reducible apply keeps_updCl
    | with_reducible apply keeps_ite
    | split
    | fail_if_no_progress with_reducible apply keeps_mk

theorem keeps_postCore {r s : State} (c : Nat) (n : Nat) (h : Keeps r s) : Keeps r (State.postCore s c n) := by
  unfold State.postCore
  repeat' first
    | with_reducible assumption
    | with_reducible apply keeps_post

theorem keeps_flushRow {r s : State} (c : Nat) (slot : Nat) (row : Nat) (h : Keeps r s) : Keeps r (State.flushRow s c slot row) := by
  unfold State.flushRow
  repeat' first
    | with_reducible assumption
    | with_reducible apply keeps_touch
    | with_reducible apply keeps_store
    | with_reducible apply keeps_updCl
    | fail_if_no_progress with_reducible apply keeps_mk
    | dsimp only

theorem keeps_flushRows {r s : State} (c : Nat) (part : Nat) (h : Keeps r s) : Keeps r (State.flushRows s c part) := by
  unfold State.flushRows
  repeat' first
    | with_reducible assumption
    | with_reducible apply keeps_flushRow
    | with_reducible apply keeps_updCl
    | (refine keeps_foldl _ (fun _ _ _ => ?_) _ ?_)
    | split
    | fail_if_no_progress with_reducible apply keeps_mk
    | dsimp only

theorem keeps_commitCkpt {r s : State} (c : Nat) (part : Nat) (seq : Nat) (h : Keeps r s) : Keeps r (State.commitCkpt s c part seq) := by
  unfold State.commitCkpt
  repeat' first
    | with_reducible assumption
    | with_reducible apply keeps_flushRows
    | with_reducible apply keeps_store
    | with_reducible apply keeps_updCl
    | with_reducible apply keeps_ite
    | (refine keeps_foldl _ (fun _ _ _ => ?_) _ ?_)
    | split
    | fail_if_no_progress with_reducible apply keeps_mk
    | dsimp only

theorem keeps_restoreRow {r s : State} (c : Nat) (slot : Nat) (row : Nat) (h : Keeps r s) : Keeps r (State.restoreRow s c slot row) := by
  unfold State.restoreRow
  repeat' first
    | with_reducible assumption
    | with_reducible apply keeps_store
    | dsimp only

theorem keeps_restoreDirty {r s : State} (c : Nat) (part : Nat) (h : Keeps r s) : Keeps r (State.restoreDirty s c part) := by
  unfold State.restoreDirty
  repeat' first
    | with_reducible assumption
    | with_reducible apply keeps_restoreRow
    | with_reducible apply keeps_updCl
    | (refine keeps_foldl _ (fun _ _ _ => ?_) _ ?_)
    | split
    | fail_if_no_progress with_reducible apply keeps_mk
    | dsimp only

theorem keeps_restoreAll {r s : State} (c : Nat) (h : Keeps r s) : Keeps r (State.restoreAll s c) := by
  unfold State.restoreAll
  repeat' first
    | with_reducible assumption
    | with_reducible apply keeps_restoreRow
    | with_reducible apply keeps_updCl
    | (refine keeps_foldl _ (fun _ _ _ => ?_) _ ?_)
    | split
    | fail_if_no_progress with_reducible apply keeps_mk
    | dsimp only

theorem keeps_repairRows {r s : State} (c : Nat) (part : Nat) (h : Keeps r s) : Keeps r (State.repairRows s c part) := by
  unfold State.repairRows
  repeat' first
    | with_reducible assumption
    | with_reducible apply keeps_restoreRow
    | with_reducible apply keeps_ite
    | (refine keeps_foldl _ (fun _ _ _ => ?_) _ ?_)
    | split
    | dsimp only

theorem keeps_tilesWritten {r s : State} (c : Nat) (n : Nat) (h : Keeps r s) : Keeps r (State.tilesWritten s c n) := by
  unfold State.tilesWritten
  repeat' first
    | with_reducible assumption
    | with_reducible apply keeps_updCl
    | fail_if_no_progress with_reducible apply keeps_mk

theorem keeps_msiFor {r s : State} (irq : Word) (h : Keeps r s) : Keeps r (State.msiFor s irq) := by
  unfold State.msiFor
  repeat' first
    | with_reducible assumption
    | with_reducible apply keeps_emit
    | with_reducible apply keeps_ite
    | split
    | dsimp only

theorem keeps_event {r s : State} (code : Nat) (part : Nat) (arg0 : Nat) (h : Keeps r s) : Keeps r (State.event s code part arg0) := by
  unfold State.event
  repeat' first
    | with_reducible assumption
    | with_reducible apply keeps_store
    | with_reducible apply keeps_msiFor
    | with_reducible apply keeps_bump
    | with_reducible apply keeps_ite
    | split
    | fail_if_no_progress with_reducible apply keeps_mk
    | dsimp only

theorem keeps_faultCode {r s : State} (code : List Byte) (h : Keeps r s) : Keeps r (State.faultCode s code) := by
  unfold State.faultCode
  repeat' first
    | with_reducible assumption
    | fail_if_no_progress with_reducible apply keeps_mk

theorem keeps_postRecord {r s : State} (kind : Nat) (failed : Nat) (repl : Option Nat) (parts : List Nat) (h : Keeps r s) : Keeps r (State.postRecord s kind failed repl parts) := by
  unfold State.postRecord
  repeat' first
    | with_reducible assumption
    | with_reducible apply keeps_faultCode
    | with_reducible apply keeps_msiFor
    | with_reducible apply keeps_updPt
    | with_reducible apply keeps_setObj
    | with_reducible apply keeps_bump
    | with_reducible apply keeps_ite
    | (refine keeps_foldl _ (fun _ _ _ => ?_) _ ?_)
    | split
    | fail_if_no_progress with_reducible apply keeps_mk
    | dsimp only

theorem keeps_exhaust {r s : State} (h : Keeps r s) : Keeps r (State.exhaust s) := by
  unfold State.exhaust
  repeat' first
    | with_reducible assumption
    | with_reducible apply keeps_faultCode
    | with_reducible apply keeps_setObj
    | with_reducible apply keeps_bump

theorem keeps_clearRun {r s : State} (c : Nat) (h : Keeps r s) : Keeps r (State.clearRun s c) := by
  unfold State.clearRun
  repeat' first
    | with_reducible assumption
    | with_reducible apply keeps_stopOn
    | with_reducible apply keeps_updCl
    | fail_if_no_progress with_reducible apply keeps_mk

theorem keeps_clearEntry {r s : State} (p : Nat) (e : Entry) (h : Keeps r s) : Keeps r (State.clearEntry s p e) := by
  unfold State.clearEntry
  repeat' first
    | with_reducible assumption
    | with_reducible apply keeps_clearRun
    | with_reducible apply keeps_ite
    | (refine keeps_foldl _ (fun _ _ _ => ?_) _ ?_)
    | split

theorem keeps_stopEntry {r s : State} (p : Nat) (e : Entry) (h : Keeps r s) : Keeps r (State.stopEntry s p e) := by
  unfold State.stopEntry
  repeat' first
    | with_reducible assumption
    | with_reducible apply keeps_clearEntry
    | with_reducible apply keeps_updEntry
    | with_reducible apply keeps_updPt
    | with_reducible apply keeps_ite
    | split
    | fail_if_no_progress with_reducible apply keeps_mk
    | dsimp only

theorem keeps_stopForRerun {r s : State} (p : Nat) (uses : Entry → Bool) (h : Keeps r s) : Keeps r (State.stopForRerun s p uses) := by
  unfold State.stopForRerun
  repeat' first
    | with_reducible assumption
    | with_reducible apply keeps_stopEntry
    | (refine keeps_foldl _ (fun _ _ _ => ?_) _ ?_)
    | dsimp only

theorem keeps_planChanged {r s : State} (h : Keeps r s) : Keeps r (State.planChanged s) := by
  unfold State.planChanged
  repeat' first
    | with_reducible assumption
    | with_reducible apply keeps_bump

theorem keeps_sealStart {r s : State} (h : Keeps r s) : Keeps r (State.sealStart s) := by
  unfold State.sealStart
  repeat' first
    | with_reducible assumption
    | with_reducible apply keeps_emit
    | with_reducible apply keeps_ite
    | split
    | fail_if_no_progress with_reducible apply keeps_mk

theorem keeps_sealTaken {r s : State} (h : Keeps r s) : Keeps r (State.sealTaken s) := by
  unfold State.sealTaken
  repeat' first
    | with_reducible assumption
    | with_reducible apply keeps_event
    | with_reducible apply keeps_setObj
    | with_reducible apply keeps_bump
    | fail_if_no_progress with_reducible apply keeps_mk
    | dsimp only

theorem keeps_sealEnd {r s : State} (h : Keeps r s) : Keeps r (State.sealEnd s) := by
  unfold State.sealEnd
  repeat' first
    | with_reducible assumption
    | with_reducible apply keeps_setObj
    | with_reducible apply keeps_ite
    | split
    | fail_if_no_progress with_reducible apply keeps_mk

theorem keeps_dropVolatile {r s : State} (h : Keeps r s) : Keeps r (State.dropVolatile s) := by
  unfold State.dropVolatile
  refine keeps_setObj _ _ _ ?_
  refine keeps_canon (s := s) (by rfl) (by rfl) (by rfl) (fun hc => ?_) h
  rw [canon_iff] at *
  have hp := tab_wf_mapV (tab_wf_filter hc.2.2.2.2.2.2.2.2.2.1 fun (e : Nat × Part) => e.2.counted) fun _ => { counted := true }
  exact ⟨memory_wf_filter hc.1 _, tab_wf_filter hc.2.1 _, tab_wf_nil _, tab_wf_nil _, tab_wf_nil _, tab_wf_nil _, tab_wf_nil _, tab_wf_nil _,
    tab_wf_nil _, hp, by rfl⟩

theorem keeps_redraw {r s : State} (h : Keeps r s) : Keeps r s.redraw := keeps_mk h

theorem keeps_toS3 {r s : State} (h : Keeps r s) : Keeps r (State.toS3 s) := keeps_redraw (keeps_mk (keeps_dropVolatile h))

theorem keeps_noParts {r s : State} (h : Keeps r s) : Keeps r { s with parts := [] } :=
  keeps_canon (s := s) (by rfl) (by rfl) (by rfl) (fun hc => canon_parts hc fun _ => tab_wf_nil _) h

theorem keeps_toS5 {r s : State} (h : Keeps r s) : Keeps r (State.toS5 s) := keeps_mk (keeps_noParts (keeps_dropVolatile h))

theorem keeps_trip {r s : State} (cause : Nat) (h : Keeps r s) : Keeps r (State.trip s cause) := by
  unfold State.trip
  have h1 : Keeps r (if s.hasPartner then s.sealStart.sealTaken else s) := keeps_ite _ (keeps_sealTaken (keeps_sealStart h)) h
  have h2 := keeps_faultCode (asciiBytes "T" ++ digits cause) (keeps_setObj 0x4020 7 cause (keeps_toS3 h1))
  exact keeps_redraw (keeps_mk h2)

theorem keeps_sideDown {r s : State} (die : Nat) (side : Nat) (h : Keeps r s) : Keeps r (State.sideDown s die side) := by
  unfold State.sideDown
  repeat' first
    | with_reducible assumption
    | with_reducible apply keeps_updDie
    | with_reducible apply keeps_ite
    | split
    | fail_if_no_progress with_reducible apply keeps_mk

theorem keeps_renumber {r s : State} (h : Keeps r s) : Keeps r (State.renumber s) := by
  unfold State.renumber
  repeat' first
    | with_reducible assumption
    | with_reducible apply keeps_updDie
    | with_reducible apply keeps_ite
    | (refine keeps_foldl _ (fun _ _ _ => ?_) _ ?_)
    | split
    | fail_if_no_progress with_reducible apply keeps_mk
    | dsimp only

theorem keeps_redigest {r s : State} (h : Keeps r s) : Keeps r (State.redigest s) := by
  unfold State.redigest
  repeat' first
    | with_reducible assumption
    | with_reducible apply keeps_setObj

theorem keeps_geoStep {r s : State} (p : Nat) (h : Keeps r s) : Keeps r (State.geoStep s p) := by
  unfold State.geoStep
  repeat' first
    | with_reducible assumption
    | with_reducible apply keeps_event
    | with_reducible apply keeps_updPt
    | with_reducible apply keeps_setObj
    | fail_if_no_progress with_reducible apply keeps_mk
    | dsimp only

theorem keeps_geoChanged {r s : State} (h : Keeps r s) : Keeps r (State.geoChanged s) := by
  unfold State.geoChanged
  repeat' first
    | with_reducible assumption
    | with_reducible apply keeps_geoStep
    | with_reducible apply keeps_sendService
    | with_reducible apply keeps_redigest
    | with_reducible apply keeps_ite
    | (refine keeps_foldl _ (fun _ _ _ => ?_) _ ?_)
    | split
    | dsimp only

theorem keeps_padInit {r s : State} (c : Nat) (h : Keeps r s) : Keeps r (State.padInit s c) :=
  keeps_cells _ _ _ _ _ (fun k => memory_wf_filter k _) (fun k => tab_wf_clear k ..) (fun k => tab_wf_clear k ..) (fun k => tab_wf_clear k ..)
    (fun k => tab_wf_clear k ..) h

theorem keeps_stopParts {r s : State} (uses : Nat → Entry → Bool) (freeze : Bool) (h : Keeps r s) : Keeps r (s.stopParts uses freeze).1 := by
  unfold State.stopParts
  refine keeps_foldl _ (fun t p k => ?_) _ h
  dsimp only
  have h1 := keeps_stopForRerun p (fun _ => true) k
  have h2 := keeps_ite ((t.pt p).commit.any fun k => k.st == .updating || k.st == .clipping)
    (keeps_sendService 2 p ((t.pt p).groupPeers) (((t.pt p).commit.map (·.pairing)).getD 0) false 0 0 h1) h1
  repeat' first
    | with_reducible assumption
    | with_reducible apply keeps_updEntry
    | split

theorem keeps_replaceMember {r s : State} (c : Nat) (r' : Option Nat) (h : Keeps r s) : Keeps r (State.replaceMember s c r') := by
  unfold State.replaceMember
  repeat' first
    | with_reducible assumption
    | with_reducible apply keeps_updPt
    | with_reducible apply keeps_ite
    | (refine keeps_foldl _ (fun _ _ _ => ?_) _ ?_)
    | split
    | fail_if_no_progress with_reducible apply keeps_mk

theorem keeps_noteRerun {r t : State} (s : State) (ps : List Nat) (dieLoss : Bool) (h : Keeps r t) : Keeps r (t.noteRerun s ps dieLoss) :=
  keeps_foldl _ (fun _ _ k => keeps_ite _ (keeps_sendService _ _ _ _ _ _ _ k) k) _ h

theorem keeps_clusterFault {r s : State} (c : Nat) (h : Keeps r s) : Keeps r (State.clusterFault s c) := by
  have h0 := keeps_noteRerun s (s.stopParts (fun p e => s.entryUses p c e) false).2 false (keeps_stopParts (fun p e => s.entryUses p c e) false h)
  unfold State.clusterFault
  dsimp only
  split
  · exact h
  · exact h
  · exact keeps_planChanged (keeps_mk (keeps_updCl _ _ h))
  · have h1 := keeps_padInit c h0
    split
    · refine keeps_postRecord _ _ _ _ (keeps_planChanged (keeps_replaceMember _ _ (keeps_mk (keeps_updDie _ _ ?_))))
      exact keeps_updCl _ _ (keeps_padInit _ (keeps_updCl _ _ h1))
    · exact keeps_postRecord _ _ _ _ (keeps_geoChanged (keeps_exhaust (keeps_planChanged (keeps_replaceMember _ _ (keeps_mk (keeps_updCl _ _ h1))))))

theorem keeps_dieLost {r s : State} (die : Nat) (junctionOk : Bool) (cutOff : List Nat) (also : List (Nat × Nat)) (h : Keeps r s) :
    Keeps r (State.dieLost s die junctionOk cutOff also) := by
  unfold State.dieLost
  dsimp only
  refine keeps_postRecord _ _ _ _ (keeps_noteRerun _ _ _ (keeps_geoChanged (keeps_planChanged (keeps_renumber ?_))))
  refine keeps_foldl _ (fun t d k => ?_) _ (keeps_stopParts _ _ h)
  have h1 : ∀ u : State, Keeps r u → ∀ x, Keeps r (if (s.cl (d * 17 + x)).stat = .fusedOff then u
      else ((u.padInit (d * 17 + x)).updCl (d * 17 + x) fun _ => { stat := .failed, pll := false }).replaceMember (d * 17 + x) none) :=
    fun u hu x => keeps_ite _ hu (keeps_replaceMember _ _ (keeps_updCl _ _ (keeps_padInit _ hu)))
  have h2 := keeps_foldl (r := r) (fun (t : State) (k : Nat) => if (s.cl (d * 17 + k)).stat = .fusedOff then t
      else ((t.padInit (d * 17 + k)).updCl (d * 17 + k) fun _ => { stat := .failed, pll := false }).replaceMember (d * 17 + k) none) (fun t x k => h1 t k x) (List.range 17) k
  have h3 := keeps_updDie (r := r) d (fun x => { x with failed := true, treePos := none, hole := x.hole || !junctionOk || d != die,
                                                        draining := !junctionOk || d != die, resetting := junctionOk && d == die }) h2
  exact keeps_ite _ (keeps_emit _ (keeps_mk h3)) (keeps_mk h3)

theorem keeps_firmwareFails {r s : State} (c : Nat) (h : Keeps r s) : Keeps r (State.firmwareFails s c) := by
  unfold State.firmwareFails
  repeat' first
    | with_reducible assumption
    | with_reducible apply keeps_failCore
    | with_reducible apply keeps_stopOn
    | with_reducible apply keeps_updEntry
    | with_reducible apply keeps_updCl
    | with_reducible apply keeps_ite
    | (refine keeps_foldl _ (fun _ _ _ => ?_) _ ?_)
    | split
    | fail_if_no_progress with_reducible apply keeps_mk
    | dsimp only

theorem keeps_clusterFails {r s : State} (c : Nat) (h : Keeps r s) : Keeps r (State.clusterFails s c) := by
  unfold State.clusterFails
  repeat' first
    | with_reducible assumption
    | with_reducible apply keeps_dieLost
    | with_reducible apply keeps_clusterFault
    | with_reducible apply keeps_ite
    | split

theorem keeps_nameCu {r s : State} (k : Option Nat) (h : Keeps r s) : Keeps r (State.nameCu s k) := by
  unfold State.nameCu
  refine keeps_foldl _ (fun _ _ k => keeps_updLink _ _ k) _ ?_
  exact keeps_canon (s := s) (by rfl) (by rfl) (by rfl) (fun hc => canon_dies hc fun hw => tab_wf_mapV hw _) h

theorem keeps_moveMirrors {r s : State} (h' : Nat) (h : Keeps r s) : Keeps r (State.moveMirrors s h') := by
  unfold State.moveMirrors
  repeat' first
    | with_reducible assumption
    | with_reducible apply keeps_event
    | with_reducible apply keeps_updPt
    | with_reducible apply keeps_ite
    | (refine keeps_foldl _ (fun _ _ _ => ?_) _ ?_)
    | split
    | fail_if_no_progress with_reducible apply keeps_mk
    | dsimp only

theorem keeps_loseDirty {r s : State} (h' : Nat) (h : Keeps r s) : Keeps r (State.loseDirty s h') := by
  unfold State.loseDirty
  repeat' first
    | with_reducible assumption
    | with_reducible apply keeps_scramble
    | (refine keeps_foldl _ (fun _ _ _ => ?_) _ ?_)
    | dsimp only

theorem keeps_cxlLost {r s : State} (k : Nat) (h : Keeps r s) : Keeps r (s.cxlLost k) := keeps_mk h

theorem keeps_hubLost {r s : State} (k : Nat) (h : Keeps r s) : Keeps r (State.hubLost s k) := by
  have h1 := keeps_stopParts (fun _ _ => true) false h
  unfold State.hubLost
  refine keeps_ite _ h ?_
  revert h1
  generalize s.stopParts (fun _ _ => true) false = q
  intro h1
  obtain ⟨t0, ps⟩ := q
  dsimp -zeta only
  extract_lets t1 t2 t3 t4
  have h1 : Keeps r t1 := keeps_loseDirty k (keeps_emit _ (keeps_noteRerun _ _ _ h1))
  clear_value t1
  have h2 : Keeps r t2 := keeps_updHub _ _ h1
  clear_value t2
  have h3 : Keeps r t3 := keeps_foldl _ (fun _ _ k => keeps_sideDown _ _ k) _ (keeps_moveMirrors k (keeps_cxlLost k h2))
  clear_value t3
  have h4 : Keeps r t4 := keeps_ite _ (keeps_nameCu _ h3) h3
  clear_value t4
  exact keeps_postRecord _ _ _ _ (keeps_planChanged (keeps_ite _ (keeps_exhaust h4) h4))

theorem keeps_hostLost {r s : State} (h : Keeps r s) : Keeps r (State.hostLost s) := by
  unfold State.hostLost
  repeat' first
    | with_reducible assumption
    | with_reducible apply keeps_emit
    | with_reducible apply keeps_exhaust
    | with_reducible apply keeps_setObj
    | with_reducible apply keeps_event
    | with_reducible apply keeps_ite
    | (refine keeps_foldl _ (fun _ _ _ => ?_) _ ?_)
    | split
    | fail_if_no_progress with_reducible apply keeps_mk
    | dsimp only

theorem keeps_updImg {r s : State} (n : Nat) (f : ImgClass → ImgClass) (h : Keeps r s) : Keeps r (State.updImg s n f) := by
  unfold State.updImg
  repeat' first
    | with_reducible assumption
    | fail_if_no_progress with_reducible apply keeps_mk

theorem keeps_computeDomain {r s : State} (d : Nat) (h : Keeps r s) : Keeps r (State.computeDomain s d) := by
  unfold State.computeDomain
  repeat' first
    | with_reducible assumption
    | with_reducible apply keeps_stopForRerun
    | with_reducible apply keeps_padInit
    | with_reducible apply keeps_updCl
    | with_reducible apply keeps_ite
    | (refine keeps_foldl _ (fun _ _ _ => ?_) _ ?_)
    | split
    | dsimp only

theorem keeps_creditsBack {r s : State} (d : Nat) (h : Keeps r s) : Keeps r (State.creditsBack s d) := by
  unfold State.creditsBack
  refine keeps_foldl _ (fun _ _ k => keeps_updDie _ _ k) _ (keeps_foldl _ (fun _ _ k => ?_) _ h)
  split
  · exact keeps_updLink _ _ k
  · exact k

theorem keeps_fabricDomain {r s : State} (d : Nat) (h : Keeps r s) : Keeps r (State.fabricDomain s d) := by
  unfold State.fabricDomain
  repeat' first
    | with_reducible assumption
    | with_reducible apply keeps_computeDomain
    | with_reducible apply keeps_creditsBack
    | with_reducible apply keeps_updDie
    | with_reducible apply keeps_emit

theorem keeps_applyTemp {r s : State} (e : Nat × Int) (h : Keeps r s) : Keeps r (State.applyTemp s e) := by
  unfold State.applyTemp
  repeat' first
    | with_reducible assumption
    | with_reducible apply keeps_updDie
    | with_reducible apply keeps_ite
    | split
    | fail_if_no_progress with_reducible apply keeps_mk
    | dsimp only

theorem keeps_woken {r s : State} (c : Nat) (h : Keeps r s) : Keeps r (State.woken s c) := by
  unfold State.woken
  repeat' first
    | with_reducible assumption
    | with_reducible apply keeps_updCl
    | with_reducible apply keeps_bump
    | with_reducible apply keeps_ite
    | split
    | fail_if_no_progress with_reducible apply keeps_mk

theorem keeps_enterS3 {r s : State} (h : Keeps r s) : Keeps r (State.enterS3 s) := by
  unfold State.enterS3
  repeat' first
    | with_reducible assumption
    | fail_if_no_progress with_reducible apply keeps_mk

theorem keeps_asks {r s : State} (n : Nat) (h : Keeps r s) : Keeps r (State.asks s n) := by
  unfold State.asks
  repeat' first
    | with_reducible assumption
    | with_reducible apply keeps_ite
    | (refine keeps_foldl _ (fun _ _ _ => ?_) _ ?_)
    | split
    | fail_if_no_progress with_reducible apply keeps_mk
    | dsimp only

theorem keeps_waitsReq {r s : State} (n : Nat) (h : Keeps r s) : Keeps r (State.waitsReq s n) := by
  unfold State.waitsReq
  repeat' first
    | with_reducible assumption
    | with_reducible apply keeps_ite
    | (refine keeps_foldl _ (fun _ _ _ => ?_) _ ?_)
    | split
    | fail_if_no_progress with_reducible apply keeps_mk
    | dsimp only

theorem keeps_enterS2 {r s : State} (h : Keeps r s) : Keeps r (State.enterS2 s) := by
  unfold State.enterS2
  repeat' first
    | with_reducible assumption
    | with_reducible apply keeps_ite
    | (refine keeps_foldl _ (fun _ _ _ => ?_) _ ?_)
    | split
    | fail_if_no_progress with_reducible apply keeps_mk
    | dsimp only

theorem keeps_requestS2 {r s : State} (h : Keeps r s) : Keeps r (State.requestS2 s) := by
  unfold State.requestS2
  repeat' first
    | with_reducible assumption
    | with_reducible apply keeps_enterS2
    | with_reducible apply keeps_asks
    | with_reducible apply keeps_waitsReq
    | with_reducible apply keeps_ite
    | (refine keeps_foldl _ (fun _ _ _ => ?_) _ ?_)
    | split
    | fail_if_no_progress with_reducible apply keeps_mk
    | dsimp only

theorem keeps_requestWake {r s : State} (h : Keeps r s) : Keeps r (State.requestWake s) := by
  unfold State.requestWake
  repeat' first
    | with_reducible assumption
    | with_reducible apply keeps_enterS2
    | with_reducible apply keeps_waitsReq
    | with_reducible apply keeps_ite
    | (refine keeps_foldl _ (fun _ _ _ => ?_) _ ?_)
    | split
    | fail_if_no_progress with_reducible apply keeps_mk
    | dsimp only

theorem keeps_requestS3 {r s : State} (h : Keeps r s) : Keeps r (State.requestS3 s) := by
  unfold State.requestS3
  repeat' first
    | with_reducible assumption
    | with_reducible apply keeps_enterS3
    | with_reducible apply keeps_asks
    | with_reducible apply keeps_enterS2
    | with_reducible apply keeps_waitsReq
    | with_reducible apply keeps_ite
    | (refine keeps_foldl _ (fun _ _ _ => ?_) _ ?_)
    | split
    | fail_if_no_progress with_reducible apply keeps_mk
    | dsimp only

theorem keeps_nextReq {r s : State} (h : Keeps r s) : Keeps r (State.nextReq s) := by
  unfold State.nextReq
  repeat' first
    | with_reducible assumption
    | with_reducible apply keeps_requestWake
    | with_reducible apply keeps_requestS2
    | with_reducible apply keeps_requestS3
    | with_reducible apply keeps_ite
    | (refine keeps_foldl _ (fun _ _ _ => ?_) _ ?_)
    | split
    | fail_if_no_progress with_reducible apply keeps_mk
    | dsimp only

theorem keeps_execRequestS2 {r s : State} (h : Keeps r s) : KeepsR r (execRequestS2 s) := by
  unfold execRequestS2
  repeat' first
    | with_reducible assumption
    | with_reducible apply keeps_requestS2
    | with_reducible apply keepsR_next
    | with_reducible apply keepsR_fault
    | with_reducible apply keepsR_ite
    | with_reducible apply keeps_ite
    | (refine keeps_foldl _ (fun _ _ _ => ?_) _ ?_)
    | split
    | fail_if_no_progress with_reducible apply keeps_mk
    | dsimp only

theorem keeps_flushHubs {r s : State} (h : Keeps r s) : Keeps r (State.flushHubs s) :=
  keeps_canon (s := s) (by rfl) (by rfl) (by rfl) (fun hc => canon_hubs hc fun hw => tab_wf_mapV hw _) h

theorem keeps_execWakeRequest {r s : State} (h : Keeps r s) : KeepsR r (execWakeRequest s) := by
  unfold execWakeRequest
  repeat' first
    | with_reducible assumption
    | with_reducible apply keeps_requestWake
    | with_reducible apply keepsR_next
    | with_reducible apply keepsR_fault
    | with_reducible apply keepsR_ite
    | with_reducible apply keeps_ite
    | (refine keeps_foldl _ (fun _ _ _ => ?_) _ ?_)
    | split
    | fail_if_no_progress with_reducible apply keeps_mk
    | dsimp only

theorem keeps_scrubAll {r s : State} (h : Keeps r s) : Keeps r (State.scrubAll s) :=
  keeps_foldl _ (fun _ _ k => keeps_upset _ (fun k => tab_wf_put k ..) (keeps_resolveWord _ k)) _ h

theorem keeps_execRequestS3 {r s : State} (h : Keeps r s) : KeepsR r (execRequestS3 s) := by
  unfold execRequestS3
  repeat' first
    | with_reducible assumption
    | with_reducible apply keeps_requestS3
    | with_reducible apply keepsR_next
    | with_reducible apply keepsR_fault
    | with_reducible apply keepsR_ite
    | with_reducible apply keeps_ite
    | (refine keeps_foldl _ (fun _ _ _ => ?_) _ ?_)
    | split
    | fail_if_no_progress with_reducible apply keeps_mk
    | dsimp only

theorem keeps_execS3Ok {r s : State} (h : Keeps r s) : KeepsR r (execS3Ok s) := by
  unfold execS3Ok
  repeat' first
    | with_reducible assumption
    | with_reducible apply keeps_enterS3
    | with_reducible apply keeps_toS3
    | with_reducible apply keepsR_next
    | with_reducible apply keepsR_fault
    | with_reducible apply keepsR_ite
    | with_reducible apply keeps_ite
    | split

theorem keeps_bootClass {r s : State} (n : Nat) (h : Keeps r s) : Keeps r (s.bootClass n).1 := by
  unfold State.bootClass
  dsimp only
  split
  · exact h
  · split <;> exact keeps_updImg _ _ h

theorem keeps_dropTrials {r s : State} (h : Keeps r s) : Keeps r (State.dropTrials s) := by
  unfold State.dropTrials
  repeat' first
    | with_reducible assumption
    | with_reducible apply keeps_updImg
    | with_reducible apply keeps_ite
    | (refine keeps_foldl _ (fun _ _ _ => ?_) _ ?_)
    | split
    | fail_if_no_progress with_reducible apply keeps_mk

theorem keeps_proveTrials {r s : State} (h : Keeps r s) : Keeps r (State.proveTrials s) := by
  unfold State.proveTrials
  repeat' first
    | with_reducible assumption
    | with_reducible apply keeps_updImg
    | with_reducible apply keeps_ite
    | (refine keeps_foldl _ (fun _ _ _ => ?_) _ ?_)
    | split
    | fail_if_no_progress with_reducible apply keeps_mk

theorem keeps_takeCandidates {r s : State} (classes : List Nat) (h : Keeps r s) : Keeps r (State.takeCandidates s classes) := by
  unfold State.takeCandidates
  repeat' first
    | with_reducible assumption
    | with_reducible apply keeps_updImg
    | with_reducible apply keeps_ite
    | (refine keeps_foldl _ (fun _ _ _ => ?_) _ ?_)
    | split
    | fail_if_no_progress with_reducible apply keeps_mk
    | dsimp only

theorem keeps_deriveMgmt {r s : State} (h : Keeps r s) : Keeps r (State.deriveMgmt s) := by
  unfold State.deriveMgmt
  repeat' first
    | with_reducible assumption
    | with_reducible apply keeps_ite
    | split
    | fail_if_no_progress with_reducible apply keeps_mk

theorem keeps_deriveAtt {r s : State} (h : Keeps r s) : Keeps r (State.deriveAtt s) := by
  unfold State.deriveAtt
  repeat' first
    | with_reducible assumption
    | with_reducible apply keeps_ite
    | split
    | fail_if_no_progress with_reducible apply keeps_mk

theorem keeps_leafAt {r s : State} (q : Nat) (h : Keeps r s) : Keeps r (State.leafAt s q) := by
  unfold State.leafAt
  repeat' first
    | with_reducible assumption
    | with_reducible apply keeps_ite
    | (refine keeps_foldl _ (fun _ _ _ => ?_) _ ?_)
    | split
    | fail_if_no_progress with_reducible apply keeps_mk
    | dsimp only

theorem keeps_sdStart {r s : State} (h : Keeps r s) : Keeps r (State.sdStart s) := by
  unfold State.sdStart
  repeat' first
    | with_reducible assumption
    | with_reducible apply keeps_leafAt
    | with_reducible apply keeps_ite
    | (refine keeps_foldl _ (fun _ _ _ => ?_) _ ?_)
    | split
    | fail_if_no_progress with_reducible apply keeps_mk
    | dsimp only

theorem keeps_openBlock {r s : State} (h : Keeps r s) : Keeps r (State.openBlock s) := by
  unfold State.openBlock
  repeat' first
    | with_reducible assumption
    | with_reducible apply keeps_ite
    | split
    | fail_if_no_progress with_reducible apply keeps_mk

theorem keeps_certify {r s : State} (key : List Byte) (old : Option (List Byte × Nat)) (h : Keeps r s) : Keeps r (State.certify s key old).1 := by
  unfold State.certify
  split
  · exact h
  · dsimp only
    split
    · exact keeps_openBlock h
    · exact keeps_leafAt _ (keeps_openBlock h)

theorem keeps_issueMgmt {r s : State} (h : Keeps r s) : Keeps r (State.issueMgmt s) := by
  unfold State.issueMgmt
  repeat' first
    | with_reducible assumption
    | with_reducible apply keeps_deriveMgmt
    | with_reducible apply keeps_certify
    | fail_if_no_progress with_reducible apply keeps_mk
    | dsimp only

theorem keeps_issueAtt {r s : State} (h : Keeps r s) : Keeps r (State.issueAtt s) := by
  unfold State.issueAtt
  repeat' first
    | with_reducible assumption
    | with_reducible apply keeps_deriveAtt
    | with_reducible apply keeps_certify
    | fail_if_no_progress with_reducible apply keeps_mk
    | dsimp only

theorem keeps_updSess {r s : State} (n : Nat) (f : Session → Session) (h : Keeps r s) : Keeps r (State.updSess s n f) := by
  unfold State.updSess
  repeat' first
    | with_reducible assumption
    | fail_if_no_progress with_reducible apply keeps_mk

theorem keeps_execAttestationReportRead {r s : State} (sess : Nat) (h : Keeps r s) : KeepsR r (execAttestationReportRead sess s) := by
  unfold execAttestationReportRead
  repeat' first
    | with_reducible assumption
    | with_reducible apply keeps_openBlock
    | with_reducible apply keeps_leafAt
    | with_reducible apply keeps_updSess
    | with_reducible apply keepsR_next
    | with_reducible apply keepsR_fault
    | with_reducible apply keepsR_ite
    | with_reducible apply keeps_ite
    | (refine keeps_foldl _ (fun _ _ _ => ?_) _ ?_)
    | split
    | fail_if_no_progress with_reducible apply keeps_mk
    | dsimp only

theorem keeps_execReportNonceWrite {r s : State} (nonce : List Byte) (h : Keeps r s) : KeepsR r (execReportNonceWrite nonce s) := by
  unfold execReportNonceWrite
  repeat' first
    | with_reducible assumption
    | with_reducible apply keepsR_next
    | with_reducible apply keepsR_fault
    | with_reducible apply keepsR_ite
    | with_reducible apply keeps_ite
    | split
    | fail_if_no_progress with_reducible apply keeps_mk

theorem keeps_updSpdm {r s : State} (n : Nat) (f : Spdm → Spdm) (h : Keeps r s) : Keeps r (State.updSpdm s n f) := by
  unfold State.updSpdm
  repeat' first
    | with_reducible assumption
    | fail_if_no_progress with_reducible apply keeps_mk

theorem keeps_spdmSecured {r s : State} (sess code : Nat) (m : List Byte) (ok : Spdm → Bool) (f : Spdm → Spdm) (h : Keeps r s) :
    Keeps r (s.spdmSecured sess code m ok f).1 := by
  unfold State.spdmSecured
  split
  · exact h
  · split
    · exact keeps_updSpdm _ _ h
    · exact h

theorem keeps_spdmDo {r s : State} (sess req : Nat) (m : List Byte) (h : Keeps r s) : Keeps r (s.spdmDo sess req m).1 := by
  unfold State.spdmDo
  split
  · unfold State.spdmVersion; split; exacts [keeps_updSpdm _ _ h, h]
  · unfold State.spdmCapabilities; split; exacts [h, by split; exacts [h, keeps_updSpdm _ _ h]]
  · unfold State.spdmAlgorithms; split; exacts [h, by split; exacts [h, keeps_updSpdm _ _ h]]
  · exact h
  · exact h
  · exact h
  · exact h
  · unfold State.spdmKeyExchange
    split
    · exact h
    · split
      · exact h
      · split
        · exact h
        · split
          · exact keeps_updSpdm _ _ h
          · exact h
  · exact keeps_spdmSecured _ _ _ _ _ h
  · exact keeps_spdmSecured _ _ _ _ _ h
  · exact keeps_spdmSecured _ _ _ _ _ h
  · exact keeps_spdmSecured _ _ _ _ _ h
  · exact h

theorem keeps_showSess {r s : State} (h : Keeps r s) : Keeps r (State.showSess s) := by
  unfold State.showSess
  repeat' first
    | with_reducible assumption
    | with_reducible apply keeps_setObj

theorem keeps_endSess {r s : State} (n : Nat) (h : Keeps r s) : Keeps r (State.endSess s n) := by
  unfold State.endSess
  repeat' first
    | with_reducible assumption
    | with_reducible apply keeps_showSess
    | fail_if_no_progress with_reducible apply keeps_mk

theorem keeps_execDebugToken {r s : State} (obj : List Byte) (h : Keeps r s) : KeepsR r (execDebugToken obj s) := by
  unfold execDebugToken
  repeat' first
    | with_reducible assumption
    | with_reducible apply keeps_endSess
    | with_reducible apply keepsR_next
    | with_reducible apply keepsR_fault
    | with_reducible apply keepsR_ite
    | with_reducible apply keeps_updDie
    | with_reducible apply keeps_ite
    | (refine keeps_foldl _ (fun _ _ _ => ?_) _ ?_)
    | split
    | fail_if_no_progress with_reducible apply keeps_mk
    | dsimp only

theorem keeps_execAnchorUpdate {r s : State} (overBus : Bool) (obj : List Byte) (h : Keeps r s) : KeepsR r (execAnchorUpdate overBus obj s) := by
  unfold execAnchorUpdate
  repeat' first
    | with_reducible assumption
    | with_reducible apply keepsR_next
    | with_reducible apply keepsR_fault
    | with_reducible apply keepsR_ite
    | with_reducible apply keeps_ite
    | split
    | fail_if_no_progress with_reducible apply keeps_mk
    | dsimp only

theorem keeps_execRevocation {r s : State} (obj : List Byte) (h : Keeps r s) : KeepsR r (execRevocation obj s) := by
  unfold execRevocation
  repeat' first
    | with_reducible assumption
    | with_reducible apply keepsR_next
    | with_reducible apply keepsR_fault
    | with_reducible apply keepsR_ite
    | with_reducible apply keeps_ite
    | split
    | fail_if_no_progress with_reducible apply keeps_mk
    | dsimp only

theorem keeps_execCounterAdvance {r s : State} (cls : Nat) (v : Byte) (h : Keeps r s) : KeepsR r (execCounterAdvance cls v s) := by
  unfold execCounterAdvance
  repeat' first
    | with_reducible assumption
    | with_reducible apply keeps_updImg
    | with_reducible apply keepsR_next
    | with_reducible apply keepsR_fault
    | with_reducible apply keepsR_ite
    | with_reducible apply keeps_ite
    | split
    | fail_if_no_progress with_reducible apply keeps_mk
    | dsimp only

theorem keeps_execVerify {r s : State} (cls : Nat) (h : Keeps r s) : KeepsR r (execVerify cls s) := by
  unfold execVerify
  repeat' first
    | with_reducible assumption
    | with_reducible apply keeps_updImg
    | with_reducible apply keepsR_next
    | with_reducible apply keepsR_fault
    | with_reducible apply keepsR_ite
    | with_reducible apply keeps_ite
    | split
    | fail_if_no_progress with_reducible apply keeps_mk

theorem keeps_execActivate {r s : State} (cls : Nat) (h : Keeps r s) : KeepsR r (execActivate cls s) := by
  unfold execActivate
  repeat' first
    | with_reducible assumption
    | with_reducible apply keeps_updImg
    | with_reducible apply keepsR_next
    | with_reducible apply keepsR_fault
    | with_reducible apply keepsR_ite
    | with_reducible apply keeps_ite
    | split
    | fail_if_no_progress with_reducible apply keeps_mk

theorem keeps_execAbandon {r s : State} (cls : Nat) (h : Keeps r s) : KeepsR r (execAbandon cls s) := by
  unfold execAbandon
  repeat' first
    | with_reducible assumption
    | with_reducible apply keeps_updImg
    | with_reducible apply keepsR_next
    | with_reducible apply keepsR_fault
    | with_reducible apply keepsR_ite
    | fail_if_no_progress with_reducible apply keeps_mk
    | dsimp only

theorem keeps_bootStop {r s : State} (k : Nat) (h : Keeps r s) : Keeps r (State.bootStop s k) := by
  unfold State.bootStop
  repeat' first
    | with_reducible assumption
    | with_reducible apply keeps_faultCode
    | fail_if_no_progress with_reducible apply keeps_mk

theorem keeps_bootOn {r s : State} (h : Keeps r s) : Keeps r (State.bootOn s) := by
  have h1 : Keeps r { s with power := { s.power with st := .s0, charged := true, tripped := false },
                             boot := { s.boot with stage := .charged, stop := 0, report := none, hostPrimary := s.cfg 0x2111 1, reachedL2 := false },
                             sec := { s.sec with boots := s.sec.boots + 1, lifecycle := max s.sec.lifecycle (min 2 (Config.lifecycleFuses (s.sec.boots + 1))) },
                             plate := { s.plate with attention := 0, faulted := false } } := keeps_mk h
  have h2 := keeps_takeCandidates (List.range 6) (keeps_dropTrials (keeps_sdStart h1))
  unfold State.bootOn
  exact keeps_mk h2

theorem keeps_bootStart {r s : State} (h : Keeps r s) : Keeps r (State.bootStart s) := by
  have h1 := keeps_bootClass 0 (keeps_bootOn h)
  unfold State.bootStart
  dsimp only
  exact keeps_ite _ h1 (keeps_bootStop _ h1)

theorem keeps_execS3Wake {r s : State} (h : Keeps r s) : KeepsR r (execS3Wake s) := by
  unfold execS3Wake
  repeat' first
    | with_reducible assumption
    | with_reducible apply keeps_bootStart
    | with_reducible apply keepsR_next
    | with_reducible apply keepsR_fault
    | with_reducible apply keepsR_ite
    | with_reducible apply keeps_ite
    | split
    | fail_if_no_progress with_reducible apply keeps_mk

theorem keeps_scanDie {r s : State} (v : Byte) (d : Nat) (f : DieFuses) (h : Keeps r s) : Keeps r (State.scanDie s v d f) := by
  unfold State.scanDie
  repeat' first
    | with_reducible assumption
    | with_reducible apply keeps_updCl
    | with_reducible apply keeps_updDie
    | with_reducible apply keeps_ite
    | (refine keeps_foldl _ (fun _ _ _ => ?_) _ ?_)
    | split
    | dsimp only

theorem keeps_scanPorts {r s : State} (v : Byte) (h : Keeps r s) : Keeps r (State.scanPorts s v) := by
  unfold State.scanPorts
  repeat' first
    | with_reducible assumption
    | with_reducible apply keeps_updPort
    | with_reducible apply keeps_ite
    | (refine keeps_foldl _ (fun _ _ _ => ?_) _ ?_)
    | split

theorem keeps_scanAll {r s : State} (r' : FuseReport) (h : Keeps r s) : Keeps r (State.scanAll s r') := by
  unfold State.scanAll
  repeat' first
    | with_reducible assumption
    | with_reducible apply keeps_scanDie
    | with_reducible apply keeps_scanPorts
    | with_reducible apply keeps_setObj
    | (refine keeps_foldl _ (fun _ _ _ => ?_) _ ?_)

theorem keeps_zeroStack {r s : State} (m lo hi : Nat) (h : Keeps r s) : Keeps r (State.zeroStack s m lo hi) :=
  keeps_bump _ _ _ (keeps_cells _ _ _ s.marks s.watched (fun k => memory_wf_filter k _) (fun k => tab_wf_filter k _) (fun k => tab_wf_filter k _) id id h)

theorem keeps_markDeadDies {r s : State} (h : Keeps r s) : Keeps r (State.markDeadDies s) := by
  unfold State.markDeadDies
  repeat' first
    | with_reducible assumption
    | with_reducible apply keeps_updDie
    | with_reducible apply keeps_ite
    | (refine keeps_foldl _ (fun _ _ _ => ?_) _ ?_)
    | split
    | fail_if_no_progress with_reducible apply keeps_mk
    | dsimp only

theorem keeps_formHolds {r s : State} (h : Keeps r s) : Keeps r (State.formHolds s) := by
  unfold State.formHolds
  repeat' first
    | with_reducible assumption
    | with_reducible apply keeps_updPt
    | with_reducible apply keeps_ite
    | (refine keeps_foldl _ (fun _ _ _ => ?_) _ ?_)
    | split
    | fail_if_no_progress with_reducible apply keeps_mk
    | dsimp only

theorem keeps_wakeReserve {r s : State} (d : Nat) (h : Keeps r s) : Keeps r (State.wakeReserve s d) := by
  unfold State.wakeReserve
  repeat' first
    | with_reducible assumption
    | with_reducible apply keeps_updCl
    | with_reducible apply keeps_updDie
    | with_reducible apply keeps_ite
    | (refine keeps_foldl _ (fun _ _ _ => ?_) _ ?_)
    | split
    | fail_if_no_progress with_reducible apply keeps_mk
    | dsimp only

theorem keeps_wakeReserves {r s : State} (h : Keeps r s) : Keeps r (State.wakeReserves s) := by
  unfold State.wakeReserves
  repeat' first
    | with_reducible assumption
    | with_reducible apply keeps_wakeReserve
    | with_reducible apply keeps_ite
    | (refine keeps_foldl _ (fun _ _ _ => ?_) _ ?_)
    | split
    | dsimp only

theorem keeps_dieRoleAssign {r s : State} (d : Nat) (pos : Nat) (h : Keeps r s) : Keeps r (State.dieRoleAssign s d pos) := by
  unfold State.dieRoleAssign
  repeat' first
    | with_reducible assumption
    | with_reducible apply keeps_updCl
    | with_reducible apply keeps_updDie
    | with_reducible apply keeps_ite
    | (refine keeps_foldl _ (fun _ _ _ => ?_) _ ?_)
    | split
    | fail_if_no_progress with_reducible apply keeps_mk
    | dsimp only

theorem keeps_assignRoles {r s : State} (h : Keeps r s) : Keeps r (State.assignRoles s) := by
  unfold State.assignRoles
  repeat' first
    | with_reducible assumption
    | with_reducible apply keeps_renumber
    | with_reducible apply keeps_dieRoleAssign
    | (refine keeps_foldl _ (fun _ _ _ => ?_) _ ?_)
    | split
    | dsimp only

theorem keeps_restoreLedger {r s : State} (h : Keeps r s) : Keeps r (State.restoreLedger s) := by
  unfold State.restoreLedger
  repeat' first
    | with_reducible assumption
    | with_reducible apply keeps_event
    | with_reducible apply keeps_updPt
    | with_reducible apply keeps_setObj
    | with_reducible apply keeps_ite
    | (refine keeps_foldl _ (fun _ _ _ => ?_) _ ?_)
    | split
    | fail_if_no_progress with_reducible apply keeps_mk
    | dsimp only

theorem keeps_execClearFailureMarks {r s : State} (h : Keeps r s) : KeepsR r (execClearFailureMarks s) := by
  unfold execClearFailureMarks
  repeat' first
    | with_reducible assumption
    | with_reducible apply keepsR_next
    | with_reducible apply keepsR_fault
    | with_reducible apply keepsR_ite
    | fail_if_no_progress with_reducible apply keeps_mk

theorem keeps_portDown {r s : State} (p : Nat) (h : Keeps r s) : Keeps r (State.portDown s p) := by
  unfold State.portDown
  repeat' first
    | with_reducible assumption
    | with_reducible apply keeps_updPort
    | with_reducible apply keeps_emit
    | with_reducible apply keeps_ite
    | (refine keeps_foldl _ (fun _ _ _ => ?_) _ ?_)
    | split
    | fail_if_no_progress with_reducible apply keeps_mk
    | dsimp only

theorem keeps_sendFlit {r s : State} (p : Nat) (nak : Bool) (idle : Bool) (credits : List Nat) (payload : List Byte) (start : Nat) (h : Keeps r s) : Keeps r (State.sendFlit s p nak idle credits payload start) := by
  unfold State.sendFlit
  repeat' first
    | with_reducible assumption
    | with_reducible apply keeps_updPort
    | with_reducible apply keeps_emit
    | with_reducible apply keeps_ite
    | split
    | fail_if_no_progress with_reducible apply keeps_mk
    | dsimp only

theorem keeps_pump {r : State} (p : Nat) : ∀ (f : Nat) {s : State}, Keeps r s → Keeps r (State.pump p f s)
  | 0, _, h => h
  | f + 1, s, h => by
    unfold State.pump
    exact keeps_ite _ h (keeps_pump p f (keeps_updPort _ _ (keeps_sendFlit _ _ _ _ _ _ h)))

theorem keeps_stream {r s : State} (q : Nat) (p : Packet) (h : Keeps r s) : Keeps r (State.stream s q p) :=
  keeps_pump _ _ (keeps_updPort _ _ h)

theorem keeps_flitAcked {r s : State} (p : Nat) (ack : Nat) (nak : Bool) (h : Keeps r s) : Keeps r (State.flitAcked s p ack nak) := by
  unfold State.flitAcked
  repeat' first
    | with_reducible assumption
    | with_reducible apply keeps_updPort
    | with_reducible apply keeps_emit
    | with_reducible apply keeps_bump
    | with_reducible apply keeps_ite
    | (refine keeps_foldl _ (fun _ _ _ => ?_) _ ?_)
    | split
    | fail_if_no_progress with_reducible apply keeps_mk
    | dsimp only

theorem keeps_linkWait {r s : State} (l : Nat) (p : Packet) (h : Keeps r s) : Keeps r (State.linkWait s l p) := by
  unfold State.linkWait
  repeat' first
    | with_reducible assumption
    | with_reducible apply keeps_updLink
    | with_reducible apply keeps_ite
    | split
    | fail_if_no_progress with_reducible apply keeps_mk

theorem keeps_linkLeaves {r s : State} (l : Nat) (p : Packet) (h : Keeps r s) : Keeps r (State.linkLeaves s l p) := by
  unfold State.linkLeaves
  repeat' first
    | with_reducible assumption
    | with_reducible apply keeps_updLink
    | with_reducible apply keeps_updDie
    | with_reducible apply keeps_updPort
    | with_reducible apply keeps_ite
    | (refine keeps_foldl _ (fun _ _ _ => ?_) _ ?_)
    | split
    | fail_if_no_progress with_reducible apply keeps_mk
    | dsimp only

theorem keeps_linkOut {r s : State} (l : Nat) (q : Nat) (p : Packet) (h : Keeps r s) : Keeps r (State.linkOut s l q p) := by
  unfold State.linkOut
  repeat' first
    | with_reducible assumption
    | with_reducible apply keeps_linkWait
    | with_reducible apply keeps_linkLeaves
    | with_reducible apply keeps_updPort
    | with_reducible apply keeps_emit
    | with_reducible apply keeps_stream
    | with_reducible apply keeps_ite
    | (refine keeps_foldl _ (fun _ _ _ => ?_) _ ?_)
    | split
    | fail_if_no_progress with_reducible apply keeps_mk
    | dsimp only

theorem keeps_creditFlit {r s : State} (q : Nat) (nak : Bool) (h : Keeps r s) : Keeps r (State.creditFlit s q nak) := by
  unfold State.creditFlit
  repeat' first
    | with_reducible assumption
    | with_reducible apply keeps_updPort
    | with_reducible apply keeps_sendFlit
    | with_reducible apply keeps_nak
    | with_reducible apply keeps_ite
    | (refine keeps_foldl _ (fun _ _ _ => ?_) _ ?_)
    | split
    | fail_if_no_progress with_reducible apply keeps_mk
    | dsimp only

theorem keeps_returnCredits {r s : State} (l : Nat) (h : Keeps r s) : Keeps r (State.returnCredits s l) := by
  unfold State.returnCredits
  repeat' first
    | with_reducible assumption
    | with_reducible apply keeps_creditFlit
    | with_reducible apply keeps_ite
    | (refine keeps_foldl _ (fun _ _ _ => ?_) _ ?_)
    | split
    | fail_if_no_progress with_reducible apply keeps_mk
    | dsimp only

theorem keeps_linkInto {r s : State} (l : Nat) (p : Packet) (h : Keeps r s) : Keeps r (State.linkInto s l p) := by
  unfold State.linkInto
  repeat' first
    | with_reducible assumption
    | with_reducible apply keeps_linkWait
    | with_reducible apply keeps_linkLeaves
    | with_reducible apply keeps_drawn
    | with_reducible apply keeps_updLink
    | with_reducible apply keeps_updDie
    | with_reducible apply keeps_emit
    | with_reducible apply keeps_ite
    | (refine keeps_foldl _ (fun _ _ _ => ?_) _ ?_)
    | split
    | fail_if_no_progress with_reducible apply keeps_mk
    | dsimp only

theorem keeps_linkSend {r s : State} (l : Nat) (q : Nat) (p : Packet) (h : Keeps r s) : Keeps r (State.linkSend s l q p) := by
  unfold State.linkSend
  repeat' first
    | with_reducible assumption
    | with_reducible apply keeps_linkOut
    | with_reducible apply keeps_linkInto
    | with_reducible apply keeps_ite
    | (refine keeps_foldl _ (fun _ _ _ => ?_) _ ?_)
    | split
    | fail_if_no_progress with_reducible apply keeps_mk
    | dsimp only

theorem keeps_linkForward {r s : State} (l : Nat) (p : Packet) (h : Keeps r s) : Keeps r (State.linkForward s l p) := by
  unfold State.linkForward
  repeat' first
    | with_reducible assumption
    | with_reducible apply keeps_linkLeaves
    | with_reducible apply keeps_bump
    | with_reducible apply keeps_stopForRerun
    | with_reducible apply keeps_linkWait
    | with_reducible apply keeps_linkInto
    | with_reducible apply keeps_linkSend
    | with_reducible apply keeps_ite
    | (refine keeps_foldl _ (fun _ _ _ => ?_) _ ?_)
    | split
    | fail_if_no_progress with_reducible apply keeps_mk
    | dsimp only

theorem keeps_linkTranslate {r s : State} (l : Nat) (p : Packet) (h : Keeps r s) : Keeps r (State.linkTranslate s l p) := by
  unfold State.linkTranslate
  repeat' first
    | with_reducible assumption
    | with_reducible apply keeps_walked
    | with_reducible apply keeps_updPort
    | with_reducible apply keeps_linkForward
    | with_reducible apply keeps_linkWait
    | with_reducible apply keeps_linkLeaves
    | with_reducible apply keeps_emit
    | with_reducible apply keeps_ite
    | (refine keeps_foldl _ (fun _ _ _ => ?_) _ ?_)
    | split
    | fail_if_no_progress with_reducible apply keeps_mk
    | dsimp only

theorem keeps_linkReceive {r s : State} (q : Nat) (p : Packet) (h : Keeps r s) : Keeps r (State.linkReceive s q p) := by
  unfold State.linkReceive
  repeat' first
    | with_reducible assumption
    | with_reducible apply keeps_linkForward
    | with_reducible apply keeps_linkTranslate
    | with_reducible apply keeps_linkLeaves
    | with_reducible apply keeps_emit
    | with_reducible apply keeps_ite
    | (refine keeps_foldl _ (fun _ _ _ => ?_) _ ?_)
    | split
    | fail_if_no_progress with_reducible apply keeps_mk
    | dsimp only

theorem keeps_sendIdentity {r s : State} (p : Nat) (h : Keeps r s) : Keeps r (State.sendIdentity s p) := by
  unfold State.sendIdentity
  repeat' first
    | with_reducible assumption
    | with_reducible apply keeps_emit
    | with_reducible apply keeps_ite
    | split

theorem keeps_laneFails {r s : State} (p : Nat) (lane : Nat) (h : Keeps r s) : Keeps r (State.laneFails s p lane) := by
  unfold State.laneFails
  repeat' first
    | with_reducible assumption
    | with_reducible apply keeps_portDown
    | with_reducible apply keeps_exhaust
    | with_reducible apply keeps_updPort
    | with_reducible apply keeps_ite
    | split
    | fail_if_no_progress with_reducible apply keeps_mk
    | dsimp only

theorem keeps_leaves {r s : State} (d : Nat) (p : Packet) (h : Keeps r s) : Keeps r (State.leaves s d p) := by
  unfold State.leaves
  repeat' first
    | with_reducible assumption
    | with_reducible apply keeps_updDie
    | with_reducible apply keeps_updLink
    | with_reducible apply keeps_ite
    | (refine keeps_foldl _ (fun _ _ _ => ?_) _ ?_)
    | split
    | fail_if_no_progress with_reducible apply keeps_mk
    | dsimp only

theorem keeps_waitsAt {r s : State} (d : Nat) (p : Packet) (h : Keeps r s) : Keeps r (State.waitsAt s d p) := by
  unfold State.waitsAt
  repeat' first
    | with_reducible assumption
    | with_reducible apply keeps_updDie
    | with_reducible apply keeps_ite
    | split
    | fail_if_no_progress with_reducible apply keeps_mk

theorem keeps_crosses {r s : State} (d : Nat) (dir : Nat) (p : Packet) (q : Packet) (h : Keeps r s) : Keeps r (State.crosses s d dir p q) := by
  unfold State.crosses
  repeat' first
    | with_reducible assumption
    | with_reducible apply keeps_waitsAt
    | with_reducible apply keeps_leaves
    | with_reducible apply keeps_updDie
    | with_reducible apply keeps_emit
    | with_reducible apply keeps_ite
    | split
    | fail_if_no_progress with_reducible apply keeps_mk
    | dsimp only

theorem keeps_escapeForward {r s : State} (d : Nat) (b : Nat) (p : Packet) (h : Keeps r s) : Keeps r (State.escapeForward s d b p) := by
  unfold State.escapeForward
  split
  · exact keeps_crosses _ _ _ _ h
  · exact keeps_waitsAt _ _ h

theorem keeps_goesOut {r s : State} (d : Nat) (port : Nat) (p : Packet) (h : Keeps r s) : Keeps r (State.goesOut s d port p) := by
  unfold State.goesOut
  repeat' first
    | with_reducible assumption
    | with_reducible apply keeps_leaves
    | with_reducible apply keeps_emit
    | with_reducible apply keeps_waitsAt
    | with_reducible apply keeps_updDie
    | with_reducible apply keeps_updLink
    | with_reducible apply keeps_ite
    | (refine keeps_foldl _ (fun _ _ _ => ?_) _ ?_)
    | split
    | fail_if_no_progress with_reducible apply keeps_mk
    | dsimp only

theorem keeps_junctionForward {r s : State} (d : Nat) (p : Packet) (h : Keeps r s) : Keeps r (State.junctionForward s d p) := by
  unfold State.junctionForward
  repeat' first
    | with_reducible assumption
    | with_reducible apply keeps_leaves
    | with_reducible apply keeps_bump
    | with_reducible apply keeps_dieLost
    | with_reducible apply keeps_waitsAt
    | with_reducible apply keeps_emit
    | with_reducible apply keeps_woken
    | with_reducible apply keeps_goesOut
    | with_reducible apply keeps_escapeForward
    | with_reducible apply keeps_crosses
    | with_reducible apply keeps_ite
    | (refine keeps_foldl _ (fun _ _ _ => ?_) _ ?_)
    | split
    | fail_if_no_progress with_reducible apply keeps_mk
    | dsimp only

theorem keeps_redLand {r s : State} (part : Nat) (coll : Nat) (block : Nat) (payload : List Byte) (h : Keeps r s) : Keeps r (State.redLand s part coll block payload) := by
  unfold State.redLand
  repeat' first
    | with_reducible assumption
    | with_reducible apply keeps_send
    | split
    | fail_if_no_progress with_reducible apply keeps_mk
    | dsimp only

theorem keeps_redTo {r s : State} (l : Nat) (part : Nat) (ty : Nat) (cls : Nat) (block : Nat) (coll : Nat) (m : Nat) (e : FEntry) (payload : List Byte) (h : Keeps r s) : Keeps r (State.redTo s l part ty cls block coll m e payload) := by
  unfold State.redTo
  repeat' first
    | with_reducible assumption
    | with_reducible apply keeps_linkSend
    | with_reducible apply keeps_ite
    | (refine keeps_foldl _ (fun _ _ _ => ?_) _ ?_)
    | split
    | fail_if_no_progress with_reducible apply keeps_mk
    | dsimp only

theorem keeps_updPlate {r s : State} (f : Plate → Plate) (h : Keeps r s) : Keeps r (State.updPlate s f) := by
  unfold State.updPlate
  repeat' first
    | with_reducible assumption
    | fail_if_no_progress with_reducible apply keeps_mk

theorem keeps_drainSeal {r s : State} (h : Keeps r s) : Keeps r (State.drainSeal s) := by
  unfold State.drainSeal
  repeat' first
    | with_reducible assumption
    | with_reducible apply keeps_updPlate
    | with_reducible apply keeps_stopForRerun
    | with_reducible apply keeps_enterS3
    | with_reducible apply keeps_sealStart
    | with_reducible apply keeps_ite
    | (refine keeps_foldl _ (fun _ _ _ => ?_) _ ?_)
    | split
    | fail_if_no_progress with_reducible apply keeps_mk
    | dsimp only

theorem keeps_setLatch {r s : State} (conn : Nat) (v : Nat) (h : Keeps r s) : Keeps r (State.setLatch s conn v) := by
  unfold State.setLatch
  repeat' first
    | with_reducible assumption
    | with_reducible apply keeps_updPlate
    | fail_if_no_progress with_reducible apply keeps_mk

theorem keeps_cleanCxl {r s : State} (x : Nat) (h : Keeps r s) : Keeps r (State.cleanCxl s x) := by
  unfold State.cleanCxl
  repeat' first
    | with_reducible assumption
    | with_reducible apply keeps_updHub
    | with_reducible apply keeps_ite
    | split
    | fail_if_no_progress with_reducible apply keeps_mk

theorem keeps_retrainConn {r s : State} (conn : Nat) (h : Keeps r s) : Keeps r (State.retrainConn s conn) := by
  unfold State.retrainConn
  repeat' first
    | with_reducible assumption
    | with_reducible apply keeps_updPort
    | with_reducible apply keeps_ite
    | (refine keeps_foldl _ (fun _ _ _ => ?_) _ ?_)
    | split
    | fail_if_no_progress with_reducible apply keeps_mk

theorem keeps_execClearFaultCode {r s : State} (h : Keeps r s) : KeepsR r (execClearFaultCode s) := by
  unfold execClearFaultCode
  repeat' first
    | with_reducible assumption
    | with_reducible apply keeps_updPlate
    | with_reducible apply keepsR_next
    | with_reducible apply keepsR_fault
    | with_reducible apply keepsR_ite
    | fail_if_no_progress with_reducible apply keeps_mk

theorem keeps_applyModes {r s : State} (h : Keeps r s) : Keeps r (State.applyModes s) := by
  unfold State.applyModes
  repeat' first
    | with_reducible assumption
    | with_reducible apply keeps_updPort
    | with_reducible apply keeps_ite
    | (refine keeps_foldl _ (fun _ _ _ => ?_) _ ?_)
    | split
    | fail_if_no_progress with_reducible apply keeps_mk

theorem keeps_hubsMap {r s : State} (f : Hub → Hub) (h : Keeps r s) : Keeps r { s with hubs := Tab.mapV s.hubs {} f } :=
  keeps_canon (s := s) (by rfl) (by rfl) (by rfl) (fun hc => canon_hubs hc fun hw => tab_wf_mapV hw _) h

theorem keeps_swapNow {r s : State} (h0 : Keeps r s) : Keeps r (State.swapNow s) := by
  have h : Keeps r (s.setObj 0x1800 6 s.freeW.toNat).drawn := keeps_drawn (keeps_setObj _ _ _ h0)
  unfold State.swapNow
  exact keeps_ite _ (keeps_foldl _ (fun _ _ k => keeps_endSess _ k) _ (keeps_hubsMap _ (keeps_applyModes (keeps_mk h)))) (keeps_hubsMap _ (keeps_applyModes (keeps_mk h)))

theorem keeps_swapAsk {r s : State} (h : Keeps r s) : Keeps r (State.swapAsk s) := by
  unfold State.swapAsk
  repeat' first
    | with_reducible assumption
    | with_reducible apply keeps_swapNow
    | with_reducible apply keeps_ite
    | split
    | fail_if_no_progress with_reducible apply keeps_mk

theorem keeps_setCopyNow {r s : State} (h : Keeps r s) : Keeps r (State.setCopyNow s) := by
  unfold State.setCopyNow
  repeat' first
    | with_reducible assumption
    | fail_if_no_progress with_reducible apply keeps_mk

theorem keeps_swapEnd {r s : State} (result : Nat) (h : Keeps r s) : Keeps r (State.swapEnd s result) := by
  unfold State.swapEnd
  repeat' first
    | with_reducible assumption
    | fail_if_no_progress with_reducible apply keeps_mk

theorem keeps_execSetCancel {r s : State} (h : Keeps r s) : KeepsR r (execSetCancel s) := by
  unfold execSetCancel
  repeat' first
    | with_reducible assumption
    | with_reducible apply keeps_swapEnd
    | with_reducible apply keepsR_next
    | with_reducible apply keepsR_fault
    | with_reducible apply keepsR_ite
    | with_reducible apply keeps_ite
    | split

theorem keeps_stateOf {r s : State} (x : Res) (hx : KeepsR r x) (h : Keeps r s) : Keeps r (stateOf x s) := by
  unfold stateOf
  split
  · exact hx _ rfl
  · exact h

theorem keeps_orRefuse {r s t u : State} (h : Keeps r t) (hu : orRefuse s t = .ok u) : Keeps r u := by
  unfold orRefuse at hu
  split at hu
  · cases hu
  · cases hu; exact h

theorem keeps_putVal {r s t : State} (o : ObjRow) (idx sub v : Nat) (h : Keeps r s) (ht : s.putVal o idx sub v = .ok t) : Keeps r t := by
  unfold State.putVal at ht
  have ok {a b : State} (ha : Keeps r a) (hb : (Except.ok a : Except Byte State) = .ok b) : Keeps r b := by cases hb; exact ha
  split at ht
  · exact ok (keeps_mk h) ht
  · split at ht
    · split at ht
      · cases ht
      · refine ok ?_ ht
        split
        · exact keeps_swapAsk h
        · exact keeps_setCopyNow h
        · exact keeps_stateOf _ (keeps_execSetCancel h) h
    · split at ht
      · split at ht
        · exact keeps_orRefuse (keeps_stateOf _ (keeps_execS3Wake h) h) ht
        · exact ok (keeps_stateOf _ (keeps_execWakeRequest h) h) ht
      · split at ht
        · exact ok (keeps_stateOf _ (keeps_execRequestS2 h) h) ht
        · cases ht
      · split at ht
        · cases ht
        · exact ok (keeps_stateOf _ (keeps_execRequestS3 h) h) ht
      · exact ok (keeps_asks _ h) ht
    · exact ok (keeps_mk h) ht
    · exact ok (keeps_ite _ (keeps_stateOf _ (keeps_execClearFailureMarks h) h) h) ht
    · exact ok (keeps_ite _ (keeps_stateOf _ (keeps_execClearFaultCode h) h) h) ht
    · exact ok (keeps_stateOf _ (keeps_execCounterAdvance _ _ h) h) ht
    · split at ht
      · dsimp only at ht
        split at ht
        · exact keeps_orRefuse (keeps_stateOf _ (keeps_execVerify _ h) h) ht
        · exact keeps_orRefuse (keeps_stateOf _ (keeps_execActivate _ h) h) ht
        · exact ok (keeps_stateOf _ (keeps_execAbandon _ h) h) ht
      · exact ok (keeps_setObj _ _ _ h) ht

theorem keeps_putOcts {r s t : State} (bus : Bool) (o : ObjRow) (idx sub : Nat) (v : List Byte) (h : Keeps r s)
    (ht : s.putOcts bus o idx sub v = .ok t) : Keeps r t := by
  unfold State.putOcts at ht
  have ok {a b : State} (ha : Keeps r a) (hb : (Except.ok a : Except Byte State) = .ok b) : Keeps r b := by cases hb; exact ha
  split at ht
  · cases ht
  · split at ht
    · exact keeps_orRefuse (keeps_stateOf _ (keeps_execAnchorUpdate _ _ h) h) ht
    · exact keeps_orRefuse (keeps_stateOf _ (keeps_execDebugToken _ h) h) ht
    · split at ht
      · exact ok (keeps_stateOf _ (keeps_execReportNonceWrite _ h) h) ht
      · cases ht
    · exact keeps_orRefuse (keeps_stateOf _ (keeps_execRevocation _ h) h) ht
    · split at ht
      · exact ok (keeps_mk h) ht
      · cases ht
    · dsimp only at ht
      split at ht
      · exact ok (keeps_updImg _ _ (keeps_mk h)) ht
      · exact ok (keeps_mk h) ht

theorem keeps_putBytes {r s t : State} (bus : Bool) (o : ObjRow) (idx sub : Nat) (bs : List Byte) (h : Keeps r s)
    (ht : s.putBytes bus o idx sub bs = .ok t) : Keeps r t := by
  unfold State.putBytes at ht
  split at ht
  · exact keeps_putOcts _ _ _ _ _ h ht
  · exact keeps_putOcts _ _ _ _ _ h ht
  · split at ht
    · cases ht
    · split at ht
      · cases ht
      · split at ht
        · cases ht
        · exact keeps_putVal _ _ _ _ h ht

theorem keeps_segRead {r s : State} (sess : Nat) (u : MdpUnit) (o : ObjRow) (h : Keeps r s) : Keeps r (s.segRead sess u o).1 := by
  have h1 := keeps_stateOf _ (keeps_execAttestationReportRead sess h) h
  unfold State.segRead
  dsimp only
  repeat' first
    | with_reducible assumption
    | with_reducible exact keeps_updSess _ _ h
    | with_reducible exact keeps_updSess _ _ h1
    | with_reducible exact keeps_updSess _ _ (keeps_drawn h)
    | split

theorem keeps_doRead {r s : State} (sess : Nat) (u : MdpUnit) (h : Keeps r s) : Keeps r (s.doRead sess u).1 := by
  unfold State.doRead
  dsimp only
  repeat' first
    | with_reducible assumption
    | with_reducible exact keeps_segRead _ _ _ h
    | with_reducible exact keeps_drawn h
    | split

theorem keeps_putClaim {r s : State} (key : Nat) (k : Option Claim) (h : Keeps r s) : Keeps r (State.putClaim s key k) := by
  unfold State.putClaim
  repeat' first
    | with_reducible assumption
    | fail_if_no_progress with_reducible apply keeps_mk

theorem keeps_segWrite {r s : State} (sess : Nat) (u : MdpUnit) (o : ObjRow) (h : Keeps r s) : Keeps r (s.segWrite sess u o).1 := by
  unfold State.segWrite
  extract_lets idx key image have' data touched
  have h1 : Keeps r touched := keeps_ite _ (keeps_updImg _ _ h) h
  clear_value touched
  split
  · exact h
  · split
    · exact keeps_putClaim _ _ h
    · split
      · exact keeps_putClaim _ _ h1
      · split
        · exact keeps_putClaim _ _ h
        · rename_i t ht
          exact keeps_putClaim _ _ (keeps_putBytes _ _ _ _ _ h1 ht)

theorem keeps_doWrite {r s : State} (sess : Nat) (u : MdpUnit) (h : Keeps r s) : Keeps r (s.doWrite sess u).1 := by
  unfold State.doWrite
  split
  · exact h
  · dsimp only
    split
    · exact h
    · split
      · exact h
      · split
        · split
          · exact keeps_segWrite _ _ _ h
          · exact h
        · split
          · exact h
          · rename_i t ht
            exact keeps_ite _ (keeps_putClaim _ _ (keeps_putBytes _ _ _ _ _ h ht)) (keeps_putBytes _ _ _ _ _ h ht)

theorem keeps_doAbort {r s : State} (sess : Nat) (u : MdpUnit) (h : Keeps r s) : Keeps r (s.doAbort sess u).1 := by
  unfold State.doAbort
  split
  · exact h
  · exact keeps_ite _ (keeps_updSess _ _ (keeps_mk h)) (keeps_mk h)

theorem keeps_doNop {r s : State} (u : MdpUnit) (h : Keeps r s) : Keeps r (s.doNop u).1 := h

theorem keeps_answerMdp {r s : State} (addr : Byte) (sess : Nat) (u : MdpUnit) (h : Keeps r s) : Keeps r (State.answerMdp s addr sess u) := by
  unfold State.answerMdp
  repeat' first
    | with_reducible assumption
    | with_reducible apply keeps_emit
    | with_reducible apply keeps_ite
    | split
    | dsimp only

theorem keeps_request {r s : State} (sess op : Nat) (u : MdpUnit) (f : State → State × Reply) (hf : ∀ t, Keeps r t → Keeps r (f t).1) (h : Keeps r s) :
    Keeps r (s.request sess op u f) := by
  unfold State.request
  dsimp only
  split
  · exact keeps_ite _ (keeps_answerMdp _ _ _ h) (keeps_answerMdp _ _ _ (keeps_bump _ _ _ (keeps_bump _ _ _ h)))
  · have h1 : Keeps r ((if badUnit sess op u then (s, { res := rcMalformed }) else f s) : State × Reply).1 := by
      split
      · exact h
      · exact hf _ h
    refine keeps_answerMdp _ _ _ ?_
    repeat' first
      | with_reducible assumption
      | with_reducible apply keeps_ite
      | with_reducible apply keeps_updSess
      | with_reducible apply keeps_bump

theorem keeps_doSpdm {r s : State} (sess req : Nat) (u : MdpUnit) (h : Keeps r s) : Keeps r (s.doSpdm sess req u).1 := by
  unfold State.doSpdm
  split
  · exact h
  · exact keeps_spdmDo _ _ _ h

theorem keeps_doOp {r s : State} (sess : Nat) (op : Nat) (u : MdpUnit) (h : Keeps r s) : Keeps r (State.doOp s sess op u).1 := by
  unfold State.doOp
  repeat' first
    | with_reducible assumption
    | with_reducible apply keeps_doRead
    | with_reducible apply keeps_doWrite
    | with_reducible apply keeps_doAbort
    | with_reducible apply keeps_doNop
    | with_reducible apply keeps_doSpdm
    | split

theorem keeps_serveMdp {r s : State} (path : MdpPath) (op : Nat) (u : MdpUnit) (h : Keeps r s) : Keeps r (State.serveMdp s path op u) :=
  keeps_ite _ (keeps_request _ _ _ _ (fun _ k => keeps_doOp _ _ _ k) h) h

theorem keeps_macIn {r s : State} (path : MdpPath) (op : Nat) (u : MdpUnit) (h : Keeps r s) : Keeps r (State.macIn s path op u) := by
  unfold State.macIn
  repeat' first
    | with_reducible assumption
    | with_reducible apply keeps_serveMdp
    | with_reducible apply keeps_bump
    | with_reducible apply keeps_ite
    | split
    | fail_if_no_progress with_reducible apply keeps_mk

theorem keeps_macRun {r : State} (fuel : Nat) : ∀ {s : State}, Keeps r s → Keeps r (State.macRun s fuel) := by
  induction fuel with
  | zero => intro s h; exact h
  | succ fuel ih =>
    intro s h
    unfold State.macRun
    split
    · exact h
    · exact keeps_ite _ (ih (keeps_serveMdp _ _ _ (keeps_mk h))) h

theorem keeps_macDrain {r s : State} (h : Keeps r s) : Keeps r (State.macDrain s) := keeps_macRun _ h

theorem keeps_mdpArrive {r s : State} (path : MdpPath) (op : Nat) (u : MdpUnit) (h : Keeps r s) : Keeps r (State.mdpArrive s path op u) := by
  unfold State.mdpArrive
  repeat' first
    | with_reducible assumption
    | with_reducible apply keeps_bump
    | with_reducible apply keeps_macIn
    | with_reducible apply keeps_ite
    | (refine keeps_foldl _ (fun _ _ _ => ?_) _ ?_)
    | split
    | fail_if_no_progress with_reducible apply keeps_mk
    | dsimp only

end Sys2Proof.Machine
end

