-- ==== Sys2Proof/Laws/KeepsCluster.lean ====
section
/-! SUPPORT. `Keeps` of the state operations of Machine/Eci, Machine/Tile, Machine/Flags, Machine/Operands, Machine/Window, Machine/Pass, Machine/Vector, Machine/Turntable, Machine/Access, Machine/Records, Machine/Update, Machine/Mask, in their order. -/

namespace Sys2Proof.Machine

theorem keeps_dropDrift {r s : State} (c : Nat) (p : Nat) (h : Keeps r s) : Keeps r (State.dropDrift s c p) := by
  unfold State.dropDrift
  repeat' first
    | with_reducible assumption
    | with_reducible apply keeps_updCl
    | with_reducible apply keeps_bump
    | with_reducible apply keeps_ite

theorem keeps_dropDrifts {r s : State} (p : Nat) (h : Keeps r s) : Keeps r (State.dropDrifts s p) := by
  unfold State.dropDrifts
  repeat' first
    | with_reducible assumption
    | with_reducible apply keeps_dropDrift
    | (refine keeps_foldl _ (fun _ _ _ => ?_) _ ?_)

theorem keeps_bufEnter {r s : State} (c : Nat) (l : Nat × List Byte × List Nat) (h : Keeps r s) : Keeps r (s.bufEnter c l) := by
  unfold State.bufEnter
  exact keeps_ite _ (keeps_drawn (keeps_updCore _ _ h)) (keeps_updCore _ _ h)

/-- Fetching an instruction keeps what every step keeps, whether it ends well or not. -/
theorem keeps_fetch {r s : State} (c n : Nat) (h : Keeps r s) : Keeps r (s.fetch c n).1 := by
  have k := fun (a : Acc) (ls : List (Nat × List Byte × List Nat)) =>
    keeps_foldl (fun (t : State) l => t.bufEnter c l) (fun _ _ k => keeps_bufEnter _ _ k) ls (keeps_settle (s := s) a false h)
  unfold State.fetch
  dsimp only
  split
  · exact h
  · split
    · exact keeps_failCore _ _ (keeps_settle _ _ h)
    · split <;> split <;> first | exact keeps_failCore _ _ h | exact keeps_failCore _ _ (k _ _) | exact h | exact k _ _

/-- An instruction of the control core: what it does when its core executes and its words are there, the fetch's failure when they are not, and nothing when the core does not execute. -/
theorem keepsR_onCore {r s : State} {n : Nat} (c : Nat) (f : State → State) (h : Keeps r s) (hf : ∀ t, Keeps r t → Keeps r (f t)) : KeepsR r (s.onCore c f n) := by
  unfold State.onCore
  split
  · dsimp only
    split
    · exact keepsR_next (hf _ (keeps_fetch _ _ h))
    · exact keepsR_next (keeps_fetch _ _ h)
  · exact keepsR_next h

/-- Every state that a tile's work may leave. -/
def KeepsM (r : State) : Move → Prop
  | .stall => True
  | .paused t => Keeps r t
  | .moved t _ => Keeps r t
  | .failed t _ _ _ => Keeps r t

theorem keepsM_ite {r : State} {x y : Move} (c : Prop) [Decidable c] (hx : KeepsM r x) (hy : KeepsM r y) : KeepsM r (if c then x else y) := by
  split <;> assumption

theorem keepsM_moved {r s : State} (e : WbEntry) (h : Keeps r s) : KeepsM r (.moved s e) := h

theorem keeps_addFree {r s : State} (n : Nat) (h : Keeps r s) : Keeps r { s with free := s.free + n } :=
  keeps_free (by rfl) (by rfl) (Nat.le_add_right _ _) (by rfl) h

theorem keeps_addFree2 {r s : State} (n m : Nat) (h : Keeps r s) : Keeps r { s with free := s.free + n + m } :=
  keeps_free (by rfl) (by rfl) (Nat.le_trans (Nat.le_add_right _ _) (Nat.le_add_right _ _)) (by rfl) h

theorem keeps_pcStep {r s : State} (c : Nat) (n : Word) (h : Keeps r s) : Keeps r (State.pcStep s c n) := by
  unfold State.pcStep
  repeat' first
    | with_reducible assumption
    | with_reducible apply keeps_updCore

theorem keeps_pcSet {r s : State} (c : Nat) (v : Word) (h : Keeps r s) : Keeps r (State.pcSet s c v) := by
  unfold State.pcSet
  repeat' first
    | with_reducible assumption
    | with_reducible apply keeps_updCore

theorem keeps_alu {r s : State} (c : Nat) (rd : Reg) (v : Word) (h : Keeps r s) : KeepsR r (State.alu s c rd v) :=
  keepsR_onCore _ _ h (fun _ k => keeps_pcStep _ _ (keeps_setReg _ _ _ k))

theorem keeps_branch {r s : State} (c : Nat) (take : Bool) (off : BitVec 14) (h : Keeps r s) : KeepsR r (State.branch s c take off) :=
  keepsR_onCore _ _ h (fun _ k => keeps_pcStep _ _ k)

theorem keeps_coreLoad {r s : State} (c : Nat) (rd : Reg) (va : Word) (n : Nat) (h : Keeps r s) : Keeps r (State.coreLoad s c rd va n) := by
  unfold State.coreLoad
  repeat' first
    | with_reducible assumption
    | with_reducible apply keeps_failCore
    | with_reducible apply keeps_settle
    | with_reducible apply keeps_setReg
    | with_reducible apply keeps_pcStep
    | with_reducible apply keeps_ite
    | split

theorem keeps_coreWrite {r s : State} (c : Nat) (w : Wr) (hc : Nat) (h : Keeps r s) : Keeps r (State.coreWrite s c w hc) := by
  unfold State.coreWrite
  repeat' first
    | with_reducible assumption
    | with_reducible apply keeps_storeBy
    | with_reducible apply keeps_granted
    | with_reducible apply keeps_ite
    | (refine keeps_foldl _ (fun _ _ _ => ?_) _ ?_)
    | split
    | fail_if_no_progress with_reducible apply keeps_mk
    | dsimp only

theorem keeps_coreStoreRaw {r s : State} (c : Nat) (va : Word) (bs : List Byte) (h : Keeps r s) : Keeps r (State.coreStoreRaw s c va bs) := by
  have hw := fun l : List Walk => keeps_foldl State.walked (fun _ _ k => keeps_walked _ k) l h
  unfold State.coreStoreRaw
  repeat' first
    | with_reducible assumption
    | exact hw _
    | with_reducible apply keeps_failCore
    | with_reducible apply keeps_coreWrite
    | with_reducible apply keeps_pcStep
    | with_reducible apply keeps_ite
    | split

theorem keeps_coreStore {r s : State} (c : Nat) (va : Word) (bs : List Byte) (h : Keeps r s) : Keeps r (State.coreStore s c va bs) :=
  keeps_tallyHub _ _ (keeps_coreStoreRaw _ _ _ h)

theorem keeps_coalFlush {r s : State} (c : Nat) (who : Nat) (h : Keeps r s) : Keeps r (State.coalFlush s c who) := by
  unfold State.coalFlush
  repeat' first
    | with_reducible assumption
    | with_reducible apply keeps_coalOut

theorem keeps_updCq {r s : State} (c : Nat) (q : Nat) (f : RecQ → RecQ) (h : Keeps r s) : Keeps r (State.updCq s c q f) := by
  unfold State.updCq
  repeat' first
    | with_reducible assumption
    | with_reducible apply keeps_updSt

theorem keeps_updWb {r s : State} (c : Nat) (st : Nat) (chan : Nat) (f : WbEntry → WbEntry) (h : Keeps r s) : Keeps r (State.updWb s c st chan f) := by
  unfold State.updWb
  repeat' first
    | with_reducible assumption
    | with_reducible apply keeps_updSiding

theorem keeps_updDrainWb {r s : State} (c : Nat) (st : Nat) (f : WbEntry → WbEntry) (h : Keeps r s) : Keeps r (State.updDrainWb s c st f) := by
  unfold State.updDrainWb
  repeat' first
    | with_reducible assumption
    | with_reducible apply keeps_updSiding

theorem keeps_dropWb {r s : State} (c : Nat) (st : Nat) (chan : Nat) (h : Keeps r s) : Keeps r (State.dropWb s c st chan) := by
  unfold State.dropWb
  repeat' first
    | with_reducible assumption
    | with_reducible apply keeps_updSiding

theorem keeps_pushRecord {r s : State} (c : Nat) (st : Nat) (r' : Rec128) (h : Keeps r s) : Keeps r (State.pushRecord s c st r') := by
  unfold State.pushRecord
  repeat' first
    | with_reducible assumption
    | with_reducible apply keeps_updSt

theorem keeps_keepRecord {r s : State} (c : Nat) (st : Nat) (e : WbEntry) (status : Byte) (h : Keeps r s) : Keeps r (State.keepRecord s c st e status) := by
  unfold State.keepRecord
  repeat' first
    | with_reducible assumption
    | with_reducible apply keeps_updChan

theorem keeps_failWb {r s : State} (c : Nat) (st : Nat) (e : WbEntry) (status : Byte) (i : Nat) (j : Nat) (h : Keeps r s) : Keeps r (State.failWb s c st e status i j) := by
  unfold State.failWb
  repeat' first
    | with_reducible assumption
    | with_reducible apply keeps_keepRecord
    | with_reducible apply keeps_pushRecord
    | with_reducible apply keeps_failRun
    | with_reducible apply keeps_ite

theorem keeps_addBegun {r s : State} (c : Nat) (rs : List (Nat × Nat)) (h : Keeps r s) : Keeps r (State.addBegun s c rs) := by
  unfold State.addBegun
  repeat' first
    | with_reducible assumption
    | with_reducible apply keeps_updRun
    | with_reducible apply keeps_ite

theorem keeps_tileJob {r s : State} (c : Nat) (e : WbEntry) (i j : Nat) (job : Job Unit) (h : Keeps r s) : KeepsM r (s.tileJob c e i j job) := by
  unfold State.tileJob
  dsimp only
  split
  · trivial
  · split
    · trivial
    · split
      · exact keeps_tilesWritten _ _ (keeps_addBegun _ _ (keeps_settle _ _ h))
      · exact keeps_joinFlags _ _ _ (keeps_addBegun _ _ (keeps_settle _ _ h))

theorem keeps_clash {r s : State} (dsts own : List (Nat × Nat)) (others : List WbEntry) (h : Keeps r s) : Keeps r (s.clash dsts own others) :=
  keeps_scrambleAll _ h

theorem keepsM_overlap {r : State} {m : Move} (e : WbEntry) (other : List (Nat × Nat)) (redo : List (Nat × Nat) → Move) (hm : KeepsM r m) (hr : ∀ o, KeepsM r (redo o)) :
    KeepsM r (m.overlap e other redo) := by
  unfold Move.overlap
  split
  · exact keepsM_ite _ hm (hr _)
  · exact hm

theorem keeps_runTiles {r : State} (c st chan total : Nat) (f : State → WbEntry → Move) (hf : ∀ t e, Keeps r t → KeepsM r (f t e)) :
    ∀ (fuel : Nat) {s : State}, Keeps r s → Keeps r (s.runTiles c st chan total f fuel) := by
  intro fuel
  induction fuel with
  | zero => intro s h; exact h
  | succ n ih =>
    intro s h
    unfold State.runTiles
    split
    · exact h
    · split
      · exact keeps_updWb _ _ _ _ h
      · rename_i e _ _
        have hm := keepsM_overlap e ((s.besides c e).flatMap (·.dsts)) (fun o => f (s.scrambleAll o) e) (hf s e h) (fun o => hf _ e (keeps_scrambleAll o h))
        split
        · exact h
        · rename_i t he; rw [he] at hm; exact hm
        · rename_i t st i j he; rw [he] at hm; exact keeps_failWb _ _ _ _ _ _ hm
        · rename_i t e' he; rw [he] at hm; exact ih (keeps_updWb _ _ _ _ (keeps_ite _ (keeps_clash _ _ _ hm) (keeps_scrambleAll _ (keeps_clash _ _ _ hm))))

theorem keeps_work {r s : State} (c st chan : Nat) (isOp : WbEntry → Bool) (total : WbEntry → Nat) (f : XCtx → State → WbEntry → Move)
    (hf : ∀ x t e, Keeps r t → KeepsM r (f x t e)) (h : Keeps r s) : Keeps r (s.work c st chan isOp total f) := by
  unfold State.work
  split
  · exact keeps_ite _ (keeps_runTiles _ _ _ _ _ (fun t e k => hf _ t e k) _ h) h
  · exact h

theorem keeps_grantTo {r s : State} (c : Nat) (w : Nat) (g : Nat) (first : Nat) (gen : Nat) (part : Nat) (q : TokenReq) (h : Keeps r s) : Keeps r (State.grantTo s c w g first gen part q) := by
  unfold State.grantTo
  repeat' first
    | with_reducible assumption
    | with_reducible apply keeps_updCl
    | with_reducible apply keeps_emit
    | with_reducible apply keeps_ite
    | split

theorem keeps_serveTokens {r : State} (c w : Nat) : ∀ (fuel : Nat) {s : State}, Keeps r s → Keeps r (s.serveTokens c w fuel) := by
  intro fuel
  induction fuel with
  | zero => intro s h; exact h
  | succ n ih =>
    intro s h
    unfold State.serveTokens
    dsimp only
    split
    · exact h
    · split
      · exact h
      · exact ih (keeps_grantTo _ _ _ _ _ _ _ (keeps_updCl _ _ (keeps_updWin _ _ _ (keeps_scrambleAll _ h))))

theorem keeps_serve {r s : State} (c w : Nat) (h : Keeps r s) : Keeps r (State.serve s c w) := keeps_serveTokens _ _ _ h

theorem keeps_landAdvance {r : State} (c w : Nat) : ∀ (fuel : Nat) {s : State}, Keeps r s → Keeps r (s.landAdvance c w fuel) := by
  intro fuel
  induction fuel with
  | zero => intro s h; exact h
  | succ n ih =>
    intro s h
    unfold State.landAdvance
    dsimp only
    split
    · split
      · exact ih (keeps_ite _ (keeps_postCore _ _ (keeps_updWin _ _ _ h)) (keeps_updWin _ _ _ h))
      · exact h
    · exact h

theorem keeps_settleLand {r s : State} (c w : Nat) (h : Keeps r s) : Keeps r (State.settleLand s c w) := keeps_landAdvance _ _ _ h

theorem keeps_refuseMsg {r s : State} (c : Nat) (p : Packet) (reason : Nat) (h : Keeps r s) : Keeps r (State.refuseMsg s c p reason) := by
  unfold State.refuseMsg
  repeat' first
    | with_reducible assumption
    | with_reducible apply keeps_refuseToken

theorem keeps_returnGranules {r s : State} (c : Nat) (w : Nat) (first : Nat) (count : Nat) (writer : BitVec 16) (mod : Byte) (h : Keeps r s) : Keeps r (State.returnGranules s c w first count writer mod) := by
  unfold State.returnGranules
  repeat' first
    | with_reducible assumption
    | with_reducible apply keeps_scramble
    | with_reducible apply keeps_updWin
    | with_reducible apply keeps_settleLand
    | with_reducible apply keeps_ite
    | (refine keeps_foldl _ (fun _ _ _ => ?_) _ ?_)

theorem keeps_failChan {r s : State} (c : Nat) (chan : Nat) (status : Byte) (h : Keeps r s) : Keeps r (State.failChan s c chan status) := by
  unfold State.failChan
  repeat' first
    | with_reducible assumption
    | with_reducible apply keeps_failWb
    | with_reducible apply keeps_ite
    | split

theorem keeps_nak {r s : State} (p : Packet) (h : Keeps r s) : Keeps r (State.nak s p) := by
  unfold State.nak
  repeat' first
    | with_reducible assumption
    | with_reducible apply keeps_emit
    | with_reducible apply keeps_bump

theorem keeps_ownerFails {r s : State} (p : Packet) (h : Keeps r s) : Keeps r (State.ownerFails s p) := by
  unfold State.ownerFails
  repeat' first
    | with_reducible assumption
    | with_reducible apply keeps_failCore
    | with_reducible apply keeps_failChan
    | with_reducible apply keeps_updCl
    | with_reducible apply keeps_ite
    | split

theorem keeps_resend {r s : State} (k : Kept) (h : Keeps r s) : Keeps r (State.resend s k) := by
  unfold State.resend
  repeat' first
    | with_reducible assumption
    | with_reducible apply keeps_ownerFails
    | with_reducible apply keeps_emit
    | with_reducible apply keeps_ite
    | split
    | fail_if_no_progress with_reducible apply keeps_mk

theorem keeps_again {r s : State} (ep : BitVec 16) (tag : BitVec 16) (tys : List Nat) (h : Keeps r s) : Keeps r (State.again s ep tag tys) := by
  unfold State.again
  repeat' first
    | with_reducible assumption
    | with_reducible apply keeps_resend
    | with_reducible apply keeps_bump
    | (refine keeps_foldl _ (fun _ _ _ => ?_) _ ?_)

theorem keeps_takeReq {r s : State} (c : Nat) (p : Packet) (h : Keeps r s) : Keeps r (State.takeReq s c p) := by
  unfold State.takeReq
  repeat' first
    | with_reducible assumption
    | with_reducible apply keeps_refuseMsg
    | with_reducible apply keeps_serve
    | with_reducible apply keeps_updCl
    | with_reducible apply keeps_ite

theorem keeps_takeGrant {r s : State} (c : Nat) (p : Packet) (h : Keeps r s) : Keeps r (State.takeGrant s c p) := by
  unfold State.takeGrant
  repeat' first
    | with_reducible assumption
    | with_reducible apply keeps_dropKept
    | with_reducible apply keeps_returnToken
    | with_reducible apply keeps_updCl
    | with_reducible apply keeps_ite
    | split
    | fail_if_no_progress with_reducible apply keeps_mk
    | dsimp only

theorem keeps_takeReturn {r s : State} (c : Nat) (p : Packet) (h : Keeps r s) : Keeps r (State.takeReturn s c p) := by
  unfold State.takeReturn
  repeat' first
    | with_reducible assumption
    | with_reducible apply keeps_refuseMsg
    | with_reducible apply keeps_returnGranules
    | with_reducible apply keeps_bump
    | with_reducible apply keeps_ite

theorem keeps_takeRefused {r s : State} (c : Nat) (p : Packet) (h : Keeps r s) : Keeps r (State.takeRefused s c p) := by
  unfold State.takeRefused
  repeat' first
    | with_reducible assumption
    | with_reducible apply keeps_dropKept
    | with_reducible apply keeps_failChan
    | split
    | dsimp only

theorem keeps_takeToken {r s : State} (c : Nat) (p : Packet) (h : Keeps r s) : Keeps r (State.takeToken s c p) := by
  unfold State.takeToken
  repeat' first
    | with_reducible assumption
    | with_reducible apply keeps_takeGrant
    | with_reducible apply keeps_takeReturn
    | with_reducible apply keeps_takeRefused
    | with_reducible apply keeps_takeReq
    | split

theorem keeps_drainMesh {r : State} (c : Nat) : ∀ (fuel : Nat) {s : State}, Keeps r s → Keeps r (s.drainMesh c fuel) := by
  intro fuel
  induction fuel with
  | zero => intro s h; exact h
  | succ n ih =>
    intro s h
    unfold State.drainMesh
    refine keeps_ite _ h ?_
    split
    · exact h
    · exact ih (keeps_takeToken _ _ (keeps_updCl _ _ h))

theorem keeps_tokenIn {r s : State} (c : Nat) (p : Packet) (h : Keeps r s) : Keeps r (State.tokenIn s c p) :=
  keeps_drainMesh _ _ (keeps_updCl _ _ (keeps_woken _ h))

theorem keeps_meshAgain {r s : State} (c : Nat) (h : Keeps r s) : Keeps r (State.meshAgain s c) := keeps_drainMesh _ _ h

theorem keeps_execTokenReq {r s : State} (p : Packet) (h : Keeps r s) : KeepsR r (execTokenReq p s) := by
  unfold execTokenReq
  repeat' first
    | with_reducible assumption
    | with_reducible apply keeps_nak
    | with_reducible apply keeps_tokenIn
    | with_reducible apply keepsR_next
    | with_reducible apply keepsR_fault
    | with_reducible apply keepsR_ite

theorem keeps_askTokens {r s : State} (c chan target w count part : Nat) (h : Keeps r s) : Keeps r (State.askTokens s c chan target w count part) := by
  unfold State.askTokens
  exact keeps_ite _ (keeps_tokenIn _ _ (keeps_updCl _ _ h)) (keeps_send _ (keeps_updCl _ _ h))

theorem keeps_windowOp {r s : State} (c : Nat) (w : Nat) (v : Nat) (h : Keeps r s) : Keeps r (State.windowOp s c w v) := by
  unfold State.windowOp
  repeat' first
    | with_reducible assumption
    | with_reducible apply keeps_failCore
    | with_reducible apply keeps_updWin
    | with_reducible apply keeps_pcStep
    | with_reducible apply keeps_refuseQueued
    | with_reducible apply keeps_meshAgain
    | with_reducible apply keeps_ite

theorem keeps_refusePiece {r s : State} (c : Nat) (p : Packet) (reason : Nat) (h : Keeps r s) : Keeps r (State.refusePiece s c p reason) := by
  unfold State.refusePiece
  repeat' first
    | with_reducible assumption
    | with_reducible apply keeps_refuseToken

theorem keeps_countPiece {r s : State} (c : Nat) (p : Packet) (h : Keeps r s) : Keeps r (State.countPiece s c p) := by
  unfold State.countPiece
  repeat' first
    | with_reducible assumption
    | with_reducible apply keeps_updWin
    | with_reducible apply keeps_settleLand

theorem keeps_ackWrite {r s : State} (src : BitVec 16) (p : Packet) (flags : Byte) (h : Keeps r s) : Keeps r (State.ackWrite s src p flags) := by
  unfold State.ackWrite
  repeat' first
    | with_reducible assumption
    | with_reducible apply keeps_emit

theorem keeps_setQueue {r s : State} (r' : QueueRef) (q : RecQ) (h : Keeps r s) : Keeps r (State.setQueue s r' q) := by
  unfold State.setQueue
  repeat' first
    | with_reducible assumption
    | with_reducible apply keeps_updCq
    | with_reducible apply keeps_updDie
    | split
    | fail_if_no_progress with_reducible apply keeps_mk

theorem keeps_writeQueueStatus {r s : State} (r' : QueueRef) (v : Nat) (h : Keeps r s) : Keeps r (State.writeQueueStatus s r' v) := by
  unfold State.writeQueueStatus
  repeat' first
    | with_reducible assumption
    | with_reducible apply keeps_setQueue

theorem keeps_enqueue {r s : State} (r' : QueueRef) (v : Rec128) (h : Keeps r s) : Keeps r (State.enqueue s r' v) := by
  unfold State.enqueue
  repeat' first
    | with_reducible assumption
    | with_reducible apply keeps_setQueue

theorem keeps_dequeue {r s : State} (r' : QueueRef) (h : Keeps r s) : Keeps r (State.dequeue s r') := by
  unfold State.dequeue
  repeat' first
    | with_reducible assumption
    | with_reducible apply keeps_setQueue
    | split
    | dsimp only

theorem keeps_dropChannel {r s : State} (c chan : Nat) (h : Keeps r s) : Keeps r (State.dropChannel s c chan) := by
  unfold State.dropChannel
  extract_lets st part mine t1 t2 slots t3 es
  have h1 : Keeps r t1 := keeps_foldl _ (fun _ _ k => keeps_ite _ (keeps_returnGranules _ _ _ _ _ _ k) (keeps_returnToken _ _ _ k)) _ h
  have h2 : Keeps r t2 := keeps_updCl _ _ h1
  have h3 : Keeps r t3 := keeps_ite _ h2 (keeps_updTileQ _ _ _ h2)
  exact keeps_foldl _ (fun _ _ k => keeps_failWb _ _ _ _ _ _ (keeps_addFree 2 k)) _ h3

theorem keeps_chctl {r s : State} (c : Nat) (chan : Nat) (v : Bool) (h : Keeps r s) : Keeps r (State.chctl s c chan v) := by
  unfold State.chctl
  repeat' first
    | with_reducible assumption
    | with_reducible apply keeps_updChan
    | with_reducible apply keeps_dropChannel
    | with_reducible apply keeps_ite

theorem keeps_chctlBy {r s : State} (c chan : Nat) (src : ChSource) (v : Bool) (h : Keeps r s) : KeepsR r (State.chctlBy s c chan src v) := by
  unfold State.chctlBy
  split
  · exact keepsR_onCore _ _ h (fun _ k => keeps_pcStep _ _ (keeps_chctl _ _ _ k))
  · exact keepsR_ite _ (keepsR_next (keeps_chctl _ _ _ (keeps_woken _ h))) (keepsR_next h)

theorem keeps_carryOp {r s : State} (c : Nat) (v : Nat) (h : Keeps r s) : Keeps r (State.carryOp s c v) := by
  unfold State.carryOp
  repeat' first
    | with_reducible assumption
    | with_reducible apply keeps_failCore
    | with_reducible apply keeps_pcStep
    | with_reducible apply keeps_updCl
    | with_reducible apply keeps_ite

theorem keeps_loadSlot {r s : State} (c : Nat) (va : Nat) (len : Nat) (busy : WbEntry → Bool) (st : Nat) (ok : List Byte → Bool) (put : List Byte → Stations → Stations) (h : Keeps r s) : Keeps r (State.loadSlot s c va len busy st ok put) := by
  unfold State.loadSlot
  repeat' first
    | with_reducible assumption
    | with_reducible apply keeps_failCore
    | with_reducible apply keeps_settle
    | with_reducible apply keeps_updSt
    | with_reducible apply keeps_pcStep
    | with_reducible apply keeps_ite
    | split

theorem keeps_setSlots {r s : State} (c : Nat) (st : Nat) (ds : List DrainTile) (h : Keeps r s) : Keeps r (State.setSlots s c st ds) := by
  unfold State.setSlots
  repeat' first
    | with_reducible assumption
    | with_reducible apply keeps_updSt

theorem keepsM_passMove {r s : State} (c st : Nat) (x : XCtx) (e : WbEntry) (h : Keeps r s) : KeepsM r (passMove c st x s e) := by
  unfold passMove
  dsimp only
  refine keepsM_ite _ trivial (keepsM_ite _ trivial (keepsM_ite _ trivial ?_))
  split
  · exact keeps_setSlots _ _ _ (keeps_settle _ _ h)
  · exact keeps_joinFlags _ _ _ (keeps_settle _ _ h)

theorem keeps_passOp {r s : State} (c st mode : Nat) (h : Keeps r s) : Keeps r (State.passOp s c st mode) :=
  keeps_work _ _ _ _ _ _ (fun x _ e k => keepsM_passMove c st x e k) h

theorem keeps_slotFreed {r s : State} (c : Nat) (st : Nat) (f : WbEntry → WbEntry) (h : Keeps r s) : Keeps r (State.slotFreed s c st f) := by
  unfold State.slotFreed
  repeat' first
    | with_reducible assumption
    | with_reducible apply keeps_setSlots
    | with_reducible apply keeps_updDrainWb

theorem keeps_verdictFails {r s : State} (c : Nat) (st : Nat) (x : XCtx) (e : WbEntry) (d : DrainTile) (h : Keeps r s) : Keeps r (State.verdictFails s c st x e d) := by
  unfold State.verdictFails
  repeat' first
    | with_reducible assumption
    | with_reducible apply keeps_updEntry
    | with_reducible apply keeps_joinFlags
    | with_reducible apply keeps_again
    | with_reducible apply keeps_bumpFor
    | with_reducible apply keeps_failWb
    | with_reducible apply keeps_settle
    | with_reducible apply keeps_setSlots
    | with_reducible apply keeps_setObj
    | with_reducible apply keeps_ite
    | split

theorem keeps_sumsWritten {r s : State} (c : Nat) (kind : Nat) (ws : List (Nat × Nat)) (h : Keeps r s) : Keeps r (State.sumsWritten s c kind ws) := by
  unfold State.sumsWritten
  repeat' first
    | with_reducible assumption
    | with_reducible apply keeps_updCl
    | with_reducible apply keeps_ite
    | (refine keeps_foldl _ (fun _ _ _ => ?_) _ ?_)
    | split
    | fail_if_no_progress with_reducible apply keeps_mk
    | dsimp only

theorem keeps_rehold {r s : State} (c : Nat) (st : Nat) (ws : List (Nat × Nat)) (h : Keeps r s) : Keeps r (State.rehold s c st ws) := by
  unfold State.rehold
  repeat' first
    | with_reducible assumption
    | with_reducible apply keeps_updSiding
    | with_reducible apply keeps_ite
    | (refine keeps_foldl _ (fun _ _ _ => ?_) _ ?_)
    | split
    | fail_if_no_progress with_reducible apply keeps_mk
    | dsimp only

theorem keeps_drainOut {r s : State} (c : Nat) (st : Nat) (x : XCtx) (e : WbEntry) (p : Pass) (d : DrainTile) (ok : Bool) (h : Keeps r s) : Keeps r (State.drainOut s c st x e p d ok) := by
  unfold State.drainOut
  repeat' first
    | with_reducible assumption
    | with_reducible apply keeps_clash
    | with_reducible apply keeps_rehold
    | with_reducible apply keeps_sumsWritten
    | with_reducible apply keeps_settle
    | with_reducible apply keeps_addBegun
    | with_reducible apply keeps_joinFlags
    | with_reducible apply keeps_failWb
    | with_reducible apply keeps_scrambleAll
    | with_reducible apply keeps_tilesWritten
    | with_reducible apply keeps_slotFreed
    | with_reducible apply keeps_updTileQ
    | with_reducible apply keeps_setSlots
    | with_reducible apply keeps_drawn
    | with_reducible apply keeps_ite
    | split

theorem keeps_vRollback {r s : State} (c : Nat) (h : Keeps r s) : Keeps r (State.vRollback s c) := by
  unfold State.vRollback
  repeat' first
    | with_reducible assumption
    | with_reducible apply keeps_updSt
    | with_reducible apply keeps_bump
    | split

theorem keeps_dropArriving {r s : State} (c : Nat) (q : Nat) (h : Keeps r s) : Keeps r (State.dropArriving s c q) := by
  unfold State.dropArriving
  repeat' first
    | with_reducible assumption
    | with_reducible apply keeps_updTileQ

theorem keeps_keepArriving {r s : State} (c : Nat) (q : Nat) (h : Keeps r s) : Keeps r (State.keepArriving s c q) := by
  unfold State.keepArriving
  repeat' first
    | with_reducible assumption
    | with_reducible apply keeps_updTileQ

theorem keeps_vBegin {r s : State} (c : Nat) (e : WbEntry) (h : Keeps r s) : Keeps r (State.vBegin s c e) := by
  unfold State.vBegin
  repeat' first
    | with_reducible assumption
    | with_reducible apply keeps_updSt
    | with_reducible apply keeps_failWb
    | with_reducible apply keeps_ite
    | split

theorem keeps_vRun {r s : State} (c opc : Nat) (hold : Bool) (f : State → VX → VRegs → List Byte → Job (VRegs × List Byte × Byte)) (h : Keeps r s) :
    Keeps r (s.vRun c opc hold f) := by
  unfold State.vRun
  split
  · rename_i e q _ _
    have hb := keeps_vBegin c e h
    dsimp only
    refine keeps_ite _ h (keeps_ite _ hb ?_)
    have hs := fun o : List (Nat × Nat) => keeps_scrambleAll o hb
    refine keeps_ite _ (hs _) ?_
    split
    · have hc := fun (o : List (Nat × Nat)) (a : Acc) (x y : List (Nat × Nat)) (z : List WbEntry) => keeps_clash x y z (keeps_addBegun c a.begun (keeps_settle a false (hs o)))
      refine keeps_updSt _ _ (keeps_updWb _ _ _ _ (keeps_ite _ (hc _ _ _ _ _) (keeps_scrambleAll _ (hc _ _ _ _ _))))
    · exact keeps_ite _ (hs _) (keeps_failWb _ _ _ _ _ _ (keeps_joinFlags _ _ _ (keeps_addBegun _ _ (keeps_settle _ _ (hs _)))))
  · exact h

theorem keeps_vRegOp {r s : State} (c opc : Nat) (f : VX → VRegs → VRegs × Byte) (h : Keeps r s) : Keeps r (State.vRegOp s c opc f) := keeps_vRun _ _ _ _ h

theorem keeps_vLane {r s : State} (c : Nat) (opc : Nat) (f : VX → Nat → Nat → Nat → Nat × Byte) (h : Keeps r s) : Keeps r (State.vLane s c opc f) := by
  unfold State.vLane
  repeat' first
    | with_reducible assumption
    | with_reducible apply keeps_vRegOp

theorem keeps_ttStage {r s t : State} (x : XCtx) (c : Nat) (q : Run) (w : Desc) (h : Keeps r s) (ht : s.ttStage x c q w = some t) : Keeps r t := by
  unfold State.ttStage at ht
  dsimp only at ht
  split at ht
  · simp at ht
  · split at ht
    · cases ht; exact keeps_updSt _ _ h
    · cases ht; exact keeps_updEntry _ _ _ (keeps_updSt _ _ (keeps_bumpFor _ _ _ _ (keeps_bumpFor _ _ _ _ h)))

theorem keepsM_ttMove {r s : State} (c : Nat) (f : XCtx → Nat → State → WbEntry → Job (Option (List Byte))) (x : XCtx) (e : WbEntry) (h : Keeps r s) :
    KeepsM r (ttMove c f x s e) := by
  unfold ttMove
  dsimp only
  refine keepsM_ite _ trivial (keepsM_ite _ trivial (keepsM_ite _ trivial ?_))
  split
  · exact keeps_bumpFor _ _ _ _ h
  · rename_i t ht
    have k : Keeps r t := by
      split at ht
      · split at ht
        · exact keeps_ttStage _ _ _ _ h ht
        · cases ht; exact h
      · cases ht; exact h
    have ks := fun o : List (Nat × Nat) => keeps_scrambleAll o k
    refine keepsM_ite _ trivial (keepsM_ite _ trivial (keepsM_ite _ trivial ?_))
    split
    · refine keepsM_moved _ ?_
      repeat' first
        | with_reducible assumption
        | with_reducible exact ks _
        | with_reducible apply keeps_ite
        | with_reducible apply keeps_bumpFor
        | with_reducible apply keeps_addFree2
        | with_reducible apply keeps_sweepWatches
        | with_reducible apply keeps_updTileQ
        | with_reducible apply keeps_scrambleAll
        | with_reducible apply keeps_tilesWritten
        | with_reducible apply keeps_addBegun
        | with_reducible apply keeps_settle
        | split
    · exact keeps_joinFlags _ _ _ (keeps_addBegun _ _ (keeps_settle _ _ (ks _)))

theorem keeps_ttRun {r s : State} (c op : Nat) (f : XCtx → Nat → State → WbEntry → Job (Option (List Byte))) (h : Keeps r s) :
    Keeps r (s.ttRun c op f) :=
  keeps_work _ _ _ _ _ _ (fun x _ e k => keepsM_ttMove c f x e k) h

theorem keeps_filterEnter {r s : State} (c : Nat) (region : Nat) (h : Keeps r s) : Keeps r (State.filterEnter s c region) := by
  unfold State.filterEnter
  repeat' first
    | with_reducible assumption
    | with_reducible apply keeps_sendNotice
    | with_reducible apply keeps_updHub
    | with_reducible apply keeps_bump
    | with_reducible apply keeps_ite
    | (refine keeps_foldl _ (fun _ _ _ => ?_) _ ?_)
    | split
    | fail_if_no_progress with_reducible apply keeps_mk
    | dsimp only

theorem keeps_addWatches {r s : State} (c : Nat) (ws : List Watch) (h : Keeps r s) : Keeps r (State.addWatches s c ws) := by
  unfold State.addWatches
  refine keeps_ite _ h ?_
  refine keeps_watched _ (fun k => tab_wf_foldl _ (fun _ _ k => tab_wf_foldPut _ _ _ k) _ k) ?_
  exact keeps_foldl _ (fun _ _ k => keeps_filterEnter _ _ k) _ (keeps_updCl _ _ h)

theorem keeps_addApply {r s : State} (c : Nat) (p : Packet) (h : Keeps r s) : Keeps r (State.addApply s c p) := by
  unfold State.addApply
  repeat' first
    | with_reducible assumption
    | with_reducible apply keeps_granted
    | with_reducible apply keeps_touch
    | with_reducible apply keeps_store
    | with_reducible apply keeps_countPiece
    | with_reducible apply keeps_ackWrite

theorem keeps_addDrain {r : State} (c : Nat) : ∀ (fuel : Nat) {s : State}, Keeps r s → Keeps r (s.addDrain c fuel) := by
  intro fuel
  induction fuel with
  | zero => intro s h; exact h
  | succ n ih =>
    intro s h
    unfold State.addDrain
    dsimp only
    split
    · exact ih (keeps_addApply _ _ (keeps_updSt _ _ h))
    · exact h

theorem keeps_addArrive {r s : State} (c : Nat) (p : Packet) (h : Keeps r s) : Keeps r (State.addArrive s c p) := by
  unfold State.addArrive
  dsimp only
  repeat' first
    | with_reducible assumption
    | with_reducible exact keeps_refusePiece _ _ _ h
    | with_reducible exact keeps_addApply _ _ h
    | with_reducible exact keeps_addDrain _ _ (keeps_addApply _ _ (keeps_updSt _ _ h))
    | with_reducible exact keeps_updSt _ _ h
    | split

theorem keeps_landPiece {r s : State} (c : Nat) (p : Packet) (h : Keeps r s) : Keeps r (State.landPiece s c p) := by
  unfold State.landPiece
  repeat' first
    | with_reducible assumption
    | with_reducible apply keeps_granted
    | with_reducible apply keeps_store
    | with_reducible apply keeps_countPiece

theorem keeps_landNarrow {r s : State} (c : Nat) (p : Packet) (n : Narrow) (h : Keeps r s) : Keeps r (State.landNarrow s c p n) := by
  unfold State.landNarrow
  repeat' first
    | with_reducible assumption
    | with_reducible apply keeps_updSt
    | with_reducible apply keeps_landPiece
    | with_reducible apply keeps_ackWrite
    | with_reducible apply keeps_ite
    | (refine keeps_foldl _ (fun _ _ _ => ?_) _ ?_)

theorem keeps_landWrite {r s : State} (c : Nat) (p : Packet) (h : Keeps r s) : Keeps r (State.landWrite s c p) := by
  unfold State.landWrite
  repeat' first
    | with_reducible assumption
    | with_reducible apply keeps_landNarrow
    | with_reducible apply keeps_landPiece
    | with_reducible apply keeps_ackWrite
    | with_reducible apply keeps_ite
    | split

theorem keeps_askFar {r s : State} (c : Nat) (chan : Nat) (tile : Nat) (part : Nat) (r' : FarReq) (h : Keeps r s) : Keeps r (State.askFar s c chan tile part r') := by
  unfold State.askFar
  repeat' first
    | with_reducible assumption
    | with_reducible apply keeps_send
    | with_reducible apply keeps_updCl
    | (refine keeps_foldl _ (fun _ _ _ => ?_) _ ?_)

theorem keeps_sendOut {r : State} (c : Nat) : ∀ (fuel : Nat) {s : State}, Keeps r s → Keeps r (s.sendOut c fuel) := by
  intro fuel
  induction fuel with
  | zero => intro s h; exact h
  | succ n ih =>
    intro s h
    unfold State.sendOut
    dsimp only
    split
    · exact ih (keeps_send _ (keeps_updCl _ _ h))
    · exact h

theorem keeps_sendAll {r s : State} (c : Nat) (h : Keeps r s) : Keeps r (State.sendAll s c) := keeps_sendOut _ _ h

theorem keepsM_aeDone {r s : State} (c st chan : Nat) (e : WbEntry) (a : Acc) (sends : List Packet) (tgt win used total : Nat) (entry : Option TileEntry)
    (h : Keeps r s) : KeepsM r (s.aeDone c st chan e a sends tgt win used total entry) := by
  unfold State.aeDone
  extract_lets w ch s0 own nt tagOf rest watchers leaves t1 t2 t3 t4 t5 back extra t6 t7 adds t8 t9 t10 t11 t12 t13 src t14
  have h0 : Keeps r s0 := keeps_sweepWatches c h
  have h1 : Keeps r t1 := keeps_addBegun _ _ (keeps_settle _ _ h0)
  have h2 : Keeps r t2 := keeps_ite _ (keeps_foldl _ (fun _ _ k => keeps_unwatch _ _ k) _ h1) h1
  have h3 : Keeps r t3 := keeps_awaitAcks _ _ _ _ _ _ h2
  have h4 : Keeps r t4 := keeps_foldl _ (fun _ _ k => keeps_landPiece _ _ k) _ h3
  have h5 : Keeps r t5 := keeps_tilesWritten _ _ (keeps_addWatches _ _ h4)
  have h6 : Keeps r t6 := keeps_updCl _ _ h5
  have h7 : Keeps r t7 := keeps_foldl _ (fun _ _ k => keeps_ite _ (keeps_returnGranules _ _ _ _ _ _ k) (keeps_returnToken _ _ _ k)) _ h6
  have h8 : Keeps r t8 := keeps_ite _ h7 (keeps_updSt _ _ h7)
  have h9 : Keeps r t9 := keeps_foldl _ (fun _ _ k => keeps_addArrive _ _ k) _ h8
  have h10 : Keeps r t10 := keeps_sendAll _ (keeps_updCl _ _ h9)
  have h11 : Keeps r t11 := by
    change Keeps r (match entry with | some en => _ | none => _)
    split
    · exact keeps_updTileQ _ _ _ h10
    · exact h10
  have h12 : Keeps r t12 := keeps_ite _ (keeps_updTileQ _ _ _ h11) h11
  have h13 : Keeps r t13 := keeps_ite _ (keeps_bumpFor _ _ _ _ h12) h12
  have h14 : Keeps r t14 := keeps_updChan _ _ _ h13
  clear_value t14
  refine keepsM_ite _ trivial ?_
  split
  · exact keeps_joinFlags _ _ _ (keeps_bump _ _ _ h0)
  · exact keepsM_ite _ trivial (keepsM_ite _ trivial (keepsM_moved _ (keeps_addFree _ h14)))

theorem keepsM_aeMove {r s : State} (c st chan : Nat) (f : State → XCtx → Nat → Nat → WbEntry → Job AeRes) (x : XCtx) (e : WbEntry) (h : Keeps r s) :
    KeepsM r (aeMove c st chan f x s e) := by
  unfold aeMove
  extract_lets w ch ij fromQ run ask ahead finish
  refine keepsM_ite _ trivial (keepsM_ite _ trivial ?_)
  have hq : ∀ (t : State) (n : Nat) (qs : List FarReq), Keeps r t → Keeps r (ask t n qs) :=
    fun _ _ _ k => keeps_foldl _ (fun _ _ k => keeps_askFar _ _ _ _ _ k) _ k
  have hd : ∀ t : State, Keeps r t → Keeps r (ahead t) := by
    intro t k
    refine keeps_ite _ k (keeps_foldl _ (fun u n ku => ?_) _ k)
    dsimp only
    refine keeps_ite _ ku ?_
    split
    · exact hq _ _ _ ku
    · exact ku
  have hf : ∀ (t : State) (again : State → Move) (q : Except Byte AeRes × Acc), Keeps r t → (∀ u, Keeps r u → KeepsM r (again u)) →
      KeepsM r (finish t again q) := by
    intro t again q ht ha
    refine keepsM_ite _ trivial (keepsM_ite _ trivial ?_)
    split
    · exact keeps_joinFlags _ _ _ (keeps_addBegun _ _ (keeps_settle _ _ ht))
    · exact keepsM_aeDone _ _ _ _ _ _ _ _ _ _ _ ht
    · split
      · trivial
      · exact ha _ (keeps_askTokens _ _ _ _ _ _ ht)
    · dsimp only
      split
      · trivial
      · exact hd _ (hq _ _ _ ht)
  clear_value finish run
  refine hf s _ _ h (fun u hu => ?_)
  have hm := hf u (fun _ => .stall) (run u) hu (fun _ _ => trivial)
  split
  · exact hu
  · exact hm

theorem keeps_aeRun {r s : State} (c st op : Nat) (chan : BitVec 3) (f : State → XCtx → Nat → Nat → WbEntry → Job AeRes) (h : Keeps r s) :
    Keeps r (s.aeRun c st op chan f) :=
  keeps_work _ _ _ _ _ _ (fun x _ e k => keepsM_aeMove c st chan.toNat f x e k) h

theorem keeps_updWatch {r s : State} (c : Nat) (w : Watch) (f : Watch → Watch) (h : Keeps r s) : Keeps r (State.updWatch s c w f) := by
  unfold State.updWatch
  repeat' first
    | with_reducible assumption
    | with_reducible apply keeps_updCl

theorem keeps_markLive {r s : State} (c : Nat) (w : Watch) (mark : Nat) (pending : Bool) (h : Keeps r s) : Keeps r (State.markLive s c w mark pending) := by
  unfold State.markLive
  dsimp only
  split
  · exact keeps_marks _ (fun k => tab_wf_foldPut _ _ _ k) h
  · exact keeps_updTileQ _ _ _ h

theorem keeps_refetchEnds {r s : State} (c : Nat) (w : Watch) (mark : Nat) (h : Keeps r s) : Keeps r (State.refetchEnds s c w mark) := by
  unfold State.refetchEnds
  repeat' first
    | with_reducible assumption
    | with_reducible apply keeps_markLive
    | with_reducible apply keeps_updWatch

theorem keeps_refetch {r s : State} (c : Nat) (w : Watch) (h : Keeps r s) : Keeps r (State.refetch s c w) := by
  unfold State.refetch
  dsimp only
  split
  · exact h
  · refine keeps_ite _ (keeps_updWatch _ _ _ (keeps_markLive _ _ _ _ h)) ?_
    have h1 := fun l : List Walk => keeps_foldl State.walked (fun _ _ k => keeps_walked _ k) l h
    split
    · exact keeps_bump _ _ _ (keeps_refetchEnds _ _ _ (h1 _))
    · exact keeps_ite _ (keeps_bump _ _ _ (keeps_refetchEnds _ _ _ (h1 _)))
        (keeps_send _ (keeps_filterEnter _ _ (keeps_bump _ _ _ (keeps_updCl _ _ (keeps_updWatch _ _ _ (keeps_markLive _ _ _ _ (h1 _)))))))

theorem keeps_refetchQueued {r : State} (c : Nat) : ∀ (fuel : Nat) {s : State}, Keeps r s → Keeps r (s.refetchQueued c fuel) := by
  intro fuel
  induction fuel with
  | zero => intro s h; exact h
  | succ n ih =>
    intro s h
    unfold State.refetchQueued
    dsimp only
    split
    · exact ih (keeps_refetch _ _ h)
    · exact h

theorem keeps_tagFreed {r s : State} (c : Nat) (h : Keeps r s) : Keeps r (State.tagFreed s c) := keeps_refetchQueued _ _ (keeps_sendAll _ h)

theorem keeps_notice {r s : State} (c region : Nat) (h : Keeps r s) : Keeps r (State.notice s c region) := by
  unfold State.notice
  refine keeps_sweepWatches _ (keeps_emit _ (keeps_foldl _ (fun t w k => ?_) _ h))
  have k1 := keeps_bump 0x70A0 3 1 (keeps_markLive c w 3 w.pending k)
  exact keeps_ite _ (keeps_ite _ (keeps_updWatch _ _ _ k1) (keeps_ite _ (keeps_refetch _ _ k1) k1)) k1

theorem keeps_setKey {r s : State} (p : Nat) (va : Nat) (b : Bool) (k : Word) (h : Keeps r s) : Keeps r (State.setKey s p va b k) := by
  unfold State.setKey
  repeat' first
    | with_reducible assumption
    | with_reducible apply keeps_updPt

theorem keeps_pbuf {r s : State} (c : Nat) (rd ra rb : Reg) (sel : Nat) (h : Keeps r s) : KeepsR r (State.pbuf s c rd ra rb sel) := by
  unfold State.pbuf
  refine keepsR_onCore _ _ h (fun _ h => ?_)
  dsimp only
  split
  · exact h
  · split
    · exact h
    · split
      · exact keeps_failCore _ _ (keeps_settle _ _ h)
      · exact keeps_pcStep _ _ (keeps_setReg _ _ _ (keeps_settle _ _ h))

theorem keepsM_stepMove {r s : State} (c : Nat) (x : XCtx) (e : WbEntry) (h : Keeps r s) : KeepsM r (stepMove c x s e) := by
  unfold stepMove
  split
  · dsimp only
    refine keepsM_ite _ trivial (keepsM_ite _ trivial ?_)
    split
    · refine keepsM_moved _ ?_
      repeat' first
        | with_reducible assumption
        | with_reducible apply keeps_setKey
        | with_reducible apply keeps_updRun
        | with_reducible apply keeps_tilesWritten
        | with_reducible apply keeps_addBegun
        | with_reducible apply keeps_settle
        | split
    · exact keeps_joinFlags _ _ _ (keeps_addBegun _ _ (keeps_settle _ _ h))
  · trivial

theorem keepsM_reduceMove {r s : State} (c : Nat) (x : XCtx) (e : WbEntry) (h : Keeps r s) : KeepsM r (reduceMove c x s e) := by
  unfold reduceMove
  dsimp only
  split
  · trivial
  split
  · exact keeps_tilesWritten _ _ (keeps_addBegun _ _ (keeps_settle _ _ h))
  · exact keeps_joinFlags _ _ _ (keeps_addBegun _ _ (keeps_settle _ _ h))

end Sys2Proof.Machine
end

