-- ==== Sys2Proof/Laws/KeepsLedger.lean ====
section
/-! SUPPORT. `Keeps` of the state operations of Machine/Start, Machine/Flow, Machine/Xreg, Machine/Ledger, Machine/Registers, Machine/Packets, in their order. -/

namespace Sys2Proof.Machine

theorem keeps_respond {r s : State} (p : Packet) (status : Byte) (g : Got) (h : Keeps r s) : Keeps r (State.respond s p status g) := by
  unfold State.respond
  repeat' first
    | with_reducible assumption
    | with_reducible apply keeps_emit

theorem keeps_enterRun {r s : State} (p : Nat) (e : Entry) (spec : Bool) (view : Nat) (h : Keeps r s) : Keeps r (State.enterRun s p e spec view) := by
  unfold State.enterRun
  repeat' first
    | with_reducible assumption
    | with_reducible apply keeps_updEntry
    | with_reducible apply keeps_bump
    | with_reducible apply keeps_ite
    | split
    | dsimp only

theorem keeps_refuseEntry {r s : State} (p : Nat) (seq : Nat) (st : Byte) (h : Keeps r s) : Keeps r (State.refuseEntry s p seq st) := by
  unfold State.refuseEntry
  repeat' first
    | with_reducible assumption
    | with_reducible apply keeps_updEntry
    | fail_if_no_progress with_reducible apply keeps_mk

theorem keeps_markDone {r s : State} (p : Nat) (seq : Nat) (h : Keeps r s) : Keeps r (State.markDone s p seq) := by
  unfold State.markDone
  repeat' first
    | with_reducible assumption
    | with_reducible apply keeps_updEntry
    | fail_if_no_progress with_reducible apply keeps_mk

theorem keeps_beginOn {r s : State} (p : Nat) (e : Entry) (c : Nat) (tt : Nat) (h : Keeps r s) : Keeps r (State.beginOn s p e c tt) := by
  unfold State.beginOn
  repeat' first
    | with_reducible assumption
    | with_reducible apply keeps_updCl
    | with_reducible apply keeps_bump
    | with_reducible apply keeps_ite
    | split
    | fail_if_no_progress with_reducible apply keeps_mk
    | dsimp only

theorem keeps_startEntry {r s : State} (p : Nat) (seq : Nat) (h : Keeps r s) : Keeps r (State.startEntry s p seq) := by
  unfold State.startEntry
  repeat' first
    | with_reducible assumption
    | with_reducible apply keeps_beginOn
    | with_reducible apply keeps_updEntry
    | with_reducible apply keeps_ite
    | (refine keeps_foldl _ (fun _ _ _ => ?_) _ ?_)
    | split
    | fail_if_no_progress with_reducible apply keeps_mk

theorem keeps_startReady {r s : State} (p : Nat) (h : Keeps r s) : Keeps r (State.startReady s p) := by
  unfold State.startReady
  repeat' first
    | with_reducible assumption
    | with_reducible apply keeps_startEntry
    | with_reducible apply keeps_ite
    | (refine keeps_foldl _ (fun _ _ _ => ?_) _ ?_)
    | split

theorem keeps_takeDir {r s : State} (p : Nat) (seq : Nat) (dir : List (Nat × Nat)) (h : Keeps r s) : Keeps r (State.takeDir s p seq dir) := by
  unfold State.takeDir
  repeat' first
    | with_reducible assumption
    | with_reducible apply keeps_updEntry
    | with_reducible apply keeps_startReady
    | fail_if_no_progress with_reducible apply keeps_mk

theorem keeps_runDir {r s0 s : State} (p : Nat) (e : Entry) (resumed : Bool) (h0 : Keeps r s0) (h : Keeps r s) : Keeps r (State.runDir s0 s p e resumed) := by
  unfold State.runDir
  repeat' first
    | with_reducible assumption
    | with_reducible apply keeps_refuseEntry
    | with_reducible apply keeps_markDone
    | with_reducible apply keeps_settle
    | with_reducible apply keeps_countFault
    | with_reducible apply keeps_takeDir
    | with_reducible apply keeps_ite
    | split
    | dsimp only

theorem keeps_beginCommit {r s0 s : State} (p : Nat) (e : Entry) (resumed : Bool) (h0 : Keeps r s0) (h : Keeps r s) : Keeps r (State.beginCommit s0 s p e resumed) := by
  unfold State.beginCommit
  repeat' first
    | with_reducible assumption
    | with_reducible apply keeps_dropDrifts
    | with_reducible apply keeps_markDone
    | with_reducible apply keeps_settle
    | with_reducible apply keeps_countFault
    | with_reducible apply keeps_refuseEntry
    | with_reducible apply keeps_sendService
    | with_reducible apply keeps_takeDir
    | with_reducible apply keeps_updPt
    | with_reducible apply keeps_ite
    | split
    | fail_if_no_progress with_reducible apply keeps_mk
    | dsimp only

theorem keeps_discard {r s : State} (p : Nat) (e : Entry) (h : Keeps r s) : Keeps r (State.discard s p e) := by
  unfold State.discard
  repeat' first
    | with_reducible assumption
    | with_reducible apply keeps_clearEntry
    | with_reducible apply keeps_updEntry
    | with_reducible apply keeps_setObj
    | with_reducible apply keeps_bump
    | with_reducible apply keeps_ite
    | (refine keeps_foldl _ (fun _ _ _ => ?_) _ ?_)
    | split
    | fail_if_no_progress with_reducible apply keeps_mk
    | dsimp only

theorem keeps_discardAll {r s : State} (p : Nat) (h : Keeps r s) : Keeps r (State.discardAll s p) := by
  unfold State.discardAll
  repeat' first
    | with_reducible assumption
    | with_reducible apply keeps_discard
    | (refine keeps_foldl _ (fun _ _ _ => ?_) _ ?_)

theorem keeps_rerunEntry {r s : State} (p : Nat) (seq : Nat) (h : Keeps r s) : Keeps r (State.rerunEntry s p seq) := by
  unfold State.rerunEntry
  split
  · exact h
  · extract_lets used t1 view t2 t3 t4
    have h1 : Keeps r t1 := keeps_foldl _ (fun _ _ k => keeps_restoreDirty _ _ k) _ h
    have h4 : Keeps r t4 := keeps_bump _ _ _ (keeps_bump _ _ _ (keeps_updEntry _ _ _ (keeps_enterRun _ _ _ _ h1)))
    clear_value t4
    refine keeps_ite _ h ?_
    split
    · exact keeps_runDir _ _ _ h h4
    · exact keeps_beginCommit _ _ _ h h4
    · exact h4

theorem keeps_rerunPart {r s : State} (p : Nat) (h : Keeps r s) : Keeps r (State.rerunPart s p) := by
  unfold State.rerunPart
  repeat' first
    | with_reducible assumption
    | with_reducible apply keeps_rerunEntry
    | with_reducible apply keeps_startReady
    | with_reducible apply keeps_ite
    | (refine keeps_foldl _ (fun _ _ _ => ?_) _ ?_)
    | split

theorem keeps_showGate {r s : State} (p : Nat) (g : Word32) (nf : Word) (h : Keeps r s) : Keeps r (State.showGate s p g nf) := by
  unfold State.showGate
  repeat' first
    | with_reducible assumption
    | with_reducible apply keeps_setObj

theorem keeps_flip {r s : State} (p : Nat) (k : Commit) (g : Word32) (nf : Word) (h : Keeps r s) : Keeps r (State.flip s p k g nf) := by
  unfold State.flip
  repeat' first
    | with_reducible assumption
    | with_reducible apply keeps_showGate
    | with_reducible apply keeps_updEntry
    | with_reducible apply keeps_updRun
    | with_reducible apply keeps_updCl
    | with_reducible apply keeps_updPt
    | with_reducible apply keeps_bump
    | with_reducible apply keeps_ite
    | (refine keeps_foldl _ (fun _ _ _ => ?_) _ ?_)
    | split
    | fail_if_no_progress with_reducible apply keeps_mk
    | dsimp only

theorem keeps_abortCommit {r s : State} (p : Nat) (k : Commit) (g : Word32) (nf : Word) (h : Keeps r s) : Keeps r (State.abortCommit s p k g nf) := by
  unfold State.abortCommit
  repeat' first
    | with_reducible assumption
    | with_reducible apply keeps_showGate
    | with_reducible apply keeps_updEntry
    | with_reducible apply keeps_discardAll
    | with_reducible apply keeps_updPt
    | with_reducible apply keeps_bump
    | with_reducible apply keeps_ite
    | split
    | fail_if_no_progress with_reducible apply keeps_mk
    | dsimp only

theorem keeps_clipPass {r s : State} (p : Nat) (k : Commit) (g : Word) (h : Keeps r s) : Keeps r (State.clipPass s p k g) := by
  unfold State.clipPass
  repeat' first
    | with_reducible assumption
    | with_reducible apply keeps_discardAll
    | with_reducible apply keeps_updEntry
    | with_reducible apply keeps_startReady
    | with_reducible apply keeps_updPt
    | fail_if_no_progress with_reducible apply keeps_mk
    | dsimp only

theorem keeps_decideGate {r s : State} (p : Nat) (h : Keeps r s) : Keeps r (State.decideGate s p) := by
  unfold State.decideGate
  repeat' first
    | with_reducible assumption
    | with_reducible apply keeps_abortCommit
    | with_reducible apply keeps_flip
    | with_reducible apply keeps_clipPass
    | with_reducible apply keeps_ite
    | (refine keeps_foldl _ (fun _ _ _ => ?_) _ ?_)
    | split
    | dsimp only

theorem keeps_commitEnds {r s : State} (p : Nat) (h : Keeps r s) : Keeps r (State.commitEnds s p) := by
  unfold State.commitEnds
  repeat' first
    | with_reducible assumption
    | with_reducible apply keeps_sendService
    | with_reducible apply keeps_decideGate
    | with_reducible apply keeps_updPt
    | with_reducible apply keeps_ite
    | split
    | fail_if_no_progress with_reducible apply keeps_mk
    | dsimp only

theorem keeps_errorAt {r s : State} (p : Nat) (seq : Nat) (h : Keeps r s) : Keeps r (State.errorAt s p seq) := by
  unfold State.errorAt
  repeat' first
    | with_reducible assumption
    | with_reducible apply keeps_updPt
    | fail_if_no_progress with_reducible apply keeps_mk

theorem keeps_fenceOver {r s : State} (p : Nat) (seq : Nat) (h : Keeps r s) : Keeps r (State.fenceOver s p seq) := by
  unfold State.fenceOver
  repeat' first
    | with_reducible assumption
    | with_reducible apply keeps_updPt
    | fail_if_no_progress with_reducible apply keeps_mk

theorem keeps_storeRecord {r s : State} (p : Nat) (e : Entry) (h : Keeps r s) : Keeps r (State.storeRecord s p e) := by
  unfold State.storeRecord
  repeat' first
    | with_reducible assumption
    | with_reducible apply keeps_clusterFails
    | with_reducible apply keeps_repairRows
    | with_reducible apply keeps_scrambleAll
    | with_reducible apply keeps_updEntry
    | with_reducible apply keeps_errorAt
    | with_reducible apply keeps_fenceOver
    | with_reducible apply keeps_updPt
    | with_reducible apply keeps_ite
    | (refine keeps_foldl _ (fun _ _ _ => ?_) _ ?_)
    | split
    | fail_if_no_progress with_reducible apply keeps_mk
    | dsimp only

theorem keeps_finishWb {r s : State} (c : Nat) (st : Nat) (chan : Nat) (e : WbEntry) (h : Keeps r s) : Keeps r (State.finishWb s c st chan e) := by
  unfold State.finishWb
  repeat' first
    | with_reducible assumption
    | with_reducible apply keeps_keepRecord
    | with_reducible apply keeps_joinFlags
    | with_reducible apply keeps_dropWb
    | with_reducible apply keeps_coalFlush
    | with_reducible apply keeps_post
    | with_reducible apply keeps_ite
    | split
    | dsimp only

theorem keeps_giveValues {r s : State} (c : Nat) (r' : Run) (h : Keeps r s) : Keeps r (State.giveValues s c r') := by
  unfold State.giveValues
  repeat' first
    | with_reducible assumption
    | with_reducible apply keeps_updPt
    | with_reducible apply keeps_ite
    | split
    | fail_if_no_progress with_reducible apply keeps_mk

theorem keeps_updX {r s : State} (p : Nat) (f : XRegs → XRegs) (h : Keeps r s) : Keeps r (State.updX s p f) := by
  unfold State.updX
  repeat' first
    | with_reducible assumption
    | with_reducible apply keeps_updPt
    | fail_if_no_progress with_reducible apply keeps_mk

theorem keeps_startInv {r s : State} (p : Nat) (v : Word) (h : Keeps r s) : Keeps r (State.startInv s p v) := by
  unfold State.startInv
  repeat' first
    | with_reducible assumption
    | with_reducible apply keeps_updX
    | with_reducible apply keeps_ite
    | split
    | fail_if_no_progress with_reducible apply keeps_mk

theorem keeps_execXrootWrite {r s : State} (part : Nat) (v : Word) (h : Keeps r s) : KeepsR r (execXrootWrite part v s) := by
  unfold execXrootWrite
  repeat' first
    | with_reducible assumption
    | with_reducible apply keeps_updX
    | with_reducible apply keeps_startInv
    | with_reducible apply keepsR_next
    | with_reducible apply keepsR_fault
    | with_reducible apply keepsR_ite
    | fail_if_no_progress with_reducible apply keeps_mk

theorem keeps_execXinvAll {r s : State} (part : Nat) (h : Keeps r s) : KeepsR r (execXinvAll part s) := by
  unfold execXinvAll
  repeat' first
    | with_reducible assumption
    | with_reducible apply keeps_startInv
    | with_reducible apply keepsR_next
    | with_reducible apply keepsR_fault
    | with_reducible apply keepsR_ite

theorem keeps_execXinvPage {r s : State} (part : Nat) (page : BitVec 36) (h : Keeps r s) : KeepsR r (execXinvPage part page s) := by
  unfold execXinvPage
  repeat' first
    | with_reducible assumption
    | with_reducible apply keeps_startInv
    | with_reducible apply keepsR_next
    | with_reducible apply keepsR_fault
    | with_reducible apply keepsR_ite

theorem keeps_dropTlb {r s : State} (p : Nat) (v : Word) (h : Keeps r s) : Keeps r (State.dropTlb s p v) :=
  keeps_canon (s := s) (by rfl) (by rfl) (by rfl) (fun hc => canon_clusters hc fun hw => tab_wf_mapV hw _) h

theorem keeps_maskRun {r s : State} (p : Nat) (e : Entry) (h : Keeps r s) : Keeps r (State.maskRun s p e) := by
  unfold State.maskRun
  repeat' first
    | with_reducible assumption
    | with_reducible apply keeps_settle
    | with_reducible apply keeps_countFault
    | with_reducible apply keeps_refuseEntry
    | with_reducible apply keeps_scrambleAll
    | with_reducible apply keeps_joinFlags
    | with_reducible apply keeps_setKey
    | with_reducible apply keeps_updEntry
    | with_reducible apply keeps_ite
    | (refine keeps_foldl _ (fun _ _ _ => ?_) _ ?_)
    | split
    | fail_if_no_progress with_reducible apply keeps_mk
    | dsimp only

theorem keeps_execAppend {r s : State} (part : Nat) (h : Keeps r s) : KeepsR r (execAppend part s) := by
  unfold execAppend
  repeat' first
    | with_reducible assumption
    | with_reducible apply keepsR_next
    | with_reducible apply keepsR_fault
    | with_reducible apply keepsR_ite
    | with_reducible apply keeps_updPt
    | with_reducible apply keeps_bump
    | split
    | fail_if_no_progress with_reducible apply keeps_mk

theorem keeps_abortEntry {r s : State} (p : Nat) (e : Entry) (h : Keeps r s) : Keeps r (State.abortEntry s p e) := by
  unfold State.abortEntry
  repeat' first
    | with_reducible assumption
    | with_reducible apply keeps_updEntry
    | with_reducible apply keeps_errorAt
    | with_reducible apply keeps_fenceOver
    | with_reducible apply keeps_scrambleAll
    | with_reducible apply keeps_discardAll
    | with_reducible apply keeps_updPt
    | with_reducible apply keeps_ite
    | split
    | fail_if_no_progress with_reducible apply keeps_mk
    | dsimp only

theorem keeps_execHostAbort {r s : State} (part : Nat) (a : BitVec 48) (h : Keeps r s) : KeepsR r (execHostAbort part a s) := by
  unfold execHostAbort
  repeat' first
    | with_reducible assumption
    | with_reducible apply keeps_abortEntry
    | with_reducible apply keepsR_next
    | with_reducible apply keepsR_fault
    | with_reducible apply keepsR_ite
    | with_reducible apply keeps_updPt
    | with_reducible apply keeps_ite
    | (refine keeps_foldl _ (fun _ _ _ => ?_) _ ?_)
    | split
    | fail_if_no_progress with_reducible apply keeps_mk
    | dsimp only

theorem keeps_rederive {r s : State} (p c : Nat) (h : Keeps r s) : Keeps r (State.rederive s p c) := by
  unfold State.rederive
  refine keeps_ite _ h (keeps_foldl _ (fun t va k => ?_) _ h)
  split
  · refine keeps_foldl _ (fun u d k => keeps_foldl _ (fun u b k => ?_) _ k) _ k
    refine keeps_ite _ k (keeps_foldl _ (fun u n k => ?_) _ k)
    dsimp only
    split
    · exact keeps_drawn (keeps_settle _ _ k)
    · exact k
  · exact k

theorem keeps_execRack {r s : State} (v : Word) (h : Keeps r s) : KeepsR r (execRack v s) := by
  unfold execRack
  repeat' first
    | with_reducible assumption
    | with_reducible apply keeps_rederive
    | with_reducible apply keeps_restoreAll
    | with_reducible apply keeps_rerunPart
    | with_reducible apply keeps_msiFor
    | with_reducible apply keepsR_next
    | with_reducible apply keepsR_fault
    | with_reducible apply keepsR_ite
    | with_reducible apply keeps_updPt
    | with_reducible apply keeps_ite
    | (refine keeps_foldl _ (fun _ _ _ => ?_) _ ?_)
    | split
    | fail_if_no_progress with_reducible apply keeps_mk
    | dsimp only

theorem keeps_drainCancel {r s : State} (h : Keeps r s) : Keeps r (State.drainCancel s) := by
  unfold State.drainCancel
  repeat' first
    | with_reducible assumption
    | with_reducible apply keeps_updPlate
    | with_reducible apply keeps_enterS3
    | with_reducible apply keeps_sealEnd
    | with_reducible apply keeps_rerunPart
    | with_reducible apply keeps_ite
    | (refine keeps_foldl _ (fun _ _ _ => ?_) _ ?_)
    | split
    | fail_if_no_progress with_reducible apply keeps_mk
    | dsimp only

theorem keeps_updRegs {r s : State} (p : Nat) (f : LedgerRegs → LedgerRegs) (h : Keeps r s) : Keeps r (State.updRegs s p f) := by
  unfold State.updRegs
  repeat' first
    | with_reducible assumption
    | with_reducible apply keeps_updPt
    | fail_if_no_progress with_reducible apply keeps_mk

theorem keeps_execPctlEnable {r s : State} (part : Nat) (v : Bool) (h : Keeps r s) : KeepsR r (execPctlEnable part v s) := by
  unfold execPctlEnable
  repeat' first
    | with_reducible assumption
    | with_reducible apply keeps_updRegs
    | with_reducible apply keeps_formHolds
    | with_reducible apply keepsR_next
    | with_reducible apply keepsR_fault
    | with_reducible apply keepsR_ite
    | with_reducible apply keeps_ite
    | split
    | fail_if_no_progress with_reducible apply keeps_mk
    | dsimp only

theorem keeps_execPctlInit {r s : State} (part : Nat) (h : Keeps r s) : KeepsR r (execPctlInit part s) := by
  unfold execPctlInit
  repeat' first
    | with_reducible assumption
    | with_reducible apply keepsR_next
    | with_reducible apply keepsR_fault
    | with_reducible apply keepsR_ite
    | with_reducible apply keeps_updPt
    | with_reducible apply keeps_setObj
    | with_reducible apply keeps_ite
    | split
    | fail_if_no_progress with_reducible apply keeps_mk
    | dsimp only

theorem keeps_execPctlResume {r s : State} (part : Nat) (h : Keeps r s) : KeepsR r (execPctlResume part s) := by
  unfold execPctlResume
  repeat' first
    | with_reducible assumption
    | with_reducible apply keeps_updRegs
    | with_reducible apply keepsR_next
    | with_reducible apply keepsR_fault
    | with_reducible apply keepsR_ite
    | fail_if_no_progress with_reducible apply keeps_mk

theorem keeps_execPblkWrite {r s : State} (part : Nat) (v : Word) (h : Keeps r s) : KeepsR r (execPblkWrite part v s) := by
  unfold execPblkWrite
  repeat' first
    | with_reducible assumption
    | with_reducible apply keeps_updRegs
    | with_reducible apply keepsR_next
    | with_reducible apply keepsR_fault
    | with_reducible apply keepsR_ite
    | fail_if_no_progress with_reducible apply keeps_mk

theorem keeps_execClogBaseWrite {r s : State} (part : Nat) (v : Word) (h : Keeps r s) : KeepsR r (execClogBaseWrite part v s) := by
  unfold execClogBaseWrite
  repeat' first
    | with_reducible assumption
    | with_reducible apply keeps_updRegs
    | with_reducible apply keepsR_next
    | with_reducible apply keepsR_fault
    | with_reducible apply keepsR_ite
    | fail_if_no_progress with_reducible apply keeps_mk

theorem keeps_execFmapWrite {r s : State} (part : Nat) (v : Word) (h : Keeps r s) : KeepsR r (execFmapWrite part v s) := by
  unfold execFmapWrite
  repeat' first
    | with_reducible assumption
    | with_reducible apply keeps_updX
    | with_reducible apply keepsR_next
    | with_reducible apply keepsR_fault
    | with_reducible apply keepsR_ite
    | fail_if_no_progress with_reducible apply keeps_mk

theorem keeps_clearSlotMap {r s : State} (c : Nat) (p : Nat) (h : Keeps r s) : Keeps r (State.clearSlotMap s c p) := by
  unfold State.clearSlotMap
  repeat' first
    | with_reducible assumption
    | with_reducible apply keeps_store
    | with_reducible apply keeps_ite
    | (refine keeps_foldl _ (fun _ _ _ => ?_) _ ?_)
    | split
    | fail_if_no_progress with_reducible apply keeps_mk
    | dsimp only

theorem keeps_clearLeavers {r s : State} (p : Nat) (old : List Nat) (new : List Nat) (h : Keeps r s) : Keeps r (State.clearLeavers s p old new) := by
  unfold State.clearLeavers
  repeat' first
    | with_reducible assumption
    | with_reducible apply keeps_clearSlotMap
    | with_reducible apply keeps_padInit
    | with_reducible apply keeps_updCl
    | with_reducible apply keeps_ite
    | (refine keeps_foldl _ (fun _ _ _ => ?_) _ ?_)
    | split
    | fail_if_no_progress with_reducible apply keeps_mk

theorem keeps_resState {r s : State} (x : Res) (hx : KeepsR r x) (h : Keeps r s) : Keeps r (resState s x) := by
  unfold resState
  split
  · exact hx _ rfl
  · exact h

theorem keeps_pctl {r s : State} (p v : Nat) (h : Keeps r s) : Keeps r (State.pctl s p v) := by
  have h1 := keeps_resState _ (keeps_execPctlEnable p (bit1 v 0) h) h
  have h2 := keeps_ite (bit1 v 1) (keeps_resState _ (keeps_execPctlInit p h1) h1) h1
  have h3 := keeps_ite (bit1 v 2) (keeps_resState _ (keeps_execPctlResume p h2) h2) h2
  unfold State.pctl
  exact h3

theorem keeps_pstateWrite {r s : State} (v : Nat) (h : Keeps r s) : Keeps r (State.pstateWrite s v) := by
  have h1 : Keeps r { s with power := { s.power with autoWake := bit1 v 5 } } := keeps_mk h
  revert h1
  unfold State.pstateWrite
  generalize { s with power := { s.power with autoWake := bit1 v 5 } } = t
  intro h1
  have h2 : Keeps r (match bits v 3 2 with
    | 1 => resState t (execWakeRequest t)
    | 2 => resState t (execRequestS2 t)
    | 3 => resState t (execRequestS3 t)
    | _ => t) := by
    split
    · exact keeps_resState _ (keeps_execWakeRequest h1) h1
    · exact keeps_resState _ (keeps_execRequestS2 h1) h1
    · exact keeps_resState _ (keeps_execRequestS3 h1) h1
    · exact h1
  exact keeps_ite _ (keeps_resState _ (keeps_execS3Ok h2) h2) h2

theorem keeps_ledgerWrite {r s : State} (p : Nat) (o : Nat) (v : Word) (h : Keeps r s) : KeepsR r (State.ledgerWrite s p o v) := by
  unfold State.ledgerWrite
  repeat' first
    | with_reducible assumption
    | with_reducible apply keeps_updRegs
    | with_reducible apply keeps_pctl
    | with_reducible apply keeps_execHostAbort
    | with_reducible apply keeps_execPblkWrite
    | with_reducible apply keeps_execClogBaseWrite
    | with_reducible apply keepsR_next
    | with_reducible apply keepsR_fault
    | with_reducible apply keepsR_ite
    | with_reducible apply keeps_ite
    | split
    | fail_if_no_progress with_reducible apply keeps_mk

theorem keeps_xlateWrite {r s : State} (p : Nat) (o : Nat) (v : Word) (pa : Nat) (h : Keeps r s) : KeepsR r (State.xlateWrite s p o v pa) := by
  unfold State.xlateWrite
  repeat' first
    | with_reducible assumption
    | with_reducible apply keeps_execXrootWrite
    | with_reducible apply keeps_updX
    | with_reducible apply keeps_execXinvAll
    | with_reducible apply keeps_execXinvPage
    | with_reducible apply keeps_execFmapWrite
    | with_reducible apply keepsR_next
    | with_reducible apply keepsR_fault
    | with_reducible apply keepsR_ite
    | with_reducible apply keeps_ite
    | split
    | fail_if_no_progress with_reducible apply keeps_mk

theorem keeps_blockWrite {r s : State} (pa : Nat) (v : Word) (h : Keeps r s) : KeepsR r (State.blockWrite s pa v) := by
  unfold State.blockWrite
  repeat' first
    | with_reducible assumption
    | with_reducible apply keeps_writeQueueStatus
    | with_reducible apply keeps_execRack
    | with_reducible apply keeps_pstateWrite
    | with_reducible apply keepsR_next
    | with_reducible apply keepsR_fault
    | with_reducible apply keepsR_ite
    | split
    | fail_if_no_progress with_reducible apply keeps_mk

theorem keeps_readControl {r s : State} (p : Packet) (h : Keeps r s) : KeepsR r (State.readControl s p) := by
  unfold State.readControl
  extract_lets a t own u
  have ht : Keeps r t := keeps_ite _ (keeps_resState _ (keeps_execAppend _ h) h) h
  have hu : Keeps r u := keeps_ite _ (keeps_woken _ ht) ht
  refine keepsR_ite _ (keepsR_fault _ _) (keepsR_ite _ (keepsR_next h) ?_)
  clear_value u
  split
  · exact keepsR_next (keeps_respond _ _ _ hu)
  · exact keepsR_fault _ _

theorem keeps_landRefetch {r s : State} (c : Nat) (w : Watch) (bytes : List Byte) (bad : List Nat) (h : Keeps r s) :
    Keeps r (State.landRefetch s c w bytes bad) := by
  unfold State.landRefetch
  extract_lets live part
  split
  · exact keeps_markLive _ _ _ _ (keeps_updTileQ _ _ _ h)
  · refine keeps_cells (s := List.foldl _ s _) _ _ _ _ _ id id id (fun k => tab_wf_foldPut _ _ _ k) (fun k => tab_wf_foldPut _ _ _ k) ?_
    exact keeps_foldl _ (fun _ _ k => keeps_storeRaw _ _ k) _ h

theorem keeps_endRefetch {r s : State} (c : Nat) (w : Watch) (p : Packet) (h : Keeps r s) : Keeps r (State.endRefetch s c w p) := by
  unfold State.endRefetch
  extract_lets dropped status q
  have hd (e : Byte) : Keeps r (dropped e) := keeps_bump _ _ _ (keeps_refetchEnds _ _ _ h)
  clear_value dropped
  refine keeps_ite _ (hd _) (keeps_ite _ (keeps_ite _ (keeps_refetch _ _ h) (keeps_refetchEnds _ _ _ h)) ?_)
  split
  · exact hd _
  · split
    · exact keeps_joinFlags _ _ _ (keeps_updWatch _ _ _ (keeps_landRefetch _ _ _ _ h))
    · exact keeps_updWatch _ _ _ (keeps_landRefetch _ _ _ _ h)

theorem keeps_ackFault {r s : State} (p : Packet) (status : Byte) (h : Keeps r s) : Keeps r (State.ackFault s p status) := by
  unfold State.ackFault
  repeat' first
    | with_reducible assumption
    | with_reducible apply keeps_emit

theorem keeps_writeCluster {r s : State} (c : Nat) (p : Packet) (h : Keeps r s) : Keeps r (State.writeCluster s c p) := by
  unfold State.writeCluster
  repeat' first
    | with_reducible assumption
    | with_reducible apply keeps_woken
    | with_reducible apply keeps_ackFault
    | with_reducible apply keeps_refusePiece
    | with_reducible apply keeps_landWrite
    | with_reducible apply keeps_ite
    | split

theorem keeps_writeMem {r s : State} (p : Packet) (h : Keeps r s) : Keeps r (State.writeMem s p) := by
  unfold State.writeMem
  repeat' first
    | with_reducible assumption
    | with_reducible apply keeps_ackFault
    | with_reducible apply keeps_ackWrite
    | with_reducible apply keeps_awaitAcks
    | with_reducible apply keeps_refusePiece
    | with_reducible apply keeps_store
    | with_reducible apply keeps_ite
    | (refine keeps_foldl _ (fun _ _ _ => ?_) _ ?_)
    | split

end Sys2Proof.Machine
end

