-- ==== Sys2Proof/Laws/KeepsCommands.lean ====
section
/-! SUPPORT. `Keeps` of every command. -/

namespace Sys2Proof.Machine

theorem keeps_execGeometryAdvanceNotice {r s : State} (part : Nat) (h : Keeps r s) : KeepsR r (execGeometryAdvanceNotice part s) := by
  unfold execGeometryAdvanceNotice
  repeat' first
    | with_reducible assumption
    | with_reducible apply keeps_geoStep
    | with_reducible apply keepsR_next
    | with_reducible apply keepsR_fault
    | with_reducible apply keepsR_ite

theorem keeps_execCheckpointFlush {r s : State} (c : Nat) (h : Keeps r s) : KeepsR r (execCheckpointFlush c s) := by
  unfold execCheckpointFlush
  repeat' first
    | with_reducible assumption
    | with_reducible apply keeps_flushRows
    | with_reducible apply keepsR_next
    | with_reducible apply keepsR_fault
    | with_reducible apply keepsR_ite
    | with_reducible apply keeps_ite
    | split

theorem keeps_execClusterFault {r s : State} (f : FaultNote) (h : Keeps r s) : KeepsR r (execClusterFault f s) :=
  keepsR_next (keeps_clusterFails _ (keeps_ite _ (keeps_firmwareFails _ h) h))

theorem keeps_execHandshakeTimeout {r s : State} (c : Nat) (us : Nat) (h : Keeps r s) : KeepsR r (execHandshakeTimeout c us s) := by
  unfold execHandshakeTimeout
  repeat' first
    | with_reducible assumption
    | with_reducible apply keeps_clusterFails
    | with_reducible apply keepsR_next
    | with_reducible apply keepsR_fault
    | with_reducible apply keepsR_ite
    | with_reducible apply keeps_ite
    | split

theorem keeps_execDieLoss {r s : State} (die : Nat) (junctionOk : Bool) (cutOff : List Nat) (h : Keeps r s) : KeepsR r (execDieLoss die junctionOk cutOff s) := by
  unfold execDieLoss
  repeat' first
    | with_reducible assumption
    | with_reducible apply keeps_dieLost
    | with_reducible apply keepsR_next
    | with_reducible apply keepsR_fault
    | with_reducible apply keepsR_ite
    | with_reducible apply keeps_ite
    | split

theorem keeps_execHubLoss {r s : State} (k : Nat) (h : Keeps r s) : KeepsR r (execHubLoss k s) := keepsR_next (keeps_hubLost k h)

theorem keeps_execMirrorRebuilt {r s : State} (part : Nat) (h : Keeps r s) : KeepsR r (execMirrorRebuilt part s) := by
  unfold execMirrorRebuilt
  repeat' first
    | with_reducible assumption
    | with_reducible apply keeps_event
    | with_reducible apply keepsR_next
    | with_reducible apply keepsR_fault
    | with_reducible apply keepsR_ite
    | with_reducible apply keeps_updPt
    | with_reducible apply keeps_ite
    | split
    | fail_if_no_progress with_reducible apply keeps_mk

theorem keeps_stackLost {r s : State} (m : Nat) (h : Keeps r s) : Keeps r (s.stackLost m) := by
  have h1 := keeps_noteRerun s (s.stopParts (fun _ _ => true) false).2 false (keeps_stopParts (fun _ _ => true) false h)
  unfold State.stackLost
  revert h1
  generalize s.stopParts (fun _ _ => true) false = q
  intro h1
  refine keeps_postRecord _ _ _ _ (keeps_planChanged ?_)
  exact keeps_ite _ (keeps_exhaust (keeps_mk h1)) (keeps_mk h1)

theorem keeps_execStackLoss {r s : State} (m : Nat) (h : Keeps r s) : KeepsR r (execStackLoss m s) :=
  keepsR_ite _ (keepsR_next h) (keepsR_next (keeps_stackLost m h))

theorem keeps_execCxlPortLoss {r s : State} (x : Nat) (h : Keeps r s) : KeepsR r (execCxlPortLoss x s) := by
  have h1 := keeps_noteRerun s (s.stopParts (fun _ _ => true) false).2 false (keeps_stopParts (fun _ _ => true) false h)
  unfold execCxlPortLoss
  revert h1
  generalize s.stopParts (fun _ _ => true) false = q
  intro h1
  exact keepsR_ite _ (keepsR_next h) (keepsR_next (keeps_postRecord _ _ _ _ (keeps_planChanged (keeps_mk h1))))

theorem keeps_execCxlPortRetrained {r s : State} (x : Nat) (lossReported : Bool) (h : Keeps r s) : KeepsR r (execCxlPortRetrained x lossReported s) := by
  unfold execCxlPortRetrained
  have h1 : Keeps r { s with plan := { s.plan with cxlDown := s.plan.cxlDown.filter (· != x) } } := keeps_mk h
  refine keepsR_ite _ (keepsR_next (keeps_planChanged (keeps_ite _ (keeps_drawn (keeps_foldl _ (fun t e k => ?_) _ h1)) h1))) (keepsR_next h)
  split
  · exact keeps_mem _ (fun k => memory_wf_writeN k ..) k
  · exact k

theorem keeps_execHostDieLoss {r s : State} (h : Keeps r s) : KeepsR r (execHostDieLoss s) := by
  unfold execHostDieLoss
  repeat' first
    | with_reducible assumption
    | with_reducible apply keeps_hostLost
    | with_reducible apply keepsR_next
    | with_reducible apply keepsR_fault
    | with_reducible apply keepsR_ite

theorem keeps_execHeartbeatTimeout {r s : State} (ms : Nat) (h : Keeps r s) : KeepsR r (execHeartbeatTimeout ms s) := by
  unfold execHeartbeatTimeout
  repeat' first
    | with_reducible assumption
    | with_reducible apply keeps_hostLost
    | with_reducible apply keepsR_next
    | with_reducible apply keepsR_fault
    | with_reducible apply keepsR_ite
    | with_reducible apply keeps_ite
    | split

theorem keeps_execSdFault {r s : State} (h : Keeps r s) : KeepsR r (execSdFault s) := by
  unfold execSdFault
  repeat' first
    | with_reducible assumption
    | with_reducible apply keeps_emit
    | with_reducible apply keeps_updImg
    | with_reducible apply keepsR_next
    | with_reducible apply keepsR_fault
    | with_reducible apply keepsR_ite
    | with_reducible apply keeps_ite
    | (refine keeps_foldl _ (fun _ _ _ => ?_) _ ?_)
    | split
    | fail_if_no_progress with_reducible apply keeps_mk
    | dsimp only

theorem keeps_execAocMismatch {r s : State} (h : Keeps r s) : KeepsR r (execAocMismatch s) := by
  unfold execAocMismatch
  repeat' first
    | with_reducible assumption
    | with_reducible apply keepsR_next
    | with_reducible apply keepsR_fault
    | with_reducible apply keepsR_ite

theorem keeps_execComputeReset {r s : State} (die : Nat) (h : Keeps r s) : KeepsR r (execComputeReset die s) := by
  unfold execComputeReset
  repeat' first
    | with_reducible assumption
    | with_reducible apply keeps_computeDomain
    | with_reducible apply keepsR_next
    | with_reducible apply keepsR_fault
    | with_reducible apply keepsR_ite
    | with_reducible apply keeps_updDie
    | with_reducible apply keeps_emit
    | fail_if_no_progress with_reducible apply keeps_mk

theorem keeps_execComputeResetEnd {r s : State} (die : Nat) (h : Keeps r s) : KeepsR r (execComputeResetEnd die s) := by
  unfold execComputeResetEnd
  repeat' first
    | with_reducible assumption
    | with_reducible apply keepsR_next
    | with_reducible apply keepsR_fault
    | with_reducible apply keepsR_ite
    | with_reducible apply keeps_updDie
    | fail_if_no_progress with_reducible apply keeps_mk
    | dsimp only

theorem keeps_loseCutOff {r s : State} (h : Keeps r s) : Keeps r s.loseCutOff := by
  unfold State.loseCutOff
  split
  · exact h
  · exact keeps_dieLost _ _ _ _ h

theorem keeps_execFabricReset {r s : State} (die : Nat) (h : Keeps r s) : KeepsR r (execFabricReset die s) := by
  unfold execFabricReset
  repeat' first
    | with_reducible assumption
    | with_reducible apply keeps_updDie
    | with_reducible apply keeps_loseCutOff
    | with_reducible apply keepsR_next
    | with_reducible apply keepsR_fault
    | with_reducible apply keepsR_ite
    | with_reducible apply keeps_ite
    | (refine keeps_foldl _ (fun _ _ _ => ?_) _ ?_)
    | split
    | fail_if_no_progress with_reducible apply keeps_mk
    | dsimp only

theorem keeps_execJunctionEmpty {r s : State} (die : Nat) (h : Keeps r s) : KeepsR r (execJunctionEmpty die s) := by
  unfold execJunctionEmpty
  repeat' first
    | with_reducible assumption
    | with_reducible apply keeps_fabricDomain
    | with_reducible apply keepsR_next
    | with_reducible apply keepsR_fault
    | with_reducible apply keepsR_ite
    | with_reducible apply keeps_ite
    | split

theorem keeps_execJunctionDrainTimeout {r s : State} (die : Nat) (h : Keeps r s) : KeepsR r (execJunctionDrainTimeout die s) := by
  unfold execJunctionDrainTimeout
  exact keepsR_ite _ (keepsR_next (keeps_fabricDomain _ (keeps_bump _ _ _ (keeps_foldl _ (fun _ _ k => keeps_stopForRerun _ _ k) _ h)))) (keepsR_next h)

theorem keeps_execDieReturn {r s : State} (die : Nat) (h : Keeps r s) : KeepsR r (execDieReturn die s) := by
  unfold execDieReturn
  have h1 := keeps_planChanged (keeps_renumber (keeps_updDie die (fun x => { x with hole := false, failed := false, draining := false }) h))
  exact keepsR_ite _ (keepsR_next (keeps_ite _ h1 (keeps_geoChanged h1))) (keepsR_next h)

theorem keeps_execDieToDiePortDown {r s : State} (die : Nat) (side : Nat) (h : Keeps r s) : KeepsR r (execDieToDiePortDown die side s) := by
  unfold execDieToDiePortDown
  repeat' first
    | with_reducible assumption
    | with_reducible apply keeps_sideDown
    | with_reducible apply keeps_hubLost
    | with_reducible apply keeps_loseCutOff
    | with_reducible apply keepsR_next
    | with_reducible apply keepsR_fault
    | with_reducible apply keepsR_ite
    | with_reducible apply keeps_ite
    | (refine keeps_foldl _ (fun _ _ _ => ?_) _ ?_)
    | split
    | fail_if_no_progress with_reducible apply keeps_mk
    | dsimp only

theorem keeps_execPowerCapControl {r s : State} (avgW : Nat) (h : Keeps r s) : KeepsR r (execPowerCapControl avgW s) := by
  unfold execPowerCapControl
  repeat' first
    | with_reducible assumption
    | with_reducible apply keeps_drawn
    | with_reducible apply keeps_updDie
    | with_reducible apply keepsR_next
    | with_reducible apply keepsR_fault
    | with_reducible apply keepsR_ite
    | with_reducible apply keeps_ite
    | (refine keeps_foldl _ (fun _ _ _ => ?_) _ ?_)
    | split
    | fail_if_no_progress with_reducible apply keeps_mk
    | dsimp only

theorem keeps_execThermalSample {r s : State} (temps : List (Nat × Int)) (h : Keeps r s) : KeepsR r (execThermalSample temps s) := by
  unfold execThermalSample
  repeat' first
    | with_reducible assumption
    | with_reducible apply keeps_applyTemp
    | with_reducible apply keeps_trip
    | with_reducible apply keepsR_next
    | with_reducible apply keepsR_fault
    | with_reducible apply keepsR_ite
    | with_reducible apply keeps_ite
    | (refine keeps_foldl _ (fun _ _ _ => ?_) _ ?_)
    | split
    | dsimp only

theorem keeps_execCoolantSample {r s : State} (inlet : Int) (outlet : Int) (flow : Nat) (h : Keeps r s) : KeepsR r (execCoolantSample inlet outlet flow s) := by
  unfold execCoolantSample
  repeat' first
    | with_reducible assumption
    | with_reducible apply keeps_trip
    | with_reducible apply keepsR_next
    | with_reducible apply keepsR_fault
    | with_reducible apply keepsR_ite
    | with_reducible apply keeps_ite
    | split
    | fail_if_no_progress with_reducible apply keeps_mk
    | dsimp only

theorem keeps_execFlowLowTimeout {r s : State} (h : Keeps r s) : KeepsR r (execFlowLowTimeout s) := by
  unfold execFlowLowTimeout
  repeat' first
    | with_reducible assumption
    | with_reducible apply keeps_trip
    | with_reducible apply keepsR_next
    | with_reducible apply keepsR_fault
    | with_reducible apply keepsR_ite
    | with_reducible apply keeps_ite
    | split

theorem keeps_execClusterIdleStop {r s : State} (c : Nat) (us : Nat) (h : Keeps r s) : KeepsR r (execClusterIdleStop c us s) := by
  unfold execClusterIdleStop
  repeat' first
    | with_reducible assumption
    | with_reducible apply keepsR_next
    | with_reducible apply keepsR_fault
    | with_reducible apply keepsR_ite
    | with_reducible apply keeps_updCl
    | with_reducible apply keeps_ite
    | split
    | fail_if_no_progress with_reducible apply keeps_mk

theorem keeps_execClusterWake {r s : State} (c : Nat) (h : Keeps r s) : KeepsR r (execClusterWake c s) := by
  unfold execClusterWake
  repeat' first
    | with_reducible assumption
    | with_reducible apply keeps_woken
    | with_reducible apply keepsR_next
    | with_reducible apply keepsR_fault
    | with_reducible apply keepsR_ite

theorem keeps_execPllLockFail {r s : State} (c : Nat) (h : Keeps r s) : KeepsR r (execPllLockFail c s) := by
  unfold execPllLockFail
  repeat' first
    | with_reducible assumption
    | with_reducible apply keeps_clusterFails
    | with_reducible apply keepsR_next
    | with_reducible apply keepsR_fault
    | with_reducible apply keepsR_ite
    | with_reducible apply keeps_bump

theorem keeps_execPowerApplied {r s : State} (mv : Nat) (h : Keeps r s) : KeepsR r (execPowerApplied mv s) := by
  unfold execPowerApplied
  repeat' first
    | with_reducible assumption
    | with_reducible apply keepsR_next
    | with_reducible apply keepsR_fault
    | with_reducible apply keepsR_ite
    | with_reducible apply keeps_ite
    | split
    | fail_if_no_progress with_reducible apply keeps_mk

theorem keeps_execInputLoss {r s : State} (h : Keeps r s) : KeepsR r (execInputLoss s) := by
  unfold execInputLoss
  repeat' first
    | with_reducible assumption
    | with_reducible apply keepsR_next
    | with_reducible apply keepsR_fault
    | with_reducible apply keepsR_ite
    | with_reducible apply keeps_ite
    | split
    | fail_if_no_progress with_reducible apply keeps_mk

theorem keeps_execInputReturn {r s : State} (mv : Nat) (h : Keeps r s) : KeepsR r (execInputReturn mv s) := by
  unfold execInputReturn
  repeat' first
    | with_reducible assumption
    | with_reducible apply keepsR_next
    | with_reducible apply keepsR_fault
    | with_reducible apply keepsR_ite
    | with_reducible apply keeps_bump
    | with_reducible apply keeps_ite
    | split
    | fail_if_no_progress with_reducible apply keeps_mk
    | dsimp only

theorem keeps_execHoldupExpiry {r s : State} (h : Keeps r s) : KeepsR r (execHoldupExpiry s) := by
  unfold execHoldupExpiry
  repeat' first
    | with_reducible assumption
    | with_reducible apply keeps_trip
    | with_reducible apply keeps_toS5
    | with_reducible apply keepsR_next
    | with_reducible apply keepsR_fault
    | with_reducible apply keepsR_ite
    | with_reducible apply keeps_ite
    | split

theorem keeps_execOvervoltage {r s : State} (h : Keeps r s) : KeepsR r (execOvervoltage s) := by
  unfold execOvervoltage
  repeat' first
    | with_reducible assumption
    | with_reducible apply keepsR_next
    | with_reducible apply keepsR_fault
    | with_reducible apply keepsR_ite
    | with_reducible apply keeps_ite
    | split
    | fail_if_no_progress with_reducible apply keeps_mk

theorem keeps_execSingleFeed {r s : State} (lostB : Bool) (h : Keeps r s) : KeepsR r (execSingleFeed lostB s) := by
  unfold execSingleFeed
  repeat' first
    | with_reducible assumption
    | with_reducible apply keepsR_next
    | with_reducible apply keepsR_fault
    | with_reducible apply keepsR_ite
    | fail_if_no_progress with_reducible apply keeps_mk

theorem keeps_execSingleFeedEnd {r s : State} (h : Keeps r s) : KeepsR r (execSingleFeedEnd s) := by
  unfold execSingleFeedEnd
  repeat' first
    | with_reducible assumption
    | with_reducible apply keepsR_next
    | with_reducible apply keepsR_fault
    | with_reducible apply keepsR_ite
    | fail_if_no_progress with_reducible apply keeps_mk

theorem keeps_execLowInput {r s : State} (mv : Nat) (h : Keeps r s) : KeepsR r (execLowInput mv s) := by
  unfold execLowInput
  repeat' first
    | with_reducible assumption
    | with_reducible apply keepsR_next
    | with_reducible apply keepsR_fault
    | with_reducible apply keepsR_ite
    | with_reducible apply keeps_ite
    | split
    | fail_if_no_progress with_reducible apply keeps_mk

theorem keeps_execPwrWarnAssert {r s : State} (h : Keeps r s) : KeepsR r (execPwrWarnAssert s) := by
  unfold execPwrWarnAssert
  repeat' first
    | with_reducible assumption
    | with_reducible apply keeps_event
    | with_reducible apply keeps_sealStart
    | with_reducible apply keepsR_next
    | with_reducible apply keepsR_fault
    | with_reducible apply keepsR_ite
    | with_reducible apply keeps_ite
    | split
    | fail_if_no_progress with_reducible apply keeps_mk

theorem keeps_execPartnerSealAck {r s : State} (h : Keeps r s) : KeepsR r (execPartnerSealAck s) := by
  have h1 := keeps_sealTaken h
  have h2 := keeps_foldl (r := r) (fun (t : State) (p : Nat) => t.stopForRerun p fun _ => true) (fun _ _ k => keeps_stopForRerun _ _ k) (List.range 16) h1
  unfold execPartnerSealAck
  exact keepsR_ite _ (keepsR_ite _ (keepsR_next (keeps_enterS3 (keeps_mk h2))) (keepsR_next h1)) (keepsR_next h)

theorem keeps_execPwrWarnRelease {r s : State} (h : Keeps r s) : KeepsR r (execPwrWarnRelease s) := by
  unfold execPwrWarnRelease
  repeat' first
    | with_reducible assumption
    | with_reducible apply keeps_sealEnd
    | with_reducible apply keepsR_next
    | with_reducible apply keepsR_fault
    | with_reducible apply keepsR_ite
    | with_reducible apply keeps_ite
    | split
    | fail_if_no_progress with_reducible apply keeps_mk
    | dsimp only

theorem keeps_closeAll {r s : State} (h : Keeps r s) : Keeps r s.closeAll :=
  keeps_foldl _ (fun _ _ k => keeps_updCl _ _ (keeps_closeWindows _ k)) _ h

theorem keeps_execS2Entry {r s : State} (h : Keeps r s) : KeepsR r (execS2Entry s) := by
  unfold execS2Entry
  extract_lets t0 t1 t2
  have h0 : Keeps r t0 := keeps_closeAll h
  have h1 : Keeps r t1 := keeps_foldl _ (fun _ _ k => keeps_coalOut _ _ k) _ h0
  have h2 : Keeps r t2 := keeps_canon (s := t1) (by rfl) (by rfl) (by rfl) (fun hc => canon_clusters hc fun hw => tab_wf_mapV hw _) h1
  clear_value t0 t1 t2
  exact keepsR_ite _ (keepsR_ite _ (keepsR_next h0) (keepsR_next (keeps_nextReq (keeps_mk (keeps_flushHubs h2))))) (keepsR_next h)

theorem keeps_execAutoWake {r s : State} (h : Keeps r s) : KeepsR r (execAutoWake s) := by
  unfold execAutoWake
  repeat' first
    | with_reducible assumption
    | with_reducible apply keepsR_next
    | with_reducible apply keepsR_fault
    | with_reducible apply keepsR_ite
    | with_reducible apply keeps_ite
    | split
    | fail_if_no_progress with_reducible apply keeps_mk
    | dsimp only

theorem keeps_execWakeDone {r s : State} (h : Keeps r s) : KeepsR r (execWakeDone s) := by
  unfold execWakeDone
  extract_lets t
  have ht : Keeps r t := keeps_mk (keeps_scrubAll h)
  clear_value t
  exact keepsR_ite _ (keepsR_next (keeps_nextReq (keeps_canon (s := t) (by rfl) (by rfl) (by rfl)
    (fun hc => canon_clusters hc fun hw => tab_wf_mapV hw _) ht))) (keepsR_next h)

theorem keeps_execS3GraceExpiry {r s : State} (h : Keeps r s) : KeepsR r (execS3GraceExpiry s) := by
  unfold execS3GraceExpiry
  repeat' first
    | with_reducible assumption
    | with_reducible apply keeps_enterS3
    | with_reducible apply keeps_toS3
    | with_reducible apply keepsR_next
    | with_reducible apply keepsR_fault
    | with_reducible apply keepsR_ite
    | with_reducible apply keeps_ite
    | split

theorem keeps_execSdRestart {r s : State} (h : Keeps r s) : KeepsR r (execSdRestart s) := by
  unfold execSdRestart
  repeat' first
    | with_reducible assumption
    | with_reducible apply keeps_sdStart
    | with_reducible apply keeps_issueMgmt
    | with_reducible apply keeps_issueAtt
    | with_reducible apply keepsR_next
    | with_reducible apply keepsR_fault
    | with_reducible apply keepsR_ite
    | with_reducible apply keeps_ite
    | split
    | fail_if_no_progress with_reducible apply keeps_mk
    | dsimp only

theorem keeps_execGetVersion {r s : State} (path : MdpPath) (u : MdpUnit) (h : Keeps r s) : KeepsR r (execGetVersion path u s) :=
  keepsR_next (keeps_mdpArrive _ _ _ h)

theorem keeps_execGetCapabilities {r s : State} (path : MdpPath) (u : MdpUnit) (h : Keeps r s) : KeepsR r (execGetCapabilities path u s) :=
  keepsR_next (keeps_mdpArrive _ _ _ h)

theorem keeps_execNegotiateAlgorithms {r s : State} (path : MdpPath) (u : MdpUnit) (h : Keeps r s) : KeepsR r (execNegotiateAlgorithms path u s) :=
  keepsR_next (keeps_mdpArrive _ _ _ h)

theorem keeps_execGetDigests {r s : State} (path : MdpPath) (u : MdpUnit) (h : Keeps r s) : KeepsR r (execGetDigests path u s) :=
  keepsR_next (keeps_mdpArrive _ _ _ h)

theorem keeps_execGetCertificate {r s : State} (path : MdpPath) (u : MdpUnit) (h : Keeps r s) : KeepsR r (execGetCertificate path u s) :=
  keepsR_next (keeps_mdpArrive _ _ _ h)

theorem keeps_execChallenge {r s : State} (path : MdpPath) (u : MdpUnit) (h : Keeps r s) : KeepsR r (execChallenge path u s) :=
  keepsR_next (keeps_mdpArrive _ _ _ h)

theorem keeps_execGetMeasurements {r s : State} (path : MdpPath) (u : MdpUnit) (h : Keeps r s) : KeepsR r (execGetMeasurements path u s) :=
  keepsR_next (keeps_mdpArrive _ _ _ h)

theorem keeps_execKeyExchange {r s : State} (path : MdpPath) (u : MdpUnit) (h : Keeps r s) : KeepsR r (execKeyExchange path u s) :=
  keepsR_next (keeps_mdpArrive _ _ _ h)

theorem keeps_execFinish {r s : State} (path : MdpPath) (u : MdpUnit) (h : Keeps r s) : KeepsR r (execFinish path u s) :=
  keepsR_next (keeps_mdpArrive _ _ _ h)

theorem keeps_execHeartbeat {r s : State} (path : MdpPath) (u : MdpUnit) (h : Keeps r s) : KeepsR r (execHeartbeat path u s) :=
  keepsR_next (keeps_mdpArrive _ _ _ h)

theorem keeps_execKeyUpdate {r s : State} (path : MdpPath) (u : MdpUnit) (h : Keeps r s) : KeepsR r (execKeyUpdate path u s) :=
  keepsR_next (keeps_mdpArrive _ _ _ h)

theorem keeps_execEndSession {r s : State} (path : MdpPath) (u : MdpUnit) (h : Keeps r s) : KeepsR r (execEndSession path u s) :=
  keepsR_next (keeps_mdpArrive _ _ _ h)

theorem keeps_execDtlsHandshake {r s : State} (anchor : Nat) (cas : List (List Byte × List Byte)) (leaf : List Byte × List Byte) (h : Keeps r s) : KeepsR r (execDtlsHandshake anchor cas leaf s) := by
  unfold execDtlsHandshake
  repeat' first
    | with_reducible assumption
    | with_reducible apply keeps_updSess
    | with_reducible apply keeps_bump
    | with_reducible apply keeps_showSess
    | with_reducible apply keepsR_next
    | with_reducible apply keepsR_fault
    | with_reducible apply keepsR_ite
    | with_reducible apply keeps_ite
    | (refine keeps_foldl _ (fun _ _ _ => ?_) _ ?_)
    | split
    | fail_if_no_progress with_reducible apply keeps_mk
    | dsimp only

theorem keeps_execSessionKeyUpdate {r s : State} (sess : Nat) (h : Keeps r s) : KeepsR r (execSessionKeyUpdate sess s) := by
  unfold execSessionKeyUpdate
  repeat' first
    | with_reducible assumption
    | with_reducible apply keeps_updSess
    | with_reducible apply keepsR_next
    | with_reducible apply keepsR_fault
    | with_reducible apply keepsR_ite
    | with_reducible apply keeps_ite
    | split
    | fail_if_no_progress with_reducible apply keeps_mk

theorem keeps_execVerifyDone {r s : State} (cls : Nat) (h : Keeps r s) : KeepsR r (execVerifyDone cls s) := by
  unfold execVerifyDone
  repeat' first
    | with_reducible assumption
    | with_reducible apply keeps_updImg
    | with_reducible apply keepsR_next
    | with_reducible apply keepsR_fault
    | with_reducible apply keepsR_ite
    | with_reducible apply keeps_ite
    | split
    | fail_if_no_progress with_reducible apply keeps_mk
    | dsimp only

theorem keeps_execChargeComplete {r s : State} (h : Keeps r s) : KeepsR r (execChargeComplete s) := by
  unfold execChargeComplete
  repeat' first
    | with_reducible assumption
    | with_reducible apply keeps_bootStart
    | with_reducible apply keepsR_next
    | with_reducible apply keepsR_fault
    | with_reducible apply keepsR_ite
    | with_reducible apply keeps_ite
    | (refine keeps_foldl _ (fun _ _ _ => ?_) _ ?_)
    | split
    | fail_if_no_progress with_reducible apply keeps_mk
    | dsimp only

theorem keeps_execL0Reached {r s : State} (h : Keeps r s) : KeepsR r (execL0Reached s) := by
  unfold execL0Reached
  repeat' first
    | with_reducible assumption
    | with_reducible apply keeps_bootClass
    | with_reducible apply keeps_issueMgmt
    | with_reducible apply keeps_bootStop
    | with_reducible apply keepsR_next
    | with_reducible apply keepsR_fault
    | with_reducible apply keepsR_ite
    | with_reducible apply keeps_ite
    | split
    | fail_if_no_progress with_reducible apply keeps_mk
    | dsimp only

theorem keeps_execFuseScanDone {r s : State} (f : FuseReport) (h : Keeps r s) : KeepsR r (execFuseScanDone f s) := by
  have h1 := keeps_scanAll f h
  unfold execFuseScanDone
  refine keepsR_ite _ (keepsR_next h) (keepsR_ite _ (keepsR_next (keeps_bootStop _ h)) ?_)
  revert h1
  generalize s.scanAll f = t
  intro h1
  dsimp only
  refine keepsR_ite _ (keepsR_next (keeps_bootStop _ (keeps_redigest (keeps_nameCu _ ?_)))) (keepsR_next (keeps_redigest (keeps_nameCu _ ?_)))
  · exact keeps_mk h1
  · exact keeps_mk h1

theorem keeps_execHbmStackTested {r s : State} (m : Nat) (ok : Bool) (h : Keeps r s) : KeepsR r (execHbmStackTested m ok s) := by
  unfold execHbmStackTested
  repeat' first
    | with_reducible assumption
    | with_reducible apply keeps_stackLost
    | with_reducible apply keeps_bootStop
    | with_reducible apply keeps_planChanged
    | with_reducible apply keeps_zeroStack
    | with_reducible apply keepsR_next
    | with_reducible apply keepsR_fault
    | with_reducible apply keepsR_ite
    | with_reducible apply keeps_ite
    | split
    | fail_if_no_progress with_reducible apply keeps_mk
    | dsimp only

theorem keeps_execFirmwareBroadcast {r s : State} (good : List Nat) (h : Keeps r s) : KeepsR r (execFirmwareBroadcast good s) := by
  unfold execFirmwareBroadcast
  repeat' first
    | with_reducible assumption
    | with_reducible apply keeps_bootClass
    | with_reducible apply keepsR_next
    | with_reducible apply keepsR_fault
    | with_reducible apply keepsR_ite
    | with_reducible apply keeps_updCl
    | with_reducible apply keeps_ite
    | (refine keeps_foldl _ (fun _ _ _ => ?_) _ ?_)
    | split
    | fail_if_no_progress with_reducible apply keeps_mk
    | dsimp only

theorem keeps_execClusterDigestTimeout {r s : State} (c : Nat) (h : Keeps r s) : KeepsR r (execClusterDigestTimeout c s) := by
  unfold execClusterDigestTimeout
  repeat' first
    | with_reducible assumption
    | with_reducible apply keeps_markDeadDies
    | with_reducible apply keepsR_next
    | with_reducible apply keepsR_fault
    | with_reducible apply keepsR_ite
    | with_reducible apply keeps_updCl
    | with_reducible apply keeps_ite
    | split
    | fail_if_no_progress with_reducible apply keeps_mk
    | dsimp only

theorem keeps_execL1Reached {r s : State} (h : Keeps r s) : KeepsR r (execL1Reached s) := by
  have h1 := keeps_bootClass 4 (keeps_takeCandidates [4, 5] h)
  have h2 := keeps_bootClass 5 h1
  unfold execL1Reached
  revert h1 h2
  generalize (s.takeCandidates [4, 5]).bootClass 4 = q
  intro h1
  dsimp only
  generalize q.1.bootClass 5 = q5
  intro h2
  refine keepsR_ite _ (keepsR_next h) (keepsR_ite _ (keepsR_next h2) (keepsR_next (keeps_mk (keeps_formHolds ?_))))
  have h3 : Keeps r { q5.1 with boot := { q5.1.boot with stage := .l1, hostReady := true, cxlDone := true },
                                plan := { q5.1.plan with cxlCap := (List.range 4).foldl (fun tb x => Tab.put tb 0 x (min (2 ^ 42) (Config.cxlInstalled x))) [] },
                                sec := { q5.1.sec with meas := q5.1.measure } } := keeps_mk h2
  have h4 := keeps_redigest (keeps_assignRoles (keeps_wakeReserves h3))
  have h5 := keeps_foldl (r := r) (fun (t : State) (p : Nat) => (t.updPt p fun x => { x with geo := 0, lastGeo := 0 }).setObj 0x7801 (p + 1) 0)
    (fun _ _ k => keeps_setObj _ _ _ (keeps_updPt _ _ k)) (List.range 16) h4
  refine keeps_foldl _ (fun _ _ k => keeps_updPt _ _ k) _ ?_
  revert h5
  generalize List.foldl (fun (t : State) (p : Nat) => (t.updPt p fun x => { x with geo := 0, lastGeo := 0 }).setObj 0x7801 (p + 1) 0) _ _ = t
  intro h5
  have h6 := keeps_restoreLedger (keeps_issueAtt (keeps_proveTrials (keeps_drawn (keeps_setObj (r := r) 0x8000 2 t.freeW.toNat (keeps_setObj (r := r) 0x5000 9 t.boot.hostPrimary h5)))))
  exact keeps_ite _ (keeps_setObj _ _ _ h6) h6

theorem keeps_execL2Reached {r s : State} (h : Keeps r s) : KeepsR r (execL2Reached s) := by
  unfold execL2Reached
  repeat' first
    | with_reducible assumption
    | with_reducible apply keeps_setObj
    | with_reducible apply keeps_drawn
    | with_reducible apply keeps_nextReq
    | with_reducible apply keepsR_next
    | with_reducible apply keepsR_fault
    | with_reducible apply keepsR_ite
    | with_reducible apply keeps_ite
    | (refine keeps_foldl _ (fun _ _ _ => ?_) _ ?_)
    | split
    | fail_if_no_progress with_reducible apply keeps_mk
    | dsimp only

theorem keeps_execPortDown {r s : State} (p : Nat) (h : Keeps r s) : KeepsR r (execPortDown p s) := by
  unfold execPortDown
  repeat' first
    | with_reducible assumption
    | with_reducible apply keeps_portDown
    | with_reducible apply keepsR_next
    | with_reducible apply keepsR_fault
    | with_reducible apply keepsR_ite

theorem keeps_execLinkDieLoss {r s : State} (l : Nat) (h : Keeps r s) : KeepsR r (execLinkDieLoss l s) := by
  unfold execLinkDieLoss
  repeat' first
    | with_reducible assumption
    | with_reducible apply keeps_portDown
    | with_reducible apply keepsR_next
    | with_reducible apply keepsR_fault
    | with_reducible apply keepsR_ite
    | with_reducible apply keeps_updLink
    | with_reducible apply keeps_emit
    | with_reducible apply keeps_ite
    | (refine keeps_foldl _ (fun _ _ _ => ?_) _ ?_)
    | split
    | fail_if_no_progress with_reducible apply keeps_mk
    | dsimp only

theorem keeps_execSflFlit {r s : State} (p : Nat) (fecOk : Bool) (bytes : List Byte) (h : Keeps r s) : KeepsR r (execSflFlit p fecOk bytes s) := by
  have hb (f : Port → Port) {t : State} (k : Keeps r t) : Keeps r ((t.updPort p f).creditFlit p true) := keeps_creditFlit _ _ (keeps_updPort _ _ k)
  unfold execSflFlit
  refine keepsR_ite _ (keepsR_next h) ?_
  extract_lets h' good t
  refine keepsR_ite _ (keepsR_next (hb _ h)) ?_
  have ht : Keeps r t := keeps_flitAcked _ _ _ h
  clear_value t
  refine keepsR_ite _ (keepsR_next (keeps_ite _ ht (hb _ ht))) ?_
  extract_lets load
  generalize unitsSplit 16 _ = q
  obtain ⟨pkts, rest⟩ := q
  exact keepsR_next (keeps_pump _ _ (keeps_creditFlit _ _ (keeps_foldl _ (fun _ _ k => keeps_linkReceive _ _ k) _ (keeps_updPort _ _ ht))))

theorem keeps_execPortRetrain {r s : State} (p : Nat) (h : Keeps r s) : KeepsR r (execPortRetrain p s) := by
  unfold execPortRetrain
  repeat' first
    | with_reducible assumption
    | with_reducible apply keepsR_next
    | with_reducible apply keepsR_fault
    | with_reducible apply keepsR_ite
    | with_reducible apply keeps_updPort
    | with_reducible apply keeps_ite
    | split
    | fail_if_no_progress with_reducible apply keeps_mk

theorem keeps_execRetrainDone {r s : State} (p : Nat) (ok : Bool) (h : Keeps r s) : KeepsR r (execRetrainDone p ok s) := by
  unfold execRetrainDone
  repeat' first
    | with_reducible assumption
    | with_reducible apply keeps_again
    | with_reducible apply keeps_updPort
    | with_reducible apply keeps_sendIdentity
    | with_reducible apply keeps_emit
    | with_reducible apply keeps_bump
    | with_reducible apply keeps_portDown
    | with_reducible apply keeps_laneFails
    | with_reducible apply keeps_drawn
    | with_reducible apply keepsR_next
    | with_reducible apply keepsR_fault
    | with_reducible apply keepsR_ite
    | with_reducible apply keeps_ite
    | (refine keeps_foldl _ (fun _ _ _ => ?_) _ ?_)
    | split
    | fail_if_no_progress with_reducible apply keeps_mk
    | dsimp only

theorem keeps_execIdentityFlit {r s : State} (p : Nat) (ident : Word) (peerPort : Nat) (h : Keeps r s) : KeepsR r (execIdentityFlit p ident peerPort s) := by
  unfold execIdentityFlit
  repeat' first
    | with_reducible assumption
    | with_reducible apply keepsR_next
    | with_reducible apply keepsR_fault
    | with_reducible apply keepsR_ite
    | with_reducible apply keeps_updPort
    | with_reducible apply keeps_bump
    | with_reducible apply keeps_ite
    | split
    | fail_if_no_progress with_reducible apply keeps_mk
    | dsimp only

theorem keeps_execLaneSignalLoss {r s : State} (p : Nat) (lane : Nat) (h : Keeps r s) : KeepsR r (execLaneSignalLoss p lane s) := by
  unfold execLaneSignalLoss
  repeat' first
    | with_reducible assumption
    | with_reducible apply keeps_laneFails
    | with_reducible apply keepsR_next
    | with_reducible apply keepsR_fault
    | with_reducible apply keepsR_ite

theorem keeps_execLaneErrorThreshold {r s : State} (p : Nat) (lane : Nat) (rate : Nat) (h : Keeps r s) : KeepsR r (execLaneErrorThreshold p lane rate s) := by
  unfold execLaneErrorThreshold
  repeat' first
    | with_reducible assumption
    | with_reducible apply keeps_laneFails
    | with_reducible apply keepsR_next
    | with_reducible apply keepsR_fault
    | with_reducible apply keepsR_ite
    | with_reducible apply keeps_ite
    | split

theorem keeps_execSpareLaneTrained {r s : State} (p : Nat) (h : Keeps r s) : KeepsR r (execSpareLaneTrained p s) := by
  unfold execSpareLaneTrained
  repeat' first
    | with_reducible assumption
    | with_reducible apply keeps_planChanged
    | with_reducible apply keepsR_next
    | with_reducible apply keepsR_fault
    | with_reducible apply keepsR_ite
    | with_reducible apply keeps_updPort
    | with_reducible apply keeps_bump
    | with_reducible apply keeps_ite
    | split
    | fail_if_no_progress with_reducible apply keeps_mk

theorem keeps_execPacketForward {r s : State} (n : Node) (p : Packet) (h : Keeps r s) : KeepsR r (execPacketForward n p s) := by
  unfold execPacketForward
  repeat' first
    | with_reducible assumption
    | with_reducible apply keeps_junctionForward
    | with_reducible apply keeps_linkForward
    | with_reducible apply keeps_returnCredits
    | with_reducible apply keepsR_next
    | with_reducible apply keepsR_fault
    | with_reducible apply keepsR_ite
    | with_reducible apply keeps_ite
    | (refine keeps_foldl _ (fun _ _ _ => ?_) _ ?_)
    | split
    | fail_if_no_progress with_reducible apply keeps_mk
    | dsimp only

theorem keeps_keepOwn {r s : State} (p : Packet) (h : Keeps r s) : Keeps r (s.keepOwn p) := keeps_ite _ h (keeps_mk h)

theorem keeps_redTake {r s : State} (l : Nat) (p : Packet) (k : Nat) (h : Keeps r s) : Keeps r (State.redTake s l p k) := by
  unfold State.redTake
  repeat' first
    | with_reducible assumption
    | with_reducible apply keeps_updLink
    | with_reducible apply keeps_redTo
    | with_reducible apply keeps_redLand
    | with_reducible apply keeps_ite
    | (refine keeps_foldl _ (fun _ _ _ => ?_) _ ?_)
    | split
    | fail_if_no_progress with_reducible apply keeps_mk
    | dsimp only

theorem keeps_execRedUp {r s : State} (l : Nat) (p : Packet) (h : Keeps r s) : KeepsR r (execRedUp l p s) := by
  unfold execRedUp
  repeat' first
    | with_reducible assumption
    | with_reducible apply keeps_linkLeaves
    | with_reducible apply keeps_bump
    | with_reducible apply keeps_emit
    | with_reducible apply keeps_returnCredits
    | with_reducible apply keeps_keepOwn
    | with_reducible apply keeps_linkInto
    | with_reducible apply keeps_linkWait
    | with_reducible apply keeps_redTake
    | with_reducible apply keepsR_next
    | with_reducible apply keepsR_fault
    | with_reducible apply keepsR_ite
    | with_reducible apply keeps_ite
    | (refine keeps_foldl _ (fun _ _ _ => ?_) _ ?_)
    | split
    | fail_if_no_progress with_reducible apply keeps_mk
    | dsimp only

theorem keeps_execRedDown {r s : State} (l : Nat) (p : Packet) (h : Keeps r s) : KeepsR r (execRedDown l p s) := by
  unfold execRedDown
  repeat' first
    | with_reducible assumption
    | with_reducible apply keeps_bump
    | with_reducible apply keeps_redTo
    | with_reducible apply keeps_linkLeaves
    | with_reducible apply keeps_updLink
    | with_reducible apply keeps_redLand
    | with_reducible apply keeps_returnCredits
    | with_reducible apply keepsR_next
    | with_reducible apply keepsR_fault
    | with_reducible apply keepsR_ite
    | with_reducible apply keeps_ite
    | (refine keeps_foldl _ (fun _ _ _ => ?_) _ ?_)
    | split
    | fail_if_no_progress with_reducible apply keeps_mk
    | dsimp only

theorem keeps_execDrainSettled {r s : State} (h : Keeps r s) : KeepsR r (execDrainSettled s) := by
  unfold execDrainSettled
  repeat' first
    | with_reducible assumption
    | with_reducible apply keeps_drainSeal
    | with_reducible apply keeps_updPlate
    | with_reducible apply keeps_enterS3
    | with_reducible apply keepsR_next
    | with_reducible apply keepsR_fault
    | with_reducible apply keepsR_ite
    | with_reducible apply keeps_ite
    | split
    | fail_if_no_progress with_reducible apply keeps_mk

theorem keeps_execDrainLimit {r s : State} (h : Keeps r s) : KeepsR r (execDrainLimit s) := by
  unfold execDrainLimit
  repeat' first
    | with_reducible assumption
    | with_reducible apply keeps_drainSeal
    | with_reducible apply keeps_updPlate
    | with_reducible apply keeps_enterS3
    | with_reducible apply keepsR_next
    | with_reducible apply keepsR_fault
    | with_reducible apply keepsR_ite
    | with_reducible apply keeps_ite
    | split
    | fail_if_no_progress with_reducible apply keeps_mk

theorem keeps_execTriplePress {r s : State} (h : Keeps r s) : KeepsR r (execTriplePress s) := by
  unfold execTriplePress
  repeat' first
    | with_reducible assumption
    | with_reducible apply keeps_updPlate
    | with_reducible apply keepsR_next
    | with_reducible apply keepsR_fault
    | with_reducible apply keepsR_ite
    | fail_if_no_progress with_reducible apply keeps_mk

theorem keeps_execPresenceExpiry {r s : State} (h : Keeps r s) : KeepsR r (execPresenceExpiry s) := by
  unfold execPresenceExpiry
  repeat' first
    | with_reducible assumption
    | with_reducible apply keeps_updPlate
    | with_reducible apply keepsR_next
    | with_reducible apply keepsR_fault
    | with_reducible apply keepsR_ite
    | fail_if_no_progress with_reducible apply keeps_mk

theorem keeps_execForcedStandby {r s : State} (h : Keeps r s) : KeepsR r (execForcedStandby s) := by
  have h1 := keeps_bump (r := r) 0x9000 5 1 h
  have h2 : Keeps r (if (s.bump 0x9000 5 1).hasPartner then (s.bump 0x9000 5 1).sealStart.sealTaken else s.bump 0x9000 5 1) :=
    keeps_ite _ (keeps_sealTaken (keeps_sealStart h1)) h1
  unfold execForcedStandby
  exact keepsR_ite _ (keepsR_next h) (keepsR_ite _ (keepsR_next h1) (keepsR_next (keeps_redraw (keeps_updPlate _ (keeps_faultCode _ (keeps_toS3 h2))))))

theorem keeps_execLatchTouch {r s : State} (conn : Nat) (h : Keeps r s) : KeepsR r (execLatchTouch conn s) := by
  unfold execLatchTouch
  repeat' first
    | with_reducible assumption
    | with_reducible apply keeps_setLatch
    | with_reducible apply keeps_again
    | with_reducible apply keepsR_next
    | with_reducible apply keepsR_fault
    | with_reducible apply keepsR_ite
    | with_reducible apply keeps_emit
    | with_reducible apply keeps_ite
    | (refine keeps_foldl _ (fun _ _ _ => ?_) _ ?_)
    | split
    | dsimp only

theorem keeps_execConnectorDrained {r s : State} (conn : Nat) (h : Keeps r s) : KeepsR r (execConnectorDrained conn s) := by
  unfold execConnectorDrained
  repeat' first
    | with_reducible assumption
    | with_reducible apply keeps_portDown
    | with_reducible apply keeps_setLatch
    | with_reducible apply keeps_cleanCxl
    | with_reducible apply keepsR_next
    | with_reducible apply keepsR_fault
    | with_reducible apply keepsR_ite
    | with_reducible apply keeps_updPort
    | with_reducible apply keeps_ite
    | (refine keeps_foldl _ (fun _ _ _ => ?_) _ ?_)
    | split
    | fail_if_no_progress with_reducible apply keeps_mk

theorem keeps_execLatchRelease {r s : State} (conn : Nat) (h : Keeps r s) : KeepsR r (execLatchRelease conn s) := by
  unfold execLatchRelease
  repeat' first
    | with_reducible assumption
    | with_reducible apply keeps_setLatch
    | with_reducible apply keeps_retrainConn
    | with_reducible apply keepsR_next
    | with_reducible apply keepsR_fault
    | with_reducible apply keepsR_ite
    | with_reducible apply keeps_ite
    | split

theorem keeps_execCblPresNChange {r s : State} (conn : Nat) (seated : Bool) (h : Keeps r s) : KeepsR r (execCblPresNChange conn seated s) := by
  unfold execCblPresNChange
  repeat' first
    | with_reducible assumption
    | with_reducible apply keeps_updPlate
    | with_reducible apply keeps_setLatch
    | with_reducible apply keeps_retrainConn
    | with_reducible apply keeps_portDown
    | with_reducible apply keepsR_next
    | with_reducible apply keepsR_fault
    | with_reducible apply keepsR_ite
    | with_reducible apply keeps_updPort
    | with_reducible apply keeps_ite
    | (refine keeps_foldl _ (fun _ _ _ => ?_) _ ?_)
    | split
    | fail_if_no_progress with_reducible apply keeps_mk
    | dsimp only

theorem keeps_execDisplayRedraw {r s : State} (h : Keeps r s) : KeepsR r (execDisplayRedraw s) :=
  keepsR_ite _ (keepsR_next h) (keepsR_next (keeps_redraw h))

theorem keeps_execSetSwap {r s : State} (h : Keeps r s) : KeepsR r (execSetSwap s) := by
  unfold execSetSwap
  repeat' first
    | with_reducible assumption
    | with_reducible apply keeps_swapAsk
    | with_reducible apply keepsR_next
    | with_reducible apply keepsR_fault
    | with_reducible apply keepsR_ite

theorem keeps_execSetCopy {r s : State} (h : Keeps r s) : KeepsR r (execSetCopy s) := by
  unfold execSetCopy
  repeat' first
    | with_reducible assumption
    | with_reducible apply keeps_setCopyNow
    | with_reducible apply keepsR_next
    | with_reducible apply keepsR_fault
    | with_reducible apply keepsR_ite
    | with_reducible apply keeps_ite
    | split

theorem keeps_execSwapPoint {r s : State} (h : Keeps r s) : KeepsR r (execSwapPoint s) := by
  unfold execSwapPoint
  repeat' first
    | with_reducible assumption
    | with_reducible apply keeps_swapNow
    | with_reducible apply keepsR_next
    | with_reducible apply keepsR_fault
    | with_reducible apply keepsR_ite
    | with_reducible apply keeps_ite
    | split

theorem keeps_execSwapTimeout {r s : State} (ms : Nat) (h : Keeps r s) : KeepsR r (execSwapTimeout ms s) := by
  unfold execSwapTimeout
  repeat' first
    | with_reducible assumption
    | with_reducible apply keeps_swapEnd
    | with_reducible apply keepsR_next
    | with_reducible apply keepsR_fault
    | with_reducible apply keepsR_ite
    | with_reducible apply keeps_ite
    | split

theorem keeps_execMdpRead {r s : State} (path : MdpPath) (u : MdpUnit) (h : Keeps r s) : KeepsR r (execMdpRead path u s) :=
  keepsR_next (keeps_mdpArrive _ _ _ h)

theorem keeps_execMdpWrite {r s : State} (path : MdpPath) (u : MdpUnit) (h : Keeps r s) : KeepsR r (execMdpWrite path u s) :=
  keepsR_next (keeps_mdpArrive _ _ _ h)

theorem keeps_execMdpAbort {r s : State} (path : MdpPath) (u : MdpUnit) (h : Keeps r s) : KeepsR r (execMdpAbort path u s) :=
  keepsR_next (keeps_mdpArrive _ _ _ h)

theorem keeps_execMdpNop {r s : State} (path : MdpPath) (u : MdpUnit) (h : Keeps r s) : KeepsR r (execMdpNop path u s) :=
  keepsR_next (keeps_mdpArrive _ _ _ h)

theorem keeps_execClaimTimeout {r s : State} (sess : Nat) (h : Keeps r s) : KeepsR r (execClaimTimeout sess s) := by
  unfold execClaimTimeout
  repeat' first
    | with_reducible assumption
    | with_reducible apply keepsR_next
    | with_reducible apply keepsR_fault
    | with_reducible apply keepsR_ite
    | fail_if_no_progress with_reducible apply keeps_mk

theorem keeps_execLatchTimeout {r s : State} (sess : Nat) (h : Keeps r s) : KeepsR r (execLatchTimeout sess s) := by
  unfold execLatchTimeout
  repeat' first
    | with_reducible assumption
    | with_reducible apply keeps_updSess
    | with_reducible apply keepsR_next
    | with_reducible apply keepsR_fault
    | with_reducible apply keepsR_ite
    | fail_if_no_progress with_reducible apply keeps_mk

theorem keeps_execSessionIdleTimeout {r s : State} (sess : Nat) (h : Keeps r s) : KeepsR r (execSessionIdleTimeout sess s) := by
  unfold execSessionIdleTimeout
  repeat' first
    | with_reducible assumption
    | with_reducible apply keeps_endSess
    | with_reducible apply keepsR_next
    | with_reducible apply keepsR_fault
    | with_reducible apply keepsR_ite
    | with_reducible apply keeps_ite
    | split

theorem keeps_execAdd {r s : State} (c : Nat) (rd : Reg) (ra : Reg) (rb : Reg) (h : Keeps r s) : KeepsR r (execAdd c rd ra rb s) := by
  unfold execAdd
  repeat' first
    | with_reducible assumption
    | with_reducible apply keeps_alu
    | with_reducible apply keepsR_next
    | with_reducible apply keepsR_fault
    | with_reducible apply keepsR_ite

theorem keeps_execSub {r s : State} (c : Nat) (rd : Reg) (ra : Reg) (rb : Reg) (h : Keeps r s) : KeepsR r (execSub c rd ra rb s) := by
  unfold execSub
  repeat' first
    | with_reducible assumption
    | with_reducible apply keeps_alu
    | with_reducible apply keepsR_next
    | with_reducible apply keepsR_fault
    | with_reducible apply keepsR_ite

theorem keeps_execAnd {r s : State} (c : Nat) (rd : Reg) (ra : Reg) (rb : Reg) (h : Keeps r s) : KeepsR r (execAnd c rd ra rb s) := by
  unfold execAnd
  repeat' first
    | with_reducible assumption
    | with_reducible apply keeps_alu
    | with_reducible apply keepsR_next
    | with_reducible apply keepsR_fault
    | with_reducible apply keepsR_ite

theorem keeps_execOr {r s : State} (c : Nat) (rd : Reg) (ra : Reg) (rb : Reg) (h : Keeps r s) : KeepsR r (execOr c rd ra rb s) := by
  unfold execOr
  repeat' first
    | with_reducible assumption
    | with_reducible apply keeps_alu
    | with_reducible apply keepsR_next
    | with_reducible apply keepsR_fault
    | with_reducible apply keepsR_ite

theorem keeps_execXor {r s : State} (c : Nat) (rd : Reg) (ra : Reg) (rb : Reg) (h : Keeps r s) : KeepsR r (execXor c rd ra rb s) := by
  unfold execXor
  repeat' first
    | with_reducible assumption
    | with_reducible apply keeps_alu
    | with_reducible apply keepsR_next
    | with_reducible apply keepsR_fault
    | with_reducible apply keepsR_ite

theorem keeps_execShl {r s : State} (c : Nat) (rd : Reg) (ra : Reg) (rb : Reg) (h : Keeps r s) : KeepsR r (execShl c rd ra rb s) := by
  unfold execShl
  repeat' first
    | with_reducible assumption
    | with_reducible apply keeps_alu
    | with_reducible apply keepsR_next
    | with_reducible apply keepsR_fault
    | with_reducible apply keepsR_ite

theorem keeps_execShr {r s : State} (c : Nat) (rd : Reg) (ra : Reg) (rb : Reg) (h : Keeps r s) : KeepsR r (execShr c rd ra rb s) := by
  unfold execShr
  repeat' first
    | with_reducible assumption
    | with_reducible apply keeps_alu
    | with_reducible apply keepsR_next
    | with_reducible apply keepsR_fault
    | with_reducible apply keepsR_ite

theorem keeps_execSra {r s : State} (c : Nat) (rd : Reg) (ra : Reg) (rb : Reg) (h : Keeps r s) : KeepsR r (execSra c rd ra rb s) := by
  unfold execSra
  repeat' first
    | with_reducible assumption
    | with_reducible apply keeps_alu
    | with_reducible apply keepsR_next
    | with_reducible apply keepsR_fault
    | with_reducible apply keepsR_ite

theorem keeps_execMul {r s : State} (c : Nat) (rd : Reg) (ra : Reg) (rb : Reg) (h : Keeps r s) : KeepsR r (execMul c rd ra rb s) := by
  unfold execMul
  repeat' first
    | with_reducible assumption
    | with_reducible apply keeps_alu
    | with_reducible apply keepsR_next
    | with_reducible apply keepsR_fault
    | with_reducible apply keepsR_ite

theorem keeps_execMinu {r s : State} (c : Nat) (rd : Reg) (ra : Reg) (rb : Reg) (h : Keeps r s) : KeepsR r (execMinu c rd ra rb s) := by
  unfold execMinu
  repeat' first
    | with_reducible assumption
    | with_reducible apply keeps_alu
    | with_reducible apply keepsR_next
    | with_reducible apply keepsR_fault
    | with_reducible apply keepsR_ite
    | with_reducible apply keeps_ite
    | split

theorem keeps_execMaxu {r s : State} (c : Nat) (rd : Reg) (ra : Reg) (rb : Reg) (h : Keeps r s) : KeepsR r (execMaxu c rd ra rb s) := by
  unfold execMaxu
  repeat' first
    | with_reducible assumption
    | with_reducible apply keeps_alu
    | with_reducible apply keepsR_next
    | with_reducible apply keepsR_fault
    | with_reducible apply keepsR_ite
    | with_reducible apply keeps_ite
    | split

theorem keeps_execSlt {r s : State} (c : Nat) (rd : Reg) (ra : Reg) (rb : Reg) (h : Keeps r s) : KeepsR r (execSlt c rd ra rb s) := by
  unfold execSlt
  repeat' first
    | with_reducible assumption
    | with_reducible apply keeps_alu
    | with_reducible apply keepsR_next
    | with_reducible apply keepsR_fault
    | with_reducible apply keepsR_ite

theorem keeps_execSltu {r s : State} (c : Nat) (rd : Reg) (ra : Reg) (rb : Reg) (h : Keeps r s) : KeepsR r (execSltu c rd ra rb s) := by
  unfold execSltu
  repeat' first
    | with_reducible assumption
    | with_reducible apply keeps_alu
    | with_reducible apply keepsR_next
    | with_reducible apply keepsR_fault
    | with_reducible apply keepsR_ite

theorem keeps_execAddi {r s : State} (c : Nat) (rd : Reg) (ra : Reg) (imm : BitVec 14) (h : Keeps r s) : KeepsR r (execAddi c rd ra imm s) := by
  unfold execAddi
  repeat' first
    | with_reducible assumption
    | with_reducible apply keeps_alu
    | with_reducible apply keepsR_next
    | with_reducible apply keepsR_fault
    | with_reducible apply keepsR_ite

theorem keeps_execAndi {r s : State} (c : Nat) (rd : Reg) (ra : Reg) (imm : BitVec 14) (h : Keeps r s) : KeepsR r (execAndi c rd ra imm s) := by
  unfold execAndi
  repeat' first
    | with_reducible assumption
    | with_reducible apply keeps_alu
    | with_reducible apply keepsR_next
    | with_reducible apply keepsR_fault
    | with_reducible apply keepsR_ite

theorem keeps_execOri {r s : State} (c : Nat) (rd : Reg) (ra : Reg) (imm : BitVec 14) (h : Keeps r s) : KeepsR r (execOri c rd ra imm s) := by
  unfold execOri
  repeat' first
    | with_reducible assumption
    | with_reducible apply keeps_alu
    | with_reducible apply keepsR_next
    | with_reducible apply keepsR_fault
    | with_reducible apply keepsR_ite

theorem keeps_execXori {r s : State} (c : Nat) (rd : Reg) (ra : Reg) (imm : BitVec 14) (h : Keeps r s) : KeepsR r (execXori c rd ra imm s) := by
  unfold execXori
  repeat' first
    | with_reducible assumption
    | with_reducible apply keeps_alu
    | with_reducible apply keepsR_next
    | with_reducible apply keepsR_fault
    | with_reducible apply keepsR_ite

theorem keeps_execShli {r s : State} (c : Nat) (rd : Reg) (ra : Reg) (sh : BitVec 6) (h : Keeps r s) : KeepsR r (execShli c rd ra sh s) := by
  unfold execShli
  repeat' first
    | with_reducible assumption
    | with_reducible apply keeps_alu
    | with_reducible apply keepsR_next
    | with_reducible apply keepsR_fault
    | with_reducible apply keepsR_ite

theorem keeps_execShri {r s : State} (c : Nat) (rd : Reg) (ra : Reg) (sh : BitVec 6) (h : Keeps r s) : KeepsR r (execShri c rd ra sh s) := by
  unfold execShri
  repeat' first
    | with_reducible assumption
    | with_reducible apply keeps_alu
    | with_reducible apply keepsR_next
    | with_reducible apply keepsR_fault
    | with_reducible apply keepsR_ite

theorem keeps_execSrai {r s : State} (c : Nat) (rd : Reg) (ra : Reg) (sh : BitVec 6) (h : Keeps r s) : KeepsR r (execSrai c rd ra sh s) := by
  unfold execSrai
  repeat' first
    | with_reducible assumption
    | with_reducible apply keeps_alu
    | with_reducible apply keepsR_next
    | with_reducible apply keepsR_fault
    | with_reducible apply keepsR_ite

theorem keeps_execLiw {r s : State} (c : Nat) (rd : Reg) (value : Word) (h : Keeps r s) : KeepsR r (execLiw c rd value s) := by
  unfold execLiw
  repeat' first
    | with_reducible assumption
    | with_reducible apply keeps_setReg
    | with_reducible apply keeps_pcStep
    | with_reducible apply keepsR_next
    | with_reducible apply keepsR_fault
    | with_reducible apply keepsR_ite
    | (refine keepsR_onCore _ _ (by assumption) (fun _ _ => ?_))
    | with_reducible apply keeps_ite
    | (refine keeps_foldl _ (fun _ _ _ => ?_) _ ?_)
    | split
    | fail_if_no_progress with_reducible apply keeps_mk
    | dsimp only

theorem keeps_execLd {r s : State} (c : Nat) (rd : Reg) (ra : Reg) (imm : BitVec 14) (h : Keeps r s) : KeepsR r (execLd c rd ra imm s) := by
  unfold execLd
  repeat' first
    | with_reducible assumption
    | with_reducible apply keeps_coreLoad
    | with_reducible apply keepsR_next
    | with_reducible apply keepsR_fault
    | with_reducible apply keepsR_ite
    | (refine keepsR_onCore _ _ (by assumption) (fun _ _ => ?_))

theorem keeps_execLw {r s : State} (c : Nat) (rd : Reg) (ra : Reg) (imm : BitVec 14) (h : Keeps r s) : KeepsR r (execLw c rd ra imm s) := by
  unfold execLw
  repeat' first
    | with_reducible assumption
    | with_reducible apply keeps_coreLoad
    | with_reducible apply keepsR_next
    | with_reducible apply keepsR_fault
    | with_reducible apply keepsR_ite
    | (refine keepsR_onCore _ _ (by assumption) (fun _ _ => ?_))

theorem keeps_execSt {r s : State} (c : Nat) (rd : Reg) (ra : Reg) (imm : BitVec 14) (h : Keeps r s) : KeepsR r (execSt c rd ra imm s) := by
  unfold execSt
  repeat' first
    | with_reducible assumption
    | with_reducible apply keeps_coreStore
    | with_reducible apply keepsR_next
    | with_reducible apply keepsR_fault
    | with_reducible apply keepsR_ite
    | (refine keepsR_onCore _ _ (by assumption) (fun _ _ => ?_))

theorem keeps_execSw {r s : State} (c : Nat) (rd : Reg) (ra : Reg) (imm : BitVec 14) (h : Keeps r s) : KeepsR r (execSw c rd ra imm s) := by
  unfold execSw
  repeat' first
    | with_reducible assumption
    | with_reducible apply keeps_coreStore
    | with_reducible apply keepsR_next
    | with_reducible apply keepsR_fault
    | with_reducible apply keepsR_ite
    | (refine keepsR_onCore _ _ (by assumption) (fun _ _ => ?_))

theorem keeps_execBeq {r s : State} (c : Nat) (ra : Reg) (rb : Reg) (off : BitVec 14) (h : Keeps r s) : KeepsR r (execBeq c ra rb off s) := by
  unfold execBeq
  repeat' first
    | with_reducible assumption
    | with_reducible apply keeps_branch
    | with_reducible apply keepsR_next
    | with_reducible apply keepsR_fault
    | with_reducible apply keepsR_ite

theorem keeps_execBne {r s : State} (c : Nat) (ra : Reg) (rb : Reg) (off : BitVec 14) (h : Keeps r s) : KeepsR r (execBne c ra rb off s) := by
  unfold execBne
  repeat' first
    | with_reducible assumption
    | with_reducible apply keeps_branch
    | with_reducible apply keepsR_next
    | with_reducible apply keepsR_fault
    | with_reducible apply keepsR_ite

theorem keeps_execBlt {r s : State} (c : Nat) (ra : Reg) (rb : Reg) (off : BitVec 14) (h : Keeps r s) : KeepsR r (execBlt c ra rb off s) := by
  unfold execBlt
  repeat' first
    | with_reducible assumption
    | with_reducible apply keeps_branch
    | with_reducible apply keepsR_next
    | with_reducible apply keepsR_fault
    | with_reducible apply keepsR_ite

theorem keeps_execBge {r s : State} (c : Nat) (ra : Reg) (rb : Reg) (off : BitVec 14) (h : Keeps r s) : KeepsR r (execBge c ra rb off s) := by
  unfold execBge
  repeat' first
    | with_reducible assumption
    | with_reducible apply keeps_branch
    | with_reducible apply keepsR_next
    | with_reducible apply keepsR_fault
    | with_reducible apply keepsR_ite

theorem keeps_execBltu {r s : State} (c : Nat) (ra : Reg) (rb : Reg) (off : BitVec 14) (h : Keeps r s) : KeepsR r (execBltu c ra rb off s) := by
  unfold execBltu
  repeat' first
    | with_reducible assumption
    | with_reducible apply keeps_branch
    | with_reducible apply keepsR_next
    | with_reducible apply keepsR_fault
    | with_reducible apply keepsR_ite

theorem keeps_execBgeu {r s : State} (c : Nat) (ra : Reg) (rb : Reg) (off : BitVec 14) (h : Keeps r s) : KeepsR r (execBgeu c ra rb off s) := by
  unfold execBgeu
  repeat' first
    | with_reducible assumption
    | with_reducible apply keeps_branch
    | with_reducible apply keepsR_next
    | with_reducible apply keepsR_fault
    | with_reducible apply keepsR_ite

theorem keeps_execJmp {r s : State} (c : Nat) (off : BitVec 24) (h : Keeps r s) : KeepsR r (execJmp c off s) := by
  unfold execJmp
  repeat' first
    | with_reducible assumption
    | with_reducible apply keeps_pcStep
    | with_reducible apply keepsR_next
    | with_reducible apply keepsR_fault
    | with_reducible apply keepsR_ite
    | (refine keepsR_onCore _ _ (by assumption) (fun _ _ => ?_))

theorem keeps_execJr {r s : State} (c : Nat) (ra : Reg) (h : Keeps r s) : KeepsR r (execJr c ra s) := by
  unfold execJr
  repeat' first
    | with_reducible assumption
    | with_reducible apply keeps_pcSet
    | with_reducible apply keeps_failCore
    | with_reducible apply keepsR_next
    | with_reducible apply keepsR_fault
    | with_reducible apply keepsR_ite
    | (refine keepsR_onCore _ _ (by assumption) (fun _ _ => ?_))
    | with_reducible apply keeps_ite
    | split

theorem keeps_execPost {r s : State} (c : Nat) (n : BitVec 5) (h : Keeps r s) : KeepsR r (execPost c n s) := by
  unfold execPost
  repeat' first
    | with_reducible assumption
    | with_reducible apply keeps_coalFlush
    | with_reducible apply keeps_postCore
    | with_reducible apply keeps_pcStep
    | with_reducible apply keepsR_next
    | with_reducible apply keepsR_fault
    | with_reducible apply keepsR_ite
    | (refine keepsR_onCore _ _ (by assumption) (fun _ _ => ?_))
    | with_reducible apply keeps_ite
    | split
    | dsimp only

theorem keeps_execWait {r s : State} (c : Nat) (n : BitVec 5) (ra : Reg) (h : Keeps r s) : KeepsR r (execWait c n ra s) := by
  unfold execWait
  repeat' first
    | with_reducible assumption
    | with_reducible apply keeps_pcStep
    | with_reducible apply keeps_updCore
    | with_reducible apply keepsR_next
    | with_reducible apply keepsR_fault
    | with_reducible apply keepsR_ite
    | (refine keepsR_onCore _ _ (by assumption) (fun _ _ => ?_))
    | with_reducible apply keeps_ite
    | split
    | fail_if_no_progress with_reducible apply keeps_mk
    | dsimp only

theorem keeps_execRdctr {r s : State} (c : Nat) (rd : Reg) (n : BitVec 5) (h : Keeps r s) : KeepsR r (execRdctr c rd n s) := by
  unfold execRdctr
  repeat' first
    | with_reducible assumption
    | with_reducible apply keeps_alu
    | with_reducible apply keepsR_next
    | with_reducible apply keepsR_fault
    | with_reducible apply keepsR_ite

theorem keeps_execReadq {r s : State} (c : Nat) (rd : Reg) (q : BitVec 5) (h : Keeps r s) : KeepsR r (execReadq c rd q s) := by
  unfold execReadq
  repeat' first
    | with_reducible assumption
    | with_reducible apply keeps_failCore
    | with_reducible apply keeps_updCq
    | with_reducible apply keeps_setReg
    | with_reducible apply keeps_pcStep
    | with_reducible apply keepsR_next
    | with_reducible apply keepsR_fault
    | with_reducible apply keepsR_ite
    | (refine keepsR_onCore _ _ (by assumption) (fun _ _ => ?_))
    | with_reducible apply keeps_ite
    | split
    | dsimp only

theorem keeps_execQstat {r s : State} (c : Nat) (rd : Reg) (q : BitVec 5) (h : Keeps r s) : KeepsR r (execQstat c rd q s) := by
  unfold execQstat
  repeat' first
    | with_reducible assumption
    | with_reducible apply keeps_setReg
    | with_reducible apply keeps_pcStep
    | with_reducible apply keeps_failCore
    | with_reducible apply keepsR_next
    | with_reducible apply keepsR_fault
    | with_reducible apply keepsR_ite
    | (refine keepsR_onCore _ _ (by assumption) (fun _ _ => ?_))
    | with_reducible apply keeps_ite
    | split

theorem keeps_execQctl {r s : State} (c : Nat) (ra : Reg) (q : BitVec 5) (h : Keeps r s) : KeepsR r (execQctl c ra q s) := by
  unfold execQctl
  repeat' first
    | with_reducible assumption
    | with_reducible apply keeps_failCore
    | with_reducible apply keeps_updSt
    | with_reducible apply keeps_updTileQ
    | with_reducible apply keeps_updCq
    | with_reducible apply keeps_pcStep
    | with_reducible apply keepsR_next
    | with_reducible apply keepsR_fault
    | with_reducible apply keepsR_ite
    | (refine keepsR_onCore _ _ (by assumption) (fun _ _ => ?_))
    | with_reducible apply keeps_ite
    | split
    | fail_if_no_progress with_reducible apply keeps_mk
    | dsimp only

theorem keeps_execIssue {r s : State} (c : Nat) (station : BitVec 5) (ra : Reg) (patches : List (BitVec 3 × Reg)) (h : Keeps r s) : KeepsR r (execIssue c station ra patches s) := by
  unfold execIssue
  repeat' first
    | with_reducible assumption
    | with_reducible apply keeps_failCore
    | with_reducible apply keeps_settle
    | with_reducible apply keeps_updSiding
    | with_reducible apply keeps_pcStep
    | with_reducible apply keepsR_next
    | with_reducible apply keepsR_fault
    | with_reducible apply keepsR_ite
    | (refine keepsR_onCore _ _ (by assumption) (fun _ _ => ?_))
    | with_reducible apply keeps_ite
    | (refine keeps_foldl _ (fun _ _ _ => ?_) _ ?_)
    | split
    | fail_if_no_progress with_reducible apply keeps_mk
    | dsimp only

theorem keeps_execEndT {r s : State} (c : Nat) (h : Keeps r s) : KeepsR r (execEndT c s) := by
  unfold execEndT
  repeat' first
    | with_reducible assumption
    | with_reducible apply keeps_coalFlush
    | with_reducible apply keeps_updRun
    | with_reducible apply keeps_closeWindows
    | with_reducible apply keepsR_next
    | with_reducible apply keepsR_fault
    | with_reducible apply keepsR_ite
    | (refine keepsR_onCore _ _ (by assumption) (fun _ _ => ?_))
    | with_reducible apply keeps_ite
    | (refine keeps_foldl _ (fun _ _ _ => ?_) _ ?_)
    | split
    | fail_if_no_progress with_reducible apply keeps_mk
    | dsimp only

theorem keeps_execIllegalInstruction {r s : State} (c : Nat) (cause : EciCause) (h : Keeps r s) : KeepsR r (execIllegalInstruction c cause s) := by
  unfold execIllegalInstruction
  split
  · exact keepsR_onCore _ _ h (fun _ k => keeps_ite _ k (keeps_failCore _ _ k))
  · exact keepsR_onCore _ _ h (fun _ k => keeps_ite _ k (keeps_failCore _ _ k))
  · have h1 := keeps_fetch (r := r) c 4 h
    exact keepsR_ite _ (keepsR_next h) (keepsR_ite _ (keepsR_next h1) (keepsR_next (keeps_ite _ h (keeps_fetch _ _ h1))))

theorem keeps_execLandcfg {r s : State} (c : Nat) (w : BitVec 3) (ra : Reg) (h : Keeps r s) : KeepsR r (execLandcfg c w ra s) := by
  unfold execLandcfg
  repeat' first
    | with_reducible assumption
    | with_reducible apply keeps_failCore
    | with_reducible apply keeps_updSt
    | with_reducible apply keeps_pcStep
    | with_reducible apply keepsR_next
    | with_reducible apply keepsR_fault
    | with_reducible apply keepsR_ite
    | (refine keepsR_onCore _ _ (by assumption) (fun _ _ => ?_))
    | with_reducible apply keeps_ite
    | split
    | fail_if_no_progress with_reducible apply keeps_mk
    | dsimp only

theorem keeps_execTokenGrant {r s : State} (p : Packet) (h : Keeps r s) : KeepsR r (execTokenGrant p s) := by
  unfold execTokenGrant
  repeat' first
    | with_reducible assumption
    | with_reducible apply keeps_again
    | with_reducible apply keeps_tokenIn
    | with_reducible apply keepsR_next
    | with_reducible apply keepsR_fault
    | with_reducible apply keepsR_ite
    | with_reducible apply keeps_ite
    | split
    | dsimp only

theorem keeps_execTokenReturn {r s : State} (p : Packet) (h : Keeps r s) : KeepsR r (execTokenReturn p s) := by
  unfold execTokenReturn
  repeat' first
    | with_reducible assumption
    | with_reducible apply keeps_nak
    | with_reducible apply keeps_tokenIn
    | with_reducible apply keepsR_next
    | with_reducible apply keepsR_fault
    | with_reducible apply keepsR_ite
    | with_reducible apply keeps_ite
    | split
    | dsimp only

theorem keeps_execRefused {r s : State} (p : Packet) (h : Keeps r s) : KeepsR r (execRefused p s) := by
  unfold execRefused
  repeat' first
    | with_reducible assumption
    | with_reducible apply keeps_again
    | with_reducible apply keeps_tokenIn
    | with_reducible apply keepsR_next
    | with_reducible apply keepsR_fault
    | with_reducible apply keepsR_ite
    | with_reducible apply keeps_ite
    | split
    | dsimp only

theorem keeps_execWindowOpen {r s : State} (c : Nat) (w : BitVec 3) (ra : Reg) (h : Keeps r s) : KeepsR r (execWindowOpen c w ra s) := by
  unfold execWindowOpen
  repeat' first
    | with_reducible assumption
    | with_reducible apply keeps_windowOp
    | with_reducible apply keepsR_next
    | with_reducible apply keepsR_fault
    | with_reducible apply keepsR_ite
    | (refine keepsR_onCore _ _ (by assumption) (fun _ _ => ?_))

theorem keeps_execWindowClose {r s : State} (c : Nat) (w : BitVec 3) (ra : Reg) (h : Keeps r s) : KeepsR r (execWindowClose c w ra s) := by
  unfold execWindowClose
  repeat' first
    | with_reducible assumption
    | with_reducible apply keeps_windowOp
    | with_reducible apply keepsR_next
    | with_reducible apply keepsR_fault
    | with_reducible apply keepsR_ite
    | (refine keepsR_onCore _ _ (by assumption) (fun _ _ => ?_))

theorem keeps_execWindowClosed {r s : State} (c : Nat) (w : BitVec 3) (h : Keeps r s) : KeepsR r (execWindowClosed c w s) := by
  unfold execWindowClosed
  repeat' first
    | with_reducible assumption
    | with_reducible apply keeps_updWin
    | with_reducible apply keeps_meshAgain
    | with_reducible apply keepsR_next
    | with_reducible apply keepsR_fault
    | with_reducible apply keepsR_ite

theorem keeps_execRelease {r s : State} (c : Nat) (w : BitVec 3) (ra : Reg) (h : Keeps r s) : KeepsR r (execRelease c w ra s) := by
  unfold execRelease
  repeat' first
    | with_reducible assumption
    | with_reducible apply keeps_failCore
    | with_reducible apply keeps_updWin
    | with_reducible apply keeps_serve
    | with_reducible apply keeps_meshAgain
    | with_reducible apply keeps_pcStep
    | with_reducible apply keepsR_next
    | with_reducible apply keepsR_fault
    | with_reducible apply keepsR_ite
    | (refine keepsR_onCore _ _ (by assumption) (fun _ _ => ?_))
    | with_reducible apply keeps_ite
    | split
    | fail_if_no_progress with_reducible apply keeps_mk
    | dsimp only

theorem keeps_eventsMove {r : State} (die : Nat) : ∀ (fuel : Nat) {s : State}, Keeps r s → Keeps r (s.eventsMove die fuel) := by
  intro fuel
  induction fuel with
  | zero => intro s h; exact h
  | succ n ih =>
    intro s h
    unfold State.eventsMove
    split
    · exact keeps_ite _ h (ih (keeps_updDie _ _ (keeps_enqueue _ _ h)))
    · exact h

theorem keeps_execQueueRead {r s : State} (q : QueueRef) (h : Keeps r s) : KeepsR r (execQueueRead q s) := by
  unfold execQueueRead
  repeat' first
    | with_reducible assumption
    | with_reducible apply keeps_dequeue
    | with_reducible apply keeps_eventsMove
    | with_reducible apply keeps_macDrain
    | with_reducible apply keepsR_next
    | with_reducible apply keepsR_fault
    | with_reducible apply keepsR_ite
    | split
    | dsimp only

theorem keeps_execQueueWrite {r s : State} (q : QueueRef) (v : Rec128) (h : Keeps r s) : KeepsR r (execQueueWrite q v s) := by
  unfold execQueueWrite
  repeat' first
    | with_reducible assumption
    | with_reducible apply keeps_enqueue
    | with_reducible apply keeps_setQueue
    | with_reducible apply keepsR_next
    | with_reducible apply keepsR_fault
    | with_reducible apply keepsR_ite
    | with_reducible apply keeps_ite
    | split

theorem keeps_execStationEvent {r s : State} (st : StationId) (ev : Rec128) (h : Keeps r s) : KeepsR r (execStationEvent st ev s) := by
  unfold execStationEvent
  repeat' first
    | with_reducible assumption
    | with_reducible apply keeps_enqueue
    | with_reducible apply keepsR_next
    | with_reducible apply keepsR_fault
    | with_reducible apply keepsR_ite
    | with_reducible apply keeps_updDie
    | with_reducible apply keeps_ite
    | split
    | fail_if_no_progress with_reducible apply keeps_mk
    | dsimp only

theorem keeps_execAgePromotion {r s : State} (c : Nat) (requester : Nat) (denied : Nat) (h : Keeps r s) : KeepsR r (execAgePromotion c requester denied s) := by
  unfold execAgePromotion
  repeat' first
    | with_reducible assumption
    | with_reducible apply keepsR_next
    | with_reducible apply keepsR_fault
    | with_reducible apply keepsR_ite
    | with_reducible apply keeps_updCl
    | with_reducible apply keeps_ite
    | split
    | fail_if_no_progress with_reducible apply keeps_mk

theorem keeps_execCoalesceIdleWriteback {r s : State} (c : Nat) (chunk : Nat) (idle : Nat) (h : Keeps r s) : KeepsR r (execCoalesceIdleWriteback c chunk idle s) := by
  unfold execCoalesceIdleWriteback
  repeat' first
    | with_reducible assumption
    | with_reducible apply keeps_coalOut
    | with_reducible apply keepsR_next
    | with_reducible apply keepsR_fault
    | with_reducible apply keepsR_ite
    | with_reducible apply keeps_ite
    | split

theorem keeps_execEccCorrectionWriteback {r s : State} (c word : Nat) (h : Keeps r s) : KeepsR r (execEccCorrectionWriteback c word s) := by
  unfold execEccCorrectionWriteback
  exact keepsR_ite _ (keepsR_next (keeps_upset _ (fun k => tab_wf_put k ..) h)) (keepsR_next h)

theorem keeps_execScrubPass {r s : State} (c : Nat) (h : Keeps r s) : KeepsR r (execScrubPass c s) := by
  have h1 := keeps_foldl (r := r) State.resolveWord (fun _ _ k => keeps_resolveWord _ k) ((Tab.within s.upset (padOf c / 8) (padSize / 8)).map (·.1)) h
  have h2 := keeps_upset (Tab.clear (((Tab.within s.upset (padOf c / 8) (padSize / 8)).map (·.1)).foldl State.resolveWord s).upset (padOf c / 8) (padSize / 8))
    (fun k => tab_wf_clear k ..) h1
  unfold execScrubPass
  exact keepsR_ite _ (keepsR_next h) (keepsR_next (keeps_ite _ (keeps_clusterFails _ h2) h2))

theorem keeps_execChctlDisable {r s : State} (c : Nat) (chan : BitVec 4) (src : ChSource) (h : Keeps r s) : KeepsR r (execChctlDisable c chan src s) := by
  unfold execChctlDisable
  repeat' first
    | with_reducible assumption
    | with_reducible apply keeps_chctlBy
    | with_reducible apply keepsR_next
    | with_reducible apply keepsR_fault
    | with_reducible apply keepsR_ite

theorem keeps_execChctlEnable {r s : State} (c : Nat) (chan : BitVec 4) (src : ChSource) (h : Keeps r s) : KeepsR r (execChctlEnable c chan src s) := by
  unfold execChctlEnable
  repeat' first
    | with_reducible assumption
    | with_reducible apply keeps_chctlBy
    | with_reducible apply keepsR_next
    | with_reducible apply keepsR_fault
    | with_reducible apply keepsR_ite

theorem keeps_execCarrySet {r s : State} (c : Nat) (ra : Reg) (h : Keeps r s) : KeepsR r (execCarrySet c ra s) := by
  unfold execCarrySet
  repeat' first
    | with_reducible assumption
    | with_reducible apply keeps_carryOp
    | with_reducible apply keepsR_next
    | with_reducible apply keepsR_fault
    | with_reducible apply keepsR_ite
    | (refine keepsR_onCore _ _ (by assumption) (fun _ _ => ?_))

theorem keeps_execCarryClear {r s : State} (c : Nat) (ra : Reg) (h : Keeps r s) : KeepsR r (execCarryClear c ra s) := by
  unfold execCarryClear
  repeat' first
    | with_reducible assumption
    | with_reducible apply keeps_carryOp
    | with_reducible apply keepsR_next
    | with_reducible apply keepsR_fault
    | with_reducible apply keepsR_ite
    | (refine keepsR_onCore _ _ (by assumption) (fun _ _ => ?_))

theorem keeps_execWaitRelease {r s : State} (c : Nat) (station : Option Nat) (chan : Nat) (h : Keeps r s) : KeepsR r (execWaitRelease c station chan s) := by
  unfold execWaitRelease
  repeat' first
    | with_reducible assumption
    | with_reducible apply keeps_updCore
    | with_reducible apply keeps_pcStep
    | with_reducible apply keeps_updWb
    | with_reducible apply keepsR_next
    | with_reducible apply keepsR_fault
    | with_reducible apply keepsR_ite
    | with_reducible apply keeps_ite
    | split
    | fail_if_no_progress with_reducible apply keeps_mk

theorem keeps_execWaitTimeout {r s : State} (c : Nat) (station : Option Nat) (chan : Nat) (elapsedMs : Nat) (h : Keeps r s) : KeepsR r (execWaitTimeout c station chan elapsedMs s) := by
  unfold execWaitTimeout
  repeat' first
    | with_reducible assumption
    | with_reducible apply keeps_failCore
    | with_reducible apply keeps_failWb
    | with_reducible apply keepsR_next
    | with_reducible apply keepsR_fault
    | with_reducible apply keepsR_ite
    | with_reducible apply keeps_ite
    | split
    | dsimp only

theorem keeps_execDraincfg {r s : State} (c : Nat) (d : BitVec 3) (ra : Reg) (h : Keeps r s) : KeepsR r (execDraincfg c d ra s) := by
  unfold execDraincfg
  repeat' first
    | with_reducible assumption
    | with_reducible apply keeps_loadSlot
    | with_reducible apply keepsR_next
    | with_reducible apply keepsR_fault
    | with_reducible apply keepsR_ite
    | (refine keepsR_onCore _ _ (by assumption) (fun _ _ => ?_))
    | fail_if_no_progress with_reducible apply keeps_mk

theorem keeps_execSdraincfg {r s : State} (c : Nat) (d : BitVec 2) (ra : Reg) (h : Keeps r s) : KeepsR r (execSdraincfg c d ra s) := by
  unfold execSdraincfg
  repeat' first
    | with_reducible assumption
    | with_reducible apply keeps_loadSlot
    | with_reducible apply keepsR_next
    | with_reducible apply keepsR_fault
    | with_reducible apply keepsR_ite
    | (refine keepsR_onCore _ _ (by assumption) (fun _ _ => ?_))
    | fail_if_no_progress with_reducible apply keeps_mk

theorem keeps_execZeroFinal {r s : State} (c : Nat) (h : Keeps r s) : KeepsR r (execZeroFinal c s) := by
  unfold execZeroFinal
  repeat' first
    | with_reducible assumption
    | with_reducible apply keeps_passOp
    | with_reducible apply keepsR_next
    | with_reducible apply keepsR_fault
    | with_reducible apply keepsR_ite

theorem keeps_execZeroPartial {r s : State} (c : Nat) (h : Keeps r s) : KeepsR r (execZeroPartial c s) := by
  unfold execZeroPartial
  repeat' first
    | with_reducible assumption
    | with_reducible apply keeps_passOp
    | with_reducible apply keepsR_next
    | with_reducible apply keepsR_fault
    | with_reducible apply keepsR_ite

theorem keeps_execLoadPartial {r s : State} (c : Nat) (h : Keeps r s) : KeepsR r (execLoadPartial c s) := by
  unfold execLoadPartial
  repeat' first
    | with_reducible assumption
    | with_reducible apply keeps_passOp
    | with_reducible apply keepsR_next
    | with_reducible apply keepsR_fault
    | with_reducible apply keepsR_ite

theorem keeps_execLoadFinal {r s : State} (c : Nat) (h : Keeps r s) : KeepsR r (execLoadFinal c s) := by
  unfold execLoadFinal
  repeat' first
    | with_reducible assumption
    | with_reducible apply keeps_passOp
    | with_reducible apply keepsR_next
    | with_reducible apply keepsR_fault
    | with_reducible apply keepsR_ite

theorem keeps_execSparseZeroFinal {r s : State} (c : Nat) (h : Keeps r s) : KeepsR r (execSparseZeroFinal c s) := by
  unfold execSparseZeroFinal
  repeat' first
    | with_reducible assumption
    | with_reducible apply keeps_passOp
    | with_reducible apply keepsR_next
    | with_reducible apply keepsR_fault
    | with_reducible apply keepsR_ite

theorem keeps_execSparseZeroPartial {r s : State} (c : Nat) (h : Keeps r s) : KeepsR r (execSparseZeroPartial c s) := by
  unfold execSparseZeroPartial
  repeat' first
    | with_reducible assumption
    | with_reducible apply keeps_passOp
    | with_reducible apply keepsR_next
    | with_reducible apply keepsR_fault
    | with_reducible apply keepsR_ite

theorem keeps_execSparseLoadPartial {r s : State} (c : Nat) (h : Keeps r s) : KeepsR r (execSparseLoadPartial c s) := by
  unfold execSparseLoadPartial
  repeat' first
    | with_reducible assumption
    | with_reducible apply keeps_passOp
    | with_reducible apply keepsR_next
    | with_reducible apply keepsR_fault
    | with_reducible apply keepsR_ite

theorem keeps_execSparseLoadFinal {r s : State} (c : Nat) (h : Keeps r s) : KeepsR r (execSparseLoadFinal c s) := by
  unfold execSparseLoadFinal
  repeat' first
    | with_reducible assumption
    | with_reducible apply keeps_passOp
    | with_reducible apply keepsR_next
    | with_reducible apply keepsR_fault
    | with_reducible apply keepsR_ite

theorem keeps_execMatrixPassEnd {r s : State} (c : Nat) (sparse : Bool) (upset : List (Nat × Word32)) (h : Keeps r s) : KeepsR r (execMatrixPassEnd c sparse upset s) := by
  unfold execMatrixPassEnd
  repeat' first
    | with_reducible assumption
    | with_reducible apply keeps_drainOut
    | with_reducible apply keeps_verdictFails
    | with_reducible apply keepsR_next
    | with_reducible apply keepsR_fault
    | with_reducible apply keepsR_ite
    | with_reducible apply keeps_ite
    | split
    | dsimp only

theorem keeps_execEntryArrivalComplete {r s : State} (c : Nat) (q : Nat) (ok : Bool) (h : Keeps r s) : KeepsR r (execEntryArrivalComplete c q ok s) := by
  unfold execEntryArrivalComplete
  repeat' first
    | with_reducible assumption
    | with_reducible apply keeps_keepArriving
    | with_reducible apply keeps_slotFreed
    | with_reducible apply keeps_updSt
    | with_reducible apply keeps_dropArriving
    | with_reducible apply keeps_vRollback
    | with_reducible apply keeps_verdictFails
    | with_reducible apply keepsR_next
    | with_reducible apply keepsR_fault
    | with_reducible apply keepsR_ite
    | with_reducible apply keeps_ite
    | split
    | fail_if_no_progress with_reducible apply keeps_mk
    | dsimp only

theorem keeps_execVkerncfg {r s : State} (c : Nat) (d : BitVec 3) (ra : Reg) (h : Keeps r s) : KeepsR r (execVkerncfg c d ra s) := by
  unfold execVkerncfg
  repeat' first
    | with_reducible assumption
    | with_reducible apply keeps_loadSlot
    | with_reducible apply keepsR_next
    | with_reducible apply keepsR_fault
    | with_reducible apply keepsR_ite
    | (refine keepsR_onCore _ _ (by assumption) (fun _ _ => ?_))
    | fail_if_no_progress with_reducible apply keeps_mk

theorem keeps_execVEnd {r s : State} (c : Nat) (h : Keeps r s) : KeepsR r (execVEnd c s) := by
  unfold execVEnd
  repeat' first
    | with_reducible assumption
    | with_reducible apply keeps_vBegin
    | with_reducible apply keeps_bumpFor
    | with_reducible apply keeps_updSt
    | with_reducible apply keeps_storeBy
    | with_reducible apply keeps_addBegun
    | with_reducible apply keeps_clash
    | with_reducible apply keeps_updTileQ
    | with_reducible apply keeps_tilesWritten
    | with_reducible apply keeps_updWb
    | with_reducible apply keepsR_next
    | with_reducible apply keepsR_fault
    | with_reducible apply keepsR_ite
    | with_reducible apply keeps_ite
    | (refine keeps_foldl _ (fun _ _ _ => ?_) _ ?_)
    | split
    | fail_if_no_progress with_reducible apply keeps_mk
    | dsimp only

theorem keeps_execVMov {r s : State} (c : Nat) (h : Keeps r s) : KeepsR r (execVMov c s) := by
  unfold execVMov
  repeat' first
    | with_reducible assumption
    | with_reducible apply keeps_vLane
    | with_reducible apply keepsR_next
    | with_reducible apply keepsR_fault
    | with_reducible apply keepsR_ite

theorem keeps_execVAdd {r s : State} (c : Nat) (h : Keeps r s) : KeepsR r (execVAdd c s) := by
  unfold execVAdd
  repeat' first
    | with_reducible assumption
    | with_reducible apply keeps_vLane
    | with_reducible apply keepsR_next
    | with_reducible apply keepsR_fault
    | with_reducible apply keepsR_ite

theorem keeps_execVSub {r s : State} (c : Nat) (h : Keeps r s) : KeepsR r (execVSub c s) := by
  unfold execVSub
  repeat' first
    | with_reducible assumption
    | with_reducible apply keeps_vLane
    | with_reducible apply keepsR_next
    | with_reducible apply keepsR_fault
    | with_reducible apply keepsR_ite

theorem keeps_execVMul {r s : State} (c : Nat) (h : Keeps r s) : KeepsR r (execVMul c s) := by
  unfold execVMul
  repeat' first
    | with_reducible assumption
    | with_reducible apply keeps_vLane
    | with_reducible apply keepsR_next
    | with_reducible apply keepsR_fault
    | with_reducible apply keepsR_ite

theorem keeps_execVFma {r s : State} (c : Nat) (h : Keeps r s) : KeepsR r (execVFma c s) := by
  unfold execVFma
  repeat' first
    | with_reducible assumption
    | with_reducible apply keeps_vLane
    | with_reducible apply keepsR_next
    | with_reducible apply keepsR_fault
    | with_reducible apply keepsR_ite

theorem keeps_execVMin {r s : State} (c : Nat) (h : Keeps r s) : KeepsR r (execVMin c s) := by
  unfold execVMin
  repeat' first
    | with_reducible assumption
    | with_reducible apply keeps_vLane
    | with_reducible apply keepsR_next
    | with_reducible apply keepsR_fault
    | with_reducible apply keepsR_ite

theorem keeps_execVMax {r s : State} (c : Nat) (h : Keeps r s) : KeepsR r (execVMax c s) := by
  unfold execVMax
  repeat' first
    | with_reducible assumption
    | with_reducible apply keeps_vLane
    | with_reducible apply keepsR_next
    | with_reducible apply keepsR_fault
    | with_reducible apply keepsR_ite

theorem keeps_execVAbs {r s : State} (c : Nat) (h : Keeps r s) : KeepsR r (execVAbs c s) := by
  unfold execVAbs
  repeat' first
    | with_reducible assumption
    | with_reducible apply keeps_vLane
    | with_reducible apply keepsR_next
    | with_reducible apply keepsR_fault
    | with_reducible apply keepsR_ite

theorem keeps_execVNeg {r s : State} (c : Nat) (h : Keeps r s) : KeepsR r (execVNeg c s) := by
  unfold execVNeg
  repeat' first
    | with_reducible assumption
    | with_reducible apply keeps_vLane
    | with_reducible apply keepsR_next
    | with_reducible apply keepsR_fault
    | with_reducible apply keepsR_ite

theorem keeps_execVDiv {r s : State} (c : Nat) (h : Keeps r s) : KeepsR r (execVDiv c s) := by
  unfold execVDiv
  repeat' first
    | with_reducible assumption
    | with_reducible apply keeps_vLane
    | with_reducible apply keepsR_next
    | with_reducible apply keepsR_fault
    | with_reducible apply keepsR_ite

theorem keeps_execVRcp {r s : State} (c : Nat) (h : Keeps r s) : KeepsR r (execVRcp c s) := by
  unfold execVRcp
  repeat' first
    | with_reducible assumption
    | with_reducible apply keeps_vLane
    | with_reducible apply keepsR_next
    | with_reducible apply keepsR_fault
    | with_reducible apply keepsR_ite

theorem keeps_execVSqrt {r s : State} (c : Nat) (h : Keeps r s) : KeepsR r (execVSqrt c s) := by
  unfold execVSqrt
  repeat' first
    | with_reducible assumption
    | with_reducible apply keeps_vLane
    | with_reducible apply keepsR_next
    | with_reducible apply keepsR_fault
    | with_reducible apply keepsR_ite

theorem keeps_execVRsqrt {r s : State} (c : Nat) (h : Keeps r s) : KeepsR r (execVRsqrt c s) := by
  unfold execVRsqrt
  repeat' first
    | with_reducible assumption
    | with_reducible apply keeps_vLane
    | with_reducible apply keepsR_next
    | with_reducible apply keepsR_fault
    | with_reducible apply keepsR_ite

theorem keeps_execVExp2 {r s : State} (c : Nat) (h : Keeps r s) : KeepsR r (execVExp2 c s) := by
  unfold execVExp2
  repeat' first
    | with_reducible assumption
    | with_reducible apply keeps_vLane
    | with_reducible apply keepsR_next
    | with_reducible apply keepsR_fault
    | with_reducible apply keepsR_ite

theorem keeps_execVLog2 {r s : State} (c : Nat) (h : Keeps r s) : KeepsR r (execVLog2 c s) := by
  unfold execVLog2
  repeat' first
    | with_reducible assumption
    | with_reducible apply keeps_vLane
    | with_reducible apply keepsR_next
    | with_reducible apply keepsR_fault
    | with_reducible apply keepsR_ite

theorem keeps_execVTbl {r s : State} (c : Nat) (h : Keeps r s) : KeepsR r (execVTbl c s) := by
  unfold execVTbl
  repeat' first
    | with_reducible assumption
    | with_reducible apply keeps_vLane
    | with_reducible apply keepsR_next
    | with_reducible apply keepsR_fault
    | with_reducible apply keepsR_ite

theorem keeps_execVCmp {r s : State} (c : Nat) (h : Keeps r s) : KeepsR r (execVCmp c s) := by
  unfold execVCmp
  repeat' first
    | with_reducible assumption
    | with_reducible apply keeps_vRegOp
    | with_reducible apply keepsR_next
    | with_reducible apply keepsR_fault
    | with_reducible apply keepsR_ite

theorem keeps_execVSel {r s : State} (c : Nat) (h : Keeps r s) : KeepsR r (execVSel c s) := by
  unfold execVSel
  repeat' first
    | with_reducible assumption
    | with_reducible apply keeps_vRegOp
    | with_reducible apply keepsR_next
    | with_reducible apply keepsR_fault
    | with_reducible apply keepsR_ite
    | with_reducible apply keeps_ite
    | split
    | dsimp only

theorem keeps_execVSwp {r s : State} (c : Nat) (h : Keeps r s) : KeepsR r (execVSwp c s) := by
  unfold execVSwp
  repeat' first
    | with_reducible assumption
    | with_reducible apply keeps_vRegOp
    | with_reducible apply keepsR_next
    | with_reducible apply keepsR_fault
    | with_reducible apply keepsR_ite
    | with_reducible apply keeps_ite
    | split
    | dsimp only

theorem keeps_execVCvt {r s : State} (c : Nat) (h : Keeps r s) : KeepsR r (execVCvt c s) := by
  unfold execVCvt
  repeat' first
    | with_reducible assumption
    | with_reducible apply keeps_vRegOp
    | with_reducible apply keepsR_next
    | with_reducible apply keepsR_fault
    | with_reducible apply keepsR_ite
    | dsimp only

theorem keeps_execVRsum {r s : State} (c : Nat) (h : Keeps r s) : KeepsR r (execVRsum c s) := by
  unfold execVRsum
  repeat' first
    | with_reducible assumption
    | with_reducible apply keeps_vRegOp
    | with_reducible apply keepsR_next
    | with_reducible apply keepsR_fault
    | with_reducible apply keepsR_ite

theorem keeps_execVRmax {r s : State} (c : Nat) (h : Keeps r s) : KeepsR r (execVRmax c s) := by
  unfold execVRmax
  repeat' first
    | with_reducible assumption
    | with_reducible apply keeps_vRegOp
    | with_reducible apply keepsR_next
    | with_reducible apply keepsR_fault
    | with_reducible apply keepsR_ite

theorem keeps_execVRmin {r s : State} (c : Nat) (h : Keeps r s) : KeepsR r (execVRmin c s) := by
  unfold execVRmin
  repeat' first
    | with_reducible assumption
    | with_reducible apply keeps_vRegOp
    | with_reducible apply keepsR_next
    | with_reducible apply keepsR_fault
    | with_reducible apply keepsR_ite

theorem keeps_execVCsum {r s : State} (c : Nat) (h : Keeps r s) : KeepsR r (execVCsum c s) := by
  unfold execVCsum
  repeat' first
    | with_reducible assumption
    | with_reducible apply keeps_vRegOp
    | with_reducible apply keepsR_next
    | with_reducible apply keepsR_fault
    | with_reducible apply keepsR_ite

theorem keeps_execVCmax {r s : State} (c : Nat) (h : Keeps r s) : KeepsR r (execVCmax c s) := by
  unfold execVCmax
  repeat' first
    | with_reducible assumption
    | with_reducible apply keeps_vRegOp
    | with_reducible apply keepsR_next
    | with_reducible apply keepsR_fault
    | with_reducible apply keepsR_ite

theorem keeps_execLds {r s : State} (c : Nat) (h : Keeps r s) : KeepsR r (execLds c s) := by
  unfold execLds
  repeat' first
    | with_reducible assumption
    | with_reducible apply keeps_vRun
    | with_reducible apply keepsR_next
    | with_reducible apply keepsR_fault
    | with_reducible apply keepsR_ite
    | dsimp only

theorem keeps_execLdt {r s : State} (c : Nat) (h : Keeps r s) : KeepsR r (execLdt c s) := by
  unfold execLdt
  repeat' first
    | with_reducible assumption
    | with_reducible apply keeps_vRun
    | with_reducible apply keepsR_next
    | with_reducible apply keepsR_fault
    | with_reducible apply keepsR_ite
    | dsimp only

theorem keeps_execSts {r s : State} (c : Nat) (h : Keeps r s) : KeepsR r (execSts c s) := by
  unfold execSts
  repeat' first
    | with_reducible assumption
    | with_reducible apply keeps_vRun
    | with_reducible apply keepsR_next
    | with_reducible apply keepsR_fault
    | with_reducible apply keepsR_ite
    | dsimp only

theorem keeps_execTopk {r s : State} (c : Nat) (h : Keeps r s) : KeepsR r (execTopk c s) := by
  unfold execTopk
  repeat' first
    | with_reducible assumption
    | with_reducible apply keeps_vRegOp
    | with_reducible apply keepsR_next
    | with_reducible apply keepsR_fault
    | with_reducible apply keepsR_ite

theorem keeps_execSample {r s : State} (c : Nat) (h : Keeps r s) : KeepsR r (execSample c s) := by
  unfold execSample
  repeat' first
    | with_reducible assumption
    | with_reducible apply keeps_vRegOp
    | with_reducible apply keepsR_next
    | with_reducible apply keepsR_fault
    | with_reducible apply keepsR_ite

theorem keeps_execSreset {r s : State} (c : Nat) (h : Keeps r s) : KeepsR r (execSreset c s) := by
  unfold execSreset
  repeat' first
    | with_reducible assumption
    | with_reducible apply keeps_vRegOp
    | with_reducible apply keepsR_next
    | with_reducible apply keepsR_fault
    | with_reducible apply keepsR_ite

theorem keeps_execTtCopy {r s : State} (c : Nat) (h : Keeps r s) : KeepsR r (execTtCopy c s) := by
  unfold execTtCopy
  repeat' first
    | with_reducible assumption
    | with_reducible apply keeps_ttRun
    | with_reducible apply keepsR_next
    | with_reducible apply keepsR_fault
    | with_reducible apply keepsR_ite

theorem keeps_execTranspose {r s : State} (c : Nat) (h : Keeps r s) : KeepsR r (execTranspose c s) := by
  unfold execTranspose
  repeat' first
    | with_reducible assumption
    | with_reducible apply keeps_ttRun
    | with_reducible apply keepsR_next
    | with_reducible apply keepsR_fault
    | with_reducible apply keepsR_ite

theorem keeps_execTransposeIp {r s : State} (c : Nat) (h : Keeps r s) : KeepsR r (execTransposeIp c s) := by
  unfold execTransposeIp
  repeat' first
    | with_reducible assumption
    | with_reducible apply keeps_ttRun
    | with_reducible apply keepsR_next
    | with_reducible apply keepsR_fault
    | with_reducible apply keepsR_ite

theorem keeps_execPermute {r s : State} (c : Nat) (h : Keeps r s) : KeepsR r (execPermute c s) := by
  unfold execPermute
  repeat' first
    | with_reducible assumption
    | with_reducible apply keeps_ttRun
    | with_reducible apply keepsR_next
    | with_reducible apply keepsR_fault
    | with_reducible apply keepsR_ite

theorem keeps_execExpand {r s : State} (c : Nat) (h : Keeps r s) : KeepsR r (execExpand c s) := by
  unfold execExpand
  repeat' first
    | with_reducible assumption
    | with_reducible apply keeps_ttRun
    | with_reducible apply keepsR_next
    | with_reducible apply keepsR_fault
    | with_reducible apply keepsR_ite

theorem keeps_execEncode {r s : State} (c : Nat) (h : Keeps r s) : KeepsR r (execEncode c s) := by
  unfold execEncode
  repeat' first
    | with_reducible assumption
    | with_reducible apply keeps_ttRun
    | with_reducible apply keepsR_next
    | with_reducible apply keepsR_fault
    | with_reducible apply keepsR_ite

theorem keeps_execTtGather {r s : State} (c : Nat) (h : Keeps r s) : KeepsR r (execTtGather c s) := by
  unfold execTtGather
  repeat' first
    | with_reducible assumption
    | with_reducible apply keeps_ttRun
    | with_reducible apply keepsR_next
    | with_reducible apply keepsR_fault
    | with_reducible apply keepsR_ite

theorem keeps_execTtScatter {r s : State} (c : Nat) (h : Keeps r s) : KeepsR r (execTtScatter c s) := by
  unfold execTtScatter
  repeat' first
    | with_reducible assumption
    | with_reducible apply keeps_ttRun
    | with_reducible apply keepsR_next
    | with_reducible apply keepsR_fault
    | with_reducible apply keepsR_ite

theorem keeps_execTtScatterAdd {r s : State} (c : Nat) (h : Keeps r s) : KeepsR r (execTtScatterAdd c s) := by
  unfold execTtScatterAdd
  repeat' first
    | with_reducible assumption
    | with_reducible apply keeps_ttRun
    | with_reducible apply keepsR_next
    | with_reducible apply keepsR_fault
    | with_reducible apply keepsR_ite

theorem keeps_execDropout {r s : State} (c : Nat) (h : Keeps r s) : KeepsR r (execDropout c s) := by
  unfold execDropout
  repeat' first
    | with_reducible assumption
    | with_reducible apply keeps_ttRun
    | with_reducible apply keepsR_next
    | with_reducible apply keepsR_fault
    | with_reducible apply keepsR_ite

theorem keeps_execLoad {r s : State} (c : Nat) (chan : BitVec 3) (h : Keeps r s) : KeepsR r (execLoad c chan s) := by
  unfold execLoad
  repeat' first
    | with_reducible assumption
    | with_reducible apply keeps_aeRun
    | with_reducible apply keepsR_next
    | with_reducible apply keepsR_fault
    | with_reducible apply keepsR_ite

theorem keeps_execGather {r s : State} (c : Nat) (chan : BitVec 3) (h : Keeps r s) : KeepsR r (execGather c chan s) := by
  unfold execGather
  repeat' first
    | with_reducible assumption
    | with_reducible apply keeps_aeRun
    | with_reducible apply keepsR_next
    | with_reducible apply keepsR_fault
    | with_reducible apply keepsR_ite

theorem keeps_execStore {r s : State} (c : Nat) (chan : BitVec 3) (h : Keeps r s) : KeepsR r (execStore c chan s) := by
  unfold execStore
  repeat' first
    | with_reducible assumption
    | with_reducible apply keeps_aeRun
    | with_reducible apply keepsR_next
    | with_reducible apply keepsR_fault
    | with_reducible apply keepsR_ite

theorem keeps_execScatter {r s : State} (c : Nat) (chan : BitVec 3) (h : Keeps r s) : KeepsR r (execScatter c chan s) := by
  unfold execScatter
  repeat' first
    | with_reducible assumption
    | with_reducible apply keeps_aeRun
    | with_reducible apply keepsR_next
    | with_reducible apply keepsR_fault
    | with_reducible apply keepsR_ite

theorem keeps_execScatterAdd {r s : State} (c : Nat) (chan : BitVec 3) (h : Keeps r s) : KeepsR r (execScatterAdd c chan s) := by
  unfold execScatterAdd
  repeat' first
    | with_reducible assumption
    | with_reducible apply keeps_aeRun
    | with_reducible apply keepsR_next
    | with_reducible apply keepsR_fault
    | with_reducible apply keepsR_ite

theorem keeps_execStaleNotice {r s : State} (c : Nat) (region : Nat) (h : Keeps r s) : KeepsR r (execStaleNotice c region s) := by
  unfold execStaleNotice
  repeat' first
    | with_reducible assumption
    | with_reducible apply keeps_notice
    | with_reducible apply keepsR_next
    | with_reducible apply keepsR_fault
    | with_reducible apply keepsR_ite

theorem keeps_execLostWatchNotice {r s : State} (c : Nat) (region : Nat) (h : Keeps r s) : KeepsR r (execLostWatchNotice c region s) := by
  unfold execLostWatchNotice
  repeat' first
    | with_reducible assumption
    | with_reducible apply keeps_notice
    | with_reducible apply keepsR_next
    | with_reducible apply keepsR_fault
    | with_reducible apply keepsR_ite

theorem keeps_execRefetchLimit {r s : State} (c : Nat) (k : Nat) (h : Keeps r s) : KeepsR r (execRefetchLimit c k s) := by
  unfold execRefetchLimit
  repeat' first
    | with_reducible assumption
    | with_reducible apply keeps_refetchEnds
    | with_reducible apply keepsR_next
    | with_reducible apply keepsR_fault
    | with_reducible apply keepsR_ite
    | with_reducible apply keeps_ite
    | split

theorem keeps_execPbufState {r s : State} (c : Nat) (rd : Reg) (ra : Reg) (rb : Reg) (h : Keeps r s) : KeepsR r (execPbufState c rd ra rb s) := by
  unfold execPbufState
  repeat' first
    | with_reducible assumption
    | with_reducible apply keeps_pbuf
    | with_reducible apply keepsR_next
    | with_reducible apply keepsR_fault
    | with_reducible apply keepsR_ite

theorem keeps_execPbufWc {r s : State} (c : Nat) (rd : Reg) (ra : Reg) (rb : Reg) (h : Keeps r s) : KeepsR r (execPbufWc c rd ra rb s) := by
  unfold execPbufWc
  repeat' first
    | with_reducible assumption
    | with_reducible apply keeps_pbuf
    | with_reducible apply keepsR_next
    | with_reducible apply keepsR_fault
    | with_reducible apply keepsR_ite

theorem keeps_execPbufMepoch {r s : State} (c : Nat) (rd : Reg) (ra : Reg) (rb : Reg) (h : Keeps r s) : KeepsR r (execPbufMepoch c rd ra rb s) := by
  unfold execPbufMepoch
  repeat' first
    | with_reducible assumption
    | with_reducible apply keeps_pbuf
    | with_reducible apply keepsR_next
    | with_reducible apply keepsR_fault
    | with_reducible apply keepsR_ite

theorem keeps_execPbufTag {r s : State} (c : Nat) (rd : Reg) (ra : Reg) (rb : Reg) (h : Keeps r s) : KeepsR r (execPbufTag c rd ra rb s) := by
  unfold execPbufTag
  repeat' first
    | with_reducible assumption
    | with_reducible apply keeps_pbuf
    | with_reducible apply keepsR_next
    | with_reducible apply keepsR_fault
    | with_reducible apply keepsR_ite

theorem keeps_execStep {r s : State} (c : Nat) (h : Keeps r s) : KeepsR r (execStep c s) :=
  keepsR_next (keeps_work _ _ _ _ _ _ (fun x _ e k => keepsM_stepMove c x e k) h)

theorem keeps_execReduce {r s : State} (c : Nat) (h : Keeps r s) : KeepsR r (execReduce c s) :=
  keepsR_next (keeps_work _ _ _ _ _ _ (fun x _ e k => keepsM_reduceMove c x e k) h)

theorem keeps_execPendingWriteGate {r s : State} (c : Nat) (h : Keeps r s) : KeepsR r (execPendingWriteGate c s) := by
  unfold execPendingWriteGate
  repeat' first
    | with_reducible assumption
    | with_reducible apply keeps_settle
    | with_reducible apply keeps_updWb
    | with_reducible apply keeps_failWb
    | with_reducible apply keepsR_next
    | with_reducible apply keepsR_fault
    | with_reducible apply keepsR_ite
    | with_reducible apply keeps_ite
    | split
    | fail_if_no_progress with_reducible apply keeps_mk
    | dsimp only

theorem keeps_execDriftSample {r s : State} (c : Nat) (h : Keeps r s) : KeepsR r (execDriftSample c s) := by
  unfold execDriftSample
  repeat' first
    | with_reducible assumption
    | with_reducible apply keeps_dropDrift
    | with_reducible apply keeps_settle
    | with_reducible apply keeps_clusterFails
    | with_reducible apply keepsR_next
    | with_reducible apply keepsR_fault
    | with_reducible apply keepsR_ite
    | with_reducible apply keeps_updCl
    | with_reducible apply keeps_drawn
    | with_reducible apply keeps_setObj
    | with_reducible apply keeps_bump
    | with_reducible apply keeps_ite
    | split
    | fail_if_no_progress with_reducible apply keeps_mk
    | dsimp only

theorem keeps_execWaybillAtHead {r s : State} (c : Nat) (station : Nat) (chan : Nat) (h : Keeps r s) : KeepsR r (execWaybillAtHead c station chan s) := by
  unfold execWaybillAtHead
  repeat' first
    | with_reducible assumption
    | with_reducible apply keeps_failWb
    | with_reducible apply keeps_settle
    | with_reducible apply keeps_updWb
    | with_reducible apply keepsR_next
    | with_reducible apply keepsR_fault
    | with_reducible apply keepsR_ite
    | with_reducible apply keeps_ite
    | split
    | fail_if_no_progress with_reducible apply keeps_mk
    | dsimp only

theorem keeps_execWaybillStart {r s : State} (c : Nat) (station : Nat) (chan : Nat) (h : Keeps r s) : KeepsR r (execWaybillStart c station chan s) := by
  unfold execWaybillStart
  repeat' first
    | with_reducible assumption
    | with_reducible apply keeps_settle
    | with_reducible apply keeps_failWb
    | with_reducible apply keeps_updWb
    | with_reducible apply keeps_updChan
    | with_reducible apply keepsR_next
    | with_reducible apply keepsR_fault
    | with_reducible apply keepsR_ite
    | with_reducible apply keeps_ite
    | split
    | fail_if_no_progress with_reducible apply keeps_mk
    | dsimp only

theorem keeps_execWaybillComplete {r s : State} (c : Nat) (station : Nat) (chan : Nat) (h : Keeps r s) : KeepsR r (execWaybillComplete c station chan s) := by
  unfold execWaybillComplete
  repeat' first
    | with_reducible assumption
    | with_reducible apply keeps_pushRecord
    | with_reducible apply keeps_finishWb
    | with_reducible apply keeps_updSt
    | with_reducible apply keepsR_next
    | with_reducible apply keepsR_fault
    | with_reducible apply keepsR_ite
    | with_reducible apply keeps_ite
    | split
    | fail_if_no_progress with_reducible apply keeps_mk
    | dsimp only

theorem keeps_execCompletionRecordPush {r s : State} (c : Nat) (engine : Bool) (h : Keeps r s) : KeepsR r (execCompletionRecordPush c engine s) := by
  unfold execCompletionRecordPush
  repeat' first
    | with_reducible assumption
    | with_reducible apply keeps_pushRecord
    | with_reducible apply keeps_updSt
    | with_reducible apply keeps_finishWb
    | with_reducible apply keepsR_next
    | with_reducible apply keepsR_fault
    | with_reducible apply keepsR_ite
    | with_reducible apply keeps_ite
    | split
    | fail_if_no_progress with_reducible apply keeps_mk
    | dsimp only

theorem keeps_execConsignmentStop {r s : State} (c : Nat) (h : Keeps r s) : KeepsR r (execConsignmentStop c s) := by
  unfold execConsignmentStop
  repeat' first
    | with_reducible assumption
    | with_reducible apply keeps_stopOn
    | with_reducible apply keepsR_next
    | with_reducible apply keepsR_fault
    | with_reducible apply keepsR_ite
    | with_reducible apply keeps_ite
    | split

theorem keeps_execEndComplete {r s : State} (c : Nat) (h : Keeps r s) : KeepsR r (execEndComplete c s) := by
  unfold execEndComplete
  repeat' first
    | with_reducible assumption
    | with_reducible apply keeps_commitCkpt
    | with_reducible apply keeps_endWatches
    | with_reducible apply keeps_giveValues
    | with_reducible apply keeps_updEntry
    | with_reducible apply keeps_commitEnds
    | with_reducible apply keeps_startReady
    | with_reducible apply keepsR_next
    | with_reducible apply keepsR_fault
    | with_reducible apply keepsR_ite
    | with_reducible apply keeps_updCl
    | with_reducible apply keeps_ite
    | split
    | fail_if_no_progress with_reducible apply keeps_mk
    | dsimp only

theorem keeps_execPageWalkComplete {r s : State} (c : Nat) (part : Nat) (va : BitVec 48) (h : Keeps r s) : KeepsR r (execPageWalkComplete c part va s) := by
  unfold execPageWalkComplete
  repeat' first
    | with_reducible assumption
    | with_reducible apply keeps_walked
    | with_reducible apply keepsR_next
    | with_reducible apply keepsR_fault
    | with_reducible apply keepsR_ite
    | with_reducible apply keeps_ite
    | split
    | dsimp only

theorem keeps_execInvalidationDone {r s : State} (part : Nat) (h : Keeps r s) : KeepsR r (execInvalidationDone part s) := by
  unfold execInvalidationDone
  repeat' first
    | with_reducible assumption
    | with_reducible apply keeps_dropTlb
    | with_reducible apply keeps_updX
    | with_reducible apply keepsR_next
    | with_reducible apply keepsR_fault
    | with_reducible apply keepsR_ite
    | with_reducible apply keeps_ite
    | split
    | fail_if_no_progress with_reducible apply keeps_mk

theorem keeps_execRun {r s : State} (part : Nat) (seq : Nat) (h : Keeps r s) : KeepsR r (execRun part seq s) := by
  unfold execRun
  repeat' first
    | with_reducible assumption
    | with_reducible apply keeps_runDir
    | with_reducible apply keeps_enterRun
    | with_reducible apply keeps_startReady
    | with_reducible apply keepsR_next
    | with_reducible apply keepsR_fault
    | with_reducible apply keepsR_ite
    | with_reducible apply keeps_ite
    | split

theorem keeps_execNop {r s : State} (part : Nat) (seq : Nat) (h : Keeps r s) : KeepsR r (execNop part seq s) := by
  unfold execNop
  repeat' first
    | with_reducible assumption
    | with_reducible apply keeps_enterRun
    | with_reducible apply keeps_markDone
    | with_reducible apply keeps_refuseEntry
    | with_reducible apply keepsR_next
    | with_reducible apply keepsR_fault
    | with_reducible apply keepsR_ite
    | with_reducible apply keeps_ite
    | split
    | dsimp only

theorem keeps_execSpeculativeStart {r s : State} (part : Nat) (seq : Nat) (h : Keeps r s) : KeepsR r (execSpeculativeStart part seq s) := by
  unfold execSpeculativeStart
  repeat' first
    | with_reducible assumption
    | with_reducible apply keeps_enterRun
    | with_reducible apply keeps_runDir
    | with_reducible apply keeps_markDone
    | with_reducible apply keeps_refuseEntry
    | with_reducible apply keepsR_next
    | with_reducible apply keepsR_fault
    | with_reducible apply keepsR_ite
    | with_reducible apply keeps_ite
    | split
    | fail_if_no_progress with_reducible apply keeps_mk
    | dsimp only

theorem keeps_execFence {r s : State} (part : Nat) (seq : Nat) (h : Keeps r s) : KeepsR r (execFence part seq s) := by
  unfold execFence
  repeat' first
    | with_reducible assumption
    | with_reducible apply keeps_enterRun
    | with_reducible apply keeps_refuseEntry
    | with_reducible apply keeps_fenceOver
    | with_reducible apply keeps_updEntry
    | with_reducible apply keeps_event
    | with_reducible apply keepsR_next
    | with_reducible apply keepsR_fault
    | with_reducible apply keepsR_ite
    | with_reducible apply keeps_updPt
    | with_reducible apply keeps_ite
    | split
    | fail_if_no_progress with_reducible apply keeps_mk
    | dsimp only

theorem keeps_execCopy {r s : State} (part : Nat) (seq : Nat) (h : Keeps r s) : KeepsR r (execCopy part seq s) := by
  unfold execCopy
  repeat' first
    | with_reducible assumption
    | with_reducible apply keeps_enterRun
    | with_reducible apply keeps_refuseEntry
    | with_reducible apply keeps_markDone
    | with_reducible apply keeps_settle
    | with_reducible apply keeps_scramble
    | with_reducible apply keeps_countFault
    | with_reducible apply keeps_updEntry
    | with_reducible apply keepsR_next
    | with_reducible apply keepsR_fault
    | with_reducible apply keepsR_ite
    | with_reducible apply keeps_drawn
    | with_reducible apply keeps_ite
    | (refine keeps_foldl _ (fun _ _ _ => ?_) _ ?_)
    | split
    | fail_if_no_progress with_reducible apply keeps_mk
    | dsimp only

theorem keeps_execCommit {r s : State} (part : Nat) (seq : Nat) (h : Keeps r s) : KeepsR r (execCommit part seq s) := by
  unfold execCommit
  repeat' first
    | with_reducible assumption
    | with_reducible apply keeps_beginCommit
    | with_reducible apply keeps_enterRun
    | with_reducible apply keeps_startReady
    | with_reducible apply keepsR_next
    | with_reducible apply keepsR_fault
    | with_reducible apply keepsR_ite
    | with_reducible apply keeps_ite
    | split

theorem keeps_execCommitPartials {r s : State} (part : Nat) (mod : Nat) (k : Nat) (clip : Bool) (sq : Word) (nf : Word) (h : Keeps r s) : KeepsR r (execCommitPartials part mod k clip sq nf s) := by
  unfold execCommitPartials
  repeat' first
    | with_reducible assumption
    | with_reducible apply keeps_decideGate
    | with_reducible apply keepsR_next
    | with_reducible apply keepsR_fault
    | with_reducible apply keepsR_ite
    | with_reducible apply keeps_updPt
    | with_reducible apply keeps_ite
    | split

theorem keeps_execRerunNotice {r s : State} (note : RerunNote) (h : Keeps r s) : KeepsR r (execRerunNotice note s) := by
  unfold execRerunNotice
  repeat' first
    | with_reducible assumption
    | with_reducible apply keeps_discardAll
    | with_reducible apply keeps_updPt
    | with_reducible apply keeps_stopEntry
    | with_reducible apply keeps_updEntry
    | with_reducible apply keeps_rerunPart
    | with_reducible apply keepsR_next
    | with_reducible apply keepsR_fault
    | with_reducible apply keepsR_ite
    | with_reducible apply keeps_ite
    | (refine keeps_foldl _ (fun _ _ _ => ?_) _ ?_)
    | split
    | fail_if_no_progress with_reducible apply keeps_mk
    | dsimp only

theorem keeps_phasePass {r s : State} (p q seq : Nat) (h : Keeps r s) : Keeps r (s.phasePass p q seq) := by
  unfold State.phasePass
  refine keeps_markDone _ _ (keeps_updPt _ _ (keeps_updPt _ _ (keeps_foldl _ (fun t c k => ?_) _ h)))
  exact keeps_updCl _ _ (keeps_coalOut _ _ (keeps_ite _ (keeps_dropDrift _ _ k) k))

theorem keeps_execPhase {r s : State} (part : Nat) (seq : Nat) (h : Keeps r s) : KeepsR r (execPhase part seq s) := by
  unfold execPhase
  repeat' first
    | with_reducible assumption
    | with_reducible apply keeps_phasePass
    | with_reducible apply keeps_enterRun
    | with_reducible apply keeps_refuseEntry
    | with_reducible apply keepsR_next
    | with_reducible apply keepsR_fault
    | with_reducible apply keepsR_ite
    | with_reducible apply keeps_ite
    | (refine keeps_foldl _ (fun _ _ _ => ?_) _ ?_)
    | split
    | fail_if_no_progress with_reducible apply keeps_mk
    | dsimp only

theorem keeps_execSnapshot {r s : State} (part : Nat) (seq : Nat) (h : Keeps r s) : KeepsR r (execSnapshot part seq s) := by
  unfold execSnapshot
  repeat' first
    | with_reducible assumption
    | with_reducible apply keeps_enterRun
    | with_reducible apply keeps_refuseEntry
    | with_reducible apply keeps_settle
    | with_reducible apply keeps_countFault
    | with_reducible apply keeps_updEntry
    | with_reducible apply keepsR_next
    | with_reducible apply keepsR_fault
    | with_reducible apply keepsR_ite
    | with_reducible apply keeps_emit
    | with_reducible apply keeps_ite
    | (refine keeps_foldl _ (fun _ _ _ => ?_) _ ?_)
    | split
    | fail_if_no_progress with_reducible apply keeps_mk
    | dsimp only

theorem keeps_execMaskUpdate {r s : State} (part : Nat) (seq : Nat) (h : Keeps r s) : KeepsR r (execMaskUpdate part seq s) := by
  unfold execMaskUpdate
  repeat' first
    | with_reducible assumption
    | with_reducible apply keeps_maskRun
    | with_reducible apply keeps_enterRun
    | with_reducible apply keeps_dropDrifts
    | with_reducible apply keeps_refuseEntry
    | with_reducible apply keeps_markDone
    | with_reducible apply keeps_settle
    | with_reducible apply keeps_countFault
    | with_reducible apply keepsR_next
    | with_reducible apply keepsR_fault
    | with_reducible apply keepsR_ite
    | with_reducible apply keeps_ite
    | split
    | dsimp only

theorem keeps_execMaskFlip {r s : State} (part : Nat) (h : Keeps r s) : KeepsR r (execMaskFlip part s) := by
  unfold execMaskFlip
  repeat' first
    | with_reducible assumption
    | with_reducible apply keeps_store
    | with_reducible apply keeps_updEntry
    | with_reducible apply keepsR_next
    | with_reducible apply keepsR_fault
    | with_reducible apply keepsR_ite
    | with_reducible apply keeps_updPt
    | with_reducible apply keeps_bump
    | (refine keeps_foldl _ (fun _ _ _ => ?_) _ ?_)
    | split
    | fail_if_no_progress with_reducible apply keeps_mk
    | dsimp only

theorem keeps_execConsignmentComplete {r s : State} (part : Nat) (seq : Nat) (h : Keeps r s) : KeepsR r (execConsignmentComplete part seq s) := by
  unfold execConsignmentComplete
  repeat' first
    | with_reducible assumption
    | with_reducible apply keeps_storeRecord
    | with_reducible apply keeps_startReady
    | with_reducible apply keepsR_next
    | with_reducible apply keepsR_fault
    | with_reducible apply keepsR_ite
    | with_reducible apply keeps_ite
    | split

theorem keeps_execLogRecord {r s : State} (part : Nat) (h : Keeps r s) : KeepsR r (execLogRecord part s) := by
  unfold execLogRecord
  repeat' first
    | with_reducible assumption
    | with_reducible apply keeps_event
    | with_reducible apply keeps_store
    | with_reducible apply keeps_msiFor
    | with_reducible apply keepsR_next
    | with_reducible apply keepsR_fault
    | with_reducible apply keepsR_ite
    | with_reducible apply keeps_updPt
    | with_reducible apply keeps_ite
    | split
    | fail_if_no_progress with_reducible apply keeps_mk
    | dsimp only

theorem keeps_execShortPress {r s : State} (h : Keeps r s) : KeepsR r (execShortPress s) := by
  unfold execShortPress
  repeat' first
    | with_reducible assumption
    | with_reducible apply keeps_drainCancel
    | with_reducible apply keeps_updPlate
    | with_reducible apply keeps_enterS3
    | with_reducible apply keepsR_next
    | with_reducible apply keepsR_fault
    | with_reducible apply keepsR_ite
    | with_reducible apply keeps_ite
    | split
    | fail_if_no_progress with_reducible apply keeps_mk

theorem keeps_execPblkLatch {r s : State} (part : Nat) (h : Keeps r s) : KeepsR r (execPblkLatch part s) := by
  unfold execPblkLatch
  repeat' first
    | with_reducible assumption
    | with_reducible apply keeps_updRegs
    | with_reducible apply keeps_clearLeavers
    | with_reducible apply keeps_formHolds
    | with_reducible apply keepsR_next
    | with_reducible apply keepsR_fault
    | with_reducible apply keepsR_ite
    | with_reducible apply keeps_updPt
    | with_reducible apply keeps_setObj
    | with_reducible apply keeps_ite
    | split
    | fail_if_no_progress with_reducible apply keeps_mk
    | dsimp only

theorem keeps_execClogBaseLatch {r s : State} (part : Nat) (h : Keeps r s) : KeepsR r (execClogBaseLatch part s) := by
  unfold execClogBaseLatch
  repeat' first
    | with_reducible assumption
    | with_reducible apply keepsR_next
    | with_reducible apply keepsR_fault
    | with_reducible apply keepsR_ite
    | with_reducible apply keeps_updPt
    | with_reducible apply keeps_ite
    | split
    | fail_if_no_progress with_reducible apply keeps_mk

theorem keeps_execFmapLatch {r s : State} (part : Nat) (h : Keeps r s) : KeepsR r (execFmapLatch part s) := by
  unfold execFmapLatch
  repeat' first
    | with_reducible assumption
    | with_reducible apply keeps_updX
    | with_reducible apply keeps_applyModes
    | with_reducible apply keepsR_next
    | with_reducible apply keepsR_fault
    | with_reducible apply keepsR_ite
    | with_reducible apply keeps_updPt
    | with_reducible apply keeps_setObj
    | with_reducible apply keeps_ite
    | split
    | fail_if_no_progress with_reducible apply keeps_mk
    | dsimp only

theorem keeps_clusterWrite {r s : State} (c : Nat) (o : Nat) (v : Word) (pa : Nat) (h : Keeps r s) : KeepsR r (State.clusterWrite s c o v pa) := by
  unfold State.clusterWrite
  repeat' first
    | with_reducible assumption
    | with_reducible apply keeps_woken
    | with_reducible apply keeps_chctl
    | with_reducible apply keepsR_next
    | with_reducible apply keepsR_fault
    | with_reducible apply keepsR_ite
    | with_reducible apply keeps_ite
    | (refine keeps_foldl _ (fun _ _ _ => ?_) _ ?_)
    | split
    | fail_if_no_progress with_reducible apply keeps_mk
    | dsimp only

theorem keeps_execRegisterWrite {r s : State} (pa : BitVec 48) (v : Word) (h : Keeps r s) : KeepsR r (execRegisterWrite pa v s) := by
  unfold execRegisterWrite
  repeat' first
    | with_reducible assumption
    | with_reducible apply keeps_ledgerWrite
    | with_reducible apply keeps_xlateWrite
    | with_reducible apply keeps_clusterWrite
    | with_reducible apply keeps_blockWrite
    | with_reducible apply keepsR_next
    | with_reducible apply keepsR_fault
    | with_reducible apply keepsR_ite
    | with_reducible apply keeps_ite
    | (refine keeps_foldl _ (fun _ _ _ => ?_) _ ?_)
    | split
    | fail_if_no_progress with_reducible apply keeps_mk
    | dsimp only

theorem keeps_execNak {r s : State} (p : Packet) (h : Keeps r s) : KeepsR r (execNak p s) := by
  unfold execNak
  repeat' first
    | with_reducible assumption
    | with_reducible apply keeps_again
    | with_reducible apply keeps_resend
    | with_reducible apply keepsR_next
    | with_reducible apply keepsR_fault
    | with_reducible apply keepsR_ite
    | with_reducible apply keeps_ite
    | (refine keeps_foldl _ (fun _ _ _ => ?_) _ ?_)
    | split
    | fail_if_no_progress with_reducible apply keeps_mk
    | dsimp only

theorem keeps_execRetry {r s : State} (p : Packet) (h : Keeps r s) : KeepsR r (execRetry p s) := by
  unfold execRetry
  repeat' first
    | with_reducible assumption
    | with_reducible apply keepsR_next
    | with_reducible apply keepsR_fault
    | with_reducible apply keepsR_ite
    | with_reducible apply keeps_bump
    | with_reducible apply keeps_ite
    | split
    | fail_if_no_progress with_reducible apply keeps_mk
    | dsimp only

theorem keeps_execRetryResend {r s : State} (ep : BitVec 16) (tag : BitVec 16) (h : Keeps r s) : KeepsR r (execRetryResend ep tag s) := by
  unfold execRetryResend
  repeat' first
    | with_reducible assumption
    | with_reducible apply keepsR_next
    | with_reducible apply keepsR_fault
    | with_reducible apply keepsR_ite
    | with_reducible apply keeps_emit
    | with_reducible apply keeps_ite
    | (refine keeps_foldl _ (fun _ _ _ => ?_) _ ?_)
    | split
    | fail_if_no_progress with_reducible apply keeps_mk
    | dsimp only

theorem keeps_execReadReq {r s : State} (p : Packet) (h : Keeps r s) : KeepsR r (execReadReq p s) := by
  have ht : ∀ (ps : List Piece) {t : State}, Keeps r t → Keeps r (ps.foldl (fun (s : State) (q : Piece) => s.touch q.pa q.n q.hc) t) :=
    fun ps _ k => keeps_foldl _ (fun _ _ k => keeps_touch _ _ _ k) ps k
  unfold execReadReq
  refine keepsR_ite _ (keepsR_next h) (keepsR_ite _ (keepsR_next (keeps_nak _ h)) (keepsR_ite _ (keeps_readControl _ h) (keepsR_ite _ (keepsR_fault _ _) ?_)))
  split
  · exact keepsR_next (keeps_respond _ _ _ h)
  · refine keepsR_ite _ (keepsR_next h) (keepsR_ite _ (keepsR_next (keeps_respond _ _ _ (ht _ h))) (keepsR_next (keeps_respond _ _ _ (ht _ ?_))))
    exact keeps_foldl _ (fun _ _ k => keeps_woken _ k) _ h

theorem keeps_execReadResp {r s : State} (p : Packet) (h : Keeps r s) : KeepsR r (execReadResp p s) := by
  unfold execReadResp
  repeat' first
    | with_reducible assumption
    | with_reducible apply keeps_again
    | with_reducible apply keeps_dropKept
    | with_reducible apply keeps_updSt
    | with_reducible apply keeps_endRefetch
    | with_reducible apply keeps_tagFreed
    | with_reducible apply keepsR_next
    | with_reducible apply keepsR_fault
    | with_reducible apply keepsR_ite
    | with_reducible apply keeps_ite
    | split
    | fail_if_no_progress with_reducible apply keeps_mk
    | dsimp only

theorem keeps_execWrite {r s : State} (p : Packet) (h : Keeps r s) : KeepsR r (execWrite p s) := by
  unfold execWrite
  refine keepsR_ite _ (keepsR_next h) (keepsR_ite _ (keepsR_next (keeps_nak _ h)) (keepsR_ite _ (keepsR_next (keeps_writeCluster _ _ h)) (keepsR_ite _
    (keepsR_ite _ (keepsR_next h) (keepsR_ite _ (keepsR_fault _ _) ?_)) (keepsR_ite _ (keepsR_fault _ _) (keepsR_next (keeps_writeMem _ h))))))
  have h1 := keeps_execRegisterWrite p.addr (BitVec.ofNat 64 (leNat p.payload)) h
  split
  · rename_i t ht
    exact keepsR_next (keeps_ackWrite _ _ _ (h1 t ht))
  · exact h1

theorem keeps_execAddPiece {r s : State} (p : Packet) (h : Keeps r s) : KeepsR r (execAddPiece p s) := by
  unfold execAddPiece
  repeat' first
    | with_reducible assumption
    | with_reducible apply keeps_nak
    | with_reducible apply keeps_ackFault
    | with_reducible apply keeps_woken
    | with_reducible apply keeps_addArrive
    | with_reducible apply keepsR_next
    | with_reducible apply keepsR_fault
    | with_reducible apply keepsR_ite
    | with_reducible apply keeps_ite
    | (refine keeps_foldl _ (fun _ _ _ => ?_) _ ?_)
    | split
    | fail_if_no_progress with_reducible apply keeps_mk
    | dsimp only

theorem keeps_lateFlags {r s : State} (c : Nat) (mine : List Kept) (p : Packet) (h : Keeps r s) : Keeps r (State.lateFlags s c mine p) := by
  unfold State.lateFlags
  repeat' first
    | with_reducible assumption
    | with_reducible apply keeps_joinFlags
    | with_reducible apply keeps_ite
    | (refine keeps_foldl _ (fun _ _ _ => ?_) _ ?_)
    | split
    | fail_if_no_progress with_reducible apply keeps_mk
    | dsimp only

theorem keeps_execWrAck {r s : State} (p : Packet) (h : Keeps r s) : KeepsR r (execWrAck p s) := by
  unfold execWrAck
  repeat' first
    | with_reducible assumption
    | with_reducible apply keeps_again
    | with_reducible apply keeps_dropKept
    | with_reducible apply keeps_tagFreed
    | with_reducible apply keeps_lateFlags
    | with_reducible apply keeps_updWb
    | with_reducible apply keeps_failChan
    | with_reducible apply keepsR_next
    | with_reducible apply keepsR_fault
    | with_reducible apply keepsR_ite
    | with_reducible apply keeps_ite
    | (refine keeps_foldl _ (fun _ _ _ => ?_) _ ?_)
    | split
    | fail_if_no_progress with_reducible apply keeps_mk
    | dsimp only

theorem keeps_execNoticeAck {r s : State} (p : Packet) (h : Keeps r s) : KeepsR r (execNoticeAck p s) := by
  unfold execNoticeAck
  extract_lets x c region mine
  refine keepsR_ite _ (keepsR_next ?_) ?_
  · split
    · exact keeps_resend _ (keeps_bump _ _ _ h)
    · exact keeps_bump _ _ _ h
  · have h1 : Keeps r { s with kept := s.kept.eraseP mine } := keeps_mk h
    repeat' first
      | with_reducible assumption
      | with_reducible apply keeps_emit
      | with_reducible apply keeps_updHub
      | with_reducible apply keepsR_next
      | with_reducible apply keepsR_ite
      | with_reducible apply keeps_ite
      | split

end Sys2Proof.Machine
end

