-- ==== Sys2Proof/Tests/Slice0.lean ====
section
/-! SUPPORT. Small checks of the model: a refused ill-formed command for each check of WellFormed, values worked out from the spec, and for every
statement with hypotheses a concrete state and operands that meet them together. -/

namespace Sys2Proof.Tests

set_option Elab.async false

open Sys2Proof Sys2Proof.Machine

/-! ### Well-formed commands -/

def pkt0 : Packet := packetOf 0x00 0 0x2000 0 0xFF 0 7 0x100 64 []
def unit0 : MdpUnit :=
  { ver := 1, op := 2, reqId := 5, index := 0x2010, sub := 1, set := false, final := false, seg := false, rsv := 0, offset := 0, len := 1, result := 0, data := [0x1E] }

theorem test_wf_cluster : wellFormed (.add 1087 1 2 3) = true ∧ wellFormed (.add 1088 1 2 3) = false ∧ wellFormed (.load 1088 0) = false := by decide
theorem test_wf_wait : wellFormed (.waitRelease 0 (some 6) 7) = true ∧ wellFormed (.waitRelease 0 (some 7) 0) = false ∧ wellFormed (.waitRelease 0 none 8) = false := by decide
theorem test_wf_issue : wellFormed (.issue 0 2 3 []) = true ∧ wellFormed (.issue 0 2 3 (List.replicate 8 (0, 1))) = false := by decide
theorem test_wf_waybill : wellFormed (.waybillAtHead 0 6 0) = true ∧ wellFormed (.waybillAtHead 0 7 0) = false ∧ wellFormed (.waybillStart 0 0 8) = false := by decide
theorem test_wf_queue : wellFormed (.queueRead (.completion 0 0x0D)) = true ∧ wellFormed (.queueRead (.completion 0 0x0E)) = false ∧
    wellFormed (.queueWrite (.events 64) 0) = false := by decide
theorem test_wf_entry : wellFormed (.entryArrivalComplete 0 0x0B true) = true ∧ wellFormed (.entryArrivalComplete 0 16 true) = false := by decide
theorem test_wf_die : wellFormed (.computeReset 63) = true ∧ wellFormed (.computeReset 64) = false ∧ wellFormed (.dieLoss 0 true [64]) = false := by decide
theorem test_wf_packet : wellFormed (.readReq pkt0) = true ∧ wellFormed (.write { pkt0 with payload := [1] }) = false ∧
    wellFormed (.packetForward (.junction 64) pkt0) = false ∧ wellFormed (.redUp 8 pkt0) = false := by decide
theorem test_wf_part : wellFormed (.append 15) = true ∧ wellFormed (.append 16) = false ∧ wellFormed (.commitPartials 0 256 1 false 0 0) = false ∧
    wellFormed (.pageWalkComplete 1088 0 0) = false := by decide
theorem test_wf_parts : wellFormed (.hubLoss 4) = false ∧ wellFormed (.stackLoss 20) = false ∧ wellFormed (.cxlPortLoss 4) = false ∧ wellFormed (.portDown 32) = false ∧
    wellFormed (.linkDieLoss 8) = false ∧ wellFormed (.laneSignalLoss 0 8) = false := by decide
theorem test_wf_unit : wellFormed (.mdpWrite (.udp 1) unit0) = true ∧ wellFormed (.mdpWrite (.udp 1) { unit0 with len := 2 }) = false ∧
    wellFormed (.reportNonceWrite [1]) = false ∧ wellFormed (.verify 6) = false ∧ wellFormed (.latchTouch 12) = false ∧ wellFormed (.dieToDiePortDown 0 4) = false := by decide

/-! ### The small module that the checks run on: 4 GiB of HBM, one partition whose root table lies at 0x1000 and maps virtual addresses from 0 to HBM and
from 1 GiB to the scratchpads, and cluster 0 running its consignment 1, its code's line in the instruction buffer. -/

def tables : Memory := [(0x1000, 0x01), (0x1002, 0x02), (0x2000, 0x0F), (0x2008, 0x0F), (0x200D, 0x80)]

def run0 : Run := { part := 0, seq := 1, xroot := 0x1001, xkeys := 3 }

def ent (seq : Nat) (desc : Desc) : Entry := { seq := seq, desc := desc, st := .running, clusters := [0], views := List.replicate 16 0 }

def part0 : Part :=
  { regs := { enable := true, holds := true }, x := { xroot := 0x1001, xkeys := 3 }, nextSeq := 2, entries := [ent 1 0],
    blk := some { clusters := [0, 1], group := none, stations := 0x7F } }

def core0 : Core := { pc := 0x100, regs := [(1, 0x4000), (2, 8), (3, 0xFFFFFFFFFFFFFFFF)], buf := [(4, List.replicate 64 0, [])] }
def clus0 : Cluster := { stat := .active, role := some 0, run := some run0, core := core0 }

def mod0 : State := { State.reset with
  mem := tables, clusters := [(0, clus0), (1, { stat := .active, role := some 1 }), (16, { stat := .spare })], parts := [(0, part0)]
  plan := { rows := [(0x100000000, [0, 5, 10, 15])], rowsOk := 1, stackCap := [(0, 2 ^ 30), (5, 2 ^ 30), (10, 2 ^ 30), (15, 2 ^ 30)] }
  power := { st := .s0, connA := true, connB := true, mv := 56000, flow := 24000 }
  boot := { stage := .l2, hostReady := true, parityReady := true } }

/-- The module with cluster 0, or partition 0, changed. -/
def withCl (f : Cluster → Cluster) : State := mod0.updCl 0 f
def withPt (f : Part → Part) : State := mod0.updPt 0 f

theorem test_module_canon : mod0.canon = true := by decide +kernel

/-- That a job succeeds. -/
def jobOk (j : Job α) : Bool := match (Job.exec j).1 with | .ok _ => true | .error _ => false

/-! ### Values from the spec -/

/-- R251: the CRC-32C of the nine digits 1 to 9 is 0xE3069283. -/
theorem test_crc32c : crc32c (asciiBytes "123456789") = 0xE3069283 := by decide +kernel

/-- R59: ADD wraps at 64 bits. -/
theorem test_add_wraps : (match exec (.add 0 4 3 2) mod0 with | .next t => t.reg 0 4 | _ => 0) = 7 := by decide +kernel

/-- R59: SRA keeps the sign, SHR does not; a shift takes the low six bits of rb. -/
theorem test_shift : (match exec (.srai 0 4 3 60) mod0 with | .next t => t.reg 0 4 | _ => 0) = 0xFFFFFFFFFFFFFFFF ∧
    (match exec (.shri 0 4 3 60) mod0 with | .next t => t.reg 0 4 | _ => 0) = 0xF ∧
    (match exec (.shl 0 4 2 3) mod0 with | .next t => t.reg 0 4 | _ => 1) = 0 := by decide +kernel

/-- R59: SLT compares as signed numbers, SLTU as unsigned. -/
theorem test_slt : (match exec (.slt 0 4 3 2) mod0 with | .next t => t.reg 0 4 | _ => 0) = 1 ∧
    (match exec (.sltu 0 4 3 2) mod0 with | .next t => t.reg 0 4 | _ => 1) = 0 := by decide +kernel

/-- R57: s31 reads zero and takes no write. -/
theorem test_s31 : (match exec (.addi 0 31 2 5) mod0 with | .next t => t.reg 0 31 | _ => 1) = 0 := by decide +kernel

/-- R58: a branch counts in words from itself; the offset is signed. -/
theorem test_branch_back : (match exec (.beq 0 2 2 0x3FFF) mod0 with | .next t => (t.cl 0).core.pc | _ => 0) = 0xFC := by decide +kernel

/-- R61: ST stores eight bytes and no more, and LW reads four, little-endian and zero-extended. -/
theorem test_store : (match exec (.st 0 3 1 0) mod0 with
    | .next t => (t.mem.byte 0x4000, t.mem.byte 0x4007, t.mem.byte 0x4008)
    | _ => (0, 0, 0)) = (0xFF, 0xFF, 0) := by decide +kernel
theorem test_load : (match exec (.lw 0 5 1 0) { mod0 with mem := mod0.mem.writeN 0x4000 [1, 2, 3, 0x84, 5] } with
    | .next t => t.reg 0 5 | _ => 0) = 0x84030201 := by decide +kernel

/-- R61: a load from an address that is not a multiple of its size fails the consignment with TIMETABLE_FAULT. -/
theorem test_load_misaligned : (match exec (.lw 0 5 3 0) mod0 with | .next t => (t.entry 0 1).map (fun e => e.fails.map (·.status)) | _ => none) = some [0xA3] := by
  decide +kernel

/-- R53: POST advances its counter by one. -/
theorem test_post : (match exec (.post 0 5) mod0 with | .next t => (t.dcOf 0 5, t.dcOf 0 4) | _ => (0, 0)) = (1, 0) := by decide +kernel

/-- R377: the first append is answered with its number, 2 here, and status 0. -/
theorem test_append : (match exec (.append 0) mod0 with | .next t => ((t.pt 0).regs.append, (t.pt 0).nextSeq) | _ => (0, 0)) = (2, 3) := by decide +kernel

/-- R471, R477: a write to an RWS object answers OK and changes the shadow value alone. -/
theorem test_rws_write : (match exec (.mdpWrite (.udp 1) { unit0 with sub := 1 }) { mod0 with dict := { mod0.dict with sessions := [(1, { role := 15 })] } } with
    | .next t => (Tab.look t.dict.shadow 0x1C (objKey 0x2010 1), t.cfg 0x2010 1) | _ => (0, 0)) = (0x1E, 0x1C) := by decide +kernel

/-- The fields of an instruction word by R58's table: opc [7:0], then [12:8], [17:13], [22:18] and [31:23]. -/
def eciField (opc a b d h : Nat) : Word32 := BitVec.ofNat 32 (opc + a * 2 ^ 8 + b * 2 ^ 13 + d * 2 ^ 18 + h * 2 ^ 23)
def val0 : Reg → Word := fun r => if r = 1 then 0x1000001 else 0

/-- R58, R59: words of every format, ADD s3, s1, s2; ADDI with -1; SRAI by 63; LIW; ST; BLT back by 2; JMP; JR; and the reserved opcode 0x00. -/
theorem test_eci_plain : decodeEci 5 val0 (eciField 0x01 3 1 2 0) 0 0 = .add 5 3 1 2 ∧ decodeEci 5 val0 (eciField 0x10 4 1 31 511) 0 0 = .addi 5 4 1 0x3FFF ∧
    decodeEci 5 val0 (eciField 0x16 4 1 31 1) 0 0 = .srai 5 4 1 63 ∧ decodeEci 5 val0 (eciField 0x18 4 0 0 0) 0x55667788 0x11223344 = .liw 5 4 0x1122334455667788 ∧
    decodeEci 5 val0 (eciField 0x22 4 1 3 0) 0 0 = .st 5 4 1 3 ∧ decodeEci 5 val0 (eciField 0x2A 1 2 30 511) 0 0 = .blt 5 1 2 0x3FFE ∧
    decodeEci 5 val0 (eciField 0x2E 2 1 0 0) 0 0 = .jmp 5 34 ∧ decodeEci 5 val0 (eciField 0x2F 0 9 0 0) 0 0 = .jr 5 9 ∧
    decodeEci 5 val0 0 0 0 = .illegalInstruction 5 (.word 0) := by decide +kernel
/-- R59, R60, R92, R252, R287, R405: words of the D and S formats, with a reserved field and a reserved patch word refused. -/
theorem test_eci_special : decodeEci 5 val0 (eciField 0x30 31 0 0 0) 0 0 = .post 5 31 ∧ decodeEci 5 val0 (eciField 0x31 7 1 0 0) 0 0 = .wait 5 7 1 ∧
    decodeEci 5 val0 (eciField 0x34 4 0 0x0D 0) 0 0 = .readq 5 4 0x0D ∧ decodeEci 5 val0 (eciField 0x38 2 1 2 0) 0x2C1B 0 = .issue 5 2 1 [(3, 3), (4, 5)] ∧
    decodeEci 5 val0 (eciField 0x38 2 1 1 0) 0x100 0 = .illegalInstruction 5 (.patch 1 0x100) ∧ decodeEci 5 val0 (eciField 0x39 0 0 0 0) 0 0 = .endT 5 ∧
    decodeEci 5 val0 (eciField 0x40 7 1 0 0) 0 0 = .windowOpen 5 7 1 ∧ decodeEci 5 val0 (eciField 0x40 7 2 0 0) 0 0 = .windowClose 5 7 2 ∧
    decodeEci 5 val0 (eciField 0x44 3 1 0 0) 0 0 = .sdraincfg 5 3 1 ∧ decodeEci 5 val0 (eciField 0x46 15 1 0 0) 0 0 = .chctlDisable 5 15 (.core 1) ∧
    decodeEci 5 val0 (eciField 0x47 0 1 0 0) 0 0 = .carrySet 5 1 ∧ decodeEci 5 val0 (eciField 0x48 4 1 2 3) 0 0 = .pbufTag 5 4 1 2 ∧
    decodeEci 5 val0 (eciField 0x30 31 1 0 0) 0 0 = .illegalInstruction 5 (.word (eciField 0x30 31 1 0 0)) := by decide +kernel
/-- R57: the control core of the small module gives next what stands at its pc. -/
theorem test_next_eci : (withCl fun cl => { cl with core := { cl.core with buf := [(4, natLe 64 (eciField 0x01 3 1 2 0).toNat, [])] } }).nextEci 0 = some (.add 0 3 1 2) := by
  decide +kernel

/-- R258, R259: the worked example, five rows of 192 GiB and the physical address 0x031_2345_6789, which lies on stack M11 at 0x48D1_5789, pseudo-channel 23. -/
def fiveRows : State := { mod0 with plan := { mod0.plan with rows := (List.range 5).map fun k => (0x3000000000, [k, 5 + k, 10 + k, 15 + k]) } }
theorem test_stack_place : fiveRows.stackPlace 0x3123456789 = some (11, 0x48D15789) ∧ pseudoChannel 0x48D15789 = 23 ∧ fiveRows.hubOf 0x3123456789 = 2 := by
  decide +kernel

/-- R400, R402: the parity granule of a protected byte's group lies on the hub of the group's number, and a byte of a lost part is rebuilt. -/
def guarded : State := { mod0 with mem := mod0.mem.writeN 0x40010005 [0x5A], plan := { mod0.plan with dAreas := [(0x40000000, 0x10000), (0x40010000, 0x30000)] } }
theorem test_parity : guarded.parityAddr 0x40010005 = some 0x40001005 ∧ guarded.hubOf 0x40001005 = 1 ∧ guarded.parityByte 0x40010000 1 5 = 0x5A ∧
    guarded.rebuilt 0x40010000 0x40010005 = 0x5A := by decide +kernel

/-- R518: a port that trained is green, drained blue, down after a fault red; the bar is green at L2 and red after a trip. -/
theorem test_lights : ({ mod0 with ports := [(0, { st := .up })] } : State).portLed 0 = ⟨.green, false⟩ ∧
    ({ mod0 with ports := [(0, { st := .up })], plate := { mod0.plate with latches := [(0, 2)] } } : State).portLed 0 = ⟨.blue, false⟩ ∧
    ({ mod0 with ports := [(0, { st := .down, fault := true })] } : State).portLed 0 = ⟨.red, false⟩ ∧ mod0.lightBar = ⟨.green, false⟩ ∧
    ({ mod0 with power := { mod0.power with tripCause := 3 } } : State).lightBar = ⟨.red, false⟩ := by decide +kernel

/-! ### Witnesses: the control core -/

/-- The control core executes, and finds every word that it fetches in its buffer: what a fetch leaves is the state itself. -/
def fetches (s : State) : Bool := s.coreLive 0 && [4, 8, 12].all fun n => (s.codeMisses 0 n).isEmpty && (s.fetch 0 n).2

theorem witness_AluRegister : fetches mod0 = true := by decide +kernel

theorem witness_AluImmediate : fetches mod0 = true ∧ queueKnown 13 = true ∧ queueKnown 7 = false ∧ queueKnown 31 = false := by decide +kernel

theorem witness_Branches : fetches mod0 = true ∧ (mod0.reg 0 2).toNat % 4 = 0 ∧ (mod0.reg 0 3).toNat % 4 ≠ 0 := by decide +kernel

def piece (pa n : Nat) : Piece := { pa := pa, n := n, hc := 0, guard := false }

theorem witness_Loads : fetches mod0 = true ∧ mod0.xl (mod0.ctxOf 0) false 0x4000 8 = .ok [piece 0x4000 8] ∧
    (mod0.gotPieces [piece 0x4000 8] 0).marks = [] ∧ (mod0.gotPieces [piece 0x4000 8] 0).bad = [] ∧ (mod0.reg 0 1 + BitVec.ofNat 64 8 * (0 : BitVec 14).signExtend 64).toNat % 8 = 0 ∧
    (mod0.reg 0 3 + BitVec.ofNat 64 4 * (0 : BitVec 14).signExtend 64).toNat % 4 ≠ 0 := by decide +kernel

theorem witness_Stores : fetches mod0 = true ∧ mod0.xl (mod0.ctxOf 0) true 0x4000 8 = .ok [piece 0x4000 8] ∧ padCluster 0x4000 = none ∧
    mod0.retainedAt 0x4000 8 none = false ∧ mod0.lostIn 0x4000 8 = false ∧ mod0.xl (mod0.ctxOf 0) true 0x40000000 8 = .ok [piece 0x80000000000 8] ∧
    padCluster 0x80000000000 = some 0 ∧ mod0.retainedAt 0x80000000000 8 none = false := by decide +kernel

def stalled (n : Nat) : State := withCl fun cl => { cl with core := { cl.core with stall := some (3, n) }, dc := [(3, 4)] }
def waiting : State := withCl fun cl => { cl with dc := [(3, 4)], st := { cl.st with sidings := [(2, [{ wb := BitVec.ofNat 512 (3 * 2 ^ 81 + 4 * 2 ^ 86), part := 0, seq := 1, phase := .waiting }])] } }

/-- A write of the control core whose notice one cluster has still to acknowledge. -/
def owing : State := { mod0 with hubs := [(0, { acks := [{ region := 8, dst := 0, dstMod := 0xFF, tag := 7, who := 0xF, waiting := [1] }] })] }

theorem witness_CounterWaits : fetches mod0 = true ∧ mod0.acksDue 0 0xF = false ∧ fetches owing = true ∧ owing.acksDue 0 0xF = true ∧ mod0.upset = [] ∧ mod0.dcOf 0 31 ≠ 65535 ∧ ((stalled 4).cl 0).core.stall = some (3, 4) ∧ ((stalled 4).cl 0).run = some run0 ∧
    run0.stopped = false ∧ run0.ended = false ∧ 4 ≤ (stalled 4).dcOf 0 3 ∧ (stalled 5).dcOf 0 3 < 5 ∧ (stalled 5).cfg 0x2020 1 ≠ 0 ∧ (stalled 5).cfg 0x2020 1 < 10001 ∧
    ((waiting.headWb 0 2 0).map fun e => (e.phase, decide (fld e.wb 86 16 ≤ waiting.dcOf 0 (fld e.wb 81 5)))) = some (.waiting, true) := by decide +kernel

/-- A module with these bytes at virtual and physical address 0x4000. -/
def withBytes (bs : List Byte) : State := { mod0 with mem := mod0.mem.writeN 0x4000 bs }

/-- A pair record's header of one shard, 16 by 16 elements, no second copy, with these tags. -/
def recHdr (tagA tagB : Nat) : Nat := 0xC5 + 4 * 2 ^ 20 + 1 * 2 ^ 36 + 16 * 2 ^ 48 + 16 * 2 ^ 64 + tagA * 2 ^ 128 + tagB * 2 ^ 256

theorem witness_PairBuffers : fetches (withBytes (natLe 64 (recHdr 0 1))) = true ∧ (mod0.cl 0).run = some run0 ∧
    ((((mod0.entry 0 1).map (·.views)).getD []).getD 0 0) = 0 ∧ (mod0.reg 0 1).toNat = 0x4000 ∧
    mod0.xl (mod0.ctxOf 0) false 0x4000 64 = .ok [piece 0x4000 64] ∧
    ((withBytes (natLe 64 (recHdr 0 1))).gotPieces [piece 0x4000 64] 0) = { bytes := natLe 64 (recHdr 0 1), bad := [], marks := [] } ∧
    leNat (natLe 64 (recHdr 0 1)) = recHdr 0 1 ∧ recOk (recHdr 0 1) = true ∧ 0 < (RecH.parse (recHdr 0 1)).shards ∧ (RecH.parse (recHdr 0 1)).visible 0 = some false ∧
    (RecH.parse (recHdr 0 1)).visible 1 = some true ∧ recOk (recHdr 5 6) = true ∧ (RecH.parse (recHdr 5 6)).visible 0 = none ∧
    mod0.xl (mod0.ctxOf 0) false 0x4040 64 = .ok [piece 0x4040 64] ∧ (mod0.reg 0 2).toNat % 64 ≠ 0 ∧
    (RecH.parse (recHdr 0 1)).lm + (RecH.parse (recHdr 0 1)).lq + (RecH.parse (recHdr 0 1)).lv ≤ 64 * (Shard.parse (4095 * 2 ^ 336)).stSlot ∧
    64 * (Shard.parse 0).stSlot < (RecH.parse (recHdr 0 1)).lm ∧ Shard.parse (leNat (natLe 64 (4095 * 2 ^ 336))) = Shard.parse (4095 * 2 ^ 336) := by decide +kernel

/-- The control core of cluster 0 with this buffer, at this address. -/
def coded (buf : List (Nat × List Byte × List Nat)) (pc : Word := 0x100) : State := withCl fun cl => { cl with core := { cl.core with buf := buf, pc := pc } }

theorem witness_CoreFailures : fetches mod0 = true ∧ (mod0.cl 0).run = some run0 ∧ (mod0.entry 0 1).isSome = true ∧ eciWord 0x80 = false ∧ patchOk 5 0 = false ∧
    patchOk 1 256 = false ∧ (coded [] 0xFFFFFFFFFFFF00).coreLive 0 = true ∧ (coded [] 0xFFFFFFFFFFFF00).codeMisses 0 4 = [0xFFFFFFFFFFFF00 / 64] ∧
    (coded [] 0xFFFFFFFFFFFF00).xl (mod0.ctxOf 0) false 0xFFFFFFFFFFFF00 64 = .error stXlate ∧ stXlate ≠ stHold ∧
    mod0.codeMisses 0 12 = [] ∧ mod0.codePoisoned 0 12 = false ∧ (coded [(4, List.replicate 64 0, [1])]).codePoisoned 0 12 = true := by decide +kernel
theorem witness_CoreFailures_miss : (coded []).codeMisses 0 4 = [4] ∧ (coded []).xl ((coded []).ctxOf 0) false 0x100 64 = .ok [piece 0x100 64] ∧
    ((coded []).gotPieces [piece 0x100 64] 0).marks = [] ∧ ((coded []).cl 0).core.buf.length < 256 ∧
    (let s : State := { coded [] 0x40000000 with marks := [(0x80000000000 / 64, 3)] }
     s.codeMisses 0 4 = [0x1000000] ∧ s.xl (s.ctxOf 0) false 0x40000000 64 = .ok [piece 0x80000000000 64] ∧ (s.gotPieces [piece 0x80000000000 64] 0).marks ≠ [] ∧
     (s.gotPieces [piece 0x80000000000 64] 0).marks.all (fun m => decide ((s.gotPieces [piece 0x80000000000 64] 0).status m ≠ stHold)) = true) := by decide +kernel

/-! ### Witnesses: queues, windows, tokens, the station's waybills -/

def oneRec : RecQ := { entries := [7], cross := ({} : Cross).wrote 6 }
def fullEv : RecQ := { entries := List.replicate 64 7, cross := (List.range 64).foldl (fun x _ => x.wrote 6) {} }
def oneMdp : RecQ := { entries := [7], cross := ({} : Cross).wrote 12 }
def wbDma (tag : Nat) : Desc := BitVec.ofNat 512 (tag * 2 ^ 108 + 2 ^ 447)
def writtenWb : WbEntry := { wb := wbDma 9, part := 0, seq := 1, phase := .written }
def heldRec : State := withCl fun cl => { cl with st := { cl.st with heldRecs := [{ engine := false, record := recordOf writtenWb 0 stDone }], sidings := [(0, [writtenWb])] } }

theorem witness_Queues : fetches mod0 = true ∧ oneRec.cross.empty = false ∧ oneMdp.cross.empty = false ∧ mod0.mdpRx.cross.empty = true ∧ (4 : Reg).toNat % 2 = 0 ∧ (28 : Reg).toNat ≤ 28 ∧ (29 : Reg).toNat % 2 ≠ 0 ∧ 28 < (30 : Reg).toNat ∧ queueKnown 0x0D = true ∧
    (({ mod0 with dies := [(3, { events := oneRec })] } : State).die 3).events.entries = [7] ∧ (({ mod0 with dies := [(3, { events := oneRec })] } : State).die 3).holding = [] ∧
    mod0.queueFull .mdpRx = false ∧ mod0.queueFull (.events 3) = false ∧ ({ mod0 with dies := [(3, { events := fullEv })] } : State).queueFull (.events 3) = true ∧
    crossK (.completion 0 0x0C) = none ∧ (crossK .mdpRx).isSome = true ∧ mod0.mac = [] ∧ (mod0.die 3).stalled = [] ∧
    (({ mod0 with dies := [(3, { events := fullEv, holding := [(16 * 51, 7)] })] } : State).die 3).holding.any (fun e => e.1 == 16 * 51) = true ∧
    (({ mod0 with dies := [(3, { stalled := [(16 * 51, 7)] })] } : State).die 3).stalled.any (fun e => e.1 == 16 * 51) = true ∧
    ((heldRec.cl 0).st.heldRecs.find? (fun h => h.engine == false)).isSome = true ∧ engineRoom heldRec 0 0 = true ∧
    heldRec.headWb 0 0 (bits (recordOf writtenWb 0 stDone).toNat 24 3) = some writtenWb ∧ fld writtenWb.wb 102 1 = 0 := by decide +kernel

theorem witness_Issue : fetches mod0 = true ∧ (mod0.reg 0 1).toNat % 64 = 0 ∧ (6 : BitVec 5).toNat ≤ 6 ∧ (mod0.siding 0 6).length < 16 ∧
    mod0.xl (mod0.ctxOf 0) false 0x4000 64 = .ok [piece 0x4000 64] ∧ (mod0.gotPieces [piece 0x4000 64] 0).marks = [] ∧ (mod0.gotPieces [piece 0x4000 64] 0).bad = [] ∧
    (mod0.reg 0 2).toNat % 64 ≠ 0 ∧ 6 < (7 : BitVec 5).toNat ∧
    16 ≤ ((withCl fun cl => { cl with st := { cl.st with sidings := [(6, List.replicate 16 writtenWb)] } }).siding 0 6).length := by decide +kernel

def ended : State := withCl fun cl => { cl with run := some { run0 with ended := true } }
def failed : State := withPt fun pt => { pt with entries := [{ ent 1 0 with fails := [{ status := 0xA3, cluster := 0, station := 0xF, wbTag := 0, i := 0, j := 0 }] }] }

theorem witness_Ends : fetches mod0 = true ∧ (mod0.cl 0).run = some run0 ∧ run0.stopped = false ∧ (failed.entry 0 1).any (fun e => !e.fails.isEmpty) = true ∧
    mod0.acksDue 0 0xF = false ∧ fetches owing = true ∧ owing.acksDue 0 0xF = true ∧ ((ended.cl 0).run.any (·.ended)) = true ∧ (ended.cl 0).drained = true ∧ ended.outstanding 0 = false := by decide +kernel

/-- sN for WINDOW: base 4095 and size 1 at the top of the scratchpad, or base 0 and size 1024, opening. -/
def winVal (base size : Nat) : Word := BitVec.ofNat 64 (base + size * 2 ^ 12 + 2 ^ 24)
def withReg (v : Word) : State := withCl fun cl => { cl with core := { cl.core with regs := [(1, v)] } }
def win0 : Win := { base := 16, size := 4, enable := true, gen := 1, freeCnt := 4 }
def withWin (w : Win) (v : Word) : State := withCl fun cl => { cl with wins := [(2, w)], core := { cl.core with regs := [(1, v)] } }

theorem witness_Windows : fetches (withReg (winVal 4095 1)) = true ∧ (withReg (winVal 4095 1)).winOpenOk 0 2 (winVal 4095 1).toNat = true ∧ (withReg (winVal 0 1024)).winOpenOk 0 2 (winVal 0 1024).toNat = true ∧
    (withReg (winVal 4095 2)).winOpenOk 0 2 (winVal 4095 2).toNat = false ∧ bit1 (winVal 4095 1).toNat 23 = false ∧ bit1 (winVal 4095 1).toNat 31 = false ∧
    bits (winVal 4095 1).toNat 44 20 = 0 ∧ bit1 (winVal 4095 1).toNat 24 = true ∧ bit1 (0 : Word).toNat 24 = false ∧
    ((withWin { win0 with closing := true } 0).win 0 2).closing = true ∧ ((withWin { win0 with closing := true } 0).win 0 2).granules = [] ∧
    4 ≤ ((withWin { win0 with freeCnt := 0 } 4).win 0 2).landed ∧ ((withWin win0 1).win 0 2).landed < 1 ∧ ((withWin win0 1).cl 0).tokQ = [] ∧
    (bits (winVal 0 0).toNat 25 39 = 0) ∧ bits (0xFFF * 2 : Nat) 1 12 + bits (0xFFF * 2 : Nat) 13 12 + 1 ≤ 4096 ∧ (mod0.win 0 2).enable = false ∧
    (mod0.cl 0).wins.all (fun e => !(e.2.enable && overlaps 0 4096 e.2.base e.2.size)) = true ∧ mod0.coreLive 0 = true ∧ (mod0.cl 0).tokMesh = [] := by decide +kernel

theorem witness_Slots : fetches mod0 = true ∧ (mod0.reg 0 1).toNat % 64 = 0 ∧ (mod0.siding 0 2).any (fun e => bits (wbOp e.wb) 2 3 == 7) = false ∧
    mod0.xl (mod0.ctxOf 0) false 0x4000 1088 = .ok [piece 0x4000 1088] ∧ (mod0.gotPieces [piece 0x4000 1088] 0).marks = [] ∧ (mod0.gotPieces [piece 0x4000 1088] 0).bad = [] ∧
    drainOk (mod0.gotPieces [piece 0x4000 1088] 0).bytes false = true ∧ drainOk (mod0.gotPieces [piece 0x4000 1088] 0).bytes true = true ∧
    mod0.xl (mod0.ctxOf 0) false 0x4000 2656 = .ok [piece 0x4000 2656] ∧ (mod0.reg 0 2).toNat % 64 ≠ 0 := by decide +kernel


def idle : State := withCl fun cl => { cl with run := none }

theorem witness_ChannelsAndRows : fetches mod0 = true ∧ mod0.padsOpen = true ∧
    ({ mod0 with power := { mod0.power with st := .s2 } } : State).padsOpen = false ∧ (idle.cl 0).run = none ∧ (idle.cl 0).held = [] ∧ (idle.siding 0 (15 / 8)).all (fun e => fld e.wb 432 3 != 15 % 8) = true ∧
    mod0.coreLive 0 = true ∧ bit1 (mod0.reg 0 2).toNat 0 = false ∧ (mod0.cl 0).run = some run0 ∧ bits ((withReg 0xFFFFFF).reg 0 1).toNat 25 39 = 0 ∧
    bits (0xFFF000 : Word).toNat 0 12 + bits (0xFFF000 : Word).toNat 12 12 + 1 ≤ 4096 ∧ bits (0xFFF : Word).toNat 0 12 + bits (0xFFF : Word).toNat 12 12 + 1 ≤ 4096 ∧
    bit1 (0xFFF000 : Word).toNat 24 = false ∧ bit1 (0x1FFF000 : Word).toNat 24 = true := by decide +kernel

/-- A token message by kind, window, target cluster, requester, count, first granule, generation, partition, reason, tag. -/
def tok (kind w c req n first gen part reason tag : Nat) : Rec128 :=
  BitVec.ofNat 128 (kind + w * 2 ^ 4 + c * 2 ^ 8 + req * 2 ^ 32 + n * 2 ^ 48 + first * 2 ^ 64 + gen * 2 ^ 80 + part * 2 ^ 88 + reason * 2 ^ 92 + tag * 2 ^ 96)

/-- The packet of a token message, from another cluster of the module. -/
def tokPk (ty src : Nat) (m : Rec128) : Packet := pktFinish { packetOf ty 1 0 (BitVec.ofNat 16 src) 0xFF 0 5 0 m [] with srcMod := 0xFF }
def form (m : Rec128) : Bool := bits m.toNat 0 4 == 1 && tokenRsvOk m.toNat && bits m.toNat 64 10 == 0 && bits m.toNat 80 8 == 0 && bits m.toNat 92 4 == 0

theorem witness_TokenRequests : mod0.padsOpen = true ∧ (mod0.cl 0).stat = .active ∧ (mod0.cl 0).tokQ.length < 64 ∧ form (tok 1 2 0 1 1 0 0 0 0 5) = true ∧ form (tok 1 2 0 1 1 3 0 0 0 5) = false ∧
    form (tok 5 2 0 1 1 0 0 0 0 5) = false ∧ bits (tok 1 2 0 1 1 0 0 0 0 5).toNat 88 4 = ((withWin win0 0).win 0 2).part ∧
    bits (tok 1 2 0 1 1 0 0 15 0 5).toNat 88 4 ≠ ((withWin win0 0).win 0 2).part ∧ ((withWin win0 0).win 0 2).enable = true ∧ ((withWin win0 0).win 0 2).closing = false ∧
    ((withWin { win0 with closing := true } 0).win 0 2).closing = true ∧ bits (tok 1 2 0 1 0 0 0 0 0 5).toNat 48 11 = 0 ∧
    win0.size < bits (tok 1 2 0 1 5 0 0 0 0 5).toNat 48 11 ∧ bits (tok 1 2 0 1 4 0 0 0 0 5).toNat 48 11 ≤ win0.freeCnt ∧
    (BitVec.ofNat 16 (bits (tok 1 2 0 1 4 0 0 0 0 5).toNat 32 16)).toNat ≠ 0 ∧ (let p := tokPk 5 1 (tok 1 2 0 1 4 0 0 0 0 5)
     p.pcrc = pktCheck p ∧ p.dstEp.toNat < 0x2000 ∧ isSelf 0 1 p.srcMod = false) ∧ (mod0.cl 0).tokMesh = [] ∧
    64 ≤ ((withCl fun cl => { cl with tokQ := List.replicate 64 { window := 2, requester := 1, count := 1, tag := 5, mod := 0xFF } }).cl 0).tokQ.length ∧ ((withWin { win0 with freeCnt := 0 } 0).win 0 2).freeCnt = 0 := by decide +kernel

def asker : TokenWait := { tag := 5, chan := 8, target := 1, window := 2, count := 1 }
def storeWb : WbEntry := { wb := BitVec.ofNat 512 (9 * 2 ^ 108), part := 0, seq := 1, phase := .running }
def asking : State := withCl fun cl => { cl with tokWait := [asker], st := { cl.st with sidings := [(1, [storeWb])] } }

theorem witness_TokenAnswers : mod0.padsOpen = true ∧ bits (tok 2 2 1 0 1 0 1 0 0 5).toNat 32 16 = 0 ∧ (asking.cl 0).tokWait = [asker] ∧ asker.tag = BitVec.ofNat 16 (bits (tok 2 2 1 0 1 0 1 0 0 5).toNat 96 16) ∧
    asker.window = bits (tok 2 2 1 0 1 0 1 0 0 5).toNat 4 3 ∧ asker.target % 65536 = bits (tok 2 2 1 0 1 0 1 0 0 5).toNat 8 11 ∧
    asker.count = bits (tok 2 2 1 0 1 0 1 0 0 5).toNat 48 11 ∧ bits (tok 2 2 1 0 1 0 1 0 0 5).toNat 0 4 = 2 ∧ (mod0.cl 0).tokWait = [] ∧
    bits (tok 3 2 0 1 1 0 1 0 0 5).toNat 0 4 = 3 ∧ tokenRsvOk (tok 3 2 0 1 1 0 1 0 0 5).toNat = true ∧ bits (tok 3 2 0 1 1 0 1 0 0 5).toNat 92 4 = 0 ∧
    ((withWin win0 0).win 0 2).enable = true ∧ bits (tok 3 2 0 1 1 0 1 0 0 5).toNat 80 8 = ((withWin win0 0).win 0 2).gen ∧ ((withWin win0 0).win 0 2).postEn = false ∧
    bits (tok 3 2 0 1 1 0 2 0 0 5).toNat 80 8 ≠ ((withWin win0 0).win 0 2).gen ∧ bits (tok 4 2 1 0 1 0 0 0 4 5).toNat 0 4 = 4 ∧
    (let p := tokPk 6 1 (tok 2 2 1 0 1 0 1 0 0 5)
     p.pcrc = pktCheck p ∧ p.dstEp.toNat < 0x2000 ∧ targetMod asker.target = p.srcMod ∧ asker.tag.toNat = bits p.msg.toNat 96 16) ∧ (asking.cl 0).tokMesh = [] ∧ (asking.cl 0).tokQ.length < 64 ∧ asker.chan < 16 ∧
    asking.headWb 0 (asker.chan / 8) (asker.chan % 8) = some storeWb ∧ (asking.cl 0).run = some run0 ∧ (asking.entry 0 1).isSome = true := by decide +kernel

def arriving : TileEntry := { bytes := [1], arrived := false }
def withEntry : State := withCl fun cl => { cl with st := { cl.st with tileQs := [(0x0B, { entries := [arriving] })] } }
def watch0 : Watch := { region := 4, src := 0x4000, dst := 0x80000000000, len := 64, chan := 0, lat := false, policy := 0, part := 0, va := 0, refetches := 4, pending := true }
def watching : State := { (withCl fun cl => { cl with watches := [watch0] }) with watched := [(0x80000000000 / 64, true)] }

theorem witness_Upkeep : mod0.cfg 0x2030 1 ≠ 0 ∧ mod0.cfg 0x2030 1 ≤ 16 ∧ (mod0.cl 0).promoted.contains 2 = false ∧ max 1 (mod0.cfg 0x2030 2) ≤ 64 ∧
    Tab.look ({ mod0 with upset := [(padOf 0 / 8 + 5, 3)] } : State).upset 0 (padOf 0 / 8 + 5) = 3 ∧ mod0.cfg 0x2030 3 ≠ 0 ∧
    (withEntry.tileQ 0 0x0B).entries = [arriving] ∧ arriving.arrived = false ∧ (watching.cl 0).watches = [watch0] ∧ max 1 (watching.cfg 0x2050 2) ≤ watch0.refetches ∧
    watch0.policy ≠ 1 ∧ (watching.liveUnits 0 watch0).isEmpty = false ∧ watch0.slot = none := by decide +kernel
theorem witness_Upkeep_scrub : (Tab.within mod0.upset (padOf 0 / 8) (padSize / 8)).length + (mod0.cl 0).badRows.length < max 1 (mod0.cfg 0x2120 5) ∧
    mod0.upset = [] ∧ max 1 (mod0.cfg 0x2120 5) ≤ ((withCl fun cl => { cl with badRows := List.range 64 }).cl 0).badRows.length ∧
    ((withCl fun cl => { cl with badRows := List.range 64 }).cl 0).stat = .active := by decide +kernel


/-- A side of a waybill: kind, format, sparse code, address, counts and strides. -/
structure Side where
  kind : Nat := 0
  fmt : Nat := 0
  sparse : Nat := 0
  addr : Nat := 0
  len0 : Nat := 1
  len1 : Nat := 1
  s0 : Nat := 0
  s1 : Nat := 0

def pad (off : Nat) : Side := { addr := 0x40000000 + off }
def siding' : Side := { kind := 1, len0 := 0, len1 := 0 }
def none' : Side := { kind := 2, len0 := 0, len1 := 0 }

/-- A waybill: station, op, sides, shape and the station's own fields. -/
def wbOf (st op : Nat) (a b : Side) (rows cols : Nat) (x : Nat := 0) : Desc :=
  BitVec.ofNat 512 (st + op * 2 ^ 4 + a.fmt * 2 ^ 12 + b.fmt * 2 ^ 16 + a.sparse * 2 ^ 20 + b.sparse * 2 ^ 23 + a.kind * 2 ^ 28 + b.kind * 2 ^ 30 +
    rows * 2 ^ 50 + cols * 2 ^ 64 + a.addr / 64 * 2 ^ 128 + a.len0 * 2 ^ 170 + a.len1 * 2 ^ 186 + a.s0 * 2 ^ 202 + a.s1 * 2 ^ 230 +
    b.addr / 64 * 2 ^ 258 + b.len0 * 2 ^ 300 + b.len1 * 2 ^ 316 + b.s0 * 2 ^ 332 + b.s1 * 2 ^ 360 + x)

/-- The module with this waybill at work, and with it queued. -/
def works (st : Nat) (wb : Desc) (f : State → State := id) : State :=
  f (withCl fun cl => { cl with st := { cl.st with sidings := [(st, [{ wb := wb, part := 0, seq := 1, phase := .running }])] } })
def queued (st : Nat) (wb : Desc) : State :=
  withCl fun cl => { cl with st := { cl.st with sidings := [(st, [{ wb := wb, part := 0, seq := 1 }])] } }

/-- The last tile of the waybill at work moves, as TileWork's first case wants it. -/
def moves (s : State) (st : Nat) (isOp : WbEntry → Bool) (total : WbEntry → Nat) (f : XCtx → State → WbEntry → Move) : Bool :=
  match s.runningWb 0 st 0, (s.cl 0).run with
  | some e, some r => !r.stopped && isOp e && decide (e.next + 1 = total e) && !s.eventHeld 0 st && (match (f (r.ctx 0) s e).overlap e ((s.besides 0 e).flatMap (·.dsts)) fun o => f (r.ctx 0) (s.scrambleAll o) e with
    | .moved t e' => t.runningWb 0 st 0 == some e && e'.wb == e.wb && e'.phase == .running
    | _ => false)
  | _, _ => false
def stalls (s : State) (st : Nat) (isOp : WbEntry → Bool) (f : XCtx → State → WbEntry → Move) : Bool :=
  match s.runningWb 0 st 0, (s.cl 0).run with
  | some e, some r => !r.stopped && isOp e && (match (f (r.ctx 0) s e).overlap e ((s.besides 0 e).flatMap (·.dsts)) fun o => f (r.ctx 0) (s.scrambleAll o) e with | .stall => true | _ => false)
  | _, _ => false
def fails (s : State) (st : Nat) (isOp : WbEntry → Bool) (f : XCtx → State → WbEntry → Move) : Bool :=
  match s.runningWb 0 st 0, (s.cl 0).run with
  | some e, some r => !r.stopped && isOp e && (match (f (r.ctx 0) s e).overlap e ((s.besides 0 e).flatMap (·.dsts)) fun o => f (r.ctx 0) (s.scrambleAll o) e with | .failed .. => true | _ => false)
  | _, _ => false

def ttIs (k : Nat) (e : WbEntry) : Bool := bits (wbOp e.wb) 0 4 == k
def ttMoves (op : Nat) (wb : Desc) (f : XCtx → Nat → State → WbEntry → Job (Option (List Byte))) (g : State → State := id) : Bool :=
  moves (works 5 wb g) 5 (ttIs op) (fun e => ttTotal e.wb) (ttMove 0 f)

def aux (off : Nat) : Nat := (0x40000000 + off) / 64 * 2 ^ 432
def copyWb : Desc := wbOf 5 0 (pad 0) (pad 0x4000) 1 16
def row (off : Nat) : Side := { pad off with s0 := 1 }

/-- A Dense header object in the scratchpad at an offset, of 1 row and 16 columns. -/
def hdrAt (off : Nat) (v : Nat) (s : State) : State := { s with mem := s.mem.writeN (0x80000000000 + off) (natLe 64 v) }

def hdr1 : Hdr := { fmt := 0, rows := 1, cols := 16, payload := 64, nnz := 16 }
def encodeWb : Desc := wbOf 5 5 (pad 0) { pad 0x4000 with sparse := 3 } 1 16 (2 ^ 474)
/-- The sparse object that ENCODE leaves at 0x4000 of the scratchpad. -/
def encoded (s : State) : State := { s with mem := (match exec (.encode 0) (works 5 encodeWb (hdrAt 0 hdr1.pack)) with | .next t => t.mem | _ => []) }
def expandWb : Desc := wbOf 5 4 { pad 0x4000 with sparse := 3 } (pad 0x8000) 1 16 (2 ^ 474)

def aeIs (k : Nat) (e : WbEntry) : Bool := aeOp e.wb == k
def aeMoves (st op : Nat) (wb : Desc) (f : State → XCtx → Nat → Nat → WbEntry → Job AeRes) (g : State → State := id) : Bool :=
  moves (works st wb g) st (aeIs op) (fun e => aeTotal e.wb) (aeMove 0 st 0 f)
def hbm (off : Nat) : Side := { addr := off }
def idxAt (off : Nat) : Nat := off / 64 * 2 ^ 448

def passMoves (st mode : Nat) (wb : Desc) (g : State → State := id) : Bool :=
  moves (works st wb g) st (fun e => bits (wbOp e.wb) 0 2 == mode) (fun e => (srcOf e.wb).len1) (passMove 0 st)
def hdrB (cols : Nat) : Hdr := { fmt := 1, rows := 1, cols := cols, payload := 64, nnz := cols }
def hdrW : Hdr := { fmt := 1, sparse := 3, rows := 1, cols := 32, payload := 64, nnz := 0 }
/-- An activation row at 0, and one empty weight row that the index word at 0x2000 names. -/
def sparseIn (s : State) : State := hdrAt 0x2040 hdrW.pack (hdrAt 0x2000 1 (hdrAt 0 (hdrB 32).pack s))
def spFields : Nat := 32 * 2 ^ 456 + (0x2000 / 64) * 2 ^ 432
def holding (s : State) : State := s.updCl 0 fun cl => { cl with held := [{ chan := 8, target := 1, window := 0, gen := 0, first := 0, count := 1 }] }

theorem witness_StationTiles_turntable : ttMoves 0 copyWb ttCopyTile = true ∧ ttMoves 1 (wbOf 5 1 (pad 0) (pad 0x4000) 1 16) ttTransposeTile = true ∧
    ttMoves 2 (wbOf 5 2 { pad 0 with s0 := 64, s1 := 64 } { pad 0 with s0 := 64, s1 := 64 } 4 4) ttInPlaceTile = true ∧
    ttMoves 3 (wbOf 5 3 (pad 0) (pad 0x4000) 1 16 (aux 0x8000)) ttPermuteTile = true ∧ ttMoves 4 expandWb ttExpandTile encoded = true ∧
    ttMoves 5 encodeWb ttEncodeTile (hdrAt 0 hdr1.pack) = true ∧ ttMoves 6 (wbOf 5 6 (row 0) (pad 0x4000) 1 16 (aux 0x8000)) ttGatherTile = true ∧
    ttMoves 7 (wbOf 5 7 (pad 0) (row 0x4000) 1 16 (aux 0x8000)) ttScatterTile = true ∧
    ttMoves 8 (wbOf 5 8 (pad 0) (row 0x4000) 1 16 (aux 0x8000)) ttScatterAddTile = true ∧
    ttMoves 9 (wbOf 5 9 (pad 0) (pad 0x4000) 1 16 (aux 0x8000)) ttDropoutTile (hdrAt 0x8000 (0x4000C000 / 64)) = true := by decide +kernel

theorem witness_StationTiles_access : aeMoves 0 0 (wbOf 0 0 (hbm 0x8000) (pad 0) 1 16) aeTile = true ∧
    aeMoves 0 1 (wbOf 0 1 { hbm 0x8000 with s0 := 1 } (pad 0) 1 16 (idxAt 0x9000)) gatherTile = true ∧
    aeMoves 1 8 (wbOf 1 8 (pad 0) (hbm 0x8000) 1 16) aeTile = true ∧
    aeMoves 1 9 (wbOf 1 9 (pad 0) { hbm 0x8000 with s0 := 1 } 1 16 (idxAt 0x9000)) scatterTile = true ∧
    aeMoves 1 10 (wbOf 1 10 (pad 0) (pad 0x800000) 1 16 (idxAt 0x9000)) scatterAddTile holding = true := by decide +kernel

theorem witness_StationTiles_passes :
    ((List.range 4).all fun m => passMoves 2 m (wbOf 2 m { pad 0 with fmt := 1 } (if m = 0 ∨ m = 3 then pad 0x10000 else none') 1 1)) = true ∧
    ((List.range 4).all fun m => passMoves 3 m (wbOf 3 m { pad 0 with fmt := 1 } (if m = 0 ∨ m = 3 then pad 0x10000 else none') 1 1 spFields) sparseIn) = true := by
  decide +kernel

def slot0 : DrainTile := { seq := 1, wbTag := 0, m := 0, n := 0, room := 16384, kind := 0, acc := [(0, 0)] }
/-- With every slot of the drain taken a pass stalls, and with four tiles in its siding a Turntable copy into it; a tile outside the scratchpad fails. -/
def fullDrain (s : State) : State := s.updCl 0 fun cl => { cl with st := { cl.st with drain := List.replicate 8 slot0 } }
theorem witness_StationTiles_others :
    stalls (works 2 (wbOf 2 0 { pad 0 with fmt := 1 } (pad 0x10000) 1 1) fullDrain) 2 (fun e => bits (wbOp e.wb) 0 2 == 0) (passMove 0 2) = true ∧
    fails (works 2 (wbOf 2 0 { hbm 0x8000 with fmt := 1 } (pad 0x10000) 1 1)) 2 (fun e => bits (wbOp e.wb) 0 2 == 0) (passMove 0 2) = true ∧
    stalls (works 5 (wbOf 5 0 siding' (pad 0) 1 16)) 5 (ttIs 0) (ttMove 0 ttCopyTile) = true ∧
    fails (works 5 (wbOf 5 0 (hbm 0x8000) (pad 0) 1 16)) 5 (ttIs 0) (ttMove 0 ttCopyTile) = true ∧
    stalls (works 0 (wbOf 0 0 (hbm 0x8000) siding' 1 16) fun s => s.updCl 0 fun cl => { cl with st := { cl.st with tileQs := [(0x09, { entries := List.replicate 4 arriving })] } }) 0
      (aeIs 0) (aeMove 0 0 0 aeTile) = true ∧
    fails (works 1 (wbOf 1 8 (hbm 0x8000) { hbm 0x8000 with addr := 0xFFFFFFFF000 } 1 16)) 1 (aeIs 8) (aeMove 0 1 0 aeTile) = true := by decide +kernel

theorem witness_WaybillLife : ((queued 5 copyWb).headWb 0 5 0).map (·.phase) = some .queued ∧ ((queued 5 copyWb).cl 0).run = some run0 ∧ run0.stopped = false ∧
    jobOk (wbCheck (queued 5 copyWb) 0 5 run0 copyWb) = true ∧ jobOk (wbCheck (queued 5 0) 0 5 run0 0) = false ∧
    (Job.exec (wbCheck (queued 5 0) 0 5 run0 0)).1 = .error stDesc ∧ stDesc ≠ stStale ∧ stDesc ≠ stHold ∧
    ((withCl fun cl => { cl with st := { cl.st with chans := [(3, { disable := true })] } }).chan 0 (8 * 0 + 3)).disable = true ∧
    ((withCl fun cl => { cl with st := { cl.st with sidings := [(0, [{ writtenWb with phase := .ready }])] } }).headWb 0 0 0).map (·.phase) = some .ready ∧
    jobOk (ownerStart (queued 5 copyWb) (run0.ctx 0) copyWb) = true ∧ zeroCount copyWb = false ∧
    (Job.exec (ownerStart (queued 5 copyWb) (run0.ctx 0) (copyWb + 0x2000000000000))).1 = .error stDesc ∧
    heldRec.oldWb 0 0 0 = some writtenWb ∧ writtenWb.acks = 0 ∧ writtenWb.inDrain = 0 ∧ ((withCl fun cl => { cl with st := { cl.st with sidings := [(0, [writtenWb])] } }).recHeld 0 0 0) = false ∧
    fld writtenWb.wb 447 1 = 1 ∧ engineRoom heldRec 0 0 = true := by decide +kernel

/-! ### Witnesses: verdicts, updates, the Vector Station -/

/-- A Matrix waybill of one 1 by 1 tile whose pass has run, no translation held, and the tile in its slot. -/
def passed (dst : Side) : State :=
  match exec (.zeroFinal 0) (works 2 (wbOf 2 0 { pad 0 with fmt := 1 } dst 1 1)) with | .next t => t.updCl 0 fun cl => { cl with tlb := [] } | _ => mod0
def tileIn (s : State) : DrainTile := ((s.slots 0 2).head?).getD slot0
def wbIn (s : State) : WbEntry := ((s.drainWb 0 2)).getD storeWb
def verdictOf (s : State) (upset : List (Nat × Word32)) : Bool := s.verdict (s.passOf 0 2 (wbIn s).wb) ((tileIn s).upsetBy upset)
def withDrain (f : Stations → Stations) : State := (passed siding').updCl 0 fun cl => { cl with st := f cl.st }
/-- The tile with its coupled entry in the drain siding, under a verdict. -/
def entered (pass again : Bool) : State :=
  withDrain fun y => { y with drain := y.drain.map (fun d => { d with entered := some pass, again := again }), tileQs := [(0x08, { entries := [arriving] })] }

/-- That a job succeeds under this account. -/
def okWith (j : Job α) (a : Acc) : Bool := match (j.run).run a with | (.ok _, _) => true | (.error _, _) => false
def drainJob (s : State) : Job (Option (List Byte)) :=
  drainTile s (run0.ctx 0) 0 (wbIn s) (s.passOf 0 2 (wbIn s).wb) (s.drainView 0 2 (run0.ctx 0) (wbIn s) (s.passOf 0 2 (wbIn s).wb) (tileIn s))
def accAt (st : Nat) : Acc := { who := st, home := some 0, owner := some (0, 1) }
/-- What a job's account holds is free to be written: nothing retained, nothing that other work reads or writes. -/
def freeOf (s : State) (e : WbEntry) (a : Acc) : Bool :=
  !a.retained s && (rangesMeet a.srcs (e.dsts ++ (s.besides 0 e).flatMap (·.dsts))).isEmpty &&
  (rangesMeet a.begun (e.srcs ++ a.srcs ++ (s.besides 0 e).flatMap fun o => o.srcs ++ o.dsts)).isEmpty && (s.changed e).isEmpty
def againJob (s : State) : Job (List DrainTile) := passGroup s (run0.ctx 0) 0 (s.passOf 0 2 (wbIn s).wb) (wbIn s) 0 [0]

theorem witness_Verdicts : ((passed (pad 0x10000)).slots 0 2).length = 1 ∧ ((passed (pad 0x10000)).drainWb 0 2).isSome = true ∧
    ((passed (pad 0x10000)).cl 0).run = some run0 ∧ (passed (pad 0x10000)).eventHeld 0 2 = false ∧ (tileIn (passed (pad 0x10000))).entered = none ∧
    verdictOf (passed (pad 0x10000)) [] = true ∧ verdictOf (passed (pad 0x10000)) [(0, 0x40000000)] = false ∧ (tileIn (passed (pad 0x10000))).again = false := by
  decide +kernel
theorem witness_Verdicts_jobs : okWith (drainJob (passed (pad 0x10000))) (accAt 2) = true ∧ okWith (againJob (passed (pad 0x10000))) (accAt 2) = true ∧
    freeOf (passed (pad 0x10000)) (wbIn (passed (pad 0x10000))) (((drainJob (passed (pad 0x10000))).run).run (accAt 2)).2 = true := by decide +kernel
theorem witness_Verdicts_siding :
    (let s := withDrain fun y => { y with tileQs := [(0x08, { entries := List.replicate 4 arriving })] }
     (s.passOf 0 2 (wbIn s).wb).mode = 0 ∧ (s.passOf 0 2 (wbIn s).wb).dst.kind = 1 ∧ 4 ≤ (s.tileQ 0 0x08).entries.length ∧ ((passed siding').tileQ 0 0x08).entries = [] ∧ ((passed siding').tileQ 0 0x08).st.cutAt = 0) ∧
    ((entered true false).slots 0 2).map (·.entered) = [some true] ∧ ((entered true false).tileQ 0 0x08).entries = [arriving] ∧
    ((entered true false).drainWb 0 2).isSome = true ∧
    ((entered false true).slots 0 2).map (fun d => (d.entered, d.again)) = [(some false, true)] ∧ arriving.arrived = false := by decide +kernel

/-- A record of one shard at 0x8000, its state slots at 0x10000 (buffer A) and 0x14000, its working copies at 0x18000 and 0x1C000; commit block's
schedule at 0x20000. -/
def recUp : Nat := 0xC5 + 1 * 2 ^ 16 + 4 * 2 ^ 20 + 1 * 2 ^ 36 + 1 * 2 ^ 48 + 16 * 2 ^ 64
def shardUp : Nat := 1 * 2 ^ 48 + 1 * 2 ^ 64 + (0x10000 / 64) * 2 ^ 80 + (0x14000 / 64) * 2 ^ 128 + (0x18000 / 64) * 2 ^ 176 + (0x1C000 / 64) * 2 ^ 224 +
  16 * 2 ^ 336 + 16 * 2 ^ 352
def recH : RecH := RecH.parse recUp
def zeros (n : Nat) : Array Nat := Array.replicate n 0
def memUp : Memory :=
  let h := recH
  let m := (tables : Memory).writeN 0x8000 (natLe 64 recUp) |>.writeN 0x8040 (natLe 64 shardUp)
  let m := m.writeN 0x10000 (masterObject h 0 0 (zeros 16) (allOn 1 16))
  let m := m.writeN (0x10000 + h.lm) (momentObject h 0 (zeros 16) (zeros 1))
  let m := m.writeN (0x10000 + h.lm + h.lq) (momentObject h 0 (zeros 16) (zeros 1))
  let o := deriveCopies h h.sp0 0 false { key := 0, site := 3, stream := 0, row := 0, col := 0 } 0 (Array.replicate 16 0) (allOn 1 16)
  m.writeN 0x18000 o.1.1
def commit0 : Commit := { seq := 1, p := 1, recs := [0x8000], blk := BitVec.ofNat 512 ((0x20000 / 64) * 2 ^ 256 + 2 ^ 298) }
def wbUp (op : Nat) : Desc := BitVec.ofNat 512 (6 + op * 2 ^ 4 + 2 * 2 ^ 28 + 2 * 2 ^ 30 + 1 * 2 ^ 50 + 16 * 2 ^ 64 + (0x8000 / 64) * 2 ^ 432 + 2 ^ 498)
def updating (op : Nat) (gated : Bool) : State :=
  let s : State := { mod0 with mem := memUp }
  let s := s.updCl 0 fun cl => { cl with wins := [(0, win0)], st := { cl.st with sidings := [(6, [{ wb := wbUp op, part := 0, seq := 1, phase := .running, gated := gated }])] } }
  s.updPt 0 fun pt => { pt with commit := some commit0, keys := [(2 * 0x8000, some 0)] }
def gateJob (s : State) : Job Unit := do
  let h ← recOf s (run0.ctx 0) 0x8000 stDesc
  match h.visible (s.pt 0).e with
  | none => Job.fail stDesc
  | some b => Job.fold (fun _ (w : Nat × List Byte) => writeVa s (run0.ctx 0) (0x8000 + w.1) w.2) () (tagWrites (!b) commit0.p (h.mep b))
def sampling : State :=
  let s : State := { mod0 with mem := memUp, dict := { mod0.dict with active := [(objKey 0x2070 4, 1)] } }
  let s := s.updCl 0 fun cl => { cl with driftDue := [{ part := 0, va := 0x8000, shard := 0, tile := 0 }] }
  s.updPt 0 fun pt => { pt with keys := [(2 * 0x8000, some 0)] }

theorem witness_Updates : moves (updating 0 true) 6 (fun e => upOp e.wb == 0) (fun e => upCount e.wb) (stepMove 0) = true ∧
    moves (updating 1 true) 6 (fun e => upOp e.wb == 1) (fun e => upCount e.wb) (reduceMove 0) = true ∧
    stalls (updating 0 false) 6 (fun e => upOp e.wb == 0) (stepMove 0) = true ∧
    ((updating 0 false).runningWb 0 6 0).isSome = true ∧ (updating 0 false).gateOpen 0 0 = true ∧ jobOk (gateJob (updating 0 false)) = true ∧
    sampling.siding 0 6 = [] ∧ sampling.cfg 0x2070 4 ≠ 0 ∧
    (match (Job.exec (driftJob sampling { cluster := some 0, part := 0, xroot := 0x1001, xkeys := 3 } 0 { part := 0, va := 0x8000, shard := 0, tile := 0 })).1 with
      | .ok n => n == 0 | .error _ => false) = true := by decide +kernel

/-- A kernel of one instruction with 16 candidates for TOPK, SAMPLE's threshold 1 and an LDT table at 0x9000; opcode, aux and type. -/
def kern (opc aux ty : Nat) : List Byte :=
  natLe 64 (1 + 16 * 2 ^ 32 + 0x3F800000 * 2 ^ 64 + (0x9000 / 64) * 2 ^ 256 + 2 ^ 298) ++ List.replicate 32 0 ++
  natLe 8 (opc + 1 * 2 ^ 8 + 2 * 2 ^ 14 + 3 * 2 ^ 20 + 4 * 2 ^ 26 + ty * 2 ^ 34 + aux * 2 ^ 43) ++ List.replicate 2552 0
def vecAct : VCur := { active := true }
def vecEnt (rows : Nat) : WbEntry := { wb := wbOf 4 0 (pad 0) (pad 0x4000) rows 16, part := 0, seq := 1, phase := .running }
def vec (opc aux ty rows : Nat) : State := withCl fun cl => { cl with st := { cl.st with
  sidings := [(4, [vecEnt rows])], kernSlots := [(0, kern opc aux ty)], vec := { cur := vecAct } } }

/-- The instruction stands at the station's pc, as vecAt says. -/
def vecHere (opc aux ty rows : Nat) : Bool :=
  let s := vec opc aux ty rows
  s.runningWb 0 4 0 == some (vecEnt rows) && (s.cl 0).run == some run0 && !s.eventHeld 0 4 && decide (0 < vTotal (vecEnt rows).wb) && (s.cl 0).st.vec.cur.active &&
  vOpc (s.vCtx 0 (vecEnt rows) run0).ins == opc

theorem witness_VectorLanes : ([0x01, 0x02, 0x03, 0x04, 0x05, 0x06, 0x07, 0x08, 0x09, 0x0A, 0x0B, 0x0C, 0x0D, 0x0E, 0x0F, 0x10, 0x12, 0x13, 0x14].all fun o => vecHere o 0 0 1) = true := by
  decide +kernel

/-- The memory instructions' jobs succeed and what they write is free to be written. -/
def vecJob (opc ty : Nat) (j : State → VX → VRegs → Job Unit) : Bool :=
  let s := vec opc 0 ty 1
  okWith (j s (s.vCtx 0 (vecEnt 1) run0) {}) (accAt 4) && freeOf s (vecEnt 1) (((j s (s.vCtx 0 (vecEnt 1) run0) {}).run).run (accAt 4)).2

/-- The station at the end of a strip, with a byte stored for a waybill in place. -/
def later1 : State := (vec 0 0 0 1).updCl 0 fun cl => { cl with st := { cl.st with vec := { cl.st.vec with cur := { vecAct with later := [(0x80000004000, [1], 0)] } } } }

theorem witness_VectorOthers : ([0x11, 0x18, 0x19, 0x1A, 0x1B, 0x1C, 0x28, 0x29, 0x2A, 0x20, 0x21, 0x22, 0x00].all fun o => vecHere o 1 0 1) = true ∧
    vecJob 0x20 0 (fun s v r => do let _ ← vLds s v r) = true ∧ vecJob 0x21 0 (fun s v r => do let _ ← vLdt s v r) = true ∧
    vecJob 0x22 0 (fun s v r => do let _ ← vSts (s.withLater 0) v r []) = true ∧ ((vec 0 0 0 33).cl 0).st.vec.saved = none ∧ vecHere 0 0 0 33 = true ∧
    (srcOf (vecEnt 33).wb).kind ≠ 2 ∧ 32 * (((vec 0 0 0 33).cl 0).st.vec.cur.strip + 1) < wbRows (vecEnt 33).wb ∧
    wbRows (vecEnt 1).wb ≤ 32 * (((vec 0 0 0 1).cl 0).st.vec.cur.strip + 1) ∧ (dstOf (vecEnt 1).wb).kind = 0 ∧
    (later1.cl 0).st.vec.cur.later.any (fun w => later1.retainedAt w.1 w.2.1.length none) = false ∧
    rangesMeet ((later1.cl 0).st.vec.cur.later.map fun w => (w.1, w.2.1.length)) ((vecEnt 1).srcs ++ (later1.besides 0 (vecEnt 1)).flatMap fun o => o.srcs ++ o.dsts) = [] := by
  decide +kernel

theorem witness_VectorMask : let s := vec 0x02 0 0 1
    (s.vCtx 0 (vecEnt 1) run0).ty ≤ 2 ∧ 31 < (s.vCtx 0 (vecEnt 1) run0).width ∧ (0 : Nat) < 2 ^ 32 ∧ (({} : VRegs).words 5).length = 1024 ∧
    (s.vCtx 0 (vecEnt 1) run0).live {} 0 15 = true ∧ (s.vCtx 0 (vecEnt 1) run0).live {} 0 16 = false := by decide +kernel

/-! ### Witnesses: packets, links -/

/-- A finished packet of this module: type, destination, source, module, tag, address, message, payload. -/
def pk (ty : Nat) (dst src : BitVec 16) (mod : Byte) (tag addr : Nat) (msg : Rec128) (load : List Byte) : Packet :=
  pktFinish { packetOf ty 0 dst src mod 0 (BitVec.ofNat 16 tag) addr msg load with srcMod := 0xFF }

/-- Checks over a packet, true where every one holds. -/
def pkOk (p : Packet) : Bool := p.pcrc == pktCheck p && p.hchk == pktHcheck p && p.hops != 255

theorem witness_MemoryRequests : mod0.answers = true ∧ pkOk (pk 0x00 0x2000 0 0xFF 7 0xFFFFFF00 0x100 []) = true ∧ regionOf 0xFFFFFF00 = .hbm ∧
    0xFFFFFF00 + 0x100 ≤ mod0.hbmLen ∧ mod0.hbmLen < 0xFFFFFF00 + 0x101 ∧ pkOk (pk 0x02 0x2000 0 0xFF 7 0xFFFFFFFE 0 [1, 2]) = true ∧
    mod0.lostIn 0xFFFFFFFE 2 = false ∧ mod0.watchersOf [(0xFFFFFFFE, 2)] = [] ∧ (∀ h ∈ mod0.hubs, h.2.lost = false) ∧ mod0.plan.lostStacks = [] ∧
    mod0.plan.dAreas.head?.isNone = true ∧ (mod0.plan.rows.flatMap (·.2)).Nodup ∧ mod0.stackPlace 0xFFFFFF00 = some (15, 0x3FFFFF00) ∧
    ({ pk 0x00 0x2000 0 0xFF 7 0xFFFFFF00 0x100 [] with pcrc := 0 } : Packet).pcrc ≠ pktCheck { pk 0x00 0x2000 0 0xFF 7 0xFFFFFF00 0x100 [] with pcrc := 0 } := by decide +kernel

/-- A host core's read of a word that cannot be corrected. -/
def unread : State := { mod0 with poison := [(0x8000 / 8, true)] }
theorem witness_MemoryRequests_host : (pk 0x00 0x2000 0x6000 0xFF 7 0x8000 8 []).srcEp.toNat / 8192 = 3 ∧ (unread.gotPieces [piece 0x8000 8] 0).bad ≠ [] ∧
    pkOk (pk 0x00 0x2000 0x6000 0xFF 7 0x8000 8 []) = true ∧ 0x8000 + 8 ≤ unread.hbmLen ∧ (mod0.gotPieces [piece 0x8000 8] 0).bad = [] := by decide +kernel

def req0 : PendRead := { tag := 7, chan := 0, tile := 0, off := 0, n := 2 }
def storing : WbEntry := { wb := wbOf 1 8 (pad 0) (hbm 0x8000) 1 16, part := 0, seq := 1, phase := .written, acks := 1 }
def kept1 (p : Packet) : State := { (withCl fun cl => { cl with st := { cl.st with pend := [req0], sidings := [(1, [storing])], land := [(2, 1)] }, wins := [(2, win0)] }) with kept := [{ p := p }] }
/-- An ADD piece of FP32 zeros for row 0 of window 2, by its sequence number. -/
def addPk (seq : Nat) : Packet := pktFinish { packetOf 0x04 0 0 8 0xFF 0 7 0 0 (List.replicate 64 0) with window := 2, winGen := 1, seq := BitVec.ofNat 16 seq, srcMod := 0xFF }
def adding : State := withCl fun cl => { cl with st := { cl.st with land := [(2, 1)] }, wins := [(2, { win0 with granules := [{ idx := 0, writer := 8 }] })] }
def ack0 : PendAck := { region := 8, dst := 3, dstMod := 0xFF, tag := 7, waiting := [0] }
def noticed : State := { mod0 with hubs := [(0, { acks := [ack0] })] }

theorem witness_Answers :
    (let p := pk 0x01 0 0x2000 0xFF 7 0x8000 0 [1, 2]
     let s := kept1 (pk 0x00 0x2000 0 0xFF 7 0x8000 2 [])
     p.pcrc = pktCheck p ∧ (s.keptOf 0 7 0x00).isEmpty = false ∧ (s.cl 0).watches = [] ∧ (s.cl 0).sendQ = [] ∧ (s.cl 0).st.pend = [req0] ∧ req0.tag = p.tag) ∧
    (let p := pk 0x03 0 0x2000 0xFF 8 0x8000 0 []
     let s := kept1 (pk 0x02 0x2000 0 0xFF 8 0x8000 0 [])
     p.pcrc = pktCheck p ∧ (s.keptOf 0 8 0x02).isEmpty = false ∧ s.headWb 0 1 0 = some storing ∧ bits p.msg.toNat 8 8 = 0) ∧
    (let p := addPk 0
     p.pcrc = pktCheck p ∧ adding.peerOk p = true ∧ adding.padsOpen = true ∧ (adding.cl 0).stat = .active ∧ adding.addRefusal 0 p = none ∧ bit1 p.msg.toNat 0 = false ∧
      adding.retainedAt (padOf 0 + (bits (adding.landDesc 0 2) 1 12 + 0) * 2048) 2048 (adding.landExempt 0) = false ∧
      (addPk 0).seq.toNat = Tab.look (adding.cl 0).st.addNext 0 (addKey p) % 65536 ∧ adding.addRefusal 0 (addPk 1) = none ∧
      (addPk 1).seq.toNat ≠ Tab.look (adding.cl 0).st.addNext 0 (addKey p) % 65536) ∧
    (let p := pk 0x08 0x2000 0 0xFF 7 0x8000 0 []
     p.pcrc = pktCheck p ∧ (noticed.hub 0).acks.find? (fun a => a.region == 8 && a.waiting.contains 0) = some ack0 ∧ ack0.waiting = [0] ∧ ack0.who = 1 ∧ ack0.dstMod = 0xFF ∧
      (owing.hub 0).acks.find? (fun a => a.region == 8 && a.waiting.contains 1) = some { ack0 with dst := 0, who := 0xF, waiting := [1] } ∧
      [1, 0].erase 0 ≠ []) := by decide +kernel

theorem witness_Resends : (let s := kept1 (pk 0x02 0x2000 0 0xFF 8 0x8000 0 [])
    let p := pk 0x09 0 0x2000 0xFF 8 0x8000 (BitVec.ofNat 128 (8 + 2 * 2 ^ 16)) []
    (s.keptOf p.dstEp p.tag (bits p.msg.toNat 16 5)).length = 1 ∧ bits p.msg.toNat 16 5 ≠ 0x0B ∧ (0 : Nat) < max 1 (s.cfg 0x2100 2) ∧ p.pcrc = pktCheck p ∧
    ({ p with pcrc := p.pcrc + 1 } : Packet).pcrc ≠ pktCheck { p with pcrc := p.pcrc + 1 } ∧ s.kept.map (·.p.dstEp) = [p.srcEp]) := by decide +kernel
theorem witness_Resends_partial : (let s := kept1 (pk 0x0B 0x4000 0 0xFF 8 0x800 0 [])
    let p (a : Nat) := pk 0x09 0 0x4000 0xFF 8 a (BitVec.ofNat 128 (8 + 0x0B * 2 ^ 16)) []
    bits (p 0).msg.toNat 16 5 = 0x0B ∧ (s.keptOf 0 8 0x0B).map (·.p.addr) = [(p 0x800).addr] ∧ (s.keptOf 0 8 0x0B).map (·.p.addr) ≠ [(p 0).addr]) := by decide +kernel

/-- A map in which this module is 0, module 1 is its parent on port 0 and its neighbour, with module 2 a child on port 4. -/
def fe (m ports parent order : Nat) : FEntry := { modId := BitVec.ofNat 64 m, ports := BitVec.ofNat 32 ports, cgroup := 0, rgroup := 0, rparent := parent, rorder := order }
def up (m : Nat) : Port := { st := .up, peer := some (BitVec.ofNat 64 m), lanes := List.range 8 }
def linked (parent : Nat) : State := { (withPt fun pt => { pt with fm := some { self := 0, entries := [fe 9 0 parent 0, fe 101 1 0xFF 0, fe 102 16 0 0] } }) with
  ports := [(0, up 101), (4, up 102)] }

/-- Die 9 holds no credit for the adaptive channel of class 0 towards the east. -/
def noCredit (s : State) : State := { s with dies := [(9, { sent := [(16, 32)] })] }

theorem witness_Forwarding : (let s := linked 1
    let p := pk 0x00 (17 * 9) 0 0xFF 7 0 0 []
    let m := pk 0x00 0x2000 0 0xFF 7 0x4000 0 []
    let e := pk 0x00 (17 * 11) (17 * 9) 0xFF 7 0 0 []
    let x := pk 0x00 0x4000 0 0xFF 7 0 0 []
    pkOk p = true ∧ s.targetDie (s.sourceDie 9 p) p = some (9, 4) ∧ (s.die 9).hole = false ∧ (s.die 9).resetting = false ∧ (s.cl (17 * 9)).isolated = false ∧
    (s.die 9).draining = false ∧ pkOk m = true ∧ s.targetDie (s.sourceDie 3 m) m = some (3, 0) ∧ linkBehind 3 0 = none ∧ (s.die 3).portsDown.contains 0 = false ∧
    (({ s with dies := [(3, { portsDown := [0] })] } : State).die 3).portsDown.contains 0 = true ∧
    pkOk x = true ∧ s.targetDie (s.sourceDie 0 x) x = some (0, 0) ∧ linkBehind 0 0 = some (0, 0) ∧ (s.link 0).lost = false ∧
    pktFill x (chanOf x) ≤ s.credits 0 0 (chanOf x) ∧ (({ s with links := [(0, { lost := true })] } : State).link 0).lost = true ∧
    pkOk e = true ∧ s.targetDie (s.sourceDie 9 e) e = some (11, 4) ∧ e.esc = false ∧ s.turns 9 11 e = [1] ∧
    pktFill e (chanOf e) ≤ s.credits 9 1 (chanOf e) ∧ (noCredit s).credits 9 1 (chanOf e) < pktFill e (chanOf e) ∧
    pkOk { p with hchk := p.hchk + 1 } = false) := by decide +kernel

/-- A packet in the escape channels, or with no way open: in a mesh of dies 9 and 10 alone, and in one of holes. -/
theorem witness_Forwarding_escape : (let holes (keep : List Nat) : Tab Die := (List.range 64).filterMap fun d => if keep.contains d then none else some (d, { hole := true })
    let e : Packet := { pk 0x00 (17 * 10) (17 * 9) 0xFF 7 0 0 [] with esc := true }
    let s : State := { mod0 with dies := holes [9, 10] }
    let t : State := { mod0 with dies := holes [9] }
    pkOk (pktFinish e) = true ∧ s.targetDie (s.sourceDie 9 e) e = some (10, 4) ∧ (s.die 10).hole = false ∧ s.escapeDir 9 10 = some 1 ∧
    t.turns 9 11 e = [] ∧ t.escapeDir 9 11 = none) := by decide +kernel

theorem witness_Forwarding_links : (let s := linked 1
    let p := pk 0x00 (17 * 9) 0 0xFF 7 0 0 []
    let q := pk 0x02 5 0 1 7 0 0 [1]
    let shut : State := { s with dies := [(0, { hole := true }), (1, { portsDown := [0] })] }
    (s.link 0).lost = false ∧ p.dstMod = 0xFF ∧ p.dstEp.toNat ≠ 0x4000 + 0 ∧ s.waysIn 0 p = [0, 1] ∧ shut.waysIn 0 p = [] ∧ (0x4000 : BitVec 16).toNat = 0x4000 + 0 ∧
    pkOk q = true ∧ q.dstMod ≠ 0xFF ∧ (s.pt 0).fm.any (fun m => m.self == q.dstMod.toNat) = false ∧ s.portFor q = some 0 ∧ (0 : Nat) / 4 ≠ 1 ∧ pktUnits q ≤ 512 ∧
    s.portFor { q with dstMod := 9 } = none ∧ (s.port 0).tx.length + 64 * pktUnits (pk 0x02 5 0 1 7 0 0 []) < 608 ∧
    512 < Tab.look (({ s with ports := [(0, { up 101 with used := [(0, 511)] }), (4, up 102)] } : State).port 0).used 0 q.cls.toNat + pktUnits q ∧
    pkOk { q with hchk := q.hchk + 1 } = false) := by decide +kernel

theorem witness_Holes : (let s : State := { mod0 with dies := [(9, { hole := true })] }
    let p := pk 0x00 (17 * 9) 0 0xFF 7 0 0 []
    pkOk p = true ∧ s.targetDie (s.sourceDie 1 p) p = some (9, 4) ∧ (s.die 9).hole = true ∧ (s.die 1).draining = false ∧ ({ p with hops := 255 } : Packet).hops = 255 ∧
    mod0.packetRun (pk 0x00 (17 * 9) 0 0xFF 7 0 0 []) = some (0, 1) ∧ mod0.packetRun (pk 0x00 0x2000 0x2001 0xFF 7 0 0 []) = none ∧
    (({ mod0 with dies := [(9, { draining := true })] } : State).die 9).draining = true ∧ ({ mod0 with dies := [(9, { draining := true })] } : State).heldAt 9 p = none) := by
  decide +kernel

def redPk (src : BitVec 16) (srcMod : Byte) : Packet := pktFinish { packetOf 0x0B 4 0x4000 src 0xFF 0 7 0 0 (List.replicate 64 0) with srcMod := srcMod }
def redHalf : State := { linked 1 with links := [(0, { red := [{ coll := collKey (redPk 0 0xFF), block := 0, vals := [(0, [0])] }] })] }

theorem witness_Reduction : (redPk 0 0xFF).pcrc = pktCheck (redPk 0 0xFF) ∧ ((linked 1).link 0).lost = false ∧ (linked 1).redPort 0 0 = some 0 ∧
    (linked 1).redSource (redPk 0 0xFF) = some 0 ∧ ((linked 1).link 0).red = [] ∧ ((linked 1).children 0).length = 1 ∧ redHalf.redPort 0 0 = some 0 ∧
    redHalf.redSource (redPk 0 2) = some 1 ∧ (redPk 0 2).pcrc = pktCheck (redPk 0 2) ∧ redHalf.redSource (redPk 0 0xFF) = some 0 ∧
    ((redHalf.link 0).red.find? fun e => e.coll == collKey (redPk 0 2) && e.block == 0).any (fun e => e.vals.any fun v => v.1 == 0) = true ∧
    (redHalf.parentOf 0).map (·.1) = some 1 ∧ mod0.children 0 = [] ∧ mod0.kept = [] ∧ ((linked 1).portsOf (fe 101 1 0xFF 0))[0 / 2048 % 1]? = some 0 ∧
    ((linked 0xFF).parentOf 0).isNone = true ∧ (linked 0xFF).redPort 0 0 = some 4 ∧
    (let k : Kept := { p := redPk 0 0xFF }
     k.p.ptype = 0x0B ∧ k.p.srcEp.toNat / 8192 ≠ 2 ∧ k.p.tag = (redPk 0 2).tag ∧ k.p.addr = (redPk 0 2).addr ∧ k.p.srcMod = 0xFF) := by decide +kernel

theorem witness_Reduction_ports : (linked 1).waysIn 1 (redPk 0 0xFF) ≠ [] ∧ ({ linked 1 with dies := [(6, { hole := true }), (7, { hole := true })] } : State).waysIn 1 (redPk 0 0xFF) = [] ∧
    16384 ≤ (({ linked 1 with links := [(0, { red := List.replicate 16384 { coll := 0, block := 0, vals := [] } })] } : State).link 0).red.length ∧ ((linked 1).redPort 0 0).map (· / 4) ≠ some 1 ∧ Tab.look ((linked 1).port 0).used 0 4 + 65 ≤ 512 ∧
    512 < Tab.look (({ linked 1 with ports := [(0, { up 101 with used := [(4, 510)] })] } : State).port 0).used 0 4 + pktUnits (redPk 0 0xFF) ∧
    Tab.look ((linked 0xFF).port 4).used 0 5 + 65 * ((linked 0xFF).children 0).length ≤ 512 ∧ ((linked 1).pt 0).fm.all (fun f => f.entries.length ≤ 256) = true := by decide +kernel

theorem natLe_length : ∀ n v, (natLe n v).length = n
  | 0, _ => rfl
  | n + 1, v => by simp [natLe, natLe_length n]

theorem leNat_natLe : ∀ n v, leNat (natLe n v) = v % 256 ^ n
  | 0, v => by simp [natLe, leNat, Nat.mod_one]
  | n + 1, v => by
    have h : v % (256 * 256 ^ n) = v % 256 + 256 * (v / 256 % 256 ^ n) := Nat.mod_mul
    simp only [natLe, leNat, leNat_natLe n, BitVec.toNat_ofNat, Nat.pow_succ, Nat.mul_comm (256 ^ n)]
    exact h.symm

/-- What flitOf builds is a good flit, with the header and the payload that it is given (R356). -/
theorem test_flit (h : Nat) (load : List Byte) (n : load.length = 608) : (flitOf h load).length = 640 ∧
    leNat (((flitOf h load).drop 624).take 8) = (crc64 ((flitOf h load).take 624)).toNat ∧ leNat ((flitOf h load).take 16) = h % 2 ^ 128 ∧
    ((flitOf h load).drop 16).take 608 = load := by
  have p : padTo 608 load = load := by simp [padTo, n]
  have b : (natLe 16 h ++ load).length = 624 := by simp [natLe_length, n]
  have f : flitOf h load = (natLe 16 h ++ load) ++ (natLe 8 (crc64 (natLe 16 h ++ load)).toNat ++ List.replicate 8 0) := by
    simp only [flitOf, p, List.append_assoc]
  have c : (natLe 8 (crc64 (natLe 16 h ++ load)).toNat).length = 8 := natLe_length _ _
  refine ⟨?_, ?_, ?_, ?_⟩
  · rw [f, List.length_append, b, List.length_append, c, List.length_replicate]
  · rw [f, List.drop_left' b, List.take_left' c, List.take_left' b, leNat_natLe]
    exact Nat.mod_eq_of_lt (crc64 _).isLt
  · rw [f, List.append_assoc, List.take_left' (natLe_length _ _), leNat_natLe, show (256 : Nat) ^ 16 = 2 ^ 128 by norm_num]
  · rw [f, List.append_assoc, List.drop_left' (natLe_length _ _), List.take_left' n]

/-- A write of 448 bytes from module 1 of the map: nine units, so that half a unit of the flit stays. -/
def wire : Packet := pktFinish { packetOf 0x02 0 0x2000 0 0 0 7 0x4000 0 (List.replicate 448 1) with srcMod := 1 }
def wireLoad : List Byte := pktBytes wire ++ List.replicate 32 0
/-- The packet that the flit brings. -/
def inPk : Packet := ((unitsSplit 16 wireLoad).1.head?).getD pkt0
def inFlit : Nat := flitHeader 0 4095 false false 0 []

theorem witness_Flits : ((linked 1).port 0).st = .up ∧ ((linked 1).port 0).mode = 0 ∧ ((linked 1).port 0).rxSeq = 0 ∧ ((linked 1).port 0).replay = [] ∧
    wireLoad.length = 608 ∧ bits (inFlit % 2 ^ 128) 0 12 = 0 ∧ bit1 (inFlit % 2 ^ 128) 24 = false ∧ bit1 (inFlit % 2 ^ 128) 25 = false ∧ bits (inFlit % 2 ^ 128) 26 6 = 0 ∧
    ((linked 1).port 0).rx.isEmpty = true ∧ (unitsSplit 16 wireLoad).1.length = 1 ∧ inPk.hchk = pktHcheck inPk ∧ inPk.hops ≠ 255 := by decide +kernel

theorem witness_Flits_packets : (let s := linked 1
    ((linked 1).link 0).lost = false ∧ inPk.srcMod ≠ 0xFF ∧ s.peerOk inPk = true ∧ s.portMatches 0 inPk = true ∧ inPk.dstEp.toNat ≠ 0x4000 + 0 ∧
    (s.pt 0).fm.any (fun m => m.self == inPk.dstMod.toNat) = true ∧ s.forUs inPk = true ∧ s.forUs { inPk with dstEp := 5 } = false ∧
    s.xl (s.ctxPart 0) true 0x4000 448 = .ok [piece 0x4000 448] ∧ s.xl (s.ctxPart 0) true 0xFFFFFF0000 448 = .error stXlate ∧ stXlate ≠ stHold ∧
    s.peerOk { inPk with srcMod := 9 } = false ∧ (refuseAnswer inPk stProtect).isSome = true ∧
    ({ s with ports := [(0, up 5), (4, up 102)] } : State).portMatches 0 inPk = false) := by decide +kernel

def training : State := { linked 1 with ports := [(0, { up 101 with st := .retrain }), (4, up 102)] }

theorem witness_Identity : (training.port 0).st = .retrain ∧ (training.port 0).mode = 0 ∧ 4 ∈ training.portsOf (fe 102 16 0 0) ∧
    ((training.mapsListing 0).any fun e => e.modId != 5) = true ∧ ((training.mapsListing 0).any fun e => e.modId != 101) = false ∧
    (training.cfg 0x2110 1 == 1 && bit1 (training.cfg 0x2110 3) 0 && training.cfg 0x2110 2 != 101) = false := by decide +kernel

/-- Port 0 with a lane being replaced by spare 32, and every spare of the link die in use. -/
def sparing (n : Nat) : State := { mod0 with ports := [(0, { up 101 with x4 := true, sparing := some (3, n) })] }
def noSpare : State := { mod0 with ports := [(0, { up 101 with lanes := [32, 33, 34, 35] })] }

theorem witness_Ports : ((linked 1).port 0).st = .up ∧ (training.port 0).st = .retrain ∧ ((linked 1).port 0).mode = 0 ∧ ((linked 1).port 0).x4 = false ∧ (training.port 0).mode = 0 ∧ (training.port 0).x4 = false ∧
    training.freeSpare 0 = some 32 ∧ (({ linked 1 with ports := [(0, { up 101 with st := .retrain, x4 := true })] } : State).port 0).x4 = true ∧
    (linked 1).freeSpare 0 = some 32 ∧ noSpare.freeSpare 0 = none ∧ (noSpare.port 0).x4 = false ∧ ((sparing 32).port 0).x4 = true ∧
    ((sparing 35).port 0).sparing = some (3, 35) ∧ ((linked 1).link 7).lost = false := by decide +kernel

/-! ### Witnesses: translations, the ledger -/

def xinv (done : Bool) (inv held : Option Word) : State := withPt fun pt => { pt with x := { pt.x with done := done, inv := inv, held := held } }

theorem witness_Translations : (mod0.cl 1).run = none ∧ mod0.walk (mod0.pt 0).x.xroot 0x3FFFFFFF = some (0x0F, 2 ^ 30) ∧ (mod0.pt 0).x.done = true ∧
    ((xinv false (some 1) none).pt 0).x.done = false ∧ ((xinv false (some 1) none).pt 0).x.held = none ∧ ((xinv false (some 1) none).pt 0).x.inv = some 1 ∧
    ((xinv false (some 0x1000) (some 1)).pt 0).x.inv = some 0x1000 := by decide +kernel

/-- Partition 0 with these registers and no entry, and blocks of memory at 0x30000. -/
def ledger (f : LedgerRegs → LedgerRegs) (g : XRegs → XRegs) (m : Nat) (n : Nat) : State :=
  { (withPt fun pt => { pt with regs := f pt.regs, x := g pt.x, entries := [] }) with mem := tables.writeN 0x30000 (natLe n m) }

theorem witness_LedgerRegisters : mod0.boot.stage = .l2 ∧ State.reset.boot.stage ≠ .l1 ∧ State.reset.boot.stage ≠ .l2 ∧
    ((ledger (fun r => { r with enable := false }) id 0 8).pt 0).regs.enable = false ∧ ((ledger (fun r => { r with enable := false }) id 0 8).pt 0).entries = [] ∧
    (mod0.pt 0).regs.enable = true ∧ ((ledger (fun r => { r with clogHeld := some 0x30006 }) id 0 8).pt 0).regs.clogHeld = some 0x30006 ∧
    (let s := ledger (fun r => { r with pblkHeld := some 0x30001 }) id (3 + 0xFF * 2 ^ 1088 + 3 * 2 ^ 1096) 192
     (s.pt 0).regs.pblkHeld = some 0x30001 ∧ (s.hbmBlock 0x30000 192).any (fun bs => s.blockOk 0 (leNat bs)) = true) ∧
    (let s := ledger (fun r => { r with pblkHeld := some 0x30001 }) id (2 ^ 1104) 192
     (s.hbmBlock 0x30000 192).any (fun bs => !s.blockOk 0 (leNat bs)) = true) ∧
    (let s := ledger id (fun x => { x with fmapHeld := some 0x30001 }) (0xF4 + 2 ^ 16) 128
     (s.pt 0).x.fmapHeld = some 0x30001 ∧ (s.hbmBlock 0x30000 128).isSome = true) ∧
    ((ledger id (fun x => { x with fmapHeld := some 0 }) 0 8).pt 0).x.fmapHeld = some 0 := by decide +kernel

theorem witness_LedgerRegisters_modes : mod0.mapsListing 31 = [] ∧ ((linked 1).port 31).st ≠ .fused ∧ (linked 1).ports ≠ [] ∧ (linked 1).mapsListing 4 ≠ [] := by decide +kernel

theorem witness_RegisterWrites : queueAt 0x10 = some .mdpRx ∧ mod0.padsOpen = true ∧ pkOk (pk 0x00 0x2000 0 0xFF 7 0xF1000000008 8 []) = true ∧
    (pk 0x00 0x2000 0 0xFF 7 0xF1000000008 8 []).srcMod = 0xFF ∧ (pk 0x00 0x2000 0 0xFF 7 0xF1000000008 8 []).addr.toNat = 0xF1000000000 + 0x1000 * 0 + 16 * 0 + 8 ∧ mod0.power.st ≠ .s3 ∧ mod0.power.st ≠ .s5 ∧ (0xF0000200001 : BitVec 48).toNat % 8 ≠ 0 := by decide +kernel

theorem witness_Appends : mod0.busyReason 0 = none ∧ (withPt fun pt => { pt with regs := { pt.regs with enable := false } }).busyReason 0 = some 2 ∧
    ({ mod0 with boot := { mod0.boot with sealed := true } } : State).busyReason 0 = some 4 ∧ (withPt fun pt => { pt with rebuilding := true }).busyReason 0 = some 3 ∧
    (withPt fun pt => { pt with nextSeq := 2 ^ 48 }).busyReason 0 = some 5 := by decide +kernel

/-- A module with clusters 0 and 1 free and one accepted entry, number 1, with this descriptor; a change of the partition. -/
def accepted (d : Desc) : Entry := { seq := 1, desc := d }
def led (d : Desc) (f : Part → Part := id) (m : Memory := tables) : State :=
  { (mod0.updCl 0 fun cl => { cl with run := none }).updPt 0 fun pt => f { pt with entries := [accepted d] } with mem := m }
/-- A descriptor: type, address and size, second address, further fields. -/
def cd (ty a n b x : Nat) : Desc := BitVec.ofNat 512 (ty + a / 64 * 2 ^ 128 + n * 2 ^ 176 + b / 64 * 2 ^ 208 + x)
def failedRun (st : Byte) : Entry := { ent 1 0 with done := true, fails := [{ status := st, cluster := 0, station := 0xF, wbTag := 0, i := 0, j := 0 }] }

theorem witness_Fence : (let s := led (cd 6 0 0 0 32) fun pt => { pt with fenceErr := 1 }
     s.entry 0 1 = some (accepted (cd 6 0 0 0 32)) ∧ s.mayStart 0 (accepted (cd 6 0 0 0 32)) = true ∧ descOk (cd 6 0 0 0 32) = true ∧ cdHalt (cd 6 0 0 0 32) = true) ∧
    (let s := withPt fun pt => { pt with entries := [failedRun stTimetable] }
     s.entry 0 1 = some (failedRun stTimetable) ∧ s.isOver 0 (failedRun stTimetable) = true ∧ (failedRun stTimetable).spec = false ∧ (failedRun stTimetable).fails ≠ [] ∧
       (failedRun stTimetable).fails.all (fun f => f.status != stUncorrectable && decide (stDoneWarn < f.status)) = true) ∧
    (let s := led 7 fun pt => { pt with regs := { pt.regs with halted := true } }
     (s.pt 0).regs.halted = true ∧ s.busyReason 0 = none ∧ (s.pt 0).w < 1) := by decide +kernel

/-- A timetable directory at 0x30000 of cluster 1, a commit block at 0x30040 that names the record at 0x8000 by the list at 0x30080. -/
def memDir : Memory := (memUp.writeN 0x30000 (natLe 8 (1 + (0x4000 / 64) * 2 ^ 16))).writeN 0x30040
  (natLe 64 (0x3F800000 + (0x20000 / 64) * 2 ^ 256 + 2 ^ 298 + (0x30080 / 64) * 2 ^ 384 + 2 ^ 426) ++ natLe 8 0x8000)
def runCd : Desc := cd 0 0x30000 1 0 0
def commitCd : Desc := cd 3 0x30000 1 0x30040 0
def gating : State := led (BitVec.ofNat 512 (7 + 16)) fun pt => { pt with commit := some { seq := 0, st := .gating, p := 1 } }

theorem witness_Starts : (led 7).mayStart 0 (accepted 7) = true ∧ descOk 7 = true ∧ (led 0).mayStart 0 (accepted 0) = true ∧ descOk 0 = true ∧
    descOk runCd = true ∧ (led runCd id memDir).mayStart 0 (accepted runCd) = true ∧ cdSize runCd ≠ 0 ∧
    jobOk (dirOf ((led runCd id memDir).enterRun 0 (accepted runCd) false 0) 0 runCd false) = true ∧
    descOk commitCd = true ∧ (led commitCd id memDir).mayStart 0 (accepted commitCd) = true ∧
    jobOk (commitRead (((led commitCd id memDir).enterRun 0 (accepted commitCd) false 0).dropDrifts 0) 0 (accepted commitCd) false) = true ∧
    descOk (7 + 32) = false ∧ cdType (7 + 32) = 7 ∧ (led (7 + 32)).mayStart 0 (accepted (7 + 32)) = true ∧
    gating.mayBegin 0 (accepted (BitVec.ofNat 512 23)) = true ∧ cdSpec (BitVec.ofNat 512 23) = true ∧ descOk (BitVec.ofNat 512 23) = true ∧
    ((gating.pt 0).entries.filter fun x => x.spec && x.st == .running).length < min 16 (gating.cfg 0x2070 1) := by decide +kernel

/-- 64 bytes from 0x8000 into cluster 1's scratchpad, which maps at 1 GiB plus its window. -/
def copyCd : Desc := cd 1 0x8000 1 0x40000000 (0 * 2 ^ 260)

theorem witness_Copies : (let s := led copyCd id (tables.writeN 0x8000 [1, 2, 3])
     let t := s.enterRun 0 (accepted copyCd) false 0
     cdType copyCd = 1 ∧ descOk copyCd = true ∧ s.mayStart 0 (accepted copyCd) = true ∧ (s.setOf 0).contains 0 = true ∧ s.freeFor 0 (accepted copyCd) 0 = true ∧
     (s.chan 0 7).disable = false ∧ (s.chan 0 15).disable = false ∧ jobOk (copyJob t 0 copyCd) = true ∧ (Job.exec (copyJob t 0 copyCd)).2.retained t = false ∧
     jobOk (readRaw t { t.ctxPart 0 with cluster := some 0 } 0x8000 64) = true ∧
     t.xl { t.ctxPart 0 with cluster := some 0 } true 0x40000000 64 = .ok [piece 0x80000000000 64] ∧ padCluster 0x80000000000 = some 0 ∧
     t.retainedAt 0x80000000000 64 none = false ∧ copyOverlap 0x8000 0x40000000 64 = (0, 0)) := by decide +kernel

def phaseCd : Desc := cd 4 0 0 0 (2 ^ 256)
def grouped (d : Desc) : State := (led d fun pt => { pt with regs := { pt.regs with holds := true }, blk := some { clusters := [0, 1], group := some 1, stations := 3 } }).updPt 1
  fun pt => { pt with regs := { pt.regs with enable := true }, blk := some { clusters := [0, 1], group := some 1, stations := 3 } }
def snapCd : Desc := cd 5 0x30040 0 0 0
/-- A snapshot block at 0x30040 for port 3 and the record at 0x8000, whose forward copies stand at 0x18000. -/
def memSnap : Memory := memUp.writeN 0x30040 (natLe 64 (8 * 2 ^ 64 + (0x30080 / 64) * 2 ^ 128 + 2 ^ 170) ++ natLe 8 0x8000)
def snapped : State := { led snapCd id memSnap with ports := [(3, { st := .up, mode := 1 })] }
def snapJob (t : State) : Job (Desc × List Byte) := do
  let y ← readVa t (t.ctxPart 0) (cdAddr0 snapCd) 64
  let b : Desc := BitVec.ofNat 512 (leNat y)
  Job.require (t.snapOk b) stConsignment
  let z ← snapStream t 0 b 0
  pure (b, z)
def flipEnt : Entry := { ent 1 2 with flips := [{ pa := 0x8010, bytes := [1] }], counts := (1, 2, 3) }

/-- A MASK_UPDATE whose one block, at 0x30000, names the record at 0x8000 and keeps its mask; the three jobs of its start, as the statement has them. -/
def maskCd : Desc := cd 2 0x30000 1 0 0
def masked : State := led maskCd id ((memUp.writeN 0x8000 (natLe 64 (recUp + 2 ^ 32))).writeN 0x30000 (natLe 64 (4 * 2 ^ 128 + (0x8000 / 64) * 2 ^ 192)))
def masked1 : State := (masked.enterRun 0 (accepted maskCd) false 0).dropDrifts 0
def planJob (s : State) : Job (List MaskPlan) := maskPlans s (s.ctxPart 0) 0 (s.setOf 0) 0x30000 1
def masked2 : State := masked1.settle (Job.exec (planJob masked1)).2
def tagJob : Job (List MaskPlan) := do
  let plans ← planJob masked2
  maskTags masked2 (masked2.ctxPart 0) 1 plans
  pure plans
def masked3 : State := masked2.settle (Job.exec tagJob).2
def workJob (plans : List MaskPlan) : Job (MaskCount × List Flip) := do
  let n ← maskWork masked3 (masked2.ctxPart 0) 0 plans
  let fl ← Job.map (maskFlips masked3 (masked2.ctxPart 0)) plans
  pure (n, fl.flatten)

theorem witness_PhaseSnapshotMask_update : masked.mayStart 0 (accepted maskCd) = true ∧ descOk maskCd = true ∧ cdSize maskCd = 1 ∧ jobOk (planJob masked1) = true ∧
    masked2.gateOpen 0 0 = true ∧ jobOk tagJob = true ∧
    (match (Job.exec tagJob).1 with | .ok plans => jobOk (workJob plans) | .error _ => false) = true := by decide +kernel

theorem witness_PhaseSnapshotMask : (grouped phaseCd).mayStart 0 (accepted phaseCd) = true ∧ descOk phaseCd = true ∧ (grouped phaseCd).phaseOk 0 phaseCd = true ∧
    (grouped phaseCd).phaseIdle 0 = true ∧ ({ grouped phaseCd with dies := [(0, { events := oneRec })] } : State).phaseIdle 0 = false ∧ cdTo phaseCd ≠ 0 ∧ cdType phaseCd = 4 ∧
    ((grouped phaseCd).updPt 0 fun pt => { pt with entries := [ent 1 phaseCd] }).entry 0 1 = some (ent 1 phaseCd) ∧ (ent 1 phaseCd).done = false ∧
    (led 2).mayStart 0 (accepted 2) = true ∧ descOk 2 = true ∧ cdSize 2 = 0 ∧ snapped.mayStart 0 (accepted snapCd) = true ∧ descOk snapCd = true ∧
    (let t := snapped.enterRun 0 (accepted snapCd) false 0
     jobOk (snapJob t) = true ∧ (Job.exec (snapJob t)).2.writes = [] ∧ (Job.exec (snapJob t)).2.outs = []) ∧
    (((withPt fun pt => { pt with entries := [flipEnt] }).pt 0).entries.find? (fun e => e.st == .running && cdType e.desc == 2 && !e.flips.isEmpty && !e.done &&
      !e.rerun && !e.abort && e.fails.isEmpty)) = some flipEnt := by decide +kernel

def finished (full : Nat) : State := withPt fun pt => { pt with entries := [{ ent 1 0 with st := .finished }], regs := { pt.regs with clogBase := BitVec.ofNat 64 (0xFFFFF000 + 6), head := full } }

theorem witness_Completion : (let s := withPt fun pt => { pt with entries := [{ ent 1 0 with done := true, spec := true }] }
     s.isOver 0 { ent 1 0 with done := true, spec := true } = true) ∧
    ((finished 63).pt 0).entries = [{ ent 1 0 with st := .finished }] ∧ (finished 63).boot.sealed = false ∧ (finished 63).clogSize 0 = 64 ∧
    (((finished 63).pt 0).regs.head + 2 ^ 32 - ((finished 63).pt 0).regs.tail) % 2 ^ 32 < (finished 63).clogSize 0 ∧ ((led 7).pt 0).w < 1 := by decide +kernel

def paired : State := (linked 1).updPt 0 fun pt => { pt with fm := some { self := 0, entries := [{ fe 9 0 1 0 with cgroup := 1 }, { fe 101 1 0xFF 0 with cgroup := 1 }] } }
def waitingRec (repl : Option Nat) (parts : List Nat) : State := { mod0 with recov := { recs := [{ kind := 3, failed := 0, repl := repl, parts := parts, no := 0xFFFF }] } }

theorem witness_GroupAndRecovery : (paired.pt 0).groupPeers.contains 1 = true ∧
    (let s := withPt fun pt => { pt with entries := [ent 1 3], commit := some commit0 }
     (s.pt 0).commit = some commit0 ∧ commit0.st = .updating ∧ s.entry 0 1 = some (ent 1 3) ∧ (ent 1 3).abort = false ∧ (ent 1 3).twice = [] ∧ (ent 1 3).fails = []) ∧
    ((withPt fun pt => { pt with entries := [ent 1 3], commit := some { commit0 with st := .gating } }).pt 0).commit = some { commit0 with st := .gating } ∧
    ((withPt fun pt => { pt with entries := [ent 1 3], commit := some { commit0 with st := .clipping } }).pt 0).commit = some { commit0 with st := .clipping } ∧
    (waitingRec none [1]).recov.recs.length = 1 ∧
    (0xFFFF : Word).toNat % 65536 = 0xFFFF ∧ (0xFFFE : Word).toNat % 65536 ≠ 0xFFFF ∧
    (let s : State := { waitingRec none [1] with parts := [(1, { stops := [0xFFFF] })] }
     s.recov.recs.map (fun r => (r.no, r.repl)) = [(0xFFFF, none)] ∧ (List.range 16).all (fun q => (s.pt q).entries.isEmpty) = true) := by decide +kernel

/-! ### Witnesses: faults, power, management, security, the service plate -/

theorem witness_ClusterFaults : (mod0.cl 0).stat = .active ∧ mod0.spareOf 0 = some 16 ∧
    (mod0.recov.recs.any fun r => (r.kind == 1 || r.kind == 2) && r.failed / 17 == 0) = false ∧ mod0.boot.stage = .l2 ∧
    clampN 100 9000 (mod0.cfg 0x2120 4) ≤ 9000 ∧ (mod0.cl 1).run = none ∧ (mod0.cl 1).stat = .active ∧ (mod0.cl 0).run = some run0 ∧ (mod0.entry 0 1).isSome = true ∧
    run0.commit = false := by decide +kernel

def flushing : State := { mod0 with plan := { mod0.plan with dAreas := [(0x40000000, 0x1000), (0x40001000, 0x1004000 * 64)] }, clusters := [(0, { clus0 with sinceFlush := 1000000 })] }

theorem witness_Losses : mod0.boot.stage = .l2 ∧ (mod0.die 63).failed = false ∧ (mod0.hub 3).lost = false ∧ ((withPt fun pt => { pt with rebuilding := true }).pt 0).rebuilding = true ∧
    mod0.plan.lostStacks.contains 19 = false ∧ mod0.plan.cxlDown.contains 3 = false ∧
    (({ mod0 with plan := { mod0.plan with cxlDown := [3] } } : State).plan.cxlDown.contains 3) = true ∧ mod0.boot.hostsLost.contains 0 = false ∧
    mod0.boot.hostsLost.contains 1 = false ∧ clampN 100 4000 (mod0.cfg 0x2120 3) ≤ 4000 ∧ (flushing.cl 0).run = some run0 ∧
    ((waitingRec (some 16) []).recov.recs.map fun r => { r with kind := 1, failed := 1 }).any (fun r => (r.kind == 1 || r.kind == 2) && r.failed / 17 == 0) = true ∧
    max 1 (flushing.cfg 0x2120 1) ≤ (flushing.cl 0).sinceFlush ∧ (flushing.cl 0).role = some 0 ∧ flushing.ckptSlot 0 = some 0x40001000 := by decide +kernel

/-- Every die a hole but 0, 2, 3 and 8: without die 8, die 0 is cut off from the rest. -/
def corner : State := { mod0 with dies := (List.range 64).map fun d =>
  (d, if d = 0 ∨ d = 2 ∨ d = 3 ∨ d = 8 then { scanned := true } else { hole := true, scanned := true }) }

theorem witness_Resets_cut : ((mod0.updDie 9 fun x => { x with hole := true, draining := true }).cutOffBy 64).filter (fun a => !(mod0.die a).failed) = [] ∧
    0 ∈ (corner.updDie 8 fun x => { x with hole := true, draining := true }).cutOffBy 64 ∧ (corner.die 0).failed = false ∧
    ((mod0.sideDown 9 1).sideDown (beside 9 1) (opposite 1)).cutOffBy 64 = [] := by decide +kernel

theorem witness_Resets : (({ mod0 with dies := [(9, { draining := true })] } : State).die 9).draining = true ∧
    (({ mod0 with dies := [(9, { hole := true })] } : State).die 9).hole = true ∧ (({ mod0 with dies := [(9, { draining := true })] } : State).die 9).bufs = [] ∧
    (({ mod0 with dies := [(9, { draining := true, bufs := [{ side := 1, vc := 0, entered := 9, p := pkt0 }] })] } : State).die 9).bufs ≠ [] ∧
    inMesh 9 1 = true ∧ beside 9 1 = 10 ∧ hubBehind 9 1 = none ∧ hubBehind 5 0 = some 0 ∧ (0 ∉ (mod0.die 2).portsDown) ∧ 2 ∈ hubAttach 0 ∧
    (let s : State := { mod0 with dies := [(2, { portsDown := [0] }), (3, { portsDown := [0] }), (4, { portsDown := [0] })] }
     (hubAttach 0).all (fun a => a == 5 || (s.die a).portsDown.contains 0) = true) := by decide +kernel

def warm : State := { mod0 with clusters := [(1, { stat := .active, role := some 1 })], power := { mod0.power with mv := 56000 } }
def cold (c : Bool) : State := { mod0 with clusters := [(1, { stat := .active, pll := c })] }

theorem witness_Throttling : mod0.padsOpen = true ∧ (cold false).padsOpen = true ∧
    ({ mod0 with power := { mod0.power with st := .s2 } } : State).padsOpen = false ∧ mod0.effCap < 100000 ∧ ¬ mod0.effCap < 0 ∧ 0 * 100 ≤ mod0.effCap * 97 ∧
    ({ mod0 with power := { mod0.power with temps := Tab.put mod0.power.temps 0 63 60000 } } : State).tripNow = 0 ∧
    ({ mod0 with power := { mod0.power with inlet := 30000, outlet := 40000, flow := 24000 } } : State).tripNow = 0 ∧ mod0.running = true ∧ mod0.power.temps = [] ∧
    ({ mod0 with power := { mod0.power with flow := 11999 } } : State).waterFlow < 12000 ∧ ((cold true).cl 1).pll = true ∧ (cold true).idleCluster 1 = true ∧
    max 1 (mod0.cfg 0x4800 1) ≤ 2 ^ 32 ∧ ((cold false).cl 1).pll = false ∧ ((cold true).cl 1).stat = .active := by decide +kernel

def partnered (sealed : Bool) : State :=
  { mod0 with dict := { mod0.dict with active := [(objKey 0x2110 1, 1)] }, boot := { mod0.boot with sealed := sealed } }
def held' (sw : Bool) : State := { mod0 with power := { mod0.power with holdup := true, swOpen := sw } }

theorem witness_PowerInput : State.reset.power.st = .s5 ∧ (held' false).power.st ≠ .s5 ∧ mod0.power.st ≠ .s5 ∧ mod0.power.holdup = false ∧ (held' false).power.holdup = true ∧ (held' true).power.swOpen = true ∧ mod0.power.warn = false ∧
    (partnered false).cfg 0x2110 1 = 1 ∧ (partnered false).boot.sealed = false ∧ (partnered true).boot.sealAck = false ∧ (partnered true).plate.drainSealed = false := by
  decide +kernel

def inSt (p : PState) : State := { mod0 with power := { mod0.power with st := p } }
def calm (p : PState) : State := { (withPt fun _ => {}) with power := { mod0.power with st := p } }
def accepted1 : Entry := { seq := 1, desc := 7 }
def waking (st : PState) (req : Nat) (es : List Entry) : State :=
  { (withPt fun pt => { pt with entries := es }) with power := { mod0.power with st := st, req := req } }
/-- The state that an automatic wake asks about. -/
def wakes (s : State) : Bool := s.parts.any fun e => e.2.entries.any fun x => ({ s with power := { s.power with st := .s0 } } : State).mayStart e.1 x
/-- On the way to S2, with a window that a writer holds a granule of. -/
def lent : State := { (withWin { win0 with granules := [{ idx := 0, writer := 8 }] } 0).updPt 0 (fun _ => {}) with power := { mod0.power with st := .enterS2 } }

theorem witness_PowerStates : mod0.power.st = .s0 ∧ mod0.boot.stage = .l2 ∧ ({ mod0 with boot := { mod0.boot with stage := .l1 } } : State).boot.stage = .l1 ∧
    ({ mod0 with boot := { mod0.boot with stage := .fw } } : State).boot.stage ≠ .l1 ∧ (waking .enterS2 1 []).power.req = 1 ∧ (waking .wake 2 []).power.st = .wake ∧
    (calm .enterS2).anyRunning = false ∧ (calm .enterS2).dict.set.st = 0 ∧ (calm .enterS2).power.req = 0 ∧
    (calm .enterS2).clusters.all (fun e => e.2.wins.all fun w => w.2.granules.isEmpty) = true ∧ lent.power.st = .enterS2 ∧ lent.anyRunning = false ∧ lent.dict.set.st = 0 ∧
    (lent.win 0 2).enable = true ∧ (lent.win 0 2).granules ≠ [] ∧ (waking .s2 0 [accepted1]).power.autoWake = true ∧ (waking .s2 0 [accepted1]).power.st = .s2 ∧
    wakes (waking .s2 0 [accepted1]) = true ∧ wakes (waking .s2 0 []) = false ∧ (waking .wake 2 []).boot.stage = .l2 ∧
    (calm .s0).quiet = true ∧ mod0.atL1 = true ∧ mod0.quiet = false ∧ State.reset.atL1 = false := by decide +kernel

def staged (b : Boot) : State := { mod0 with boot := { mod0.boot with stage := b, topFirst := true, report := some { variant := variantA, dies := [], stackGiB := [], recordValid := false, recordDays := 0 } } }
def fresh (b : Boot) : State := { staged b with clusters := [(0, { stat := .active, role := some 0, fwOk := true }), (1, { stat := .spare })] }

theorem witness_BringUp_sd : (staged .fw).boot.sdFaulted = false ∧ (staged .scanned).boot.sdFaulted = false ∧ (staged .charged).boot.sdFaulted = false ∧
    (({ mod0 with boot := { mod0.boot with sdFaulted := true } } : State).boot.sdFaulted) = true ∧ State.reset.boot.stage = .off := by decide +kernel

def tripped (flow : Nat) : State := { mod0 with power := { mod0.power with st := .s3, tripped := true, tripCause := 4, flow := flow } }
def ready : State := { fresh .fw with clusters := [(0, { stat := .active, role := some 0, fwOk := true })] }

theorem witness_BringUp : (({ State.reset with power := { mv := 56000, connA := true, connB := true } } : State).power.st) = .s5 ∧ (inSt .s3).power.tripped = false ∧
    (tripped 24000).power.tripped = true ∧ (tripped 24000).tripNow = 0 ∧ ¬ (tripped 24000).waterFlow < 12000 ∧ (tripped 24000).power.swOpen = false ∧
    (tripped 11999).waterFlow < 12000 ∧ (tripped 11999).power.st = .s3 ∧ ready.clusters.all (fun e => e.2.fwOk) = true ∧ ready.boot.stage = .fw ∧
    ready.boot.sdFaulted = false ∧ ready.boot.topFirst = true ∧ ready.boot.stop = 0 ∧ (staged .l1).power.req = 0 ∧ (staged .charged).boot.stop = 0 ∧ 12000 ≤ (staged .l0).waterFlow ∧ variantA ≠ 0 ∧
    (0 : Byte) ≠ variantM ∧ (0 : Byte) ≠ variantC ∧ ((fresh .fw).cl 1).fwOk = false ∧ ((fresh .fw).cl 1).stat = .spare ∧ ((fresh .fw).cl 0).fwOk = true ∧
    (staged .l1).plan.rowsOk = 2 ^ (staged .l1).plan.rows.length - 1 ∧ (staged .l1).boot.report ≠ none ∧ (staged .l1).plan.lostStacks.contains 5 = false ∧
    rowWith (staged .l1).plan.rows 5 = some (0, 0, 0x100000000) ∧ ((staged .l0).hub 0).lost = false ∧
    (({ staged .l0 with hubs := [(0, { lost := true })] } : State).hub 0).lost = true ∧ (({ staged .l0 with hubs := [(0, { lost := true })] } : State).hub 1).lost = false ∧
    (inSt .enterS3).power.st = .enterS3 ∧ (staged .l1).power.st ≠ .enterS3 ∧ (staged .l1).atL1 = true ∧ (staged .l0).boot.record = [] ∧
    (staged .l1).boot.abbreviated = false ∧ (staged .l1).plan.lostStacks = [] := by
  decide +kernel

/-- A NOP that carries data is refused (R470, R471), and `set` on an object that is not RWS is no right of a WRITE either (R471). -/
theorem test_nop_length : (mod0.doNop { unit0 with len := 0 }).2 = { res := rcOk } ∧ (mod0.doNop { unit0 with len := 1 }).2 = { res := rcLength } ∧
    mod0.findObj 0 { unit0 with index := 0x9004, sub := 1, set := true } true = .error rcAccess := by decide +kernel

def keptMdp : State := { mod0 with dict := { mod0.dict with sessions := [(1, { kept := [(unit0, unit0)] })] } }
def openS : State := { mod0 with dict := { mod0.dict with sessions := [(1, { role := 15 })] } }
def rws : MdpUnit := { unit0 with sub := 1 }
/-- A unit that carries an SPDM message. -/
def ask (m : List Byte) : MdpUnit :=
  { ver := 1, op := 8, reqId := 5, index := 0, sub := 0, set := false, final := false, seg := false, rsv := 0, offset := 0, len := m.length, result := 0, data := m }
theorem test_wf_spdm : wellFormed (.getVersion (.udp 1) (ask [0x10, 0x84])) = true ∧ wellFormed (.getVersion (.udp 1) (ask [0x10, 0xE1])) = false ∧
    wellFormed (.rerunNotice ⟨16, true⟩) = false := by decide
/-- The bus address 5, a frame of it with a good check, and the request path with no room. -/
def onBus : State := { mod0 with dict := { mod0.dict with vals := [(objKey 0x1101 1, 5)] } }
def busCrc : Word32 := crc32c (busBody 5 17 rws)
def fullRx : State := { openS with mdpRx := { entries := List.replicate 4092 0 } }
def fullMac : State := { fullRx with mac := (List.range 11).map fun _ => (.udp 2, 2, { unit0 with data := List.replicate 1472 0 }) }

theorem witness_MdpRequests : (mod0.mdpUp 0 = true ∨ mod0.mdpUp 0 = false) ∧ mod0.mdpUp 7 = false ∧ badUnit 0 2 rws = false ∧ badUnit 0 2 { rws with ver := 3 } = true ∧
    (((keptMdp.sess 1).kept.find? fun k => k.1.reqId == unit0.reqId)) = some (unit0, unit0) ∧
    (match mod0.findObj 0 rws true with | .ok r => r.acc == .rws && r.ty != .str && r.ty != .oct && rws.data.length == r.ty.size && typeRange r.ty (leNat rws.data) | .error _ => false) = true ∧
    (match normVal 0x2010 1 0x1E with | .ok v => v == 0x1E | .error _ => false) = true ∧ mod0.claimOn (objKey 0x2010 1) = none ∧ mod0.dict.set.st = 0 ∧ rws.seg = false ∧
    openS.openSess.contains 1 = true ∧ openS.mdpUp 1 = true ∧ openS.mac = [] ∧ openS.mdpRoom rws = true ∧ fullRx.mdpUp 1 = true ∧ fullRx.mdpRoom rws = false ∧
    fullRx.macBytes + 16 + rws.data.length ≤ 16384 ∧ 16384 < fullMac.macBytes + 16 + rws.data.length ∧ fullMac.mdpRoom rws = false ∧
    (fullMac.mac.filter fun x => pathSess x.1 == 1).length < 16 ∧
    16 ≤ (({ fullRx with mac := List.replicate 16 (.udp 1, 2, rws) } : State).mac.filter fun x => pathSess x.1 == 1).length ∧ badUnit 0 (spdmOp 0x84 % 256) (ask [0x10]) = false ∧
    onBus.mdpUp 0 = true ∧ onBus.obj 0x1101 1 = 5 ∧ busCrc = crc32c (busBody 5 17 rws) ∧
    (17 : BitVec 16).toNat = 16 + rws.data.length ∧ busCrc + 1 ≠ crc32c (busBody 5 17 rws) ∧ (6 : Byte).toNat ≠ onBus.obj 0x1101 1 := by decide +kernel

theorem witness_ConfigurationSets : mod0.dict.set.st = 0 ∧ mod0.power.st ≠ .s2 ∧ mod0.power.st ≠ .s3 ∧ mod0.atL1 = true ∧ State.reset.atL1 = false ∧
    (({ mod0 with dict := { mod0.dict with set := { st := 2 } } } : State).dict.set.st) = 2 ∧ mod0.anyRunning = true ∧ (calm .s0).anyRunning = false ∧
    clampN 1 600000 (mod0.obj 0x1800 5) ≤ 600000 := by decide +kernel

theorem witness_ObjectTable : objExists 0x2010 = true ∧ objExists 0xA050 = true ∧ objExists 0xA051 = false ∧ objExists 0x0FFF = false ∧ ¬ (0xF000 ≤ 0x2010) ∧
    (objDefault 0x2010 0).toNat < 255 ∧ mod0.findObj 0 { unit0 with sub := 0, len := 0, data := [] } false ≠ .error rcLocked := by decide +kernel

def spdmAt (x : Spdm) : State := { openS with sec := { mod0.sec with spdm := [(1, x)] } }
/-- A connection of version 1.2 with its algorithms. -/
def spdm2 : Spdm := { version := 2, ver := 0x12, algos := true }

theorem witness_SpdmExchange : openS.boot.sdFaulted = false ∧ openS.mdpUp 1 = true ∧ openS.mac = [] ∧ openS.mdpRoom (ask [0x10]) = true ∧ (openS.sess 1).kept = [] ∧
    ([[0x10], [0x12, 0x82, 0], [0x12, 0x82, 1], [0x13]].all fun m => !badUnit 1 8 (ask m)) = true ∧ (ask [0x10]).data.head? = some 0x10 ∧ (openS.spdmOf 1).version = 0 ∧
    ((spdmAt { version := 1 }).spdmOf 1).version < 2 ∧ ({ version := 1 } : Spdm).speaks [0x12] = true ∧ spdm2.speaks [0x13] = false ∧ spdm2.speaks [0x12, 0x82, 1] = true ∧
    2 ≤ spdm2.version ∧ (spdmAt spdm2).spdmOf 1 = spdm2 ∧ ({ spdm2 with algos := false } : Spdm).speaks [0x12] = true ∧
    bits (([0x12, 0x82, 0] : List Byte).getD 2 0).toNat 0 4 = 0 ∧ bits (([0x12, 0x82, 1] : List Byte).getD 2 0).toNat 0 4 ≠ 0 ∧ bit1 (([0x12, 0xE0, 1] : List Byte).getD 2 0).toNat 0 = true ∧
    (spdmAt spdm2).atL1 = true ∧ (spdmAt spdm2).sec.keysGone = false ∧ State.reset.atL1 = false ∧ (spdmAt spdm2).spdmSessions < 4 ∧
    4 ≤ (spdmAt { spdm2 with secured := 4 }).spdmSessions ∧ ((spdmAt { spdm2 with opening := 1 }).spdmOf 1).opening ≠ 0 ∧ ((spdmAt { spdm2 with secured := 1 }).spdmOf 1).secured ≠ 0 := by
  decide +kernel

def imgAt (x : ImgClass) : State := { mod0 with sec := { mod0.sec with images := [(2, x)] } }
def reporting : State := { mod0 with sec := { mod0.sec with images := [], bound := 4, q := 1, nonce := List.replicate 32 1, attKey := [1], boots := 1 } }

theorem witness_Security : reporting.canReport = true ∧ reporting.sec.q < reporting.sec.bound ∧ ({ reporting.sec with q := 4 } : Sec).q = reporting.sec.bound ∧
    reporting.sec.ringUsed < 6400000 ∧ reporting.sec.bound < 2 ^ 40 ∧ 6400000 ≤ ({ reporting.sec with q := 4, ringUsed := 6400000 } : Sec).ringUsed ∧ State.reset.canReport = false ∧
    ((imgAt { status := 1 }).img 2).status = 1 ∧ ((imgAt { status := 2 }).img 2).status = 2 ∧
    ((imgAt { status := 3 }).img 2).status = 3 ∧ ((imgAt { counter := 1, activeVer := 63 }).img 2).counter ≤ 63 ∧ ((imgAt { counter := 1, activeVer := 63 }).img 2).activeVer = 63 := by
  refine ⟨?_, ?_, ?_, ?_, ?_, ?_, ?_, ?_, ?_, ?_, ?_, ?_⟩ <;> decide +kernel
theorem witness_Security_anchors : mod0.boot.stage = .l2 ∧ mod0.boot.sdFaulted = false ∧ mod0.sec.anchors = [] ∧ (({ mod0 with plate := { mod0.plate with presence := true } } : State).plate.presence) = true ∧
    openS.openSess.contains 1 = true ∧ ({ mod0 with sec := { mod0.sec with anchors := [(1, [1])] } } : State).sec.anchors ≠ [] ∧ 63 < (64 : Byte).toNat ∧
    anchorsOk [(1, [1]), (4, [2])] = true ∧ anchorsOk [(1, [1]), (1, [2])] = false ∧ anchorsOk [(5, [1])] = false := by
  refine ⟨?_, ?_, ?_, ?_, ?_, ?_, ?_, ?_, ?_, ?_⟩ <;> decide +kernel

def draining (d : Bool) : State := { (calm .s0) with plate := { mod0.plate with attention := 1, drainSealed := d } }
def latched (conn v : Nat) : State := { mod0 with plate := { mod0.plate with latches := Tab.put [] 0 conn v } }
def armed (n : Nat) : State := { linked 1 with dict := { mod0.dict with vals := [(objKey 0x9002 1, BitVec.ofNat 64 n)] } }

theorem witness_ServicePlate : mod0.running = true ∧ mod0.plate.attention = 0 ∧ mod0.atL1 = true ∧ (staged .fw).atL1 = false ∧ (staged .fw).running = true ∧
    (draining false).plate.attention = 1 ∧ (draining false).hasPartner = false ∧ (draining false).anyRunning = false ∧ (draining false).quiet = true ∧ mod0.quiet = false ∧
    (partnered false).hasPartner = true ∧ mod0.power.st ≠ .s5 ∧ (inSt .s3).power.st = .s3 ∧ bit1 ((armed 1).obj 0x9002 1) 0 = true ∧ (armed 1).latch 0 = 0 ∧
    (latched 7 1).latch 7 = 1 ∧ (latched 11 3).latch 11 = 3 ∧ (latched 7 2).latch 7 = 2 ∧ mod0.plate.seated.contains 7 = true ∧
    mod0.power.tripCause = 0 ∧ mod0.plate.lastEvent ≠ 4 ∧ mod0.obj 0x5000 6 ≠ 1 ∧ mod0.recov.recs = [] ∧ mod0.plate.faulted = false ∧ (latched 3 3).latch (12 / 4) = 3 ∧
    (mod0.port 12).st ≠ .heldDown ∧ (mod0.port 12).fault = false := by decide +kernel

/-- A canonical state and a command at its front that answers a next state, for the invariant and for what every command keeps. -/
theorem witness_StepKeepsCanon : ({ mod0 with pending := [.post 0 31] } : State).canon = true ∧
    (match step { mod0 with pending := [.post 0 31] } with | .next t => t.canon | _ => false) = true ∧ (match exec (.append 0) mod0 with | .next _ => true | _ => false) = true := by
  decide +kernel

end Sys2Proof.Tests
end

section
/-! SUPPORT. The dispatcher: one step of the queue, and `Keeps` of whatever command is executed, from the lemma of each command (Laws/KeepsCore to
Laws/KeepsCommands). It settles the statements about the step and about every command. -/

namespace Sys2Proof.Machine

theorem step_front (s : State) (c : Instr) (q : List Instr) : step { s with pending := c :: q } = exec c { s with pending := q } := rfl

theorem step_idle {s : State} (h : s.pending = []) : step s = .next s := by
  unfold step; rw [h]

/-- Whatever the command, the state it leaves keeps what every step keeps: arm by arm of `exec`, the command's own lemma. -/
theorem keeps_exec {r s : State} (i : Instr) (hk : Keeps r s) : KeepsR r (exec i s) := by
  cases i with
  | add c rd ra rb => exact keeps_execAdd c rd ra rb hk
  | sub c rd ra rb => exact keeps_execSub c rd ra rb hk
  | and c rd ra rb => exact keeps_execAnd c rd ra rb hk
  | or c rd ra rb => exact keeps_execOr c rd ra rb hk
  | xor c rd ra rb => exact keeps_execXor c rd ra rb hk
  | shl c rd ra rb => exact keeps_execShl c rd ra rb hk
  | shr c rd ra rb => exact keeps_execShr c rd ra rb hk
  | sra c rd ra rb => exact keeps_execSra c rd ra rb hk
  | mul c rd ra rb => exact keeps_execMul c rd ra rb hk
  | minu c rd ra rb => exact keeps_execMinu c rd ra rb hk
  | maxu c rd ra rb => exact keeps_execMaxu c rd ra rb hk
  | slt c rd ra rb => exact keeps_execSlt c rd ra rb hk
  | sltu c rd ra rb => exact keeps_execSltu c rd ra rb hk
  | addi c rd ra imm => exact keeps_execAddi c rd ra imm hk
  | andi c rd ra imm => exact keeps_execAndi c rd ra imm hk
  | ori c rd ra imm => exact keeps_execOri c rd ra imm hk
  | xori c rd ra imm => exact keeps_execXori c rd ra imm hk
  | shli c rd ra sh => exact keeps_execShli c rd ra sh hk
  | shri c rd ra sh => exact keeps_execShri c rd ra sh hk
  | srai c rd ra sh => exact keeps_execSrai c rd ra sh hk
  | liw c rd value => exact keeps_execLiw c rd value hk
  | ld c rd ra imm => exact keeps_execLd c rd ra imm hk
  | lw c rd ra imm => exact keeps_execLw c rd ra imm hk
  | st c rd ra imm => exact keeps_execSt c rd ra imm hk
  | sw c rd ra imm => exact keeps_execSw c rd ra imm hk
  | beq c ra rb off => exact keeps_execBeq c ra rb off hk
  | bne c ra rb off => exact keeps_execBne c ra rb off hk
  | blt c ra rb off => exact keeps_execBlt c ra rb off hk
  | bge c ra rb off => exact keeps_execBge c ra rb off hk
  | bltu c ra rb off => exact keeps_execBltu c ra rb off hk
  | bgeu c ra rb off => exact keeps_execBgeu c ra rb off hk
  | jmp c off => exact keeps_execJmp c off hk
  | jr c ra => exact keeps_execJr c ra hk
  | post c n => exact keeps_execPost c n hk
  | wait c n ra => exact keeps_execWait c n ra hk
  | waitRelease c station chan => exact keeps_execWaitRelease c station chan hk
  | waitTimeout c station chan elapsedMs => exact keeps_execWaitTimeout c station chan elapsedMs hk
  | rdctr c rd n => exact keeps_execRdctr c rd n hk
  | readq c rd q => exact keeps_execReadq c rd q hk
  | qstat c rd q => exact keeps_execQstat c rd q hk
  | qctl c ra q => exact keeps_execQctl c ra q hk
  | issue c station ra patches => exact keeps_execIssue c station ra patches hk
  | endT c => exact keeps_execEndT c hk
  | endComplete c => exact keeps_execEndComplete c hk
  | windowOpen c w ra => exact keeps_execWindowOpen c w ra hk
  | windowClose c w ra => exact keeps_execWindowClose c w ra hk
  | windowClosed c w => exact keeps_execWindowClosed c w hk
  | release c w ra => exact keeps_execRelease c w ra hk
  | landcfg c w ra => exact keeps_execLandcfg c w ra hk
  | draincfg c d ra => exact keeps_execDraincfg c d ra hk
  | sdraincfg c d ra => exact keeps_execSdraincfg c d ra hk
  | vkerncfg c d ra => exact keeps_execVkerncfg c d ra hk
  | chctlDisable c chan src => exact keeps_execChctlDisable c chan src hk
  | chctlEnable c chan src => exact keeps_execChctlEnable c chan src hk
  | carrySet c ra => exact keeps_execCarrySet c ra hk
  | carryClear c ra => exact keeps_execCarryClear c ra hk
  | pbufState c rd ra rb => exact keeps_execPbufState c rd ra rb hk
  | pbufWc c rd ra rb => exact keeps_execPbufWc c rd ra rb hk
  | pbufMepoch c rd ra rb => exact keeps_execPbufMepoch c rd ra rb hk
  | pbufTag c rd ra rb => exact keeps_execPbufTag c rd ra rb hk
  | illegalInstruction c cause => exact keeps_execIllegalInstruction c cause hk
  | waybillAtHead c station chan => exact keeps_execWaybillAtHead c station chan hk
  | waybillStart c station chan => exact keeps_execWaybillStart c station chan hk
  | waybillComplete c station chan => exact keeps_execWaybillComplete c station chan hk
  | consignmentStop c => exact keeps_execConsignmentStop c hk
  | queueRead q => exact keeps_execQueueRead q hk
  | queueWrite q v => exact keeps_execQueueWrite q v hk
  | entryArrivalComplete c q ok => exact keeps_execEntryArrivalComplete c q ok hk
  | stationEvent st ev => exact keeps_execStationEvent st ev hk
  | agePromotion c requester denied => exact keeps_execAgePromotion c requester denied hk
  | coalesceIdleWriteback c chunk idle => exact keeps_execCoalesceIdleWriteback c chunk idle hk
  | eccCorrectionWriteback c word => exact keeps_execEccCorrectionWriteback c word hk
  | scrubPass c => exact keeps_execScrubPass c hk
  | tokenReq p => exact keeps_execTokenReq p hk
  | tokenGrant p => exact keeps_execTokenGrant p hk
  | tokenReturn p => exact keeps_execTokenReturn p hk
  | refused p => exact keeps_execRefused p hk
  | zeroFinal c => exact keeps_execZeroFinal c hk
  | zeroPartial c => exact keeps_execZeroPartial c hk
  | loadPartial c => exact keeps_execLoadPartial c hk
  | loadFinal c => exact keeps_execLoadFinal c hk
  | matrixPassEnd c sparse upset => exact keeps_execMatrixPassEnd c sparse upset hk
  | sparseZeroFinal c => exact keeps_execSparseZeroFinal c hk
  | sparseZeroPartial c => exact keeps_execSparseZeroPartial c hk
  | sparseLoadPartial c => exact keeps_execSparseLoadPartial c hk
  | sparseLoadFinal c => exact keeps_execSparseLoadFinal c hk
  | vEnd c => exact keeps_execVEnd c hk
  | vMov c => exact keeps_execVMov c hk
  | vAdd c => exact keeps_execVAdd c hk
  | vSub c => exact keeps_execVSub c hk
  | vMul c => exact keeps_execVMul c hk
  | vFma c => exact keeps_execVFma c hk
  | vMin c => exact keeps_execVMin c hk
  | vMax c => exact keeps_execVMax c hk
  | vAbs c => exact keeps_execVAbs c hk
  | vNeg c => exact keeps_execVNeg c hk
  | vDiv c => exact keeps_execVDiv c hk
  | vRcp c => exact keeps_execVRcp c hk
  | vSqrt c => exact keeps_execVSqrt c hk
  | vRsqrt c => exact keeps_execVRsqrt c hk
  | vExp2 c => exact keeps_execVExp2 c hk
  | vLog2 c => exact keeps_execVLog2 c hk
  | vTbl c => exact keeps_execVTbl c hk
  | vCmp c => exact keeps_execVCmp c hk
  | vSel c => exact keeps_execVSel c hk
  | vSwp c => exact keeps_execVSwp c hk
  | vCvt c => exact keeps_execVCvt c hk
  | vRsum c => exact keeps_execVRsum c hk
  | vRmax c => exact keeps_execVRmax c hk
  | vRmin c => exact keeps_execVRmin c hk
  | vCsum c => exact keeps_execVCsum c hk
  | vCmax c => exact keeps_execVCmax c hk
  | lds c => exact keeps_execLds c hk
  | ldt c => exact keeps_execLdt c hk
  | sts c => exact keeps_execSts c hk
  | topk c => exact keeps_execTopk c hk
  | sample c => exact keeps_execSample c hk
  | sreset c => exact keeps_execSreset c hk
  | ttCopy c => exact keeps_execTtCopy c hk
  | transpose c => exact keeps_execTranspose c hk
  | transposeIp c => exact keeps_execTransposeIp c hk
  | permute c => exact keeps_execPermute c hk
  | expand c => exact keeps_execExpand c hk
  | encode c => exact keeps_execEncode c hk
  | ttGather c => exact keeps_execTtGather c hk
  | ttScatter c => exact keeps_execTtScatter c hk
  | ttScatterAdd c => exact keeps_execTtScatterAdd c hk
  | dropout c => exact keeps_execDropout c hk
  | load c chan => exact keeps_execLoad c chan hk
  | gather c chan => exact keeps_execGather c chan hk
  | store c chan => exact keeps_execStore c chan hk
  | scatter c chan => exact keeps_execScatter c chan hk
  | scatterAdd c chan => exact keeps_execScatterAdd c chan hk
  | staleNotice c region => exact keeps_execStaleNotice c region hk
  | lostWatchNotice c region => exact keeps_execLostWatchNotice c region hk
  | refetchLimit c k => exact keeps_execRefetchLimit c k hk
  | completionRecordPush c engine => exact keeps_execCompletionRecordPush c engine hk
  | readReq p => exact keeps_execReadReq p hk
  | readResp p => exact keeps_execReadResp p hk
  | write p => exact keeps_execWrite p hk
  | wrAck p => exact keeps_execWrAck p hk
  | noticeAck p => exact keeps_execNoticeAck p hk
  | nak p => exact keeps_execNak p hk
  | retry p => exact keeps_execRetry p hk
  | retryResend ep tag => exact keeps_execRetryResend ep tag hk
  | packetForward n p => exact keeps_execPacketForward n p hk
  | redUp l p => exact keeps_execRedUp l p hk
  | redDown l p => exact keeps_execRedDown l p hk
  | commitPartials part mod k clip sq nf => exact keeps_execCommitPartials part mod k clip sq nf hk
  | rerunNotice note => exact keeps_execRerunNotice note hk
  | pageWalkComplete c part va => exact keeps_execPageWalkComplete c part va hk
  | xrootWrite part v => exact keeps_execXrootWrite part v hk
  | xinvAll part => exact keeps_execXinvAll part hk
  | xinvPage part page => exact keeps_execXinvPage part page hk
  | invalidationDone part => exact keeps_execInvalidationDone part hk
  | step c => exact keeps_execStep c hk
  | reduce c => exact keeps_execReduce c hk
  | pendingWriteGate c => exact keeps_execPendingWriteGate c hk
  | run part seq => exact keeps_execRun part seq hk
  | copy part seq => exact keeps_execCopy part seq hk
  | maskUpdate part seq => exact keeps_execMaskUpdate part seq hk
  | maskFlip part => exact keeps_execMaskFlip part hk
  | commit part seq => exact keeps_execCommit part seq hk
  | speculativeStart part seq => exact keeps_execSpeculativeStart part seq hk
  | driftSample c => exact keeps_execDriftSample c hk
  | phase part seq => exact keeps_execPhase part seq hk
  | snapshot part seq => exact keeps_execSnapshot part seq hk
  | fence part seq => exact keeps_execFence part seq hk
  | nop part seq => exact keeps_execNop part seq hk
  | consignmentComplete part seq => exact keeps_execConsignmentComplete part seq hk
  | logRecord part => exact keeps_execLogRecord part hk
  | append part => exact keeps_execAppend part hk
  | pctlEnable part v => exact keeps_execPctlEnable part v hk
  | pctlInit part => exact keeps_execPctlInit part hk
  | pctlResume part => exact keeps_execPctlResume part hk
  | hostAbort part a => exact keeps_execHostAbort part a hk
  | pblkWrite part v => exact keeps_execPblkWrite part v hk
  | pblkLatch part => exact keeps_execPblkLatch part hk
  | clogBaseWrite part v => exact keeps_execClogBaseWrite part v hk
  | clogBaseLatch part => exact keeps_execClogBaseLatch part hk
  | fmapWrite part v => exact keeps_execFmapWrite part v hk
  | fmapLatch part => exact keeps_execFmapLatch part hk
  | registerWrite pa v => exact keeps_execRegisterWrite pa v hk
  | rack v => exact keeps_execRack v hk
  | checkpointFlush c => exact keeps_execCheckpointFlush c hk
  | clusterFault f => exact keeps_execClusterFault f hk
  | handshakeTimeout c us => exact keeps_execHandshakeTimeout c us hk
  | dieLoss die junctionOk cutOff => exact keeps_execDieLoss die junctionOk cutOff hk
  | hubLoss h => exact keeps_execHubLoss h hk
  | mirrorRebuilt part => exact keeps_execMirrorRebuilt part hk
  | stackLoss m => exact keeps_execStackLoss m hk
  | cxlPortLoss x => exact keeps_execCxlPortLoss x hk
  | portDown p => exact keeps_execPortDown p hk
  | linkDieLoss l => exact keeps_execLinkDieLoss l hk
  | hostDieLoss => exact keeps_execHostDieLoss hk
  | heartbeatTimeout ms => exact keeps_execHeartbeatTimeout ms hk
  | sdFault => exact keeps_execSdFault hk
  | aocMismatch => exact keeps_execAocMismatch hk
  | computeReset die => exact keeps_execComputeReset die hk
  | fabricReset die => exact keeps_execFabricReset die hk
  | junctionEmpty die => exact keeps_execJunctionEmpty die hk
  | junctionDrainTimeout die => exact keeps_execJunctionDrainTimeout die hk
  | sflFlit p fecOk bytes => exact keeps_execSflFlit p fecOk bytes hk
  | portRetrain p => exact keeps_execPortRetrain p hk
  | retrainDone p ok => exact keeps_execRetrainDone p ok hk
  | identityFlit p ident peerPort => exact keeps_execIdentityFlit p ident peerPort hk
  | laneSignalLoss p lane => exact keeps_execLaneSignalLoss p lane hk
  | laneErrorThreshold p lane rate => exact keeps_execLaneErrorThreshold p lane rate hk
  | spareLaneTrained p => exact keeps_execSpareLaneTrained p hk
  | clusterIdleStop c us => exact keeps_execClusterIdleStop c us hk
  | clusterWake c => exact keeps_execClusterWake c hk
  | pllLockFail c => exact keeps_execPllLockFail c hk
  | powerCapControl avgW => exact keeps_execPowerCapControl avgW hk
  | thermalSample temps => exact keeps_execThermalSample temps hk
  | flowLowTimeout => exact keeps_execFlowLowTimeout hk
  | powerApplied mv => exact keeps_execPowerApplied mv hk
  | chargeComplete => exact keeps_execChargeComplete hk
  | inputLoss => exact keeps_execInputLoss hk
  | inputReturn mv => exact keeps_execInputReturn mv hk
  | holdupExpiry => exact keeps_execHoldupExpiry hk
  | overvoltage => exact keeps_execOvervoltage hk
  | singleFeed lostB => exact keeps_execSingleFeed lostB hk
  | lowInput mv => exact keeps_execLowInput mv hk
  | pwrWarnAssert => exact keeps_execPwrWarnAssert hk
  | partnerSealAck => exact keeps_execPartnerSealAck hk
  | pwrWarnRelease => exact keeps_execPwrWarnRelease hk
  | requestS2 => exact keeps_execRequestS2 hk
  | s2Entry => exact keeps_execS2Entry hk
  | wakeRequest => exact keeps_execWakeRequest hk
  | autoWake => exact keeps_execAutoWake hk
  | wakeDone => exact keeps_execWakeDone hk
  | requestS3 => exact keeps_execRequestS3 hk
  | s3Ok => exact keeps_execS3Ok hk
  | s3GraceExpiry => exact keeps_execS3GraceExpiry hk
  | s3Wake => exact keeps_execS3Wake hk
  | fuseScanDone r => exact keeps_execFuseScanDone r hk
  | hbmStackTested m ok => exact keeps_execHbmStackTested m ok hk
  | firmwareBroadcast good => exact keeps_execFirmwareBroadcast good hk
  | clusterDigestTimeout c => exact keeps_execClusterDigestTimeout c hk
  | l1Reached => exact keeps_execL1Reached hk
  | l2Reached => exact keeps_execL2Reached hk
  | mdpRead path u => exact keeps_execMdpRead path u hk
  | mdpWrite path u => exact keeps_execMdpWrite path u hk
  | mdpAbort path u => exact keeps_execMdpAbort path u hk
  | mdpNop path u => exact keeps_execMdpNop path u hk
  | claimTimeout sess => exact keeps_execClaimTimeout sess hk
  | latchTimeout sess => exact keeps_execLatchTimeout sess hk
  | sessionIdleTimeout sess => exact keeps_execSessionIdleTimeout sess hk
  | dtlsHandshake anchor cas leaf => exact keeps_execDtlsHandshake anchor cas leaf hk
  | sessionKeyUpdate sess => exact keeps_execSessionKeyUpdate sess hk
  | setSwap => exact keeps_execSetSwap hk
  | setCopy => exact keeps_execSetCopy hk
  | setCancel => exact keeps_execSetCancel hk
  | swapPoint => exact keeps_execSwapPoint hk
  | swapTimeout ms => exact keeps_execSwapTimeout ms hk
  | getVersion path u => exact keeps_execGetVersion path u hk
  | getCapabilities path u => exact keeps_execGetCapabilities path u hk
  | negotiateAlgorithms path u => exact keeps_execNegotiateAlgorithms path u hk
  | getDigests path u => exact keeps_execGetDigests path u hk
  | getCertificate path u => exact keeps_execGetCertificate path u hk
  | challenge path u => exact keeps_execChallenge path u hk
  | getMeasurements path u => exact keeps_execGetMeasurements path u hk
  | keyExchange path u => exact keeps_execKeyExchange path u hk
  | finish path u => exact keeps_execFinish path u hk
  | heartbeat path u => exact keeps_execHeartbeat path u hk
  | keyUpdate path u => exact keeps_execKeyUpdate path u hk
  | endSession path u => exact keeps_execEndSession path u hk
  | reportNonceWrite nonce => exact keeps_execReportNonceWrite nonce hk
  | attestationReportRead sess => exact keeps_execAttestationReportRead sess hk
  | debugToken obj => exact keeps_execDebugToken obj hk
  | anchorUpdate overBus obj => exact keeps_execAnchorUpdate overBus obj hk
  | revocation obj => exact keeps_execRevocation obj hk
  | counterAdvance cls v => exact keeps_execCounterAdvance cls v hk
  | verify cls => exact keeps_execVerify cls hk
  | verifyDone cls => exact keeps_execVerifyDone cls hk
  | activate cls => exact keeps_execActivate cls hk
  | abandon cls => exact keeps_execAbandon cls hk
  | clearFailureMarks => exact keeps_execClearFailureMarks hk
  | clearFaultCode => exact keeps_execClearFaultCode hk
  | shortPress => exact keeps_execShortPress hk
  | drainSettled => exact keeps_execDrainSettled hk
  | drainLimit => exact keeps_execDrainLimit hk
  | triplePress => exact keeps_execTriplePress hk
  | presenceExpiry => exact keeps_execPresenceExpiry hk
  | forcedStandby => exact keeps_execForcedStandby hk
  | latchTouch conn => exact keeps_execLatchTouch conn hk
  | latchRelease conn => exact keeps_execLatchRelease conn hk
  | displayRedraw => exact keeps_execDisplayRedraw hk
  | addPiece p => exact keeps_execAddPiece p hk
  | geometryAdvanceNotice part => exact keeps_execGeometryAdvanceNotice part hk
  | dieToDiePortDown die side => exact keeps_execDieToDiePortDown die side hk
  | cxlPortRetrained x lossReported => exact keeps_execCxlPortRetrained x lossReported hk
  | coolantSample inlet outlet flow => exact keeps_execCoolantSample inlet outlet flow hk
  | singleFeedEnd => exact keeps_execSingleFeedEnd hk
  | connectorDrained conn => exact keeps_execConnectorDrained conn hk
  | cblPresNChange conn seated => exact keeps_execCblPresNChange conn seated hk
  | l0Reached => exact keeps_execL0Reached hk
  | sdRestart => exact keeps_execSdRestart hk
  | computeResetEnd die => exact keeps_execComputeResetEnd die hk
  | dieReturn die => exact keeps_execDieReturn die hk

/-- Settles O1: both clauses are equations of `step`. -/
theorem stepRunsFront : Obligations.StepRunsFront :=
  fun s => ⟨step_front s, step_idle⟩

/-- Settles O4: the queue, the log and the counter of free values are the first three parts of `Keeps`, which every command keeps of its own state. -/
theorem commandsKeep : Obligations.CommandsKeep := by
  unfold Obligations.CommandsKeep
  intro i s t ht
  obtain ⟨hpending, hout, hfree, -⟩ := keeps_exec i (keeps_refl s) t ht
  exact ⟨hpending, hout, hfree⟩

end Sys2Proof.Machine
end

section
/-! SUPPORT. The token manager of a cluster (R94, R98, R99): waking, taking a message from the mesh, the refusals in their order, and the service of one
queued request; and with them the statement about token requests. -/

namespace Sys2Proof.Machine

/-! ### A woken cluster (R433) -/

/-- Waking a cluster changes its clock and nothing else of it. -/
theorem woken_cl_same (s : State) (c : Nat) : (s.woken c).cl c = { s.cl c with pll := ((s.woken c).cl c).pll } := by
  unfold State.woken
  split
  · rfl
  · simp

@[simp] theorem woken_mem (s : State) (c : Nat) : (s.woken c).mem = s.mem := by unfold State.woken; split <;> rfl
@[simp] theorem woken_parts (s : State) (c : Nat) : (s.woken c).parts = s.parts := by unfold State.woken; split <;> rfl
@[simp] theorem woken_tokQ (s : State) (c : Nat) : ((s.woken c).cl c).tokQ = (s.cl c).tokQ := by rw [woken_cl_same]
@[simp] theorem woken_tokMesh (s : State) (c : Nat) : ((s.woken c).cl c).tokMesh = (s.cl c).tokMesh := by rw [woken_cl_same]
@[simp] theorem woken_win (s : State) (c w : Nat) : (s.woken c).win c w = s.win c w := by unfold State.win; rw [woken_cl_same]

/-- Waking a cluster counts in 0x4801.01 and in no other object. -/
theorem woken_obj (s : State) (c : Nat) {i j : Nat} (h : objKey i j ≠ objKey 0x4801 1) : (s.woken c).obj i j = s.obj i j := by
  unfold State.woken
  split
  · rfl
  · exact setObj_obj_ne _ _ _ _ _ _ h

/-! ### Updates that leave a cluster, windows, undefined bytes -/

@[simp] theorem updCl_id_cl (s : State) (c k : Nat) : (s.updCl c id).cl k = s.cl k := by
  by_cases h : k = c
  · subst h; simp
  · exact updCl_cl_ne _ _ _ _ h

@[simp] theorem updCl_id_win (s : State) (c k w : Nat) : (s.updCl c id).win k w = s.win k w := by simp [State.win]

@[simp] theorem updWin_mem (s : State) (c w : Nat) (f : Win → Win) : (s.updWin c w f).mem = s.mem := rfl
@[simp] theorem updWin_parts (s : State) (c w : Nat) (f : Win → Win) : (s.updWin c w f).parts = s.parts := rfl
@[simp] theorem updWin_out (s : State) (c w : Nat) (f : Win → Win) : (s.updWin c w f).out = s.out := rfl
@[simp] theorem updWin_tokQ (s : State) (c w : Nat) (f : Win → Win) : ((s.updWin c w f).cl c).tokQ = (s.cl c).tokQ := by simp [State.updWin]
@[simp] theorem updWin_win_same (s : State) (c w : Nat) (f : Win → Win) : (s.updWin c w f).win c w = f (s.win c w) := by simp [State.updWin, State.win]

/-- What undefined bytes in one range leave, undefined bytes in many leave. -/
theorem scrambleAll_same {β : Type} {P : State → β} (hP : ∀ s pa n, P (State.scramble s pa n) = P s) (s : State) (rs : List (Nat × Nat)) :
    P (s.scrambleAll rs) = P s := foldl_same (f := fun s (r : Nat × Nat) => s.scramble r.1 r.2) (fun s r => hP s r.1 r.2) rs s

@[simp] theorem scrambleAll_clusters (s : State) (rs : List (Nat × Nat)) : (s.scrambleAll rs).clusters = s.clusters := scrambleAll_same (fun _ _ _ => rfl) s rs
@[simp] theorem scrambleAll_parts (s : State) (rs : List (Nat × Nat)) : (s.scrambleAll rs).parts = s.parts := scrambleAll_same (fun _ _ _ => rfl) s rs
@[simp] theorem scrambleAll_out (s : State) (rs : List (Nat × Nat)) : (s.scrambleAll rs).out = s.out := scrambleAll_same (fun _ _ _ => rfl) s rs
@[simp] theorem scrambleAll_cl (s : State) (rs : List (Nat × Nat)) (c : Nat) : (s.scrambleAll rs).cl c = s.cl c := by simp [State.cl]
@[simp] theorem scrambleAll_win (s : State) (rs : List (Nat × Nat)) (c w : Nat) : (s.scrambleAll rs).win c w = s.win c w := by simp [State.win]

/-- Undefined bytes lie in the ranges named. -/
theorem scrambleAll_byte {rs : List (Nat × Nat)} {a : Nat} (h : ∀ r ∈ rs, ¬(r.1 ≤ a ∧ a < r.1 + r.2)) :
    ∀ s : State, (s.scrambleAll rs).mem.byte a = s.mem.byte a := by
  induction rs with
  | nil => intro s; rfl
  | cons r rs ih =>
    intro s
    obtain ⟨hr, hrs⟩ := List.forall_mem_cons.1 h
    exact (ih hrs _).trans (scramble_byte _ _ _ _ hr)

/-- The stamp of a packet rests on the partitions alone. -/
theorem stamp_congr {s t : State} (h : t.parts = s.parts) (p : Packet) : t.stamp p = s.stamp p := by simp [State.stamp, State.pt, h]

/-! ### Messages from the mesh (R94) -/

section
variable {s : State} {c : Nat} {p : Packet}

theorem tokenIn_full (h : 64 ≤ (s.cl c).tokQ.length) :
    s.tokenIn c p = (s.woken c).updCl c fun cl => { cl with tokMesh := cl.tokMesh ++ [p] } := by
  simp [State.tokenIn, State.drainMesh, h]

/-- A cluster for which the mesh holds nothing back is left by emptying that list. -/
theorem updCl_tokMesh_nil (h : (s.cl c).tokMesh = []) : (s.updCl c fun cl => { cl with tokMesh := [] }) = s.updCl c id := by
  refine updCl_congr s (show { s.cl c with tokMesh := [] } = s.cl c from ?_)
  rw [← h]

/-- With room in the queue and nothing held back, a message is taken at once. -/
theorem tokenIn_room (h : (s.cl c).tokQ.length < 64) (hm : (s.cl c).tokMesh = []) :
    s.tokenIn c p = ((s.woken c).updCl c id).takeToken c p := by
  rw [← updCl_tokMesh_nil (s := s.woken c) (by simp [hm])]
  simp [State.tokenIn, State.drainMesh, hm, Nat.not_le.2 h]

theorem takeToken_req (h2 : p.msg.toNat % 16 ≠ 2) (h3 : p.msg.toNat % 16 ≠ 3) (h4 : p.msg.toNat % 16 ≠ 4) : s.takeToken c p = s.takeReq c p := by
  unfold State.takeToken
  split
  · contradiction
  · contradiction
  · contradiction
  · rfl

/-- A TOKEN_REQ that passes its check reaches the token manager of an active cluster. -/
theorem exec_tokenReq (hcrc : p.pcrc = pktCheck p) (hc : p.dstEp.toNat < 0x2000) (hstat : (s.cl p.dstEp.toNat).stat = .active)
    (hpads : s.padsOpen = true) (h2 : p.msg.toNat % 16 ≠ 2) (h3 : p.msg.toNat % 16 ≠ 3) (h4 : p.msg.toNat % 16 ≠ 4) :
    exec (.tokenReq p) s = .next (s.tokenIn p.dstEp.toNat p) := by
  change execTokenReq p s = _
  simp [execTokenReq, hcrc, Nat.not_le.2 hc, hstat, hpads, h2, h3, h4]

/-! ### The refusals of a request, in their order (R99) -/

/-- The fields that every TOKEN_REQ has alike (R95). -/
def ReqForm (v : Nat) : Prop := bits v 0 4 = 1 ∧ tokenRsvOk v = true ∧ bits v 64 10 = 0 ∧ bits v 80 8 = 0 ∧ bits v 92 4 = 0

/-- What the token manager keeps of a TOKEN_REQ. -/
def tokenAsk (p : Packet) : TokenReq where
  window := bits p.msg.toNat 4 3
  requester := BitVec.ofNat 16 (bits p.msg.toNat 32 16)
  count := bits p.msg.toNat 48 11
  tag := BitVec.ofNat 16 (bits p.msg.toNat 96 16)
  mod := p.srcMod

theorem takeReq_badForm (hf : ¬ ReqForm p.msg.toNat) : s.takeReq c p = s.refuseMsg c p 6 := by
  unfold State.takeReq
  refine if_pos ?_
  simpa [ReqForm, imp_iff_not_or] using hf

/-- A request of the right form is refused for its partition, its window or its count, in this order, or it enters the queue, and its window is served. -/
theorem takeReq_formed (hf : ReqForm p.msg.toNat) : s.takeReq c p =
    let win := s.win c (tokenAsk p).window
    if bits p.msg.toNat 88 4 ≠ win.part then s.refuseMsg c p 4
    else if !win.enable ∨ win.closing then s.refuseMsg c p 3
    else if (tokenAsk p).count = 0 ∨ win.size < (tokenAsk p).count then s.refuseMsg c p 5
    else (s.updCl c fun cl => { cl with tokQ := cl.tokQ ++ [tokenAsk p] }).serve c (tokenAsk p).window := by
  obtain ⟨hty, hrsv, hfirst, hgen, hreason⟩ := hf
  exact if_neg (by simp [hty, hrsv, hfirst, hgen, hreason])

theorem takeReq_otherPart (hf : ReqForm p.msg.toNat) (hpart : bits p.msg.toNat 88 4 ≠ (s.win c (tokenAsk p).window).part) :
    s.takeReq c p = s.refuseMsg c p 4 := by
  simp [takeReq_formed hf, hpart]

theorem takeReq_notOpen (hf : ReqForm p.msg.toNat) (hpart : bits p.msg.toNat 88 4 = (s.win c (tokenAsk p).window).part)
    (ho : ¬((s.win c (tokenAsk p).window).enable = true ∧ (s.win c (tokenAsk p).window).closing = false)) : s.takeReq c p = s.refuseMsg c p 3 := by
  have hshut : (s.win c (tokenAsk p).window).enable = false ∨ (s.win c (tokenAsk p).window).closing = true := by
    simpa [imp_iff_not_or] using ho
  simp [takeReq_formed hf, hpart, hshut]

theorem takeReq_badCount (hf : ReqForm p.msg.toNat) (hpart : bits p.msg.toNat 88 4 = (s.win c (tokenAsk p).window).part)
    (ho : (s.win c (tokenAsk p).window).enable = true ∧ (s.win c (tokenAsk p).window).closing = false)
    (hn : (tokenAsk p).count = 0 ∨ (s.win c (tokenAsk p).window).size < (tokenAsk p).count) : s.takeReq c p = s.refuseMsg c p 5 := by
  simp [takeReq_formed hf, hpart, ho, hn]

theorem takeReq_queued (hf : ReqForm p.msg.toNat) (hpart : bits p.msg.toNat 88 4 = (s.win c (tokenAsk p).window).part)
    (ho : (s.win c (tokenAsk p).window).enable = true ∧ (s.win c (tokenAsk p).window).closing = false)
    (h1 : 1 ≤ (tokenAsk p).count) (hsize : (tokenAsk p).count ≤ (s.win c (tokenAsk p).window).size) :
    s.takeReq c p = (s.updCl c fun cl => { cl with tokQ := cl.tokQ ++ [tokenAsk p] }).serve c (tokenAsk p).window := by
  simp [takeReq_formed hf, hpart, ho, Nat.pos_iff_ne_zero.1 h1, Nat.not_lt.2 hsize]

/-- A refusal changes one counter and what has been sent. -/
theorem refuseMsg_spec (s : State) (c : Nat) (p : Packet) (reason : Nat) :
    (s.refuseMsg c p reason).mem = s.mem ∧ (s.refuseMsg c p reason).parts = s.parts ∧ (∀ k, (s.refuseMsg c p reason).cl k = s.cl k) ∧
    (s.refuseMsg c p reason).obj 0x5020 3 = (s.obj 0x5020 3 + 1) % 2 ^ 64 ∧
    (s.refuseMsg c p reason).out = s.out ++ [.packet (pktFinish (s.stamp (packetOf 0x06 1 (tokenAsk p).requester (BitVec.ofNat 16 c) p.srcMod
      (s.win c (tokenAsk p).window).part (tokenAsk p).tag 0
      (tokenMsg 4 (tokenAsk p).window c (tokenAsk p).count 0 0 0 reason (tokenAsk p).requester (tokenAsk p).tag) [])))] :=
  ⟨rfl, rfl, fun _ => rfl, bump_obj_same .., rfl⟩

end

/-! ### The service of a queued request (R94, R98) -/

/-- The granules of a whole grant. -/
def Win.grantees (win : Win) (q : TokenReq) : List Granule :=
  (List.range q.count).map fun k => { idx := (win.grantPtr + k) % win.size, writer := q.requester, mod := q.mod }

/-- A request leaves the queue, its granules are granted whole and hold undefined bytes. -/
def State.grantWhole (s : State) (c : Nat) (q : TokenReq) : State :=
  let win := s.win c q.window
  ((s.scrambleAll ((win.grantees q).map fun g => (granuleAt c win g.idx, 2048))).updWin c q.window fun x =>
    { x with granules := x.granules ++ win.grantees q, grantPtr := (win.grantPtr + q.count) % win.size, freeCnt := x.freeCnt - q.count }).updCl c fun cl =>
      { cl with tokQ := cl.tokQ.erase q }

section
variable {s : State} {c : Nat} {q : TokenReq}

/-- A window none of whose granules is free serves nothing. -/
theorem serve_none_free {w : Nat} (h : (s.win c w).freeCnt = 0) : s.serve c w = s := by
  unfold State.serve State.serveTokens
  split
  · rfl
  · simp [h]

@[simp] theorem grantTo_tokQ (w g first gen part : Nat) : ((s.grantTo c w g first gen part q).cl c).tokQ = (s.cl c).tokQ := by
  unfold State.grantTo
  split
  · split
    · simp
    · rfl
  · rfl

/-- The only request in the queue is served whole when the free granules cover it. -/
theorem serve_whole (hq : (s.cl c).tokQ = [q]) (he : (s.win c q.window).enable = true) (hcl : (s.win c q.window).closing = false)
    (h1 : 1 ≤ q.count) (hsize : q.count ≤ (s.win c q.window).size) (hfree : q.count ≤ (s.win c q.window).freeCnt) :
    s.serve c q.window = (s.grantWhole c q).grantTo c q.window q.count (s.win c q.window).grantPtr (s.win c q.window).gen (s.win c q.window).part q := by
  have hf0 : (s.win c q.window).freeCnt ≠ 0 := by omega
  have hs0 : (s.win c q.window).size ≠ 0 := by omega
  simp [State.serve, State.serveTokens, hq, he, hcl, hf0, hs0, hfree, State.grantWhole, Win.grantees]

@[simp] theorem grantWhole_parts : (s.grantWhole c q).parts = s.parts := by simp [State.grantWhole]
@[simp] theorem grantWhole_out : (s.grantWhole c q).out = s.out := by simp [State.grantWhole]
@[simp] theorem grantWhole_tokQ : ((s.grantWhole c q).cl c).tokQ = (s.cl c).tokQ.erase q := by simp [State.grantWhole]

@[simp] theorem grantWhole_win : (s.grantWhole c q).win c q.window = { s.win c q.window with
    granules := (s.win c q.window).granules ++ (s.win c q.window).grantees q
    grantPtr := ((s.win c q.window).grantPtr + q.count) % (s.win c q.window).size
    freeCnt := (s.win c q.window).freeCnt - q.count } := by
  rw [State.grantWhole, State.win, updCl_cl_same]
  exact (updWin_win_same ..).trans (by simp)

/-- A grant leaves every byte outside its granules. -/
theorem grantWhole_byte {a : Nat} {win : Win} (hw : s.win c q.window = win)
    (h : ∀ k < q.count, ¬(granuleAt c win ((win.grantPtr + k) % win.size) ≤ a ∧ a < granuleAt c win ((win.grantPtr + k) % win.size) + 2048)) :
    (s.grantWhole c q).mem.byte a = s.mem.byte a := by
  subst hw
  rw [State.grantWhole, updCl_mem, updWin_mem]
  refine scrambleAll_byte (List.forall_mem_map.2 (List.forall_mem_map.2 fun k hk => ?_)) s
  exact h k (List.mem_range.1 hk)

/-- A grant to another endpoint is one TOKEN_GRANT. -/
theorem grantTo_other {w g first gen part : Nat} (h : isSelf c q.requester q.mod = false) : s.grantTo c w g first gen part q =
    s.emit (.packet (pktFinish (s.stamp (packetOf 0x06 1 q.requester (BitVec.ofNat 16 c) q.mod part q.tag 0
      (tokenMsg 2 w c g first gen part 0 q.requester q.tag) [])))) := by
  simp [State.grantTo, h]

/-- The only request in the queue, from another endpoint and covered by the free granules, is served in one TOKEN_GRANT. -/
theorem serve_whole_other {win : Win} (hw : s.win c q.window = win) (hq : (s.cl c).tokQ = [q]) (ho : win.enable = true ∧ win.closing = false)
    (h1 : 1 ≤ q.count) (hsize : q.count ≤ win.size) (hfree : q.count ≤ win.freeCnt) (hother : isSelf c q.requester q.mod = false) :
    s.serve c q.window = (s.grantWhole c q).emit (.packet (pktFinish (s.stamp (packetOf 0x06 1 q.requester (BitVec.ofNat 16 c) q.mod win.part q.tag 0
      (tokenMsg 2 q.window c q.count win.grantPtr win.gen win.part 0 q.requester q.tag) [])))) := by
  subst hw
  rw [serve_whole hq ho.1 ho.2 h1 hsize hfree, grantTo_other hother, stamp_congr grantWhole_parts]

end

/-! ### The statement -/

/-- Settles O19: the message is held back (`tokenIn_full`) or taken (`tokenIn_room`), and then refused in the order of R99 (`takeReq_formed`, `refuseMsg_spec`),
granted whole (`serve_whole`) or left in the queue (`serve_none_free`). -/
theorem tokenRequests : Obligations.TokenRequests := by
  unfold Obligations.TokenRequests
  intro s p v u c w n win req tag form open' answered refuses waiting hcrc hc hstat hpads ⟨h2, h3, h4⟩
  have hexec : exec (.tokenReq p) s = .next (s.tokenIn c p) := exec_tokenReq hcrc hc hstat hpads h2 h3 h4
  refine ⟨fun hfull => ?_, fun hroom hmesh => ?_⟩
  · exact ⟨_, hexec.trans (by rw [tokenIn_full hfull]), onlyCluster_updCl .., by simp [u, c]⟩
  -- The message is taken at once, by the cluster just woken.
  have htake : exec (.tokenReq p) s = .next ((u.updCl c id).takeReq c p) := by
    rw [hexec, tokenIn_room hroom hmesh, takeToken_req h2 h3 h4]
  have hwin : (u.updCl c id).win c (tokenAsk p).window = win := by simp [u, c, win, w, tokenAsk, v]
  have hrefuse : ∀ reason, (u.updCl c id).takeReq c p = (u.updCl c id).refuseMsg c p reason → refuses reason := by
    intro reason h
    obtain ⟨hmem, hparts, hcl, hobj, hout⟩ := refuseMsg_spec (u.updCl c id) c p reason
    refine ⟨_, htake.trans (by rw [h]), ?_, ?_, ?_, ?_, ?_⟩
    · rw [hmem]; simp [u]
    · rw [hparts]; simp [u]
    · intro k; rw [hcl]; simp
    · rw [hobj]; simp [u, woken_obj _ _ (show objKey 0x5020 3 ≠ objKey 0x4801 1 by decide)]
    · rw [hwin] at hout; exact hout
  have hqueue : form → bits v 88 4 = win.part → open' → 1 ≤ n → n ≤ win.size → (s.cl c).tokQ = [] →
      (u.updCl c id).takeReq c p = (u.updCl c fun cl => { cl with tokQ := [tokenAsk p] }).serve c (tokenAsk p).window := by
    intro hf hpart ho h1 hsize hq
    rw [takeReq_queued hf (hwin ▸ hpart) (hwin ▸ ho) h1 (hwin ▸ hsize), updCl_updCl]
    congr 1
    exact updCl_congr _ (by simp [u, c, hq])
  have hwaitWin : (u.updCl c fun cl => { cl with tokQ := [tokenAsk p] }).win c (tokenAsk p).window = win := by
    rw [State.win, updCl_cl_same]; exact woken_win s c w
  refine ⟨fun hf => ?_, fun hf hpart => ?_, fun hf hpart ho => ?_, fun hf hpart ho hn => ?_, fun hf hpart ho h1 hsize hq hfree hself => ?_,
    fun hf hpart ho h1 hsize hq hfree => ?_⟩
  · exact hrefuse 6 (takeReq_badForm hf)
  · exact hrefuse 4 (takeReq_otherPart hf (hwin ▸ hpart))
  · exact hrefuse 3 (takeReq_notOpen hf (hwin ▸ hpart) (hwin ▸ ho))
  · exact hrefuse 5 (takeReq_badCount hf (hwin ▸ hpart) (hwin ▸ ho) (hwin ▸ hn))
  · have hserve := serve_whole_other (q := tokenAsk p) hwaitWin (by simp) ho h1 hsize hfree hself
    refine ⟨_, htake.trans (by rw [hqueue hf hpart ho h1 hsize hq, hserve]), ?_, ?_, fun a ha => ?_, ?_⟩
    · simp
    · exact grantWhole_win.trans (by rw [hwaitWin]; rfl)
    · exact (grantWhole_byte (q := tokenAsk p) hwaitWin ha).trans (by simp [u])
    · exact congrArg (· ++ _) grantWhole_out
  · refine ⟨_, htake.trans (by rw [hqueue hf hpart ho h1 hsize hq, serve_none_free (by rw [hwaitWin]; exact hfree)]), ?_, ?_⟩
    · exact onlyCluster_updCl ..
    · exact updCl_cl_same ..

end Sys2Proof.Machine
end

section
/-! SUPPORT. Packets on their way (R10, R346 to R350, R358, R363, R433): what each operation of a junction, of a link die and of a port changes, and with them
the statement about forwarding. -/

namespace Sys2Proof.Machine

/-! ### What the fabric's operations leave -/

/-- Memory, the clusters and the partitions are as they were. -/
def RestKept (s t : State) : Prop := t.mem = s.mem ∧ t.clusters = s.clusters ∧ t.parts = s.parts

/-- Flits, and nothing else. -/
def AllFlits (os : List Out) : Prop := ∀ o ∈ os, ∃ q f, o = Out.flit q f

/-- Nothing changes but the fabric (dies, link dies, ports), the free values drawn, and what has been sent, by these. -/
def OnlyFabric (s t : State) (os : List Out) : Prop :=
  ∃ dies links ports n, t = { s with dies := dies, links := links, ports := ports, free := n, out := s.out ++ os }

/-- Nothing changes but the ports and what has been sent, by flits. -/
def OnlyFlits (s t : State) : Prop :=
  ∃ ports os, t = { s with ports := ports, out := s.out ++ os } ∧ AllFlits os

section
variable {s t u : State} {os os' : List Out}

theorem onlyFabric_silent (s : State) (dies : Tab Die) (links : Tab LinkDie) (ports : Tab Port) (n : Nat) :
    OnlyFabric s { s with dies := dies, links := links, ports := ports, free := n } [] := ⟨dies, links, ports, n, by rw [List.append_nil]⟩

theorem onlyFabric_refl (s : State) : OnlyFabric s s [] := onlyFabric_silent s s.dies s.links s.ports s.free

theorem OnlyFabric.trans (h : OnlyFabric s t os) (h' : OnlyFabric t u os') : OnlyFabric s u (os ++ os') := by
  obtain ⟨_, _, _, _, rfl⟩ := h
  obtain ⟨dies, links, ports, n, rfl⟩ := h'
  exact ⟨dies, links, ports, n, by rw [← List.append_assoc]⟩

/-- A silent change after another leaves what has been sent. -/
theorem OnlyFabric.silent (h : OnlyFabric s t os) (h' : OnlyFabric t u []) : OnlyFabric s u os := by simpa using h.trans h'

theorem OnlyFabric.rest (h : OnlyFabric s t os) : RestKept s t := by
  obtain ⟨_, _, _, _, rfl⟩ := h
  exact ⟨rfl, rfl, rfl⟩

theorem OnlyFabric.out_eq (h : OnlyFabric s t os) : t.out = s.out ++ os := by
  obtain ⟨_, _, _, _, rfl⟩ := h
  rfl

theorem OnlyFabric.obj_eq (h : OnlyFabric s t os) (i j : Nat) : t.obj i j = s.obj i j := by
  obtain ⟨_, _, _, _, rfl⟩ := h
  rfl

theorem onlyFabric_updDie (s : State) (d : Nat) (f : Die → Die) : OnlyFabric s (s.updDie d f) [] := onlyFabric_silent s _ s.links s.ports s.free
theorem onlyFabric_updLink (s : State) (l : Nat) (f : LinkDie → LinkDie) : OnlyFabric s (s.updLink l f) [] := onlyFabric_silent s s.dies _ s.ports s.free
theorem onlyFabric_updPort (s : State) (q : Nat) (f : Port → Port) : OnlyFabric s (s.updPort q f) [] := onlyFabric_silent s s.dies s.links _ s.free
theorem onlyFabric_drawn (s : State) : OnlyFabric s s.drawn [] := onlyFabric_silent s s.dies s.links s.ports _
theorem onlyFabric_emit (s : State) (o : Out) : OnlyFabric s (s.emit o) [o] := ⟨s.dies, s.links, s.ports, s.free, rfl⟩

theorem onlyFlits_silent (s : State) (ports : Tab Port) : OnlyFlits s { s with ports := ports } := ⟨ports, [], by rw [List.append_nil], by simp [AllFlits]⟩

theorem onlyFlits_refl (s : State) : OnlyFlits s s := onlyFlits_silent s s.ports

theorem OnlyFlits.trans (h : OnlyFlits s t) (h' : OnlyFlits t u) : OnlyFlits s u := by
  obtain ⟨_, os, rfl, hos⟩ := h
  obtain ⟨ports, os', rfl, hos'⟩ := h'
  exact ⟨ports, os ++ os', by rw [← List.append_assoc], fun o ho => (List.mem_append.1 ho).elim (hos o) (hos' o)⟩

theorem onlyFlits_updPort (s : State) (q : Nat) (f : Port → Port) : OnlyFlits s (s.updPort q f) := onlyFlits_silent ..

theorem OnlyFlits.rest (h : OnlyFlits s t) : RestKept s t := by
  obtain ⟨_, _, rfl, _⟩ := h
  exact ⟨rfl, rfl, rfl⟩

theorem OnlyFlits.out_eq (h : OnlyFlits s t) : ∃ os, t.out = s.out ++ os ∧ AllFlits os := by
  obtain ⟨_, os, rfl, hos⟩ := h
  exact ⟨os, rfl, hos⟩

theorem OnlyFlits.die_eq (h : OnlyFlits s t) (d : Nat) : t.die d = s.die d := by
  obtain ⟨_, _, rfl, _⟩ := h
  rfl

theorem OnlyFlits.link_eq (h : OnlyFlits s t) (l : Nat) : t.link l = s.link l := by
  obtain ⟨_, _, rfl, _⟩ := h
  rfl

/-- Flits after a change of the fabric change no more than the fabric and what is sent. -/
theorem OnlyFabric.rest_flits (h : OnlyFabric s t os) (h' : OnlyFlits t u) : RestKept s u := by
  obtain ⟨hmem, hcl, hparts⟩ := h.rest
  obtain ⟨hmem', hcl', hparts'⟩ := h'.rest
  exact ⟨hmem'.trans hmem, hcl'.trans hcl, hparts'.trans hparts⟩

theorem OnlyFabric.out_flits (h : OnlyFabric s t os) (h' : OnlyFlits t u) :
    ∃ fs, u.out = s.out ++ (os ++ fs) ∧ AllFlits fs := by
  obtain ⟨fs, hfs, hflits⟩ := h'.out_eq
  exact ⟨fs, by rw [hfs, h.out_eq, List.append_assoc], hflits⟩

/-- What an update of a port does not touch reads as before at every port. -/
theorem updPort_port_same_of {β : Type} (g : Port → β) {f : Port → Port} (hf : ∀ x, g (f x) = g x) (s : State) (q k : Nat) :
    g ((s.updPort q f).port k) = g (s.port k) := by
  by_cases hk : k = q
  · subst hk; simp [hf]
  · rw [updPort_port_ne _ _ _ _ hk]

/-- What an update of a die does not touch reads as before at every die. -/
theorem updDie_die_same_of {β : Type} (g : Die → β) {f : Die → Die} (hf : ∀ x, g (f x) = g x) (s : State) (d k : Nat) :
    g ((s.updDie d f).die k) = g (s.die k) := by
  by_cases hk : k = d
  · subst hk; simp [hf]
  · rw [updDie_die_ne _ _ _ _ hk]

end

/-! ### Junctions (R346 to R350) -/

section
variable {s : State} {d b port k : Nat} {p q : Packet}

theorem leaves_onlyFabric (s : State) (d : Nat) (p : Packet) : OnlyFabric s (s.leaves d p) [] := by
  unfold State.leaves
  split
  · exact onlyFabric_refl s
  · dsimp only
    split
    · exact onlyFabric_updDie ..
    · split
      · split
        · exact (onlyFabric_updDie ..).silent (onlyFabric_updLink ..)
        · exact onlyFabric_updDie ..
      · exact (onlyFabric_updDie ..).silent (onlyFabric_updDie ..)

/-- A packet that leaves takes its place in the buffers with it; the credits that go back touch no buffer. -/
theorem leaves_bufs {x : Buffered} (h : s.heldAt d p = some x) : ((s.leaves d p).die d).bufs = (s.die d).bufs.erase x := by
  unfold State.leaves
  rw [h]
  dsimp only
  split
  · simp
  · split
    · split <;> simp
    · exact (updDie_die_same_of Die.bufs (by intros; rfl) ..).trans (by simp)

theorem waitsAt_onlyFabric (s : State) (d : Nat) (p : Packet) : OnlyFabric s (s.waitsAt d p) [] := by
  unfold State.waitsAt
  split
  · exact onlyFabric_refl s
  · exact onlyFabric_updDie ..

theorem waitsAt_heldAt (s : State) (d : Nat) (p : Packet) : ((s.waitsAt d p).heldAt d p).isSome = true := by
  unfold State.waitsAt
  split
  · assumption
  · simp [State.heldAt]

theorem crosses_noCredit (h : s.credits d k (chanOf q) < pktFill q (chanOf q)) : s.crosses d k p q = s.waitsAt d p := if_pos h

/-- A packet that crosses stands in the neighbour's buffer for the side it has come from, with one more hop (R347, R350). -/
theorem crosses_credit (h : pktFill q (chanOf q) ≤ s.credits d k (chanOf q)) :
    OnlyFabric s (s.crosses d k p q) [.forward (.junction d) k (hopped q)] ∧
    ∃ x ∈ ((s.crosses d k p q).die (beside d k)).bufs, x.p = hopped q ∧ x.side = opposite k := by
  unfold State.crosses
  dsimp only
  rw [if_neg (Nat.not_lt.2 h)]
  refine ⟨?_, ?_⟩
  · exact (((leaves_onlyFabric s d p).silent (onlyFabric_updDie ..)).silent (onlyFabric_updDie ..)).trans (onlyFabric_emit ..)
  · rw [emit_die, updDie_die_same]
    exact ⟨_, List.mem_append_right _ (List.mem_singleton_self _), rfl, rfl⟩

/-- A packet has left a junction by a port: memory and partitions are those of `s`, the clusters those of `u`, and its place in the buffers is free. -/
def LeavesBy (s u : State) (d port : Nat) (p : Packet) (t : State) : Prop :=
  t.mem = s.mem ∧ t.parts = s.parts ∧ t.clusters = u.clusters ∧ t.out = s.out ++ [.forward (.junction d) port (hopped p)] ∧
  ∀ x, s.heldAt d p = some x → (t.die d).bufs = (s.die d).bufs.erase x

theorem OnlyFabric.leavesBy {t : State} (h : OnlyFabric s t [.forward (.junction d) port (hopped p)])
    (hbufs : ∀ x, s.heldAt d p = some x → (t.die d).bufs = (s.die d).bufs.erase x) : LeavesBy s s d port p t := by
  obtain ⟨hmem, hcl, hparts⟩ := h.rest
  exact ⟨hmem, hparts, hcl, h.out_eq, hbufs⟩

/-- From a state that differs from `s` in clusters and objects alone, a packet leaves. -/
theorem leaves_emit_leavesBy {u : State} (hmem : u.mem = s.mem) (hparts : u.parts = s.parts) (hout : u.out = s.out) (hdies : u.dies = s.dies) :
    LeavesBy s u d port p ((u.leaves d p).emit (.forward (.junction d) port (hopped p))) := by
  have hfab := (leaves_onlyFabric u d p).trans (onlyFabric_emit _ (.forward (.junction d) port (hopped p)))
  obtain ⟨hmem', hcl', hparts'⟩ := hfab.rest
  refine ⟨hmem'.trans hmem, hparts'.trans hparts, hcl', hout ▸ hfab.out_eq, fun x hx => ?_⟩
  rw [emit_die, leaves_bufs (by simpa [State.heldAt, State.die, hdies] using hx)]
  simp [State.die, hdies]

theorem goesOut_hub (h : linkBehind d port = none) : s.goesOut d port p = (s.leaves d p).emit (.forward (.junction d) port (hopped p)) := by
  simp [State.goesOut, h]

theorem goesOut_link_noCredit {l : Nat} (h : linkBehind d port = some (l, k))
    (hno : (s.link l).lost = true ∨ s.credits d port (chanOf p) < pktFill p (chanOf p)) : s.goesOut d port p = s.waitsAt d p := by
  unfold State.goesOut
  rw [h]
  exact if_pos hno

/-- Against the port's credits a packet leaves to the link die, and stands there in the buffer of the die's port (R10, R347). -/
theorem goesOut_link_credit {l : Nat} (h : linkBehind d port = some (l, k)) (hl : (s.link l).lost = false)
    (hc : pktFill p (chanOf p) ≤ s.credits d port (chanOf p)) :
    LeavesBy s s d port p (s.goesOut d port p) ∧ ∃ x ∈ ((s.goesOut d port p).link l).bufs, x.p = hopped p ∧ x.side = k := by
  unfold State.goesOut
  rw [h]
  dsimp only
  rw [if_neg (by simp [hl, hc])]
  refine ⟨?_, ?_⟩
  · exact OnlyFabric.leavesBy ((((leaves_onlyFabric s d p).silent (onlyFabric_updDie ..)).silent (onlyFabric_updLink ..)).trans (onlyFabric_emit ..))
      fun x hx => by simp [leaves_bufs hx]
  · rw [emit_link, updLink_link_same]
    exact ⟨_, List.mem_append_right _ (List.mem_singleton_self _), rfl, rfl⟩

/-- Of some directions one that holds the most credits is taken (R348). -/
theorem mostCredits_spec (s : State) (d vc : Nat) : ∀ ks : List Nat, ks ≠ [] →
    ∃ k ∈ ks, s.mostCredits d vc ks = some k ∧ ∀ j ∈ ks, s.credits d j vc ≤ s.credits d k vc := by
  intro ks
  induction ks with
  | nil => exact fun h => absurd rfl h
  | cons k ks ih =>
    intro _
    by_cases hks : ks = []
    · subst hks
      exact ⟨k, by simp, rfl, by simp⟩
    · obtain ⟨e, he, heq, hmax⟩ := ih hks
      simp only [State.mostCredits, heq]
      by_cases hle : s.credits d e vc ≤ s.credits d k vc
      · refine ⟨k, by simp, by rw [if_pos hle], List.forall_mem_cons.2 ⟨le_rfl, fun j hj => (hmax j hj).trans hle⟩⟩
      · refine ⟨e, by simp [he], by rw [if_neg hle], List.forall_mem_cons.2 ⟨by omega, hmax⟩⟩

/-- A junction with a sound packet that it may take in, whose target is neither a hole nor a cluster that resets: out at its die, on along a shortest way, or by
the escape table. -/
theorem junctionForward_sound (hhchk : p.hchk = pktHcheck p) (hhops : p.hops ≠ 255) (htarget : s.targetDie (s.sourceDie d p) p = some (b, port))
    (hdrain : (s.die d).draining = true → (s.heldAt d p).isSome = true)
    (hopen : port = 4 → (s.die b).hole = false ∧ (b = d → (s.die d).resetting = false ∧ (s.cl (p.dstEp.toNat % 8192)).isolated = false)) :
    s.junctionForward d p =
      if b = d then
        if port = 4 then ((s.woken (p.dstEp.toNat % 8192)).leaves d p).emit (.forward (.junction d) port (hopped p))
        else if (s.die d).portsDown.contains port = true then s.waitsAt d p
        else s.goesOut d port p
      else if p.esc = true then s.escapeForward d b p
      else (s.mostCredits d (chanOf p) (s.turns d b p)).elim (s.escapeForward d b p) fun k => s.crosses d k p p := by
  have htake : ¬((s.die d).draining = true ∧ (s.heldAt d p).isNone = true) := fun ⟨hd, hn⟩ => by
    simpa [Option.isNone_iff_eq_none.1 hn] using hdrain hd
  have hsound : ¬(p.hchk ≠ pktHcheck p ∨ p.hops = 255) := fun h => h.elim (absurd hhchk) hhops
  unfold State.junctionForward
  dsimp only
  rw [if_neg htake, if_neg hsound, htarget]
  dsimp only
  by_cases hport : port = 4
  · obtain ⟨hhole, hready⟩ := hopen hport
    by_cases hb : b = d
    · subst hb
      obtain ⟨hreset, hisol⟩ := hready rfl
      simp [hport, hhole, hreset, hisol]
    · simp only [hport, hhole, hb]
      cases s.mostCredits d (chanOf p) (s.turns d b p) <;> simp [hb]
  · cases s.mostCredits d (chanOf p) (s.turns d b p) <;> simp [hport]

theorem runs_junction {t : State} {P : State → Prop} (h : s.junctionForward d p = t) (hP : P t) : Runs (.packetForward (.junction d) p) s P :=
  ⟨t, congrArg _ h, hP⟩

/-- A packet waits in a buffer of a junction, and nothing is sent. -/
def JunctionWaits (s : State) (d : Nat) (p : Packet) (t : State) : Prop := RestKept s t ∧ t.out = s.out ∧ (t.heldAt d p).isSome = true

theorem runs_junction_waits (h : s.junctionForward d p = s.waitsAt d p) : Runs (.packetForward (.junction d) p) s (JunctionWaits s d p) :=
  runs_junction h ⟨(waitsAt_onlyFabric s d p).rest, by simpa using (waitsAt_onlyFabric s d p).out_eq, waitsAt_heldAt s d p⟩

/-- A packet that is to cross does so against its credits, or waits for them. -/
theorem runs_junction_crosses (h : s.junctionForward d p = s.crosses d k p q) :
    (pktFill q (chanOf q) ≤ s.credits d k (chanOf q) → Runs (.packetForward (.junction d) p) s fun t =>
      RestKept s t ∧ t.out = s.out ++ [.forward (.junction d) k (hopped q)] ∧ ∃ x ∈ (t.die (beside d k)).bufs, x.p = hopped q ∧ x.side = opposite k) ∧
    (s.credits d k (chanOf q) < pktFill q (chanOf q) → Runs (.packetForward (.junction d) p) s (JunctionWaits s d p)) := by
  refine ⟨fun hc => ?_, fun hc => runs_junction_waits (h.trans (crosses_noCredit hc))⟩
  obtain ⟨hfab, hbuf⟩ := crosses_credit (p := p) hc
  exact runs_junction h ⟨hfab.rest, hfab.out_eq, hbuf⟩

@[simp] theorem woken_out (s : State) (c : Nat) : (s.woken c).out = s.out := by unfold State.woken; split <;> rfl
@[simp] theorem woken_dies (s : State) (c : Nat) : (s.woken c).dies = s.dies := by unfold State.woken; split <;> rfl

end

/-! ### The ports of a link die (R356 to R358) -/

section
variable {s : State}

theorem sendFlit_onlyFlits (s : State) (q : Nat) (nak idle : Bool) (credits : List Nat) (payload : List Byte) (start : Nat) :
    OnlyFlits s (s.sendFlit q nak idle credits payload start) := by
  unfold State.sendFlit
  dsimp only
  split
  · exact onlyFlits_refl s
  · exact ⟨_, _, rfl, fun o ho => ⟨_, _, List.mem_singleton.1 ho⟩⟩

theorem pump_onlyFlits (q : Nat) : ∀ (f : Nat) (s : State), OnlyFlits s (State.pump q f s) := by
  intro f
  induction f with
  | zero => exact onlyFlits_refl
  | succ f ih =>
    intro s
    unfold State.pump
    dsimp only
    split
    · exact onlyFlits_refl s
    · exact ((sendFlit_onlyFlits ..).trans (onlyFlits_updPort ..)).trans (ih _)

theorem stream_onlyFlits (s : State) (q : Nat) (p : Packet) : OnlyFlits s (s.stream q p) :=
  (onlyFlits_updPort ..).trans (pump_onlyFlits ..)

theorem creditFlit_onlyFlits (s : State) (q : Nat) (nak : Bool) : OnlyFlits s (s.creditFlit q nak) := by
  unfold State.creditFlit
  split
  · exact onlyFlits_refl s
  · exact (onlyFlits_updPort ..).trans (sendFlit_onlyFlits ..)

/-- A loop of steps that send flits alone sends flits alone. -/
theorem onlyFlits_foldl {α : Type} {f : State → α → State} (hf : ∀ s x, OnlyFlits s (f s x)) (xs : List α) : ∀ s, OnlyFlits s (xs.foldl f s) := by
  induction xs with
  | nil => exact onlyFlits_refl
  | cons x xs ih => intro s; exact (hf s x).trans (ih _)

theorem returnCredits_onlyFlits (s : State) (l : Nat) : OnlyFlits s (s.returnCredits l) := by
  refine onlyFlits_foldl (fun s j => ?_) _ s
  split
  · exact onlyFlits_refl s
  · exact creditFlit_onlyFlits ..

section
variable {β : Type} {g : Port → β}

/-- A flit that is sent takes a sequence number and a place in the replay buffer, and nothing else of a port. -/
theorem sendFlit_port (hg : ∀ x n r, g { x with txSeq := n, replay := r } = g x) (s : State) (q : Nat) (nak idle : Bool) (credits : List Nat)
    (payload : List Byte) (start k : Nat) : g ((s.sendFlit q nak idle credits payload start).port k) = g (s.port k) := by
  unfold State.sendFlit
  dsimp only
  split
  · rfl
  · rw [emit_port]; exact updPort_port_same_of g (fun x => hg x _ _) s q k

/-- Credits that go back leave a port all but what it owes, its sequence number and its replay buffer. -/
theorem returnCredits_port (hg : ∀ x n r o, g { x with txSeq := n, replay := r, owed := o } = g x) (s : State) (l k : Nat) :
    g ((s.returnCredits l).port k) = g (s.port k) := by
  refine foldl_same (P := fun s => g (s.port k)) (fun s j => ?_) (List.range 4) s
  split
  · rfl
  · unfold State.creditFlit
    split
    · rfl
    · exact (sendFlit_port (fun x n r => hg x n r x.owed) ..).trans (updPort_port_same_of g (fun x => hg x x.txSeq x.replay _) ..)

end

theorem pump_used (q k : Nat) : ∀ (f : Nat) (s : State), ((State.pump q f s).port k).used = (s.port k).used := by
  intro f
  induction f with
  | zero => intro s; rfl
  | succ f ih =>
    intro s
    unfold State.pump
    dsimp only
    split
    · rfl
    · exact (ih _).trans ((updPort_port_same_of Port.used (by intros; rfl) ..).trans (sendFlit_port (g := Port.used) (by intros; rfl) ..))

theorem stream_used (s : State) (q k : Nat) (p : Packet) : ((s.stream q p).port k).used = (s.port k).used :=
  (pump_used ..).trans (updPort_port_same_of Port.used (by intros; rfl) ..)

/-- A unit stream that does not fill a flit waits for more (log 183). -/
theorem stream_tx {q : Nat} {p : Packet} (h : (s.port q).tx.length + (pktBytes p).length < 608) :
    ((s.stream q p).port q).tx = (s.port q).tx ++ pktBytes p := by
  simp [State.stream, State.pump, h]

theorem length_natLe (n : Nat) : ∀ v, (natLe n v).length = n := by
  induction n with
  | zero => intro v; rfl
  | succ n ih => intro v; simp [natLe, ih]

/-- A packet is as many bytes as its units hold (R341). -/
theorem length_pktBytes {p : Packet} (h : p.payload.length = 64 * p.lenUnits.toNat) : (pktBytes p).length = 64 * pktUnits p := by
  simp [pktBytes, padTo, length_natLe, h, pktUnits]; omega

end

/-! ### Link dies (R350, R358, R363) -/

section
variable {s : State} {l : Nat} {p : Packet}

theorem linkWait_onlyFabric (s : State) (l : Nat) (p : Packet) : OnlyFabric s (s.linkWait l p) [] := onlyFabric_updLink ..

theorem linkWait_waiting (s : State) (l : Nat) (p : Packet) : p ∈ ((s.linkWait l p).link l).waiting := by
  rw [State.linkWait, updLink_link_same]
  dsimp only
  split
  · exact List.contains_iff_mem.1 ‹_›
  · exact List.mem_append_right _ (List.mem_singleton_self p)

theorem linkLeaves_onlyFabric (s : State) (l : Nat) (p : Packet) : OnlyFabric s (s.linkLeaves l p) [] := by
  have hbuf : ∀ b : Buffered, OnlyFabric s (((s.updLink l fun x => { x with waiting := x.waiting.erase p }).updLink l fun x => { x with bufs := x.bufs.erase b }).updDie
      ((linkAttach l).getD b.side 0) fun x =>
        { x with sent := Tab.put x.sent 0 (16 * (l / 2) + b.vc) (Tab.look x.sent 0 (16 * (l / 2) + b.vc) - pktFill p b.vc) }) [] :=
    fun b => ((onlyFabric_updLink ..).silent (onlyFabric_updLink ..)).silent (onlyFabric_updDie ..)
  unfold State.linkLeaves
  dsimp only
  split <;> split
  · exact (hbuf _).silent (onlyFabric_updPort ..)
  · exact (onlyFabric_updLink ..).silent (onlyFabric_updPort ..)
  · exact hbuf _
  · exact onlyFabric_updLink ..

/-- A packet that leaves changes of a port only what the port holds and owes. -/
theorem linkLeaves_port {β : Type} {g : Port → β} (hg : ∀ x h o, g { x with held := h, owed := o } = g x) (s : State) (l : Nat) (p : Packet) (k : Nat) :
    g ((s.linkLeaves l p).port k) = g (s.port k) := by
  unfold State.linkLeaves
  dsimp only
  split <;> split
  · exact updPort_port_same_of g (fun x => hg x _ _) ..
  · exact updPort_port_same_of g (fun x => hg x _ _) ..
  · rfl
  · rfl

theorem linkInto_shut (h : s.waysIn l p = []) : s.linkInto l p = s.linkWait l p := by
  unfold State.linkInto
  rw [h]

/-- A packet that enters the mesh does so by a port that may take it, and stands in the attach die's buffer (R10, R347). -/
theorem linkInto_open (h : s.waysIn l p ≠ []) : ∃ k ∈ s.waysIn l p, OnlyFabric s (s.linkInto l p) [.forward (.linkDie l) (32 + k) (hopped p)] ∧
    ∃ x ∈ ((s.linkInto l p).die ((linkAttach l).getD k 0)).bufs, x.p = hopped p ∧ x.side = l / 2 := by
  obtain ⟨k, ks, hways⟩ := List.exists_cons_of_ne_nil h
  have hlt : s.freeW.toNat % (ks.length + 1) < (k :: ks).length := Nat.mod_lt _ (Nat.succ_pos _)
  unfold State.linkInto
  rw [hways]
  refine ⟨(k :: ks).getD (s.freeW.toNat % (ks.length + 1)) k, ?_, ?_, ?_⟩
  · rw [List.getD_eq_getElem _ _ hlt]; exact List.getElem_mem hlt
  · exact ((((linkLeaves_onlyFabric s l p).silent (onlyFabric_drawn _)).silent (onlyFabric_updLink ..)).silent (onlyFabric_updDie ..)).trans (onlyFabric_emit ..)
  · dsimp only
    rw [emit_die, updDie_die_same]
    exact ⟨_, List.mem_append_right _ (List.mem_singleton_self _), rfl, rfl⟩

/-- A packet has left a link die by a port, with its units counted as in use on the other side; its bytes have yet to join the unit stream. -/
def State.outBy (s : State) (l q : Nat) (p : Packet) : State :=
  ((s.linkLeaves l p).updPort q fun y =>
    { y with used := Tab.put y.used 0 p.cls.toNat (Tab.look (s.port q).used 0 p.cls.toNat + pktUnits p) }).emit (.forward (.linkDie l) q (hopped p))

theorem outBy_onlyFabric (s : State) (l q : Nat) (p : Packet) : OnlyFabric s (s.outBy l q p) [.forward (.linkDie l) q (hopped p)] :=
  ((linkLeaves_onlyFabric s l p).silent (onlyFabric_updPort ..)).trans (onlyFabric_emit ..)

theorem outBy_used (s : State) (l q : Nat) (p : Packet) :
    Tab.look ((s.outBy l q p).port q).used 0 p.cls.toNat = Tab.look (s.port q).used 0 p.cls.toNat + pktUnits p := by
  simp [State.outBy]

theorem outBy_tx (s : State) (l q : Nat) (p : Packet) : ((s.outBy l q p).port q).tx = (s.port q).tx := by
  rw [State.outBy, emit_port, updPort_port_same]
  exact linkLeaves_port (g := Port.tx) (fun _ _ _ => rfl) s l p q

theorem linkSend_room {q : Nat} (hq : q / 4 = l) (hroom : Tab.look (s.port q).used 0 p.cls.toNat + pktUnits p ≤ 512) :
    s.linkSend l q p = (s.outBy l q p).stream q (hopped p) := by
  unfold State.linkSend State.linkOut
  rw [if_pos hq]
  exact if_neg (Nat.not_lt.2 hroom)

theorem linkSend_full {q : Nat} (hq : q / 4 = l) (hfull : 512 < Tab.look (s.port q).used 0 p.cls.toNat + pktUnits p) : s.linkSend l q p = s.linkWait l p := by
  unfold State.linkSend State.linkOut
  rw [if_pos hq]
  exact if_pos hfull

/-- A link die with a sound packet hands it to the mesh or to a port, or keeps it (R358, R363). -/
theorem linkForward_sound (hl : (s.link l).lost = false) (hhchk : p.hchk = pktHcheck p) (hhops : p.hops ≠ 255) : s.linkForward l p =
    if p.dstMod = 0xFF ∨ (s.pt p.part.toNat).fm.any (fun m => m.self == p.dstMod.toNat) = true then
      if p.dstEp.toNat = 0x4000 + l then s.linkWait l p else s.linkInto l p
    else (s.portFor p).elim (s.linkWait l p) fun q => s.linkSend l q p := by
  unfold State.linkForward
  rw [if_neg (by simp [hl]), if_neg fun h => h.elim (absurd hhchk) hhops]
  cases s.portFor p <;> rfl

theorem exec_linkDie {t : State} (h : s.linkForward l p = t) : exec (.packetForward (.linkDie l) p) s = .next (t.returnCredits l) := h ▸ rfl

/-- A packet waits in a link die, and nothing is sent but flits. -/
def LinkWaits (s : State) (l : Nat) (p : Packet) (t : State) : Prop :=
  RestKept s t ∧ (∃ os, t.out = s.out ++ os ∧ AllFlits os) ∧ p ∈ (t.link l).waiting

/-- A packet that a link die keeps waits there; what its ports owe goes back all the same. -/
theorem runs_linkDie_waits (h : s.linkForward l p = s.linkWait l p) : Runs (.packetForward (.linkDie l) p) s (LinkWaits s l p) := by
  have hcred := returnCredits_onlyFlits (s.linkWait l p) l
  have hwait := linkWait_onlyFabric s l p
  refine ⟨(s.linkWait l p).returnCredits l, exec_linkDie h, hwait.rest_flits hcred, hwait.out_flits hcred, ?_⟩
  rw [hcred.link_eq]
  exact linkWait_waiting s l p

/-- A packet that a link die hands to the mesh enters it by a port that may take it, or waits. -/
theorem runs_linkDie_inward (h : s.linkForward l p = s.linkInto l p) :
    (s.waysIn l p ≠ [] → ∃ k ∈ s.waysIn l p, Runs (.packetForward (.linkDie l) p) s fun t => RestKept s t ∧
      (∃ os, t.out = s.out ++ .forward (.linkDie l) (32 + k) (hopped p) :: os ∧ AllFlits os) ∧
      ∃ x ∈ (t.die ((linkAttach l).getD k 0)).bufs, x.p = hopped p ∧ x.side = l / 2) ∧
    (s.waysIn l p = [] → Runs (.packetForward (.linkDie l) p) s (LinkWaits s l p)) := by
  refine ⟨fun hopen => ?_, fun hshut => runs_linkDie_waits (h.trans (linkInto_shut hshut))⟩
  obtain ⟨k, hk, hfab, hbuf⟩ := linkInto_open hopen
  have hcred := returnCredits_onlyFlits (s.linkInto l p) l
  refine ⟨k, hk, (s.linkInto l p).returnCredits l, exec_linkDie h, hfab.rest_flits hcred, hfab.out_flits hcred, ?_⟩
  rw [hcred.die_eq]
  exact hbuf

/-- A packet of another module leaves by its port while the other side has room for its units, and they are counted as in use there (R358). -/
theorem runs_linkDie_outward {q : Nat} (h : s.linkForward l p = s.linkSend l q p) (hq : q / 4 = l)
    (hroom : Tab.look (s.port q).used 0 p.cls.toNat + pktUnits p ≤ 512) : Runs (.packetForward (.linkDie l) p) s fun t =>
      RestKept s t ∧ (∃ os, t.out = s.out ++ .forward (.linkDie l) q (hopped p) :: os ∧ AllFlits os) ∧
      Tab.look (t.port q).used 0 p.cls.toNat = Tab.look (s.port q).used 0 p.cls.toNat + pktUnits p ∧
      ((s.port q).tx.length + 64 * pktUnits p < 608 → p.payload.length = 64 * p.lenUnits.toNat →
        (t.port q).tx = (s.port q).tx ++ pktBytes (hopped p)) := by
  have hflits : OnlyFlits (s.outBy l q p) (((s.outBy l q p).stream q (hopped p)).returnCredits l) := (stream_onlyFlits ..).trans (returnCredits_onlyFlits ..)
  refine ⟨_, exec_linkDie (h.trans (linkSend_room hq hroom)), (outBy_onlyFabric ..).rest_flits hflits, (outBy_onlyFabric ..).out_flits hflits, ?_, ?_⟩
  · rw [returnCredits_port (g := Port.used) (fun _ _ _ _ => rfl), stream_used, outBy_used]
  · intro hfew hlen
    have hbytes : (pktBytes (hopped p)).length = 64 * pktUnits p := length_pktBytes hlen
    rw [returnCredits_port (g := Port.tx) (fun _ _ _ _ => rfl), stream_tx (by rw [outBy_tx, hbytes]; exact hfew), outBy_tx]

end

/-! ### The statement -/

/-- Settles O32: a junction's ways are those of `junctionForward_sound`, each with its rule (`leaves_emit_leavesBy`, `goesOut_link_credit`,
`runs_junction_crosses`, `runs_junction_waits`); a link die's are those of `linkForward_sound`, by `runs_linkDie_inward`, `runs_linkDie_outward` and
`runs_linkDie_waits`. -/
theorem forwarding : Obligations.Forwarding := by
  unfold Obligations.Forwarding
  intro s p rest flits
  refine ⟨fun hhchk hhops => ⟨fun d b port htarget hdrain hopen => ?_, fun l hl => ?_⟩, fun l hl hbad => ?_⟩
  · have hfwd := junctionForward_sound hhchk hhops htarget hdrain hopen
    refine ⟨fun hb hport => ?_, fun hb hport hdown => ?_, fun hb hport hup => ?_, fun hb hesc hturns => ?_, fun hb hno => ?_⟩
    · rw [if_pos hb, if_pos hport] at hfwd
      exact runs_junction hfwd (leaves_emit_leavesBy (woken_mem ..) (woken_parts ..) (woken_out ..) (woken_dies ..))
    · rw [if_pos hb, if_neg hport, if_pos hdown] at hfwd
      exact runs_junction_waits hfwd
    · rw [if_pos hb, if_neg hport, if_neg (ne_true_of_eq_false hup)] at hfwd
      exact ⟨fun hhub => runs_junction (hfwd.trans (goesOut_hub hhub)) (leaves_emit_leavesBy rfl rfl rfl rfl),
        fun l k hlink => ⟨fun hl hc => runs_junction hfwd (goesOut_link_credit hlink hl hc),
          fun hno => runs_junction_waits (hfwd.trans (goesOut_link_noCredit hlink hno))⟩⟩
    · obtain ⟨k, hk, hmost, hmax⟩ := mostCredits_spec s d (chanOf p) _ hturns
      rw [if_neg hb, if_neg (by simp [hesc]), hmost] at hfwd
      exact ⟨k, hk, hmax, runs_junction_crosses hfwd⟩
    · have hescape : s.junctionForward d p = s.escapeForward d b p := by
        rw [hfwd, if_neg hb]
        split
        · rfl
        · rw [hno.resolve_left ‹_›]; rfl
      refine ⟨fun k hk => runs_junction_crosses (hescape.trans ?_), fun hcut => runs_junction_waits (hescape.trans ?_)⟩
      · simp [State.escapeForward, hk]
      · simp [State.escapeForward, hcut]
  · have hfwd := linkForward_sound hl hhchk hhops
    refine ⟨fun hours => ⟨fun hep => ?_, fun hep => ?_⟩, fun hother => ⟨fun hnone => ?_, fun q hq => ?_⟩⟩
    · rw [if_pos hours, if_neg hep] at hfwd
      exact runs_linkDie_inward hfwd
    · rw [if_pos hours, if_pos hep] at hfwd
      exact runs_linkDie_waits hfwd
    · rw [if_neg hother, hnone] at hfwd
      exact runs_linkDie_waits hfwd
    · rw [if_neg hother, hq] at hfwd
      exact ⟨fun hfar => runs_linkDie_inward (hfwd.trans (if_neg hfar)), fun hnear hroom => runs_linkDie_outward hfwd hnear hroom,
        fun hnear hfull => runs_linkDie_waits (hfwd.trans (linkSend_full hnear hfull))⟩
  · -- A packet whose header fails leaves the buffers and is counted.
    have hleft := linkLeaves_onlyFabric s l p
    refine ⟨_, rfl, (s.linkLeaves l p).bump 0x5100 2 1, hleft.rest, by simpa using hleft.out_eq, ?_, ?_⟩
    · rw [bump_obj_same, hleft.obj_eq]
    · exact congrArg (fun t : State => t.returnCredits l) ((if_neg (by simp [hl])).trans (if_pos hbad))

end Sys2Proof.Machine
end

section
/-! SUPPORT. The Vector Station's registers (R182, R183): what a register reads as once words are put in it, and a group of registers once elements are put
in it; and with them the statement about predication (R39, R192). -/

namespace Sys2Proof.Machine

section
variable {r : VRegs} {f : Nat → Nat → Option Nat} {base n ty row col : Nat}

/-! ### Registers and their words -/

/-- The registers with words put in one of them, as `setGroup` puts them: a register of zeros is not listed. -/
def VRegs.putWords (r : VRegs) (k : Nat) (ws : List Word32) : VRegs :=
  { r with t := Tab.put r.t [] k (if ws.all (· == 0) then [] else ws) }

theorem words_eq_ite (r : VRegs) (k : Nat) :
    r.words k = if Tab.look r.t [] k = [] then List.replicate 1024 0 else Tab.look r.t [] k := by
  unfold VRegs.words
  split <;> simp_all

/-- Whether listed or not, a register put with 1024 words reads as them. -/
theorem words_putWords {ws : List Word32} (hlen : ws.length = 1024) (k j : Nat) :
    (r.putWords k ws).words j = if j = k then ws else r.words j := by
  rw [words_eq_ite, words_eq_ite r]
  simp only [VRegs.putWords, tab_look_put]
  by_cases hjk : j = k
  · rw [if_pos hjk, if_pos hjk]
    by_cases hzero : ws.all (· == 0) = true
    · rw [if_pos hzero, if_pos rfl]
      exact (List.eq_replicate_iff.mpr ⟨hlen, by simpa using hzero⟩).symm
    · rw [if_neg hzero, if_neg (List.ne_nil_of_length_pos (by omega))]
  · rw [if_neg hjk, if_neg hjk]

/-! ### A group written -/

/-- What `setGroup` leaves at place `x.2` of the group's register `k`, where the word `x.1` was. -/
def mergedWord (ty k : Nat) (f : Nat → Nat → Option Nat) (x : Word32 × Nat) : Word32 :=
  let row := x.2 / 32
  let q := x.2 % 32
  if ty = 1 then
    BitVec.ofNat 32 ((f row (k * 64 + 2 * q)).getD (bits x.1.toNat 0 16) + (f row (k * 64 + 2 * q + 1)).getD (bits x.1.toNat 16 16) * 2 ^ 16)
  else match f row (k * 32 + q) with
    | some y => BitVec.ofNat 32 y
    | none => x.1

/-- The words of the group's register `k` once written. -/
def mergedWords (ty k : Nat) (f : Nat → Nat → Option Nat) (ws : List Word32) : List Word32 := ws.zipIdx.map (mergedWord ty k f)

@[simp] theorem length_mergedWords (ty k : Nat) (f : Nat → Nat → Option Nat) (ws : List Word32) : (mergedWords ty k f ws).length = ws.length := by
  simp [mergedWords]

/-- A group is written register by register. -/
theorem setGroup_succ (r : VRegs) (base n ty : Nat) (f : Nat → Nat → Option Nat) :
    r.setGroup base (n + 1) ty f =
      (r.setGroup base n ty f).putWords (base + n) (mergedWords ty n f ((r.setGroup base n ty f).words (base + n))) := by
  unfold VRegs.setGroup
  rw [List.range_succ, List.foldl_append]
  rfl

/-- The registers of the group hold what they held merged with `f`, and the others what they held. -/
theorem words_setGroup (hlen : ∀ k, (r.words k).length = 1024) (n j : Nat) :
    (r.setGroup base n ty f).words j = if base ≤ j ∧ j < base + n then mergedWords ty (j - base) f (r.words j) else r.words j := by
  induction n generalizing j with
  | zero => rw [if_neg (by omega)]; rfl
  | succ n ih =>
    have hold : (r.setGroup base n ty f).words (base + n) = r.words (base + n) := by rw [ih, if_neg (by omega)]
    rw [setGroup_succ, hold, words_putWords (by simp [hlen])]
    by_cases hj : j = base + n
    · rw [if_pos hj, if_pos (by omega), hj, Nat.add_sub_cancel_left]
    · have hsame : (base ≤ j ∧ j < base + (n + 1)) ↔ (base ≤ j ∧ j < base + n) := by omega
      rw [if_neg hj, ih, if_congr hsame rfl rfl]

/-! ### Elements -/

/-- The place of an element's word within its register. -/
def wordAt (ty row col : Nat) : Nat := if ty = 1 then row * 32 + col / 2 else row * 32 + col

theorem vWidth_pos (ty : Nat) : 0 < vWidth ty := by
  unfold vWidth; split <;> omega

theorem wordAt_lt (hrow : row < 32) (hcol : col < vWidth ty) : wordAt ty row col < 1024 := by
  by_cases hty : ty = 1
  · simp only [vWidth, wordAt, if_pos hty] at hcol ⊢; omega
  · simp only [vWidth, wordAt, if_neg hty] at hcol ⊢; omega

/-- The element of a word at an even or odd column: half the word in the 16-bit type, and the word in the others. -/
def elemOf (ty col : Nat) (w : Word32) : Nat := if ty = 1 then bits w.toNat (16 * (col % 2)) 16 else w.toNat

/-- An element of a group is one of its register's words, or half of it. -/
theorem group_eq_elemOf (hcol : col < n * vWidth ty) :
    r.group base n ty row col = elemOf ty (col % vWidth ty) ((r.words (base + col / vWidth ty)).getD (wordAt ty row (col % vWidth ty)) 0) := by
  have hk : col / vWidth ty < n := (Nat.div_lt_iff_lt_mul (vWidth_pos ty)).mpr hcol
  simp only [VRegs.group, wordElem, elemOf, wordAt]
  split <;> simp [Array.getD_eq_getD_getElem?, hk]

theorem bits_lt (v lo w : Nat) : bits v lo w < 2 ^ w := Nat.mod_lt _ (Nat.two_pow_pos w)

/-- A word put together from two halves gives back each of them. -/
theorem bits_halves {lo hi : Nat} (hlo : lo < 2 ^ 16) (hhi : hi < 2 ^ 16) {b : Nat} (hb : b < 2) :
    bits (BitVec.ofNat 32 (lo + hi * 2 ^ 16)).toNat (16 * b) 16 = if b = 0 then lo else hi := by
  have hfits : lo + hi * 2 ^ 16 < 2 ^ 32 := by omega
  rw [bits, BitVec.toNat_ofNat, Nat.mod_eq_of_lt hfits, Nat.shiftRight_eq_div_pow]
  obtain rfl | rfl : b = 0 ∨ b = 1 := by omega
  · rw [if_pos rfl, Nat.mul_zero, pow_zero, Nat.div_one]; omega
  · rw [if_neg one_ne_zero, Nat.mul_one]; omega

theorem getD_lt {o : Option Nat} {d b : Nat} (ho : ∀ z, o = some z → z < b) (hd : d < b) : o.getD d < b := by
  cases o with
  | none => exact hd
  | some z => exact ho z rfl

/-- A merged word holds what `f` gives for an element, and the element it held where `f` gives none. -/
theorem elemOf_mergedWord (hf : ∀ x y z, f x y = some z → z < 2 ^ (if ty = 1 then 16 else 32)) (k : Nat) (w : Word32) (hcol : col < vWidth ty) :
    elemOf ty col (mergedWord ty k f (w, wordAt ty row col)) = (f row (k * vWidth ty + col)).getD (elemOf ty col w) := by
  by_cases hty : ty = 1
  · -- Two elements share a word: the even column is its lower half, the odd one its upper half.
    simp only [elemOf, mergedWord, wordAt, vWidth, if_pos hty] at hf hcol ⊢
    have hrow : (row * 32 + col / 2) / 32 = row := by omega
    have hq : (row * 32 + col / 2) % 32 = col / 2 := by omega
    rw [hrow, hq, bits_halves (getD_lt (hf _ _) (bits_lt ..)) (getD_lt (hf _ _) (bits_lt ..)) (Nat.mod_lt _ two_pos)]
    obtain heven | hodd := Nat.mod_two_eq_zero_or_one col
    · have hc : k * 64 + 2 * (col / 2) = k * 64 + col := by omega
      rw [if_pos heven, heven, hc]
    · have hc : k * 64 + 2 * (col / 2) + 1 = k * 64 + col := by omega
      rw [if_neg (by omega), hodd, hc]
  · -- One element fills a word.
    simp only [elemOf, mergedWord, wordAt, vWidth, if_neg hty] at hf hcol ⊢
    have hrow : (row * 32 + col) / 32 = row := by omega
    have hq : (row * 32 + col) % 32 = col := by omega
    rw [hrow, hq]
    cases h : f row (k * 32 + col) with
    | none => rfl
    | some z => exact (BitVec.toNat_ofNat ..).trans (Nat.mod_eq_of_lt (hf _ _ _ h))

theorem getD_mergedWords {ws : List Word32} {k i : Nat} (hi : i < ws.length) :
    (mergedWords ty k f ws).getD i 0 = mergedWord ty k f (ws.getD i 0, i) := by
  simp [mergedWords, hi]

/-- A group once written reads as what `f` gives, and as what it held where `f` gives nothing. -/
theorem group_setGroup (hlen : ∀ k, (r.words k).length = 1024) (hf : ∀ x y z, f x y = some z → z < 2 ^ (if ty = 1 then 16 else 32))
    (hrow : row < 32) (hcol : col < n * vWidth ty) :
    (r.setGroup base n ty f).group base n ty row col = (f row col).getD (r.group base n ty row col) := by
  have hw := vWidth_pos ty
  have hk : col / vWidth ty < n := (Nat.div_lt_iff_lt_mul hw).mpr hcol
  have hmod : col % vWidth ty < vWidth ty := Nat.mod_lt _ hw
  rw [group_eq_elemOf hcol, group_eq_elemOf hcol, words_setGroup hlen, if_pos ⟨Nat.le_add_right .., Nat.add_lt_add_left hk _⟩, Nat.add_sub_cancel_left,
    getD_mergedWords (by rw [hlen]; exact wordAt_lt hrow hmod), elemOf_mergedWord hf _ _ hmod, Nat.div_add_mod']

end

/-! ### A lane-wise result -/

section
variable {v : VX} {r : VRegs} {f : Nat → Nat → Nat × Byte} {row col : Nat}

/-- The results of the unmasked lanes, row by row. -/
def VX.results (v : VX) (r : VRegs) (f : Nat → Nat → Nat × Byte) : Array (Option (Nat × Byte)) :=
  ((List.range (32 * v.width)).map fun i => if v.live r (i / v.width) (i % v.width) then some (f (i / v.width) (i % v.width)) else none).toArray

/-- The element that a lane-wise result puts at a position, if any. -/
def VX.puts (v : VX) (r : VRegs) (f : Nat → Nat → Nat × Byte) (row col : Nat) : Option Nat :=
  match (v.results r f).getD (row * v.width + col) none with
  | some y => some y.1
  | none => if v.pmode && (!v.scol || col == v.strip) then some 0 else none

theorem map_fst_eq_setGroup (v : VX) (r : VRegs) (f : Nat → Nat → Nat × Byte) : (v.map r f).1 = r.setGroup (vDst v.ins) v.g v.ty (v.puts r f) := rfl

theorem results_getD (v : VX) (r : VRegs) (f : Nat → Nat → Nat × Byte) (i : Nat) :
    (v.results r f).getD i none =
      if i < 32 * v.width ∧ v.live r (i / v.width) (i % v.width) = true then some (f (i / v.width) (i % v.width)) else none := by
  by_cases hi : i < 32 * v.width <;> simp [VX.results, Array.getD_eq_getD_getElem?, hi]

/-- What is put at a position of the group: the result where it is unmasked, and +0 or nothing where it is masked. -/
theorem puts_eq (hrow : row < 32) (hcol : col < v.width) :
    v.puts r f row col =
      if v.live r row col then some (f row col).1 else if v.pmode && (!v.scol || col == v.strip) then some 0 else none := by
  have hdiv : (row * v.width + col) / v.width = row := by
    rw [Nat.mul_comm, Nat.mul_add_div (by omega), Nat.div_eq_of_lt hcol, Nat.add_zero]
  have hmod : (row * v.width + col) % v.width = col := by
    rw [Nat.mul_add_mod_self_right, Nat.mod_eq_of_lt hcol]
  have hin : row * v.width + col < 32 * v.width := calc
    row * v.width + col < (row + 1) * v.width := by rw [Nat.succ_mul]; exact Nat.add_lt_add_left hcol _
    _ ≤ 32 * v.width := Nat.mul_le_mul_right _ hrow
  unfold VX.puts
  rw [results_getD, hdiv, hmod]
  by_cases hlive : v.live r row col = true <;> simp [hin, hlive]

/-- Nothing is put but results and +0. -/
theorem puts_lt {b : Nat} (hf : ∀ x y, (f x y).1 < b) {z : Nat} (h : v.puts r f row col = some z) : z < b := by
  have hb : 0 < b := Nat.zero_lt_of_lt (hf 0 0)
  unfold VX.puts at h
  rw [results_getD] at h
  split at h
  · next y hy =>
    obtain ⟨-, ⟨⟩⟩ := Option.ite_none_right_eq_some.mp hy
    obtain ⟨⟩ := h
    exact hf _ _
  · obtain ⟨-, ⟨⟩⟩ := Option.ite_none_right_eq_some.mp h
    exact hb

end

/-- Settles O28: the group is written where `VX.puts` gives an element (`group_setGroup`), and that is the result in an unmasked lane, +0 in a masked one
that `pmode` clears, and nothing in the others (`puts_eq`). -/
theorem vectorMask : Obligations.VectorMask := by
  unfold Obligations.VectorMask
  intro v r f row col _ hrow hcol hf hlen
  rw [map_fst_eq_setGroup, group_setGroup hlen (fun _ _ _ => puts_lt hf) hrow hcol, puts_eq hrow hcol]
  split
  · rfl
  · split <;> rfl

end Sys2Proof.Machine
end

section
/-! SUPPORT. The control core's register instructions, immediates and branches (R57 to R62): one lemma for what an instruction that writes rd does once it is
fetched, one for a branch, and the statements about them. -/

namespace Sys2Proof.Machine

section
variable {s u : State} {c : Nat} (hlive : s.coreLive c = true)

include hlive

variable (hf : s.fetch c 4 = (u, true))

include hf

/-- An instruction whose meaning is `alu` completes with its value, however that is written. -/
theorem runs_alu {i : Instr} {rd : Reg} {v w : Word} (hi : exec i s = s.alu c rd v) (hv : v = w) : Runs i s (fun t => Result u t c rd w 4) := by
  subst hv
  exact ⟨_, hi.trans (onCore_live hlive hf _), alu_result u c rd v 4⟩

/-- A conditional branch goes where its condition says, however that is written. -/
theorem runs_branch {i : Instr} {b take : Bool} {off : BitVec 14} (hi : exec i s = s.branch c b off) (hb : b = take) :
    Runs i s (fun t => t = u.updCl c fun cl => { cl with core := { cl.core with pc := cl.core.pc + if take then 4 * off.signExtend 64 else 4 } }) := by
  subst hb
  exact ⟨_, hi.trans (onCore_live hlive hf _), rfl⟩

end

theorem minu_eq (a b : Word) : (if a ≤ b then a else b) = BitVec.ofNat 64 (min a.toNat b.toNat) := by
  by_cases h : a ≤ b
  · rw [if_pos h, Nat.min_eq_left h, BitVec.ofNat_toNat, BitVec.setWidth_eq]
  · rw [if_neg h, Nat.min_eq_right (Nat.le_of_lt (Nat.lt_of_not_le h)), BitVec.ofNat_toNat, BitVec.setWidth_eq]

theorem maxu_eq (a b : Word) : (if a ≤ b then b else a) = BitVec.ofNat 64 (max a.toNat b.toNat) := by
  by_cases h : a ≤ b
  · rw [if_pos h, Nat.max_eq_right h, BitVec.ofNat_toNat, BitVec.setWidth_eq]
  · rw [if_neg h, Nat.max_eq_left (Nat.le_of_lt (Nat.lt_of_not_le h)), BitVec.ofNat_toNat, BitVec.setWidth_eq]

/-- A condition as a register value. -/
theorem boolW_decide (p : Prop) [Decidable p] : boolW (decide p) = if p then 1 else 0 := by
  by_cases h : p <;> simp [boolW, h]

/-- Settles O5: each of the thirteen is `alu` of its value. -/
theorem aluRegister : Obligations.AluRegister := by
  unfold Obligations.AluRegister
  intro s u c rd ra rb hlive hf
  have alu := @runs_alu s u c hlive hf
  exact ⟨alu rfl rfl, alu rfl rfl, alu rfl rfl, alu rfl rfl, alu rfl rfl, alu rfl rfl, alu rfl rfl, alu rfl rfl, alu rfl rfl, alu rfl (minu_eq ..),
    alu rfl (maxu_eq ..), alu rfl (boolW_decide _), alu rfl (boolW_decide _)⟩

/-- QSTAT of a queue that R60 numbers reads its status word; of another it ends the consignment. -/
theorem exec_qstat {s u : State} {c : Nat} (rd : Reg) (q : BitVec 5) (hlive : s.coreLive c = true) (hf : s.fetch c 4 = (u, true)) :
    exec (.qstat c rd q) s =
      .next (if queueKnown q.toNat then (u.setReg c rd (u.qstatus c q.toNat)).pcStep c 4 else u.failCore c stTimetable) := by
  change execQstat c rd q s = _
  exact onCore_live hlive hf _

/-- LIW puts its value into rd, and the next instruction lies 12 bytes on. -/
theorem exec_liw {s u : State} {c : Nat} (rd : Reg) (v : Word) (hlive : s.coreLive c = true) (hf : s.fetch c 12 = (u, true)) :
    exec (.liw c rd v) s = .next ((u.setReg c rd v).pcStep c 12) := by
  change execLiw c rd v s = _
  exact onCore_live hlive hf _

/-- Settles O6: the immediate forms and RDCTR are `alu` of their value; LIW and QSTAT read it from the state that the fetch leaves. -/
theorem aluImmediate : Obligations.AluImmediate := by
  unfold Obligations.AluImmediate
  intro s u c rd ra hlive
  refine ⟨fun hf => ?_, fun hf v => ⟨_, exec_liw rd v hlive hf, alu_result u c rd v 12⟩⟩
  have alu := @runs_alu s u c hlive hf
  refine ⟨fun imm => ⟨alu rfl rfl, alu rfl rfl, alu rfl rfl, alu rfl rfl⟩, fun sh => ⟨alu rfl rfl, alu rfl rfl, alu rfl rfl⟩, fun n => alu rfl rfl,
    fun q hq => ?_, fun q hq => ?_⟩
  · exact ⟨_, (exec_qstat rd q hlive hf).trans (congrArg _ (if_pos hq)), alu_result ..⟩
  · rw [exec_qstat rd q hlive hf, hq, if_neg Bool.false_ne_true]

/-- Settles O7: the six conditional branches are `branch` of their condition; JMP and JR set pc. -/
theorem branches : Obligations.Branches := by
  unfold Obligations.Branches
  intro s u c ra rb hlive hf goes
  have br := @runs_branch s u c hlive hf
  have hjmp : ∀ off : BitVec 24, exec (.jmp c off) s = .next (u.pcStep c (4 * off.signExtend 64)) := by
    intro off
    change execJmp c off s = _
    exact onCore_live hlive hf _
  have hjr : exec (.jr c ra) s = .next (if (u.reg c ra).toNat % 4 = 0 then u.pcSet c (u.reg c ra) else u.failCore c stTimetable) := by
    change execJr c ra s = _
    exact onCore_live hlive hf _
  refine ⟨fun off => ⟨br rfl rfl, br rfl decide_not.symm, br rfl rfl, br rfl ?_, br rfl rfl, br rfl ?_⟩, fun off => ⟨_, hjmp off, rfl⟩,
    fun h => ⟨_, hjr.trans (congrArg _ (if_pos h)), rfl⟩, fun h => by rw [hjr, if_neg h]⟩
  · simp only [BitVec.slt, ← decide_not, Int.not_lt]
  · simp only [BitVec.ult, ← decide_not, Nat.not_lt]

/-- Settles O2: each clause is the value of a field at reset, or a read of a table that lists nothing. -/
theorem resetState : Obligations.ResetState := by
  unfold Obligations.ResetState
  refine ⟨rfl, rfl, rfl, rfl, by decide, fun _ => rfl, fun c => ⟨rfl, fun _ => rfl, fun r => ?_, fun _ => rfl, fun _ => rfl⟩,
    fun p => ⟨rfl, rfl, rfl, rfl, rfl, rfl, rfl⟩, fun idx sub => ⟨rfl, rfl⟩, rfl, rfl, fun q => ?_⟩
  · unfold State.reg; split <;> rfl
  · cases q <;> rfl

end Sys2Proof.Machine
end

section
/-! SUPPORT. Failures (R61, R62, R72 to R74, R100): what the stop of a consignment on a cluster and a failure report leave, how an instruction is fetched, and
the statement about failures of the control core. -/

namespace Sys2Proof.Machine

/-! ### Entries -/

theorem entry_congr {s t : State} (h : t.parts = s.parts) (p q : Nat) : t.entry p q = s.entry p q := by simp [State.entry, State.pt, h]

@[simp] theorem updCl_entry (s : State) (c : Nat) (f : Cluster → Cluster) (p q : Nat) : (s.updCl c f).entry p q = s.entry p q := rfl

/-- An entry after an update of it that keeps its number. -/
theorem entry_updEntry {s : State} {p q : Nat} {f : Entry → Entry} (hf : ∀ e, (f e).seq = e.seq) : (s.updEntry p q f).entry p q = (s.entry p q).map f := by
  have hseq : (fun e => e.seq == q) ∘ (fun e => if e.seq = q then f e else e) = fun e : Entry => e.seq == q := by
    funext e
    by_cases h : e.seq = q <;> simp [h, hf]
  simp only [State.entry, State.updEntry, updPt_pt_same, List.find?_map, hseq]
  cases h : (s.pt p).entries.find? fun e => e.seq == q with
  | none => rfl
  | some e => simp [show e.seq = q by simpa using List.find?_some h]

/-- The reports that an open entry has gathered. -/
def State.failsOf (s : State) (p q : Nat) : Option (List Failure) := (s.entry p q).map Entry.fails

theorem failsOf_congr {s t : State} (h : t.parts = s.parts) (p q : Nat) : t.failsOf p q = s.failsOf p q := by simp [State.failsOf, entry_congr h]

@[simp] theorem updCl_failsOf (s : State) (c : Nat) (f : Cluster → Cluster) (p q : Nat) : (s.updCl c f).failsOf p q = s.failsOf p q := rfl

/-- An update of an entry that keeps its number and its reports leaves the reports. -/
theorem failsOf_updEntry_same {s : State} {p q : Nat} {f : Entry → Entry} (hf : ∀ e, (f e).seq = e.seq) (hr : ∀ e, (f e).fails = e.fails) :
    (s.updEntry p q f).failsOf p q = s.failsOf p q := by
  rw [State.failsOf, entry_updEntry hf, Option.map_map, State.failsOf]
  exact congrArg (Option.map · _) (funext hr)

/-- An entry without what its speculative run has counted. -/
def Entry.unspent (e : Entry) : Entry := { e with spent := [] }

/-- Where partitions are the same but for what is counted, entries are. -/
theorem sameParts_entry {s t : State} (h : SameParts s t) (p q : Nat) : (t.entry p q).map Entry.unspent = (s.entry p q).map Entry.unspent := by
  have key : ∀ u : State, (u.entry p q).map Entry.unspent = (u.pt p).seen.entries.find? fun e => e.seq == q := by
    intro u
    simp only [State.entry, Part.seen, List.find?_map]
    rfl
  rw [key, key, h p]

/-- What reads, writes and watches do leaves the reports. -/
theorem calm_failsOf {s t : State} (h : Calm s t) (p q : Nat) : t.failsOf p q = s.failsOf p q := by
  have key := congrArg (Option.map Entry.fails) (sameParts_entry h.pt p q)
  rwa [Option.map_map, Option.map_map] at key

@[simp] theorem tally_failsOf (s : State) (p q : Nat) (bs : List (Nat × Nat × Nat)) : (s.tally p q bs).failsOf p q = s.failsOf p q :=
  calm_failsOf (calm_tally s p q bs) p q

/-- An entry with the reports named. -/
theorem entry_of_failsOf {s : State} {p q : Nat} {l : List Failure} (h : s.failsOf p q = some l) : ∃ x, s.entry p q = some x ∧ x.fails = l :=
  Option.map_eq_some_iff.1 h

/-! ### Windows that start to close (R100) -/

/-- A change of every value of a table that leaves the default reads through. -/
theorem tab_look_map {α : Type} (t : Tab α) {d : α} {f : α → α} (hd : f d = d) (k : Nat) : Tab.look (t.map fun e => (e.1, f e.2)) d k = f (Tab.look t d k) := by
  unfold Tab.look
  rw [List.find?_map]
  cases h : t.find? ((fun e => e.1 == k) ∘ fun e => (e.1, f e.2)) with
  | none => rw [show t.find? (fun e => e.1 == k) = none from h]; exact hd.symm
  | some e => rw [show t.find? (fun e => e.1 == k) = some e from h]; rfl

/-- What a table of lists reads lies in one of its lists. -/
theorem mem_look {α : Type} {t : Tab (List α)} {k : Nat} {x : α} (h : x ∈ Tab.look t [] k) : ∃ e ∈ t, x ∈ e.2 := by
  unfold Tab.look at h
  split at h
  · next e he => exact ⟨e, List.mem_of_find?_eq_some he, h⟩
  · simp at h

theorem refuseQueued_parts (s : State) (c : Nat) (f : Nat → Bool) : (s.refuseQueued c f).parts = s.parts :=
  (foldl_same (P := State.parts) (by intros; rfl) _ _).trans rfl

theorem refuseQueued_mem (s : State) (c : Nat) (f : Nat → Bool) : (s.refuseQueued c f).mem = s.mem :=
  (foldl_same (P := State.mem) (by intros; rfl) _ _).trans rfl

theorem refuseQueued_clusters (s : State) (c : Nat) (f : Nat → Bool) :
    (s.refuseQueued c f).clusters = (s.updCl c fun cl => { cl with tokQ := cl.tokQ.filter fun q => !f q.window }).clusters :=
  foldl_same (P := State.clusters) (by intros; rfl) _ _

@[simp] theorem closeWindows_parts (s : State) (c : Nat) : (s.closeWindows c).parts = s.parts := refuseQueued_parts ..
@[simp] theorem closeWindows_mem (s : State) (c : Nat) : (s.closeWindows c).mem = s.mem := refuseQueued_mem ..

/-- When every window of a cluster starts to close, no request waits in its queue, and nothing else of it changes. -/
@[simp] theorem closeWindows_cl (s : State) (c : Nat) :
    (s.closeWindows c).cl c = { s.cl c with wins := (s.cl c).wins.map fun e => (e.1, e.2.close), tokQ := [] } := by
  unfold State.closeWindows
  rw [State.cl, refuseQueued_clusters]
  exact (updCl_cl_same ..).trans (by simp)

theorem closeWindows_win (s : State) (c w : Nat) : (s.closeWindows c).win c w = (s.win c w).close := by
  rw [State.win, closeWindows_cl]
  exact tab_look_map _ rfl _

/-! ### A consignment stopped on a cluster (R72) -/

@[simp] theorem returnToken_run (s : State) (c k part : Nat) (h : HeldToken) : ((s.returnToken c part h).cl k).run = (s.cl k).run := by
  have hcl : ((s.updCl c fun cl => { cl with nextTag := (s.cl c).nextTag + 1 }).cl k).run = (s.cl k).run := by
    by_cases hk : k = c
    · subst hk; simp
    · rw [updCl_cl_ne _ _ _ _ hk]
  unfold State.returnToken State.send
  dsimp only
  split
  · rfl
  · split <;> exact hcl

theorem returnToken_parts (s : State) (c part : Nat) (h : HeldToken) : (s.returnToken c part h).parts = s.parts := by
  unfold State.returnToken State.send
  dsimp only
  split
  · rfl
  · split <;> rfl

/-- The consignment of `r` has stopped on cluster `c`. -/
structure RunStopped (t : State) (c : Nat) (r : Run) : Prop where
  run : (t.cl c).run = some { r with stopped := true, begun := [] }
  held : (t.cl c).held = []
  tokWait : (t.cl c).tokWait = []
  tokQ : (t.cl c).tokQ = []
  watches : (t.cl c).watches = []
  heldRecs : (t.cl c).st.heldRecs = []
  sidings : ∀ st, ∀ w ∈ t.siding c st, ¬(w.part = r.part ∧ w.seq = r.seq)
  wins : ∀ w, (t.win c w).enable = true → (t.win c w).closing = true

/-- A failure report joins its entry, and its kind is counted. -/
def State.reported (s : State) (p q : Nat) (f : Failure) : State :=
  ((s.updEntry p q fun e => { e with fails := e.fails ++ [f] }).countFault f.status).tally p q (faultCounts f.status)

section
variable {s : State} {c : Nat} {r : Run} (hrun : (s.cl c).run = some r) (hstop : r.stopped = false)

include hrun hstop

/-- The stop of a consignment: its flags join, the bytes begun are undefined when it fails, tokens go back, watches end, and the cluster is cleared of it. -/
theorem stopOn_stopped (failed : Bool) : RunStopped (s.stopOn c failed) c r := by
  simp only [State.stopOn, hrun, hstop, Bool.false_eq_true, if_false]
  generalize hv : (if failed = true then (s.joinFlags r.part r.seq (s.sidingFlags c r)).scrambleAll r.begun else s.joinFlags r.part r.seq (s.sidingFlags c r)) = v
  have hvrun : (v.cl c).run = some r := by
    subst hv
    split
    · rw [scrambleAll_cl]; exact hrun
    · exact hrun
  generalize hu : ((s.cl c).held.foldl (fun s h => s.returnToken c r.part h) v).endWatches c = u
  have hurun : (u.cl c).run = some r := by
    subst hu
    rw [calm_run (calm_endWatches ..)]
    exact (foldl_same (P := fun s => (s.cl c).run) (by intros; exact returnToken_run ..) _ v).trans hvrun
  constructor
  case run => simp [hurun]
  case sidings =>
    intro st w hw
    obtain ⟨e, he, hwe⟩ := mem_look hw
    simp only [closeWindows_cl, updCl_cl_same, List.mem_filter, List.mem_map] at he
    obtain ⟨⟨e0, -, rfl⟩, -⟩ := he
    simpa [imp_iff_not_or] using (List.mem_filter.1 hwe).2
  case wins =>
    intro w
    rw [closeWindows_win]
    unfold Win.close
    split
    · exact fun _ => rfl
    · exact fun h => absurd h ‹_›
  all_goals simp

omit hrun hstop in
/-- A stop leaves the reports. -/
theorem stopOn_failsOf (failed : Bool) (hrun : (s.cl c).run = some r) : (s.stopOn c failed).failsOf r.part r.seq = s.failsOf r.part r.seq := by
  simp only [State.stopOn, hrun]
  split
  · rfl
  · rw [failsOf_congr (closeWindows_parts ..), updCl_failsOf, calm_failsOf (calm_endWatches ..)]
    refine (foldl_same (P := fun s => s.failsOf r.part r.seq) (by intros; exact failsOf_congr (returnToken_parts ..) ..) _ _).trans ?_
    have hjoin := failsOf_updEntry_same (s := s) (p := r.part) (q := r.seq) (f := fun e => { e with flags := e.flags ||| s.sidingFlags c r })
      (fun _ => rfl) fun _ => rfl
    split
    · exact (failsOf_congr (scrambleAll_parts ..) ..).trans hjoin
    · exact hjoin

omit hrun hstop in
theorem countFault_same {β : Type} {P : State → β} (hP : ∀ s i j n, P (State.bump s i j n) = P s) (s : State) (st : Byte) : P (s.countFault st) = P s :=
  foldl_same (by intros; exact hP ..) _ _

omit hrun hstop in
/-- A COMMIT that fails leaves entries and clusters. -/
theorem commitFails_failsOf (s : State) (p q p' q' : Nat) : (s.commitFails p q).failsOf p' q' = s.failsOf p' q' := by
  unfold State.commitFails State.sendService
  split
  · split
    · rw [foldl_same (P := fun s => s.failsOf p' q') (by intros; rfl)]
      by_cases h : p' = p
      · subst h; simp [State.failsOf, State.entry]
      · simp [State.failsOf, State.entry, updPt_pt_ne _ _ _ _ h]
    · rfl
  · rfl

omit hrun hstop in
theorem commitFails_clusters (s : State) (p q : Nat) : (s.commitFails p q).clusters = s.clusters := by
  unfold State.commitFails State.sendService
  split
  · split
    · exact foldl_same (P := State.clusters) (by intros; rfl) _ _
    · rfl
  · rfl

omit hrun hstop in
@[simp] theorem tally_clusters (s : State) (p q : Nat) (bs : List (Nat × Nat × Nat)) : (s.tally p q bs).clusters = s.clusters := by
  unfold State.tally; split <;> rfl

omit hrun hstop in
@[simp] theorem reported_clusters (s : State) (p q : Nat) (f : Failure) : (s.reported p q f).clusters = s.clusters :=
  (tally_clusters ..).trans ((countFault_same (P := State.clusters) (fun _ _ _ _ => rfl) ..).trans rfl)

omit hrun hstop in
@[simp] theorem reported_failsOf (s : State) (p q : Nat) (f : Failure) : (s.reported p q f).failsOf p q = (s.failsOf p q).map (· ++ [f]) := by
  rw [State.reported, tally_failsOf, countFault_same (P := fun s => s.failsOf p q) (fun _ _ _ _ => rfl), State.failsOf,
    entry_updEntry (f := fun e => { e with fails := e.fails ++ [f] }) fun _ => rfl, State.failsOf]
  simp only [Option.map_map]
  rfl

omit hrun hstop in
/-- A failure is a report and, in a COMMIT, its failure; then the consignment stops. -/
theorem failRun_eq (hrun : (s.cl c).run = some r) (f : Failure) : ∃ t : State, s.failRun c f = t.stopOn c true ∧ t.clusters = s.clusters ∧
    t.failsOf r.part r.seq = (s.failsOf r.part r.seq).map (· ++ [f]) := by
  have heq : s.failRun c f = (if r.commit then (s.reported r.part r.seq f).commitFails r.part r.seq else s.reported r.part r.seq f).stopOn c true := by
    rw [State.failRun, hrun]; rfl
  refine ⟨_, heq, ?_, ?_⟩
  · split
    · rw [commitFails_clusters, reported_clusters]
    · rw [reported_clusters]
  · split
    · rw [commitFails_failsOf, reported_failsOf]
    · rw [reported_failsOf]

omit hstop in
/-- The report of a failed run joins its entry. -/
theorem failRun_failsOf (f : Failure) : (s.failRun c f).failsOf r.part r.seq = (s.failsOf r.part r.seq).map (· ++ [f]) := by
  obtain ⟨t, heq, hcl, hfails⟩ := failRun_eq hrun f
  rw [heq, stopOn_failsOf true (by rw [State.cl, hcl]; exact hrun), hfails]

/-- A failed run that has not stopped stops. -/
theorem failRun_stopped (f : Failure) : RunStopped (s.failRun c f) c r := by
  obtain ⟨t, heq, hcl, -⟩ := failRun_eq hrun f
  rw [heq]
  exact stopOn_stopped (by rw [State.cl, hcl]; exact hrun) hstop true

end

/-- A failure of a control core that has not stopped: its report, and the stop. -/
theorem failCore_spec {s : State} {c : Nat} {r : Run} (hrun : (s.cl c).run = some r) (hstop : r.stopped = false) (st : Byte) :
    RunStopped (s.failCore c st) c r ∧ (s.failCore c st).failsOf r.part r.seq = (s.failsOf r.part r.seq).map
      (· ++ [{ status := st, cluster := c, station := 0xF, wbTag := 0, i := 0xFFFF, j := 0xFFFF }]) :=
  ⟨failRun_stopped hrun hstop _, failRun_failsOf hrun _⟩

/-- A core that executes has a run that has neither ended nor stopped. -/
theorem coreLive_run {s : State} {c : Nat} {r : Run} (h : s.coreLive c = true) (hrun : (s.cl c).run = some r) : r.ended = false ∧ r.stopped = false := by
  simp [State.coreLive, hrun] at h
  exact h.1

/-! ### Fetching (R62) -/

section
variable (s : State) (c : Nat)

/-- The record that a job of the control core begins with. -/
def State.coreAcc : Acc := { home := some c, owner := (s.cl c).run.map fun r => (r.part, r.seq) }

theorem coreJob_eq (j : Job α) : s.coreJob c j = jobFrom j (s.coreAcc c) := rfl

@[simp] theorem jobFrom_jobMap_nil (f : α → Job β) (a : Acc) : jobFrom (Job.map f []) a = (.ok [], a) := rfl

/-- What a read of a line records: its walks and its pieces. -/
def codeRead (x : XCtx) (l : Nat) (ps : List Piece) (a : Acc) : Acc :=
  { a with walks := a.walks ++ s.walksFor x (64 * l) 64 a.walks a.who, reads := a.reads ++ ps.map fun p => (p.pa, p.n, p.hc) }

variable {s c} {x : XCtx} {l : Nat} {ps : List Piece} {a : Acc}

theorem codeLine_clean (h : s.xl x false (64 * l) 64 = .ok ps) (hm : (s.gotPieces ps 0).marks = []) :
    jobFrom (codeLine s x l) a = (.ok (l, (s.gotPieces ps 0).bytes, (s.gotPieces ps 0).bad), codeRead s x l ps a) := by
  simp [codeLine, readRaw, h, hm, codeRead]

theorem codeLine_marked {m : Nat × Nat} {ms : List (Nat × Nat)} (h : s.xl x false (64 * l) 64 = .ok ps) (hm : (s.gotPieces ps 0).marks = m :: ms) :
    jobFrom (codeLine s x l) a = (.error ((s.gotPieces ps 0).status m), codeRead s x l ps a) := by
  simp [codeLine, readRaw, h, hm, codeRead]

theorem codeLine_untranslated {e : Byte} (h : s.xl x false (64 * l) 64 = .error e) :
    jobFrom (codeLine s x l) a = (.error e, { a with walks := a.walks ++ s.walksFor x (64 * l) 64 a.walks a.who }) := by
  simp [codeLine, readRaw, h]

/-- What a fetch of one missing line comes to when the line is not read. -/
theorem fetch_line_fails {n : Nat} {e : Byte} (hmiss : s.codeMisses c n = [l]) (hline : ∀ a, ∃ b, jobFrom (codeLine s (s.ctxOf c) l) a = (.error e, b)) (he : e ≠ stHold) :
    ∃ a : Acc, s.fetch c n = ((s.settle a.upToFailure).failCore c e, false) := by
  obtain ⟨b, hb⟩ := hline (s.coreAcc c)
  exact ⟨b, by simp [State.fetch, coreJob_eq, hmiss, Job.map, hb, waits, he]⟩

/-- A missing line that reads enters the buffer. -/
theorem fetch_line {n : Nat} (hmiss : s.codeMisses c n = [l]) (h : s.xl (s.ctxOf c) false (64 * l) 64 = .ok ps) (hm : (s.gotPieces ps 0).marks = []) :
    ∃ a : Acc, a.writes = [] ∧ s.fetch c n =
      let t := (s.settle a).bufEnter c (l, (s.gotPieces ps 0).bytes, (s.gotPieces ps 0).bad)
      if t.codePoisoned c n then (t.failCore c stUncorrectable, false) else (t, true) := by
  refine ⟨codeRead s (s.ctxOf c) l ps (s.coreAcc c), rfl, ?_⟩
  simp [State.fetch, coreJob_eq, hmiss, Job.map, codeLine_clean h hm, waits]

/-- An instruction all of whose lines the buffer holds. -/
theorem fetch_hit {n : Nat} (hmiss : s.codeMisses c n = []) :
    s.fetch c n = if s.codePoisoned c n then (s.failCore c stUncorrectable, false) else (s, true) := by
  simp [State.fetch, coreJob_eq, hmiss, waits]

/-- A line enters the buffer; nothing else of the state shows it. -/
theorem bufEnter_frame (b : Nat × List Byte × List Nat) :
    (s.bufEnter c b).mem = s.mem ∧ (s.bufEnter c b).parts = s.parts ∧ (∃ buf, (s.bufEnter c b).cl c = { s.cl c with core := { (s.cl c).core with buf := buf } }) := by
  unfold State.bufEnter State.updCore
  dsimp only
  split <;> exact ⟨rfl, rfl, _, by simp; rfl⟩

/-- The buffer after a line has entered it: at most 256 lines, or as many as it had. -/
theorem bufEnter_buf (b : Nat × List Byte × List Nat) :
    ((s.bufEnter c b).cl c).core.buf.length ≤ max 256 (s.cl c).core.buf.length ∧ b ∈ ((s.bufEnter c b).cl c).core.buf ∧
    ((s.cl c).core.buf.length < 256 → ((s.bufEnter c b).cl c).core.buf = (s.cl c).core.buf ++ [b]) := by
  unfold State.bufEnter State.updCore
  dsimp only
  by_cases hfull : 256 ≤ (s.cl c).core.buf.length
  · have hlt : s.freeW.toNat % 256 < (s.cl c).core.buf.length := Nat.lt_of_lt_of_le (Nat.mod_lt _ (by decide)) hfull
    simp [hfull, List.length_eraseIdx, hlt]
    omega
  · simp [hfull]
    omega

/-- A fetch that succeeds leaves the run and the reports. -/
theorem fetch_frame {n : Nat} (h : (s.fetch c n).2 = true) :
    ((s.fetch c n).1.cl c).run = (s.cl c).run ∧ ∀ p q, (s.fetch c n).1.failsOf p q = s.failsOf p q := by
  have hfold : ∀ (ls : List (Nat × List Byte × List Nat)) (t : State), ((ls.foldl (fun t l => t.bufEnter c l) t).cl c).run = (t.cl c).run ∧
      ∀ p q, (ls.foldl (fun t l => t.bufEnter c l) t).failsOf p q = t.failsOf p q := by
    refine fun ls t => ⟨foldl_same (P := fun t => (t.cl c).run) (fun t b => ?_) ls t, fun p q => foldl_same (P := fun t => t.failsOf p q) (fun t b => ?_) ls t⟩
    · obtain ⟨-, -, buf, hcl⟩ := bufEnter_frame (s := t) (c := c) b
      simp [hcl]
    · exact failsOf_congr (bufEnter_frame b).2.1 p q
  generalize hr : s.fetch c n = r at h ⊢
  unfold State.fetch at hr
  dsimp only at hr
  split at hr
  · subst hr; exact absurd h Bool.false_ne_true
  · split at hr
    · subst hr; exact absurd h Bool.false_ne_true
    · next ls _ =>
      generalize ht : (if ls.isEmpty then s else _) = t at hr
      split at hr
      · subst hr; exact absurd h Bool.false_ne_true
      · subst hr
        split at ht
        · subst ht; exact ⟨rfl, fun _ _ => rfl⟩
        · subst ht
          obtain ⟨hrun, hfails⟩ := hfold ls (s.settle (s.coreJob c (Job.map (codeLine s (s.ctxOf c)) (s.codeMisses c n))).2)
          exact ⟨hrun.trans (calm_run (calm_settle ..) c), fun p q => (hfails p q).trans (calm_failsOf (calm_settle ..) p q)⟩

end

/-- Settles O12: the failures go through `failCore_spec`, the fetches through `fetch_hit`, `fetch_line` and `fetch_line_fails`. -/
theorem coreFailures : Obligations.CoreFailures := by
  unfold Obligations.CoreFailures
  intro s c r x hrun hx fails hlive
  obtain ⟨-, hstop⟩ := coreLive_run hlive hrun
  have hfail : ∀ (i : Instr) (u : State) (st : Byte), exec i s = .next (u.failCore c st) → (u.cl c).run = some r → u.failsOf r.part r.seq = s.failsOf r.part r.seq →
      fails i st := by
    intro i u st hi hu hf
    obtain ⟨hstopped, hreports⟩ := failCore_spec hu hstop st
    rw [hf, show s.failsOf r.part r.seq = some x.fails by simp [State.failsOf, hx]] at hreports
    exact ⟨_, hi, entry_of_failsOf hreports, hstopped.run, hstopped.held, hstopped.tokWait, hstopped.tokQ, hstopped.sidings, hstopped.wins⟩
  have hfetched : ∀ (i : Instr) (n : Nat) (f : State → State) (st : Byte), exec i s = s.onCore c f n → (s.fetch c n).2 = true →
      (∀ u, f u = u.failCore c st) → fails i st := by
    intro i n f st hi hf hfu
    obtain ⟨hu, hr⟩ := fetch_frame hf
    exact hfail i _ st (hi.trans ((onCore_live hlive (Prod.ext rfl hf) f).trans (by rw [hfu]))) (hu.trans hrun) (hr ..)
  refine ⟨fun w hf hw => ?_, fun n w hf hw => ?_, fun l e hmiss hxl he => ?_, fun n => ⟨fetch_hit, fun l ps hmiss hxl => ⟨fun hm => ?_, fun m ms hm he => ?_⟩⟩⟩
  · exact hfetched _ 4 (fun s => if eciWord w then s else s.failCore c stTimetable) _ rfl hf fun u => by simp [hw]
  · exact hfetched _ 8 (fun s => if patchOk n.toNat w then s else s.failCore c stTimetable) _ rfl hf fun u => by simp [hw]
  · obtain ⟨a, ha⟩ := fetch_line_fails hmiss (fun a => ⟨_, codeLine_untranslated hxl⟩) he
    refine hfail _ (s.settle a.upToFailure) e ?_ ((calm_run (calm_settle ..) c).trans hrun) (calm_failsOf (calm_settle ..) ..)
    change execIllegalInstruction c .fetch s = _
    simp [execIllegalInstruction, hlive, ha]
  · obtain ⟨a, ha, hfetch⟩ := fetch_line hmiss hxl hm
    obtain ⟨hmem, -, buf, hcl⟩ := bufEnter_frame (s := s.settle a) (c := c) (l, (s.gotPieces ps 0).bytes, (s.gotPieces ps 0).bad)
    have hcalm : Calm s (s.settle a) := calm_settle ..
    obtain ⟨hlen, hin, happ⟩ := bufEnter_buf (s := s.settle a) (c := c) (l, (s.gotPieces ps 0).bytes, (s.gotPieces ps 0).bad)
    rw [calm_core hcalm] at hlen happ
    refine ⟨_, hfetch, hmem.trans (settle_mem_none s a _ ha), fun k => ?_, ?_, hlen, hin, happ⟩
    · rw [← calm_reg hcalm c k, State.reg, hcl]; rfl
    · rw [hcl, calm_core hcalm]
  · obtain ⟨a, ha⟩ := fetch_line_fails hmiss (fun a => ⟨_, codeLine_marked hxl hm⟩) he
    exact ⟨_, ha, settle_mem_none s _ _ rfl⟩

end Sys2Proof.Machine
end

section
/-! SUPPORT. Loads, stores and ISSUE of the control core (R41, R59, R61, R62, R85, R89): what a clean read by the core comes to, what a store of the core leaves
of memory and of the cluster, and the statements about LD, LW, ST, SW and ISSUE. -/

namespace Sys2Proof.Machine

@[simp] theorem pcStep_mem (s : State) (c : Nat) (n : Word) : (s.pcStep c n).mem = s.mem := rfl
@[simp] theorem pcStep_core (s : State) (c : Nat) (n : Word) : ((s.pcStep c n).cl c).core = { (s.cl c).core with pc := (s.cl c).core.pc + n } := by
  simp [State.pcStep, State.updCore]
@[simp] theorem setReg_mem (s : State) (c : Nat) (r : Reg) (v : Word) : (s.setReg c r v).mem = s.mem := by unfold State.setReg; split <;> rfl
@[simp] theorem setReg_pc (s : State) (c : Nat) (r : Reg) (v : Word) : ((s.setReg c r v).cl c).core.pc = (s.cl c).core.pc := by
  unfold State.setReg State.updCore; split <;> simp

/-! ### Reads by the control core -/

/-- A clean read by the control core: its bytes, and a record without writes. -/
theorem coreJob_readVa {s : State} {c va n : Nat} {ps : List Piece} (h : s.xl (s.ctxOf c) false va n = .ok ps) (hm : (s.gotPieces ps 0).marks = [])
    (hb : (s.gotPieces ps 0).bad = []) :
    ∃ a : Acc, a.writes = [] ∧ s.coreJob c (readVa s (s.ctxOf c) va n) = (.ok (s.gotPieces ps 0).bytes, a) := by
  rw [coreJob_eq, jobFrom_readVa_ok h hm hb]
  exact ⟨_, rfl, rfl⟩

/-- A load that reads clean puts the little-endian value into rd and goes on. -/
theorem coreLoad_clean {s : State} {c n : Nat} {rd : Reg} {va : Word} {ps : List Piece} (halign : va.toNat % n = 0)
    (h : s.xl (s.ctxOf c) false va.toNat n = .ok ps) (hm : (s.gotPieces ps 0).marks = []) (hb : (s.gotPieces ps 0).bad = []) :
    let t := s.coreLoad c rd va n
    t.reg c rd = (if rd.toNat = 31 then s.reg c rd else BitVec.ofNat 64 (leNat (s.gotPieces ps 0).bytes)) ∧ (∀ r, r ≠ rd → t.reg c r = s.reg c r) ∧
    (t.cl c).core.pc = (s.cl c).core.pc + 4 ∧ t.mem = s.mem := by
  obtain ⟨a, ha, hjob⟩ := coreJob_readVa h hm hb
  have hcalm : Calm s (s.settle a) := calm_settle ..
  have heq : s.coreLoad c rd va n = ((s.settle a).setReg c rd (BitVec.ofNat 64 (leNat (s.gotPieces ps 0).bytes))).pcStep c 4 := by
    simp [State.coreLoad, halign, hjob, waits]
  simp only [heq, reg_pcStep, reg_setReg, calm_reg hcalm, pcStep_core, setReg_pc, calm_core hcalm, pcStep_mem, setReg_mem, settle_mem_none s a _ ha]
  refine ⟨?_, fun r hr => by simp [hr], trivial, trivial⟩
  by_cases h31 : rd.toNat = 31 <;> simp [h31]

theorem coreLoad_misaligned {s : State} {c n : Nat} {rd : Reg} {va : Word} (h : va.toNat % n ≠ 0) : s.coreLoad c rd va n = s.failCore c stTimetable := by
  simp [State.coreLoad, h]

/-- Settles O8: a clean load is `coreLoad_clean` on the state that the fetch leaves. -/
theorem loads : Obligations.Loads := by
  unfold Obligations.Loads
  intro s u c rd ra imm hlive hf does
  have key : ∀ (i : Instr) (n : Nat), exec i s = .next (u.coreLoad c rd (u.reg c ra + BitVec.ofNat 64 n * imm.signExtend 64) n) → does i n :=
    fun i n hi => ⟨fun ps halign h hm hb => ⟨_, hi, coreLoad_clean halign h hm hb⟩, fun h => hi.trans (congrArg _ (coreLoad_misaligned h))⟩
  constructor
  · refine key _ 8 ?_
    change execLd c rd ra imm s = _
    exact onCore_live hlive hf _
  · refine key _ 4 ?_
    change execLw c rd ra imm s = _
    exact onCore_live hlive hf _

/-! ### Stores of the control core -/

@[simp] theorem natLe_length (n v : Nat) : (natLe n v).length = n := by
  induction n generalizing v with
  | zero => rfl
  | succ n ih => simp [natLe, ih]

/-- Byte i of a number in little-endian order. -/
theorem natLe_getElem? {n i : Nat} (v : Nat) (h : i < n) : (natLe n v)[i]?.getD 0 = BitVec.ofNat 8 (v >>> (8 * i)) := by
  induction n generalizing v i with
  | zero => omega
  | succ n ih =>
    cases i with
    | zero => simp [natLe]
    | succ i =>
      rw [natLe, List.getElem?_cons_succ, ih _ (by omega), show 256 = 2 ^ 8 from rfl, ← Nat.shiftRight_eq_div_pow, ← Nat.shiftRight_add, Nat.mul_succ,
        Nat.add_comm 8]

theorem calm_coreWrite (s : State) (c : Nat) (w : Wr) (hc : Nat) : Calm s (s.coreWrite c w hc) := calm_trans (calm_storeBy ..) (calm_granted ..)

@[simp] theorem coreWrite_mem (s : State) (c : Nat) (w : Wr) (hc : Nat) : (s.coreWrite c w hc).mem = s.mem.writeN w.pa w.bytes := by
  simp [State.coreWrite]

/-- A store to a place that it may write, in one piece: the write follows the walks of the translation, and pc moves on. -/
theorem coreStoreRaw_piece {s : State} {c : Nat} {va : Word} {bs : List Byte} {p : Piece} (halign : va.toNat % bs.length = 0)
    (h : s.xl (s.ctxOf c) true va.toNat bs.length = .ok [p]) (hpad : padCluster p.pa = none ∨ padCluster p.pa = some c)
    (hret : s.retainedAt p.pa p.n none = false) (hlost : padCluster p.pa = none → s.lostIn p.pa p.n = false) :
    ∃ (t : State) (hc : Nat), Calm s t ∧ t.mem = s.mem ∧ s.coreStoreRaw c va bs = (t.coreWrite c { pa := p.pa, bytes := bs } hc).pcStep c 4 := by
  refine ⟨(s.walksFor (s.ctxOf c) va.toNat bs.length).foldl State.walked s, if padCluster p.pa = none then p.hc else 0, calm_foldl calm_walked _ _,
    foldl_same (P := State.mem) walked_mem _ _, ?_⟩
  rcases hpad with hnone | hsome
  · simp [State.coreStoreRaw, halign, h, hnone, hlost hnone]
  · simp [State.coreStoreRaw, halign, h, hsome, hret]

/-- A store of the control core writes exactly its bytes, leaves its registers, and goes on. -/
theorem coreStore_piece {s : State} {c : Nat} {va : Word} {bs : List Byte} {p : Piece} (halign : va.toNat % bs.length = 0)
    (h : s.xl (s.ctxOf c) true va.toNat bs.length = .ok [p]) (hpad : padCluster p.pa = none ∨ padCluster p.pa = some c)
    (hret : s.retainedAt p.pa p.n none = false) (hlost : padCluster p.pa = none → s.lostIn p.pa p.n = false) :
    let t := s.coreStore c va bs
    t.mem = s.mem.writeN p.pa bs ∧ (∀ r, t.reg c r = s.reg c r) ∧ (t.cl c).core.pc = (s.cl c).core.pc + 4 := by
  obtain ⟨u, hc, hu, hmem, heq⟩ := coreStoreRaw_piece halign h hpad hret hlost
  have hw : Calm s (u.coreWrite c { pa := p.pa, bytes := bs } hc) := calm_trans hu (calm_coreWrite ..)
  simp only [State.coreStore, heq]
  refine ⟨?_, fun r => ?_, ?_⟩
  · simp [hmem]
  · rw [calm_reg (calm_tallyHub ..), reg_pcStep, calm_reg hw]
  · rw [calm_core (calm_tallyHub ..), pcStep_core, calm_core hw]

/-! ### A failure of the control core counts no walk and no hub access -/

theorem obj_congr {s t : State} (h : t.dict = s.dict) (i j : Nat) : t.obj i j = s.obj i j := by simp [State.obj, h]

theorem endWatches_dict (s : State) (c : Nat) : (s.endWatches c).dict = s.dict := by
  unfold State.endWatches
  split
  · rfl
  · exact (foldl_same (P := State.dict) (by intros; rfl) _ _).trans rfl

theorem returnToken_dict (s : State) (c part : Nat) (h : HeldToken) : (s.returnToken c part h).dict = s.dict := by
  unfold State.returnToken State.send
  dsimp only
  split
  · rfl
  · split <;> rfl

theorem commitFails_dict (s : State) (p q : Nat) : (s.commitFails p q).dict = s.dict := by
  unfold State.commitFails State.sendService
  split
  · split
    · exact foldl_same (P := State.dict) (by intros; rfl) _ _
    · rfl
  · rfl

theorem tally_dict (s : State) (p q : Nat) (bs : List (Nat × Nat × Nat)) : (s.tally p q bs).dict = s.dict := by unfold State.tally; split <;> rfl

/-- Requests refused as windows close are counted in 0x5020.03 and in no other object. -/
theorem closeWindows_obj {i j : Nat} (h : objKey i j ≠ objKey 0x5020 3) (s : State) (c : Nat) : (s.closeWindows c).obj i j = s.obj i j := by
  unfold State.closeWindows State.refuseQueued
  refine (foldl_same (P := fun s => s.obj i j) (fun t q => ?_) _ _).trans rfl
  unfold State.refuseToken
  rw [emit_obj]
  exact setObj_obj_ne _ _ _ _ _ _ h

theorem stopOn_obj {i j : Nat} (h : objKey i j ≠ objKey 0x5020 3) (s : State) (c : Nat) (failed : Bool) : (s.stopOn c failed).obj i j = s.obj i j := by
  unfold State.stopOn
  split
  · rfl
  · split
    · rfl
    · rw [closeWindows_obj h, updCl_obj]
      refine obj_congr ?_ i j
      rw [endWatches_dict, foldl_same (P := State.dict) (by intros; exact returnToken_dict ..)]
      split
      · exact scrambleAll_same (P := State.dict) (fun _ _ _ => rfl) _ _
      · rfl

/-- TIMETABLE_FAULT is none of the faults that translation counts. -/
theorem failCore_timetable_obj {i j : Nat} (h : objKey i j ≠ objKey 0x5020 3) (s : State) (c : Nat) : (s.failCore c stTimetable).obj i j = s.obj i j := by
  unfold State.failCore State.failRun
  split
  · rfl
  · rw [stopOn_obj h]
    refine obj_congr ?_ i j
    split
    · rw [commitFails_dict, tally_dict]; rfl
    · rw [tally_dict]; rfl

/-- Nothing is kept for a run when no walk and no hub access is counted. -/
theorem tallyHub_same {s t : State} (h : ∀ k ∈ [1, 4, 5], t.obj 0x70B0 k = s.obj 0x70B0 k) (o : Option (Nat × Nat)) : t.tallyHub s o = t := by
  have h1 := h 1 (by simp)
  have h4 := h 4 (by simp)
  have h5 := h 5 (by simp)
  unfold State.tallyHub
  split
  · rfl
  · simp [h1, h4, h5, State.tally]

theorem coreStore_misaligned {s : State} {c : Nat} {va : Word} {bs : List Byte} (h : va.toNat % bs.length ≠ 0) :
    s.coreStore c va bs = s.failCore c stTimetable := by
  have hraw : s.coreStoreRaw c va bs = s.failCore c stTimetable := by simp [State.coreStoreRaw, h]
  rw [State.coreStore, hraw]
  refine tallyHub_same (fun k hk => failCore_timetable_obj ?_ s c) _
  revert k
  decide

/-- Settles O9: an aligned store that may be made is `coreStore_piece`, and its bytes are those of the register (`natLe_getElem?`). -/
theorem stores : Obligations.Stores := by
  unfold Obligations.Stores
  intro s u c rd ra imm hlive hf does
  have key : ∀ (i : Instr) (n : Nat), exec i s = .next (u.coreStore c (u.reg c ra + BitVec.ofNat 64 n * imm.signExtend 64) (natLe n (u.reg c rd).toNat)) → does i n := by
    intro i n hi
    refine ⟨fun p halign h hpad hret hlost => ?_, fun h => hi.trans (congrArg _ (coreStore_misaligned (by rwa [natLe_length])))⟩
    obtain ⟨hmem, hreg, hpc⟩ := coreStore_piece (bs := natLe n (u.reg c rd).toNat) (by rwa [natLe_length]) (by rwa [natLe_length]) hpad hret hlost
    refine ⟨_, hi, fun a => ?_, hreg, hpc⟩
    rw [hmem, memory_byte_writeN, natLe_length]
    by_cases ha : p.pa ≤ a ∧ a < p.pa + n
    · rw [if_pos ha, if_pos ha, natLe_getElem? _ (by omega)]
    · rw [if_neg ha, if_neg ha]
  constructor
  · refine key _ 8 ?_
    change execSt c rd ra imm s = _
    exact onCore_live hlive hf _
  · refine key _ 4 ?_
    change execSw c rd ra imm s = _
    exact onCore_live hlive hf _

/-! ### ISSUE -/

/-- A module of 4 GiB of HBM whose root table at 0x1000 maps its first gigabyte; the core of cluster 0 stands at 0x100 with its instruction buffer empty, and
16 waybills are in the Intake Station's siding. -/
def missAndFull : State := { State.reset with
  mem := [(0x1000, 0x01), (0x1002, 0x02), (0x2000, 0x0F)]
  clusters := [(0, { stat := .active, run := some { part := 0, seq := 1, xroot := 0x1001, xkeys := 3 }, core := { pc := 0x100, regs := [(1, 0x4000)] }
                     st := { sidings := [(0, List.replicate 16 { wb := 0, part := 0, seq := 1 })] } })]
  plan := { rows := [(0x100000000, [0, 5, 10, 15])], rowsOk := 1 }
  boot := { parityReady := true } }

/-- The words of an ISSUE to that siding are fetched, and the line read for them is in the buffer afterwards. -/
theorem missAndFull_issue : missAndFull.coreLive 0 = true ∧ (missAndFull.fetch 0 8).2 = true ∧ ((missAndFull.fetch 0 8).1.reg 0 1).toNat % 64 = 0 ∧
    16 ≤ ((missAndFull.fetch 0 8).1.siding 0 0).length ∧ (missAndFull.cl 0).core.buf.length = 0 ∧
    (match exec (.issue 0 0 1 []) missAndFull with | .next t => (t.cl 0).core.buf.length | _ => 0) = 1 := by decide +kernel

/-- Refutes O14: with the siding full, what remains is the state that the fetch leaves, whose buffer holds the line that was missing, and not the state before. -/
theorem not_issue : ¬ Obligations.Issue := by
  unfold Obligations.Issue
  intro h
  obtain ⟨hlive, hfetch, halign, hfull, hbuf, hafter⟩ := missAndFull_issue
  obtain ⟨-, -, hstall⟩ := h missAndFull (missAndFull.fetch 0 8).1 0 0 1 [] hlive (Prod.ext rfl hfetch)
  rw [hstall halign (by decide) (by decide) hfull] at hafter
  exact absurd (hbuf.symm.trans hafter) (by decide)

end Sys2Proof.Machine
end

section
/-! SUPPORT. Counters, the coalescing buffer and the end of a consignment on a cluster (R41, R53 to R56, R72, R86, R87, R100, R405, R406): what a write-back of
coalescing entries leaves, and the statements about POST, WAIT and their releases, about END, CONSIGNMENT_STOP and END_COMPLETE. -/

namespace Sys2Proof.Machine

/-! ### Entries of the coalescing buffer written back (R86) -/

theorem resolveWord_parts (s : State) (w : Nat) : (s.resolveWord w).parts = s.parts := by
  unfold State.resolveWord; repeat' (first | rfl | split)

theorem resolveWord_coal (s : State) (w c : Nat) : ((s.resolveWord w).cl c).coal = (s.cl c).coal := by
  have hrow : ∀ (t : State) (d row : Nat), ((t.updCl d fun cl => if cl.badRows.contains row then cl else { cl with badRows := cl.badRows ++ [row] }).cl c).coal =
      (t.cl c).coal := by
    intro t d row
    by_cases h : c = d
    · subst h; rw [updCl_cl_same]; split <;> rfl
    · rw [updCl_cl_ne _ _ _ _ h]
  unfold State.resolveWord
  split
  · rfl
  · rfl
  · split <;> rfl
  · split
    · rfl
    · split
      · exact hrow ..
      · rfl
    · rfl

section
variable (s : State) (c : Nat) (gone : Coal → Bool)

@[simp] theorem coalOut_parts : (s.coalOut c gone).parts = s.parts := by
  unfold State.coalOut
  refine foldl_same (P := State.parts) (fun s w => ?_) _ _
  exact resolveWord_parts s w

/-- The entries that a write-back leaves in the buffer. -/
theorem coalOut_coal : ((s.coalOut c gone).cl c).coal = (s.cl c).coal.filter fun e => !gone e := by
  unfold State.coalOut
  dsimp only
  rw [updCl_cl_same]
  refine congrArg (List.filter _) (foldl_same (P := fun s => (s.cl c).coal) (fun s w => ?_) _ _)
  exact resolveWord_coal s w c

variable {s}

/-- Without latent errors a write-back changes its cluster alone. -/
theorem coalOut_clean (h : s.upset = []) : s.coalOut c gone = s.updCl c fun cl => { cl with coal := cl.coal.filter fun e => !gone e } := by
  simp [State.coalOut, h, Tab.look]

end

theorem onlyCluster_then_updCl {s t : State} {c : Nat} (h : OnlyCluster s t c) (f : Cluster → Cluster) : OnlyCluster s (t.updCl c f) c := by
  obtain ⟨cl, rfl⟩ := h
  exact ⟨f cl, by rw [updCl_updCl]⟩

theorem onlyCluster_pcStep {s t : State} {c : Nat} (h : OnlyCluster s t c) (n : Word) : OnlyCluster s (t.pcStep c n) c := by
  unfold State.pcStep State.updCore
  exact onlyCluster_then_updCl h _

@[simp] theorem pcStep_parts (s : State) (c : Nat) (n : Word) : (s.pcStep c n).parts = s.parts := rfl
@[simp] theorem pcStep_out (s : State) (c : Nat) (n : Word) : (s.pcStep c n).out = s.out := rfl
@[simp] theorem pcStep_coal (s : State) (c : Nat) (n : Word) : ((s.pcStep c n).cl c).coal = (s.cl c).coal := by simp [State.pcStep, State.updCore]
@[simp] theorem pcStep_dcOf (s : State) (c : Nat) (n : Word) (k : Nat) : (s.pcStep c n).dcOf c k = s.dcOf c k := by simp [State.pcStep, State.updCore, State.dcOf]

/-! ### Counters (R53, R54, R56) -/

@[simp] theorem coalFlush_mem (s : State) (c who : Nat) : (s.coalFlush c who).mem = s.mem := coalOut_mem ..
@[simp] theorem coalFlush_out (s : State) (c who : Nat) : (s.coalFlush c who).out = s.out := coalOut_out ..
@[simp] theorem coalFlush_parts (s : State) (c who : Nat) : (s.coalFlush c who).parts = s.parts := coalOut_parts ..
theorem calm_coalFlush (s : State) (c who : Nat) : Calm s (s.coalFlush c who) := calm_coalOut ..

/-- What a writer's flush leaves in the buffer holds none of its bytes, and what holds none of its bytes stays. -/
theorem mem_coalFlush {s : State} {c who : Nat} {e : Coal} : e ∈ ((s.coalFlush c who).cl c).coal ↔ e ∈ (s.cl c).coal ∧ e.owners.contains who = false := by
  rw [State.coalFlush, coalOut_coal, List.mem_filter, Bool.not_eq_true']

/-- A counter advanced. -/
def State.counted (s : State) (c n : Nat) : State := s.updCl c fun cl => { cl with dc := Tab.put cl.dc 0 n (Tab.look cl.dc 0 n + 1) }

@[simp] theorem counted_mem (s : State) (c n : Nat) : (s.counted c n).mem = s.mem := rfl
@[simp] theorem counted_parts (s : State) (c n : Nat) : (s.counted c n).parts = s.parts := rfl
@[simp] theorem counted_out (s : State) (c n : Nat) : (s.counted c n).out = s.out := rfl
@[simp] theorem counted_core (s : State) (c n : Nat) : ((s.counted c n).cl c).core = (s.cl c).core := by simp [State.counted]
@[simp] theorem counted_coal (s : State) (c n : Nat) : ((s.counted c n).cl c).coal = (s.cl c).coal := by simp [State.counted]

theorem post_room {s : State} {c n : Nat} (h : s.dcOf c n ≠ 65535) (station tag i j : Nat) : s.post c n station tag i j = s.counted c n := if_neg h

theorem counted_dcOf (s : State) (c n k : Nat) : (s.counted c n).dcOf c k = if k = n then s.dcOf c k + 1 else s.dcOf c k := by
  unfold State.counted State.dcOf
  rw [updCl_cl_same]
  by_cases hk : k = n
  · subst hk; simp
  · simp [tab_look_put_ne _ _ _ _ hk, hk]

/-- Settles O10: POST is a write-back of the coalescing buffer (`coalOut_coal`) and a counter advanced (`counted_dcOf`); the rest are equations of their commands. -/
theorem counterWaits : Obligations.CounterWaits := by
  unfold Obligations.CounterWaits
  intro s c
  refine ⟨fun u n hlive hf hacks hdc => ?_, fun u n hlive hf hacks => ?_, fun u n ra hlive hf => ?_, fun n v run hstall hrun hstop hend hv => ?_,
    fun st chan e hhead hphase hv => ?_, fun n v run ms hstall hrun hstop hv hlim hms => ?_⟩
  · have hcalm : Calm u (u.coalFlush c 0xF) := calm_coalOut ..
    have hexec : exec (.post c n) s = .next (((u.coalFlush c 0xF).counted c n.toNat).pcStep c 4) := by
      change execPost c n s = _
      rw [execPost, onCore_live hlive hf]
      simp only [hacks, Bool.false_eq_true, if_false, calm_dcOf hcalm, hdc]
      rw [State.postCore, post_room (by rwa [calm_dcOf hcalm])]
    refine ⟨_, hexec, fun hup => ?_, ?_, ?_, ?_, ?_, ?_, ?_, ?_⟩
    · rw [State.coalFlush, coalOut_clean c _ hup]
      exact onlyCluster_pcStep (onlyCluster_then_updCl (onlyCluster_updCl ..) _) 4
    · simp
    · simp
    · simp
    · simp [calm_core hcalm]
    · intro e he
      rw [pcStep_coal, counted_coal] at he
      exact (mem_coalFlush.1 he).2
    · intro e he ho
      rw [pcStep_coal, counted_coal]
      exact mem_coalFlush.2 ⟨he, ho⟩
    · intro k
      rw [pcStep_dcOf, counted_dcOf, calm_dcOf hcalm]
  · change execPost c n s = _
    rw [execPost, onCore_live hlive hf, hacks, if_pos rfl]
  · have hexec : exec (.wait c n ra) s = .next (if bits (u.reg c ra).toNat 0 16 ≤ u.dcOf c n.toNat then u.pcStep c 4
        else u.updCore c fun k => { k with stall := some (n.toNat, bits (u.reg c ra).toNat 0 16) }) := by
      change execWait c n ra s = _
      exact onCore_live hlive hf _
    refine ⟨_, hexec, ?_⟩
    split <;> rfl
  · exact ⟨_, by change execWaitRelease c none 0 s = _; simp only [execWaitRelease, hstall, hrun, hv, hstop, hend]; rfl, rfl⟩
  · exact ⟨_, by change execWaitRelease c (some st) chan s = _; simp only [execWaitRelease, hhead, hphase, hv]; rfl, rfl⟩
  · have hexec : exec (.waitTimeout c none 0 ms) s = .next (s.failCore c stWaitTimeout) := by
      change execWaitTimeout c none 0 ms s = _
      simp [execWaitTimeout, hlim, Nat.not_le.2 hms, hstall, hv]
    exact ⟨_, hexec, rfl, by rw [(failCore_spec hrun hstop stWaitTimeout).1.run]; rfl⟩

/-! ### What an operation leaves of the entries -/

theorem sameParts_refl (s : State) : SameParts s s := fun _ => rfl

theorem sameParts_trans {s t u : State} (h : SameParts s t) (k : SameParts t u) : SameParts s u := fun p => (k p).trans (h p)

theorem sameParts_foldl {α : Type} {f : State → α → State} (hf : ∀ s x, SameParts s (f s x)) (l : List α) : ∀ s, SameParts s (l.foldl f s) := by
  induction l with
  | nil => exact sameParts_refl
  | cons x l ih => exact fun s => sameParts_trans (hf s x) (ih _)

theorem calm_sameParts {s t : State} (h : Calm s t) : SameParts s t := h.pt

theorem sameParts_updCl {s t : State} (h : SameParts s t) (c : Nat) (f : Cluster → Cluster) : SameParts s (t.updCl c f) := h

theorem flushRow_sameParts (s : State) (c slot row : Nat) : SameParts s (s.flushRow c slot row) := by
  unfold State.flushRow
  dsimp only
  exact sameParts_updCl (calm_sameParts (calm_trans (calm_touch ..) (calm_store ..))) _ _

theorem flushRows_sameParts (s : State) (c part : Nat) : SameParts s (s.flushRows c part) := by
  unfold State.flushRows
  split
  · exact sameParts_refl s
  · split
    · exact sameParts_refl s
    · dsimp only
      exact sameParts_updCl (sameParts_foldl (fun s r => flushRow_sameParts s c _ r) _ s) _ _

/-- The checkpoint of END leaves the partitions. -/
theorem commitCkpt_sameParts (s : State) (c part seq : Nat) : SameParts s (s.commitCkpt c part seq) := by
  unfold State.commitCkpt
  split
  · exact sameParts_refl s
  · split
    · exact sameParts_refl s
    · dsimp only
      refine sameParts_updCl (sameParts_trans (flushRows_sameParts s c part) (calm_sameParts ?_)) _ _
      exact calm_trans (calm_trans (calm_foldl (by intros; exact calm_store ..) _ _) (calm_store ..)) (calm_store ..)

/-- An entry that is open stays open where the partitions are the same. -/
theorem sameParts_entry_some {s t : State} (h : SameParts s t) {p q : Nat} {e : Entry} (he : s.entry p q = some e) : ∃ e', t.entry p q = some e' := by
  have := sameParts_entry h p q
  rw [he, Option.map_some, Option.map_eq_some_iff] at this
  exact this.imp fun _ h => h.1

/-- An update of a partition that keeps its entries. -/
theorem updPt_entry {s : State} {p : Nat} {f : Part → Part} (hf : ∀ pt, (f pt).entries = pt.entries) (p' q : Nat) : (s.updPt p f).entry p' q = s.entry p' q := by
  unfold State.entry
  by_cases h : p' = p
  · subst h; rw [updPt_pt_same, hf]
  · rw [updPt_pt_ne _ _ _ _ h]

theorem giveValues_entry (s : State) (c : Nat) (r : Run) (p q : Nat) : (s.giveValues c r).entry p q = s.entry p q := by
  unfold State.giveValues
  refine updPt_entry (fun pt => ?_) p q
  rfl

/-! ### The end of a consignment on a cluster (R41, R72) -/

section
variable {s : State} {c : Nat} {r : Run} (hrun : (s.cl c).run = some r)

include hrun

/-- END with every write acknowledged: the core's bytes are written back, the timetable has ended, and windows start to close. -/
theorem endT_spec : let t := ((s.coalFlush c 0xF).updRun c fun r => { r with ended := true }).closeWindows c
    t.mem = s.mem ∧ (∀ e ∈ (t.cl c).coal, e.owners.contains 0xF = false) ∧ (t.cl c).run = some { r with ended := true } ∧ (t.cl c).core = (s.cl c).core ∧
    (∀ w, (t.win c w).closing = ((s.win c w).enable || (s.win c w).closing)) ∧ (t.cl c).tokQ = [] := by
  have hcalm := calm_coalFlush s c 0xF
  refine ⟨by simp [State.updRun], fun e he => ?_, ?_, ?_, fun w => ?_, by simp [State.updRun]⟩
  · exact (mem_coalFlush.1 (by simpa [State.updRun] using he)).2
  · simp [State.updRun, calm_run hcalm, hrun]
  · simp [State.updRun, calm_core hcalm]
  · rw [closeWindows_win, State.win, State.updRun, updCl_cl_same]
    rw [show Tab.look ((s.coalFlush c 0xF).cl c).wins {} w = s.win c w from calm_win hcalm c w]
    unfold Win.close
    split <;> simp [*]

/-- What END_COMPLETE leaves before the commit unit and the ledger go on: no run on the cluster, and the entry knows of its end. -/
def State.runOff (s : State) (c : Nat) (r : Run) : State :=
  let t := if r.stopped then s else s.commitCkpt c r.part r.seq
  let t := t.endWatches c
  let t := if r.commit && !r.stopped then t.giveValues c r else t
  let t := t.updEntry r.part r.seq fun e => { e with ended := if e.ended.contains c then e.ended else e.ended ++ [c], begun := e.begun ++ r.begun }
  t.updCl c fun cl => { cl with run := none }

theorem exec_endComplete (hover : r.ended = true ∨ r.stopped = true) (hdrained : (s.cl c).drained = true) (hout : s.outstanding c = false) :
    exec (.endComplete c) s = .next ((if r.commit then (s.runOff c r).commitEnds r.part else s.runOff c r).startReady r.part) := by
  change execEndComplete c s = _
  have hover' : (r.ended || r.stopped) = true := by simpa using hover
  rw [execEndComplete, hrun]
  simp only [hover', hdrained, hout]
  rfl

omit hrun in
theorem runOff_run : ((s.runOff c r).cl c).run = none := by simp [State.runOff]

omit hrun in
theorem runOff_entry {e : Entry} (he : s.entry r.part r.seq = some e) : ∃ e', (s.runOff c r).entry r.part r.seq = some e' ∧ c ∈ e'.ended := by
  have hckpt : SameParts s (if r.stopped then s else s.commitCkpt c r.part r.seq) := by
    split
    · exact sameParts_refl s
    · exact commitCkpt_sameParts s c r.part r.seq
  unfold State.runOff
  dsimp only
  generalize (if r.stopped = true then s else s.commitCkpt c r.part r.seq) = t at hckpt ⊢
  obtain ⟨e1, he1⟩ := sameParts_entry_some (sameParts_trans hckpt (calm_sameParts (calm_endWatches t c))) he
  have he2 : (if r.commit && !r.stopped then (t.endWatches c).giveValues c r else t.endWatches c).entry r.part r.seq = some e1 := by
    split
    · rw [giveValues_entry]; exact he1
    · exact he1
  rw [updCl_entry, entry_updEntry (f := fun e => { e with ended := if e.ended.contains c then e.ended else e.ended ++ [c], begun := e.begun ++ r.begun })
    fun _ => rfl, he2]
  refine ⟨_, rfl, ?_⟩
  dsimp only
  split
  · next h => simpa using h
  · simp

end

/-- Settles O15: END is `endT_spec`, CONSIGNMENT_STOP the stop of every failed run (`stopOn_stopped`), END_COMPLETE `runOff`. -/
theorem ends : Obligations.Ends := by
  unfold Obligations.Ends
  intro s c r hrun
  refine ⟨fun u hlive hf => ?_, fun e he hwhy hstop => ?_, fun hover hdrained hout => ?_⟩
  · have hexec : exec (.endT c) s = .next (if u.acksDue c 0xF then u else ((u.coalFlush c 0xF).updRun c fun r => { r with ended := true }).closeWindows c) := by
      change execEndT c s = _
      exact onCore_live hlive hf _
    have hurun : (u.cl c).run = some r := by
      have := (fetch_frame (s := s) (c := c) (n := 4) (by rw [hf])).1
      rw [hf] at this
      exact this.trans hrun
    exact ⟨fun hacks => ⟨_, hexec.trans (by rw [hacks, if_neg Bool.false_ne_true]), endT_spec hurun⟩, fun hacks => by rw [hexec, hacks, if_pos rfl]⟩
  · have hexec : exec (.consignmentStop c) s = .next (s.stopOn c !e.rerun) := by
      change execConsignmentStop c s = _
      have : (!e.fails.isEmpty || e.abort || e.rerun) = true := by simpa [or_assoc] using hwhy
      simp only [execConsignmentStop, hrun, he, this, if_true]
    have hs := stopOn_stopped hrun hstop !e.rerun
    exact ⟨_, hexec, hs.run, hs.held, hs.watches, hs.heldRecs⟩
  · exact ⟨_, exec_endComplete hrun hover hdrained hout, s.runOff c r, runOff_run, fun e he => runOff_entry he, rfl⟩

end Sys2Proof.Machine
end

section
/-! SUPPORT. The queues that software reads and writes (R60, R63 to R69, R250): reads, writes and status words of one queue, and the statement about them. -/

namespace Sys2Proof.Machine

/-! ### Completion queues and the stations of a cluster -/

@[simp] theorem updSt_mem (s : State) (c : Nat) (f : Stations → Stations) : (s.updSt c f).mem = s.mem := rfl
@[simp] theorem updSt_core (s : State) (c : Nat) (f : Stations → Stations) : ((s.updSt c f).cl c).core = (s.cl c).core := by simp [State.updSt]
@[simp] theorem updSt_run (s : State) (c : Nat) (f : Stations → Stations) : ((s.updSt c f).cl c).run = (s.cl c).run := by simp [State.updSt]
@[simp] theorem updSt_st (s : State) (c : Nat) (f : Stations → Stations) : ((s.updSt c f).cl c).st = f (s.cl c).st := by simp [State.updSt]
@[simp] theorem updSt_reg (s : State) (c : Nat) (f : Stations → Stations) (r : Reg) : (s.updSt c f).reg c r = s.reg c r := by simp [State.reg]
theorem onlyCluster_updSt (s : State) (c : Nat) (f : Stations → Stations) : OnlyCluster s (s.updSt c f) c := onlyCluster_updCl ..

@[simp] theorem pcStep_st (s : State) (c : Nat) (n : Word) : ((s.pcStep c n).cl c).st = (s.cl c).st := by simp [State.pcStep, State.updCore]
@[simp] theorem setReg_st (s : State) (c : Nat) (r : Reg) (v : Word) : ((s.setReg c r v).cl c).st = (s.cl c).st := by
  unfold State.setReg State.updCore; split <;> simp

theorem onlyCluster_setReg {s t : State} {c : Nat} (h : OnlyCluster s t c) (r : Reg) (v : Word) : OnlyCluster s (t.setReg c r v) c := by
  unfold State.setReg State.updCore
  split
  · exact h
  · exact onlyCluster_then_updCl h _

@[simp] theorem updSiding_siding_same (s : State) (c st : Nat) (f : List WbEntry → List WbEntry) : (s.updSiding c st f).siding c st = f (s.siding c st) := by
  simp [State.updSiding, State.siding]

theorem updCq_cqOf_same (s : State) (c q : Nat) (f : RecQ → RecQ) : (s.updCq c q f).cqOf c q = f (s.cqOf c q) := by simp [State.updCq, State.cqOf]

/-! ### READQ and QCTL -/

/-- The two halves of a record, as READQ puts them into its registers. -/
theorem record_halves (v : Rec128) : BitVec.ofNat 64 (v.toNat % 2 ^ 64) = v.extractLsb' 0 64 ∧ BitVec.ofNat 64 (v.toNat / 2 ^ 64) = v.extractLsb' 64 64 := by
  constructor
  · apply BitVec.eq_of_toNat_eq; simp
  · apply BitVec.eq_of_toNat_eq; simp [Nat.shiftRight_eq_div_pow]

/-- What READQ does once it is fetched. -/
def State.readRec (s : State) (c : Nat) (rd : Reg) (q : Nat) : State :=
  let r := (s.cqOf c q).pop
  (((s.updCq c q fun _ => r.2).setReg c rd (r.1.extractLsb' 0 64)).setReg c (rd + 1) (r.1.extractLsb' 64 64)).pcStep c 4

theorem exec_readq {s u : State} {c : Nat} (rd : Reg) (q : BitVec 5) (hlive : s.coreLive c = true) (hf : s.fetch c 4 = (u, true)) :
    exec (.readq c rd q) s = .next (if rd.toNat % 2 ≠ 0 ∨ 28 < rd.toNat ∨ (q ≠ 0x0C ∧ q ≠ 0x0D) then u.failCore c stTimetable else u.readRec c rd q.toNat) := by
  change execReadq c rd q s = _
  rw [execReadq, onCore_live hlive hf]
  simp only [record_halves, State.readRec]

/-- READQ into an even register up to 28: the record lies in rd and rd + 1, and has left its queue. -/
theorem readRec_spec (s : State) (c : Nat) {rd : Reg} (q : Nat) (heven : rd.toNat % 2 = 0) (hmax : rd.toNat ≤ 28) : let t := s.readRec c rd q
    OnlyCluster s t c ∧ (t.cl c).core.pc = (s.cl c).core.pc + 4 ∧
    t.reg c rd ++ t.reg c (rd + 1) = (let v := (s.cqOf c q).pop.1; v.extractLsb' 0 64 ++ v.extractLsb' 64 64) ∧
    t.cqOf c q = (s.cqOf c q).pop.2 ∧ ∀ r, r ≠ rd → r ≠ rd + 1 → t.reg c r = s.reg c r := by
  have hsucc : (rd + 1).toNat = rd.toNat + 1 := by
    rw [BitVec.toNat_add]
    exact Nat.mod_eq_of_lt (show rd.toNat + 1 < 32 by omega)
  have hne : rd ≠ rd + 1 := fun h => by have := congrArg BitVec.toNat h; omega
  have h1 : (rd + 1).toNat ≠ 31 := by omega
  have h2 : rd.toNat ≠ 31 := by omega
  unfold State.readRec
  clear hsucc
  generalize rd + 1 = rd' at h1 hne ⊢
  refine ⟨onlyCluster_pcStep (onlyCluster_setReg (onlyCluster_setReg (onlyCluster_updSt ..) ..) ..) 4, ?_, ?_, ?_, fun r hr hr1 => ?_⟩
  · simp [State.updCq]
  · simp [reg_setReg, h1, h2, hne]
  · rw [State.cqOf, pcStep_st, setReg_st, setReg_st]; exact updCq_cqOf_same ..
  · simp [reg_setReg, hr, hr1, State.updCq]

/-- QCTL of a queue that R60 numbers: its status word takes the RW bits, and nothing else of its queue changes. -/
theorem exec_qctl {s u : State} {c : Nat} (ra : Reg) (q : BitVec 5) (hlive : s.coreLive c = true) (hf : s.fetch c 4 = (u, true)) (hq : queueKnown q.toNat = true) :
    Runs (.qctl c ra q) s (fun t => OnlyCluster u t c ∧ (t.cl c).core.pc = (u.cl c).core.pc + 4 ∧ (∀ r, t.reg c r = u.reg c r) ∧
      (let v := (u.reg c ra).toNat
       if q.toNat ≤ 6 then Tab.look (t.cl c).st.sidSt {} q.toNat = (Tab.look (u.cl c).st.sidSt {} q.toNat).write v
       else if q.toNat ≤ 11 then t.tileQ c q.toNat = { u.tileQ c q.toNat with st := (u.tileQ c q.toNat).st.write v }
       else t.cqOf c q.toNat = { u.cqOf c q.toNat with st := (u.cqOf c q.toNat).st.write v })) := by
  refine ⟨_, by change execQctl c ra q s = _; exact onCore_live hlive hf _, ?_⟩
  simp only [hq, Bool.not_true, Bool.false_eq_true, if_false]
  split
  · refine ⟨onlyCluster_pcStep (onlyCluster_updSt ..) 4, by simp, fun r => by simp, by simp⟩
  · split
    · refine ⟨onlyCluster_pcStep (onlyCluster_updSt ..) 4, by simp [State.updTileQ], fun r => by simp [State.updTileQ], by simp [State.tileQ, State.updTileQ]⟩
    · refine ⟨onlyCluster_pcStep (onlyCluster_updSt ..) 4, by simp [State.updCq], fun r => by simp [State.updCq], by simp [State.cqOf, State.updCq]⟩

/-! ### One queue changed -/

@[simp] theorem setQueue_mem (s : State) (r : QueueRef) (q : RecQ) : (s.setQueue r q).mem = s.mem := by cases r <;> rfl
@[simp] theorem setQueue_mac (s : State) (r : QueueRef) (q : RecQ) : (s.setQueue r q).mac = s.mac := by cases r <;> rfl

@[simp] theorem setQueue_queue_same (s : State) (r : QueueRef) (q : RecQ) : (s.setQueue r q).queue r = q := by
  cases r with
  | completion c k => exact updCq_cqOf_same ..
  | mailToAoc => rfl
  | mailToHost => rfl
  | events d => simp [State.setQueue, State.queue]
  | mdpRx => rfl

section
variable (s : State) (q : QueueRef)

/-- The oldest entry of a queue within one clock domain leaves it. -/
theorem dequeue_plain (h : crossK q = none) : (s.dequeue q).queue q = (s.queue q).pop.2 := by simp [State.dequeue, h]

variable {k : Nat} (hk : crossK q = some k)

include hk

theorem dequeue_empty (h : (s.queue q).cross.empty = true) : (s.dequeue q).queue q = { s.queue q with st := { (s.queue q).st with underrun := true } } := by
  simp [State.dequeue, hk, h]

theorem dequeue_oldest {e : Rec128} {rest : List Rec128} (h : (s.queue q).cross.empty = false) (he : (s.queue q).entries = e :: rest) :
    (s.dequeue q).queue q = { s.queue q with entries := rest, last := e, cross := (s.queue q).cross.read k } := by
  simp [State.dequeue, hk, h, he]

omit hk

@[simp] theorem dequeue_mem : (s.dequeue q).mem = s.mem := by unfold State.dequeue; dsimp only; split <;> simp
@[simp] theorem dequeue_mac : (s.dequeue q).mac = s.mac := by unfold State.dequeue; dsimp only; split <;> simp

/-- A read by software of a queue that nothing waits to enter. -/
theorem exec_queueRead (hev : ∀ d, q ≠ .events d) (hmac : q = .mdpRx → s.mac = []) : exec (.queueRead q) s = .next (s.dequeue q) := by
  change execQueueRead q s = _
  cases q with
  | events d => exact absurd rfl (hev d)
  | mdpRx => simp [execQueueRead, State.macDrain, hmac rfl, State.macRun]
  | completion c k => rfl
  | mailToAoc => rfl
  | mailToHost => rfl

/-- An event read while none waits in a holding register. -/
theorem exec_queueRead_events {d : Nat} (hold : (s.die d).holding = []) : exec (.queueRead (.events d)) s = .next (s.dequeue (.events d)) := by
  change execQueueRead (.events d) s = _
  have hhold : ((s.dequeue (.events d)).die d).holding = [] := by
    unfold State.dequeue State.setQueue
    simpa [crossK] using hold
  simp only [execQueueRead]
  generalize ((s.dequeue (.events d)).die d).holding.length + ((s.dequeue (.events d)).die d).stalled.length = n
  cases n with
  | zero => rfl
  | succ n => rw [State.eventsMove, hhold]

theorem exec_queueWrite_room (v : Rec128) (h : s.queueFull q = false) : exec (.queueWrite q v) s = .next (s.enqueue q v) := by
  change execQueueWrite q v s = _
  simp [execQueueWrite, h]

theorem enqueue_spec (v : Rec128) : (s.enqueue q v).mem = s.mem ∧
    ((s.enqueue q v).queue q).entries = (s.queue q).entries ++ [BitVec.ofNat 128 (v.toNat % 2 ^ (queueShape q).2)] ∧
    ((s.enqueue q v).queue q).st = (s.queue q).st ∧ ∀ k, crossK q = some k → ((s.enqueue q v).queue q).cross = (s.queue q).cross.wrote k := by
  unfold State.enqueue
  refine ⟨setQueue_mem .., ?_, ?_, fun k hk => ?_⟩
  · rw [setQueue_queue_same]
  · rw [setQueue_queue_same]
  · rw [setQueue_queue_same, hk]

/-- An event that enters its die's queue. -/
theorem enqueue_events (d : Nat) (ev : Rec128) : OnlyDie s (s.enqueue (.events d) ev) d ∧
    ((s.enqueue (.events d) ev).die d).events.entries = (s.die d).events.entries ++ [ev] ∧ ((s.enqueue (.events d) ev).die d).holding = (s.die d).holding := by
  have hev : BitVec.ofNat 128 (ev.toNat % 2 ^ (queueShape (.events d)).2) = ev := by
    apply BitVec.eq_of_toNat_eq
    simp [queueShape, Nat.mod_eq_of_lt ev.isLt]
  refine ⟨⟨_, by unfold State.enqueue State.setQueue State.updDie; rfl⟩, ?_, ?_⟩
  · have := (enqueue_spec s (.events d) ev).2.1
    rwa [hev] at this
  · simp [State.enqueue, State.setQueue]

end

/-! ### A waybill completes (R43, R49, R53, R250) -/

section
variable (s : State) (c st chan : Nat) (e : WbEntry)

/-- What a completing waybill leaves before it posts. -/
def State.wbLeft : State := (((if st ≤ 1 then s.keepRecord c st e stDone else s).joinFlags e.part e.seq e.flags).dropWb c st chan).coalFlush c st

theorem finishWb_noPost (h : fld e.wb 102 1 ≠ 1) : s.finishWb c st chan e = s.wbLeft c st chan e := if_neg h

theorem keepRecord_frame (status : Byte) : (s.keepRecord c st e status).mem = s.mem ∧ (s.keepRecord c st e status).parts = s.parts ∧
    ((s.keepRecord c st e status).cl c).dc = (s.cl c).dc ∧ ∃ x, ((s.keepRecord c st e status).cl c).st = { (s.cl c).st with chans := x } :=
  ⟨rfl, rfl, by simp [State.keepRecord, State.updChan, State.updSt], _, by simp [State.keepRecord, State.updChan]; rfl⟩

/-- A completing waybill leaves its siding, joins its flags to its consignment's, and changes no byte, no counter, no completion queue and no held record. -/
theorem wbLeft_spec : let t := s.wbLeft c st chan e
    t.mem = s.mem ∧ t.siding c st = (s.siding c st).eraseP (WbEntry.onChan st chan) ∧ (∀ n, t.dcOf c n = s.dcOf c n) ∧
    (t.cl c).st.cq = (s.cl c).st.cq ∧ (t.cl c).st.heldRecs = (s.cl c).st.heldRecs ∧
    ∀ x, s.entry e.part e.seq = some x → t.entry e.part e.seq = some { x with flags := x.flags ||| e.flags } := by
  obtain ⟨u, hu, hmem, hparts, hdc, ch, hst⟩ : ∃ u, (if st ≤ 1 then s.keepRecord c st e stDone else s) = u ∧ u.mem = s.mem ∧ u.parts = s.parts ∧
      (u.cl c).dc = (s.cl c).dc ∧ ∃ x, (u.cl c).st = { (s.cl c).st with chans := x } := by
    split
    · exact ⟨_, rfl, keepRecord_frame ..⟩
    · exact ⟨s, rfl, rfl, rfl, rfl, (s.cl c).st.chans, rfl⟩
  have hcalm := calm_coalFlush ((u.joinFlags e.part e.seq e.flags).dropWb c st chan) c st
  have hjoin : (u.joinFlags e.part e.seq e.flags).cl c = u.cl c := rfl
  unfold State.wbLeft
  rw [hu]
  refine ⟨?_, ?_, fun n => ?_, ?_, ?_, fun x hx => ?_⟩
  · rw [coalFlush_mem]; exact hmem
  · rw [calm_siding hcalm, State.dropWb, updSiding_siding_same, State.siding, hjoin, hst]; rfl
  · rw [calm_dcOf hcalm, State.dropWb, State.updSiding, State.updSt, State.dcOf, updCl_cl_same, hjoin, hdc]; rfl
  · rw [calm_st hcalm, State.dropWb, State.updSiding, updSt_st, hjoin, hst]
  · rw [calm_st hcalm, State.dropWb, State.updSiding, updSt_st, hjoin, hst]
  · rw [entry_congr (coalFlush_parts ..), State.dropWb, State.updSiding, State.updSt, updCl_entry, State.joinFlags,
      entry_updEntry (f := fun x => { x with flags := x.flags ||| e.flags }) fun _ => rfl, entry_congr hparts, hx]
    rfl

end

/-- A record in its engine's completion queue. -/
theorem pushRecord_spec (s : State) (c st : Nat) (r : Rec128) : (s.pushRecord c st r).mem = s.mem ∧ (s.pushRecord c st r).parts = s.parts ∧
    (∀ n, (s.pushRecord c st r).dcOf c n = s.dcOf c n) ∧ (∀ k, (s.pushRecord c st r).siding c k = s.siding c k) ∧
    (s.pushRecord c st r).cqOf c (0x0C + st) = { s.cqOf c (0x0C + st) with entries := (s.cqOf c (0x0C + st)).entries ++ [r] } ∧
    ((s.pushRecord c st r).cl c).st.heldRecs = (s.cl c).st.heldRecs := by
  refine ⟨rfl, rfl, fun n => ?_, fun k => ?_, ?_, ?_⟩
  · simp [State.pushRecord, State.updSt, State.dcOf]
  · simp [State.pushRecord, State.siding]
  · simp [State.pushRecord, State.cqOf]
  · simp [State.pushRecord]

/-- A held record enters its queue, and the waybill whose completion it holds completes; that waybill posts nothing. -/
theorem completionRecordPush_spec {s : State} {c : Nat} {engine : Bool} {h : HeldRec} {e : WbEntry}
    (hheld : (s.cl c).st.heldRecs.find? (fun h => h.engine == engine) = some h) (hroom : engineRoom s c engine.toNat = true)
    (hhead : s.headWb c engine.toNat (bits h.record.toNat 24 3) = some e) (hpost : fld e.wb 102 1 = 0) :
    Runs (.completionRecordPush c engine) s (fun t => t.mem = s.mem ∧
      t.cqOf c (0x0C + engine.toNat) = { s.cqOf c (0x0C + engine.toNat) with entries := (s.cqOf c (0x0C + engine.toNat)).entries ++ [h.record] } ∧
      (t.cl c).st.heldRecs = (s.cl c).st.heldRecs.erase h ∧
      t.siding c engine.toNat = (s.siding c engine.toNat).eraseP (WbEntry.onChan engine.toNat (bits h.record.toNat 24 3))) := by
  have hst : (if engine then 1 else 0) = engine.toNat := by cases engine <;> rfl
  generalize hn : engine.toNat = n at *
  obtain ⟨hmem, -, -, hsid, hcq, hrecs⟩ := pushRecord_spec s c n h.record
  generalize hu : (s.pushRecord c n h.record).updSt c (fun x => { x with heldRecs := x.heldRecs.erase h }) = u
  have hst' : (u.cl c).st = { ((s.pushRecord c n h.record).cl c).st with heldRecs := (s.cl c).st.heldRecs.erase h } := by
    rw [← hu, updSt_st, hrecs]
  have husid : ∀ k, u.siding c k = s.siding c k := fun k => by rw [← hsid k, State.siding, hst', State.siding]
  have hexec : exec (.completionRecordPush c engine) s = .next (u.wbLeft c n (bits h.record.toNat 24 3) e) := by
    change execCompletionRecordPush c engine s = _
    have huhead : u.headWb c n (bits h.record.toNat 24 3) = some e := by rw [← hhead, State.headWb, husid, State.headWb]
    simp only [execCompletionRecordPush, hheld, hst, hroom, hu, huhead]
    rw [← finishWb_noPost (h := by omega)]
    rfl
  obtain ⟨humem, husiding, -, hucq, huheld, -⟩ := wbLeft_spec u c n (bits h.record.toNat 24 3) e
  refine ⟨_, hexec, ?_, ?_, ?_, ?_⟩
  · rw [humem, ← hu]; exact hmem
  · rw [State.cqOf, hucq, hst']; exact hcq
  · rw [huheld, hst']
  · rw [husiding, husid]

/-- Settles O13: READQ and QCTL by `readRec_spec` and `exec_qctl`, the queues by `dequeue` and `enqueue`, a station's event by where its die's queue, its register
and its station stand, a held record by `completionRecordPush_spec`. -/
theorem queues : Obligations.Queues := by
  unfold Obligations.Queues
  intro s c
  refine ⟨fun u rd q hlive hf heven hmax hq => ?_, fun u rd q hlive hf hbad => ?_, fun u ra q hlive hf hq => exec_qctl ra q hlive hf hq, fun q hev hmac => ?_,
    fun d e rest hne he hhold => ?_, fun q v hroom => ?_, fun q v hfull hrx hev => ?_, fun q v hfull hhw => ?_, fun st ev => ?_,
    fun engine h e hheld hroom hhead hpost => completionRecordPush_spec hheld hroom hhead hpost⟩
  · have hok : ¬(rd.toNat % 2 ≠ 0 ∨ 28 < rd.toNat ∨ (q ≠ 0x0C ∧ q ≠ 0x0D)) := by
      rintro (h | h | h)
      · exact h heven
      · omega
      · exact hq.elim h.1 h.2
    exact ⟨_, (exec_readq rd q hlive hf).trans (by rw [if_neg hok]), readRec_spec u c q.toNat heven hmax⟩
  · rw [exec_readq rd q hlive hf, if_pos hbad]
  · exact ⟨_, exec_queueRead s q hev hmac, dequeue_mem s q, dequeue_plain s q, fun k hk => ⟨dequeue_empty s q hk, fun e rest h he => dequeue_oldest s q hk h he⟩⟩
  · have hq := dequeue_oldest s (.events d) rfl hne he
    refine ⟨_, exec_queueRead_events s hhold, ⟨_, by unfold State.dequeue State.setQueue State.updDie; rfl⟩, ?_, ?_⟩
    · exact congrArg RecQ.entries hq
    · exact congrArg RecQ.last hq
  · exact ⟨_, exec_queueWrite_room s q v hroom, enqueue_spec s q v⟩
  · have hexec : exec (.queueWrite q v) s = .next (s.setQueue q { s.queue q with st := { (s.queue q).st with overflow := true } }) := by
      change execQueueWrite q v s = _
      cases q with
      | events d => exact absurd rfl (hev d)
      | mdpRx => exact absurd rfl hrx
      | completion | mailToAoc | mailToHost => simp [execQueueWrite, hfull]
    exact ⟨_, hexec, setQueue_mem .., setQueue_queue_same ..⟩
  · change execQueueWrite q v s = _
    rcases hhw with rfl | ⟨d, rfl⟩
    · simp [execQueueWrite, hfull]
    · simp [execQueueWrite, hfull]
  · intro d k waits
    have hexec : exec (.stationEvent ⟨c, st⟩ ev) s = .next (if waits (s.die d).stalled then s
        else if waits (s.die d).holding then s.updDie d fun x => { x with stalled := x.stalled ++ [(k, ev)] }
        else if s.queueFull (.events d) then s.updDie d fun x => { x with holding := x.holding ++ [(k, ev)] }
        else s.enqueue (.events d) ev) := by
      change execStationEvent ⟨c, st⟩ ev s = _
      simp only [execStationEvent, d, k, waits]
      repeat' split
      all_goals rfl
    have honly : ∀ f : Die → Die, OnlyDie s (s.updDie d f) d := fun f => ⟨_, by unfold State.updDie; rfl⟩
    have hno : ∀ {b : Bool}, b = false → ¬ b = true := fun h => by simp [h]
    refine ⟨fun h => by rw [hexec, if_pos h], fun h h' hroom => ?_, fun h h' hfull => ?_, fun h h' => ?_⟩
    · rw [if_neg (hno h), if_neg (hno h'), if_neg (hno hroom)] at hexec
      exact ⟨_, hexec, enqueue_events s d ev⟩
    · rw [if_neg (hno h), if_neg (hno h'), if_pos hfull] at hexec
      exact ⟨_, hexec, honly _, by simp, by simp⟩
    · rw [if_neg (hno h), if_pos h'] at hexec
      exact ⟨_, hexec, honly _, by simp, by simp, by simp⟩

end Sys2Proof.Machine
end

section
/-! SUPPORT. The life of a waybill in its siding (R43, R46, R49, R53, R72, R240, R250), and the statement about it. -/

namespace Sys2Proof.Machine

/-- The element found is the one changed. -/
theorem mem_mapFirst {α : Type} {p : α → Bool} {f : α → α} {l : List α} {x : α} (h : l.find? p = some x) : f x ∈ mapFirst p f l := by
  induction l with
  | nil => simp at h
  | cons y l ih =>
    rw [List.find?_cons] at h
    unfold mapFirst
    cases hy : p y with
    | true => rw [hy] at h; simp at h; simp [h]
    | false => rw [hy] at h; simp [ih h]

section
variable (s : State) (c st chan : Nat) (e : WbEntry)

/-- The head waybill of a channel as it stands after a change of it. -/
theorem updWb_mem_siding {f : WbEntry → WbEntry} (h : s.headWb c st chan = some e) : f e ∈ (s.updWb c st chan f).siding c st := by
  rw [State.updWb, updSiding_siding_same]
  exact mem_mapFirst h

theorem onlyCluster_updWb (f : WbEntry → WbEntry) : OnlyCluster s (s.updWb c st chan f) c := by
  unfold State.updWb State.updSiding
  exact onlyCluster_updSt ..

theorem onlyCluster_updChan {s t : State} {c : Nat} (h : OnlyCluster s t c) (k : Nat) (f : Chan → Chan) : OnlyCluster s (t.updChan c k f) c := by
  unfold State.updChan State.updSt
  exact onlyCluster_then_updCl h _

@[simp] theorem updChan_siding (s : State) (c k : Nat) (f : Chan → Chan) (st : Nat) : (s.updChan c k f).siding c st = s.siding c st := by
  simp [State.updChan, State.siding]

theorem calm_headWb {s t : State} (h : Calm s t) : t.headWb c st chan = s.headWb c st chan := by rw [State.headWb, calm_siding h, State.headWb]

theorem finishWb_posts (h : fld e.wb 102 1 = 1) : s.finishWb c st chan e =
    (s.wbLeft c st chan e).post c (fld e.wb 103 5) st (wbTag e.wb) ((lastTile e.wb).1 % 65536) ((lastTile e.wb).2 % 65536) := if_pos h

theorem counted_st (n : Nat) : ((s.counted c n).cl c).st = (s.cl c).st := by simp [State.counted]

/-- A completing waybill leaves its siding, joins its flags and posts its counter; no byte and no completion queue changes. -/
theorem finishWb_spec (hpost : fld e.wb 102 1 = 1 → s.dcOf c (fld e.wb 103 5) ≠ 65535) : let t := s.finishWb c st chan e
    t.mem = s.mem ∧ t.siding c st = (s.siding c st).eraseP (WbEntry.onChan st chan) ∧
    (∀ n, t.dcOf c n = if fld e.wb 102 1 = 1 ∧ n = fld e.wb 103 5 then s.dcOf c n + 1 else s.dcOf c n) ∧ (t.cl c).st.cq = (s.cl c).st.cq ∧
    ∀ x, s.entry e.part e.seq = some x → t.entry e.part e.seq = some { x with flags := x.flags ||| e.flags } := by
  obtain ⟨hmem, hsid, hdc, hcq, -, hentry⟩ := wbLeft_spec s c st chan e
  by_cases h : fld e.wb 102 1 = 1
  · rw [finishWb_posts s c st chan e h, post_room (by rw [hdc]; exact hpost h)]
    refine ⟨hmem, ?_, fun n => ?_, ?_, hentry⟩
    · rw [State.siding, counted_st]; exact hsid
    · rw [counted_dcOf, hdc]; simp [h]
    · rw [counted_st, hcq]
  · rw [finishWb_noPost s c st chan e h]
    exact ⟨hmem, hsid, fun n => by rw [hdc]; simp [h], hcq, hentry⟩

/-- A waybill as it starts: it runs, or with no tile to work at it is written. -/
def State.startedWb (r : Run) (e : WbEntry) : WbEntry := { e with
  phase := if zeroCount e.wb then .written else .running
  held := if zeroCount e.wb then [] else s.heldOf c st (r.ctx c) e.wb
  freePtr := if st = 6 then (s.win c (upWin e.wb)).freePtr else 0 }

/-- The head waybill starts, and its channel is busy. -/
def State.startWb (r : Run) : State :=
  let t := s.updWb c st chan (s.startedWb c st r)
  if st ≤ 1 then t.updChan c (8 * st + chan) fun k => { k with busy := true, lat := aeLat e.wb, prio := aePrio e.wb, bytes := 0 } else t

theorem startWb_spec (r : Run) (hhead : s.headWb c st chan = some e) :
    OnlyCluster s (s.startWb c st chan e r) c ∧ s.startedWb c st r e ∈ (s.startWb c st chan e r).siding c st := by
  have hin := updWb_mem_siding s c st chan e (f := s.startedWb c st r) hhead
  unfold State.startWb
  dsimp only
  split
  · exact ⟨onlyCluster_updChan (onlyCluster_updWb ..) .., by rw [updChan_siding]; exact hin⟩
  · exact ⟨onlyCluster_updWb .., hin⟩

variable {s e} {r : Run}

section
variable (hhead : s.headWb c st chan = some e) (hrun : (s.cl c).run = some r) (hstop : r.stopped = false)

include hhead hrun hstop

theorem waybillAtHead_dropped (hphase : e.phase = .queued) (hst : st ≤ 1) (hdis : (s.chan c (8 * st + chan)).disable = true) :
    exec (.waybillAtHead c st chan) s = .next (s.failWb c st e stDmaDropped 0xFFFF 0xFFFF) := by
  change execWaybillAtHead c st chan s = _
  simp [execWaybillAtHead, hhead, hrun, hphase, hstop, hst, hdis]

variable {a : Acc}

theorem waybillAtHead_passes (hphase : e.phase = .queued) (hopen : ¬(st ≤ 1 ∧ (s.chan c (8 * st + chan)).disable = true))
    (hjob : Job.exec (wbCheck s c st r e.wb) = (.ok (), a)) :
    exec (.waybillAtHead c st chan) s = .next ((s.settle a).updWb c st chan fun e => { e with phase := if fld e.wb 80 1 = 1 then .waiting else .ready }) := by
  change execWaybillAtHead c st chan s = _
  simp [execWaybillAtHead, hhead, hrun, hphase, hstop, hopen, hjob, waits]

theorem waybillAtHead_fails {status : Byte} (hphase : e.phase = .queued) (hopen : ¬(st ≤ 1 ∧ (s.chan c (8 * st + chan)).disable = true))
    (hjob : Job.exec (wbCheck s c st r e.wb) = (.error status, a)) (hstatus : status ≠ stHold) :
    exec (.waybillAtHead c st chan) s = .next ((s.settle a).failWb c st e status 0xFFFF 0xFFFF) := by
  change execWaybillAtHead c st chan s = _
  simp [execWaybillAtHead, hhead, hrun, hphase, hstop, hopen, hjob, waits, hstatus]

theorem waybillStart_starts (hphase : e.phase = .ready) (hjob : Job.exec (if zeroCount e.wb then pure () else ownerStart s (r.ctx c) e.wb) = (.ok (), a)) :
    exec (.waybillStart c st chan) s = .next ((s.settle a).startWb c st chan e r) := by
  change execWaybillStart c st chan s = _
  simp only [execWaybillStart, hhead, hrun, hphase, hstop, hjob, waits, ne_eq, not_true_eq_false, Bool.false_eq_true, or_self, if_false]
  rfl

theorem waybillStart_fails {status : Byte} (hphase : e.phase = .ready)
    (hjob : Job.exec (if zeroCount e.wb then pure () else ownerStart s (r.ctx c) e.wb) = (.error status, a)) (hstatus : status ≠ stHold) :
    exec (.waybillStart c st chan) s = .next ((s.settle a).failWb c st e status 0 0) := by
  change execWaybillStart c st chan s = _
  simp [execWaybillStart, hhead, hrun, hphase, hstop, hjob, waits, hstatus]

end

/-- A waybill whose last tile is written and acknowledged completes; one that is to push a record does so first. -/
theorem exec_waybillComplete (hold : s.oldWb c st chan = some e) (hphase : e.phase = .written) (hacks : e.acks = 0) (hdrain : e.inDrain = 0)
    (hdue : s.acksDue c st = false) (hheld : s.recHeld c st chan = false) (hroom : st ≤ 1 → fld e.wb 447 1 = 1 → engineRoom s c st = true) :
    exec (.waybillComplete c st chan) s =
      .next ((if st ≤ 1 ∧ fld e.wb 447 1 = 1 then s.pushRecord c st (recordOf e st stDone) else s).finishWb c st chan e) := by
  change execWaybillComplete c st chan s = _
  by_cases h : st ≤ 1 ∧ fld e.wb 447 1 = 1
  · simp [execWaybillComplete, hold, hphase, hacks, hdrain, hdue, hheld, h, hroom h.1 h.2]
  · simp [execWaybillComplete, hold, hphase, hacks, hdrain, hdue, hheld, h]

end

/-- Settles O22: the check and the start by the outcome of their job, the completion by `finishWb_spec`. -/
theorem waybillLife : Obligations.WaybillLife := by
  unfold Obligations.WaybillLife
  intro s c st chan e r
  refine ⟨fun hhead hrun hstop => ⟨fun hphase => ⟨fun hopen => ⟨fun a hjob => ?_, fun status a hjob hstatus => ?_⟩, fun hst hdis => ?_⟩, fun hphase o ho => ⟨fun hok => ?_, fun status herr hstatus => ?_⟩⟩,
    fun hold hphase hacks hdrain hdue hheld hroom hpost => ?_⟩
  · exact ⟨_, waybillAtHead_passes c st chan hhead hrun hstop hphase hopen hjob, rfl⟩
  · exact waybillAtHead_fails c st chan hhead hrun hstop hphase hopen hjob hstatus
  · exact waybillAtHead_dropped c st chan hhead hrun hstop hphase hst hdis
  · have hexec := waybillStart_starts c st chan hhead hrun hstop hphase (ho.trans (Prod.ext hok rfl))
    obtain ⟨honly, hin⟩ := startWb_spec (s.settle o.2) c st chan e r (by rw [calm_headWb c st chan (calm_settle ..), hhead])
    exact ⟨_, hexec, honly, _, hin, rfl, rfl, rfl, rfl⟩
  · exact waybillStart_fails c st chan hhead hrun hstop hphase (ho.trans (Prod.ext herr rfl)) hstatus
  · have hexec := exec_waybillComplete c st chan hold hphase hacks hdrain hdue hheld hroom
    by_cases h : st ≤ 1 ∧ fld e.wb 447 1 = 1
    · rw [if_pos h] at hexec
      obtain ⟨hpmem, hpparts, hpdc, hpsid, hpcq, -⟩ := pushRecord_spec s c st (recordOf e st stDone)
      obtain ⟨hmem, hsid, hdc, hcq, hentry⟩ := finishWb_spec (s.pushRecord c st (recordOf e st stDone)) c st chan e (by rw [hpdc]; exact hpost)
      refine ⟨_, hexec, hmem.trans hpmem, by rw [hsid, hpsid], fun n => by rw [hdc, hpdc], fun x hx => hentry x (by rw [entry_congr hpparts]; exact hx),
        fun _ _ => ?_⟩
      rw [State.cqOf, hcq]
      exact congrArg RecQ.entries hpcq
    · rw [if_neg h] at hexec
      obtain ⟨hmem, hsid, hdc, hcq, hentry⟩ := finishWb_spec s c st chan e hpost
      exact ⟨_, hexec, hmem, hsid, hdc, hentry, fun hst hrec => absurd ⟨hst, hrec⟩ h⟩

end Sys2Proof.Machine
end

section
/-! SUPPORT. Answers to token requests (R72, R94, R97, R99, R433): grants, returns and refusals at the cluster that takes them, and the statement about them. -/

namespace Sys2Proof.Machine

/-! ### A failed waybill (R72, R74, R250) -/

section
variable {s : State} {c : Nat} {r : Run} (hrun : (s.cl c).run = some r) (st : Nat) (e : WbEntry) (status : Byte) (i j : Nat)

/-- The report of a failed waybill. -/
def wbFailure (c st : Nat) (e : WbEntry) (status : Byte) (i j : Nat) : Failure :=
  { status := status, cluster := c, station := st, wbTag := wbTag e.wb, i := i % 65536, j := j % 65536 }

/-- A failed waybill fails its run, once its engine's record is out. -/
theorem failWb_eq : ∃ t : State, s.failWb c st e status i j = t.failRun c (wbFailure c st e status i j) ∧ (t.cl c).run = (s.cl c).run ∧ t.parts = s.parts ∧ t.mem = s.mem := by
  have hkeep : ((s.keepRecord c st e status).cl c).run = (s.cl c).run := by simp [State.keepRecord, State.updChan]
  unfold State.failWb
  refine ⟨_, rfl, ?_⟩
  split
  · dsimp only
    split
    · exact ⟨by rw [State.pushRecord, updSt_run, hkeep], rfl, rfl⟩
    · exact ⟨hkeep, rfl, rfl⟩
  · exact ⟨rfl, rfl, rfl⟩

include hrun

theorem failWb_failsOf : (s.failWb c st e status i j).failsOf r.part r.seq = (s.failsOf r.part r.seq).map (· ++ [wbFailure c st e status i j]) := by
  obtain ⟨t, heq, ht, hparts, -⟩ := failWb_eq (s := s) (c := c) st e status i j
  rw [heq, failRun_failsOf (ht.trans hrun), failsOf_congr hparts]

end

/-! ### A message taken (R94) -/

section
variable {s : State} {c : Nat} {p : Packet}

/-- The cluster that takes a message, just woken. -/
def State.taker (s : State) (c : Nat) : State := (s.woken c).updCl c id

@[simp] theorem taker_mem : (s.taker c).mem = s.mem := woken_mem s c
@[simp] theorem taker_parts : (s.taker c).parts = s.parts := woken_parts s c
@[simp] theorem taker_out : (s.taker c).out = s.out := woken_out s c
@[simp] theorem taker_cl (k : Nat) : (s.taker c).cl k = (s.woken c).cl k := updCl_id_cl ..
@[simp] theorem taker_win (w : Nat) : (s.taker c).win c w = s.win c w := by rw [State.win, taker_cl]; exact woken_win s c w
theorem taker_dcOf (n : Nat) : (s.taker c).dcOf c n = s.dcOf c n := by rw [State.dcOf, taker_cl, woken_cl_same]; rfl
theorem taker_run : ((s.taker c).cl c).run = (s.cl c).run := by rw [taker_cl, woken_cl_same]
theorem taker_tokWait : ((s.taker c).cl c).tokWait = (s.cl c).tokWait := by rw [taker_cl, woken_cl_same]
theorem taker_held : ((s.taker c).cl c).held = (s.cl c).held := by rw [taker_cl, woken_cl_same]
theorem taker_headWb (st chan : Nat) : (s.taker c).headWb c st chan = s.headWb c st chan := by
  rw [State.headWb, State.siding, taker_cl, woken_cl_same]; rfl

theorem taker_obj {i j : Nat} (h : objKey i j ≠ objKey 0x4801 1) : (s.taker c).obj i j = s.obj i j := woken_obj s c h

section
variable (hcrc : p.pcrc = pktCheck p) (hc : p.dstEp.toNat < 0x2000) (hstat : (s.cl p.dstEp.toNat).stat = .active) (hpads : s.padsOpen = true)
  (hmesh : (s.cl p.dstEp.toNat).tokMesh = []) (hroom : (s.cl p.dstEp.toNat).tokQ.length < 64)

include hcrc hc hstat hpads hmesh hroom

theorem exec_tokenGrant (hty : p.msg.toNat % 16 = 2) : exec (.tokenGrant p) s = .next ((s.taker p.dstEp.toNat).takeGrant p.dstEp.toNat p) := by
  change execTokenGrant p s = _
  rw [State.taker, execTokenGrant]
  simp [hcrc, Nat.not_le.2 hc, hstat, hpads, hty, tokenIn_room hroom hmesh, State.takeToken]

theorem exec_tokenReturn (hty : p.msg.toNat % 16 = 3) : exec (.tokenReturn p) s = .next ((s.taker p.dstEp.toNat).takeReturn p.dstEp.toNat p) := by
  change execTokenReturn p s = _
  rw [State.taker, execTokenReturn]
  simp [hcrc, Nat.not_le.2 hc, hstat, hpads, hty, tokenIn_room hroom hmesh, State.takeToken]

theorem exec_refused (hty : p.msg.toNat % 16 = 4) : exec (.refused p) s = .next ((s.taker p.dstEp.toNat).takeRefused p.dstEp.toNat p) := by
  change execRefused p s = _
  rw [State.taker, execRefused]
  simp [hcrc, Nat.not_le.2 hc, hstat, hpads, hty, tokenIn_room hroom hmesh, State.takeToken]

end

/-! ### Grants (R72, R94) -/

/-- A grant of the whole of the one request that waits is held by its channel. -/
theorem takeGrant_whole {q : TokenWait} (hwait : (s.cl c).tokWait = [q]) (htag : q.tag = BitVec.ofNat 16 (bits p.msg.toNat 96 16))
    (hwin : q.window = bits p.msg.toNat 4 3) (htarget : q.target % 65536 = bits p.msg.toNat 8 11) (hmod : targetMod q.target = p.srcMod)
    (hcount : q.count = bits p.msg.toNat 48 11) : let t := s.takeGrant c p
    t.mem = s.mem ∧ t.out = s.out ∧ (t.cl c).tokWait = [] ∧ (t.cl c).held = (s.cl c).held ++
      [{ chan := q.chan, target := q.target, window := q.window, gen := bits p.msg.toNat 80 8, first := bits p.msg.toNat 64 10, count := q.count }] := by
  have hkeep (ep tag : BitVec 16) (ty : Nat) : (s.dropKept ep tag ty).cl c = s.cl c := rfl
  unfold State.takeGrant
  simp only [hkeep, hwait, List.find?_cons, htag, hwin, htarget, hmod, BEq.rfl, Bool.and_self]
  refine ⟨rfl, rfl, ?_, ?_⟩
  · simp [hkeep, hwait, htag, hcount]
  · simp [hkeep, hcount]

/-- A grant that no request waits for goes back to its window. -/
theorem takeGrant_unasked (hwait : (s.cl c).tokWait = []) : s.takeGrant c p =
    (s.dropKept (BitVec.ofNat 16 c) (BitVec.ofNat 16 (bits p.msg.toNat 96 16)) 0x05).returnToken c (bits p.msg.toNat 88 4)
      { chan := 0, target := bits p.msg.toNat 8 11 + (if p.srcMod = 0xFF then 0 else 65536 * (p.srcMod.toNat + 1)), window := bits p.msg.toNat 4 3,
        gen := bits p.msg.toNat 80 8, first := bits p.msg.toNat 64 10, count := bits p.msg.toNat 48 11 } := by
  have hkeep (ep tag : BitVec 16) (ty : Nat) : (s.dropKept ep tag ty).cl c = s.cl c := rfl
  unfold State.takeGrant
  simp only [hkeep, hwait, List.find?_nil]

/-! ### Returns (R97) -/

@[simp] theorem updWin_dcOf (s : State) (c w : Nat) (f : Win → Win) (n : Nat) : (s.updWin c w f).dcOf c n = s.dcOf c n := by
  simp [State.dcOf, State.updWin]

/-- `land_ptr` of a window that posts nothing passes granules: no byte and no counter changes, and the granules left are granules of the window. -/
theorem landAdvance_quiet (w fuel : Nat) (hpost : (s.win c w).postEn = false) : let t := s.landAdvance c w fuel
    t.mem = s.mem ∧ (∀ n, t.dcOf c n = s.dcOf c n) ∧ ∀ g ∈ (t.win c w).granules, g ∈ (s.win c w).granules := by
  induction fuel generalizing s with
  | zero => exact ⟨rfl, fun _ => rfl, fun _ h => h⟩
  | succ fuel ih =>
    unfold State.landAdvance
    dsimp only
    split
    next g rest hg =>
      split
      · simp only [hpost, Bool.false_eq_true, if_false]
        obtain ⟨hmem, hdc, hleft⟩ := ih (s := s.updWin c w fun x => { x with granules := rest, landPtr := (x.landPtr + 1) % x.size }) (by simpa using hpost)
        refine ⟨hmem, fun n => (hdc n).trans (updWin_dcOf ..), fun x hx => ?_⟩
        have hrest : x ∈ rest := by simpa using hleft x hx
        exact hg ▸ List.mem_cons_of_mem g hrest
      · exact ⟨rfl, fun _ => rfl, fun _ h => h⟩
    · exact ⟨rfl, fun _ => rfl, fun _ h => h⟩

/-- Granules handed back to a window that posts nothing: counters stay, bytes change in granules of the writer alone, and what the return names has landed. -/
theorem returnGranules_quiet (w first count : Nat) (writer : BitVec 16) (mod : Byte) (hpost : (s.win c w).postEn = false) :
    let win := s.win c w
    let t := s.returnGranules c w first count writer mod
    (∀ n, t.dcOf c n = s.dcOf c n) ∧
    (∀ a, (∀ g ∈ win.granules, g.writer = writer → ¬(granuleAt c win g.idx ≤ a ∧ a < granuleAt c win g.idx + 2048)) → t.mem.byte a = s.mem.byte a) ∧
    ∀ g ∈ (t.win c w).granules, g.writer = writer → g.mod = mod → (∃ k < count, g.idx = (first + k) % win.size) → g.landed = true := by
  intro win t
  set mine : Granule → Bool := fun g => g.writer == writer && g.mod == mod && !g.landed && (List.range count).any fun k => g.idx == (first + k) % win.size with hmine
  have heq : t = ((s.scrambleAll ((win.granules.filter mine).map fun g => (granuleAt c win g.idx, 2048))).updWin c w fun x =>
      { x with granules := x.granules.map fun g => if mine g then { g with landed := true } else g }).settleLand c w := by
    simp only [State.scrambleAll, List.foldl_map]; rfl
  obtain ⟨hmem, hdc, hleft⟩ := landAdvance_quiet (c := c) (s := (s.scrambleAll ((win.granules.filter mine).map fun g => (granuleAt c win g.idx, 2048))).updWin c w fun x =>
      { x with granules := x.granules.map fun g => if mine g then { g with landed := true } else g }) w _ (by simpa using hpost)
  rw [heq, State.settleLand]
  refine ⟨fun n => (hdc n).trans ?_, fun a ha => ?_, fun g hg hw hm hk => ?_⟩
  · simp [State.dcOf, State.updWin]
  · rw [hmem, updWin_mem]
    refine scrambleAll_byte (fun r hr => ?_) s
    obtain ⟨g, hg, rfl⟩ := List.mem_map.1 hr
    obtain ⟨hin, hown⟩ := List.mem_filter.1 hg
    refine ha g hin ?_
    simp only [hmine, Bool.and_eq_true, beq_iff_eq] at hown
    exact hown.1.1.1
  · have hin := hleft g hg
    simp only [updWin_win_same, scrambleAll_win, List.mem_map] at hin
    obtain ⟨x, -, rfl⟩ := hin
    by_cases hx : mine x
    · simp [hx]
    · rw [if_neg hx] at hw hm hk ⊢
      obtain ⟨k, hk, hidx⟩ := hk
      by_contra hland
      refine hx ?_
      simp only [hmine, Bool.and_eq_true, beq_iff_eq, List.any_eq_true, List.mem_range, Bool.not_eq_true']
      exact ⟨⟨⟨hw, hm⟩, by simpa using hland⟩, k, hk, hidx⟩

/-! ### Refusals (R99) -/

/-- A refusal of the request that a running waybill waits for fails that waybill. -/
theorem takeRefused_waits {q : TokenWait} {e : WbEntry} {r : Run} {x : Entry} (hwait : (s.cl c).tokWait = [q]) (htag : q.tag.toNat = bits p.msg.toNat 96 16)
    (hhead : s.headWb c (q.chan / 8) (q.chan % 8) = some e) (hphase : e.phase = .running) (hrun : (s.cl c).run = some r)
    (hentry : s.entry r.part r.seq = some x) : ∃ x' i j, (s.takeRefused c p).entry r.part r.seq = some x' ∧
      x'.fails = x.fails ++ [wbFailure c (q.chan / 8) e (refusalStatus (bits p.msg.toNat 92 4)) i j] := by
  have hcl {u : State} {ep tag : BitVec 16} {ty : Nat} : (u.dropKept ep tag ty).cl c = u.cl c := rfl
  unfold State.takeRefused
  simp only [hcl, hwait, List.find?_cons, htag, BEq.rfl]
  generalize hu : ((s.dropKept _ _ _).dropKept _ _ _).dropKept _ _ _ = u
  have hwb : u.headWb c (q.chan / 8) (q.chan % 8) = some e := by rw [← hu]; exact hhead
  have hrun' : (u.cl c).run = some r := by rw [← hu]; exact hrun
  have hfails : u.failsOf r.part r.seq = some x.fails := by rw [← hu]; exact congrArg (Option.map _) hentry
  unfold State.failChan
  simp only [hwb, hphase, true_or, if_true]
  obtain ⟨x', hx', hfails⟩ := entry_of_failsOf ((failWb_failsOf hrun' ..).trans (congrArg (Option.map _) hfails))
  exact ⟨x', _, _, hx', hfails⟩

end

/-- Settles O20: each message is taken at once by a queue with room, and grants, returns and refusals are told apart by what waits for them. -/
theorem tokenAnswers : Obligations.TokenAnswers := by
  unfold Obligations.TokenAnswers
  intro s p v c same hcrc hc hstat hpads hmesh hroom
  refine ⟨fun q hty hwait htag hwin htarget hmod hcount => ?_, fun hty hwait => ?_, fun hty hrsv hrsv' => ⟨fun hopen hgen hpost => ?_, fun hgone => ?_⟩,
    fun q e r x hty hwait htag hchan hhead hphase hrun hentry => ?_⟩
  · obtain ⟨hmem, hout, hnone, hheld⟩ := takeGrant_whole (s := s.taker c) (c := c) (taker_tokWait.trans hwait) htag hwin htarget hmod hcount
    exact ⟨_, exec_tokenGrant hcrc hc hstat hpads hmesh hroom hty, hmem.trans taker_mem, hout.trans taker_out, hnone, hheld.trans (by rw [taker_held])⟩
  · exact ⟨_, exec_tokenGrant hcrc hc hstat hpads hmesh hroom hty, (s.taker c).dropKept (BitVec.ofNat 16 c) (BitVec.ofNat 16 (bits v 96 16)) 0x05,
      ⟨taker_mem, taker_out, taker_parts, fun k => taker_cl k⟩, takeGrant_unasked (taker_tokWait.trans hwait)⟩
  · have htake : (s.taker c).takeReturn c p = (s.taker c).returnGranules c (bits v 4 3) (bits v 64 10) (bits v 48 11) (BitVec.ofNat 16 (bits v 32 16)) p.srcMod := by
      simp [State.takeReturn, v, hrsv, hrsv', hopen, hgen]
    obtain ⟨hdc, hbyte, hland⟩ := returnGranules_quiet (s := s.taker c) (c := c) (bits v 4 3) (bits v 64 10) (bits v 48 11) (BitVec.ofNat 16 (bits v 32 16)) p.srcMod
      (by rw [taker_win]; exact hpost)
    simp only [taker_win] at hbyte hland
    exact ⟨_, exec_tokenReturn hcrc hc hstat hpads hmesh hroom hty, fun n => htake ▸ (hdc n).trans (taker_dcOf n),
      fun a ha => htake ▸ (hbyte a ha).trans (by rw [taker_mem]), htake ▸ hland⟩
  · have htake : (s.taker c).takeReturn c p = (s.taker c).bump 0x5020 3 1 := by
      rcases hgone with h | h <;> simp [State.takeReturn, v, hrsv, hrsv', h]
    exact ⟨_, exec_tokenReturn hcrc hc hstat hpads hmesh hroom hty, s.taker c, ⟨taker_mem, taker_out, taker_parts, fun k => taker_cl k⟩,
      taker_obj (by decide), htake⟩
  · obtain ⟨x', i, j, hx', hfails⟩ := takeRefused_waits (s := s.taker c) (p := p) (taker_tokWait.trans hwait) htag (taker_headWb _ _ |>.trans hhead) hphase
      (taker_run.trans hrun) ((entry_congr taker_parts _ _).trans hentry)
    exact ⟨_, exec_refused hcrc hc hstat hpads hmesh hroom hty, x', _, hx', hfails, rfl, rfl, rfl, rfl⟩

end Sys2Proof.Machine
end

section
/-! SUPPORT. The scratchpad's own upkeep and notices of stale watches (R63, R64, R83, R86, R88, R90, R240 to R243, R409): what a scrub, a notice and the end of
a refetch leave, and the statement about them. -/

namespace Sys2Proof.Machine

/-! ### Latent errors (R88, R90, R409) -/

theorem resolveWord_marks (s : State) (w : Nat) : (s.resolveWord w).marks = s.marks := by
  unfold State.resolveWord; repeat' (first | rfl | split)

theorem coalOut_marks (s : State) (c : Nat) (gone : Coal → Bool) : (s.coalOut c gone).marks = s.marks := by
  unfold State.coalOut
  refine foldl_same (P := State.marks) (fun s w => ?_) _ _
  exact resolveWord_marks s w

/-- A resolved word adds at most one row to a cluster's rows at fault. -/
theorem resolveWord_badRows (s : State) (w c : Nat) : ((s.resolveWord w).cl c).badRows.length ≤ (s.cl c).badRows.length + 1 := by
  have hrow : ∀ (t : State) (d row : Nat), ((t.updCl d fun cl => if cl.badRows.contains row then cl else { cl with badRows := cl.badRows ++ [row] }).cl c).badRows.length ≤
      (t.cl c).badRows.length + 1 := by
    intro t d row
    by_cases h : c = d
    · subst h; rw [updCl_cl_same]; split <;> simp
    · rw [updCl_cl_ne _ _ _ _ h]; exact Nat.le_succ _
  unfold State.resolveWord
  split
  · exact Nat.le_succ _
  · exact Nat.le_succ _
  · split <;> exact Nat.le_succ _
  · split
    · exact Nat.le_succ _
    · split
      · exact hrow ..
      · exact Nat.le_succ _
    · exact Nat.le_succ _

theorem resolveWords_badRows (c : Nat) (ws : List Nat) (s : State) : ((ws.foldl State.resolveWord s).cl c).badRows.length ≤ (s.cl c).badRows.length + ws.length := by
  induction ws generalizing s with
  | nil => exact Nat.le_refl _
  | cons w ws ih =>
    have hone := resolveWord_badRows s w c
    have hrest := ih (s.resolveWord w)
    rw [List.foldl_cons, List.length_cons]
    omega

/-- What a resolved word leaves, many resolved words leave. -/
theorem resolveWords_same {β : Type} {P : State → β} (hP : ∀ s w, P (State.resolveWord s w) = P s) (ws : List Nat) (s : State) :
    P (ws.foldl State.resolveWord s) = P s := foldl_same hP ws s

theorem tab_look_clear {α : Type} (t : Tab α) (d : α) {a n k : Nat} (h : a ≤ k ∧ k < a + n) : Tab.look (Tab.clear t a n) d k = d := by
  have hnone : (Tab.clear t a n).find? (fun e => e.1 == k) = none := by
    simp only [Tab.clear, List.find?_filter, List.find?_eq_none]
    intro e _ he
    simp only [beq_iff_eq, Bool.not_eq_true', Bool.and_eq_false_iff, decide_eq_false_iff_not, decide_eq_true_eq] at he
    omega
  rw [Tab.look, hnone]

/-! ### A cluster that fails (R409 to R413) -/

/-- What a message, a count, a record or a partition's change leaves of a state: its clusters, memory, dies and floor plan. -/
def State.metal (s : State) : Tab Cluster × Memory × Tab Die × Bring := (s.clusters, s.mem, s.dies, s.boot)

theorem metal_cl {s t : State} (h : t.metal = s.metal) (c : Nat) : t.cl c = s.cl c := congrArg (fun m : Tab Cluster × Memory × Tab Die × Bring => Tab.look m.1 {} c) h
theorem metal_mem {s t : State} (h : t.metal = s.metal) : t.mem = s.mem := congrArg (·.2.1) h
theorem metal_die {s t : State} (h : t.metal = s.metal) (d : Nat) : t.die d = s.die d := congrArg (fun m : Tab Cluster × Memory × Tab Die × Bring => Tab.look m.2.2.1 {} d) h
theorem metal_boot {s t : State} (h : t.metal = s.metal) : t.boot = s.boot := congrArg (fun m : Tab Cluster × Memory × Tab Die × Bring => m.2.2.2) h

section
variable (s : State) (c : Nat)

theorem msiFor_metal (irq : Word) : (s.msiFor irq).metal = s.metal := by unfold State.msiFor; dsimp only; split <;> rfl

theorem postRecord_metal (kind failed : Nat) (repl : Option Nat) (parts : List Nat) : (s.postRecord kind failed repl parts).metal = s.metal := by
  unfold State.postRecord
  extract_lets no sub t₁ t₂ recov t₃ t₄
  have h₁ : t₁.metal = s.metal := by unfold t₁; split <;> rfl
  have h₂ : t₂.metal = s.metal := by rw [← h₁]; rfl
  have h₃ : t₃.metal = s.metal := by rw [← h₂]; rfl
  have h₄ : t₄.metal = s.metal := (foldl_same (P := State.metal) (f := fun s p => s.updPt p fun pt => { pt with stops := pt.stops ++ [no] }) (fun _ _ => rfl) parts t₃).trans h₃
  clear_value t₂ t₄
  split
  · exact h₂
  · split
    · exact (msiFor_metal ..).trans h₄
    · exact h₄

theorem sendService_metal (kind part : Nat) (mods : List Nat) (k : Nat) (clip : Bool) (a b : Word) :
    (s.sendService kind part mods k clip a b).metal = s.metal := foldl_same (P := State.metal) (f := fun s m => s.emit (.packet (pktFinish (s.stamp (servicePacket kind part m k clip a b))))) (fun _ _ => rfl) mods s

theorem noteRerun_metal (r : State) (ps : List Nat) (dieLoss : Bool) : (s.noteRerun r ps dieLoss).metal = s.metal := by
  unfold State.noteRerun
  refine foldl_same (P := State.metal) (fun t p => ?_) _ _
  split
  · exact sendService_metal ..
  · rfl

theorem replaceMember_metal (k : Nat) (r : Option Nat) : (s.replaceMember k r).metal = s.metal := by
  unfold State.replaceMember
  refine foldl_same (P := State.metal) (fun t p => ?_) _ _
  split <;> rfl

theorem event_stat (code part arg : Nat) : ((s.event code part arg).cl c).stat = (s.cl c).stat := by
  unfold State.event
  extract_lets k n at0 h lap word0 t₁ evt t₂
  have h₁ : (t₁.cl c).stat = (s.cl c).stat := calm_stat (calm_store ..) c
  have h₂ : (t₂.cl c).stat = (s.cl c).stat := by rw [← h₁]; rfl
  clear_value t₂
  split
  · rfl
  · split
    · rw [metal_cl (msiFor_metal ..), h₂]
    · exact h₂

theorem geoStep_stat (p : Nat) : ((s.geoStep p).cl c).stat = (s.cl c).stat := by
  unfold State.geoStep
  dsimp only
  rw [event_stat]
  rfl

theorem geoChanged_stat : (s.geoChanged.cl c).stat = (s.cl c).stat := by
  unfold State.geoChanged
  split
  · rfl
  · rw [State.redigest, setObj_cl]
    refine foldl_same (P := fun s : State => (s.cl c).stat) (fun t p => ?_) _ _
    rw [metal_cl (sendService_metal ..), geoStep_stat]

theorem renumber_cl : s.renumber.cl c = s.cl c := by
  unfold State.renumber
  refine foldl_same (P := fun s : State => s.cl c) (fun t p => ?_) _ _
  split <;> rfl

/-- The spare of a die is a spare cluster. -/
theorem spareOf_stat {d sp : Nat} (h : s.spareOf d = some sp) : (s.cl sp).stat = .spare := by
  unfold State.spareOf at h
  dsimp only at h
  split at h
  next hsp =>
    rw [Option.some.injEq] at h
    subst h
    simp only [Bool.and_eq_true, beq_iff_eq] at hsp
    exact hsp.2
  · cases h

theorem planChanged_metal : s.planChanged.metal = s.metal := rfl
theorem exhaust_metal : s.exhaust.metal = s.metal := rfl

/-- The floor plan names a cluster as bad. -/
def State.nameBad (s : State) (c : Nat) : State :=
  { s with boot := { s.boot with badClusters := if s.boot.badClusters.contains c then s.boot.badClusters else s.boot.badClusters ++ [c] } }

theorem nameBad_cl (k : Nat) : (s.nameBad c).cl k = s.cl k := rfl
theorem padInit_cl (k : Nat) : (s.padInit c).cl k = s.cl k := rfl

/-- A cluster fault, once the partitions have stopped: the cluster is dead, with its scratchpad initialised. -/
def State.deadCluster (s : State) (c : Nat) : State :=
  let stop := s.stopParts (fun p e => s.entryUses p c e) false
  ((stop.1.noteRerun s stop.2).padInit c).updCl c fun _ => { stat := .failed, repl := s.spareOf (c / 17), pll := false }

/-- A cluster fault, once the spare of the die has the role. -/
def State.spareIn (s : State) (c sp : Nat) : State :=
  ((s.deadCluster c).padInit sp).updCl sp fun _ => { stat := .active, role := (s.cl c).role, fwOk := true }

section
variable {s} {c} (h : (s.cl c).stat = .active)
include h

theorem clusterFault_spare {sp : Nat} (hsp : s.spareOf (c / 17) = some sp) : s.clusterFault c =
    ((((((s.spareIn c sp).updDie (c / 17) fun x => { x with spareUsed := true }).nameBad c).replaceMember c (some sp)).planChanged).postRecord 1 c (some sp)
      (s.stopParts (fun p e => s.entryUses p c e) false).2) := by
  simp only [State.spareIn, State.deadCluster, State.clusterFault, h, hsp]
  rfl

theorem clusterFault_noSpare (hsp : s.spareOf (c / 17) = none) : s.clusterFault c =
    (((((s.deadCluster c).nameBad c).replaceMember c none).planChanged.exhaust.geoChanged).postRecord 2 c none
      (s.stopParts (fun p e => s.entryUses p c e) false).2) := by
  simp only [State.deadCluster, State.clusterFault, h, hsp]
  rfl

theorem spare_ne {d sp : Nat} (hsp : s.spareOf d = some sp) : c ≠ sp := by
  rintro rfl
  exact absurd (h.symm.trans (spareOf_stat s hsp)) (by decide)

/-- A cluster fault leaves the cluster failed. -/
theorem clusterFault_stat : ((s.clusterFault c).cl c).stat = .failed := by
  have hdead : (s.deadCluster c).cl c = { stat := .failed, repl := s.spareOf (c / 17), pll := false } := updCl_cl_same _ _ _
  cases hsp : s.spareOf (c / 17) with
  | none =>
    rw [clusterFault_noSpare h hsp, metal_cl (postRecord_metal ..), geoChanged_stat, metal_cl (exhaust_metal _), metal_cl (planChanged_metal _),
      metal_cl (replaceMember_metal ..)]
    rw [nameBad_cl, hdead]
  | some sp =>
    rw [clusterFault_spare h hsp, metal_cl (postRecord_metal ..), metal_cl (planChanged_metal _), metal_cl (replaceMember_metal ..)]
    have halive : (s.spareIn c sp).cl c = (s.deadCluster c).cl c := by
      rw [State.spareIn, updCl_cl_ne _ _ _ _ (spare_ne h hsp), padInit_cl]
    rw [nameBad_cl, updDie_cl, halive, hdead]

end

theorem foldl_keeps {α : Type} {f : State → α → State} {P : State → Prop} (hkeep : ∀ s y, P s → P (f s y)) (l : List α) (s : State) (h : P s) :
    P (l.foldl f s) := List.foldlRecOn l f h fun s hs y _ => hkeep s y hs

/-- What one step of a fold brings about and every step keeps, the fold brings about. -/
theorem foldl_establishes {α : Type} {f : State → α → State} {P : State → Prop} {l : List α} {x : α} (hx : x ∈ l) (hset : ∀ s, P (f s x))
    (hkeep : ∀ s y, P s → P (f s y)) (s : State) : P (l.foldl f s) := by
  obtain ⟨l₁, l₂, rfl⟩ := List.append_of_mem hx
  rw [List.foldl_append, List.foldl_cons]
  exact foldl_keeps hkeep _ _ (hset _)

/-- A cluster that a die loss takes is failed, and no other changes. -/
theorem lostCluster_stat (k : Nat) (repl : Option Nat) : ((((s.padInit k).updCl k fun _ => { stat := .failed, pll := false }).replaceMember k repl).cl c).stat =
    if c = k then .failed else (s.cl c).stat := by
  rw [metal_cl (replaceMember_metal ..)]
  split
  next h => subst h; rw [updCl_cl_same]
  next h => rw [updCl_cl_ne _ _ _ _ h]; rfl

/-- A cluster that fails, alone or with its die, is failed. -/
theorem clusterFails_stat (h : (s.cl c).stat = .active) : ((s.clusterFails c).cl c).stat = .failed := by
  have hnot : ¬(s.cl c).stat = .fusedOff := by rw [h]; decide
  unfold State.clusterFails
  split
  · unfold State.dieLost
    dsimp only
    rw [metal_cl (postRecord_metal ..), metal_cl (noteRerun_metal ..), geoChanged_stat, metal_cl (planChanged_metal _), renumber_cl]
    refine foldl_establishes (P := fun t => (t.cl c).stat = .failed) List.mem_cons_self (fun t => ?_) (fun t d ht => ?_) _
    · split
      all_goals
        refine foldl_establishes (P := fun t => (t.cl c).stat = .failed) (x := c % 17) (List.mem_range.2 (Nat.mod_lt _ (by decide))) (fun t => ?_) (fun t k ht => ?_) _
        · rw [Nat.div_add_mod' c 17, if_neg hnot, lostCluster_stat, if_pos rfl]
        · split
          · exact ht
          · rw [lostCluster_stat, ht, ite_self]
    · have hfold : (((List.range 17).foldl (fun t k => if (s.cl (d * 17 + k)).stat = .fusedOff then t
          else ((t.padInit (d * 17 + k)).updCl (d * 17 + k) fun _ => { stat := .failed, pll := false }).replaceMember (d * 17 + k) none) t).cl c).stat = .failed := by
        refine foldl_keeps (P := fun t => (t.cl c).stat = .failed) (fun t k ht => ?_) _ _ ht
        split
        · exact ht
        · rw [lostCluster_stat, ht, ite_self]
      split <;> exact hfold
  · exact clusterFault_stat h

end

/-! ### Notices (R240 to R243) -/

theorem lineAccess_parts (s : State) (pa : Nat) (wr whole : Bool) (hc : Nat) : (s.lineAccess pa wr whole hc).parts = s.parts := by
  unfold State.lineAccess; dsimp only; repeat' (first | rfl | split)

theorem hubTouch_parts (s : State) (pa n : Nat) (wr : Bool) (hc : Nat) : (s.hubTouch pa n wr hc).parts = s.parts := by
  unfold State.hubTouch
  repeat' (first | rfl | exact foldl_same (P := State.parts) (fun s x => lineAccess_parts _ _ _ _ _) _ _ | split)

theorem touch_parts (s : State) (pa n hc : Nat) : (s.touch pa n hc).parts = s.parts := by
  unfold State.touch
  split
  · rfl
  · dsimp only
    split
    · rw [resolveWords_same resolveWord_parts]; split <;> simp
    · rw [hubTouch_parts, apply_ite State.parts, bump_parts, ite_self]; exact resolveWords_same resolveWord_parts _ _

theorem walked_parts (s : State) (w : Walk) : (s.walked w).parts = s.parts := by
  have htouch := fun l s => foldl_same (P := State.parts) (f := fun (s : State) a => s.touch a 8) (fun s a => touch_parts _ _ _ _) l s
  unfold State.walked
  dsimp only
  split
  · rw [updCl_parts, bump_parts]; exact htouch _ _
  · rw [bump_parts]; exact htouch _ _

section
variable (s : State) (c : Nat) (w : Watch) (mark : Nat) (pending : Bool) (f : Watch → Watch)

@[simp] theorem markLive_mem : (s.markLive c w mark pending).mem = s.mem := by unfold State.markLive; dsimp only; split <;> rfl
@[simp] theorem markLive_parts : (s.markLive c w mark pending).parts = s.parts := by unfold State.markLive; dsimp only; split <;> rfl
@[simp] theorem markLive_out : (s.markLive c w mark pending).out = s.out := by unfold State.markLive; dsimp only; split <;> rfl
@[simp] theorem markLive_watched : (s.markLive c w mark pending).watched = s.watched := by unfold State.markLive; dsimp only; split <;> rfl
@[simp] theorem markLive_watches : ((s.markLive c w mark pending).cl c).watches = (s.cl c).watches := by
  unfold State.markLive; dsimp only; split
  · rfl
  · simp [State.updTileQ, State.updSt]
@[simp] theorem updWatch_mem : (s.updWatch c w f).mem = s.mem := rfl
@[simp] theorem updWatch_parts : (s.updWatch c w f).parts = s.parts := rfl
@[simp] theorem updWatch_out : (s.updWatch c w f).out = s.out := rfl
@[simp] theorem updWatch_marks : (s.updWatch c w f).marks = s.marks := rfl

theorem tab_look_puts (us : List Nat) (m u : Nat) (t : Tab Nat) : Tab.look (us.foldl (fun t u => Tab.put t 0 u m) t) 0 u = if u ∈ us then m else Tab.look t 0 u := by
  induction us generalizing t with
  | nil => simp
  | cons v us ih =>
    rw [List.foldl_cons, ih, tab_look_put]
    by_cases hu : u ∈ us
    · simp [hu]
    · by_cases hv : u = v <;> simp [hu, hv]

/-- The marks after a watch's live units take a mark. -/
theorem markLive_look (u : Nat) : Tab.look (s.markLive c w mark pending).marks 0 u = if w.slot = none ∧ u ∈ s.liveUnits c w then mark else Tab.look s.marks 0 u := by
  unfold State.markLive
  dsimp only
  split
  next h => simp [h, tab_look_puts]
  next h => simp [h]; rfl

/-- What a hub's change, a count and a notice leave, an entry of a hub's filter leaves. -/
theorem filterEnter_same {β : Type} {P : State → β} (hhub : ∀ s h f, P (State.updHub s h f) = P s) (hbump : ∀ s i j n, P (State.bump s i j n) = P s)
    (hsend : ∀ s h c r lost, P (State.sendNotice s h c r lost) = P s) (region : Nat) : P (s.filterEnter c region) = P s := by
  unfold State.filterEnter
  dsimp only
  split
  · split
    · rfl
    · exact hhub ..
  · rw [hhub]
    split
    · split
      · rfl
      · rw [foldl_same (P := P) (fun s d => hsend ..), hbump, hhub]
    · rfl

@[simp] theorem filterEnter_mem (region : Nat) : (s.filterEnter c region).mem = s.mem :=
  filterEnter_same s c (P := State.mem) (fun _ _ _ => rfl) (fun _ _ _ _ => rfl) (fun _ _ _ _ _ => rfl) region
@[simp] theorem filterEnter_parts (region : Nat) : (s.filterEnter c region).parts = s.parts :=
  filterEnter_same s c (P := State.parts) (fun _ _ _ => rfl) (fun _ _ _ _ => rfl) (fun _ _ _ _ _ => rfl) region

@[simp] theorem send_mem (p : Packet) : (s.send p).mem = s.mem := by unfold State.send; dsimp only; split <;> rfl
@[simp] theorem send_parts (p : Packet) : (s.send p).parts = s.parts := by unfold State.send; dsimp only; split <;> rfl

theorem refetch_mem : (s.refetch c w).mem = s.mem := by
  have hwalk := fun l s => foldl_same (P := State.mem) (f := State.walked) walked_mem l s
  unfold State.refetch
  split
  · rfl
  · dsimp only
    split
    · simp
    · split
      · rw [bump_mem, State.refetchEnds, updWatch_mem, markLive_mem]; exact hwalk _ _
      · split
        · rw [bump_mem, State.refetchEnds, updWatch_mem, markLive_mem]; exact hwalk _ _
        · simp [hwalk]

theorem refetch_parts : (s.refetch c w).parts = s.parts := by
  have hwalk := fun l s => foldl_same (P := State.parts) (f := State.walked) walked_parts l s
  unfold State.refetch
  split
  · rfl
  · dsimp only
    split
    · simp
    · split
      · rw [bump_parts, State.refetchEnds, updWatch_parts, markLive_parts]; exact hwalk _ _
      · split
        · rw [bump_parts, State.refetchEnds, updWatch_parts, markLive_parts]; exact hwalk _ _
        · simp [hwalk]

end

/-- One watch of a region is told of a notice (R240). -/
def State.tellWatch (c : Nat) (s : State) (w : Watch) : State :=
  let s := (s.markLive c w 3 w.pending).bump 0x70A0 3 1
  if w.policy = 1 ∧ !(s.chan c w.chan).disable then
    if w.pending then s.updWatch c w fun y => { y with noticed := true }
    else if w.refetches < max 1 (s.cfg 0x2050 2) then s.refetch c w else s
  else s

/-- The acknowledgement of a notice to the hub of its region (R240). -/
def State.noticeAck (s : State) (c region : Nat) : Out :=
  .packet (pktFinish (packetOf 0x08 1 (BitVec.ofNat 16 (0x2000 + s.hubOf (region * 4096))) (BitVec.ofNat 16 c) 0xFF 0 0 (region * 4096) 0 []))

section
variable (s : State) (c : Nat) (w : Watch)

theorem notice_eq (region : Nat) : s.notice c region =
    ((((s.cl c).watches.filter fun w => w.region == region).foldl (State.tellWatch c) s).emit (s.noticeAck c region)).sweepWatches c := rfl

theorem tellWatch_mem : (State.tellWatch c s w).mem = s.mem := by
  unfold State.tellWatch
  dsimp only
  split
  · split
    · rw [updWatch_mem, bump_mem, markLive_mem]
    · split
      · rw [refetch_mem, bump_mem, markLive_mem]
      · rw [bump_mem, markLive_mem]
  · rw [bump_mem, markLive_mem]

theorem tellWatch_parts : (State.tellWatch c s w).parts = s.parts := by
  unfold State.tellWatch
  dsimp only
  split
  · split
    · rw [updWatch_parts, bump_parts, markLive_parts]
    · split
      · rw [refetch_parts, bump_parts, markLive_parts]
      · rw [bump_parts, markLive_parts]
  · rw [bump_parts, markLive_parts]

/-- A watch of a policy without refetches only marks its live units. -/
theorem tellWatch_marksOnly (h : w.policy ≠ 1) : State.tellWatch c s w = (s.markLive c w 3 w.pending).bump 0x70A0 3 1 := by
  simp only [State.tellWatch, h, false_and, if_false]

/-- The live units of a watch in the scratchpad depend on the watched units alone. -/
theorem liveUnits_pad {t : State} (hslot : w.slot = none) (h : t.watched = s.watched) : t.liveUnits c w = s.liveUnits c w := by
  simp [State.liveUnits, hslot, h]

/-- Marks that a notice sets stay set, and every watch told without refetches has set them. -/
theorem tellWatches_marks (ws : List Watch) (hpol : ∀ w ∈ ws, w.policy ≠ 1) (s : State) : let t := ws.foldl (State.tellWatch c) s
    (∀ u, Tab.look s.marks 0 u = 3 → Tab.look t.marks 0 u = 3) ∧ ∀ w ∈ ws, w.slot = none → ∀ u ∈ s.liveUnits c w, Tab.look t.marks 0 u = 3 := by
  induction ws generalizing s with
  | nil => exact ⟨fun _ h => h, fun _ h => nomatch h⟩
  | cons w ws ih =>
    have hstep := tellWatch_marksOnly s c w (hpol w List.mem_cons_self)
    obtain ⟨hkeep, hset⟩ := ih (fun w h => hpol w (List.mem_cons_of_mem _ h)) (State.tellWatch c s w)
    rw [List.foldl_cons]
    rw [hstep] at hkeep hset ⊢
    simp only [bump_marks, markLive_look] at hkeep
    refine ⟨fun u hu => hkeep u (by rw [hu, ite_self]), fun x hx hslot u hu => ?_⟩
    rcases List.mem_cons.1 hx with rfl | hx
    · exact hkeep u (if_pos ⟨hslot, hu⟩)
    · exact hset x hx hslot u ((liveUnits_pad s c x hslot (markLive_watched ..)).symm ▸ hu)

end

/-! ### The arrival of an entry of a tile siding (R63, R64) -/

section
variable {s : State} {c q : Nat} {e : TileEntry} {rest : List TileEntry} (hq : (s.tileQ c q).entries = e :: rest) (harr : e.arrived = false)

theorem updTileQ_same (f : TileQ → TileQ) : (s.updTileQ c q f).tileQ c q = f (s.tileQ c q) := by
  simp [State.updTileQ, State.tileQ, State.updSt]

theorem onlyCluster_updTileQ (f : TileQ → TileQ) : OnlyCluster s (s.updTileQ c q f) c := by
  unfold State.updTileQ State.updSt
  exact onlyCluster_updCl ..

include hq harr

theorem keepArriving_tileQ : let t := (s.keepArriving c q).tileQ c q
    t.st = (s.tileQ c q).st ∧ t.entries = { e with arrived := true, here := e.bytes.length } :: rest := by
  rw [State.keepArriving, updTileQ_same]
  exact ⟨rfl, by simp [hq, mapFirst, harr]⟩

theorem dropArriving_tileQ : let t := (s.dropArriving c q).tileQ c q
    t.st = { (s.tileQ c q).st with tailBad := true } ∧ t.entries = rest := by
  rw [State.dropArriving, updTileQ_same]
  exact ⟨rfl, by simp [hq, harr]⟩

theorem exec_arrival (ok : Bool) (hlo : 0x08 < q) : exec (.entryArrivalComplete c q ok) s = .next (if ok then s.keepArriving c q else s.dropArriving c q) := by
  have hne : ¬q = 0x08 := by omega
  change execEntryArrivalComplete c q ok s = _
  simp [execEntryArrivalComplete, hq, harr, hne]

end

/-! ### The commands of the upkeep -/

section
variable {s : State} {c : Nat}

theorem exec_agePromotion {req n : Nat} (hon : s.cfg 0x2030 1 ≠ 0) (hden : s.cfg 0x2030 1 ≤ n) (hnew : (s.cl c).promoted.contains req = false) :
    exec (.agePromotion c req n) s = .next (s.updCl c fun cl => { cl with promoted := cl.promoted ++ [req] }) :=
  if_pos ⟨hon, hden, by rw [hnew]; rfl⟩

/-- The latent errors of a scratchpad resolved by a scrub (R90). -/
def State.scrubbed (s : State) (c : Nat) : State :=
  let t := ((Tab.within s.upset (padOf c / 8) (padSize / 8)).map (·.1)).foldl State.resolveWord s
  { t with upset := Tab.clear t.upset (padOf c / 8) (padSize / 8) }

theorem exec_scrubPass (hon : s.cfg 0x2030 3 ≠ 0) : exec (.scrubPass c) s =
    .next (if max 1 (s.cfg 0x2120 5) ≤ ((s.scrubbed c).cl c).badRows.length then (s.scrubbed c).clusterFails c else s.scrubbed c) := if_neg hon

theorem scrubbed_badRows : ((s.scrubbed c).cl c).badRows.length ≤ (s.cl c).badRows.length + (Tab.within s.upset (padOf c / 8) (padSize / 8)).length := by
  have h := resolveWords_badRows c ((Tab.within s.upset (padOf c / 8) (padSize / 8)).map (·.1)) s
  rwa [List.length_map] at h

theorem scrubbed_mem : (s.scrubbed c).mem = s.mem := resolveWords_same (P := State.mem) resolveWord_mem _ _
theorem scrubbed_parts : (s.scrubbed c).parts = s.parts := resolveWords_same (P := State.parts) resolveWord_parts _ _
theorem scrubbed_out : (s.scrubbed c).out = s.out := resolveWords_same (P := State.out) resolveWord_out _ _

theorem scrubbed_upset {w : Nat} (h : Tab.look (s.scrubbed c).upset 0 w ≠ 0) : ¬(padOf c / 8 ≤ w ∧ w < padOf c / 8 + padSize / 8) :=
  fun hin => h (tab_look_clear _ _ hin)

/-- A scratchpad without latent errors is left as it is. -/
theorem scrubbed_clean (h : s.upset = []) : (s.scrubbed c).cl c = s.cl c := by
  simp [State.scrubbed, h, Tab.within, State.cl]

theorem exec_refetchLimit {k : Nat} {w : Watch} (hw : (s.cl c).watches[k]? = some w) (hlim : max 1 (s.cfg 0x2050 2) ≤ w.refetches) :
    exec (.refetchLimit c k) s = .next (s.refetchEnds c w 3) := by
  change execRefetchLimit c k s = _
  simp only [execRefetchLimit, hw, if_pos hlim]

theorem refetchEnds_watches (w : Watch) (mark : Nat) : ((s.refetchEnds c w mark).cl c).watches =
    mapFirst (fun y => y == w) (fun y => { y with pending := false, queued := false }) (s.cl c).watches := by
  rw [State.refetchEnds, State.updWatch, updCl_cl_same, markLive_watches]

theorem sweepWatches_parts : (s.sweepWatches c).parts = s.parts := (foldl_same (P := State.parts) (by intros; rfl) _ _).trans rfl
theorem sweepWatches_marks : (s.sweepWatches c).marks = s.marks := (foldl_same (P := State.marks) (by intros; rfl) _ _).trans rfl

/-- A notice is acknowledged, changes no byte and no partition, and marks what watches without refetches still watch. -/
theorem notice_spec (region : Nat) : let t := s.notice c region
    t.mem = s.mem ∧ t.parts = s.parts ∧ s.noticeAck c region ∈ t.out ∧
      ((∀ w ∈ (s.cl c).watches, w.region = region → w.policy ≠ 1) → ∀ w ∈ (s.cl c).watches, w.region = region → w.slot = none →
        ∀ u ∈ s.liveUnits c w, Tab.look t.marks 0 u = 3) := by
  rw [notice_eq]
  generalize hws : ((s.cl c).watches.filter fun w => w.region == region) = ws
  have hmem : (ws.foldl (State.tellWatch c) s).mem = s.mem := foldl_same (P := State.mem) (fun s w => tellWatch_mem s c w) ws s
  have hparts : (ws.foldl (State.tellWatch c) s).parts = s.parts := foldl_same (P := State.parts) (fun s w => tellWatch_parts s c w) ws s
  have hin (w : Watch) : w ∈ ws ↔ w ∈ (s.cl c).watches ∧ w.region = region := by rw [← hws, List.mem_filter, beq_iff_eq]
  refine ⟨?_, ?_, ?_, fun hpol w hw hreg hslot u hu => ?_⟩
  · rw [sweepWatches_mem, emit_mem, hmem]
  · rw [sweepWatches_parts, emit_parts, hparts]
  · rw [sweepWatches_out, emit_out]
    exact List.mem_append_right _ List.mem_cons_self
  · rw [sweepWatches_marks, emit_marks]
    exact (tellWatches_marks c ws (fun x hx => hpol x ((hin x).1 hx).1 ((hin x).1 hx).2) s).2 w ((hin w).2 ⟨hw, hreg⟩) hslot u hu

end

/-- Settles O21: write-backs and scrubs resolve latent errors and change no byte (`resolveWords_same`), and a notice marks what its watches still watch. -/
theorem upkeep : Obligations.Upkeep := by
  unfold Obligations.Upkeep
  intro s c
  refine ⟨fun req n hon hden hnew => ⟨_, exec_agePromotion hon hden hnew, rfl⟩, fun chunk idle hidle => ?_, fun word hword => ?_, fun hon hrows => ?_,
    fun hon hclean hrows hact => ?_, fun q ok e rest hq harr hlo _ => ?_, fun region => ⟨fun i hi => ?_, fun k w hw hlim => ?_⟩⟩
  · refine ⟨_, if_pos hidle, coalOut_mem .., coalOut_parts .., coalOut_out .., coalOut_marks .., coalOut_coal .., fun hup => ?_⟩
    rw [coalOut_clean c _ hup]
    exact onlyCluster_updCl ..
  · exact ⟨_, if_pos hword, rfl, rfl, rfl, fun w => tab_look_put ..⟩
  · have hfew := scrubbed_badRows (s := s) (c := c)
    refine ⟨_, (exec_scrubPass hon).trans (by rw [if_neg (by omega)]), scrubbed_mem, scrubbed_parts, scrubbed_out, fun w => scrubbed_upset⟩
  · have hcl := scrubbed_clean (c := c) hclean
    refine ⟨_, (exec_scrubPass hon).trans (by rw [if_pos (by rwa [hcl])]), clusterFails_stat _ _ (by rwa [hcl])⟩
  · refine ⟨_, exec_arrival hq harr ok hlo, ?_⟩
    cases ok with
    | false =>
      simp only [Bool.false_eq_true, if_false]
      exact ⟨onlyCluster_updTileQ .., dropArriving_tileQ hq harr⟩
    | true =>
      simp only [if_true]
      exact ⟨onlyCluster_updTileQ .., keepArriving_tileQ hq harr⟩
  · have hexec : exec i s = .next (s.notice c region) := by
      rcases List.mem_pair.1 hi with rfl | rfl <;> rfl
    exact ⟨_, hexec, notice_spec region⟩
  · refine ⟨_, exec_refetchLimit hw hlim, (markLive_mem ..), (markLive_parts ..), (markLive_out ..), refetchEnds_watches .., fun hslot u hu => ?_⟩
    exact (markLive_look ..).trans (if_pos ⟨hslot, hu⟩)

end Sys2Proof.Machine
end

section
/-! SUPPORT. Cluster faults (R75, R403, R409 to R412, R497): what a stop of consignments keeps of the floor plan and of the reports, and the statement about a
fault that brings in the die's spare. -/

namespace Sys2Proof.Machine

/-! ### What a stop keeps of the floor plan -/

/-- The dies, the recovery records and the stage are as they were, and every cluster has its status and role. -/
structure PlanKept (s t : State) : Prop where
  dies : t.dies = s.dies
  recov : t.recov = s.recov
  stage : t.boot.stage = s.boot.stage
  stat : ∀ k, (t.cl k).stat = (s.cl k).stat
  role : ∀ k, (t.cl k).role = (s.cl k).role

theorem planKept_refl (s : State) : PlanKept s s := ⟨rfl, rfl, rfl, fun _ => rfl, fun _ => rfl⟩

theorem planKept_trans {r s t : State} (h : PlanKept r s) (k : PlanKept s t) : PlanKept r t where
  dies := k.dies.trans h.dies
  recov := k.recov.trans h.recov
  stage := k.stage.trans h.stage
  stat i := (k.stat i).trans (h.stat i)
  role i := (k.role i).trans (h.role i)

theorem planKept_foldl {α : Type} {f : State → α → State} (hf : ∀ s x, PlanKept s (f s x)) (l : List α) (s : State) : PlanKept s (l.foldl f s) :=
  foldl_keeps (P := PlanKept s) (fun t x h => planKept_trans h (hf t x)) l s (planKept_refl s)

theorem planKept_of_calm {s t : State} (h : Calm s t) : PlanKept s t where
  dies := h.dies
  recov := h.recov
  stage := by have := congrArg Bring.stage h.boot; simpa using this
  stat := calm_stat h
  role k := by have := congrArg Cluster.role (h.cl k); simpa [Cluster.seen] using this

theorem planKept_updCl (s : State) (c : Nat) (f : Cluster → Cluster) (hst : (f (s.cl c)).stat = (s.cl c).stat) (hro : (f (s.cl c)).role = (s.cl c).role) :
    PlanKept s (s.updCl c f) := by
  refine ⟨rfl, rfl, rfl, fun k => ?_, fun k => ?_⟩
  all_goals
    by_cases h : k = c
    · subst h; rw [updCl_cl_same]; assumption
    · rw [updCl_cl_ne _ _ _ _ h]

theorem planKept_updPt (s : State) (p : Nat) (f : Part → Part) : PlanKept s (s.updPt p f) := ⟨rfl, rfl, rfl, fun _ => rfl, fun _ => rfl⟩
theorem planKept_updEntry (s : State) (p q : Nat) (f : Entry → Entry) : PlanKept s (s.updEntry p q f) := planKept_updPt ..

section
variable (s : State) (c : Nat)

theorem planKept_sendService (kind part : Nat) (mods : List Nat) (k : Nat) (clip : Bool) (a b : Word) : PlanKept s (s.sendService kind part mods k clip a b) :=
  planKept_of_calm (calm_foldl (by intros; exact calm_emit ..) _ _)

theorem planKept_returnToken (part : Nat) (h : HeldToken) : PlanKept s (s.returnToken c part h) := by
  unfold State.returnToken State.send
  dsimp only
  split
  · exact planKept_refl s
  · refine planKept_trans (planKept_updCl s c (fun cl => { cl with nextTag := (s.cl c).nextTag + 1 }) rfl rfl) ?_
    split <;> exact ⟨rfl, rfl, rfl, fun _ => rfl, fun _ => rfl⟩

theorem planKept_closeWindows : PlanKept s (s.closeWindows c) := by
  unfold State.closeWindows State.refuseQueued
  refine planKept_trans (planKept_updCl s c _ rfl rfl) (planKept_trans (planKept_updCl _ c _ rfl rfl) (planKept_foldl (fun t q => ?_) _ _))
  exact ⟨rfl, rfl, rfl, fun _ => rfl, fun _ => rfl⟩

theorem planKept_stopOn (failed : Bool) : PlanKept s (s.stopOn c failed) := by
  unfold State.stopOn
  split
  · exact planKept_refl s
  next r _ =>
    split
    · exact planKept_refl s
    · extract_lets t₁ t₂ t₃ t₄
      have h₂ : PlanKept s t₂ := by
        refine planKept_trans (t := t₂) (planKept_updEntry s r.part r.seq fun e => { e with flags := e.flags ||| s.sidingFlags c r }) ?_
        unfold t₂
        split
        · exact planKept_of_calm (calm_foldl (by intros; exact calm_scramble ..) _ _)
        · exact planKept_refl _
      have h₃ : PlanKept s t₃ := planKept_trans h₂ (planKept_foldl (fun t h => planKept_returnToken t c r.part h) _ _)
      have h₄ : PlanKept s t₄ := planKept_trans h₃ (planKept_of_calm (calm_endWatches ..))
      exact planKept_trans h₄ (planKept_trans (planKept_updCl t₄ c _ rfl rfl) (planKept_closeWindows ..))

theorem planKept_stopEntry (p : Nat) (e : Entry) : PlanKept s (s.stopEntry p e) := by
  have hclear : PlanKept s (s.clearEntry p e) := planKept_foldl (fun t k => by
    split
    · exact planKept_trans (planKept_stopOn ..) (planKept_updCl _ _ _ rfl rfl)
    · exact planKept_refl t) _ _
  unfold State.stopEntry
  split
  · exact planKept_trans hclear (planKept_updEntry ..)
  · exact planKept_trans hclear (planKept_trans (planKept_updEntry ..) (planKept_updPt ..))

theorem planKept_stopParts (uses : Nat → Entry → Bool) : PlanKept s (s.stopParts uses false).1 := by
  unfold State.stopParts
  refine planKept_foldl (fun t p => ?_) _ _
  simp only [Bool.and_false, Bool.false_eq_true, if_false]
  exact planKept_foldl (fun t e => planKept_stopEntry t p e) _ _

theorem planKept_noteRerun (r : State) (ps : List Nat) (dieLoss : Bool) : PlanKept s (s.noteRerun r ps dieLoss) := by
  unfold State.noteRerun
  refine planKept_foldl (fun t p => ?_) _ _
  split
  · exact planKept_sendService ..
  · exact planKept_refl t

theorem planKept_replaceMember (k : Nat) (r : Option Nat) : PlanKept s (s.replaceMember k r) := by
  unfold State.replaceMember
  refine planKept_foldl (fun t p => ?_) _ _
  split
  · exact planKept_refl t
  · exact planKept_updPt ..

theorem planKept_planChanged : PlanKept s s.planChanged := ⟨rfl, rfl, rfl, fun _ => rfl, fun _ => rfl⟩

theorem spareOf_kept {s t : State} (h : PlanKept s t) (d : Nat) : t.spareOf d = s.spareOf d := by
  simp only [State.spareOf, State.die, h.dies, h.stat]
  rfl

end

/-! ### Reports that a stop keeps -/

/-- The reports of every entry of a partition with a number. -/
def State.reports (s : State) (p q : Nat) : List (List Failure) := ((s.pt p).entries.filter fun e => e.seq == q).map Entry.fails

theorem failsOf_eq_head (s : State) (p q : Nat) : s.failsOf p q = (s.reports p q).head? := by
  rw [State.failsOf, State.entry, State.reports, List.head?_map, List.head?_filter]

theorem reports_congr {s t : State} {p : Nat} (h : (t.pt p).entries = (s.pt p).entries) (q : Nat) : t.reports p q = s.reports p q := by
  rw [State.reports, h, State.reports]

/-- An update of entries that keeps their numbers changes the reports of that number alone. -/
theorem reports_updEntry (s : State) (p' q' p q : Nat) {f : Entry → Entry} (hf : ∀ e, (f e).seq = e.seq) {g : List Failure → List Failure}
    (hg : ∀ e, (f e).fails = g e.fails) : (s.updEntry p' q' f).reports p q = if p = p' ∧ q = q' then (s.reports p q).map g else s.reports p q := by
  have hseq (e : Entry) : (if e.seq = q' then f e else e).seq = e.seq := by split <;> simp [hf]
  by_cases hp : p = p'
  · subst hp
    simp only [State.reports, State.updEntry, updPt_pt_same, List.filter_map, List.map_map, Function.comp_def, hseq, true_and]
    by_cases hq : q = q'
    · simp only [if_pos hq]
      refine List.map_congr_left fun e he => ?_
      have heq : e.seq = q' := by rw [← hq]; exact beq_iff_eq.1 (List.mem_filter.1 he).2
      simp [heq, hg]
    · simp only [if_neg hq]
      refine List.map_congr_left fun e he => ?_
      have hne : e.seq ≠ q' := by rw [beq_iff_eq.1 (List.mem_filter.1 he).2]; exact hq
      simp [hne]
  · rw [if_neg (fun h => hp h.1)]
    exact reports_congr (by rw [State.updEntry, updPt_pt_ne _ _ _ _ hp]) q

/-- An update that keeps numbers and reports leaves all reports. -/
theorem reports_updEntry_same (s : State) (p' q' p q : Nat) {f : Entry → Entry} (hf : ∀ e, (f e).seq = e.seq) (hg : ∀ e, (f e).fails = e.fails) :
    (s.updEntry p' q' f).reports p q = s.reports p q := by
  rw [reports_updEntry s p' q' p q hf (g := id) hg, List.map_id, ite_self]

theorem reports_updPt (s : State) (p' p q : Nat) {f : Part → Part} (hf : (f (s.pt p')).entries = (s.pt p').entries) : (s.updPt p' f).reports p q = s.reports p q := by
  refine reports_congr ?_ q
  by_cases h : p = p'
  · subst h; rw [updPt_pt_same, hf]
  · rw [updPt_pt_ne _ _ _ _ h]

theorem reports_parts {s t : State} (h : t.parts = s.parts) (p q : Nat) : t.reports p q = s.reports p q := by simp only [State.reports, State.pt, h]

theorem calm_reports {s t : State} (h : Calm s t) (p q : Nat) : t.reports p q = s.reports p q := by
  have key : ∀ u : State, u.reports p q = ((u.pt p).seen.entries.filter fun e => e.seq == q).map Entry.fails := by
    intro u
    simp only [State.reports, Part.seen, List.filter_map, List.map_map]
    rfl
  rw [key, key, h.pt p]

section
variable (s : State) (c p q : Nat)

theorem stopOn_reports (failed : Bool) : (s.stopOn c failed).reports p q = s.reports p q := by
  unfold State.stopOn
  split
  · rfl
  next r _ =>
    split
    · rfl
    · extract_lets t₁ t₂ t₃ t₄
      have h₁ : t₁.reports p q = s.reports p q := reports_updEntry_same _ _ _ _ _ (fun _ => rfl) (fun _ => rfl)
      have h₂ : t₂.reports p q = s.reports p q := by
        rw [← h₁]
        unfold t₂
        split
        · exact reports_parts (scrambleAll_parts ..) ..
        · rfl
      have h₃ : t₃.reports p q = s.reports p q :=
        (foldl_same (P := fun s => s.reports p q) (fun t h => reports_parts (returnToken_parts t c r.part h) ..) _ _).trans h₂
      rw [← h₃, ← calm_reports (calm_endWatches t₃ c)]
      exact reports_parts (closeWindows_parts ..) ..

theorem clearEntry_reports (p' : Nat) (e : Entry) : (s.clearEntry p' e).reports p q = s.reports p q := by
  unfold State.clearEntry
  refine foldl_same (P := fun s => s.reports p q) (fun t k => ?_) _ _
  split
  · exact stopOn_reports t k p q false
  · rfl

/-- A stop to be run again forgets the reports of its entry alone, and none of an entry that FIRMWARE_ERROR has failed. -/
theorem stopEntry_reports (p' : Nat) (e : Entry) (h : p' = p → e.seq = q → e.fails.any (fun f => f.status == stFirmware) = true) :
    (s.stopEntry p' e).reports p q = s.reports p q := by
  unfold State.stopEntry
  split
  · exact (reports_updEntry_same (f := fun e => { e with ended := e.clusters, todo := [] }) _ p' e.seq p q (fun _ => rfl) fun _ => rfl).trans (clearEntry_reports ..)
  next hno =>
    have hother : ¬(p = p' ∧ q = e.seq) := fun hpq => hno (.inr (.inl (h hpq.1.symm hpq.2.symm)))
    dsimp only
    rw [reports_updPt _ _ _ _ rfl]
    refine (reports_updEntry (f := fun e => { e with rerun := true, fails := [], flags := 0, ended := [], todo := [], flips := [] }) _ p' e.seq p q
      (fun _ => rfl) (g := fun _ => []) fun _ => rfl).trans ?_
    rw [if_neg hother, clearEntry_reports]

/-- Every report list of an entry tells FIRMWARE_ERROR. -/
def FirmwareTold (l : List (List Failure)) : Prop := ∀ fs ∈ l, fs.any (fun f => f.status == stFirmware) = true

theorem stopForRerun_reports (p' : Nat) (uses : Entry → Bool) (h : FirmwareTold (s.reports p q)) : (s.stopForRerun p' uses).reports p q = s.reports p q := by
  unfold State.stopForRerun
  generalize hes : (s.pt p').entries.filter _ = es
  have htold (e : Entry) (he : e ∈ es) : p' = p → e.seq = q → e.fails.any (fun f => f.status == stFirmware) = true := by
    rintro rfl hq
    rw [← hes] at he
    exact h _ (List.mem_map.2 ⟨e, List.mem_filter.2 ⟨(List.mem_filter.1 he).1, beq_iff_eq.2 hq⟩, rfl⟩)
  exact List.foldlRecOn es _ (motive := fun t => t.reports p q = s.reports p q) rfl fun t ht e he => (stopEntry_reports t p q p' e (htold e he)).trans ht

theorem stopParts_reports (uses : Nat → Entry → Bool) (h : FirmwareTold (s.reports p q)) : (s.stopParts uses false).1.reports p q = s.reports p q := by
  unfold State.stopParts
  refine foldl_keeps (P := fun t => t.reports p q = s.reports p q) (fun t p' ht => ?_) _ _ rfl
  simp only [Bool.and_false, Bool.false_eq_true, if_false]
  rw [stopForRerun_reports t p q p' _ (by rwa [ht]), ht]

theorem noteRerun_reports (r : State) (ps : List Nat) (dieLoss : Bool) : (s.noteRerun r ps dieLoss).reports p q = s.reports p q := by
  unfold State.noteRerun
  refine foldl_same (P := fun s => s.reports p q) (fun t p' => ?_) _ _
  split
  · exact foldl_same (P := fun s : State => s.reports p q) (by intros; rfl) _ _
  · rfl

theorem replaceMember_reports (k : Nat) (r : Option Nat) : (s.replaceMember k r).reports p q = s.reports p q := by
  unfold State.replaceMember
  refine foldl_same (P := fun s => s.reports p q) (fun t p' => ?_) _ _
  split
  · rfl
  · exact reports_updPt _ _ _ _ rfl

theorem msiFor_parts (irq : Word) : (s.msiFor irq).parts = s.parts := by unfold State.msiFor; dsimp only; split <;> rfl

theorem postRecord_reports (kind failed : Nat) (repl : Option Nat) (ps : List Nat) : (s.postRecord kind failed repl ps).reports p q = s.reports p q := by
  unfold State.postRecord
  extract_lets no sub t₁ t₂ recov t₃ t₄
  have h₁ : t₁.parts = s.parts := by unfold t₁; split <;> rfl
  have h₂ : t₂.reports p q = s.reports p q := reports_parts h₁ p q
  have h₄ : t₄.reports p q = s.reports p q := (foldl_same (P := fun s => s.reports p q) (fun t p' => reports_updPt t p' p q rfl) ps t₃).trans h₂
  clear_value t₂ t₄
  split
  · exact h₂
  · split
    · exact (reports_parts (msiFor_parts ..) ..).trans h₄
    · exact h₄

end

/-! ### The record of a loss (R403) -/

/-- A record posted at L1 or L2: it joins the records, and every partition it names takes its number as a stop. -/
theorem postRecord_posts {s : State} (kind failed : Nat) (repl : Option Nat) (ps : List Nat) (h : s.boot.stage = .l1 ∨ s.boot.stage = .l2) :
    (s.postRecord kind failed repl ps).recov.recs = s.recov.recs ++ [{ kind := kind, failed := failed, repl := repl, parts := ps, no := s.recov.next % 65536 }] ∧
      ∀ p ∈ ps, s.recov.next % 65536 ∈ ((s.postRecord kind failed repl ps).pt p).stops := by
  unfold State.postRecord
  extract_lets no sub t₁ t₂ recov t₃ t₄
  have hrecov : t₁.recov = s.recov := by unfold t₁; split <;> rfl
  have hrecs : t₄.recov.recs = s.recov.recs ++ [{ kind := kind, failed := failed, repl := repl, parts := ps, no := no }] := by
    refine (foldl_same (P := fun s : State => s.recov.recs) (f := fun s p => s.updPt p fun pt => { pt with stops := pt.stops ++ [no] }) (fun _ _ => rfl) ps t₃).trans ?_
    exact congrArg (fun r : Recovery => r.recs ++ _) hrecov
  have hstops (p : Nat) (hp : p ∈ ps) : no ∈ (t₄.pt p).stops := by
    refine foldl_establishes (P := fun t => no ∈ (t.pt p).stops) hp (fun t => ?_) (fun t k ht => ?_) _
    · rw [updPt_pt_same]; exact List.mem_append_right _ List.mem_cons_self
    · by_cases hk : p = k
      · subst hk; rw [updPt_pt_same]; exact List.mem_append_left _ ht
      · rwa [updPt_pt_ne _ _ _ _ hk]
  have hmsi (irq : Word) : (t₄.msiFor irq).recov = t₄.recov ∧ (t₄.msiFor irq).parts = t₄.parts := by
    unfold State.msiFor; dsimp only; split <;> exact ⟨rfl, rfl⟩
  clear_value t₂ t₄
  rw [if_neg (by rcases h with h | h <;> simp [h])]
  split
  · exact ⟨by rw [(hmsi _).1, hrecs], fun p hp => by simp only [State.pt, (hmsi _).2]; exact hstops p hp⟩
  · exact ⟨hrecs, hstops⟩

/-! ### A fault that brings in the spare (R409 to R412) -/

theorem tab_look_clear_eq {α : Type} (t : Tab α) (d : α) (a n k : Nat) : Tab.look (Tab.clear t a n) d k = if a ≤ k ∧ k < a + n then d else Tab.look t d k := by
  split
  next h => exact tab_look_clear t d h
  next h =>
    have hfind : (Tab.clear t a n).find? (fun e => e.1 == k) = t.find? (fun e => e.1 == k) := by
      rw [Tab.clear, List.find?_filter]
      congr 1
      funext e
      by_cases he : e.1 = k
      · subst he; simpa using by omega
      · simp [he]
    rw [Tab.look, hfind, Tab.look]

/-- A scratchpad initialised reads 0, and no other byte changes. -/
theorem padInit_byte (s : State) (c a : Nat) : (s.padInit c).mem.byte a = if padOf c ≤ a ∧ a < padOf c + padSize then 0 else s.mem.byte a :=
  tab_look_clear_eq s.mem 0 (padOf c) padSize a

section
variable (s : State) (c sp : Nat)

theorem planChanged_parts : s.planChanged.parts = s.parts := rfl
theorem nameBad_die (d : Nat) : (s.nameBad c).die d = s.die d := rfl
theorem nameBad_parts : (s.nameBad c).parts = s.parts := rfl
theorem padInit_parts : (s.padInit c).parts = s.parts := rfl

theorem spareIn_parts : (s.spareIn c sp).parts = ((s.stopParts (fun p e => s.entryUses p c e) false).1.noteRerun s
    (s.stopParts (fun p e => s.entryUses p c e) false).2 false).parts := by
  rw [State.spareIn, updCl_parts, padInit_parts, State.deadCluster, updCl_parts, padInit_parts]

end

/-- What a fault that brings in the spare `sp` for cluster `c` leaves. -/
structure SpareTookOver (s t : State) (c sp : Nat) : Prop where
  failed : (t.cl c).stat = .failed
  repl : (t.cl c).repl = some sp
  active : (t.cl sp).stat = .active
  role : (t.cl sp).role = (s.cl c).role
  used : (t.die (c / 17)).spareUsed = true
  bytes : ∀ a, (padOf c ≤ a ∧ a < padOf c + padSize) ∨ (padOf sp ≤ a ∧ a < padOf sp + padSize) → t.mem.byte a = 0
  record : ∃ ps, t.recov.recs = s.recov.recs ++ [{ kind := 1, failed := c, repl := some sp, parts := ps, no := s.recov.next % 65536 }] ∧
    ∀ p ∈ ps, s.recov.next % 65536 ∈ (t.pt p).stops

section
variable {s : State} {c sp : Nat} (hact : (s.cl c).stat = .active) (hsp : s.spareOf (c / 17) = some sp)
include hact hsp

theorem spareIn_cl : (s.spareIn c sp).cl c = { stat := .failed, repl := some sp, pll := false } ∧
    (s.spareIn c sp).cl sp = { stat := .active, role := (s.cl c).role, fwOk := true } := by
  constructor
  · rw [State.spareIn, updCl_cl_ne _ _ _ _ (spare_ne hact hsp), padInit_cl, State.deadCluster, updCl_cl_same, hsp]
  · rw [State.spareIn, updCl_cl_same]

omit hact hsp in
theorem spareIn_byte {a : Nat} (h : (padOf c ≤ a ∧ a < padOf c + padSize) ∨ (padOf sp ≤ a ∧ a < padOf sp + padSize)) : (s.spareIn c sp).mem.byte a = 0 := by
  rw [State.spareIn, updCl_mem, padInit_byte]
  split
  · rfl
  next hno =>
    rw [State.deadCluster, updCl_mem, padInit_byte, if_pos (h.resolve_right hno)]

omit hact hsp in
theorem spareIn_plan : (s.spareIn c sp).dies = s.dies ∧ (s.spareIn c sp).recov = s.recov ∧ (s.spareIn c sp).boot.stage = s.boot.stage := by
  obtain ⟨hdies, hrecov, hstage, -, -⟩ := planKept_trans (planKept_stopParts s fun p e => s.entryUses p c e) (planKept_noteRerun _ s
    (s.stopParts (fun p e => s.entryUses p c e) false).2 false)
  exact ⟨hdies, hrecov, hstage⟩

theorem clusterFault_tookOver (hstage : s.boot.stage = .l1 ∨ s.boot.stage = .l2) : SpareTookOver s (s.clusterFault c) c sp := by
  obtain ⟨hcl, hclsp⟩ := spareIn_cl hact hsp
  obtain ⟨hdies, hrecov, hst⟩ := spareIn_plan (s := s) (c := c) (sp := sp)
  have hbytes (a : Nat) := spareIn_byte (s := s) (c := c) (sp := sp) (a := a)
  rw [clusterFault_spare hact hsp]
  generalize hu : s.spareIn c sp = u at hcl hclsp hdies hrecov hst hbytes
  generalize hv : (((u.updDie (c / 17) fun x => { x with spareUsed := true }).nameBad c).replaceMember c (some sp)).planChanged = v
  have hmetal : v.metal = ((u.updDie (c / 17) fun x => { x with spareUsed := true }).nameBad c).metal := by
    rw [← hv, planChanged_metal, replaceMember_metal]
  have hvrecov : v.recov = s.recov := by
    rw [← hv, (planKept_planChanged _).recov, (planKept_replaceMember ..).recov, ← hrecov]
    rfl
  have hvstage : v.boot.stage = .l1 ∨ v.boot.stage = .l2 := by
    rw [metal_boot hmetal]
    rwa [← hst] at hstage
  have hpost := postRecord_metal v 1 c (some sp) (s.stopParts (fun p e => s.entryUses p c e) false).2
  obtain ⟨hrecs, hstops⟩ := postRecord_posts 1 c (some sp) (s.stopParts (fun p e => s.entryUses p c e) false).2 hvstage
  rw [hvrecov] at hrecs hstops
  constructor
  case record => exact ⟨_, hrecs, hstops⟩
  case bytes =>
    intro a ha
    rw [metal_mem hpost, metal_mem hmetal]
    exact hbytes a ha
  case used =>
    rw [metal_die hpost, metal_die hmetal]
    rw [nameBad_die, updDie_die_same]
  all_goals
    rw [metal_cl hpost, metal_cl hmetal, nameBad_cl, updDie_cl]
    simp only [hcl, hclsp]

/-- The reports of a consignment that FIRMWARE_ERROR has failed stay. -/
theorem clusterFault_reports {p q : Nat} (h : FirmwareTold (s.reports p q)) : (s.clusterFault c).reports p q = s.reports p q := by
  rw [clusterFault_spare hact hsp, postRecord_reports, reports_parts (planChanged_parts _), replaceMember_reports, reports_parts (nameBad_parts ..),
    reports_parts (updDie_parts ..), reports_parts (spareIn_parts s c sp), noteRerun_reports, stopParts_reports s p q _ h]

end

/-! ### FIRMWARE_ERROR (R75) -/

section
variable {s : State} {c : Nat} {r : Run} (hrun : (s.cl c).run = some r) (hcommit : r.commit = false) (st : Byte)
include hrun hcommit

/-- A failed core of no COMMIT reports, and stops. -/
theorem failCore_eq : s.failCore c st =
    (s.reported r.part r.seq { status := st, cluster := c, station := 0xF, wbTag := 0, i := 0xFFFF, j := 0xFFFF }).stopOn c true := by
  simp [State.failCore, State.failRun, hrun, hcommit, State.reported]

theorem planKept_failCore : PlanKept s (s.failCore c st) := by
  rw [failCore_eq hrun hcommit, State.reported]
  exact planKept_trans (planKept_trans (planKept_trans (planKept_updEntry ..) (planKept_of_calm (calm_foldl (by intros; exact calm_bump ..) _ _)))
    (planKept_of_calm (calm_tally ..))) (planKept_stopOn ..)

theorem failCore_reports : (s.failCore c st).reports r.part r.seq = (s.reports r.part r.seq).map
    (· ++ [{ status := st, cluster := c, station := 0xF, wbTag := 0, i := 0xFFFF, j := 0xFFFF }]) := by
  rw [failCore_eq hrun hcommit, stopOn_reports, State.reported, calm_reports (calm_tally ..),
    countFault_same (P := fun s => s.reports r.part r.seq) (fun _ _ _ _ => rfl)]
  exact (reports_updEntry (f := fun e => { e with fails := e.fails ++ _ }) s r.part r.seq r.part r.seq (fun _ => rfl) (fun _ => rfl)).trans (if_pos ⟨rfl, rfl⟩)

end

section
variable {s : State} {c : Nat} {r : Run} (hrun : (s.cl c).run = some r) (hcommit : r.commit = false)
include hrun hcommit

theorem planKept_firmwareFails : PlanKept s (s.firmwareFails c) := by
  have hcore := planKept_failCore hrun hcommit stFirmware
  unfold State.firmwareFails
  simp only [hrun]
  split
  · exact hcore
  · refine planKept_trans (planKept_trans hcore (planKept_foldl (fun t k => ?_) _ _)) (planKept_updEntry ..)
    split
    · exact planKept_trans (planKept_stopOn ..) (planKept_updCl _ _ _ rfl rfl)
    · exact planKept_refl t

theorem firmwareFails_reports : (s.firmwareFails c).reports r.part r.seq = (s.reports r.part r.seq).map
    (· ++ [{ status := stFirmware, cluster := c, station := 0xF, wbTag := 0, i := 0xFFFF, j := 0xFFFF }]) := by
  have hcore := failCore_reports hrun hcommit stFirmware
  unfold State.firmwareFails
  simp only [hrun]
  split
  · exact hcore
  next e _ =>
    refine (reports_updEntry_same (f := fun e => { e with ended := e.clusters, todo := [] }) _ r.part r.seq r.part r.seq (fun _ => rfl) fun _ => rfl).trans ?_
    rw [← hcore]
    refine foldl_same (P := fun s => s.reports r.part r.seq) (fun t k => ?_) _ _
    split
    · exact stopOn_reports t k r.part r.seq true
    · rfl

end

section
variable {s t : State} {c sp : Nat} (hact : (s.cl c).stat = .active) (hsp : s.spareOf (c / 17) = some sp)
  (hfirst : (s.recov.recs.any fun r => (r.kind == 1 || r.kind == 2) && r.failed / 17 == c / 17) = false) (hstage : s.boot.stage = .l1 ∨ s.boot.stage = .l2)
  (h : PlanKept s t)
include hact hsp hfirst hstage h

/-- A first failed cluster of a die, after steps that keep the floor plan, is a fault that brings in the spare. -/
theorem clusterFails_tookOver : SpareTookOver s (t.clusterFails c) c sp := by
  have hone : t.clusterFails c = t.clusterFault c := by rw [State.clusterFails, h.recov, hfirst]; simp
  have htook := clusterFault_tookOver (s := t) ((h.stat c).trans hact) ((spareOf_kept h _).trans hsp) (by rwa [h.stage])
  rw [hone]
  exact { htook with role := htook.role.trans (h.role c), record := h.recov ▸ htook.record }

omit hstage in
theorem clusterFails_reports {p q : Nat} (htold : FirmwareTold (t.reports p q)) : (t.clusterFails c).reports p q = t.reports p q := by
  have hone : t.clusterFails c = t.clusterFault c := by rw [State.clusterFails, h.recov, hfirst]; simp
  rw [hone]
  exact clusterFault_reports ((h.stat c).trans hact) ((spareOf_kept h _).trans hsp) htold

end

/-- Settles O48: the fault's state is that of `clusterFault_tookOver`, and FIRMWARE_ERROR stays among the reports of its consignment. -/
theorem clusterFaults : Obligations.ClusterFaults := by
  unfold Obligations.ClusterFaults
  intro s c sp hact hsp hfirst hstage after
  have hafter {t : State} (h : SpareTookOver s t c sp) : after t := ⟨h.failed, h.repl, h.active, h.role, h.used, h.bytes, h.record⟩
  have hplain := hafter (clusterFails_tookOver hact hsp hfirst hstage (planKept_refl s))
  refine ⟨⟨_, rfl, hplain⟩, fun hrun => ⟨_, ?_, hplain⟩, fun r x hrun hx _ hcommit => ?_, fun us hus => ⟨_, if_pos hus, hplain⟩⟩
  · change execClusterFault ⟨c, true⟩ s = _
    simp only [execClusterFault, if_true, State.firmwareFails, hrun]
  · have hkept := planKept_firmwareFails hrun hcommit
    have hreports := firmwareFails_reports hrun hcommit
    have htold : FirmwareTold ((s.firmwareFails c).reports r.part r.seq) := by
      rw [hreports]
      intro fs hfs
      obtain ⟨l, -, rfl⟩ := List.mem_map.1 hfs
      simp
    have hfails := failsOf_eq_head ((s.firmwareFails c).clusterFails c) r.part r.seq
    rw [clusterFails_reports hact hsp hfirst hkept htold, hreports, List.head?_map, ← failsOf_eq_head, show s.failsOf r.part r.seq = some x.fails by rw [State.failsOf, hx]; rfl] at hfails
    obtain ⟨x', hx', hlast⟩ := entry_of_failsOf hfails
    refine ⟨_, rfl, hafter (clusterFails_tookOver hact hsp hfirst hstage hkept), x', hx', ?_⟩
    rw [hlast]
    exact ⟨_, List.mem_append_right _ List.mem_cons_self, rfl, rfl⟩

end Sys2Proof.Machine
end

section
/-! SUPPORT. Stores into control space and reads of window registers (R65, R93, R252, R257, R374, R392, R411): where an address leads, and the statement about
what each takes. -/

namespace Sys2Proof.Machine

/-! ### Words of the staging slot (R374) -/

theorem slotPut_bit (d : Desc) {i : Nat} (hi : i < 8) (v : Word) (k : Nat) : (slotPut d i v).getLsbD k =
    if 64 * i ≤ k ∧ k < 64 * i + 64 then v.getLsbD (k - 64 * i) else d.getLsbD k := by
  have hmod : i % 8 = i := Nat.mod_eq_of_lt hi
  rw [slotPut, hmod]
  simp only [BitVec.getLsbD_or, BitVec.getLsbD_and, BitVec.getLsbD_not, BitVec.getLsbD_ofNat, Nat.testBit_mul_two_pow, Nat.testBit_two_pow_sub_one]
  by_cases h512 : k < 512
  · by_cases hk : 64 * i ≤ k ∧ k < 64 * i + 64
    · have hlt : k - 64 * i < 64 := by omega
      simp [hk, hlt, h512]
      rfl
    · rw [if_neg hk]
      by_cases hlo : 64 * i ≤ k
      · have hbit : v.toNat.testBit (k - 64 * i) = false := BitVec.getLsbD_of_ge v _ (by omega)
        have hge : ¬k - 64 * i < 64 := by omega
        simp [hbit, hge, h512]
      · simp [hlo, h512]
  · have hk : ¬(64 * i ≤ k ∧ k < 64 * i + 64) := by omega
    simp [h512, hk, BitVec.getLsbD_of_ge d k (by omega)]

theorem slotPut_word (d : Desc) {i : Nat} (j : Nat) (hi : i < 8) (v : Word) : bits (slotPut d i v).toNat (64 * j) 64 =
    if j = i then v.toNat else bits d.toNat (64 * j) 64 := by
  have hbit (x : Desc) (k : Nat) : (bits x.toNat (64 * j) 64).testBit k = (decide (k < 64) && x.getLsbD (64 * j + k)) := by
    rw [bits, Nat.testBit_mod_two_pow, Nat.testBit_shiftRight]; rfl
  refine Nat.eq_of_testBit_eq fun k => ?_
  rw [hbit, slotPut_bit d hi]
  by_cases hji : j = i
  · subst hji
    by_cases hk : k < 64
    · simp [hk]
      rfl
    · have hv : v.toNat.testBit k = false := BitVec.getLsbD_of_ge v _ (by omega)
      simp [hk, hv]
  · rw [if_neg hji, hbit]
    by_cases hk : k < 64
    · rw [if_neg (by omega)]
    · simp [hk]

/-! ### Where a store into control space leads -/

section
variable {s : State} (hs3 : s.power.st ≠ .s3) (hs5 : s.power.st ≠ .s5) (v : Word)
include hs3 hs5

theorem exec_ledgerWrite {p o : Nat} (hp : p < 16) (ho : o < 0x100) (hal : o % 8 = 0) :
    exec (.registerWrite (BitVec.ofNat 48 (0xF0000200000 + 256 * p + o)) v) s = s.ledgerWrite p o v := by
  have ha : (BitVec.ofNat 48 (0xF0000200000 + 256 * p + o)).toNat = 0xF0000200000 + 256 * p + o := by
    rw [BitVec.toNat_ofNat]; exact Nat.mod_eq_of_lt (by omega)
  change execRegisterWrite _ v s = _
  unfold execRegisterWrite
  dsimp only
  rw [ha, if_neg (by simp [hs3, hs5]), if_neg (by omega), if_pos (by omega),
    show (0xF0000200000 + 256 * p + o - 0xF0000200000) / 0x100 = p by omega, show (0xF0000200000 + 256 * p + o - 0xF0000200000) % 0x100 = o by omega]

theorem exec_clusterWrite {c o : Nat} (hopen : s.padsOpen = true) (hc : c < 1088) (ho : o < 0x1000) (hal : o % 8 = 0) :
    exec (.registerWrite (BitVec.ofNat 48 (clBlock + 0x1000 * c + o)) v) s = s.clusterWrite c o v (clBlock + 0x1000 * c + o) := by
  unfold clBlock
  have ha : (BitVec.ofNat 48 (0xF1000000000 + 0x1000 * c + o)).toNat = 0xF1000000000 + 0x1000 * c + o := by
    rw [BitVec.toNat_ofNat]; exact Nat.mod_eq_of_lt (by omega)
  change execRegisterWrite _ v s = _
  unfold execRegisterWrite clBlock
  dsimp only
  rw [ha, if_neg (by simp [hs3, hs5]), if_neg (by omega), if_neg (by omega), if_neg (by omega), if_pos (by omega), if_pos hopen,
    show (0xF1000000000 + 0x1000 * c + o - 0xF1000000000) / 0x1000 = c by omega, show (0xF1000000000 + 0x1000 * c + o - 0xF1000000000) % 0x1000 = o by omega]

theorem exec_blockWrite {a : Nat} (hlo : 0xF0000201000 ≤ a) (hhi : a < clBlock) (hal : a % 8 = 0) :
    exec (.registerWrite (BitVec.ofNat 48 a) v) s = s.blockWrite a v := by
  have hhi' : a < 0xF1000000000 := hhi
  have ha : (BitVec.ofNat 48 a).toNat = a := by
    rw [BitVec.toNat_ofNat]; exact Nat.mod_eq_of_lt (by omega)
  change execRegisterWrite _ v s = _
  unfold execRegisterWrite
  dsimp only
  rw [ha, if_neg (by simp [hs3, hs5]), if_neg (by omega), if_neg (by omega), if_neg (by omega), if_neg (by omega)]

end

theorem ledgerWrite_slot (s : State) (p : Nat) {o : Nat} (v : Word) (h : o < 0x40) :
    s.ledgerWrite p o v = .next (s.updRegs p fun r => { r with slot := slotPut r.slot (o / 8) v }) := by
  unfold State.ledgerWrite
  exact if_pos h

theorem blockWrite_queue (s : State) {a : Nat} {q : QueueRef} (v : Word) (ha : qBlock ≤ a) (hq : queueAt (a - qBlock) = some q) :
    s.blockWrite a v = .next (s.writeQueueStatus q v.toNat) := by
  unfold State.blockWrite
  split
  case h_10 => rw [if_pos ha, hq]
  all_goals exact absurd ha (by decide)

theorem queueAt_lt {o : Nat} {q : QueueRef} (h : queueAt o = some q) : o < 0x400 ∧ o % 8 = 0 := by
  unfold queueAt at h
  split at h
  · decide
  · decide
  · decide
  · split at h
    next hin => exact ⟨hin.2.1, hin.2.2⟩
    · cases h

theorem onlyPart_updRegs (s : State) (p : Nat) (f : LedgerRegs → LedgerRegs) : OnlyPart s (s.updRegs p f) p := ⟨{ s.pt p with regs := f (s.pt p).regs }, rfl⟩

theorem updRegs_regs (s : State) (p : Nat) (f : LedgerRegs → LedgerRegs) : ((s.updRegs p f).pt p).regs = f (s.pt p).regs := by
  rw [State.updRegs, updPt_pt_same]

/-! ### Reads of window registers (R93) -/

/-- A read of a cluster's register, as the cluster just woken gives it. -/
theorem exec_readCluster {s : State} {p : Packet} {c o : Nat} {val : Word} (hs3 : s.power.st ≠ .s3) (hs5 : s.power.st ≠ .s5) (hopen : s.padsOpen = true) (hc : c < 1088)
    (hcrc : p.pcrc = pktCheck p) (hmod : p.srcMod = 0xFF) (haddr : p.addr.toNat = 0xF1000000000 + 0x1000 * c + o) (ho : o < 0x1000) (hal : o % 8 = 0)
    (hread : (s.woken c).clusterRead c o = some val) :
    exec (.readReq p) s = .next ((s.woken c).respond p 0 { bytes := natLe 8 val.toNat, bad := [], marks := [] }) := by
  have hregion : regionOf p.addr.toNat = .control := by
    rw [haddr, regionOf, if_neg (by omega), if_neg (by unfold padBase padSize; omega), if_pos (by omega)]
  have hans : s.answers = true := by simp [State.answers, hs3, hs5]
  have hreg : (s.woken c).readReg (0xF1000000000 + 0x1000 * c + o) = some val := by
    unfold State.readReg clBlock
    rw [if_neg (by omega), if_neg (by omega), if_pos (by omega), show (0xF1000000000 + 0x1000 * c + o - 0xF1000000000) / 0x1000 = c by omega,
      show (0xF1000000000 + 0x1000 * c + o - 0xF1000000000) % 0x1000 = o by omega, hread]
  change execReadReq p s = _
  unfold execReadReq
  simp only [hans, Bool.not_true, Bool.false_eq_true, if_false, hcrc, ne_eq, not_true_eq_false, hmod, hregion, and_self, if_true]
  unfold State.readControl clBlock
  have hown : (decide (0xF1000000000 ≤ 0xF1000000000 + 0x1000 * c + o) && decide (0xF1000000000 + 0x1000 * c + o < 0xF1000000000 + 1088 * 0x1000)) = true := by
    simpa using by omega
  have hled : ¬(0xF0000200000 ≤ 0xF1000000000 + 0x1000 * c + o ∧ 0xF1000000000 + 0x1000 * c + o < 0xF0000201000 ∧
      (0xF1000000000 + 0x1000 * c + o - 0xF0000200000) % 0x100 = 0x40) := by omega
  have hmis : ¬(0xF1000000000 + 0x1000 * c + o) % 8 ≠ 0 := by omega
  simp only [haddr, if_neg hmis, if_neg hled, hown, hopen, if_true, Bool.not_true, Bool.false_eq_true, and_false, if_false,
    show (0xF1000000000 + 0x1000 * c + o - 0xF1000000000) / 0x1000 = c by omega, hreg]

/-- A window's register reads as the halves of its word (R93). -/
theorem clusterRead_win (s : State) (c : Nat) {w : Nat} (hw : w < 8) : s.clusterRead c (16 * w) = some (BitVec.ofNat 64 (s.win c w).word.toNat) ∧
    s.clusterRead c (16 * w + 8) = some (BitVec.ofNat 64 ((s.win c w).word.toNat / 2 ^ 64)) := by
  unfold State.clusterRead
  constructor
  · rw [if_pos (by omega), Nat.mul_div_cancel_left w (by decide)]
    exact congrArg (fun n => some (BitVec.ofNat 64 n)) (if_pos (by omega))
  · rw [if_pos (by omega), show (16 * w + 8) / 16 = w by omega]
    exact congrArg (fun n => some (BitVec.ofNat 64 n)) (if_neg (by omega))

theorem stamp_own (s : State) {q : Packet} (h : q.dstMod = 0xFF) : s.stamp q = q := if_pos h

/-- An answer with data to a request of this module leaves memory and partitions, and is sent. -/
theorem respond_spec (s : State) {p : Packet} (hmod : p.srcMod = 0xFF) (n : Nat) : let t := s.respond p 0 { bytes := natLe 8 n, bad := [], marks := [] }
    t.mem = s.mem ∧ t.parts = s.parts ∧
      t.out = s.out ++ [.packet (pktFinish (packetOf 0x01 1 p.srcEp p.dstEp 0xFF p.part.toNat p.tag p.addr.toNat 0 (natLe 8 n)))] := by
  refine ⟨rfl, rfl, ?_⟩
  rw [State.respond, emit_out, stamp_own _ hmod, hmod]
  rfl

/-- Settles O40: each address leads to its block (`exec_ledgerWrite`, `exec_clusterWrite`, `exec_blockWrite`), and the block's word takes the value. -/
theorem registerWrites : Obligations.RegisterWrites := by
  unfold Obligations.RegisterWrites
  intro s v hs3 hs5
  refine ⟨fun p hp i hi => ?_, fun p hp => ?_, fun p hp => ?_, ?_, ?_, fun o q hq => ?_, fun hopen c hc => ⟨fun chan hchan => ?_, fun p w hw hcrc hmod => ?_⟩,
    fun pa hpa => ?_⟩
  · refine ⟨s.updRegs p fun r => { r with slot := slotPut r.slot i v }, ?_, onlyPart_updRegs .., fun j hj => ?_⟩
    · rw [exec_ledgerWrite hs3 hs5 v hp (by omega) (by omega), ledgerWrite_slot s p v (by omega), Nat.mul_div_cancel_left i (by decide)]
    · rw [updRegs_regs]
      exact slotPut_word _ j hi v
  · exact ⟨_, exec_ledgerWrite hs3 hs5 v hp (by decide) (by decide), onlyPart_updRegs .., by rw [updRegs_regs]⟩
  · exact ⟨_, exec_ledgerWrite hs3 hs5 v hp (by decide) (by decide), onlyPart_updRegs .., by rw [updRegs_regs]; rfl⟩
  · exact ⟨_, exec_blockWrite hs3 hs5 v (a := 0xF0000201000) (by decide) (by decide) (by decide), rfl⟩
  · exact ⟨_, exec_blockWrite hs3 hs5 v (a := 0xF0000202010) (by decide) (by decide) (by decide), rfl⟩
  · obtain ⟨hlt, hal⟩ := queueAt_lt hq
    refine ⟨_, ?_, rfl⟩
    rw [exec_blockWrite hs3 hs5 v (by omega) (by unfold clBlock; omega) (by omega), blockWrite_queue s v (by unfold qBlock; omega) (by
      rw [qBlock, Nat.add_sub_cancel_left]; exact hq)]
    rfl
  · refine ⟨_, ?_, rfl⟩
    rw [show 0xF1000000000 + 0x1000 * c + 0x100 + 16 * chan = clBlock + 0x1000 * c + (0x100 + 16 * chan) by rw [Nat.add_assoc]; rfl,
      exec_clusterWrite hs3 hs5 v hopen hc (by omega) (by omega), State.clusterWrite, if_neg (by omega), if_pos (by omega), if_pos (by omega),
      show (0x100 + 16 * chan - 0x100) / 16 = chan by omega]
  · obtain ⟨hlo, hhi⟩ := clusterRead_win (s.woken c) c hw
    rw [woken_win] at hlo hhi
    have hword {o n : Nat} (haddr : p.addr.toNat = 0xF1000000000 + 0x1000 * c + o) (ho : o < 0x1000) (hal : o % 8 = 0)
        (hread : (s.woken c).clusterRead c o = some (BitVec.ofNat 64 n)) :
        Runs (.readReq p) s (fun t => t.mem = s.mem ∧ t.parts = s.parts ∧ t.out = s.out ++
          [.packet (pktFinish (packetOf 0x01 1 p.srcEp p.dstEp 0xFF p.part.toNat p.tag p.addr.toNat 0 (natLe 8 (n % 2 ^ 64))))]) := by
      obtain ⟨hmem, hparts, hout⟩ := respond_spec (s.woken c) hmod (n % 2 ^ 64)
      rw [woken_mem] at hmem
      rw [woken_parts] at hparts
      rw [woken_out] at hout
      refine ⟨_, exec_readCluster hs3 hs5 hopen hc hcrc hmod haddr ho hal hread, ?_⟩
      rw [BitVec.toNat_ofNat]
      exact ⟨hmem, hparts, hout⟩
    exact ⟨fun haddr => hword haddr (by omega) (by omega) hlo, fun haddr => hword haddr (by omega) (by omega) hhi⟩
  · change execRegisterWrite pa v s = _
    unfold execRegisterWrite
    dsimp only
    rw [if_neg (by simp [hs3, hs5]), if_pos hpa]

end Sys2Proof.Machine
end

section
/-! SUPPORT. Completion records, the log and aborts (R77, R384 to R386, R388): what the stored record of an entry leaves, and the statement about them. -/

namespace Sys2Proof.Machine

section
variable {s : State} {p seq : Nat} {e : Entry}

/-! ### The record of an entry that is over (R77, R385) -/

/-- The record of an entry stored, before the clusters of its second verdicts fail; no checkpoint row comes back for it. -/
def State.recorded (s : State) (p : Nat) (e : Entry) : State :=
  let st := s.statusOf p e
  let err := st != stDone && st != stDoneWarn
  let t := if err then s.scrambleAll e.begun else s
  let t := t.updEntry p e.seq fun x => { x with st := if x.spec then .held else .finished, status := st, begun := [] }
  let t := if err && !e.spec then t.errorAt p e.seq else t
  let t := if cdType e.desc = 6 then t.fenceOver p e.seq else t
  t.updPt p fun pt => { pt with commit := pt.commit.bind fun k => if k.seq = e.seq then none else some k }

theorem storeRecord_eq (h : ∀ f ∈ e.fails, f.status ≠ stUncorrectable) : s.storeRecord p e = e.twice.foldl State.clusterFails (s.recorded p e) := by
  have hnone : (e.fails.filter fun f => f.status == stUncorrectable && f.cluster != 0xFFFF) = [] := by
    refine List.filter_eq_nil_iff.2 fun f hf => ?_
    simp [h f hf]
  rw [State.storeRecord, hnone]
  rfl

/-- What an update of a partition without its entries and its W leaves. -/
theorem updPt_entry_w (f : Part → Part) (hf : (f (s.pt p)).entries = (s.pt p).entries ∧ (f (s.pt p)).w = (s.pt p).w) :
    (s.updPt p f).entry p seq = s.entry p seq ∧ ((s.updPt p f).pt p).w = (s.pt p).w := by
  simp only [State.entry, updPt_pt_same, hf, and_self]

theorem recorded_spec (hx : s.entry p e.seq = some e) :
    (s.recorded p e).mem = (if s.statusOf p e = stDone ∨ s.statusOf p e = stDoneWarn then s.mem else (s.scrambleAll e.begun).mem) ∧
      (s.recorded p e).entry p e.seq = some { e with st := if e.spec then .held else .finished, status := s.statusOf p e, begun := [] } ∧
      ((s.recorded p e).pt p).w = (s.pt p).w := by
  unfold State.recorded
  extract_lets st err t₁ t₂ t₃ t₄
  have h₁mem : t₁.mem = if st = stDone ∨ st = stDoneWarn then s.mem else (s.scrambleAll e.begun).mem := by
    unfold t₁ err
    by_cases hd : st = stDone
    · simp [hd]
    · by_cases hw : st = stDoneWarn <;> simp [hd, hw]
  have h₁parts : t₁.parts = s.parts := by unfold t₁; split <;> simp
  have h₂ : t₂.entry p e.seq = some { e with st := if e.spec then .held else .finished, status := st, begun := [] } := by
    have h := entry_updEntry (s := t₁) (p := p) (q := e.seq) (f := fun x => { x with st := if x.spec then .held else .finished, status := st, begun := [] }) fun _ => rfl
    rw [entry_congr h₁parts, hx] at h
    exact h
  have h₂w : (t₂.pt p).w = (s.pt p).w := by
    unfold t₂
    rw [State.updEntry, updPt_pt_same, State.pt, h₁parts]
    rfl
  have h₃ : t₃.entry p e.seq = t₂.entry p e.seq ∧ (t₃.pt p).w = (t₂.pt p).w := by
    unfold t₃
    split
    · exact updPt_entry_w _ ⟨rfl, rfl⟩
    · exact ⟨rfl, rfl⟩
  have h₄ : t₄.entry p e.seq = t₃.entry p e.seq ∧ (t₄.pt p).w = (t₃.pt p).w := by
    unfold t₄
    split
    · exact updPt_entry_w _ ⟨rfl, rfl⟩
    · exact ⟨rfl, rfl⟩
  have h₃mem : t₃.mem = t₁.mem := by unfold t₃; split <;> rfl
  have h₄mem : t₄.mem = t₃.mem := by unfold t₄; split <;> rfl
  obtain ⟨hlast, hlastw⟩ := updPt_entry_w (s := t₄) (p := p) (seq := e.seq) (fun pt => { pt with commit := pt.commit.bind fun k => if k.seq = e.seq then none else some k })
    ⟨rfl, rfl⟩
  exact ⟨(h₄mem.trans h₃mem).trans h₁mem, hlast.trans (h₄.1.trans (h₃.1.trans h₂)), hlastw.trans (h₄.2.trans (h₃.2.trans h₂w))⟩

/-! ### The log (R386) -/

/-- The entry as its log record names it: one that never latched a geometry takes the last. -/
def State.loggedAs (s : State) (p : Nat) (e : Entry) : Entry := if e.latched then e else { e with geo := (s.pt p).lastGeo }

/-- The bytes of an entry's log record at HEAD. -/
def State.logBytes (s : State) (p : Nat) (e : Entry) : List Byte :=
  s.recordBytes p (s.loggedAs p e) (((s.loggedAs p e).info.toNat &&& 0xB) + if (s.loggedAs p e).geo ≠ (s.pt p).lastGeo then 4 else 0)
    (if (s.pt p).regs.head / s.clogSize p % 2 = 0 then 1 else 0)

/-- The state once the record of the oldest entry stands in the log. -/
def State.logged (s : State) (p : Nat) (e : Entry) (rest : List Entry) : State :=
  (s.store { pa := bits (s.pt p).regs.clogBase.toNat 12 36 * 4096 + 64 * ((s.pt p).regs.head % s.clogSize p), bytes := s.logBytes p e }).updPt p fun q =>
    { q with entries := rest, w := (s.loggedAs p e).seq, lastGeo := (s.loggedAs p e).geo, fullTold := false,
             regs := { q.regs with head := ((s.pt p).regs.head + 1) % 2 ^ 32 } }

theorem exec_logRecord {rest : List Entry} (hent : (s.pt p).entries = e :: rest) (hfin : e.st = .finished) (hseal : s.boot.sealed = false) (hsize : s.clogSize p ≠ 0)
    (hroom : ((s.pt p).regs.head + 2 ^ 32 - (s.pt p).regs.tail) % 2 ^ 32 < s.clogSize p) :
    exec (.logRecord p) s = .next (if (s.pt p).regs.tail = (s.pt p).regs.head then (s.logged p e rest).msiFor (s.pt p).regs.irq else s.logged p e rest) := by
  have hgo : ¬(e.st ≠ .finished ∨ s.boot.sealed = true ∨ s.clogSize p = 0) := by simp [hfin, hseal, hsize]
  change execLogRecord p s = _
  unfold execLogRecord
  simp only [hent, if_neg hgo, if_neg (Nat.not_le.2 hroom)]
  rfl

theorem msiFor_mem (s : State) (irq : Word) : (s.msiFor irq).mem = s.mem := metal_mem (msiFor_metal s irq)

theorem logged_spec (rest : List Entry) : let t := s.logged p e rest
    (t.pt p).entries = rest ∧ (t.pt p).w = e.seq ∧ (t.pt p).regs.head = ((s.pt p).regs.head + 1) % 2 ^ 32 ∧
      ∀ a, ¬(bits (s.pt p).regs.clogBase.toNat 12 36 * 4096 + 64 * ((s.pt p).regs.head % s.clogSize p) ≤ a ∧
             a < bits (s.pt p).regs.clogBase.toNat 12 36 * 4096 + 64 * ((s.pt p).regs.head % s.clogSize p) + 64) → t.mem.byte a = s.mem.byte a := by
  have hseq : (s.loggedAs p e).seq = e.seq := by unfold State.loggedAs; split <;> rfl
  have hlen : (s.logBytes p e).length = 64 := natLe_length 64 _
  unfold State.logged
  refine ⟨by rw [updPt_pt_same], by rw [updPt_pt_same]; exact hseq, by rw [updPt_pt_same], fun a ha => ?_⟩
  rw [updPt_mem, store_mem, memory_byte_writeN, hlen, if_neg ha]

/-! ### An abort of the one open entry (R388) -/

/-- An accepted entry ended by an abort of the numbers up to `a`. -/
def State.acceptedEnded (s : State) (p : Nat) (e : Entry) (a : Nat) : State :=
  let t := ((s.updPt p fun pt => { pt with regs := { pt.regs with abortSeq := a } }).updEntry p e.seq fun x =>
    { x with st := .finished, status := stAborted, fails := [noWb stAborted] }).errorAt p e.seq
  if cdType e.desc = 6 then t.fenceOver p e.seq else t

theorem exec_hostAbort {a : BitVec 48} (hent : (s.pt p).entries = [e]) (hst : e.st = .accepted) (hle : e.seq ≤ a.toNat) (hw : (s.pt p).w < a.toNat) :
    exec (.hostAbort p a) s = .next (s.acceptedEnded p e a.toNat) := by
  have hentry : (s.updPt p fun pt => { pt with regs := { pt.regs with abortSeq := a.toNat } }).entry p e.seq = some e := by
    simp [State.entry, hent]
  change execHostAbort p a s = _
  unfold execHostAbort
  simp only [if_neg (Nat.not_le.2 hw), hent, List.filter_cons, hle, decide_true, if_true, List.filter_nil, List.map_cons, List.map_nil, List.foldl_cons,
    List.foldl_nil, hentry, State.abortEntry, hst]
  rfl

theorem onlyPart_updPt {t : State} (h : OnlyPart s t p) (f : Part → Part) : OnlyPart s (t.updPt p f) p := by
  obtain ⟨pt, rfl⟩ := h
  exact ⟨f pt, by simp [State.updPt, tab_put_put, State.pt]⟩

theorem acceptedEnded_spec (hent : (s.pt p).entries = [e]) (a : Nat) : OnlyPart s (s.acceptedEnded p e a) p ∧
    ((s.acceptedEnded p e a).pt p).regs.abortSeq = a ∧ ((s.acceptedEnded p e a).pt p).fenceErr = max (s.pt p).fenceErr e.seq ∧
      ((s.acceptedEnded p e a).pt p).entries = [{ e with st := .finished, status := stAborted, fails := [noWb stAborted] }] := by
  unfold State.acceptedEnded
  generalize ht : ((s.updPt p fun pt => { pt with regs := { pt.regs with abortSeq := a } }).updEntry p e.seq fun x =>
    { x with st := .finished, status := stAborted, fails := [noWb stAborted] }).errorAt p e.seq = t
  have honly : OnlyPart s t p := ht ▸ onlyPart_updPt (onlyPart_updPt ⟨_, rfl⟩ _) _
  have hpt : (t.pt p).regs.abortSeq = a ∧ (t.pt p).fenceErr = max (s.pt p).fenceErr e.seq ∧
      (t.pt p).entries = [{ e with st := .finished, status := stAborted, fails := [noWb stAborted] }] := by
    subst ht
    simp [State.errorAt, State.updEntry, hent]
  dsimp only
  split
  · refine ⟨onlyPart_updPt honly _, ?_⟩
    rw [State.fenceOver, updPt_pt_same]
    exact hpt
  · exact ⟨honly, hpt⟩

end

/-- Settles O46: the record is `recorded_spec`, the log `logged_spec`, the abort `acceptedEnded_spec`. -/
theorem completion : Obligations.Completion := by
  unfold Obligations.Completion
  intro s p seq e hx hseq
  subst hseq
  refine ⟨fun hover hclean => ?_, fun rest hent hfin hseal hsize hroom => ?_, fun a hent hst hle hw => ?_⟩
  · obtain ⟨hmem, hentry, hwm⟩ := recorded_spec hx
    refine ⟨_, ?_, s.recorded p e, rfl, hmem, ⟨_, hentry, rfl, rfl, rfl, rfl⟩, hwm⟩
    change execConsignmentComplete p e.seq s = _
    simp only [execConsignmentComplete, hx, hover, if_true, storeRecord_eq hclean]
  · refine ⟨_, exec_logRecord hent hfin hseal hsize hroom, ?_⟩
    split
    · simp only [State.pt, msiFor_parts, msiFor_mem]
      exact logged_spec rest
    · exact logged_spec rest
  · obtain ⟨honly, habort, herr, hentries⟩ := acceptedEnded_spec hent a.toNat
    refine ⟨_, exec_hostAbort hent hst hle hw, honly, habort, herr, { e with st := .finished, status := stAborted, fails := [noWb stAborted] }, ?_, rfl, rfl⟩
    rw [State.entry, hentries]
    exact List.find?_cons_of_pos (beq_self_eq_true e.seq)

end Sys2Proof.Machine
end

section
/-! SUPPORT. Management and SPDM requests (R64, R69, R458, R470 to R473, R475, R482, R484, R489): how a request is answered, kept and repeated, where a unit
goes that arrives, and the statement about them. -/

namespace Sys2Proof.Machine

/-! ### Counters of the dictionary -/

/-- From `s` to `t` the dictionary's counters and kept responses may change, and nothing else. -/
structure DictCounted (s t : State) : Prop where
  only : OnlyDict s t
  shadow : t.dict.shadow = s.dict.shadow
  active : t.dict.active = s.dict.active
  sessions : t.dict.sessions = s.dict.sessions

theorem dictCounted_refl (s : State) : DictCounted s s := ⟨⟨s.dict, rfl⟩, rfl, rfl, rfl⟩

theorem dictCounted_bump {s t : State} (h : DictCounted s t) (i j n : Nat) : DictCounted s (t.bump i j n) := by
  obtain ⟨⟨d, rfl⟩, hsh, hac, hse⟩ := h
  exact ⟨⟨_, rfl⟩, hsh, hac, hse⟩

theorem dictCounted_sess {s t : State} (h : DictCounted s t) (n : Nat) : t.sess n = s.sess n := by simp only [State.sess, h.sessions]
theorem dictCounted_openSess {s t : State} (h : DictCounted s t) : t.openSess = s.openSess := by simp only [State.openSess, h.sessions]

theorem onlyDict_updSess {s t : State} (h : OnlyDict s t) (n : Nat) (f : Session → Session) : OnlyDict s (t.updSess n f) := by
  obtain ⟨d, rfl⟩ := h
  exact ⟨_, rfl⟩

theorem onlyDict_trans {r s t : State} (h : OnlyDict r s) (k : OnlyDict s t) : OnlyDict r t := by
  obtain ⟨d, rfl⟩ := h
  obtain ⟨d', rfl⟩ := k
  exact ⟨d', rfl⟩

theorem onlyDict_emit {s t : State} (h : OnlyDict s t) (o : Out) : OnlyDict { s with out := (t.emit o).out } (t.emit o) := by
  obtain ⟨d, rfl⟩ := h
  exact ⟨d, rfl⟩

theorem onlyDict_out {s t : State} (h : OnlyDict s t) : t.out = s.out := by
  obtain ⟨d, rfl⟩ := h
  rfl

theorem updSess_sess (s : State) (n k : Nat) (f : Session → Session) : (s.updSess n f).sess k = if k = n then f (s.sess n) else s.sess k := by
  unfold State.sess State.updSess
  exact tab_look_put ..

/-! ### A request answered (R470 to R472) -/

/-- What goes out for a response: a frame of the bus, or a unit of a DTLS session (R468, R473). -/
def mdpOut (addr : Byte) (sess : Nat) (u : MdpUnit) : Out :=
  let f := busBody addr (16 + u.data.length) u
  if sess = 0 then .bus (f ++ natLe 4 (crc32c f).toNat) else .mdp sess u

section
variable {s : State} {sess op : Nat} {u : MdpUnit} {f : State → State × Reply}

/-- A request answered before is answered the same again, or as malformed where its unit differs. -/
theorem request_again {k : MdpUnit × MdpUnit} (h : (s.sess sess).kept.find? (fun k => k.1.reqId == u.reqId) = some k) :
    ∃ v : State, DictCounted s v ∧ s.request sess op u f =
      v.emit (mdpOut (BitVec.ofNat 8 (s.obj 0x1101 1)) sess (if k.1 = u then k.2 else respond u { res := rcMalformed })) := by
  unfold State.request
  simp only [h]
  split
  · exact ⟨s, dictCounted_refl s, rfl⟩
  · exact ⟨_, dictCounted_bump (dictCounted_bump (dictCounted_refl s) ..) .., rfl⟩

/-- Another request is executed once, or malformed; it is counted, its response kept among the last 16, and sent. -/
theorem request_new {y : State × Reply} (h : (s.sess sess).kept.find? (fun k => k.1.reqId == u.reqId) = none)
    (hy : (if badUnit sess op u then (s, { res := rcMalformed }) else f s) = y) :
    ∃ v : State, OnlyDict y.1 v ∧ v.dict.shadow = y.1.dict.shadow ∧ ((sess = 0 ∨ y.1.openSess.contains sess = true) →
        (v.sess sess).kept = ((y.1.sess sess).kept ++ [(u, respond u y.2)]).drop ((y.1.sess sess).kept.length + 1 - 16)) ∧
      s.request sess op u f = v.emit (mdpOut (BitVec.ofNat 8 (s.obj 0x1101 1)) sess (respond u y.2)) := by
  unfold State.request
  simp only [h, hy]
  generalize ht : (if s.power.st ≠ .s5 ∧ y.1.power.st = .s5 then y.1 else y.1.bump 0x1102 5 1) = t
  have hcount : DictCounted y.1 t := by
    subst ht
    split
    · exact dictCounted_refl _
    · exact dictCounted_bump (dictCounted_refl _) ..
  generalize ht' : (if y.2.res = rcOk then t else t.bump 0x1102 6 1) = t'
  have hcount' : DictCounted y.1 t' := by
    subst ht'
    split
    · exact hcount
    · exact dictCounted_bump hcount ..
  rw [dictCounted_openSess hcount']
  split
  next hopen =>
    refine ⟨_, onlyDict_updSess hcount'.only .., hcount'.shadow, fun _ => ?_, rfl⟩
    rw [updSess_sess, if_pos rfl, dictCounted_sess hcount']
  next hclosed => exact ⟨t', hcount'.only, hcount'.shadow, fun hopen => absurd hopen hclosed, rfl⟩

end

/-! ### A unit that arrives (R64, R473, R475) -/

/-- A unit has arrived whole at this module: a bus frame by its check, address and length. -/
def MdpArrives (s : State) (path : MdpPath) (u : MdpUnit) : Prop :=
  match path with
  | .udp _ => True
  | .bus addr len crc => crc = crc32c (busBody addr len.toNat u) ∧ addr.toNat = s.obj 0x1101 1 ∧ addr ≠ 0 ∧ addr ≠ 0xFF ∧ len.toNat = 16 + u.data.length

/-- The state once an arrived unit is counted: datagrams are. -/
def State.unitCounted (s : State) (path : MdpPath) : State :=
  match path with
  | .udp _ => s.bump 0x1102 1 1
  | .bus .. => s

section
variable {s : State} {path : MdpPath} {u : MdpUnit} {op : Nat}

theorem unitCounted_counted (s : State) (path : MdpPath) : DictCounted s (s.unitCounted path) := by
  cases path
  · exact dictCounted_bump (dictCounted_refl s) ..
  · exact dictCounted_refl s

theorem unitCounted_addr (s : State) (path : MdpPath) : (s.unitCounted path).obj 0x1101 1 = s.obj 0x1101 1 := by
  cases path
  · exact setObj_obj_ne _ _ _ _ _ _ (by decide)
  · rfl

theorem mdpArrive_down (h : s.mdpUp (pathSess path) = false) : s.mdpArrive path op u = s := by
  simp [State.mdpArrive, h]

/-- A unit that arrives whole while nothing waits and the receive path has room is served at once. -/
theorem mdpArrive_served (hup : s.mdpUp (pathSess path) = true) (harr : MdpArrives s path u) (hmac : s.mac = []) (hroom : s.mdpRoom u = true) :
    s.mdpArrive path op u = (s.unitCounted path).request (pathSess path) (op % 256) u fun t => t.doOp (pathSess path) op u := by
  have hserve (t : State) (hm : t.mac = []) (hr : t.mdpRoom u = true) (hu : t.mdpUp (pathSess path) = true) :
      t.macIn path op u = t.request (pathSess path) (op % 256) u fun t => t.doOp (pathSess path) op u := by
    simp [State.macIn, hm, hr, State.serveMdp, hu]
  unfold State.mdpArrive
  simp only [hup, Bool.not_true, Bool.false_eq_true, if_false]
  cases path with
  | udp k => exact hserve _ hmac hroom hup
  | bus addr len crc =>
    obtain ⟨hcrc, haddr, hzero, hones, hlen⟩ := harr
    simp only [if_neg (not_not.2 hcrc)]
    rw [if_neg (by tauto)]
    exact hserve s hmac hroom hup

theorem mdpArrive_badCheck {addr : Byte} {len : BitVec 16} {crc : Word32} (hup : s.mdpUp 0 = true) (h : crc ≠ crc32c (busBody addr len.toNat u)) :
    s.mdpArrive (.bus addr len crc) op u = ({ s with mdpRx := { s.mdpRx with st := { s.mdpRx.st with tailBad := true } } } : State).bump 0x1102 7 1 := by
  unfold State.mdpArrive
  simp only [show pathSess (.bus addr len crc) = 0 from rfl, hup, Bool.not_true, Bool.false_eq_true, if_false, if_pos h]

theorem mdpArrive_notOurs {addr : Byte} {len : BitVec 16} {crc : Word32} (hup : s.mdpUp 0 = true) (hcrc : crc = crc32c (busBody addr len.toNat u))
    (h : addr.toNat ≠ s.obj 0x1101 1 ∨ len.toNat ≠ 16 + u.data.length) : s.mdpArrive (.bus addr len crc) op u = s := by
  unfold State.mdpArrive
  simp only [show pathSess (.bus addr len crc) = 0 from rfl, hup, Bool.not_true, Bool.false_eq_true, if_false, if_neg (not_not.2 hcrc)]
  exact if_pos (by tauto)

/-- A datagram that the receive path has no room for. -/
theorem mdpArrive_waits {k : Nat} (hk : k ≠ 0) (hup : s.mdpUp k = true) (hroom : s.mdpRoom u = false) : s.mdpArrive (.udp k) op u =
    (if 16 ≤ (s.mac.filter fun x => pathSess x.1 == k).length then (s.bump 0x1102 1 1).bump 0x1102 8 1
     else if 16384 < s.macBytes + 16 + u.data.length then (s.bump 0x1102 1 1).bump 0x1102 2 1
     else { s.bump 0x1102 1 1 with mac := s.mac ++ [(.udp k, op, u)] }) := by
  have hroom' : (s.bump 0x1102 1 1).mdpRoom u = false := hroom
  unfold State.mdpArrive
  simp only [show pathSess (.udp k) = k from rfl, hup, Bool.not_true, Bool.false_eq_true, if_false]
  unfold State.macIn
  rw [if_neg (by simp [hroom']), if_neg (show ¬pathSess (.udp k) = 0 from hk)]
  rfl

/-- A counter advanced after another. -/
theorem bump_bump_obj (s : State) {i j i' j' : Nat} (h : objKey i j ≠ objKey i' j') : ((s.bump i' j' 1).bump i j 1).obj i j = (s.obj i j + 1) % 2 ^ 64 := by
  rw [bump_obj_same, State.bump, setObj_obj_ne _ _ _ _ _ _ h]

end

/-! ### Numeric writes to the shadow set (R477, R484) -/

section
variable {s : State} {sess : Nat} {u : MdpUnit} {r : ObjRow}

/-- The shadow value of an object. -/
def State.setShadowVal (s : State) (idx sub v : Nat) : State :=
  { s with dict := { s.dict with shadow := Tab.put s.dict.shadow (objDefault idx sub) (objKey idx sub) (BitVec.ofNat 64 v) } }

theorem putBytes_shadow {bus : Bool} {idx sub v : Nat} {bs : List Byte} (hacc : r.acc = .rws) (hstr : r.ty ≠ .str) (hoct : r.ty ≠ .oct) (hlen : bs.length = r.ty.size)
    (hrange : typeRange r.ty (leNat bs) = true) (hval : normVal idx sub (leNat bs) = .ok v) : s.putBytes bus r idx sub bs = .ok (s.setShadowVal idx sub v) := by
  unfold State.putBytes
  split
  next h => exact absurd h hstr
  next h => exact absurd h hoct
  · simp only [hlen, hrange, hval, ne_eq, not_true_eq_false, if_false, Bool.not_true, Bool.false_eq_true]
    unfold State.putVal
    exact if_pos hacc

/-- A write to an RWS object while a swap is pending is refused. -/
theorem doWrite_pending (h : s.findObj sess u true = .ok r) (hacc : r.acc = .rws) (hset : s.dict.set.st ≠ 0) : s.doWrite sess u = (s, { res := rcShadow }) := by
  simp only [State.doWrite, h]
  rw [if_pos ⟨hacc, hset⟩]

/-- A numeric write to an RWS object changes its shadow value; an image's claim is then kept. -/
theorem doWrite_shadow {v : Nat} (h : s.findObj sess u true = .ok r) (hset : s.dict.set.st = 0)
    (hclaim : s.claimOn (objKey u.index.toNat u.sub.toNat) = none) (hseg : u.seg = false)
    (hput : s.putBytes (sess == 0) r u.index.toNat u.sub.toNat u.data = .ok (s.setShadowVal u.index.toNat u.sub.toNat v)) :
    (s.doWrite sess u).2 = { res := rcOk } ∧ OnlyDict s (s.doWrite sess u).1 ∧ (s.doWrite sess u).1.dict.active = s.dict.active ∧
      (s.doWrite sess u).1.dict.shadow = (s.setShadowVal u.index.toNat u.sub.toNat v).dict.shadow := by
  have hpend : ¬(r.acc = .rws ∧ s.dict.set.st ≠ 0) := fun hp => hp.2 hset
  simp only [State.doWrite, h, if_neg hpend, hclaim, Option.any_none, Bool.false_eq_true, if_false, hseg, hput]
  refine ⟨trivial, ?_⟩
  split <;> exact ⟨⟨_, rfl⟩, rfl, rfl⟩

end

/-! ### Idle limits (R482, R489) -/

/-- A session ended: its SPDM connection and its claims go, and it is open no more. -/
theorem endSess_spec (s : State) (n : Nat) : let t := s.endSess n
    OnlyDict { s with sec := t.sec } t ∧ t.sec = { s.sec with spdm := s.sec.spdm.filter fun e => e.1 != n } ∧ t.openSess = s.openSess.filter (· != n) ∧
      t.dict.claims = s.dict.claims.filter fun k => k.sess != n := by
  refine ⟨⟨_, rfl⟩, rfl, ?_, rfl⟩
  change (((s.dict.sessions.filter fun e => e.1 != n).filter fun e => e.1 != 0).map (·.1)) = _
  rw [State.openSess, List.filter_map, List.filter_filter, List.filter_filter]
  simp only [Function.comp_def, Bool.and_comm]

/-- Settles O55: a unit that arrives is served (`mdpArrive_served`), and a request is answered again or executed once (`request_again`, `request_new`). -/
theorem mdpRequests : Obligations.MdpRequests := by
  unfold Obligations.MdpRequests
  intro s path u sess sent tells keptFor arrives counted does
  have harrives (h : arrives) : MdpArrives s path u := by cases path <;> exact h
  have hc := unitCounted_counted s path
  have hdoes (i : Instr) (op : Nat) (f : State → State × Reply) (hi : exec i s = .next (s.mdpArrive path op u)) (hf : ∀ t : State, t.doOp sess op u = f t) :
      does i op f := by
    refine ⟨fun hdown => hi.trans (by rw [mdpArrive_down hdown]), fun hup harr hmac hroom => ?_, fun addr len crc hpath hup => ?_, fun k hpath hk hup hroom => ?_⟩
    · rw [mdpArrive_served hup (harrives harr) hmac hroom, funext hf] at hi
      have hsess : (s.unitCounted path).sess sess = s.sess sess := dictCounted_sess hc sess
      have haddr : BitVec.ofNat 8 ((s.unitCounted path).obj 0x1101 1) = (BitVec.ofNat 8 (s.obj 0x1101 1) : Byte) := by rw [unitCounted_addr]
      refine ⟨fun k hk => ?_, fun hk hbad => ?_, fun hk hgood => ?_⟩
      · obtain ⟨v, hv, heq⟩ := request_again (s := s.unitCounted path) (op := op % 256) (f := f) (by rw [hsess]; exact hk)
        rw [heq, haddr] at hi
        have honly := onlyDict_trans hc.only hv.only
        exact ⟨_, hi, onlyDict_emit honly _, hv.shadow.trans hc.shadow, hv.active.trans hc.active, (emit_out ..).trans (by rw [onlyDict_out honly]; rfl)⟩
      · obtain ⟨v, hv, hshadow, -, heq⟩ := request_new (s := s.unitCounted path) (op := op % 256) (f := f) (by rw [hsess]; exact hk) (if_pos hbad)
        rw [heq, haddr] at hi
        have honly := onlyDict_trans hc.only hv
        exact ⟨_, hi, onlyDict_emit honly _, hshadow.trans hc.shadow, (emit_out ..).trans (by rw [onlyDict_out honly]; rfl)⟩
      · obtain ⟨v, ⟨d, rfl⟩, hshadow, hkept, heq⟩ := request_new (s := s.unitCounted path) (op := op % 256) (f := f) (by rw [hsess]; exact hk)
          (if_neg (by rw [hgood]; exact Bool.false_ne_true))
        rw [heq, haddr] at hi
        exact ⟨_, hi, rfl, rfl, rfl, hshadow, rfl, hkept⟩
    · subst hpath
      exact ⟨fun hbad => hi.trans (by rw [mdpArrive_badCheck hup hbad]), fun hcrc hno => hi.trans (by rw [mdpArrive_notOurs hup hcrc hno])⟩
    · subst hpath
      rw [mdpArrive_waits hk hup hroom] at hi
      refine ⟨fun hmany => ?_, fun hfew => ⟨fun hfits => ?_, fun hfull => ?_⟩⟩
      · rw [if_pos hmany] at hi
        exact ⟨_, hi, rfl, rfl, bump_bump_obj s (by decide)⟩
      · rw [if_neg (Nat.not_le.2 hfew), if_neg (Nat.not_lt.2 hfits)] at hi
        exact ⟨_, hi, rfl, rfl, rfl, rfl⟩
      · rw [if_neg (Nat.not_le.2 hfew), if_pos hfull] at hi
        exact ⟨_, hi, rfl, rfl, rfl, rfl, bump_bump_obj s (by decide)⟩
  have hspdm (i : Instr) (req : Nat) (hi : exec i s = .next (s.mdpArrive path (spdmOp req) u)) : does i (spdmOp req) (fun t => t.doSpdm sess req u) := by
    refine hdoes i (spdmOp req) (fun t => t.doSpdm sess req u) hi fun t => ?_
    unfold State.doOp spdmOp
    split
    case h_5 => rw [show (8 + 256 * req) / 256 = req by omega]
    all_goals omega
  refine ⟨hdoes _ _ _ rfl fun _ => rfl, hdoes _ _ _ rfl fun _ => rfl, hdoes _ _ _ rfl fun _ => rfl, hdoes _ _ _ rfl fun _ => rfl,
    ⟨hspdm _ _ rfl, hspdm _ _ rfl, hspdm _ _ rfl, hspdm _ _ rfl, hspdm _ _ rfl, hspdm _ _ rfl, hspdm _ _ rfl, hspdm _ _ rfl, hspdm _ _ rfl, hspdm _ _ rfl,
      hspdm _ _ rfl, hspdm _ _ rfl⟩, fun r hr hacc hset => doWrite_pending hr hacc hset, fun r v hr hacc hset hclaim hseg hstr hoct hlen hrange hval => ?_,
    ⟨_, rfl, ⟨_, rfl⟩, rfl⟩, ⟨_, rfl, ⟨_, rfl⟩, ?_, fun n hn => ?_⟩, fun hopen => ⟨_, if_pos hopen, endSess_spec s sess⟩⟩
  · obtain ⟨hres, hdict, hact, hshadow⟩ := doWrite_shadow hr hset hclaim hseg (putBytes_shadow (bus := sess == 0) hacc hstr hoct hlen hrange hval)
    refine ⟨hres, hdict, hact, fun k => ?_⟩
    rw [hshadow]
    exact tab_look_put ..
  · rw [updSess_sess, if_pos rfl]
  · rw [updSess_sess, if_neg hn]

end Sys2Proof.Machine
end

section
/-! SUPPORT. The Vector Station's instructions other than the lane-wise ones (R191 to R198): what an instruction that executes at the station's pc leaves, by
its job, what the end of a strip leaves, and the statement about them. -/

namespace Sys2Proof.Machine

/-! ### Small facts -/

theorem mapFirst_id {α : Type} {f : α → α} (hf : ∀ x, f x = x) (p : α → Bool) (l : List α) : mapFirst p f l = l := by
  induction l with
  | nil => rfl
  | cons x l ih => rw [mapFirst, ih, hf]; split <;> rfl

theorem clash_none {s : State} {dsts own : List (Nat × Nat)} {others : List WbEntry}
    (h : rangesMeet dsts (own ++ others.flatMap fun o => o.srcs ++ o.dsts) = []) : s.clash dsts own others = s := by
  unfold State.clash; rw [h]; rfl

section
variable (s : State) (c : Nat)

@[simp] theorem addBegun_mem (rs : List (Nat × Nat)) : (s.addBegun c rs).mem = s.mem := by unfold State.addBegun; split <;> rfl

@[simp] theorem addBegun_st (rs : List (Nat × Nat)) (k : Nat) : ((s.addBegun c rs).cl k).st = (s.cl k).st := by
  unfold State.addBegun
  split
  · rfl
  · by_cases h : k = c
    · subst h; simp [State.updRun]
    · rw [State.updRun, updCl_cl_ne _ _ _ _ h]

theorem updWb_vec (st chan : Nat) (f : WbEntry → WbEntry) : ((s.updWb c st chan f).cl c).st.vec = (s.cl c).st.vec := by
  simp [State.updWb, State.updSiding]

theorem updWb_mem (st chan : Nat) (f : WbEntry → WbEntry) : (s.updWb c st chan f).mem = s.mem := rfl

/-- A change that leaves the head waybill as it is leaves every siding. -/
theorem updWb_siding_id (st chan : Nat) {f : WbEntry → WbEntry} (hf : ∀ x, f x = x) (k : Nat) : (s.updWb c st chan f).siding c k = s.siding c k := by
  by_cases hk : k = st
  · subst hk; rw [State.updWb, updSiding_siding_same]; exact mapFirst_id hf ..
  · simp [State.updWb, State.updSiding, State.siding, tab_look_put_ne _ _ _ _ hk]

/-- A change of what the Vector Station holds. -/
def State.updVec (f : Vec → Vec) : State := s.updSt c fun y => { y with vec := f y.vec }

@[simp] theorem updVec_siding (f : Vec → Vec) (k : Nat) : (s.updVec c f).siding c k = s.siding c k := by
  simp [State.siding, State.updVec]

@[simp] theorem updVec_vec (f : Vec → Vec) : ((s.updVec c f).cl c).st.vec = f (s.cl c).st.vec := by simp [State.updVec]

@[simp] theorem updVec_mem (f : Vec → Vec) : (s.updVec c f).mem = s.mem := rfl

end

/-! ### An instruction that executes (R188, R197) -/

/-- The job of an instruction of the Vector Station as it starts. -/
def vecAcc (c : Nat) (e : WbEntry) : Acc := { who := 4, home := some c, owner := some (e.part, e.seq) }

/-- What is stored at once of what an instruction writes: nothing of a waybill exactly in place. -/
def storedNow (e : WbEntry) (a : Acc) : Acc := if exactInPlace e.wb then { a with writes := [] } else a

/-- The station after an instruction: registers and flags take its result, and its pc moves on. -/
def vecNext (e : WbEntry) (regs : VRegs) (out : List Byte) (fl : Byte) (a : Acc) (v : Vec) : Vec := { v with
  regs := regs, cur := { v.cur with pc := v.cur.pc + 1, outBytes := out, flags := v.cur.flags ||| fl,
                                    later := v.cur.later ++ if exactInPlace e.wb then a.writes.reverse.map fun w => (w.1.pa, w.1.bytes, w.2) else [] } }

/-- What an instruction's job has read and written joins its waybill. -/
def joinRanges (e : WbEntry) (a : Acc) (x : WbEntry) : WbEntry := { x with srcs := x.srcs ++ (storedNow e a).srcs, dsts := x.dsts ++ (storedNow e a).begun }

/-- The cluster after an instruction. -/
def State.vecTaken (t : State) (c : Nat) (e : WbEntry) (regs : VRegs) (out : List Byte) (fl : Byte) (a : Acc) : State :=
  (t.updWb c 4 0 (joinRanges e a)).updVec c (vecNext e regs out fl a)

section
variable {s : State} {c : Nat} {e : WbEntry} {r : Run} {opc : Nat}

theorem vBegin_active (h : (s.cl c).st.vec.cur.active = true) : s.vBegin c e = s := by unfold State.vBegin; simp [h]

/-- An instruction whose job succeeds and meets nobody's ranges settles its job and goes on. -/
theorem vRun_done {hold : Bool} {f : State → VX → VRegs → List Byte → Job (VRegs × List Byte × Byte)} {regs : VRegs} {out : List Byte} {fl : Byte} {a : Acc}
    (h : s.vecAt c e r opc) (hhold : hold = true → (s.cl c).st.vec.saved = none)
    (hj : jobFrom (f s (s.vCtx c e r) (s.cl c).st.vec.regs (s.cl c).st.vec.cur.outBytes) (vecAcc c e) = (.ok (regs, out, fl), a))
    (hret : a.retained s = false) (hsrc : rangesMeet a.srcs (e.dsts ++ (s.besides c e).flatMap (·.dsts)) = [])
    (hdst : rangesMeet a.begun (e.srcs ++ a.srcs ++ (s.besides c e).flatMap fun o => o.srcs ++ o.dsts) = [])
    (hch : s.changed e = [] ∨ a.begun = []) :
    s.vRun c opc hold f = ((s.settle (storedNow e a)).addBegun c (storedNow e a).begun).vecTaken c e regs out fl a := by
  obtain ⟨hwb, hrun, hstop, hev, hnext, hact, hopc⟩ := h
  have hgo : ¬(r.stopped = true ∨ s.eventHeld c 4 = true ∨ vTotal e.wb ≤ e.next) := by simp [hstop, hev]; omega
  have hfit : ¬((!(s.cl c).st.vec.cur.active) = true ∨ vOpc (s.vCtx c e r).ins ≠ opc ∨ hold = true ∧ (s.cl c).st.vec.saved.isSome = true) := by
    have : ¬(hold = true ∧ (s.cl c).st.vec.saved.isSome = true) := fun ⟨k, hs⟩ => by simp [hhold k] at hs
    simp only [hact, hopc]
    tauto
  have hclash : rangesMeet (storedNow e a).begun (e.srcs ++ (storedNow e a).srcs ++ (s.besides c e).flatMap fun o => o.srcs ++ o.dsts) = [] := by
    unfold storedNow
    split
    · rfl
    · exact hdst
  have hquiet : ∀ t : State, (if (s.changed e).isEmpty = true then t else t.scrambleAll (storedNow e a).begun) = t := by
    intro t
    rcases hch with hch | hb
    · simp [hch]
    · have : (storedNow e a).begun = [] := by
        unfold storedNow
        split
        · rfl
        · exact hb
      rw [this]; split <;> rfl
  have hj' : ((f s (s.vCtx c e r) (s.cl c).st.vec.regs (s.cl c).st.vec.cur.outBytes).run).run { who := 4, home := some c, owner := some (e.part, e.seq) } =
      (.ok (regs, out, fl), a) := hj
  unfold State.vRun
  simp only [hwb, hrun, if_neg hgo, vBegin_active hact, if_neg hfit, hj', hsrc]
  rw [show s.scrambleAll [] = s from rfl]
  simp only [hj', waits, hret, Bool.or_self, Bool.false_eq_true, if_false]
  change State.updSt (State.updWb (if (s.changed e).isEmpty = true then State.clash _ _ _ _ else _) _ _ _ _) _ _ = _
  rw [show (if exactInPlace e.wb = true then { a with writes := [] } else a) = storedNow e a from rfl, clash_none hclash, hquiet]
  rfl

/-- A job that asked for nothing settles to the same state. -/
theorem settle_vecAcc (s : State) (c : Nat) (e : WbEntry) : s.settle (vecAcc c e) = s := by
  have hhub : s.tallyHub s (some (e.part, e.seq)) = s := by simp [State.tallyHub, State.tally]
  exact hhub

theorem storedNow_vecAcc (c : Nat) (e e' : WbEntry) : storedNow e (vecAcc c e') = vecAcc c e' := by unfold storedNow; split <;> rfl

/-- An instruction on registers alone is done. -/
theorem vRegOp_done (f : VX → VRegs → VRegs × Byte) (h : s.vecAt c e r opc) :
    VecDone s (s.vRegOp c opc f) c (f (s.vCtx c e r) (s.cl c).st.vec.regs) := by
  have hrun : s.vRegOp c opc f = s.vecTaken c e (f (s.vCtx c e r) (s.cl c).st.vec.regs).1 (s.cl c).st.vec.cur.outBytes
      (f (s.vCtx c e r) (s.cl c).st.vec.regs).2 (vecAcc c e) := by
    refine (vRun_done (a := vecAcc c e) h (fun k => absurd k (by decide)) rfl rfl rfl rfl (.inr rfl)).trans ?_
    rw [storedNow_vecAcc, settle_vecAcc]; rfl
  have hid : ∀ x : WbEntry, joinRanges e (vecAcc c e) x = x := by
    intro x; unfold joinRanges; rw [storedNow_vecAcc]; simp [vecAcc, Acc.begun]
  rw [hrun]
  refine ⟨?_, fun st => ?_, ?_⟩
  · exact onlyCluster_then_updCl (f := fun cl => { cl with st := { cl.st with vec := vecNext e _ _ _ (vecAcc c e) cl.st.vec } }) (onlyCluster_updWb ..)
  · rw [State.vecTaken, updVec_siding, updWb_siding_id _ _ _ _ hid]
  · simp [State.vecTaken, State.updVec, State.updWb, State.updSiding, State.updSt, vecNext, vecAcc]

/-- An instruction that reads or writes memory settles its job; registers and what the tile holds take its result. -/
theorem vRun_memory {hold : Bool} {f : State → VX → VRegs → List Byte → Job (VRegs × List Byte × Byte)} {regs : VRegs} {out : List Byte} {fl : Byte} {a : Acc}
    (h : s.vecAt c e r opc) (hhold : hold = true → (s.cl c).st.vec.saved = none)
    (hj : jobFrom (f s (s.vCtx c e r) (s.cl c).st.vec.regs (s.cl c).st.vec.cur.outBytes) (vecAcc c e) = (.ok (regs, out, fl), a))
    (hret : a.retained s = false) (hsrc : rangesMeet a.srcs (e.dsts ++ (s.besides c e).flatMap (·.dsts)) = [])
    (hdst : rangesMeet a.begun (e.srcs ++ a.srcs ++ (s.besides c e).flatMap fun o => o.srcs ++ o.dsts) = []) (hch : s.changed e = []) :
    let t := s.vRun c opc hold f
    t.mem = (s.settle (if exactInPlace e.wb then { a with writes := [] } else a)).mem ∧ (t.cl c).st.vec.regs = regs ∧
    (t.cl c).st.vec.cur = { (s.cl c).st.vec.cur with
      pc := (s.cl c).st.vec.cur.pc + 1, outBytes := out, flags := (s.cl c).st.vec.cur.flags ||| fl
      later := (s.cl c).st.vec.cur.later ++ if exactInPlace e.wb then a.writes.reverse.map fun w => (w.1.pa, w.1.bytes, w.2) else [] } := by
  rw [vRun_done h hhold hj hret hsrc hdst (.inl hch)]
  refine ⟨?_, ?_, ?_⟩
  · rw [State.vecTaken, updVec_mem, updWb_mem, addBegun_mem]; rfl
  · rw [State.vecTaken, updVec_vec]; rfl
  · rw [State.vecTaken, updVec_vec, updWb_vec, addBegun_st, calm_st (calm_settle s (storedNow e a) false)]; rfl

/-! ### The end of a strip (R191) -/

@[simp] theorem bumpFor_mem (s : State) (o : Nat × Nat) (idx sub n : Nat) : (s.bumpFor o idx sub n).mem = s.mem := by
  rw [State.bumpFor, tally_mem]; rfl

theorem calm_bumpFor (s : State) (o : Nat × Nat) (idx sub n : Nat) : Calm s (s.bumpFor o idx sub n) := calm_trans (calm_bump ..) (calm_tally ..)

theorem runningWb_eq (h : s.runningWb c st chan = some e) : s.headWb c st chan = some e ∧ e.phase = .running := by
  unfold State.runningWb at h
  simp only [Option.bind_eq_some_iff] at h
  obtain ⟨e', hh, he⟩ := h
  split at he
  · cases he; exact ⟨hh, ‹_›⟩
  · cases he

/-- An end of a strip that is not the last one: the next strip begins. -/
theorem execVEnd_strip (h : s.vecAt c e r 0) (hk : (srcOf e.wb).kind ≠ 2) (hrows : 32 * ((s.cl c).st.vec.cur.strip + 1) < wbRows e.wb) :
    execVEnd c s = .next ((s.bumpFor (e.part, e.seq) 0x7080 1 1).updVec c fun v => { v with
      cur := { v.cur with strip := v.cur.strip + 1, pc := bits (wbOp e.wb) 0 6 } }) := by
  obtain ⟨hwb, hrun, hstop, hev, hnext, hact, hopc⟩ := h
  have hgo : ¬(r.stopped = true ∨ s.eventHeld c 4 = true ∨ vTotal e.wb ≤ e.next) := by simp [hstop, hev]; omega
  have hfit : ¬((!(s.cl c).st.vec.cur.active) = true ∨ vOpc (s.vCtx c e r).ins ≠ 0) := by simp [hact, hopc]
  unfold execVEnd
  simp only [hwb, hrun, if_neg hgo, vBegin_active hact, if_neg hfit]
  rw [if_pos ⟨hk, hrows⟩]
  rfl

/-- What a tile has stored, as the end of the tile writes it. -/
def laterWrites (l : List (Nat × List Byte × Nat)) : List (Wr × Nat) := l.map fun w => ({ pa := w.1, bytes := w.2.1 }, w.2.2)

/-- The cluster once the last strip has ended: the tile counts, and its bytes are in memory or in the output siding. -/
def State.tileEnded (s t : State) (c : Nat) (e : WbEntry) (r : Run) : State :=
  let cur := (s.cl c).st.vec.cur
  let v := s.vCtx c e r
  let t := t.bumpFor (e.part, e.seq) 0x7080 1 1
  let t := if (dstOf e.wb).kind == 1 then
      t.updTileQ c 0x0B fun q => { q with entries := q.entries ++ [{ bytes := if cur.outBytes.isEmpty then vBlankOut v else cur.outBytes, row := v.c1, col := v.c2 }] }
    else t.tilesWritten c 1
  if (srcOf e.wb).kind = 1 then t.updTileQ c 0x08 fun q => { q with entries := q.entries.tail } else t

/-- A waybill whose tile has ended. -/
def wbTileEnded (cur : VCur) (x : WbEntry) : WbEntry := { x with
  next := x.next + 1, flags := x.flags ||| cur.flags, dsts := x.dsts ++ cur.later.map fun w => (w.1, w.2.1.length)
  phase := if vTotal x.wb ≤ x.next + 1 then .written else x.phase }

/-- An end of the last strip: the tile is done. -/
theorem execVEnd_tile (h : s.vecAt c e r 0) (hlast : (srcOf e.wb).kind = 2 ∨ wbRows e.wb ≤ 32 * ((s.cl c).st.vec.cur.strip + 1))
    (hsaved : (s.cl c).st.vec.saved = none) (hroom : (dstOf e.wb).kind = 1 → (s.tileQ c 0x0B).entries.length < 4)
    (hret : (s.cl c).st.vec.cur.later.any (fun w => s.retainedAt w.1 w.2.1.length none) = false)
    (hmeet : rangesMeet ((s.cl c).st.vec.cur.later.map fun w => (w.1, w.2.1.length)) (e.srcs ++ (s.besides c e).flatMap fun o => o.srcs ++ o.dsts) = []) :
    execVEnd c s = .next (((s.tileEnded ((s.storeBy c 4 e.part (laterWrites (s.cl c).st.vec.cur.later)).addBegun c
      ((s.cl c).st.vec.cur.later.map fun w => (w.1, w.2.1.length))) c e r).updVec c fun v => { v with cur := {} }).updWb c 4 0
        (wbTileEnded (s.cl c).st.vec.cur)) := by
  obtain ⟨hwb, hrun, hstop, hev, hnext, hact, hopc⟩ := h
  have hgo : ¬(r.stopped = true ∨ s.eventHeld c 4 = true ∨ vTotal e.wb ≤ e.next) := by simp [hstop, hev]; omega
  have hfit : ¬((!(s.cl c).st.vec.cur.active) = true ∨ vOpc (s.vCtx c e r).ins ≠ 0) := by simp [hact, hopc]
  have hend : ¬((srcOf e.wb).kind ≠ 2 ∧ 32 * ((s.cl c).st.vec.cur.strip + 1) < (s.vCtx c e r).rows) := by
    rw [show (s.vCtx c e r).rows = wbRows e.wb from rfl]; omega
  have hfree : ¬((s.cl c).st.vec.saved.isSome = true ∨ (s.cl c).st.vec.cur.later.any (fun w => s.retainedAt w.1 w.2.1.length none) = true ∨
      ((dstOf e.wb).kind == 1) = true ∧ tileDepth ≤ (s.tileQ c 0x0B).entries.length) := by
    simp only [hsaved, hret]
    have : tileDepth = 4 := rfl
    simp
    intro hk; have := hroom hk; omega
  unfold execVEnd
  simp only [hwb, hrun, if_neg hgo, vBegin_active hact, if_neg hfit]
  rw [if_neg hend, if_neg hfree, clash_none hmeet]
  rfl

end

theorem find?_mapFirst {α : Type} {p : α → Bool} {f : α → α} {l : List α} {x : α} (h : l.find? p = some x) (hf : p (f x) = true) :
    (mapFirst p f l).find? p = some (f x) := by
  induction l with
  | nil => simp at h
  | cons y l ih =>
    rw [List.find?_cons] at h
    unfold mapFirst
    cases hy : p y with
    | true => rw [hy] at h; cases h; simp [hf]
    | false => rw [hy] at h; simp [hy, ih h]

/-- The head waybill of the Vector Station as it stands after a change that keeps its descriptor. -/
theorem updWb_headWb {s : State} {c : Nat} {e : WbEntry} {f : WbEntry → WbEntry} (h : s.headWb c 4 0 = some e) : (s.updWb c 4 0 f).headWb c 4 0 = some (f e) := by
  rw [State.headWb, State.updWb, updSiding_siding_same]
  refine find?_mapFirst h ?_
  simp [WbEntry.ahead, WbEntry.onChan]

section
variable (s t : State) (c : Nat) (e : WbEntry) (r : Run)

theorem tileEnded_mem : (s.tileEnded t c e r).mem = t.mem := by
  unfold State.tileEnded
  extract_lets cur v t1 t2
  have h1 : t1.mem = t.mem := bumpFor_mem ..
  have h2 : t2.mem = t1.mem := by simp only [t2]; split <;> rfl
  rw [← h1, ← h2]
  split <;> rfl

theorem updTileQ_siding (q : Nat) (f : TileQ → TileQ) (k : Nat) : (s.updTileQ c q f).siding c k = s.siding c k := by
  simp [State.updTileQ, State.siding]

theorem tilesWritten_siding (n k : Nat) : (s.tilesWritten c n).siding c k = s.siding c k := by simp [State.tilesWritten, State.siding]

theorem tileEnded_siding (k : Nat) : (s.tileEnded t c e r).siding c k = t.siding c k := by
  unfold State.tileEnded
  extract_lets cur v t1 t2
  have h1 : t1.siding c k = t.siding c k := calm_siding (calm_bumpFor ..) c k
  have h2 : t2.siding c k = t1.siding c k := by
    simp only [t2]
    split
    · exact updTileQ_siding ..
    · exact tilesWritten_siding ..
  rw [← h1, ← h2]
  split
  · exact updTileQ_siding ..
  · rfl

end

/-- Settles O27: an instruction on registers leaves what its job's empty account leaves; one on memory settles its job's; and the end of a strip is either of two. -/
theorem vectorOthers : Obligations.VectorOthers := by
  unfold Obligations.VectorOthers
  intro s c e r
  refine ⟨?_, ?_, ?_, ?_, ?_, ?_, ?_, ?_, ?_, ?_, ?_, ?_, ?_, ?_⟩
  case refine_13 =>
    intro h hk hrows
    refine ⟨_, execVEnd_strip h hk hrows, ?_, ?_, ?_⟩
    · rw [updVec_mem, bumpFor_mem]
    · rw [updVec_vec, calm_st (calm_bumpFor ..)]
    · rw [updVec_vec, calm_st (calm_bumpFor ..)]
  case refine_14 =>
    intro h hlast hsaved hroom later hret hmeet
    obtain ⟨hhead, hphase⟩ := runningWb_eq h.1
    refine ⟨_, execVEnd_tile h hlast hsaved hroom hret hmeet, ?_, ?_, wbTileEnded (s.cl c).st.vec.cur e, ?_, rfl, rfl, ?_⟩
    · rw [updWb_mem, updVec_mem, tileEnded_mem, addBegun_mem, storeBy_mem, laterWrites, List.foldl_map]
    · rw [updWb_vec, updVec_vec]
    · refine updWb_headWb ?_
      rw [State.headWb, updVec_siding, tileEnded_siding, State.siding, addBegun_st, calm_st (calm_storeBy ..)]
      exact hhead
    · rw [← hphase]; rfl
  case refine_10 => exact fun h _ _ _ _ hj hret hsrc hdst hch => ⟨_, rfl, vRun_memory h (fun k => absurd k (by decide)) hj hret hsrc hdst hch⟩
  case refine_11 => exact fun h _ _ _ _ hj hret hsrc hdst hch => ⟨_, rfl, vRun_memory h (fun k => absurd k (by decide)) hj hret hsrc hdst hch⟩
  case refine_12 => exact fun hsaved h _ _ _ _ hj hret hsrc hdst hch => ⟨_, rfl, vRun_memory h (fun _ => hsaved) hj hret hsrc hdst hch⟩
  all_goals exact fun h => ⟨_, rfl, vRegOp_done _ h⟩

end Sys2Proof.Machine
end

section
/-! SUPPORT. The verdict on a drained tile (R64, R125 to R127, R153): no work of a pass advances the counter of failed verdicts, what a drain, a failed verdict
and an entry's arrival leave, and the statement about them. -/

namespace Sys2Proof.Machine

/-! ### The counter of failed verdicts -/

/-- The verdicts that have failed a first time (0x5040.01). -/
def State.failedOnce (s : State) : Nat := s.obj 0x5040 1

theorem setObj_failedOnce (s : State) {i j : Nat} (n : Nat) (h : objKey 0x5040 1 ≠ objKey i j) : (s.setObj i j n).failedOnce = s.failedOnce :=
  setObj_obj_ne _ _ _ _ _ _ h

theorem bump_failedOnce (s : State) {i j : Nat} (n : Nat) (h : objKey 0x5040 1 ≠ objKey i j) : (s.bump i j n).failedOnce = s.failedOnce :=
  setObj_failedOnce _ _ h

@[simp] theorem updCl_failedOnce (s : State) (c : Nat) (f : Cluster → Cluster) : (s.updCl c f).failedOnce = s.failedOnce := rfl

theorem resolveWord_failedOnce (s : State) (w : Nat) : (s.resolveWord w).failedOnce = s.failedOnce := by
  unfold State.resolveWord
  split
  · rfl
  · exact bump_failedOnce _ _ (by decide)
  · split <;> exact bump_failedOnce _ _ (by decide)
  · split
    · exact bump_failedOnce _ _ (by decide)
    · split
      · rw [updCl_failedOnce, setObj_failedOnce _ _ (by decide), setObj_failedOnce _ _ (by decide)]
        exact bump_failedOnce _ _ (by decide)
      · rfl
    · rfl

theorem coalOut_failedOnce (s : State) (c : Nat) (gone : Coal → Bool) : (s.coalOut c gone).failedOnce = s.failedOnce := by
  unfold State.coalOut
  exact foldl_same (P := State.failedOnce) (f := fun s w => { s.resolveWord w with upset := Tab.put (s.resolveWord w).upset 0 w 0 })
    (fun s w => resolveWord_failedOnce s w) _ _

theorem lineAccess_failedOnce (s : State) (pa : Nat) (wr whole : Bool) (hc : Nat) : (s.lineAccess pa wr whole hc).failedOnce = s.failedOnce := by
  unfold State.lineAccess
  extract_lets h cxl latch drained hc' key r t
  have ht : t.failedOnce = s.failedOnce := rfl
  split
  · exact (bump_failedOnce _ _ (by decide)).trans ht
  · split
    · exact ht
    · exact (bump_failedOnce _ _ (by decide)).trans ht

theorem hubTouch_failedOnce (s : State) (pa n : Nat) (wr : Bool) (hc : Nat) : (s.hubTouch pa n wr hc).failedOnce = s.failedOnce := by
  have hlines := fun (s : State) => foldl_same (P := State.failedOnce) (f := fun s i =>
    s.lineAccess ((pa / 256 + i) * 256) wr (decide (pa ≤ (pa / 256 + i) * 256) && decide ((pa / 256 + i) * 256 + 256 ≤ pa + n)) hc)
    (fun s i => lineAccess_failedOnce ..) (List.range ((pa + n - 1) / 256 - pa / 256 + 1)) s
  unfold State.hubTouch
  split
  · split
    · rfl
    · exact hlines s
  · split
    · rfl
    · exact hlines s
  · rfl

theorem touch_failedOnce (s : State) (pa n hc : Nat) : (s.touch pa n hc).failedOnce = s.failedOnce := by
  have hwords := fun ws (s : State) => resolveWords_same (P := State.failedOnce) resolveWord_failedOnce ws s
  unfold State.touch
  split
  · rfl
  · dsimp only
    split
    · rw [hwords]
      split
      · exact coalOut_failedOnce ..
      · rfl
    · rw [hubTouch_failedOnce, apply_ite State.failedOnce, bump_failedOnce _ _ (by decide), ite_self]
      exact hwords _ _

theorem walked_failedOnce (s : State) (w : Walk) : (s.walked w).failedOnce = s.failedOnce := by
  have htouch := fun l s => foldl_same (P := State.failedOnce) (f := fun (s : State) a => s.touch a 8) (fun s a => touch_failedOnce _ _ _ _) l s
  have hbump := fun l s => (bump_failedOnce (List.foldl (fun (s : State) a => s.touch a 8) s l) (i := 0x70B0) (j := 1) 1 (by decide)).trans (htouch l s)
  unfold State.walked
  dsimp only
  split
  · exact hbump _ _
  · exact hbump _ _

theorem sweepWatches_failedOnce (s : State) (c : Nat) : (s.sweepWatches c).failedOnce = s.failedOnce := by
  unfold State.sweepWatches
  exact foldl_same (P := State.failedOnce) (f := fun s r => s.unfilter c r) (fun _ _ => rfl) _ _

theorem unwatch_failedOnce (s : State) (pa n : Nat) : (s.unwatch pa n).failedOnce = s.failedOnce := by
  unfold State.unwatch
  split
  · split
    · rfl
    · exact sweepWatches_failedOnce ..
  · rfl

theorem tally_failedOnce (s : State) (p q : Nat) (bs : List (Nat × Nat × Nat)) : (s.tally p q bs).failedOnce = s.failedOnce := by
  unfold State.tally; split <;> rfl

theorem tallyHub_failedOnce (t s : State) (o : Option (Nat × Nat)) : (t.tallyHub s o).failedOnce = t.failedOnce := by
  unfold State.tallyHub
  split
  · rfl
  · exact tally_failedOnce ..

theorem storeBy_nil_failedOnce (s : State) (c who part : Nat) : (s.storeBy c who part []).failedOnce = s.failedOnce := by
  unfold State.storeBy State.awaitAcks
  exact foldl_same (P := State.failedOnce) (by intros; rfl) _ _

/-- What a job has counted does not name the counter of failed verdicts. -/
def Acc.spares (a : Acc) : Prop := ∀ b ∈ a.bumps, objKey 0x5040 1 ≠ objKey b.1 b.2.1

/-- A job that failed up to where it stands, and that does not count failed verdicts, settles without one. -/
theorem settle_upToFailure_failedOnce (s : State) {a : Acc} (h : a.spares) : (s.settle a.upToFailure).failedOnce = s.failedOnce := by
  unfold State.settle
  extract_lets s0 s1 s2 s3 s4 s5 s6 s7 s8 s9
  have h1 : s1.failedOnce = s.failedOnce := foldl_same (P := State.failedOnce) (f := State.walked) walked_failedOnce _ _
  have h2 : s2.failedOnce = s1.failedOnce := foldl_same (P := State.failedOnce) (fun _ _ => touch_failedOnce ..) _ _
  have h3 : s3.failedOnce = s2.failedOnce := by
    have hg := fun c => foldl_same (P := State.failedOnce) (f := fun (s : State) q => s.granted c q) (fun s q => by unfold State.granted; split <;> rfl)
      (a.upToFailure.grants c) s2
    change (match a.home with | some c => _ | none => _ : State).failedOnce = s2.failedOnce
    split
    · exact hg _
    · rfl
  have h4 : s4.failedOnce = s3.failedOnce := foldl_same (P := State.failedOnce) (fun _ _ => unwatch_failedOnce ..) _ _
  have h5 : s5.failedOnce = s4.failedOnce := by
    change (match a.home with | some c => _ | none => _ : State).failedOnce = _
    split
    · exact storeBy_nil_failedOnce ..
    · rfl
  have h7 : s7.failedOnce = s6.failedOnce :=
    List.foldlRecOn (motive := fun t => t.failedOnce = s6.failedOnce) _ _ rfl fun t ht b hb => (bump_failedOnce t b.2.2 (h b hb)).trans ht
  have h8 : s8.failedOnce = s7.failedOnce := by
    change (match a.owner with | some o => _ | none => _ : State).failedOnce = s7.failedOnce
    split
    · exact tally_failedOnce ..
    · rfl
  have h9 : s9.failedOnce = s8.failedOnce := tallyHub_failedOnce ..
  change s9.failedOnce = s.failedOnce
  rw [h9, h8, h7, show s6.failedOnce = s5.failedOnce from rfl, h5, h4, h3, h2, h1]

/-! ### A pass counts no verdict (R113, R114, R125) -/

/-- A job that leaves the counter of failed verdicts out of what it counts. -/
structure Job.Spares (j : Job α) : Prop where
  spares : ∀ a : Acc, a.spares → (jobFrom j a).2.spares

namespace Job.Spares

theorem pure (x : α) : Job.Spares (Pure.pure x : Job α) := ⟨fun _ h => h⟩
theorem fail (e : Byte) : Job.Spares (Job.fail e : Job α) := ⟨fun _ h => h⟩

theorem require (b : Bool) (e : Byte) : Job.Spares (Job.require b e) := ⟨fun a h => by rw [jobFrom_require]; exact h⟩
theorem lift (x : Except Byte α) : Job.Spares (Job.lift x) := ⟨fun a h => by rw [jobFrom_lift]; exact h⟩
theorem note {f : Acc → Acc} (hf : ∀ a, (f a).bumps = a.bumps) : Job.Spares (Job.note f) := ⟨fun a h b hb => h b (by rw [← hf a]; exact hb)⟩
theorem flag (f : Byte) : Job.Spares (Job.flag f) := note fun _ => rfl

theorem count {i j : Nat} (n : Nat) (hk : objKey 0x5040 1 ≠ objKey i j) : Job.Spares (Job.count i j n) := by
  refine ⟨fun a h b hb => ?_⟩
  rcases List.mem_append.1 (show b ∈ a.bumps ++ [(i, j, n)] from hb) with hb | hb
  · exact h b hb
  · rw [List.mem_singleton.1 hb]; exact hk

theorem bind {j : Job α} {f : α → Job β} (hj : Job.Spares j) (hf : ∀ x, Job.Spares (f x)) : Job.Spares (j >>= f) := by
  refine ⟨fun a h => ?_⟩
  have hja := hj.spares a h
  rw [jobFrom_bind]
  generalize jobFrom j a = o at hja ⊢
  obtain ⟨x | x, b⟩ := o
  · exact hja
  · exact (hf x).spares b hja

theorem map {f : α → Job β} (hf : ∀ x, Job.Spares (f x)) (l : List α) : Job.Spares (Job.map f l) := by
  induction l with
  | nil => exact pure _
  | cons x l ih => exact bind (hf x) fun y => bind ih fun ys => pure _

theorem fold {f : β → α → Job β} (hf : ∀ b x, Job.Spares (f b x)) (l : List α) : ∀ b, Job.Spares (Job.fold f b l) := by
  induction l with
  | nil => exact fun _ => pure _
  | cons x l ih => exact fun b => bind (hf b x) fun b' => ih b'

theorem xl (s : State) (x : XCtx) (wr : Bool) (va n : Nat) : Job.Spares (Job.xl s x wr va n) := bind (note fun _ => rfl) fun _ => lift _

theorem asSource {j : Job α} (hj : Job.Spares j) : Job.Spares j.asSource := by
  unfold Job.asSource
  exact bind ⟨fun _ h => h⟩ fun _ => bind hj fun _ => bind (note fun _ => rfl) fun _ => pure _

end Job.Spares

section
variable (s : State) (x : XCtx)

theorem consume_spares (g : Got) (base : Nat) (eats : Nat → Nat → Bool) : (consume g base eats).Spares := by
  unfold consume
  dsimp only
  split
  · exact .fail _
  · exact .require _ _

theorem demandRead_spares (va n : Nat) (note : Bool) : (demandRead s x va n note).Spares := by
  unfold demandRead
  refine .bind (.xl ..) fun ps => ?_
  cases note
  · exact .bind (consume_spares ..) fun _ => .pure _
  · exact .bind (.note fun _ => rfl) fun _ => .bind (consume_spares ..) fun _ => .pure _

theorem ownerHeader_spares (ptr : Nat) (note : Bool) : (ownerHeader s x ptr note).Spares := by
  unfold ownerHeader
  exact .bind (demandRead_spares ..) fun _ => .bind (.require ..) fun _ => .bind (.require ..) fun _ => .pure _

theorem ownerOf_spares (ptr : Nat) (off : Int) (m : Nat) : (ownerOf s x ptr off m).Spares := by
  unfold ownerOf
  exact .bind (ownerHeader_spares ..) fun _ => .bind (.require ..) fun _ => .bind (.require ..) fun _ => .bind (demandRead_spares ..) fun _ =>
    .bind (.require ..) fun _ => .pure _

theorem placeAt_spares (a : Int) (m : Nat) : (placeAt a m).Spares := by
  unfold placeAt
  split
  · exact .fail _
  · exact .pure _

theorem ownedLoc_spares (o : Owned) (wr : Bool) (m held : Nat) : (o.loc s x wr m held).Spares := by
  unfold Owned.loc
  split
  · exact .pure _
  · split
    · exact .pure _
    · split
      · exact .bind (.xl ..) fun _ => .bind (.require ..) fun _ => placeAt_spares ..
      · exact placeAt_spares ..

theorem locOf_spares (t : Strm) (i j m held : Nat) : (locOf s x t i j m held).Spares := by
  unfold locOf
  split
  · exact .bind (ownerOf_spares ..) fun _ => ownedLoc_spares ..
  · exact placeAt_spares ..

theorem rdPages_spares (ok : Nat → Bool) (need : Need) (va off fuel : Nat) : ∀ done n, (rdPages s x ok need va off fuel done n).Spares := by
  induction fuel with
  | zero => exact fun _ _ => .pure _
  | succ fuel ih =>
    intro done n
    unfold rdPages
    split
    · exact .pure _
    · refine .bind (.note fun _ => rfl) fun _ => ?_
      split
      · exact .bind (.note fun _ => rfl) fun _ => .bind (ih ..) fun _ => .pure _
      · exact .bind (.require ..) fun _ => .bind (ih ..) fun _ => .pure _

theorem rdOwnAll_spares (c va n : Nat) : (rdOwnAll s x c va n).Spares := by
  unfold rdOwnAll
  exact .bind (rdPages_spares ..) fun _ => .bind (consume_spares ..) fun _ => .pure _

theorem parseTile_spares (c va fmt : Nat) (ok : Hdr → Bool) (live : Nat → Bool) : (parseTile (rdOwn s x c va) fmt ok live).Spares := by
  unfold parseTile
  exact .bind (rdPages_spares ..) fun _ => .bind (consume_spares ..) fun _ => .bind (.require ..) fun _ => .bind (rdPages_spares ..) fun _ =>
    .bind (rdPages_spares ..) fun _ => .bind (consume_spares ..) fun _ => .lift _

theorem parseBare_spares (c va fmt rows cols : Nat) (kd : Bool) (live : Nat → Bool) : (parseBare (rdOwn s x c va) fmt rows cols kd live).Spares := by
  unfold parseBare
  exact .bind (rdPages_spares ..) fun _ => .bind (consume_spares ..) fun _ => .pure _

theorem ownTile_spares (c : Nat) (va : Int) (hdr : Bool) (fmt rows cols : Nat) (kd : Bool) (ok : Hdr → Bool) :
    (ownTile s x c va hdr fmt rows cols kd ok).Spares := by
  unfold ownTile
  refine .bind (.require ..) fun _ => ?_
  split
  · exact parseTile_spares ..
  · exact parseBare_spares ..

variable (c : Nat) (p : Pass)

theorem passA_spares (k m : Nat) : (passA s x c p k m).Spares := by
  unfold passA
  refine .bind (locOf_spares ..) fun loc => ?_
  cases loc with
  | here va => exact ownTile_spares ..
  | absent => exact .bind (.require ..) fun _ => .pure _
  | far => exact .fail _

theorem sparseW_spares (k n : Nat) : (sparseW s x c p k n).Spares := by
  unfold sparseW
  refine .bind (.require ..) fun _ => .bind (rdOwnAll_spares ..) fun _ => ?_
  dsimp only
  split
  · exact .bind (ownTile_spares ..) fun _ => .pure _
  · exact ownTile_spares ..

theorem passB_spares (k n : Nat) : (passB s x c p k n).Spares := by
  unfold passB
  dsimp only
  split
  · exact .bind (sparseW_spares ..) fun _ => .bind (.require ..) fun _ => .pure _
  · exact .bind (ownTile_spares ..) fun _ => .bind (.require ..) fun _ => .pure _

theorem passPreload_spares (q : Nat) : (passPreload s x c p q).Spares := by
  unfold passPreload
  dsimp only
  split
  · exact .bind (.require ..) fun _ => .bind (rdOwnAll_spares ..) fun _ => .pure _
  · exact .pure _

theorem passAt_spares (i j : Nat) : (passAt i j).Spares := .note fun _ => rfl

theorem passPair_spares (e : WbEntry) (m k : Nat) (dir : Bool) (a : Tile) (raw : Nat → Array Nat) (n : Nat) (d : Option DrainTile) :
    (passPair s x c p e m k dir a raw n d).Spares := by
  unfold passPair
  exact .bind (.asSource (passB_spares ..)) fun _ => .bind (.require ..) fun _ => .bind (.flag _) fun _ => .pure _

theorem matrixGroup_spares (e : WbEntry) (m : Nat) (ns : List Nat) (raw : Nat → Array Nat) : (matrixGroup s x c p e m ns raw).Spares := by
  unfold matrixGroup
  exact .bind (.fold (fun _ _ => .bind (passAt_spares ..) fun _ => .bind (.asSource (passA_spares ..)) fun _ =>
    .map (fun _ => .bind (passPair_spares ..) fun _ => .pure _) _) _ _) fun _ => .pure _

theorem sparseGroup_spares (e : WbEntry) (m : Nat) (ns : List Nat) (raw : Nat → Array Nat) : (sparseGroup s x c p e m ns raw).Spares := by
  unfold sparseGroup
  exact .bind (.map (fun _ => .bind (.map (fun _ => .bind (passAt_spares ..) fun _ => .asSource (passA_spares ..)) _) fun _ =>
    .bind (.count _ (by decide)) fun _ => .bind (.count _ (by decide)) fun _ =>
      .fold (fun _ _ => .bind (passAt_spares ..) fun _ => .bind (passPair_spares ..) fun _ => .pure _) _ _) _) fun _ => .pure _

/-- A pass counts no failed verdict. -/
theorem passGroup_spares (e : WbEntry) (m : Nat) (ns : List Nat) : (passGroup s x c p e m ns).Spares := by
  unfold passGroup
  refine .bind (.map (fun _ => .bind (passAt_spares ..) fun _ => passPreload_spares ..) _) fun _ => ?_
  dsimp only
  split
  · exact sparseGroup_spares ..
  · exact matrixGroup_spares ..

end

/-! ### A drain that fills no siding gives no entry (R110, R124) -/

/-- A job that gives no value where it succeeds. -/
structure Job.Empty (j : Job (Option α)) : Prop where
  none : ∀ a x, (jobFrom j a).1 = .ok x → x = none

namespace Job.Empty

theorem pure : Job.Empty (Pure.pure Option.none : Job (Option α)) := ⟨fun _ _ h => by cases h; rfl⟩

theorem bind {j : Job β} {f : β → Job (Option α)} (hf : ∀ y, Job.Empty (f y)) : Job.Empty (j >>= f) := by
  refine ⟨fun a x h => ?_⟩
  rw [jobFrom_bind] at h
  generalize jobFrom j a = o at h
  obtain ⟨e | y, b⟩ := o
  · cases h
  · exact (hf y).none b x h

end Job.Empty

section
variable (s : State) (x : XCtx) (c : Nat) (e : WbEntry) (p : Pass) (d : DrainTile)

theorem drainFinal_empty (h : p.dst.kind ≠ 1) : (drainFinal s x c e p d).Empty := by
  unfold drainFinal
  refine .bind fun cs => .bind fun bias => ?_
  extract_lets area fmt hdr done withBits
  have hdone : ∀ u, (done u).Empty := fun _ => .pure
  have hbits : ∀ sb, (withBits sb).Empty := by
    intro sb
    unfold withBits
    refine .bind fun _ => ?_
    extract_lets obj store
    have hstore : ∀ u, (store u).Empty := by
      intro u
      unfold store
      rw [if_neg h]
      refine .bind fun loc => ?_
      cases loc with
      | here va => exact .bind hdone
      | absent => exact hdone ()
      | far => exact .bind hdone
    split
    · exact .bind hstore
    · exact hstore ()
  split
  · exact .bind hbits
  · exact .bind hbits

theorem drainTile_empty (h : ¬((p.mode = 0 ∨ p.mode = 3) ∧ p.dst.kind = 1)) : (drainTile s x c e p d).Empty := by
  unfold drainTile
  refine .bind fun _ => ?_
  split
  · exact drainFinal_empty _ _ _ _ _ _ fun hk => h ⟨‹_›, hk⟩
  · exact .bind fun _ => .bind fun _ => .pure

end

/-! ### The drain's slots and its waybill -/

section
variable (s : State) (c st : Nat)

theorem setSlots_slots (ds : List DrainTile) : (s.setSlots c st ds).slots c st = ds := by
  unfold State.setSlots State.slots
  by_cases h : st = 2 <;> simp [h]

theorem setSlots_siding (ds : List DrainTile) (k : Nat) : (s.setSlots c st ds).siding c k = s.siding c k := by
  unfold State.setSlots State.siding
  by_cases h : st = 2 <;> simp [h]

theorem setSlots_tileQ (ds : List DrainTile) (q : Nat) : (s.setSlots c st ds).tileQ c q = s.tileQ c q := by
  unfold State.setSlots State.tileQ
  by_cases h : st = 2 <;> simp [h]

theorem updDrainWb_slots (f : WbEntry → WbEntry) : (s.updDrainWb c st f).slots c st = s.slots c st := by
  simp [State.updDrainWb, State.updSiding, State.slots]

theorem updDrainWb_tileQ (f : WbEntry → WbEntry) (q : Nat) : (s.updDrainWb c st f).tileQ c q = s.tileQ c q := by
  simp [State.updDrainWb, State.updSiding, State.tileQ]

theorem slots_congr {s t : State} (h : (t.cl c).st = (s.cl c).st) : t.slots c st = s.slots c st := by simp only [State.slots, h]

theorem tileQ_congr {s t : State} (h : (t.cl c).st = (s.cl c).st) (q : Nat) : t.tileQ c q = s.tileQ c q := by simp only [State.tileQ, h]

theorem siding_congr {s t : State} (h : (t.cl c).st = (s.cl c).st) (k : Nat) : t.siding c k = s.siding c k := by simp only [State.siding, h]

/-- The oldest tile leaves the drain. -/
theorem slotFreed_slots (f : WbEntry → WbEntry) : (s.slotFreed c st f).slots c st = (s.slots c st).tail := by
  rw [State.slotFreed, updDrainWb_slots, setSlots_slots]

theorem slotFreed_tileQ (f : WbEntry → WbEntry) (q : Nat) : (s.slotFreed c st f).tileQ c q = s.tileQ c q := by
  rw [State.slotFreed, updDrainWb_tileQ, setSlots_tileQ]

/-- The waybill in the drain takes what its tile leaves. -/
theorem slotFreed_mem_siding {e : WbEntry} (f : WbEntry → WbEntry) (h : s.drainWb c st = some e) :
    { f e with inDrain := e.inDrain - 1 } ∈ (s.slotFreed c st f).siding c st := by
  rw [State.slotFreed, State.updDrainWb, updSiding_siding_same, setSlots_siding]
  exact mem_mapFirst (f := fun e => { f e with inDrain := e.inDrain - 1 }) h

theorem slotFreed_mem (f : WbEntry → WbEntry) : (s.slotFreed c st f).mem = s.mem := rfl
theorem slotFreed_pt (f : WbEntry → WbEntry) (p : Nat) : (s.slotFreed c st f).pt p = s.pt p := rfl

/-- What a station's own writes leave of what a waybill's operands held. -/
def State.reheld (ws : List (Nat × Nat)) (e : WbEntry) : WbEntry := { e with
  held := e.held.map fun h => if (rangesMeet [(h.1, h.2.length)] ws).isEmpty then h else (h.1, s.hubRead h.1 h.2.length) }

theorem rehold_siding (ws : List (Nat × Nat)) : (s.rehold c st ws).siding c st = (s.siding c st).map (s.reheld ws) := updSiding_siding_same ..

theorem rehold_slots (ws : List (Nat × Nat)) : (s.rehold c st ws).slots c st = s.slots c st := by
  simp [State.rehold, State.updSiding, State.slots]

theorem rehold_tileQ (ws : List (Nat × Nat)) (q : Nat) : (s.rehold c st ws).tileQ c q = s.tileQ c q := by
  simp [State.rehold, State.updSiding, State.tileQ]

theorem rehold_drainWb {e : WbEntry} (ws : List (Nat × Nat)) (h : s.drainWb c st = some e) : (s.rehold c st ws).drainWb c st = some (s.reheld ws e) := by
  rw [State.drainWb, rehold_siding, List.find?_map]
  exact congrArg (Option.map _) h

end

/-! ### A tile that drains (R121 to R124) -/

theorem addBegun_parts (s : State) (c : Nat) (rs : List (Nat × Nat)) : (s.addBegun c rs).parts = s.parts := by unfold State.addBegun; split <;> rfl

/-- A tile's drain as its bytes are written: they are what the run has begun, and partial sums are remembered with their kind. -/
def State.drainWritten (s : State) (c : Nat) (p : Pass) (d : DrainTile) (a : Acc) : State :=
  let t := (s.settle a).addBegun c a.begun
  let t := if d.undef then t.drawn else t
  if p.mode = 1 ∨ p.mode = 2 then t.sumsWritten c d.kind a.begun else t

/-- A tile's drain done but for its place in the drain. -/
def State.drained (s : State) (c st : Nat) (p : Pass) (d : DrainTile) (a : Acc) : State :=
  ((s.drainWritten c p d a).rehold c st a.begun).tilesWritten c 1

section
variable (s : State) (c st : Nat) (p : Pass) (d : DrainTile) (a : Acc)

/-- What does not see the free count, what a run has begun and the partial sums is as the settled job leaves it. -/
theorem drainWritten_same {β : Type} {P : State → β} (hbegun : ∀ s rs, P (State.addBegun s c rs) = P s) (hdrawn : ∀ s, P (State.drawn s) = P s)
    (hsums : ∀ s k ws, P (State.sumsWritten s c k ws) = P s) : P (s.drainWritten c p d a) = P (s.settle a) := by
  unfold State.drainWritten
  extract_lets t t'
  have ht : P t' = P (s.settle a) := by
    have hb : P t = P (s.settle a) := hbegun ..
    simp only [t']
    split
    · exact (hdrawn t).trans hb
    · exact hb
  split
  · exact (hsums ..).trans ht
  · exact ht

theorem drained_mem : (s.drained c st p d a).mem = (s.settle a).mem :=
  drainWritten_same s c p d a (P := State.mem) (fun _ _ => addBegun_mem ..) (fun _ => rfl) (fun _ _ _ => rfl)

theorem drained_parts : (s.drained c st p d a).parts = (s.settle a).parts :=
  drainWritten_same s c p d a (P := State.parts) (fun _ _ => addBegun_parts ..) (fun _ => rfl) (fun _ _ _ => rfl)

theorem drainWritten_st : ((s.drainWritten c p d a).cl c).st = (s.cl c).st :=
  (drainWritten_same s c p d a (P := fun s => (s.cl c).st) (fun _ _ => addBegun_st ..) (fun _ => rfl) (fun _ _ _ => by simp [State.sumsWritten])).trans
    (calm_st (calm_settle s a false) c)

theorem tilesWritten_st (n : Nat) : ((s.tilesWritten c n).cl c).st = (s.cl c).st := by simp [State.tilesWritten]

theorem drained_slots : (s.drained c st p d a).slots c st = s.slots c st := by
  rw [State.drained, slots_congr c st (tilesWritten_st ..), rehold_slots, slots_congr c st (drainWritten_st ..)]

theorem drained_tileQ (q : Nat) : (s.drained c st p d a).tileQ c q = s.tileQ c q := by
  rw [State.drained, tileQ_congr c (tilesWritten_st ..), rehold_tileQ, tileQ_congr c (drainWritten_st ..)]

theorem drained_drainWb {e : WbEntry} (h : s.drainWb c st = some e) :
    ∃ e', (s.drained c st p d a).drainWb c st = some e' ∧ e'.wb = e.wb ∧ e'.flags = e.flags ∧ e'.inDrain = e.inDrain := by
  have hhere : (s.drainWritten c p d a).drainWb c st = some e := by rw [State.drainWb, siding_congr c (drainWritten_st ..)]; exact h
  refine ⟨(s.drainWritten c p d a).reheld a.begun e, ?_, rfl, rfl, rfl⟩
  rw [State.drained, State.drainWb, tilesWritten_siding]
  exact rehold_drainWb _ _ _ _ hhere

end

/-- An entry, if there is one, enters the drain siding. -/
def State.entered (s : State) (c : Nat) : Option TileEntry → State
  | none => s
  | some k => s.updTileQ c 0x08 fun q => { q with entries := q.entries ++ [k] }

section
variable (s : State) (c st : Nat) (k : Option TileEntry)

theorem entered_mem : (s.entered c k).mem = s.mem := by cases k <;> rfl
theorem entered_parts : (s.entered c k).parts = s.parts := by cases k <;> rfl

theorem entered_slots : (s.entered c k).slots c st = s.slots c st := by
  cases k with
  | none => rfl
  | some k => simp [State.entered, State.updTileQ, State.slots]

theorem entered_drainWb : (s.entered c k).drainWb c st = s.drainWb c st := by
  cases k with
  | none => rfl
  | some k => rw [State.drainWb, State.entered, updTileQ_siding]; rfl

theorem entered_entries : ((s.entered c k).tileQ c 0x08).entries = (s.tileQ c 0x08).entries ++ k.toList := by
  cases k with
  | none => simp [State.entered]
  | some k => rw [State.entered, updTileQ_same]; rfl

end

section
variable {s : State} {c st : Nat} {x : XCtx} {e : WbEntry} {p : Pass} {d : DrainTile} {a : Acc}

/-- A drain that succeeds and meets nobody's ranges, with no coupled siding to enter: the tile leaves the drain, and an entry has entered the drain siding. -/
theorem drainOut_done {entry : Option (List Byte)} (hcut : entry ≠ none → (s.tileQ c 0x08).st.cutAt = 0)
    (hj : jobFrom (drainTile s x c e p (s.drainView c st x e p d)) { who := st, home := some c, owner := some (e.part, e.seq) } = (.ok entry, a))
    (hret : a.retained s = false) (hmeet : rangesMeet a.begun (e.srcs ++ (s.besides c e).flatMap fun o => o.srcs ++ o.dsts) = []) (ok : Bool) :
    ∃ (f : WbEntry → WbEntry) (k : Option TileEntry), s.drainOut c st x e p d ok =
      ((s.drained c st p (s.drainView c st x e p d) a).entered c k).slotFreed c st f ∧
      k.map (·.bytes) = entry ∧ ∀ y, (f y).wb = y.wb ∧ (f y).flags = y.flags ||| a.flags := by
  have hj' : ((drainTile s x c e p (s.drainView c st x e p d)).run).run { who := st, home := some c, owner := some (e.part, e.seq) } = (.ok entry, a) := hj
  unfold State.drainOut
  simp only [hj', waits, hret, Bool.or_self, Bool.false_eq_true, if_false, clash_none hmeet]
  cases entry with
  | none => exact ⟨_, none, rfl, rfl, fun y => ⟨rfl, rfl⟩⟩
  | some b =>
    simp only [hcut nofun, if_true]
    exact ⟨_, some _, rfl, rfl, fun y => ⟨rfl, rfl⟩⟩

end

section
variable {s : State} {c st : Nat} {x : XCtx} {e : WbEntry} {p : Pass} {d : DrainTile} {a : Acc}

/-- The tile of a pass goes to the drain siding. -/
def Pass.toSiding (p : Pass) : Prop := (p.mode = 0 ∨ p.mode = 3) ∧ p.dst.kind = 1

/-- A tile that has passed drains: its bytes are written, it leaves the drain, its entry joins the siding and its flags its waybill's. -/
theorem drainOut_passed {entry : Option (List Byte)} (hwb : s.drainWb c st = some e) (hcut : p.toSiding → (s.tileQ c 0x08).st.cutAt = 0)
    (hj : jobFrom (drainTile s x c e p (s.drainView c st x e p d)) { who := st, home := some c, owner := some (e.part, e.seq) } = (.ok entry, a))
    (hret : a.retained s = false) (hmeet : rangesMeet a.begun (e.srcs ++ (s.besides c e).flatMap fun o => o.srcs ++ o.dsts) = []) (ok : Bool) :
    let t := s.drainOut c st x e p d ok
    t.mem = a.writes.reverse.foldl (fun m w => m.writeN w.1.pa w.1.bytes) s.mem ∧ t.slots c st = (s.slots c st).tail ∧ SameParts s t ∧
    ((t.tileQ c 0x08).entries.map (·.bytes)) = (s.tileQ c 0x08).entries.map (·.bytes) ++ entry.toList ∧
    ∃ e' ∈ t.siding c st, e'.wb = e.wb ∧ e'.flags = e.flags ||| a.flags ∧ e'.inDrain = e.inDrain - 1 := by
  have hwhole : entry ≠ none → (s.tileQ c 0x08).st.cutAt = 0 := by
    intro hsome
    by_cases hk : p.toSiding
    · exact hcut hk
    · exact absurd ((drainTile_empty s x c e p _ hk).none _ entry (by rw [hj])) hsome
  obtain ⟨f, k, heq, hbytes, hf⟩ := drainOut_done hwhole hj hret hmeet ok
  obtain ⟨e', hwb', hdesc, hflags, hdrain⟩ := drained_drainWb s c st p (s.drainView c st x e p d) a hwb
  rw [heq]
  refine ⟨?_, ?_, ?_, ?_, { f e' with inDrain := e'.inDrain - 1 }, slotFreed_mem_siding _ _ _ f ?_, ?_, ?_, ?_⟩
  · rw [slotFreed_mem, entered_mem, drained_mem, settle_mem]
  · rw [slotFreed_slots, entered_slots, drained_slots]
  · refine sameParts_trans (calm_sameParts (calm_settle s a false)) fun q => ?_
    rw [slotFreed_pt, State.pt, entered_parts, drained_parts]; rfl
  · rw [slotFreed_tileQ, entered_entries, drained_tileQ, List.map_append, ← hbytes]
    cases k <;> rfl
  · rw [entered_drainWb, hwb']
  · rw [← hdesc]; exact (hf e').1
  · rw [← hflags]; exact (hf e').2
  · rw [← hdrain]

end

/-! ### MATRIX_PASS_END (R126, R127, R153) -/

section
variable {s : State} {c : Nat} {sparse : Bool} {upset : List (Nat × Word32)} {d : DrainTile} {rest : List DrainTile} {e : WbEntry} {r : Run}
  (hslots : s.slots c (if sparse then 3 else 2) = d :: rest) (hwb : s.drainWb c (if sparse then 3 else 2) = some e) (hrun : (s.cl c).run = some r)

include hslots hwb hrun

/-- A full drain siding holds the drain. -/
theorem execMatrixPassEnd_full (hk : (s.passOf c (if sparse then 3 else 2) e.wb).toSiding) (hfull : 4 ≤ (s.tileQ c 0x08).entries.length) :
    execMatrixPassEnd c sparse upset s = .next s := by
  unfold execMatrixPassEnd
  simp only [hslots, hwb, hrun]
  refine if_pos (.inr (.inr (.inr ⟨?_, .inl hfull⟩)))
  simpa [Pass.toSiding] using hk

variable (hstop : r.stopped = false) (hev : s.eventHeld c (if sparse then 3 else 2) = false) (hent : d.entered = none)
  (hroom : (s.passOf c (if sparse then 3 else 2) e.wb).toSiding →
    (s.tileQ c 0x08).entries.length < 4 ∧ (s.tileQ c 0x08).entries.all (·.arrived) = true ∧ (s.tileQ c 0x08).st.cutAt = 0)

include hstop hev hent hroom

/-- With room where the tile goes, its verdict decides. -/
theorem execMatrixPassEnd_verdict : execMatrixPassEnd c sparse upset s =
    .next (if s.verdict (s.passOf c (if sparse then 3 else 2) e.wb) (d.upsetBy upset) = true then
        s.drainOut c (if sparse then 3 else 2) (r.ctx c) e (s.passOf c (if sparse then 3 else 2) e.wb) (d.upsetBy upset) true
      else s.verdictFails c (if sparse then 3 else 2) (r.ctx c) e (d.upsetBy upset)) := by
  unfold execMatrixPassEnd
  simp only [hslots, hwb, hrun]
  generalize hp : s.passOf c (if sparse = true then 3 else 2) e.wb = p at hroom ⊢
  have hkind : ((p.mode == 0 || p.mode == 3) && p.dst.kind == 1) = true ↔ p.toSiding := by simp [Pass.toSiding]
  have hgo : ¬(r.stopped = true ∨ s.eventHeld c (if sparse = true then 3 else 2) = true ∨ d.entered.isSome = true ∨
      ((p.mode == 0 || p.mode == 3) && p.dst.kind == 1) = true ∧
        (tileDepth ≤ (s.tileQ c 0x08).entries.length ∨ (s.tileQ c 0x08).entries.any (fun x => !x.arrived) = true)) := by
    rintro (h | h | h | ⟨hk, h⟩)
    · simp [hstop] at h
    · simp [hev] at h
    · simp [hent] at h
    · obtain ⟨hlen, harr, -⟩ := hroom (hkind.1 hk)
      rcases h with h | h
      · exact absurd hlen (Nat.not_lt.2 h)
      · simp only [List.all_eq_true] at harr
        obtain ⟨k, hk, hno⟩ := List.any_eq_true.1 h
        simp [harr k hk] at hno
  have hwhole : ((p.mode == 0 || p.mode == 3) && p.dst.kind == 1 && (s.tileQ c 0x08).st.cutAt != 0) = false := by
    cases hk : (p.mode == 0 || p.mode == 3) && p.dst.kind == 1 with
    | false => rfl
    | true => simp [(hroom (hkind.1 hk)).2.2]
  rw [if_neg hgo, hwhole, Bool.or_false]
  cases s.verdict p (d.upsetBy upset) <;> rfl

end

/-! ### A verdict that fails (R127, R409) -/

section
variable {s : State} {c st : Nat} {x : XCtx} {e : WbEntry} {d : DrainTile} {rest : List DrainTile}

theorem bumpFor_out (s : State) (o : Nat × Nat) (idx sub n : Nat) : (s.bumpFor o idx sub n).out = s.out := by
  unfold State.bumpFor State.tally; split <;> rfl

theorem bumpFor_obj (s : State) (o : Nat × Nat) (idx sub n : Nat) : (s.bumpFor o idx sub n).obj idx sub = (s.obj idx sub + n) % 2 ^ 64 := by
  have htally : (s.bumpFor o idx sub n).obj idx sub = (s.bump idx sub n).obj idx sub := by unfold State.bumpFor State.tally; split <;> rfl
  rw [htally, bump_obj_same]

theorem setSlots_mem (ds : List DrainTile) : (s.setSlots c st ds).mem = s.mem := rfl
theorem setSlots_out (ds : List DrainTile) : (s.setSlots c st ds).out = s.out := rfl
theorem setSlots_obj (ds : List DrainTile) (i j : Nat) : (s.setSlots c st ds).obj i j = s.obj i j := rfl

/-- The first time a verdict fails, it is counted and the tile is formed again; nothing is written. -/
theorem verdictFails_once {ds : List DrainTile} {a : Acc} (hslots : s.slots c st = d :: rest) {d' : DrainTile} (hagain : d'.again = false)
    (hj : jobFrom (passGroup s x c (s.passOf c st e.wb) e d'.m [d'.n]) { who := st, home := some c, owner := some (e.part, e.seq) } = (.ok ds, a)) :
    let t := s.verdictFails c st x e d'
    t.mem = s.mem ∧ t.out = s.out ∧ t.obj 0x5040 1 = (s.obj 0x5040 1 + 1) % 2 ^ 64 ∧
    t.slots c st = (ds.map fun y => { s.formed c x e (s.passOf c st e.wb) y with again := true, psum := d'.psum }) ++ rest := by
  have hj' : ((passGroup s x c (s.passOf c st e.wb) e d'.m [d'.n]).run).run { who := st, home := some c, owner := some (e.part, e.seq) } = (.ok ds, a) := hj
  have hspares : a.spares := by
    have := (passGroup_spares s x c (s.passOf c st e.wb) e d'.m [d'.n]).spares { who := st, home := some c, owner := some (e.part, e.seq) } nofun
    rwa [hj] at this
  unfold State.verdictFails
  simp only [hagain, Bool.false_eq_true, if_false, hj', waits]
  refine ⟨?_, ?_, ?_, ?_⟩
  · rw [setSlots_mem, settle_mem_none _ _ _ rfl, bumpFor_mem]
  · rw [setSlots_out, settle_out_none _ _ _ rfl rfl, bumpFor_out]
  · rw [setSlots_obj]
    exact (settle_upToFailure_failedOnce _ hspares).trans (bumpFor_obj ..)
  · rw [setSlots_slots, hslots]; rfl

/-- The second time it fails its waybill. -/
theorem verdictFails_twice (hslots : s.slots c st = d :: rest) {d' : DrainTile} (hagain : d'.again = true) : s.verdictFails c st x e d' =
    ((((s.bumpFor (e.part, e.seq) 0x5040 2 1).setObj 0x5040 3 c).setSlots c st rest).updEntry e.part e.seq
      fun y => { y with twice := y.twice ++ [c] }).failWb c st e stUncorrectable d'.n d'.m := by
  rw [State.verdictFails, if_pos hagain, hslots]; rfl

end

/-! ### A coupled entry of the drain siding (R64) -/

theorem look_entries_nil {t : Tab TileQ} {q : Nat} (h : ∀ e ∈ t, e.2.entries = []) : (Tab.look t {} q).entries = [] := by
  unfold Tab.look
  split
  · next e he => exact h e (List.mem_of_find?_eq_some he)
  · rfl

/-- Where a consignment stops on a cluster, its tile sidings are empty. -/
theorem stopOn_tileQ {s : State} {c : Nat} {r : Run} (hrun : (s.cl c).run = some r) (hstop : r.stopped = false) (failed : Bool) (q : Nat) :
    ((s.stopOn c failed).tileQ c q).entries = [] := by
  simp only [State.stopOn, hrun, hstop, Bool.false_eq_true, if_false, State.tileQ, closeWindows_cl, updCl_cl_same]
  refine look_entries_nil fun e he => ?_
  simp only [List.mem_filter, List.mem_map] at he
  obtain ⟨⟨e0, -, rfl⟩, -⟩ := he
  rfl

theorem failWb_tileQ {s : State} {c : Nat} {r : Run} (hrun : (s.cl c).run = some r) (hstop : r.stopped = false) (st : Nat) (e : WbEntry) (status : Byte) (i j q : Nat) :
    ((s.failWb c st e status i j).tileQ c q).entries = [] := by
  obtain ⟨t, heq, ht, -, -⟩ := failWb_eq (s := s) (c := c) st e status i j
  obtain ⟨u, hu, hcl, -⟩ := failRun_eq (ht.trans hrun) (wbFailure c st e status i j)
  rw [heq, hu]
  exact stopOn_tileQ (by rw [State.cl, hcl]; exact ht.trans hrun) hstop true q

/-- An update of some entry that keeps numbers and reports leaves the reports of every entry. -/
theorem failsOf_updEntry_other (s : State) (p' q' p q : Nat) {f : Entry → Entry} (hf : ∀ e, (f e).seq = e.seq) (hr : ∀ e, (f e).fails = e.fails) :
    (s.updEntry p' q' f).failsOf p q = s.failsOf p q := by
  rw [failsOf_eq_head, reports_updEntry_same _ _ _ _ _ hf hr, ← failsOf_eq_head]

section
variable {s : State} {c st : Nat} {x : XCtx} {d : DrainTile} {rest : List DrainTile} {e : WbEntry} {r : Run} {k : TileEntry}

theorem vRollback_parts (s : State) (c : Nat) : (s.vRollback c).parts = s.parts := by unfold State.vRollback; split <;> rfl

theorem updVec_slots (s : State) (c st : Nat) (f : Vec → Vec) : (s.updVec c f).slots c st = s.slots c st := by
  simp [State.updVec, State.slots]

theorem vRollback_slots (s : State) (c st : Nat) : (s.vRollback c).slots c st = s.slots c st := by
  unfold State.vRollback
  split
  · next sv _ => exact updVec_slots (s.bump 0x7080 3 1) c st fun _ => { regs := sv.1, cur := sv.2, saved := none }
  · rfl

theorem vRollback_run (s : State) (c : Nat) : ((s.vRollback c).cl c).run = (s.cl c).run := by
  unfold State.vRollback
  split
  · simp
  · rfl

theorem updEntry_cl (s : State) (p q : Nat) (f : Entry → Entry) (k : Nat) : (s.updEntry p q f).cl k = s.cl k := rfl
theorem setObj_failsOf (s : State) (i j n p q : Nat) : (s.setObj i j n).failsOf p q = s.failsOf p q := rfl
theorem setSlots_failsOf (s : State) (c st : Nat) (ds : List DrainTile) (p q : Nat) : (s.setSlots c st ds).failsOf p q = s.failsOf p q := rfl

/-- The second time a verdict fails, the run's entry has the report and the tile sidings are empty. -/
theorem verdictFails_report (hslots : s.slots c st = d :: rest) {d' : DrainTile} (hagain : d'.again = true) (hrun : (s.cl c).run = some r)
    (hstop : r.stopped = false) (q : Nat) : let t := s.verdictFails c st x e d'
    (t.tileQ c q).entries = [] ∧ t.failsOf r.part r.seq = (s.failsOf r.part r.seq).map (· ++ [wbFailure c st e stUncorrectable d'.n d'.m]) := by
  rw [verdictFails_twice hslots hagain]
  generalize hu : State.updEntry _ _ _ _ = u
  have hurun : (u.cl c).run = some r := by
    rw [← hu, updEntry_cl, State.setSlots, updSt_run, setObj_cl, calm_run (calm_bumpFor s (e.part, e.seq) 0x5040 2 1)]
    exact hrun
  have hufails : u.failsOf r.part r.seq = s.failsOf r.part r.seq := by
    rw [← hu, failsOf_updEntry_other (f := fun y => { y with twice := y.twice ++ [c] }) _ _ _ _ _ (fun _ => rfl) fun _ => rfl, setSlots_failsOf, setObj_failsOf,
      calm_failsOf (calm_bumpFor s (e.part, e.seq) 0x5040 2 1)]
  exact ⟨failWb_tileQ hurun hstop .., by rw [failWb_failsOf hurun, hufails]⟩

theorem updTileQ_slots (s : State) (c st q : Nat) (f : TileQ → TileQ) : (s.updTileQ c q f).slots c st = s.slots c st := by
  simp [State.updTileQ, State.slots]

theorem updTileQ_run (s : State) (c q : Nat) (f : TileQ → TileQ) : ((s.updTileQ c q f).cl c).run = (s.cl c).run := by
  simp [State.updTileQ]

theorem updVec_tileQ (s : State) (c q : Nat) (f : Vec → Vec) : (s.updVec c f).tileQ c q = s.tileQ c q := by
  simp [State.updVec, State.tileQ]

/-- The arrival of an entry of the drain siding, by the verdict that its tile will meet. -/
theorem execEntryArrival_drain {pass : Bool} (hst : st = 2 ∨ st = 3) (hslots : s.slots c st = d :: rest) (hwb : s.drainWb c st = some e) (hrun : (s.cl c).run = some r)
    (hent : d.entered = some pass) (hq : (s.tileQ c 0x08).entries = [k]) (harr : k.arrived = false)
    (hother : st = 3 → (s.slots c 2).any (·.entered.isSome) = false) (ok : Bool) : exec (.entryArrivalComplete c 0x08 ok) s = .next
      (if pass then ((s.keepArriving c 0x08).slotFreed c st fun e => { e with flags := e.flags ||| d.flags }).updVec c fun v => { v with saved := none }
        else ((s.dropArriving c 0x08).vRollback c).verdictFails c st (r.ctx c) e { d with entered := none }) := by
  have hsel : (if (s.slots c 2).any (·.entered.isSome) then 2 else 3) = st := by
    rcases hst with rfl | rfl
    · rw [hslots]; simp [hent]
    · rw [hother rfl]; rfl
  change execEntryArrivalComplete c 0x08 ok s = _
  unfold execEntryArrivalComplete
  rw [if_neg (by simp [hq, harr]), if_pos rfl]
  simp only [hsel, hslots, hwb, hrun, hent]
  cases pass <;> rfl

end

theorem onlyCluster_updVec {s t : State} {c : Nat} (h : OnlyCluster s t c) (f : Vec → Vec) : OnlyCluster s (t.updVec c f) c :=
  onlyCluster_then_updCl (f := fun cl => { cl with st := { cl.st with vec := f cl.st.vec } }) h

theorem onlyCluster_slotFreed {s t : State} {c : Nat} (h : OnlyCluster s t c) (st : Nat) (f : WbEntry → WbEntry) : OnlyCluster s (t.slotFreed c st f) c := by
  unfold State.slotFreed State.setSlots State.updDrainWb State.updSiding State.updSt
  exact onlyCluster_then_updCl (onlyCluster_then_updCl h _) _

theorem onlyCluster_keepArriving (s : State) (c q : Nat) : OnlyCluster s (s.keepArriving c q) c := onlyCluster_updTileQ _

/-! ### The statement -/

/-- Settles O24: the verdict decides what becomes of the oldest tile in the drain; a pass that runs again counts no verdict itself (`passGroup_spares`). -/
theorem verdicts : Obligations.Verdicts := by
  unfold Obligations.Verdicts
  intro s c sparse upset d rest e r st p d' siding hslots hwb hrun hstop hev
  have hst : st = 2 ∨ st = 3 := by cases sparse; exacts [.inl rfl, .inr rfl]
  refine ⟨fun _ hk hfull => execMatrixPassEnd_full hslots hwb hrun hk hfull, fun hent hroom => ?_, fun k pass ok hent hq harr hother => ⟨?_, ?_⟩⟩
  · have hexec := execMatrixPassEnd_verdict (upset := upset) hslots hwb hrun hstop hev hent hroom
    refine ⟨fun hok entry a hj hret hmeet => ?_, fun hbad hagain ds a hj => ?_, fun hbad hagain => ?_⟩
    · obtain ⟨hmem, hslots', hparts, hentries, hsiding⟩ := drainOut_passed hwb (fun hk => (hroom hk).2.2) hj hret hmeet true
      refine ⟨_, hexec.trans (by rw [if_pos hok]), hmem, hslots'.trans (by rw [hslots]; rfl), hparts, hentries, hsiding⟩
    · refine ⟨_, hexec.trans (by rw [if_neg (by rw [hbad]; decide)]), ?_⟩
      exact verdictFails_once hslots hagain hj
    · refine hexec.trans ?_
      rw [if_neg (by rw [hbad]; decide)]
      exact congrArg Host.Outcome.next (verdictFails_twice hslots hagain)
  · rintro rfl
    refine ⟨_, execEntryArrival_drain hst hslots hwb hrun hent hq harr hother ok, ?_, ?_, ?_, ?_⟩
    · rw [if_pos rfl]
      exact onlyCluster_updVec (onlyCluster_slotFreed (onlyCluster_keepArriving ..) ..) _
    · rw [if_pos rfl, updVec_slots, slotFreed_slots, State.keepArriving, updTileQ_slots, hslots]; rfl
    · rw [if_pos rfl, updVec_vec]
    · rw [if_pos rfl, updVec_tileQ, slotFreed_tileQ, (keepArriving_tileQ hq harr).2]
  · rintro rfl hagain
    have hslots' : ((s.dropArriving c 0x08).vRollback c).slots c st = d :: rest := by
      rw [vRollback_slots, State.dropArriving, updTileQ_slots, hslots]
    have hrun' : (((s.dropArriving c 0x08).vRollback c).cl c).run = some r := by
      rw [vRollback_run, State.dropArriving, updTileQ_run, hrun]
    obtain ⟨hentries, hfails⟩ := verdictFails_report (x := r.ctx c) (e := e) hslots' (d' := { d with entered := none }) hagain hrun' hstop 0x08
    refine ⟨_, execEntryArrival_drain hst hslots hwb hrun hent hq harr hother ok, hentries, fun x hx => ?_⟩
    have hsome : s.failsOf r.part r.seq = some x.fails := by rw [State.failsOf, hx]; rfl
    have hback : ((s.dropArriving c 0x08).vRollback c).failsOf r.part r.seq = s.failsOf r.part r.seq :=
      failsOf_congr (t := (s.dropArriving c 0x08).vRollback c) (s := s) ((vRollback_parts ..).trans rfl) ..
    rw [hback, hsome] at hfails
    obtain ⟨x', hx', hl⟩ := entry_of_failsOf hfails
    exact ⟨x', _, hx', hl, rfl⟩

end Sys2Proof.Machine
end

section
/-! SUPPORT. Receive windows at the control core (R92, R98, R100, R246): what a fetch leaves of a cluster, what WINDOW, RELEASE and LANDCFG
do once they are fetched, and the statement about them. -/

namespace Sys2Proof.Machine

/-! ### What a fetch leaves (R62) -/

section
variable {s u : State} {c n : Nat}

/-- A fetch that succeeds settles its reads, and lines enter the buffer. -/
theorem fetch_done (h : s.fetch c n = (u, true)) : ∃ (v : State) (ls : List (Nat × List Byte × List Nat)), Calm s v ∧ u = ls.foldl (fun t l => t.bufEnter c l) v := by
  unfold State.fetch at h
  dsimp only at h
  split at h
  · exact absurd (congrArg Prod.snd h) Bool.false_ne_true
  · split at h
    · exact absurd (congrArg Prod.snd h) Bool.false_ne_true
    · next ls _ =>
      generalize ht : (if ls.isEmpty then s else _) = t at h
      split at h
      · exact absurd (congrArg Prod.snd h) Bool.false_ne_true
      · obtain rfl : t = u := congrArg Prod.fst h
        subst ht
        split
        · exact ⟨s, [], calm_refl s, rfl⟩
        · exact ⟨_, ls, calm_settle .., rfl⟩

theorem fetch_tokMesh (h : s.fetch c n = (u, true)) : (u.cl c).tokMesh = (s.cl c).tokMesh := by
  obtain ⟨v, ls, hv, rfl⟩ := fetch_done h
  have hseen : (v.cl c).tokMesh = (s.cl c).tokMesh := by simpa [Cluster.seen] using congrArg Cluster.tokMesh (hv.cl c)
  refine (foldl_same (P := fun t => (t.cl c).tokMesh) (fun t l => ?_) ls v).trans hseen
  obtain ⟨-, -, buf, hcl⟩ := bufEnter_frame (s := t) (c := c) l
  rw [hcl]

end

/-! ### Small updates -/

section
variable {s : State} {c w : Nat}

@[simp] theorem updWin_core (f : Win → Win) : ((s.updWin c w f).cl c).core = (s.cl c).core := by simp [State.updWin]
@[simp] theorem updWin_tokMesh (f : Win → Win) : ((s.updWin c w f).cl c).tokMesh = (s.cl c).tokMesh := by simp [State.updWin]
@[simp] theorem pcStep_win (n : Word) (k : Nat) : (s.pcStep c n).win c k = s.win c k := by simp [State.pcStep, State.updCore, State.win]
@[simp] theorem pcStep_tokQ (n : Word) : ((s.pcStep c n).cl c).tokQ = (s.cl c).tokQ := by simp [State.pcStep, State.updCore]
@[simp] theorem pcStep_carried (n : Word) : ((s.pcStep c n).cl c).carried = (s.cl c).carried := by simp [State.pcStep, State.updCore]

theorem onlyCluster_updWin (f : Win → Win) : OnlyCluster s (s.updWin c w f) c := onlyCluster_updCl ..

/-- With nothing held back in the mesh, no message is taken from it. -/
theorem meshAgain_nil (h : (s.cl c).tokMesh = []) : s.meshAgain c = s := by simp [State.meshAgain, h, State.drainMesh]

/-- With no request in the queue, none is served. -/
theorem serve_noRequest (h : (s.cl c).tokQ = []) : s.serve c w = s := by simp [State.serve, h, State.serveTokens]

@[simp] theorem refuseQueued_cl (f : Nat → Bool) : (s.refuseQueued c f).cl c = { s.cl c with tokQ := (s.cl c).tokQ.filter fun q => !f q.window } := by
  rw [State.cl, refuseQueued_clusters]
  exact updCl_cl_same ..

@[simp] theorem refuseQueued_win (f : Nat → Bool) (k : Nat) : (s.refuseQueued c f).win c k = s.win c k := by simp [State.win]

/-- The window that WINDOW opens with a register value (R92, R93): a new generation, every pointer zero, all granules free. -/
def State.opened (s : State) (c w v : Nat) : Win where
  base := bits v 0 12
  size := bits v 12 11
  enable := true
  postEn := bit1 v 25
  postCtr := bits v 26 5
  part := ((s.cl c).run.map (·.part)).getD 0
  gen := ((s.win c w).gen + 1) % 256
  freeCnt := bits v 12 11

/-- The register value of WINDOW has its reserved bits zero. -/
def WindowForm (v : Nat) : Prop := bit1 v 23 = false ∧ bit1 v 31 = false ∧ bits v 44 20 = 0

variable {v : Nat} (hform : WindowForm v)

include hform

theorem windowOp_open (hopen : bit1 v 24 = true) (hok : s.winOpenOk c w v = true) :
    s.windowOp c w v = (s.updWin c w fun _ => s.opened c w v).pcStep c 4 := by
  obtain ⟨h23, h31, h44⟩ := hform
  simp only [State.windowOp, h23, h31, h44, hopen, hok]
  rfl

theorem windowOp_refused (hopen : bit1 v 24 = true) (hok : s.winOpenOk c w v = false) : s.windowOp c w v = s.failCore c stTimetable := by
  obtain ⟨h23, h31, h44⟩ := hform
  simp [State.windowOp, h23, h31, h44, hopen, hok]

theorem windowOp_close (hclose : bit1 v 24 = false) (hm : (s.cl c).tokMesh = []) :
    s.windowOp c w v = ((s.updWin c w Win.close).refuseQueued c fun k => k == w).pcStep c 4 := by
  obtain ⟨h23, h31, h44⟩ := hform
  simp [State.windowOp, h23, h31, h44, hclose, meshAgain_nil, hm]

end

/-! ### WINDOW, RELEASE and LANDCFG, fetched -/

section
variable {s₀ s : State} {c : Nat} {w : BitVec 3} {ra : Reg} (hlive : s₀.coreLive c = true) (hf : s₀.fetch c 4 = (s, true))

include hlive hf

theorem exec_windowOpen : exec (.windowOpen c w ra) s₀ = .next (s.windowOp c w.toNat (s.reg c ra).toNat) := by
  change execWindowOpen c w ra s₀ = _
  exact onCore_live hlive hf _

theorem exec_windowClose : exec (.windowClose c w ra) s₀ = .next (s.windowOp c w.toNat (s.reg c ra).toNat) := by
  change execWindowClose c w ra s₀ = _
  exact onCore_live hlive hf _

/-- RELEASE of landed granules, with no request to serve. -/
theorem exec_release (hle : (s.reg c ra).toNat ≤ (s.win c w.toNat).landed) (hq : (s.cl c).tokQ = []) (hm : (s.cl c).tokMesh = []) :
    exec (.release c w ra) s₀ = .next ((s.updWin c w.toNat fun x => { x with
      freePtr := (x.freePtr + (s.reg c ra).toNat) % x.size, freeCnt := x.freeCnt + (s.reg c ra).toNat }).pcStep c 4) := by
  change execRelease c w ra s₀ = _
  refine (onCore_live hlive hf _).trans ?_
  simp [Nat.not_lt.2 hle, serve_noRequest, meshAgain_nil, hq, hm]

theorem exec_release_tooMany (hlt : (s.win c w.toNat).landed < (s.reg c ra).toNat) : exec (.release c w ra) s₀ = .next (s.failCore c stTimetable) := by
  change execRelease c w ra s₀ = _
  exact (onCore_live hlive hf _).trans (by simp [hlt])

/-- LANDCFG of rows within the scratchpad that no open window covers, for a window that is not open. -/
theorem exec_landcfg (hrsv : bits (s.reg c ra).toNat 25 39 = 0) (hrows : bits (s.reg c ra).toNat 1 12 + bits (s.reg c ra).toNat 13 12 + 1 ≤ 4096)
    (hshut : (s.win c w.toNat).enable = false)
    (hfree : (s.cl c).wins.all (fun e => !(e.2.enable && overlaps (bits (s.reg c ra).toNat 1 12) (bits (s.reg c ra).toNat 13 12 + 1) e.2.base e.2.size)) = true) :
    exec (.landcfg c w ra) s₀ = .next ((s.updSt c fun x => { x with
      land := Tab.put x.land 0 w.toNat (BitVec.ofNat 64 (s.reg c ra).toNat) }).pcStep c 4) := by
  change execLandcfg c w ra s₀ = _
  refine (onCore_live hlive hf _).trans (congrArg Host.Outcome.next (if_neg ?_))
  have hany : (s.cl c).wins.any (fun e => e.2.enable && overlaps (bits (s.reg c ra).toNat 1 12) (bits (s.reg c ra).toNat 13 12 + 1) e.2.base e.2.size) = false := by
    rw [← Bool.not_eq_true', List.not_any_eq_all_not]
    exact hfree
  rintro (h | h | h | h)
  · exact h hrsv
  · omega
  · exact absurd (hshut.symm.trans h) Bool.false_ne_true
  · exact absurd (hany.symm.trans h) Bool.false_ne_true

end

/-! ### The statement -/

/-- Settles O16: WINDOW is `windowOp_open`, `windowOp_refused` and `windowOp_close`, RELEASE `exec_release`, LANDCFG `exec_landcfg`, on the state that the fetch leaves. -/
theorem windows : Obligations.Windows := by
  unfold Obligations.Windows
  intro s c w ra hmesh
  refine ⟨fun hclosing hgone => ?_, fun u hlive hf => ?_⟩
  · refine ⟨s.updWin c w.toNat Win.settleClose, ?_, onlyCluster_updWin .., by simp [Win.settleClose, hclosing, hgone]⟩
    change execWindowClosed c w s = _
    rw [execWindowClosed, meshAgain_nil (by simpa using hmesh)]
  have hm : (u.cl c).tokMesh = [] := (fetch_tokMesh hf).trans hmesh
  refine ⟨fun h23 h31 h44 => ⟨fun hopen hok => ?_, fun hopen hok => ?_, fun hclose => ?_⟩, fun hle hq => ?_, exec_release_tooMany hlive hf,
    fun hrsv hrows hshut hfree => ?_⟩
  · refine ⟨_, (exec_windowOpen hlive hf).trans (congrArg _ (windowOp_open ⟨h23, h31, h44⟩ hopen hok)), onlyCluster_pcStep (onlyCluster_updWin ..) _, by simp, ?_⟩
    rw [pcStep_win, updWin_win_same]
    rfl
  · exact (exec_windowOpen hlive hf).trans (congrArg _ (windowOp_refused ⟨h23, h31, h44⟩ hopen hok))
  · exact ⟨_, (exec_windowClose hlive hf).trans (congrArg _ (windowOp_close ⟨h23, h31, h44⟩ hclose hm)), by simp [refuseQueued_mem], by simp,
      by simp [Win.close], by simp [bne]⟩
  · exact ⟨_, exec_release hlive hf hle hq hm, onlyCluster_pcStep (onlyCluster_updWin ..) _, by simp, by simp⟩
  · exact ⟨_, exec_landcfg hlive hf hrsv hrows hshut hfree, onlyCluster_pcStep (onlyCluster_updSt ..) _, by simp,
      fun k => by rw [pcStep_st, updSt_st]; exact tab_look_put ..⟩

end Sys2Proof.Machine
end

section
/-! SUPPORT. Channel switches and carried rows (R102, R252, R405, R433): what CHCTL and CARRY do to a cluster, and the statement about them. -/

namespace Sys2Proof.Machine

/-! ### Channels (R252) -/

section
variable {s : State} {c chan : Nat}

@[simp] theorem woken_st : ((s.woken c).cl c).st = (s.cl c).st := by rw [woken_cl_same]
@[simp] theorem woken_held : ((s.woken c).cl c).held = (s.cl c).held := by rw [woken_cl_same]
@[simp] theorem woken_tokWait : ((s.woken c).cl c).tokWait = (s.cl c).tokWait := by rw [woken_cl_same]
@[simp] theorem woken_chan (k : Nat) : (s.woken c).chan c k = s.chan c k := by simp [State.chan]
@[simp] theorem woken_siding (st : Nat) : (s.woken c).siding c st = s.siding c st := by simp [State.siding]

@[simp] theorem updChan_tokWait (f : Chan → Chan) : ((s.updChan c chan f).cl c).tokWait = (s.cl c).tokWait := by simp [State.updChan, State.updSt]
@[simp] theorem updChan_held (f : Chan → Chan) : ((s.updChan c chan f).cl c).held = (s.cl c).held := by simp [State.updChan, State.updSt]
@[simp] theorem updChan_core (f : Chan → Chan) : ((s.updChan c chan f).cl c).core = (s.cl c).core := by simp [State.updChan]
@[simp] theorem pcStep_chan (n : Word) (k : Nat) : (s.pcStep c n).chan c k = s.chan c k := by simp [State.chan]

theorem updChan_chan (f : Chan → Chan) (k : Nat) : (s.updChan c chan f).chan c k = if k = chan then f (s.chan c k) else s.chan c k := by
  unfold State.updChan State.chan
  rw [updSt_st]
  refine (tab_look_put ..).trans ?_
  split
  · next h => rw [h]
  · rfl

theorem onlyCluster_trans {t u : State} (h : OnlyCluster s t c) (k : OnlyCluster t u c) : OnlyCluster s u c := by
  obtain ⟨x, rfl⟩ := k
  exact onlyCluster_then_updCl h _

@[simp] theorem updTileQ_chans (q : Nat) (f : TileQ → TileQ) : ((s.updTileQ c q f).cl c).st.chans = (s.cl c).st.chans := by simp [State.updTileQ]
@[simp] theorem updTileQ_tokWait (q : Nat) (f : TileQ → TileQ) : ((s.updTileQ c q f).cl c).tokWait = (s.cl c).tokWait := by
  simp [State.updTileQ, State.updSt]

/-- What the drop of a channel without granules and without waybills leaves (R252): requests and refetches of it are given up on the cluster. -/
structure ChannelLeft (s t : State) (c chan : Nat) : Prop where
  frame : OnlyCluster s t c
  chans : (t.cl c).st.chans = (s.cl c).st.chans
  tokWait : (t.cl c).tokWait = (s.cl c).tokWait.filter fun w => w.chan != chan

/-- A channel that holds no granule and has no waybill in its siding drops nothing else. -/
theorem dropChannel_idle (hheld : (s.cl c).held = []) (hwb : (s.siding c (chan / 8)).all (fun e => fld e.wb 432 3 != chan % 8) = true) :
    ChannelLeft s (s.dropChannel c chan) c chan := by
  have hnone : ∀ t : State, (∀ st, t.siding c st = s.siding c st) → (t.siding c (chan / 8)).filter (fun e => fld e.wb 432 3 == chan % 8) = [] := by
    intro t ht
    rw [ht, List.filter_eq_nil_iff]
    simpa [bne] using hwb
  unfold State.dropChannel
  simp only [hheld, List.filter_nil, List.foldl_nil]
  split
  · rw [hnone _ fun st => by simp [State.siding], List.foldl_nil]
    exact ⟨onlyCluster_updCl .., by simp, by simp⟩
  · rw [hnone _ fun st => by rw [updTileQ_siding]; simp [State.siding], List.foldl_nil]
    exact ⟨onlyCluster_trans (onlyCluster_updCl ..) (onlyCluster_updTileQ ..), by simp, by simp⟩

theorem chctl_off : s.chctl c chan false = s.updChan c chan fun k => { k with disable := false } := rfl

theorem onlyCluster_chctl_off : OnlyCluster s (s.chctl c chan false) c := by
  rw [chctl_off]
  exact onlyCluster_updSt ..

/-- A channel that holds no granule and has no waybill is disabled: `ch_disable` is set and the channel is dropped. -/
theorem chctl_on (hheld : (s.cl c).held = []) (hwb : (s.siding c (chan / 8)).all (fun e => fld e.wb 432 3 != chan % 8) = true) :
    OnlyCluster s (s.chctl c chan true) c ∧ (s.chctl c chan true).chan c chan = { s.chan c chan with disable := true } ∧
    ((s.chctl c chan true).cl c).tokWait = (s.cl c).tokWait.filter fun w => w.chan != chan := by
  have hset : OnlyCluster s (s.updChan c chan fun k => { k with disable := true }) c := onlyCluster_updSt ..
  obtain ⟨hframe, hchans, htok⟩ := dropChannel_idle (s := s.updChan c chan fun k => { k with disable := true }) (c := c) (chan := chan)
    (by simpa using hheld) (by simpa using hwb)
  have heq : s.chctl c chan true = (s.updChan c chan fun k => { k with disable := true }).dropChannel c chan := rfl
  rw [heq]
  refine ⟨onlyCluster_trans hset hframe, ?_, by rw [htok, updChan_tokWait]⟩
  rw [State.chan, hchans]
  exact (updChan_chan ..).trans (if_pos rfl)

/-- Firmware's write of `ch_disable` reaches a scratchpad that is open, and wakes its cluster (R102, R433). -/
theorem chctlBy_firmware (hpads : s.padsOpen = true) (v : Bool) : s.chctlBy c chan .firmware v = .next ((s.woken c).chctl c chan v) := if_pos hpads

/-- In S2 and WAKE it waits. -/
theorem chctlBy_firmware_waits (hpads : s.padsOpen = false) (v : Bool) : s.chctlBy c chan .firmware v = .next s := by simp [State.chctlBy, hpads]

end

/-! ### Carried rows (R405) -/

/-- The rows of a row mask that lies within the scratchpad. -/
theorem rowMask_getLsbD {lo n row : Nat} (hrow : row < 4096) : (rowMask lo n).getLsbD row = (decide (lo ≤ row) && decide (row < lo + n)) := by
  rw [rowMask, BitVec.getLsbD_ofNat, Nat.testBit_mul_two_pow, Nat.testBit_two_pow_sub_one]
  by_cases hlo : lo ≤ row
  · have : row - lo < n ↔ row < lo + n := by omega
    simp [hrow, hlo, this]
  · simp [hlo]

section
variable {s : State} {c v : Nat} {r : Run}

/-- The carried map of a partition after CARRY: the rows named join it or leave it. -/
def carriedAfter (v : Nat) (m : BitVec 4096) : BitVec 4096 :=
  if bit1 v 24 then m ||| rowMask (bits v 0 12) (bits v 12 12 + 1) else m &&& ~~~ rowMask (bits v 0 12) (bits v 12 12 + 1)

theorem carriedAfter_set (h : bit1 v 24 = true) (m : BitVec 4096) {row : Nat} (hrow : row < 4096) : (carriedAfter v m).getLsbD row =
    (m.getLsbD row || (decide (bits v 0 12 ≤ row) && decide (row ≤ bits v 0 12 + bits v 12 12))) := by
  simp [carriedAfter, h, rowMask_getLsbD hrow, ← Nat.add_assoc]

theorem carriedAfter_clear (h : bit1 v 24 = false) (m : BitVec 4096) {row : Nat} (hrow : row < 4096) : (carriedAfter v m).getLsbD row =
    (m.getLsbD row && !(decide (bits v 0 12 ≤ row) && decide (row ≤ bits v 0 12 + bits v 12 12))) := by
  rw [carriedAfter, h, if_neg Bool.false_ne_true, BitVec.getLsbD_and, BitVec.getLsbD_not, rowMask_getLsbD hrow, decide_eq_true hrow, Bool.true_and,
    ← Nat.add_assoc]
  simp only [Nat.lt_succ_iff]

/-- CARRY with its reserved bits zero and rows within the scratchpad changes the carried map of the run's partition, and pc moves on. -/
theorem carryOp_done (hrun : (s.cl c).run = some r) (hrsv : bits v 25 39 = 0) (hrows : bits v 0 12 + bits v 12 12 + 1 ≤ 4096) :
    let t := s.carryOp c v
    OnlyCluster s t c ∧ (t.cl c).core.pc = (s.cl c).core.pc + 4 ∧ Tab.look (t.cl c).carried 0 r.part = carriedAfter v (Tab.look (s.cl c).carried 0 r.part) := by
  have heq : s.carryOp c v = (s.updCl c fun cl =>
      { cl with carried := Tab.put cl.carried 0 r.part (carriedAfter v (Tab.look cl.carried 0 r.part)) }).pcStep c 4 := by
    unfold State.carryOp
    rw [if_neg (by omega), hrun]
    rfl
  simp only [heq]
  exact ⟨onlyCluster_pcStep (onlyCluster_updCl ..) _, by simp, by simp⟩

end

/-! ### The statement -/

/-- Settles O18: the switches are `chctl_off` and `chctl_on`, CARRY is `carryOp_done`. -/
theorem channelsAndRows : Obligations.ChannelsAndRows := by
  unfold Obligations.ChannelsAndRows
  intro s c ra
  refine ⟨fun chan hpads => ?_, fun chan hpads => ⟨chctlBy_firmware_waits hpads _, chctlBy_firmware_waits hpads _⟩, fun chan hpads _ hheld hwb => ?_,
    fun u hlive hf => ⟨fun chan hoff => ?_, fun run hrun hrsv hrows => ?_⟩⟩
  · refine ⟨_, chctlBy_firmware hpads false, onlyCluster_chctl_off, ?_, fun k hk => ?_⟩
    · rw [chctl_off, updChan_chan, if_pos rfl, woken_chan]
    · rw [chctl_off, updChan_chan, if_neg hk, woken_chan]
  · obtain ⟨hframe, hchan, htok⟩ := chctl_on (s := s.woken c) (c := c) (chan := chan.toNat) (by simpa using hheld) (by simpa using hwb)
    exact ⟨_, chctlBy_firmware hpads true, hframe, by rw [hchan, woken_chan], by rw [htok, woken_tokWait]⟩
  · refine ⟨(u.chctl c chan.toNat false).pcStep c 4, ?_, onlyCluster_pcStep onlyCluster_chctl_off _, ?_, ?_⟩
    · change (s.onCore c fun s => (s.chctl c chan.toNat (bit1 (s.reg c ra).toNat 0)).pcStep c 4) = _
      rw [onCore_live hlive hf, hoff]
    · simp [chctl_off]
    · rw [pcStep_chan, chctl_off, updChan_chan, if_pos rfl]
  · obtain ⟨hframe, hpc, hmap⟩ := carryOp_done hrun hrsv hrows
    refine ⟨fun hset => ⟨_, ?_, hframe, hpc, fun row hrow => by rw [hmap, carriedAfter_set hset _ hrow]⟩,
      fun hclear => ⟨_, ?_, hframe, hpc, fun row hrow => by rw [hmap, carriedAfter_clear hclear _ hrow]⟩⟩
    · change execCarrySet c ra s = _
      exact onCore_live hlive hf _
    · change execCarryClear c ra s = _
      exact onCore_live hlive hf _

end Sys2Proof.Machine
end

section
/-! SUPPORT. Answers to what a cluster or a hub has sent (R91, R240, R247 to R249): responses, acknowledgements, pieces of a SCATTER_ADD and acknowledgements of
notices, and the statement about them. -/

namespace Sys2Proof.Machine

/-! ### Kept packets and tags (R228, R344) -/

section
variable {s : State} {c : Nat}

@[simp] theorem dropKept_cl (ep tag : BitVec 16) (ty k : Nat) : (s.dropKept ep tag ty).cl k = s.cl k := rfl
@[simp] theorem dropKept_headWb (ep tag : BitVec 16) (ty k st chan : Nat) : (s.dropKept ep tag ty).headWb k st chan = s.headWb k st chan := rfl

/-- An answered packet is kept no longer. -/
theorem dropKept_keptOf (ep tag : BitVec 16) (ty : Nat) : (s.dropKept ep tag ty).keptOf ep tag ty = [] := by
  rw [State.keptOf, State.dropKept, List.filter_filter, List.filter_eq_nil_iff]
  intro k _
  simp

/-- Nor does the drop of another packet bring it back. -/
theorem dropKept_keptOf_nil {ep tag : BitVec 16} {ty : Nat} (h : s.keptOf ep tag ty = []) (ep' tag' : BitVec 16) (ty' : Nat) :
    (s.dropKept ep' tag' ty').keptOf ep tag ty = [] := by
  rw [State.keptOf, List.filter_eq_nil_iff] at h ⊢
  exact fun k hk => h k (List.mem_of_mem_filter hk)

/-- A tag that comes free lets nothing go on where nothing waits for one. -/
theorem tagFreed_idle (hw : (s.cl c).watches = []) (hq : (s.cl c).sendQ = []) : s.tagFreed c = s := by
  have hall : s.sendAll c = s := by simp [State.sendAll, hq, State.sendOut]
  simp [State.tagFreed, hall, hw, State.refetchQueued]

@[simp] theorem updSt_watches (f : Stations → Stations) : ((s.updSt c f).cl c).watches = (s.cl c).watches := by simp [State.updSt]
@[simp] theorem updSt_sendQ (f : Stations → Stations) : ((s.updSt c f).cl c).sendQ = (s.cl c).sendQ := by simp [State.updSt]

/-! ### Responses and acknowledgements (R91, R249) -/

/-- A pending read as a response leaves it. -/
def PendRead.answered (r : PendRead) (p : Packet) : PendRead := { r with
  data := some (p.payload.take r.n)
  bad := p.bad
  marks := p.marks
  fault := BitVec.ofNat 8 p.msg.toNat }

variable {p : Packet} (hcrc : p.pcrc = pktCheck p) (hc : p.dstEp.toNat < 0x2000)

include hcrc hc

/-- A response to a kept request gives its data to the reads of its tag; without a watch or a packet that waits for a tag, nothing else follows. -/
theorem exec_readResp (hkept : (s.keptOf p.dstEp p.tag 0x00).isEmpty = false) (hw : (s.cl p.dstEp.toNat).watches = []) (hq : (s.cl p.dstEp.toNat).sendQ = []) :
    exec (.readResp p) s = .next ((s.dropKept p.dstEp p.tag 0x00).updSt p.dstEp.toNat fun x =>
      { x with pend := x.pend.map fun r => if r.tag = p.tag then r.answered p else r }) := by
  change execReadResp p s = _
  simp only [execReadResp, Nat.not_le.2 hc, if_false, hkept, Bool.false_eq_true, hcrc, ne_eq, not_true_eq_false]
  rw [updSt_watches, dropKept_cl, hw, List.find?_nil]
  exact congrArg Host.Outcome.next (tagFreed_idle (by simpa using hw) (by simpa using hq))

/-- An acknowledgement without a fault counts one write of the head waybill of its channel and joins its flags. -/
theorem exec_wrAck {e : WbEntry} (hkept : (s.keptOf p.dstEp p.tag 0x02).isEmpty = false) (hhead : s.headWb p.dstEp.toNat 1 (p.tag.toNat % 8) = some e) (hacks : e.acks ≠ 0)
    (hw : (s.cl p.dstEp.toNat).watches = []) (hq : (s.cl p.dstEp.toNat).sendQ = []) (hfault : bits p.msg.toNat 8 8 = 0) :
    exec (.wrAck p) s = .next (((s.dropKept p.dstEp p.tag 0x02).dropKept p.dstEp p.tag 0x04).updWb p.dstEp.toNat 1 (p.tag.toNat % 8) fun e =>
      { e with acks := e.acks - 1, flags := e.flags ||| BitVec.ofNat 8 p.msg.toNat }) := by
  have hmine : (s.keptOf p.dstEp p.tag 0x02 ++ s.keptOf p.dstEp p.tag 0x04).isEmpty = false := by
    rw [List.isEmpty_eq_false_iff] at hkept ⊢
    exact List.append_ne_nil_of_left_ne_nil hkept _
  change execWrAck p s = _
  simp only [execWrAck, hcrc, ne_eq, not_true_eq_false, if_false, hc, if_true, hmine]
  rw [tagFreed_idle (by simpa using hw) (by simpa using hq), dropKept_headWb, dropKept_headWb, hhead]
  simp [Nat.not_le.2 hc, hacks, hfault]

omit hcrc hc

/-- The head waybill of a channel after a change that keeps it at the head. -/
theorem updWb_headWb_of {st chan : Nat} {e : WbEntry} {f : WbEntry → WbEntry} (h : s.headWb c st chan = some e) (hf : WbEntry.ahead st chan (f e) = true) :
    (s.updWb c st chan f).headWb c st chan = some (f e) := by
  rw [State.headWb, State.updWb, updSiding_siding_same]
  exact find?_mapFirst h hf

theorem headWb_ahead {st chan : Nat} {e : WbEntry} (h : s.headWb c st chan = some e) : WbEntry.ahead st chan e = true := List.find?_some h

/-! ### Pieces of a SCATTER_ADD (R247, R248) -/

/-- Whether a piece is refused rests on the windows and the landing descriptors of its cluster. -/
theorem woken_addRefusal : (s.woken c).addRefusal c p = s.addRefusal c p := by
  simp [State.addRefusal, State.landDesc, State.pieceRefusal]

include hcrc hc

/-- A piece from a module of the map reaches an active cluster whose scratchpad is open and whose rows are not retained. -/
theorem exec_addPiece (hpeer : s.peerOk p = true) (hstat : (s.cl p.dstEp.toNat).stat = .active) (hpads : s.padsOpen = true)
    (hret : s.retainedAt (padOf p.dstEp.toNat + (bits (s.landDesc p.dstEp.toNat p.window.toNat) 1 12 + p.addr.toNat) * 2048) 2048 (s.landExempt p.dstEp.toNat) = false) :
    exec (.addPiece p) s = .next ((s.woken p.dstEp.toNat).addArrive p.dstEp.toNat p) := by
  change execAddPiece p s = _
  simp [execAddPiece, hcrc, Nat.not_le.2 hc, hpeer, hstat, hpads, hret]

omit hcrc hc

/-- The sequence number that a channel's next piece of ordered mode must have (R248). -/
def State.turn (s : State) (c : Nat) (p : Packet) : Nat := Tab.look (s.cl c).st.addNext 0 (addKey p) % 65536

/-- The channel's turn passes to the next number. -/
def State.turned (s : State) (c : Nat) (p : Packet) : State :=
  s.updSt c fun x => { x with addNext := Tab.put x.addNext 0 (addKey p) (Tab.look x.addNext 0 (addKey p) + 1) }

theorem turned_addNext (k : Nat) : Tab.look ((s.turned c p).cl c).st.addNext 0 k =
    if k = addKey p then Tab.look (s.cl c).st.addNext 0 k + 1 else Tab.look (s.cl c).st.addNext 0 k := by
  rw [State.turned, updSt_st]
  refine (tab_look_put ..).trans ?_
  split
  · next h => rw [h]
  · rfl

variable (hok : s.addRefusal c p = none) (hmode : bit1 p.msg.toNat 0 = false)

include hok hmode

theorem addArrive_inTurn (hseq : p.seq.toNat = s.turn c p) : s.addArrive c p = ((s.turned c p).addApply c p).addDrain c 17 := by
  simp only [State.addArrive, hok, hmode, Bool.false_eq_true, if_false]
  exact if_pos hseq

theorem addArrive_ahead (hseq : p.seq.toNat ≠ s.turn c p) (hroom : (s.cl c).st.addHeld.length < 16) :
    s.addArrive c p = s.updSt c fun x => { x with addHeld := x.addHeld ++ [p] } := by
  simp only [State.addArrive, hok, hmode, Bool.false_eq_true, if_false]
  exact (if_neg hseq).trans (if_neg (Nat.not_le.2 hroom))

end

/-! ### Acknowledgements of notices (R240) -/

section
variable {s : State} {p : Packet} {a : PendAck} (hcrc : p.pcrc = pktCheck p)

/-- The acknowledgement of a notice is for a write that waits. -/
def noticeHit (p : Packet) (a : PendAck) : Bool := a.region == p.addr.toNat / 4096 && a.waiting.contains p.srcEp.toNat

/-- The notice that it answers is kept no longer. -/
def State.noticeAnswered (s : State) (p : Packet) : State := { s with
  kept := s.kept.eraseP fun k => k.p.srcEp == p.dstEp && k.p.dstEp == p.srcEp && k.p.ptype == 0x07 && k.p.addr.toNat / 4096 == p.addr.toNat / 4096 }

/-- The hub of an acknowledgement with its waiting writes changed, once the notice is answered. -/
def State.noticeTaken (s : State) (p : Packet) (f : List PendAck → List PendAck) : State :=
  (s.noticeAnswered p).updHub (p.dstEp.toNat % 8192) fun b => { b with acks := f b.acks }

theorem noticeTaken_acks (f : List PendAck → List PendAck) :
    ((s.noticeTaken p f).hub (p.dstEp.toNat % 8192)).acks = f (s.hub (p.dstEp.toNat % 8192)).acks := by
  rw [State.noticeTaken, updHub_hub_same]
  rfl

variable (hfor : (s.hub (p.dstEp.toNat % 8192)).acks.find? (noticeHit p) = some a)

include hcrc hfor

/-- The last acknowledgement of a write's notices: the write waits no longer, and is acknowledged where its writer is answered by a packet. -/
theorem exec_noticeAck_last (hlast : a.waiting = [p.srcEp.toNat]) : exec (.noticeAck p) s = .next
    (let t := s.noticeTaken p (·.erase a)
     if a.who ≠ 1 then t
     else t.emit (.packet (pktFinish (t.stamp (packetOf 0x03 1 a.dst p.dstEp a.dstMod a.part a.tag (p.addr.toNat / 4096 * 4096) 0 []))))) := by
  change execNoticeAck p s = _
  unfold execNoticeAck
  rw [if_neg (not_not.2 hcrc)]
  dsimp only
  split
  · next h => cases h.symm.trans hfor
  · next a' h =>
    obtain rfl : a' = a := Option.some.inj (h.symm.trans hfor)
    simp only [hlast, List.erase_cons_head, List.isEmpty_nil, Bool.not_true, Bool.false_eq_true, if_false]
    exact (apply_ite Host.Outcome.next _ _ _).symm

/-- One that is not the last leaves the other watchers to wait for. -/
theorem exec_noticeAck_more (hmore : a.waiting.erase p.srcEp.toNat ≠ []) : exec (.noticeAck p) s = .next
    (s.noticeTaken p (mapFirst (noticeHit p) fun x => { x with waiting := a.waiting.erase p.srcEp.toNat })) := by
  change execNoticeAck p s = _
  unfold execNoticeAck
  rw [if_neg (not_not.2 hcrc)]
  dsimp only
  split
  · next h => cases h.symm.trans hfor
  · next a' h =>
    obtain rfl : a' = a := Option.some.inj (h.symm.trans hfor)
    exact if_pos (by simpa using hmore)

end

/-- A packet that stays in the module needs no stamp. -/
theorem stamp_inside (s : State) {p : Packet} (h : p.dstMod = 0xFF) : s.stamp p = p := if_pos h

/-! ### The statement -/

/-- Settles O30: responses and acknowledgements are `exec_readResp` and `exec_wrAck`, pieces `addArrive_inTurn` and `addArrive_ahead`, notices `exec_noticeAck_last`
and `exec_noticeAck_more`. -/
theorem answers : Obligations.Answers := by
  unfold Obligations.Answers
  intro s p hcrc
  refine ⟨fun r hc hkept hw hq hpend htag => ?_, fun e hc hkept hhead hacks hw hq hfault => ?_, fun hc hpeer hstat hpads hok hmode hret => ⟨fun hseq => ?_, fun hseq hroom => ?_⟩,
    fun a hfor => ⟨fun hlast => ?_, fun hmore => ?_⟩⟩
  · refine ⟨_, exec_readResp hcrc hc hkept hw hq, rfl, rfl, dropKept_keptOf .., ?_⟩
    rw [updSt_st, dropKept_cl, hpend, List.map_singleton, if_pos htag]
    rfl
  · refine ⟨_, exec_wrAck hcrc hc hkept hhead hacks hw hq hfault, rfl, rfl, dropKept_keptOf_nil (dropKept_keptOf ..) .., ?_⟩
    exact updWb_headWb_of (f := fun e => { e with acks := e.acks - 1, flags := e.flags ||| BitVec.ofNat 8 p.msg.toNat }) hhead (headWb_ahead hhead :)
  · refine ⟨_, exec_addPiece hcrc hc hpeer hstat hpads hret, (s.woken p.dstEp.toNat).turned p.dstEp.toNat p, fun k => ?_, woken_mem .., ?_⟩
    · rw [turned_addNext, woken_st]
    · exact addArrive_inTurn (woken_addRefusal.trans hok) hmode (by rw [State.turn, woken_st]; exact hseq)
  · refine ⟨_, exec_addPiece hcrc hc hpeer hstat hpads hret, ?_⟩
    rw [addArrive_ahead (woken_addRefusal.trans hok) hmode (by rw [State.turn, woken_st]; exact hseq) (by rw [woken_st]; exact hroom)]
    exact ⟨onlyCluster_updSt .., by rw [updSt_st, woken_st]⟩
  · refine ⟨_, exec_noticeAck_last hcrc hfor hlast, ?_⟩
    dsimp only
    split
    · next hwho => exact ⟨rfl, rfl, noticeTaken_acks _, fun _ => rfl, fun h => absurd h hwho⟩
    · next hwho =>
      refine ⟨rfl, rfl, (noticeTaken_acks (·.erase a) :), fun h => absurd h hwho, fun _ hmod => ?_⟩
      rw [stamp_inside _ hmod, hmod]
      rfl
  · refine ⟨_, exec_noticeAck_more hcrc hfor hmore, rfl, rfl, rfl, ?_⟩
    rw [noticeTaken_acks]
    exact mem_mapFirst hfor

end Sys2Proof.Machine
end

section
/-! SUPPORT. The power states S0, S2 and S3 (R100, R102, R435, R437 to R441, R504): requests, the entry to S2 with its windows, the wake, the entry to S3, and the
statement about them. -/

namespace Sys2Proof.Machine

/-! ### Tables -/

section
variable {α : Type}

/-- What a put leaves in a table, by key. -/
theorem tab_mem_put_key [DecidableEq α] {t : Tab α} {d : α} {k : Nat} {v : α} {e : Nat × α} (h : e ∈ Tab.put t d k v) : (e ∈ t ∧ e.1 ≠ k) ∨ e = (k, v) := by
  rcases List.mem_append.1 h with h | h
  · obtain ⟨he, hk⟩ := List.mem_filter.1 h
    exact .inl ⟨he, Nat.ne_of_lt (by simpa using hk)⟩
  · rcases List.mem_append.1 h with h | h
    · split at h
      · simp at h
      · exact .inr (List.mem_singleton.1 h)
    · obtain ⟨he, hk⟩ := List.mem_filter.1 h
      exact .inl ⟨he, (Nat.ne_of_lt (by simpa using hk)).symm⟩

/-- What holds of the default and of every value listed holds of every value read. -/
theorem tab_look_of_forall {t : Tab α} {d : α} {P : α → Prop} (hd : P d) (h : ∀ e ∈ t, P e.2) (k : Nat) : P (Tab.look t d k) := by
  unfold Tab.look
  split
  · next e he => exact h e (List.mem_of_find?_eq_some he)
  · exact hd

/-- A key that is not listed reads as the default. -/
theorem tab_look_unlisted {t : Tab α} {d : α} {k : Nat} (h : k ∉ t.map (·.1)) : Tab.look t d k = d := by
  have hnone : t.find? (fun e => e.1 == k) = none := by
    rw [List.find?_eq_none]
    intro e he hk
    exact h (List.mem_map.2 ⟨e, he, by simpa using hk⟩)
  rw [Tab.look, hnone]

/-- A value listed after a change of every value comes from that change. -/
theorem tab_mem_mapV [DecidableEq α] {t : Tab α} {d : α} {f : α → α} {e : Nat × α} (h : e ∈ Tab.mapV t d f) : ∃ x ∈ t, e = (x.1, f x.2) := by
  obtain ⟨x, hx, rfl⟩ := List.mem_map.1 (List.mem_filter.1 h).1
  exact ⟨x, hx, rfl⟩

end

/-! ### Requests (R438, R504) -/

section
variable {s : State}

/-- The power state with a request made. -/
def State.requested (s : State) (st : PState) (req asked : Nat) : State := { s with power := { s.power with st := st, req := req, asked := asked } }

theorem waitsReq_eq {st : PState} (h : s.power.st = st) (n : Nat) : s.waitsReq n = s.requested st n n := by subst h; rfl

theorem requestS2_l2 (h : s.power.st = .s0) (hb : s.boot.stage = .l2) : s.requestS2 = s.requested .enterS2 0 2 := by
  simp only [State.requestS2, h, hb, if_true]
  rfl

theorem requestS2_l1 (h : s.power.st = .s0) (hb : s.boot.stage = .l1) : s.requestS2 = s.requested .s0 2 2 := by
  simp [State.requestS2, h, hb, waitsReq_eq h]

theorem requestS2_early (h : s.power.st = .s0) (h1 : s.boot.stage ≠ .l1) (h2 : s.boot.stage ≠ .l2) : s.requestS2 = s := by
  simp [State.requestS2, h, h1, h2]

/-- While an entry to S2 or a wake is under way, every request waits. -/
theorem requests_wait (h : s.power.st = .enterS2 ∨ s.power.st = .wake) :
    s.requestS2 = s.requested s.power.st 2 2 ∧ s.requestWake = s.requested s.power.st 1 1 ∧ s.requestS3 = s.requested s.power.st 3 3 := by
  rcases h with h | h <;> simp [State.requestS2, State.requestWake, State.requestS3, h, waitsReq_eq h]

theorem requestWake_s2 (h : s.power.st = .s2) : s.requestWake = s.requested .wake 0 1 := by
  simp only [State.requestWake, h]
  rfl

theorem requestS3_granted (h : s.power.st = .s0 ∨ s.power.st = .s2) (hok : s.atL1 = false ∨ s.quiet = true) : s.requestS3 = s.enterS3.asks 3 := by
  have hgo : s.s3Refused = false := by
    rcases hok with hok | hok <;> simp [State.s3Refused, hok]
  rcases h with h | h <;> simp [State.requestS3, h, hgo]

theorem requestS3_refused (h : s.power.st = .s0 ∨ s.power.st = .s2) (hl1 : s.atL1 = true) (hq : s.quiet = false) : s.requestS3 = s := by
  have hno : s.s3Refused = true := by
    rcases h with h | h <;> simp [State.s3Refused, h, hl1, hq]
  rcases h with h | h <;> simp [State.requestS3, h, hno]

theorem onlyPower_refl : OnlyPower s s := ⟨s.power, rfl⟩

theorem onlyPower_requestS2 : OnlyPower s s.requestS2 := by
  unfold State.requestS2
  split
  · split
    · exact ⟨_, rfl⟩
    · split
      · exact ⟨_, rfl⟩
      · exact onlyPower_refl
  · exact ⟨_, rfl⟩
  · exact ⟨_, rfl⟩
  · exact ⟨_, rfl⟩
  · exact onlyPower_refl

theorem onlyPower_requestWake : OnlyPower s s.requestWake := by
  unfold State.requestWake
  split
  · exact ⟨_, rfl⟩
  · exact ⟨_, rfl⟩
  · exact ⟨_, rfl⟩
  · exact ⟨_, rfl⟩
  · exact onlyPower_refl

theorem onlyPower_requestS3 : OnlyPower s s.requestS3 := by
  unfold State.requestS3
  split
  · split
    · exact onlyPower_refl
    · exact ⟨_, rfl⟩
  · split
    · exact onlyPower_refl
    · exact ⟨_, rfl⟩
  · exact ⟨_, rfl⟩
  · exact ⟨_, rfl⟩
  · exact onlyPower_refl

/-- A request that has waited changes the power state alone. -/
theorem onlyPower_nextReq : OnlyPower s s.nextReq := by
  unfold State.nextReq
  dsimp only
  split
  · exact onlyPower_requestWake
  · exact onlyPower_requestS2
  · exact onlyPower_requestS3
  · exact ⟨_, rfl⟩

theorem nextReq_none (h : s.power.req = 0) : s.nextReq.power.st = s.power.st := by simp [State.nextReq, h]

theorem nextReq_wake (h : s.power.req = 1) : s.nextReq = State.requestWake { s with power := { s.power with req := 0 } } := by simp [State.nextReq, h]

theorem nextReq_s2 (h : s.power.req = 2) : s.nextReq = State.requestS2 { s with power := { s.power with req := 0 } } := by simp [State.nextReq, h]

end

/-! ### Windows at the entry to S2 (R100, R102) -/

/-- A window that starts to close and, with no grant outstanding, has closed. -/
def Win.shut (w : Win) : Win := w.close.settleClose

theorem shut_closed {w : Win} (h : w.granules = []) : w.shut.enable = false := by
  unfold Win.shut Win.close Win.settleClose
  by_cases he : w.enable
  · simp [he, h]
  · by_cases hc : w.closing <;> simp [he, hc, h]

theorem shut_granules (w : Win) : w.shut.granules = w.granules := by
  unfold Win.shut Win.close Win.settleClose
  split <;> split <;> rfl

/-- With a grant outstanding it goes on closing. -/
theorem shut_lent {w : Win} (he : w.enable = true) (hg : w.granules ≠ []) : w.shut = { w with closing := true } := by
  simp [Win.shut, Win.close, Win.settleClose, he, hg]

/-- A cluster whose windows close, and whose queue of requests is refused. -/
def Cluster.shut (cl : Cluster) : Cluster := { cl with wins := cl.wins.map fun e => (e.1, e.2.shut), tokQ := [] }

/-- The windows of one cluster close at the entry to S2. -/
def State.closeOne (s : State) (c : Nat) : State :=
  (s.closeWindows c).updCl c fun cl => { cl with wins := cl.wins.map fun (e : Nat × Win) => (e.1, e.2.settleClose) }

theorem closeAll_eq (s : State) : s.closeAll = (s.clusters.map (·.1)).foldl State.closeOne s := rfl

section
variable {s : State}

theorem refuseQueued_power (c : Nat) (f : Nat → Bool) : (s.refuseQueued c f).power = s.power :=
  (foldl_same (P := State.power) (by intros; rfl) _ _).trans rfl

theorem closeOne_clusters (c : Nat) : (s.closeOne c).clusters = Tab.put s.clusters {} c (s.cl c).shut := by
  have hclose : (s.closeWindows c).clusters = Tab.put s.clusters {} c ((s.closeWindows c).cl c) := by
    rw [closeWindows_cl, State.closeWindows, refuseQueued_clusters, updCl_updCl]
    simp [State.updCl]
  rw [State.closeOne, State.updCl, closeWindows_cl]
  dsimp only
  rw [hclose, tab_put_put]
  congr 1
  simp [Cluster.shut, Win.shut]

theorem closeOne_win (k c w : Nat) : (s.closeOne k).win c w = if c = k then (s.win c w).shut else s.win c w := by
  rw [State.win, State.cl, closeOne_clusters]
  by_cases h : c = k
  · subst h
    rw [if_pos rfl, tab_look_put_same]
    exact tab_look_map _ rfl w
  · rw [if_neg h, tab_look_put_ne _ _ _ _ h]
    rfl

theorem closeAll_mem : s.closeAll.mem = s.mem := foldl_same (P := State.mem) (f := State.closeOne) (fun _ _ => closeWindows_mem ..) _ _
theorem closeAll_parts : s.closeAll.parts = s.parts := foldl_same (P := State.parts) (f := State.closeOne) (fun _ _ => closeWindows_parts ..) _ _
theorem closeAll_power : s.closeAll.power = s.power := foldl_same (P := State.power) (f := State.closeOne) (fun _ _ => refuseQueued_power ..) _ _

/-- No grant is outstanding in any window. -/
def State.NoGrants (s : State) : Prop := ∀ e ∈ s.clusters, ∀ w ∈ e.2.wins, w.2.granules = []

/-- A cluster's windows without outstanding grants have closed, and none is outstanding then. -/
theorem cluster_shut_closed {cl : Cluster} (h : ∀ w ∈ cl.wins, w.2.granules = []) : cl.shut.winsClosed = true ∧ ∀ w ∈ cl.shut.wins, w.2.granules = [] := by
  constructor
  · simp only [Cluster.winsClosed, Cluster.shut, List.all_map, List.all_eq_true]
    intro w hw
    simp [shut_closed (h w hw)]
  · intro w hw
    obtain ⟨x, hx, rfl⟩ := List.mem_map.1 hw
    exact (shut_granules x.2).trans (h x hx)

/-- Closing cluster after cluster, every window ends closed where no grant is outstanding. -/
theorem foldl_closeOne_closed (ks : List Nat) : ∀ s : State, s.NoGrants → (∀ e ∈ s.clusters, e.1 ∈ ks ∨ e.2.winsClosed = true) →
    ∀ e ∈ (ks.foldl State.closeOne s).clusters, e.2.winsClosed = true := by
  induction ks with
  | nil => exact fun s _ h e he => (h e he).resolve_left (by simp)
  | cons k ks ih =>
    intro s hgrants h
    obtain ⟨hclosed, hnone⟩ := cluster_shut_closed (tab_look_of_forall (d := ({} : Cluster))
      (P := fun cl : Cluster => ∀ w ∈ cl.wins, w.2.granules = []) (by simp) hgrants k)
    refine ih _ (fun e he => ?_) fun e he => ?_
    · rw [closeOne_clusters] at he
      rcases tab_mem_put_key he with ⟨he, -⟩ | rfl
      · exact hgrants e he
      · exact hnone
    · rw [closeOne_clusters] at he
      rcases tab_mem_put_key he with ⟨he, hk⟩ | rfl
      · exact (h e he).imp_left fun hin => (List.mem_cons.1 hin).resolve_left hk
      · exact .inr hclosed

theorem closeAll_closed (h : s.NoGrants) : s.closeAll.clusters.all (fun e => e.2.winsClosed) = true :=
  List.all_eq_true.2 (foldl_closeOne_closed _ s h fun _ he => .inl (List.mem_map_of_mem he))

/-- A window with a grant outstanding is closing once its cluster's turn has come. -/
theorem foldl_closeOne_win {c w : Nat} (ks : List Nat) : ∀ s : State, (s.win c w).enable = true → (s.win c w).granules ≠ [] →
    (ks.foldl State.closeOne s).win c w = if c ∈ ks then { s.win c w with closing := true } else s.win c w := by
  induction ks with
  | nil => exact fun s _ _ => by simp
  | cons k ks ih =>
    intro s he hg
    by_cases hk : c = k
    · have hwin : (s.closeOne k).win c w = { s.win c w with closing := true } := by rw [closeOne_win, if_pos hk, shut_lent he hg]
      rw [List.foldl_cons, ih _ (by rw [hwin]; exact he) (by rw [hwin]; exact hg), hwin]
      simp [hk]
    · have hwin : (s.closeOne k).win c w = s.win c w := by rw [closeOne_win, if_neg hk]
      rw [List.foldl_cons, ih _ (by rwa [hwin]) (by rwa [hwin]), hwin]
      simp [hk]

/-- Only a listed cluster has an open window. -/
theorem listed_of_enable {c w : Nat} (h : (s.win c w).enable = true) : c ∈ s.clusters.map (·.1) := by
  by_contra hc
  rw [State.win, State.cl, tab_look_unlisted hc] at h
  exact Bool.false_ne_true h

/-- Where every window is closed, none is open. -/
theorem enable_of_allClosed (h : s.clusters.all (fun e => e.2.winsClosed) = true) (c w : Nat) : (s.win c w).enable = false := by
  have hcl : (s.cl c).winsClosed = true := tab_look_of_forall (P := fun cl : Cluster => cl.winsClosed = true) rfl (List.all_eq_true.1 h) c
  exact tab_look_of_forall (P := fun x : Win => x.enable = false) rfl (by simpa [Cluster.winsClosed] using hcl) w

/-- A window with a grant outstanding keeps the module from S2 and is closing. -/
theorem closeAll_lent {c w : Nat} (he : (s.win c w).enable = true) (hg : (s.win c w).granules ≠ []) :
    (s.closeAll.win c w).closing = true ∧ (s.closeAll.win c w).enable = true ∧ s.closeAll.clusters.all (fun e => e.2.winsClosed) = false := by
  have hwin : s.closeAll.win c w = { s.win c w with closing := true } := by
    rw [closeAll_eq, foldl_closeOne_win _ s he hg, if_pos (listed_of_enable he)]
  refine ⟨by rw [hwin], by rw [hwin]; exact he, Bool.eq_false_iff.2 fun hall => ?_⟩
  have hshut := enable_of_allClosed hall c w
  rw [hwin] at hshut
  exact Bool.false_ne_true (hshut.symm.trans he)

end

/-! ### S2 and the wake (R102, R438, R440, R441) -/

/-- The windows closed and every coalescing buffer written back. -/
def State.allOut (s : State) : State := (s.closeAll.clusters.map (·.1)).foldl (fun t c => t.coalOut c fun _ => true) s.closeAll

/-- What a cluster keeps in S2. -/
def Cluster.asleep (cl : Cluster) : Cluster := { cl with coal := [], wins := [], pll := false }

/-- The module in S2, before a request that has waited. -/
def State.asleep (s : State) : State :=
  { State.flushHubs { s.allOut with clusters := Tab.mapV s.allOut.clusters {} Cluster.asleep } with power := { s.power with st := .s2 } }

/-- What a wake leaves of a cluster. -/
def Cluster.cleared (cl : Cluster) : Cluster :=
  { cl with st := {}, wins := [], dc := [], core := {}, watches := [], tlb := [], promoted := [], pll := false }

/-- The module after its wake, before a request that has waited. -/
def State.awake (s : State) : State :=
  { s.scrubAll with power := { s.power with st := .s0 }, clusters := Tab.mapV s.scrubAll.clusters {} Cluster.cleared }

section
variable {s : State}

theorem exec_s2Entry_waits (h : s.power.st = .enterS2) (hrun : s.anyRunning = false) (hset : s.dict.set.st = 0)
    (hopen : s.closeAll.clusters.all (fun e => e.2.winsClosed) = false) : exec .s2Entry s = .next s.closeAll := by
  change execS2Entry s = _
  simp only [execS2Entry, h, hrun, hset, hopen]
  rfl

theorem exec_s2Entry_enters (h : s.power.st = .enterS2) (hrun : s.anyRunning = false) (hset : s.dict.set.st = 0)
    (hshut : s.closeAll.clusters.all (fun e => e.2.winsClosed) = true) : exec .s2Entry s = .next s.asleep.nextReq := by
  change execS2Entry s = _
  simp only [execS2Entry, h, hrun, hset, hshut]
  rfl

theorem allOut_mem : s.allOut.mem = s.mem := (foldl_same (P := State.mem) (fun _ _ => coalOut_mem ..) _ _).trans closeAll_mem
theorem allOut_parts : s.allOut.parts = s.parts := (foldl_same (P := State.parts) (fun _ _ => coalOut_parts ..) _ _).trans closeAll_parts

theorem exec_wakeDone (h : s.power.st = .wake) : exec .wakeDone s = .next s.awake.nextReq := if_pos h

/-- One word that the scrub of the wake corrects. -/
def State.scrubWord (s : State) (w : Nat) : State := { s.resolveWord w with upset := Tab.put (s.resolveWord w).upset 0 w 0 }

theorem scrubAll_eq : s.scrubAll = ((s.upset.map (·.1)).filter fun w => (padCluster (8 * w)).isSome).foldl State.scrubWord s := rfl

theorem calm_scrubAll : Calm s s.scrubAll := by
  rw [scrubAll_eq]
  exact calm_foldl (fun s w => calm_trans (calm_resolveWord s w) (calm_mk _ ..)) _ s

theorem scrubAll_mem : s.scrubAll.mem = s.mem := by
  rw [scrubAll_eq]
  exact foldl_same (P := State.mem) (f := State.scrubWord) (fun _ _ => resolveWord_mem ..) _ s

theorem scrubAll_parts : s.scrubAll.parts = s.parts := by
  rw [scrubAll_eq]
  exact foldl_same (P := State.parts) (f := State.scrubWord) (fun _ _ => resolveWord_parts ..) _ s

theorem scrubAll_stage : s.scrubAll.boot.stage = s.boot.stage := by simpa using congrArg Bring.stage calm_scrubAll.boot

/-! ### S3 (R437, R517) -/

/-- What the panel shows is no part of what it is drawn from. -/
theorem panel_shown (bs : List Byte) : State.panel { s with plate := { s.plate with shown := bs } } = s.panel := rfl

theorem redraw_shown : s.redraw.plate.shown = s.redraw.panel := (panel_shown _).symm

/-- A partition keeps in S3 whether its counts run (R435). -/
theorem toS3_pt (p : Nat) : (s.toS3.pt p).entries = [] ∧ (s.toS3.pt p).regs = {} ∧ (s.toS3.pt p).blk = none := by
  refine tab_look_of_forall (P := fun x : Part => x.entries = [] ∧ x.regs = {} ∧ x.blk = none) ⟨rfl, rfl, rfl⟩ (fun e he => ?_) p
  obtain ⟨x, -, rfl⟩ := tab_mem_mapV (t := s.parts.filter fun e => e.2.counted) (d := {}) (f := fun _ => { counted := true }) he
  exact ⟨rfl, rfl, rfl⟩

/-- What memory keeps in S3 lies in the CXL tier. -/
theorem toS3_mem {e : Nat × Byte} (h : e ∈ s.toS3.mem) : 0x100000000000 ≤ e.1 := by simpa using (List.mem_filter.1 h).2

theorem exec_toS3 (h : s.power.st = .enterS3) {i : Instr} (hi : i ∈ [Instr.s3Ok, .s3GraceExpiry]) : exec i s = .next s.toS3 := by
  simp only [List.mem_cons, List.not_mem_nil, or_false] at hi
  rcases hi with rfl | rfl
  · exact if_pos h
  · exact if_pos h

end

/-! ### The statement -/

/-- Settles O53: requests by their equations, the entry to S2 by `closeAll_closed` and `closeAll_lent`, the wake by `exec_wakeDone`, S3 by `exec_toS3`. -/
theorem powerStates : Obligations.PowerStates := by
  unfold Obligations.PowerStates
  intro s set
  refine ⟨fun h hb => ⟨_, rfl, requestS2_l2 h hb⟩, fun h hb => ⟨_, rfl, requestS2_l1 h hb⟩, fun h h1 h2 => congrArg Host.Outcome.next (requestS2_early h h1 h2), fun h => ?_,
    fun h hrun hset => ⟨fun hgrants => ?_, fun c w he hg => ?_⟩, fun h => ⟨_, rfl, requestWake_s2 h⟩, fun h hauto => ?_, fun h => ?_,
    fun h hok => ⟨_, rfl, requestS3_granted h hok⟩, fun h hl1 hq => congrArg Host.Outcome.next (requestS3_refused h hl1 hq), fun h i hi => ?_⟩
  · obtain ⟨h2, h1, h3⟩ := requests_wait h
    exact ⟨⟨_, rfl, h2⟩, ⟨_, rfl, h1⟩, ⟨_, rfl, h3⟩⟩
  · obtain ⟨pw, hpw⟩ := onlyPower_nextReq (s := s.asleep)
    refine ⟨_, exec_s2Entry_enters h hrun hset (closeAll_closed hgrants), ?_, ?_, fun hreq => ?_, fun hreq => ?_, fun e he => ?_, fun e he => ?_⟩
    · rw [hpw]; exact allOut_mem
    · rw [hpw]; exact allOut_parts
    · rcases hreq with hreq | hreq
      · exact nextReq_none (s := s.asleep) hreq
      · rw [nextReq_s2 (s := s.asleep) hreq]; rfl
    · rw [nextReq_wake (s := s.asleep) hreq]; rfl
    · rw [hpw] at he
      obtain ⟨x, -, rfl⟩ := tab_mem_mapV (show e ∈ Tab.mapV s.allOut.clusters {} Cluster.asleep from he)
      exact ⟨rfl, rfl, rfl⟩
    · rw [hpw] at he
      obtain ⟨x, -, rfl⟩ := tab_mem_mapV (show e ∈ Tab.mapV s.allOut.hubs {} fun h => { h with sets := [] } from he)
      rfl
  · obtain ⟨hclosing, henable, hopen⟩ := closeAll_lent he hg
    exact ⟨_, exec_s2Entry_waits h hrun hset hopen, closeAll_power, closeAll_mem, closeAll_parts, hclosing, henable⟩
  · intro run ready
    exact ⟨fun hready => ⟨_, if_pos ⟨h, hauto, hready⟩, rfl⟩, fun hready => if_neg fun hc => Bool.false_ne_true (hready.symm.trans hc.2.2)⟩
  · obtain ⟨pw, hpw⟩ := onlyPower_nextReq (s := s.awake)
    refine ⟨_, exec_wakeDone h, fun hreq => ?_, fun hreq hb => ?_, ?_, ?_, fun e he => ?_⟩
    · rcases hreq with hreq | hreq
      · exact nextReq_none (s := s.awake) hreq
      · rw [nextReq_wake (s := s.awake) hreq]; rfl
    · exact congrArg (·.power.st) ((nextReq_s2 (s := s.awake) hreq).trans (requestS2_l2 rfl (scrubAll_stage.trans hb)))
    · rw [hpw]; exact scrubAll_mem
    · rw [hpw]; exact scrubAll_parts
    · rw [hpw] at he
      obtain ⟨x, -, rfl⟩ := tab_mem_mapV (show e ∈ Tab.mapV s.scrubAll.clusters {} Cluster.cleared from he)
      exact ⟨rfl, rfl, rfl, rfl, rfl, rfl, rfl⟩
  · exact ⟨_, exec_toS3 h hi, rfl, redraw_shown, rfl, toS3_pt, rfl, rfl, fun _ => toS3_mem⟩

end Sys2Proof.Machine
end

section
/-! SUPPORT. The blocks that the control core loads into slots (R118, R157, R185), and the statement about them. -/

namespace Sys2Proof.Machine

/-- A block as its slot keeps it: one of zeros alone is an empty slot. -/
def slotBlock (bs : List Byte) : List Byte := if bs.all (· == 0) then [] else bs

section
variable {s : State} {c va len st : Nat} {busy : WbEntry → Bool} {ok : List Byte → Bool} {put : List Byte → Stations → Stations}

theorem loadSlot_misaligned (h : va % 64 ≠ 0) : s.loadSlot c va len busy st ok put = s.failCore c stTimetable := if_pos h

/-- A block that reads clean and passes its check changes memory in nothing, enters its slot, and pc moves on. -/
theorem loadSlot_clean {ps : List Piece} (halign : va % 64 = 0) (hfree : (s.siding c st).any busy = false) (hxl : s.xl (s.ctxOf c) false va len = .ok ps)
    (hmarks : (s.gotPieces ps 0).marks = []) (hbad : (s.gotPieces ps 0).bad = []) (hok : ok (s.gotPieces ps 0).bytes = true) :
    let t := s.loadSlot c va len busy st ok put
    t.mem = s.mem ∧ (t.cl c).core.pc = (s.cl c).core.pc + 4 ∧ (t.cl c).st = put (slotBlock (s.gotPieces ps 0).bytes) (s.cl c).st := by
  obtain ⟨a, hjob, hwrites⟩ : ∃ a, Job.exec (readVa s (s.ctxOf c) va len) = (.ok (s.gotPieces ps 0).bytes, a) ∧ a.writes = [] :=
    ⟨_, jobFrom_readVa_ok hxl hmarks hbad, rfl⟩
  have hcalm : Calm s (s.settle a) := calm_settle ..
  have hload : s.loadSlot c va len busy st ok put = ((s.settle a).updSt c (put (slotBlock (s.gotPieces ps 0).bytes))).pcStep c 4 := by
    simp [State.loadSlot, halign, hfree, hjob, waits, hok, slotBlock]
  simp only [hload, pcStep_mem, updSt_mem, settle_mem_none s a _ hwrites, pcStep_core, updSt_core, calm_core hcalm, pcStep_st, updSt_st, calm_st hcalm, and_self]

end

/-- Settles O17: on the state that the fetch leaves, an aligned block is `loadSlot_clean`, and its slot reads as what was put in it. -/
theorem slots : Obligations.Slots := by
  unfold Obligations.Slots
  intro s u c ra ps hlive hf va loads
  have key : ∀ (i : Instr) (len st : Nat) (busy : WbEntry → Bool) (ok : List Byte → Bool) (slot : State → List Byte) (put : List Byte → Stations → Stations),
      exec i s = s.onCore c (fun s => s.loadSlot c (s.reg c ra).toNat len busy st ok put) →
      (∀ (t : State) (b : List Byte) (x : Stations), (t.cl c).st = put b x → slot t = b) → loads i len st busy ok slot := by
    intro i len st busy ok slot put hexec hslot
    rw [onCore_live hlive hf] at hexec
    refine ⟨fun halign hfree hxl hmarks hbad hok => ⟨_, hexec, ?_⟩, fun h => hexec.trans (congrArg _ (loadSlot_misaligned h))⟩
    obtain ⟨hmem, hpc, hst⟩ := loadSlot_clean (put := put) halign hfree hxl hmarks hbad hok
    exact ⟨hmem, hpc, hslot _ _ _ hst⟩
  clear_value loads
  refine ⟨fun d => key _ _ _ _ _ _ _ rfl ?_, fun d => key _ _ _ _ _ _ _ rfl ?_, fun d => key _ _ _ _ _ _ _ rfl ?_⟩
  all_goals
    intro t b x hst
    rw [hst, tab_look_put_same]

end Sys2Proof.Machine
end

section
/-! SUPPORT. The stations at work on one tile (R43, R52, R72, R128, R280): what a station does with the waybill at work for each outcome of its tile's
move, and the statement about the operations of the Matrix and Sparse Stations, the Turntable and the access engines. -/

namespace Sys2Proof.Machine

/-- What the next tile of the waybill at work comes to, worked on what overlapping ranges then hold (R52). -/
def State.nextMove (s : State) (c : Nat) (f : State → WbEntry → Move) (e : WbEntry) : Move :=
  (f s e).overlap e ((s.besides c e).flatMap (·.dsts)) fun o => f (s.scrambleAll o) e

/-- What stands once a tile has moved `s` to `t` and its waybill from `e` to `e'`: what it wrote is undefined where it clashes (R52), and all of it where
an operand or the owner table has changed (R128, R280). -/
def State.tileStands (s t : State) (c : Nat) (e e' : WbEntry) : State :=
  let new := e'.dsts.drop e.dsts.length
  let w := t.clash new e'.srcs (s.besides c e)
  if (s.changed e).isEmpty then w else w.scrambleAll new

section
variable {s t : State} {c st chan total fuel : Nat} {f : State → WbEntry → Move} {e e' : WbEntry}

/-- What undefined bytes leave, a tile's standing leaves. -/
theorem tileStands_same {β : Type} {P : State → β} (hP : ∀ s pa n, P (State.scramble s pa n) = P s) : P (s.tileStands t c e e') = P t := by
  unfold State.tileStands State.clash
  dsimp only
  split
  · exact scrambleAll_same hP _ _
  · exact (scrambleAll_same hP _ _).trans (scrambleAll_same hP _ _)

theorem tileStands_parts : (s.tileStands t c e e').parts = t.parts := tileStands_same fun _ _ _ => rfl
theorem tileStands_out : (s.tileStands t c e e').out = t.out := tileStands_same fun _ _ _ => rfl
theorem tileStands_headWb : (s.tileStands t c e e').headWb c st chan = t.headWb c st chan := tileStands_same (P := fun s => s.headWb c st chan) fun _ _ _ => rfl

theorem runningWb_of_headWb (h : s.headWb c st chan = some e) (hphase : e.phase = .running) : s.runningWb c st chan = some e := by
  simp [State.runningWb, h, hphase]

/-- A waybill that is still to be worked at stays so while it runs: its channel is its descriptor's (R114, R226). -/
theorem ahead_of_running (h : WbEntry.ahead st chan e = true) (hwb : e'.wb = e.wb) (hphase : e'.phase = .running) : WbEntry.ahead st chan e' = true := by
  unfold WbEntry.ahead WbEntry.onChan at h ⊢
  rw [hwb, hphase]
  simp only [Bool.and_eq_true] at h
  simp [h.1]

/-! ### One tile of a station's work -/

section
variable (hat : s.runningWb c st chan = some e)

include hat

theorem runTiles_end (hdone : total ≤ e.next) :
    s.runTiles c st chan total f (fuel + 1) = s.updWb c st chan fun e => { e with phase := .written } := by
  simp only [State.runTiles, hat, if_pos hdone]

variable (hleft : e.next < total)

include hleft

theorem runTiles_stall (hm : s.nextMove c f e = .stall) : s.runTiles c st chan total f (fuel + 1) = s := by
  unfold State.nextMove at hm
  simp only [State.runTiles, hat, if_neg (Nat.not_le.2 hleft), hm]

theorem runTiles_paused (hm : s.nextMove c f e = .paused t) : s.runTiles c st chan total f (fuel + 1) = t := by
  unfold State.nextMove at hm
  simp only [State.runTiles, hat, if_neg (Nat.not_le.2 hleft), hm]

theorem runTiles_failed {status : Byte} {i j : Nat} (hm : s.nextMove c f e = .failed t status i j) :
    s.runTiles c st chan total f (fuel + 1) = t.failWb c st e status i j := by
  unfold State.nextMove at hm
  simp only [State.runTiles, hat, if_neg (Nat.not_le.2 hleft), hm]

theorem runTiles_moved (hm : s.nextMove c f e = .moved t e') : s.runTiles c st chan total f (fuel + 1) =
    ((s.tileStands t c e e').updWb c st chan fun _ => { e' with next := e.next + 1 }).runTiles c st chan total f fuel := by
  unfold State.nextMove at hm
  simp only [State.runTiles, hat, if_neg (Nat.not_le.2 hleft), hm, State.tileStands]

end

/-- The last tile's move brings the waybill to written, and nothing changes after it but the waybill. -/
theorem runTiles_last (hat : s.runningWb c st chan = some e) (hlast : e.next + 1 = total) (hm : s.nextMove c f e = .moved t e')
    (ht : t.runningWb c st chan = some e) (hwb : e'.wb = e.wb) (hphase : e'.phase = .running) :
    let u := s.runTiles c st chan total f (fuel + 2)
    OnlyCluster (s.tileStands t c e e') u c ∧ { e' with next := e.next + 1, phase := .written } ∈ u.siding c st := by
  have hhead : (s.tileStands t c e e').headWb c st chan = some e := tileStands_headWb.trans (runningWb_eq ht).1
  have hahead : WbEntry.ahead st chan { e' with next := e.next + 1 } = true := ahead_of_running (headWb_ahead hhead) hwb hphase
  have hhead' := updWb_headWb_of (f := fun _ => { e' with next := e.next + 1 }) hhead hahead
  rw [runTiles_moved hat (by omega) hm, runTiles_end (runningWb_of_headWb hhead' hphase) hlast.ge]
  exact ⟨onlyCluster_trans (onlyCluster_updWb ..) (onlyCluster_updWb ..), updWb_mem_siding _ _ _ _ _ hhead'⟩

end

/-! ### A station's operation -/

section
variable {s : State} {c st chan : Nat} {isOp : WbEntry → Bool} {total : WbEntry → Nat} {f : XCtx → State → WbEntry → Move}

/-- A station that no event holds works through the tiles of the waybill at work whose operation it is. -/
theorem work_runTiles {e : WbEntry} {r : Run} (hat : s.runningWb c st chan = some e) (hrun : (s.cl c).run = some r) (hstop : r.stopped = false)
    (hop : isOp e = true) (hheld : s.eventHeld c st = false) :
    s.work c st chan isOp total f = s.runTiles c st chan (total e) (f (r.ctx c)) (total e - e.next + 2) := by
  simp [State.work, hat, hrun, hop, hstop, hheld]

/-- What a station's work does with one tile, by the outcome of the tile's move. -/
theorem tileWork_of_work {i : Instr} (hexec : exec i s = .next (s.work c st chan isOp total f)) : TileWork i s c st chan isOp total f := by
  intro e r hat hrun hstop hop hleft hheld m
  rw [work_runTiles hat hrun hstop hop hheld] at hexec
  refine ⟨fun t e' hlast hm ht hwb hphase => ⟨_, hexec, ?_⟩, fun hm => ?_, fun t hm => ?_, fun t status x y hm => ?_⟩
  · obtain ⟨⟨cl, hu⟩, hin⟩ := runTiles_last (fuel := total e - e.next) hat hlast hm ht hwb hphase
    refine ⟨?_, ?_, ?_, hin⟩
    · rw [hu]; rfl
    · rw [hu]; exact tileStands_parts
    · rw [hu]; exact tileStands_out
  · rw [hexec, runTiles_stall hat hleft hm]
  · rw [hexec, runTiles_paused hat hleft hm]
  · rw [hexec, runTiles_failed hat hleft hm]

end

/-- Settles O23: every one of these operations is its station's `work`, and `tileWork_of_work` says what that does with a tile. -/
theorem stationTiles : Obligations.StationTiles := by
  unfold Obligations.StationTiles
  intro s c
  refine ⟨?_, ?_, ?_, ?_, ?_, ?_, ?_, ?_, ?_, ?_, ?_, ?_, ?_, ?_, ?_, ?_, ?_, ?_, fun chan => ⟨?_, ?_, ?_, ?_, ?_⟩⟩
  all_goals exact tileWork_of_work rfl

end Sys2Proof.Machine
end

section
/-! SUPPORT. PHASE, SNAPSHOT and MASK_UPDATE with its flip (R165, R175, R376, R393 to R395): what the start of a consignment leaves, what each of the
four does with a consignment that it finds in order, and the statement about them. -/

namespace Sys2Proof.Machine

/-! ### A consignment starts (R384) -/

/-- An open entry after an update of it that keeps its number. -/
theorem entry_updEntry_some {s : State} {p q : Nat} {e : Entry} {f : Entry → Entry} (hf : ∀ x, (f x).seq = x.seq) (hx : s.entry p q = some e) :
    (s.updEntry p q f).entry p q = some (f e) := by rw [entry_updEntry hf, hx]; rfl

/-- An update of an entry leaves what a partition holds beside its entries. -/
theorem updEntry_pt_same {β : Type} {P : Part → β} (hP : ∀ pt l, P { pt with entries := l } = P pt) (s : State) (p q : Nat) (f : Entry → Entry) :
    P ((s.updEntry p q f).pt p) = P (s.pt p) := (congrArg P (updPt_pt_same ..)).trans (hP ..)

section
variable (s : State) (p : Nat) (e : Entry) (spec : Bool) (view : Nat)

/-- An entry as its start makes it RUNNING. -/
def State.started (x : Entry) : Entry :=
  { x with st := .running, geo := (s.pt p).geo, latched := true, spec := spec, spent := [], views := s.epochs.set p view, ended := [], todo := [], fails := [],
           begun := [], flags := 0, rerun := false, done := false, twice := [] }

theorem enterRun_parts : (s.enterRun p e spec view).parts = (s.updEntry p e.seq (s.started p spec view)).parts := by unfold State.enterRun; dsimp only; split <;> rfl
@[simp] theorem enterRun_mem : (s.enterRun p e spec view).mem = s.mem := by unfold State.enterRun; dsimp only; split <;> rfl
@[simp] theorem enterRun_out : (s.enterRun p e spec view).out = s.out := by unfold State.enterRun; dsimp only; split <;> rfl
@[simp] theorem enterRun_clusters : (s.enterRun p e spec view).clusters = s.clusters := by unfold State.enterRun; dsimp only; split <;> rfl
@[simp] theorem enterRun_dies : (s.enterRun p e spec view).dies = s.dies := by unfold State.enterRun; dsimp only; split <;> rfl

theorem enterRun_pt (q : Nat) : (s.enterRun p e spec view).pt q = (s.updEntry p e.seq (s.started p spec view)).pt q := by simp only [State.pt, enterRun_parts]

theorem enterRun_pt_ne {q : Nat} (hq : q ≠ p) : (s.enterRun p e spec view).pt q = s.pt q := (enterRun_pt ..).trans (updPt_pt_ne _ _ _ _ hq)

@[simp] theorem enterRun_epoch : ((s.enterRun p e spec view).pt p).e = (s.pt p).e := by
  rw [enterRun_pt]
  exact updEntry_pt_same (P := Part.e) (fun _ _ => rfl) ..

theorem enterRun_setOf : (s.enterRun p e spec view).setOf p = s.setOf p := by
  rw [State.setOf, enterRun_pt]
  exact updEntry_pt_same (P := fun pt => (pt.blk.map (·.clusters)).getD []) (fun _ _ => rfl) ..

variable {s p e}

theorem enterRun_entry (hx : s.entry p e.seq = some e) : (s.enterRun p e spec view).entry p e.seq = some (s.started p spec view e) :=
  (entry_congr (enterRun_parts ..) _ _).trans (entry_updEntry_some (fun _ => rfl) hx)

/-- A consignment that may start is ACCEPTED. -/
theorem accepted_of_mayStart (h : s.mayStart p e = true) : e.st = .accepted := by
  simp only [State.mayStart, State.mayBegin, Bool.and_eq_true, beq_iff_eq] at h
  tauto

/-- An entry marked done. -/
theorem markDone_entry {seq : Nat} (hx : s.entry p seq = some e) : (s.markDone p seq).entry p seq = some { e with done := true } :=
  entry_updEntry_some (fun _ => rfl) hx

end

/-! ### Drift samples abandoned (R304) -/

@[simp] theorem dropDrift_mem (s : State) (c p : Nat) : (s.dropDrift c p).mem = s.mem := by unfold State.dropDrift; split <;> rfl
@[simp] theorem dropDrift_parts (s : State) (c p : Nat) : (s.dropDrift c p).parts = s.parts := by unfold State.dropDrift; split <;> rfl

@[simp] theorem dropDrifts_mem (s : State) (p : Nat) : (s.dropDrifts p).mem = s.mem := foldl_same (P := State.mem) (fun s c => dropDrift_mem s c p) _ _
@[simp] theorem dropDrifts_parts (s : State) (p : Nat) : (s.dropDrifts p).parts = s.parts := foldl_same (P := State.parts) (fun s c => dropDrift_parts s c p) _ _

/-! ### What reads and writes leave of partitions -/

theorem calm_epoch {s t : State} (h : Calm s t) (p : Nat) : (t.pt p).e = (s.pt p).e := (congrArg Part.e (h.pt p) :)
theorem calm_sum {s t : State} (h : Calm s t) (p : Nat) : (t.pt p).s = (s.pt p).s := (congrArg Part.s (h.pt p) :)

/-- An entry stays as it is, but for what its speculative run has counted. -/
theorem calm_entry {s t : State} (h : Calm s t) {p q : Nat} {e : Entry} (he : s.entry p q = some e) : ∃ x, t.entry p q = some x ∧ x.unspent = e.unspent := by
  have hsame := sameParts_entry (calm_sameParts h) p q
  rw [he] at hsame
  exact Option.map_eq_some_iff.1 hsame

/-! ### PHASE (R376, R393) -/

section
variable {s : State} {p q : Nat} {e : Entry}

/-- What a PHASE waits for is no part of an entry. -/
theorem phaseIdle_enterRun (spec : Bool) (view : Nat) : (s.enterRun p e spec view).phaseIdle p = s.phaseIdle p := by
  simp only [State.phaseIdle, enterRun_setOf, State.cl, State.die, enterRun_clusters, enterRun_dies]

/-- The buffers of a partition's set written back, and its translations dropped: the first part of `State.phasePass`. -/
def State.setLeft (s : State) (p : Nat) (gated : Bool) : State :=
  (s.setOf p).foldl (fun t c =>
    let t := if gated then t.dropDrift c p else t
    (t.coalOut c fun _ => true).updCl c fun cl => { cl with tlb := cl.tlb.filter fun y => y.part != p }) s

theorem setLeft_mem (s : State) (p : Nat) (gated : Bool) : (s.setLeft p gated).mem = s.mem :=
  foldl_same (P := State.mem) (fun t c => by dsimp only; rw [updCl_mem, coalOut_mem, apply_ite State.mem, dropDrift_mem, ite_self]) _ _

theorem setLeft_parts (s : State) (p : Nat) (gated : Bool) : (s.setLeft p gated).parts = s.parts :=
  foldl_same (P := State.parts) (fun t c => by dsimp only; rw [updCl_parts, coalOut_parts, apply_ite State.parts, dropDrift_parts, ite_self]) _ _

/-- The set of a group handed from partition `p` to partition `q`: the second part of `State.phasePass`. -/
def State.handOver (s : State) (p q : Nat) : State :=
  (s.updPt p fun pt => { pt with regs := { pt.regs with holds := false } }).updPt q fun pt => { pt with regs := { pt.regs with holds := true }, counted := true }

theorem handOver_to (s : State) (p q : Nat) : ((s.handOver p q).pt q).regs.holds = true := by rw [State.handOver, updPt_pt_same]

theorem handOver_from (s : State) {p q : Nat} (hne : q ≠ p) : (s.handOver p q).pt p = { s.pt p with regs := { (s.pt p).regs with holds := false } } := by
  rw [State.handOver, updPt_pt_ne _ _ _ _ hne.symm, updPt_pt_same]

theorem handOver_entry (s : State) {p q : Nat} (hne : q ≠ p) (seq : Nat) : (s.handOver p q).entry p seq = s.entry p seq := by
  rw [State.entry, handOver_from s hne]
  rfl

theorem phasePass_eq (s : State) (p q seq : Nat) :
    s.phasePass p q seq = ((s.setLeft p (!((s.pt q).blk.any fun b => b.stations.getLsbD 6))).handOver p q).markDone p seq := rfl

/-- A PHASE that passes its set hands it over and is done; memory stays. -/
theorem phasePass_spec {seq : Nat} (hne : q ≠ p) (hx : s.entry p seq = some e) :
    ((s.phasePass p q seq).pt q).regs.holds = true ∧ ((s.phasePass p q seq).pt p).regs.holds = false ∧ (s.phasePass p q seq).mem = s.mem ∧
      (s.phasePass p q seq).entry p seq = some { e with done := true } := by
  rw [phasePass_eq]
  generalize (!((s.pt q).blk.any fun b => b.stations.getLsbD 6)) = gated
  have hentry := (handOver_entry (s.setLeft p gated) hne seq).trans ((entry_congr (setLeft_parts ..) p seq).trans hx)
  refine ⟨?_, ?_, setLeft_mem .., markDone_entry hentry⟩
  · rw [State.markDone, State.updEntry, updPt_pt_ne _ _ _ _ hne, handOver_to]
  · rw [State.markDone, updEntry_pt_same (P := fun pt => pt.regs.holds) fun _ _ => rfl, handOver_from _ hne]

/-- A PHASE that may start and checks has started, and passes its set where nothing is waited for. -/
theorem exec_phase_start (hx : s.entry p e.seq = some e) (hty : cdType e.desc = 4) (hstart : s.mayStart p e = true) (hok : descOk e.desc = true)
    (hphase : s.phaseOk p e.desc = true) : let t := s.enterRun p e false (s.pt p).e
    exec (.phase p e.seq) s = .next (if s.phaseIdle p then t.phasePass p (cdTo e.desc) e.seq else t) := by
  change execPhase p e.seq s = _
  have hst : ¬ e.st = .running := by rw [accepted_of_mayStart hstart]; decide
  simp [execPhase, hx, hty, hst, hstart, hok, hphase, phaseIdle_enterRun]

/-- A PHASE under way passes its set where nothing is waited for. -/
theorem exec_phase_on (hx : s.entry p e.seq = some e) (hty : cdType e.desc = 4) (hst : e.st = .running) (hdone : e.done = false) (habort : e.abort = false)
    (hrerun : e.rerun = false) : exec (.phase p e.seq) s = .next (if s.phaseIdle p then s.phasePass p (cdTo e.desc) e.seq else s) := by
  change execPhase p e.seq s = _
  cases hidle : s.phaseIdle p <;> simp [execPhase, hx, hty, hst, hdone, habort, hrerun, hidle]

theorem phaseOk_ne (h : s.phaseOk p e.desc = true) : cdTo e.desc ≠ p := by
  simp only [State.phaseOk, Bool.and_eq_true, bne_iff_ne] at h
  exact h.1.1

end

/-! ### SNAPSHOT (R394, R395) -/

section
variable {s : State} {p : Nat} {e : Entry}

/-- The reads of a SNAPSHOT: its block and the payload stream. -/
def snapReads (t : State) (p va ep : Nat) : Job (Desc × List Byte) := do
  let y ← readVa t (t.ctxPart p) va 64
  let b : Desc := BitVec.ofNat 512 (leNat y)
  Job.require (t.snapOk b) stConsignment
  let z ← snapStream t p b ep
  pure (b, z)

/-- The payloads of a SNAPSHOT's frames: the stream in pieces, and the trailer. -/
def snapPayloads (z : List Byte) : List (List Byte) := piecesOf 8192 (z.length / 8192 + 1) z ++ [natLe 8 z.length ++ natLe 4 (crc32c z).toNat]

/-- The frame of a payload, numbered from 0, as it leaves by its port. -/
def snapOut (b : Desc) (ep last : Nat) (f : List Byte × Nat) : Out :=
  let port := (snapPorts b).getD (f.2 % (snapPorts b).length) 0
  .frame port (snapPrio b) (snapFrame b ep port f.2 f.1 (f.2 == last))

/-- What a loop sends goes out in order. -/
theorem foldl_emit_out {α : Type} (g : α → Out) (l : List α) : ∀ u : State, (l.foldl (fun u x => u.emit (g x)) u).out = u.out ++ l.map g := by
  induction l with
  | nil => intro u; simp
  | cons x l ih => intro u; simp [ih]

/-- The frames of a SNAPSHOT sent. -/
def State.snapSent (u : State) (b : Desc) (ep : Nat) (z : List Byte) : State :=
  (snapPayloads z).zipIdx.foldl (fun u f => u.emit (snapOut b ep (piecesOf 8192 (z.length / 8192 + 1) z).length f)) u

theorem snapSent_mem (u : State) (b : Desc) (ep : Nat) (z : List Byte) : (u.snapSent b ep z).mem = u.mem :=
  foldl_same (P := State.mem) (by intros; rfl) _ _
theorem snapSent_parts (u : State) (b : Desc) (ep : Nat) (z : List Byte) : (u.snapSent b ep z).parts = u.parts :=
  foldl_same (P := State.parts) (by intros; rfl) _ _
theorem snapSent_out_length (u : State) (b : Desc) (ep : Nat) (z : List Byte) : (u.snapSent b ep z).out.length = u.out.length + (snapPayloads z).length := by
  rw [State.snapSent, foldl_emit_out, List.length_append, List.length_map, List.length_zipIdx]

theorem exec_snapshot {b : Desc} {z : List Byte} {a : Acc} (hx : s.entry p e.seq = some e) (hty : cdType e.desc = 5) (hstart : s.mayStart p e = true)
    (hok : descOk e.desc = true) (hreads : Job.exec (snapReads (s.enterRun p e false (s.pt p).e) p (cdAddr0 e.desc) (s.pt p).e) = (.ok (b, z), a)) :
    exec (.snapshot p e.seq) s = .next ((((s.enterRun p e false (s.pt p).e).settle a).snapSent b (s.pt p).e z).updEntry p e.seq fun x =>
      { x with done := true, res0 := BitVec.ofNat 64 (snapPayloads z).length, res1 := BitVec.ofNat 64 (z.length + 12) }) := by
  change execSnapshot p e.seq s = _
  unfold snapReads at hreads
  simp only [execSnapshot, hx, hty, hstart, hok, hreads, waits]
  rfl

/-- A SNAPSHOT whose reads succeed leaves memory, sends its frames, and is done with their number and the bytes it has sent. -/
theorem runs_snapshot {b : Desc} {z : List Byte} {a : Acc} (hx : s.entry p e.seq = some e) (hty : cdType e.desc = 5) (hstart : s.mayStart p e = true)
    (hok : descOk e.desc = true) (hreads : Job.exec (snapReads (s.enterRun p e false (s.pt p).e) p (cdAddr0 e.desc) (s.pt p).e) = (.ok (b, z), a))
    (hwrites : a.writes = []) (houts : a.outs = []) :
    Runs (.snapshot p e.seq) s (fun t => t.mem = s.mem ∧ ∃ e' n, t.entry p e.seq = some e' ∧ e'.done = true ∧ e'.res0 = BitVec.ofNat 64 n ∧
      e'.res1 = BitVec.ofNat 64 (z.length + 12) ∧ t.out.length = s.out.length + n) := by
  obtain ⟨y, hy, -⟩ := calm_entry (calm_settle _ a false) (enterRun_entry false (s.pt p).e hx)
  have hsent := (entry_congr (snapSent_parts _ b (s.pt p).e z) p e.seq).trans hy
  refine ⟨_, exec_snapshot hx hty hstart hok hreads, ?_, _, (snapPayloads z).length, entry_updEntry_some (fun _ => rfl) hsent, rfl, rfl, rfl, ?_⟩
  · exact (snapSent_mem ..).trans ((settle_mem_none _ _ _ hwrites).trans (enterRun_mem ..))
  · refine (snapSent_out_length ..).trans (congrArg (fun l : List Out => l.length + _) ?_)
    exact (settle_out_none _ _ _ hwrites houts).trans (enterRun_out ..)

end

/-! ### MASK_UPDATE (R165 to R178) -/

section
variable {s : State} {p : Nat} {e : Entry}

/-- The checks of a MASK_UPDATE at the gate, and its tags: what comes before the work. -/
def maskOpening (u : State) (p va n : Nat) : Job (List MaskPlan) := do
  let plans ← maskPlans u (u.ctxPart p) (u.pt p).e (u.setOf p) va n
  maskTags u (u.ctxPart p) ((u.pt p).e + 1) plans
  pure plans

/-- The work of a MASK_UPDATE, and the writes of its flip. -/
def maskWriting (v : State) (x : XCtx) (key : Word) (plans : List MaskPlan) : Job (MaskCount × List Flip) := do
  let n ← maskWork v x key plans
  let fl ← Job.map (maskFlips v x) plans
  pure (n, fl.flatten)

/-- The state in which a MASK_UPDATE awaits its flip: `v` is the state that its tags left, `a` what its work has done. -/
def State.maskHeld (v : State) (p : Nat) (e : Entry) (x : XCtx) (plans : List MaskPlan) (n : MaskCount) (fl : List Flip) (a : Acc) : State :=
  let t := (v.settle a).joinFlags p e.seq a.flags
  let t := plans.foldl (fun t m => t.setKey p (mbRec m.blk) (!m.buf) (cdKey e.desc)) t
  t.updEntry p e.seq fun e => { e with flips := fl, alt := altRanges v x plans, counts := n, below := plans.map fun m => (mbRec m.blk, mbBelow m.blk) }

/-- A MASK_UPDATE under way, with nothing against it, checks, tags and works once its gate is open. -/
theorem maskRun_held {plans : List MaskPlan} {n : MaskCount} {fl : List Flip} {a₁ a₂ : Acc} (hfails : e.fails = []) (habort : e.abort = false) (hdone : e.done = false)
    (hrerun : e.rerun = false) (hflips : e.flips = []) (hgate : s.gateOpen p (s.pt p).e = true)
    (hopen : Job.exec (maskOpening s p (cdAddr0 e.desc) (cdSize e.desc)) = (.ok plans, a₁))
    (hwork : Job.exec (maskWriting (s.settle a₁) (s.ctxPart p) (cdKey e.desc) plans) = (.ok (n, fl), a₂)) :
    s.maskRun p e = (s.settle a₁).maskHeld p e (s.ctxPart p) plans n fl a₂ := by
  unfold maskOpening at hopen
  unfold maskWriting at hwork
  simp only [State.maskRun, hfails, habort, hdone, hrerun, hflips, hgate, hopen, waits, hwork]
  rfl

theorem setKey_entry (s : State) (p seq va : Nat) (b : Bool) (k : Word) : (s.setKey p va b k).entry p seq = s.entry p seq := (updPt_entry_w _ ⟨rfl, rfl⟩).1

/-- What the flip of a MASK_UPDATE will need is held with its entry; beside its work's writes, memory and the epoch stay. -/
theorem maskHeld_spec {v : State} (x : XCtx) (plans : List MaskPlan) (n : MaskCount) (fl : List Flip) (a : Acc) {y : Entry} (hy : v.entry p e.seq = some y) :
    let t := v.maskHeld p e x plans n fl a
    t.mem = (v.settle a).mem ∧ (t.pt p).e = (v.pt p).e ∧
      ∃ e', t.entry p e.seq = some e' ∧ e'.st = y.st ∧ e'.fails = y.fails ∧ e'.flips = fl ∧ e'.counts = n := by
  have hcalm := calm_settle v a false
  obtain ⟨z, hz, hzy⟩ := calm_entry hcalm hy
  unfold State.maskHeld
  extract_lets t₁ t₂ t
  have hmem : t₂.mem = t₁.mem := foldl_same (P := State.mem) (by intros; rfl) _ _
  have hepoch : (t₂.pt p).e = (t₁.pt p).e := foldl_same (P := fun t => (t.pt p).e) (fun t m => by rw [State.setKey, updPt_pt_same]) _ _
  have hentry : t₂.entry p e.seq = some { z with flags := z.flags ||| a.flags } :=
    (foldl_same (P := fun t => t.entry p e.seq) (fun t m => setKey_entry ..) plans t₁).trans (entry_updEntry_some (fun _ => rfl) hz)
  refine ⟨hmem, ?_, _, entry_updEntry_some (fun _ => rfl) hentry, (congrArg Entry.st hzy :), (congrArg Entry.fails hzy :), rfl, rfl⟩
  calc (t.pt p).e = (t₂.pt p).e := updEntry_pt_same (P := Part.e) (fun _ _ => rfl) ..
    _ = (t₁.pt p).e := hepoch
    _ = ((v.settle a).pt p).e := updEntry_pt_same (P := Part.e) (fun _ _ => rfl) ..
    _ = (v.pt p).e := calm_epoch hcalm p

/-- The state in which a MASK_UPDATE starts to read its blocks: it is RUNNING, and drift samples of its partition are abandoned. -/
def State.maskStarted (s : State) (p : Nat) (e : Entry) : State := (s.enterRun p e false (s.pt p).e).dropDrifts p

theorem maskStarted_mem (s : State) (p : Nat) (e : Entry) : (s.maskStarted p e).mem = s.mem := (dropDrifts_mem ..).trans (enterRun_mem ..)

theorem maskStarted_epoch (s : State) (p : Nat) (e : Entry) : ((s.maskStarted p e).pt p).e = (s.pt p).e := by
  rw [State.maskStarted, State.pt, dropDrifts_parts]
  exact enterRun_epoch ..

theorem maskStarted_entry (hx : s.entry p e.seq = some e) : (s.maskStarted p e).entry p e.seq = some (s.started p false (s.pt p).e e) :=
  (entry_congr (dropDrifts_parts ..) _ _).trans (enterRun_entry _ _ hx)

/-- A MASK_UPDATE without records is done as it starts. -/
theorem exec_maskUpdate_none (hx : s.entry p e.seq = some e) (hty : cdType e.desc = 2) (hstart : s.mayStart p e = true) (hok : descOk e.desc = true)
    (hsize : cdSize e.desc = 0) : exec (.maskUpdate p e.seq) s = .next ((s.maskStarted p e).markDone p e.seq) := by
  have hst : ¬ e.st = .running := by rw [accepted_of_mayStart hstart]; decide
  change execMaskUpdate p e.seq s = _
  simp [execMaskUpdate, hx, hty, hst, hstart, hok, hsize, State.maskStarted]

section
variable (hx : s.entry p e.seq = some e) (hty : cdType e.desc = 2) (hstart : s.mayStart p e = true) (hok : descOk e.desc = true) (hsize : cdSize e.desc ≠ 0)

include hx hty hstart hok hsize

/-- A MASK_UPDATE whose blocks check at its start goes on with its work. -/
theorem exec_maskUpdate_start {t : State} {ps : List MaskPlan} {a : Acc} {y : Entry} (ht : s.maskStarted p e = t)
    (hplans : Job.exec (maskPlans t (t.ctxPart p) (t.pt p).e (t.setOf p) (cdAddr0 e.desc) (cdSize e.desc)) = (.ok ps, a))
    (hy : (t.settle a).entry p e.seq = some y) : exec (.maskUpdate p e.seq) s = .next ((t.settle a).maskRun p y) := by
  have hst : ¬ e.st = .running := by rw [accepted_of_mayStart hstart]; decide
  unfold State.maskStarted at ht
  change execMaskUpdate p e.seq s = _
  simp [execMaskUpdate, hx, hty, hst, hstart, hok, hsize, ht, hplans, waits, hy]

/-- A MASK_UPDATE that checks, finds its gate open and works without a failure holds its flips and counts; memory has its jobs' writes, and the epoch stays. -/
theorem runs_maskUpdate {ps plans : List MaskPlan} {n : MaskCount} {fl : List Flip} {a₀ a₁ a₂ : Acc} (hflips : e.flips = []) (habort : e.abort = false) :
    let t := s.maskStarted p e
    Job.exec (maskPlans t (t.ctxPart p) (t.pt p).e (t.setOf p) (cdAddr0 e.desc) (cdSize e.desc)) = (.ok ps, a₀) →
    let u := t.settle a₀
    u.gateOpen p (u.pt p).e = true → Job.exec (maskOpening u p (cdAddr0 e.desc) (cdSize e.desc)) = (.ok plans, a₁) →
    let v := u.settle a₁
    Job.exec (maskWriting v (u.ctxPart p) (cdKey e.desc) plans) = (.ok (n, fl), a₂) →
    Runs (.maskUpdate p e.seq) s (fun r => r.mem = (v.settle a₂).mem ∧ (r.pt p).e = (s.pt p).e ∧
      ∃ e', r.entry p e.seq = some e' ∧ e'.st = .running ∧ e'.fails = [] ∧ e'.flips = fl ∧ e'.counts = n) := by
  intro t hplans u hgate hopen v hwork
  have hu : Calm t u := calm_settle ..
  have hv : Calm u v := calm_settle ..
  obtain ⟨y, hy, hyx⟩ := calm_entry hu (maskStarted_entry hx)
  obtain ⟨z, hz, hzy⟩ := calm_entry hv hy
  have hseq : y.seq = e.seq := (congrArg Entry.seq hyx :)
  have hdesc : y.desc = e.desc := (congrArg Entry.desc hyx :)
  have hheld : u.maskRun p y = v.maskHeld p y (u.ctxPart p) plans n fl a₂ :=
    maskRun_held (congrArg Entry.fails hyx :) ((congrArg Entry.abort hyx :).trans habort) (congrArg Entry.done hyx :) (congrArg Entry.rerun hyx :)
      ((congrArg Entry.flips hyx :).trans hflips) hgate (hdesc ▸ hopen) (hdesc ▸ hwork)
  have hepoch : (v.pt p).e = (s.pt p).e := (calm_epoch hv p).trans ((calm_epoch hu p).trans (maskStarted_epoch s p e))
  obtain ⟨hmem, hsame, e', he', hst, hfails, hfl, hn⟩ := maskHeld_spec (u.ctxPart p) plans n fl a₂ (hseq ▸ hz)
  refine ⟨_, (exec_maskUpdate_start hx hty hstart hok hsize rfl hplans hy).trans (congrArg _ hheld), hmem, hsame.trans hepoch, e', hseq ▸ he', hst.trans ?_,
    hfails.trans ?_, hfl, hn⟩
  · exact (congrArg Entry.st (hzy.trans hyx) :)
  · exact (congrArg Entry.fails (hzy.trans hyx) :)

end

end

/-! ### The flip (R175, R181) -/

section
variable {s : State} {p : Nat} {e : Entry}

/-- The writes of a flip made. -/
def State.flipped (s : State) (fl : List Flip) : State := fl.foldl (fun s f => s.store { pa := f.pa, bytes := f.bytes } f.hc) s

theorem calm_flipped (s : State) (fl : List Flip) : Calm s (s.flipped fl) := calm_foldl (by intros; exact calm_store ..) _ _

theorem flipped_mem (fl : List Flip) : ∀ s : State, (s.flipped fl).mem = fl.foldl (fun m f => m.writeN f.pa f.bytes) s.mem := by
  induction fl with
  | nil => intro s; rfl
  | cons f fl ih => intro s; exact (ih _).trans (by rw [store_mem]; rfl)

/-- E advances past the flip of an entry, and the records that it names take their new `coord_below`. -/
def State.epochPast (s : State) (p : Nat) (e : Entry) : State :=
  s.updPt p fun pt => { pt with e := pt.e + 1, coordBelow := e.below.foldl (fun t b => Tab.put t 0 b.1 b.2) pt.coordBelow }

theorem epochPast_entry (s : State) (p seq : Nat) (e : Entry) : (s.epochPast p e).entry p seq = s.entry p seq := by simp only [State.epochPast, State.entry, updPt_pt_same]
theorem epochPast_epoch (s : State) (p : Nat) (e : Entry) : ((s.epochPast p e).pt p).e = (s.pt p).e + 1 := by rw [State.epochPast, updPt_pt_same]
theorem epochPast_sum (s : State) (p : Nat) (e : Entry) : ((s.epochPast p e).pt p).s = (s.pt p).s := by rw [State.epochPast, updPt_pt_same]

/-- The counts of a flip added to the module's (0x7060). -/
def State.maskCounted (s : State) (n : MaskCount) : State := ((s.bump 0x7060 1 n.1).bump 0x7060 2 n.2.1).bump 0x7060 3 n.2.2

theorem maskCounted_parts (s : State) (n : MaskCount) : (s.maskCounted n).parts = s.parts := rfl
theorem maskCounted_mem (s : State) (n : MaskCount) : (s.maskCounted n).mem = s.mem := rfl
theorem maskCounted_pt (s : State) (n : MaskCount) (p : Nat) : (s.maskCounted n).pt p = s.pt p := rfl

/-- The state after the flip of an entry: its pairs written, E advanced, its counts added, its results stored. -/
def State.maskFlipped (s : State) (p : Nat) (e : Entry) : State :=
  (((s.flipped e.flips).epochPast p e).maskCounted e.counts).updEntry p e.seq fun x =>
    { x with done := true, flips := [], alt := [], res0 := BitVec.ofNat 64 e.counts.1, res1 := BitVec.ofNat 64 e.counts.2.1 }

theorem exec_maskFlip (h : (s.pt p).entries.find? (fun e => e.st == .running && cdType e.desc == 2 && !e.flips.isEmpty && !e.done && !e.rerun && !e.abort &&
    e.fails.isEmpty) = some e) : exec (.maskFlip p) s = .next (s.maskFlipped p e) := by
  change execMaskFlip p s = _
  simp only [execMaskFlip, h]
  rfl

/-- The flip writes its pairs and nothing else of memory, and the epoch advances. -/
theorem maskFlipped_spec (hx : s.entry p e.seq = some e) :
    (s.maskFlipped p e).mem = e.flips.foldl (fun m f => m.writeN f.pa f.bytes) s.mem ∧ ((s.maskFlipped p e).pt p).e = (s.pt p).e + 1 ∧
      ((s.maskFlipped p e).pt p).s = (s.pt p).s ∧
      ∃ e', (s.maskFlipped p e).entry p e.seq = some e' ∧ e'.done = true ∧ e'.flips = [] ∧ e'.res0 = BitVec.ofNat 64 e.counts.1 ∧ e'.res1 = BitVec.ofNat 64 e.counts.2.1 := by
  have hcalm := calm_flipped s e.flips
  obtain ⟨x, hx', -⟩ := calm_entry hcalm hx
  have hentry : (((s.flipped e.flips).epochPast p e).maskCounted e.counts).entry p e.seq = some x :=
    (entry_congr (maskCounted_parts ..) _ _).trans ((epochPast_entry ..).trans hx')
  refine ⟨?_, ?_, ?_, _, entry_updEntry_some (fun _ => rfl) hentry, rfl, rfl, rfl, rfl⟩
  · rw [State.maskFlipped, State.updEntry, updPt_mem, maskCounted_mem, State.epochPast, updPt_mem, flipped_mem]
  · rw [State.maskFlipped, updEntry_pt_same (P := Part.e) fun _ _ => rfl, maskCounted_pt, epochPast_epoch, calm_epoch hcalm]
  · rw [State.maskFlipped, updEntry_pt_same (P := Part.s) fun _ _ => rfl, maskCounted_pt, epochPast_sum, calm_sum hcalm]

end

/-- Settles O45: PHASE hands its set over by `phasePass_spec`, SNAPSHOT is `runs_snapshot`, MASK_UPDATE `runs_maskUpdate`, and its flip `maskFlipped_spec`. -/
theorem phaseSnapshotMask : Obligations.PhaseSnapshotMask := by
  unfold Obligations.PhaseSnapshotMask
  intro s p seq e hx hseq
  subst hseq
  extract_lets t₀ passes t₁
  have hx₀ : t₀.entry p e.seq = some (s.started p false (s.pt p).e e) := enterRun_entry _ _ hx
  have hmem₀ : t₀.mem = s.mem := enterRun_mem ..
  refine ⟨fun hstart hok hty hphase => ?_, fun hty hst hdone habort hrerun hne => ?_, fun hstart hok hty hsize => ?_, fun hstart hok hty hsize hflips habort => ?_,
    fun hstart hok hty b z a hreads hwrites houts => ?_, fun hfind => ?_⟩
  · have hexec := exec_phase_start hx hty hstart hok hphase
    refine ⟨fun hidle => ?_, fun hidle => ?_⟩
    · simp only [hidle, if_true] at hexec
      obtain ⟨hq, hp, hmem, hent⟩ := phasePass_spec (phaseOk_ne hphase) hx₀
      exact ⟨_, hexec, hq, hp, hmem.trans hmem₀, _, hent, rfl, rfl⟩
    · simp only [hidle] at hexec
      exact ⟨_, hexec, hmem₀, enterRun_clusters .., fun q hq => enterRun_pt_ne _ _ _ _ _ hq, _, hx₀, rfl, rfl⟩
  · have hexec := exec_phase_on hx hty hst hdone habort hrerun
    refine ⟨fun hidle => ?_, fun hidle => ?_⟩
    · simp only [hidle, if_true] at hexec
      obtain ⟨hq, hp, hmem, hent⟩ := phasePass_spec hne hx
      exact ⟨_, hexec, hq, hp, hmem, _, hent, rfl, hst⟩
    · simpa [hidle] using hexec
  · exact ⟨_, exec_maskUpdate_none hx hty hstart hok hsize, maskStarted_mem .., _, markDone_entry (maskStarted_entry hx), rfl, rfl⟩
  · intro ps₀ a₀ hplans u hgate plans a₁ hopen v n fl a₂ hwork
    exact runs_maskUpdate hx hty hstart hok hsize hflips habort hplans hgate hopen hwork
  · exact runs_snapshot hx hty hstart hok hreads hwrites houts
  · exact ⟨_, exec_maskFlip hfind, maskFlipped_spec hx⟩

end Sys2Proof.Machine
end

section
/-! SUPPORT. The lane-wise instructions of the Vector Station (R188, R189, R190, R192): what one on operands a, b and c leaves, and the statement about them. -/

namespace Sys2Proof.Machine

/-- A lane-wise instruction on operands a, b and c is done: its lanes take the function of the elements at their own place. -/
theorem vLane_done {s : State} {c : Nat} {e : WbEntry} {r : Run} {opc : Nat} (f : VX → Nat → Nat → Nat → Nat × Byte) (h : s.vecAt c e r opc) :
    let v := s.vCtx c e r
    let regs := (s.cl c).st.vec.regs
    VecDone s (s.vLane c opc f) c (v.map regs fun row col => f v (v.a regs row col) (v.b regs row col) (v.cOp regs row col)) :=
  vRegOp_done _ h

/-- Settles O26: SEL, SWP and CVT read more than the elements at a lane's own place (a predicate, the neighbour column, an operand of another type) and are
instructions on the registers; each of the others is a function of the lane's elements of a, b and c. -/
theorem vectorLanes : Obligations.VectorLanes := by
  unfold Obligations.VectorLanes
  intro s c e r v regs a b d lane
  refine ⟨?_, ?_, ?_, ?_, ?_, ?_, ?_, ?_, ?_, ?_, ?_, ?_, ?_, ?_, ?_, ?_, ?sel, ?swp, ?cvt⟩
  case sel | swp | cvt => exact fun h => ⟨_, rfl, vRegOp_done _ h⟩
  all_goals exact fun h => ⟨_, rfl, vLane_done _ h⟩

end Sys2Proof.Machine
end

section
/-! SUPPORT. The invariant of every step, and translations (R261, R268, R270, R271, R273): what reads and page walks leave of the counters, what a walk caches, what an
invalidation drops, and the statements about them. -/

namespace Sys2Proof.Machine

/-! ### Every step keeps the tables canonical (R256) -/

/-- Taking the front command off the queue touches no table, and `keeps_exec` says that no command spoils one. -/
theorem canon_step {s t : State} (hs : s.canon = true) (ht : step s = .next t) : t.canon = true := by
  cases hq : s.pending with
  | nil =>
    rw [step_idle hq] at ht
    cases ht
    exact hs
  | cons i q =>
    have hfront : step s = exec i { s with pending := q } := by
      rw [← step_front, ← hq]
    obtain ⟨-, -, -, hkeep⟩ := keeps_exec i (keeps_refl { s with pending := q }) t (hfront ▸ ht)
    exact hkeep ((canon_tabs rfl).trans hs)

/-- Settles O3: `canon_step`. -/
theorem stepKeepsCanon : Obligations.StepKeepsCanon := fun _ _ => canon_step

/-! ### Counters that reads and walks advance (R89, R261, R398) -/

/-- The objects that a read may change: errors found in HBM and in scratchpads, and what the hubs have served. -/
def readKeys : List Nat :=
  [objKey 0x5010 1, objKey 0x5010 2, objKey 0x5010 3, objKey 0x5020 1, objKey 0x5020 2, objKey 0x5020 4, objKey 0x5020 5, objKey 0x70B0 4, objKey 0x70B0 5]

section
variable {i j : Nat} (h : objKey i j ∉ readKeys)
include h

theorem setObj_obj_of_notMem {i' j' : Nat} (hk : objKey i' j' ∈ readKeys) (s : State) (v : Nat) : (s.setObj i' j' v).obj i j = s.obj i j := by
  refine setObj_obj_ne _ _ _ _ _ _ fun he => h ?_
  rw [he]
  exact hk

theorem bump_obj_of_notMem {i' j' : Nat} (hk : objKey i' j' ∈ readKeys) (s : State) (n : Nat) : (s.bump i' j' n).obj i j = s.obj i j :=
  setObj_obj_of_notMem h hk s _

theorem lineAccess_obj (s : State) (pa : Nat) (wr whole : Bool) (hc : Nat) : (s.lineAccess pa wr whole hc).obj i j = s.obj i j := by
  unfold State.lineAccess
  extract_lets hub cxl k drained hc key r t
  split
  · exact bump_obj_of_notMem h (by decide) t 1
  · split
    · rfl
    · exact bump_obj_of_notMem h (by decide) t 1

theorem hubTouch_obj (s : State) (pa n : Nat) (wr : Bool) (hc : Nat) : (s.hubTouch pa n wr hc).obj i j = s.obj i j := by
  have hline := fun (t : State) k => lineAccess_obj h t ((pa / 256 + k) * 256) wr
    (decide (pa ≤ (pa / 256 + k) * 256) && decide ((pa / 256 + k) * 256 + 256 ≤ pa + n)) hc
  unfold State.hubTouch
  split
  · split
    · rfl
    · exact foldl_same (P := fun t => t.obj i j) hline _ s
  · split
    · rfl
    · exact foldl_same (P := fun t => t.obj i j) hline _ s
  · rfl

theorem resolveWord_obj (s : State) (w : Nat) : (s.resolveWord w).obj i j = s.obj i j := by
  unfold State.resolveWord
  split
  · rfl
  · exact bump_obj_of_notMem h (by decide) _ 1
  · split
    · exact bump_obj_of_notMem h (by decide) _ 1
    · exact bump_obj_of_notMem h (by decide) _ 1
  · split
    · exact bump_obj_of_notMem h (by decide) _ 1
    · split
      · rw [updCl_obj, setObj_obj_of_notMem h (by decide), setObj_obj_of_notMem h (by decide)]
        exact bump_obj_of_notMem h (by decide) _ 1
      · rfl
    · rfl

theorem coalOut_obj (s : State) (c : Nat) (gone : Coal → Bool) : (s.coalOut c gone).obj i j = s.obj i j := by
  unfold State.coalOut
  dsimp only
  rw [updCl_obj]
  refine foldl_same (P := fun t => t.obj i j) (fun t w => ?_) _ s
  exact resolveWord_obj h t w

theorem touch_obj (s : State) (pa n hc : Nat) : (s.touch pa n hc).obj i j = s.obj i j := by
  have hwords := resolveWords_same (P := fun t => t.obj i j) (resolveWord_obj h)
  unfold State.touch
  split
  · rfl
  · dsimp only
    split
    · rw [hwords]
      split
      · exact coalOut_obj h s _ _
      · rfl
    · rw [hubTouch_obj h, apply_ite (fun t : State => t.obj i j), bump_obj_of_notMem h (by decide), ite_self]
      exact hwords _ s

end

/-! ### Page walks (R268, R270) -/

/-- A walk is counted once, whatever its reads have counted. -/
theorem walked_count (s : State) (w : Walk) : (s.walked w).obj 0x70B0 1 = (s.obj 0x70B0 1 + 1) % 2 ^ 64 := by
  have hreads := fun l s => foldl_same (P := fun t => t.obj 0x70B0 1) (f := fun (t : State) a => t.touch a 8) (fun t a => touch_obj (by decide) t a 8 0) l s
  unfold State.walked
  dsimp only
  split
  · rw [updCl_obj, bump_obj_same, hreads]
  · rw [bump_obj_same, hreads]

theorem tlbEnter_getLast? (l : List Tlb) (t : Tlb) : (tlbEnter l t).getLast? = some t := List.getLast?_concat

/-- The newest translation that a cluster's unit holds after a walk with a valid end. -/
theorem walked_tlb_getLast? {s : State} {w : Walk} {c pte size : Nat} (hc : w.c = some c) (hw : s.walk w.root w.va = some (pte, size)) :
    ((s.walked w).cl c).tlb.getLast? =
      some { part := w.part, va := w.va / size * size, size := size, pte := BitVec.ofNat 64 pte, root := w.root, req := w.req } := by
  simp only [State.walked, hc, hw, updCl_cl_same, tlbEnter_getLast?]

/-! ### XROOT, XINV and the end of an invalidation (R271, R273) -/

section
variable {s : State} {p : Nat}

theorem onlyPart_updX (f : XRegs → XRegs) : OnlyPart s (s.updX p f) p := ⟨{ s.pt p with x := f (s.pt p).x }, rfl⟩

theorem updX_x (f : XRegs → XRegs) : ((s.updX p f).pt p).x = f (s.pt p).x := by
  rw [State.updX, updPt_pt_same]

theorem onlyPart_startInv (v : Word) : OnlyPart s (s.startInv p v) p := onlyPart_updX _

/-- With none in progress an invalidation begins. -/
theorem startInv_x_of_done (h : (s.pt p).x.done = true) (v : Word) : ((s.startInv p v).pt p).x = { (s.pt p).x with done := false, inv := some v } := by
  rw [State.startInv, updX_x, if_pos h]

/-- With one in progress the next is held. -/
theorem startInv_x_of_busy (h : (s.pt p).x.done = false) (hheld : (s.pt p).x.held = none) (v : Word) :
    ((s.startInv p v).pt p).x = { (s.pt p).x with held := some v } := by
  rw [State.startInv, updX_x, if_neg (by simp [h]), hheld]

/-- XROOT takes the bits of the write as an `all` invalidation begins. -/
theorem xrootWrite_spec (h : (s.pt p).x.done = true) (v : Word) : let t := (s.updX p fun x => { x with xroot := xrootBits v }).startInv p 1
    OnlyPart s t p ∧ (t.pt p).x = { (s.pt p).x with xroot := xrootBits v, done := false, inv := some 1 } := by
  constructor
  · rw [State.startInv]
    exact onlyPart_updPt (onlyPart_updX _) _
  · rw [startInv_x_of_done (by rw [updX_x]; exact h), updX_x]

/-- No unit holds a translation of the partition that an invalidation's word names, once they have been dropped. -/
theorem dropTlb_tlb {v : Word} {e : Nat × Cluster} (he : e ∈ (s.dropTlb p v).clusters) {x : Tlb} (hx : x ∈ e.2.tlb) (hp : x.part = p) :
    ¬(bit1 v.toNat 0 = true ∨ (x.va ≤ bits v.toNat 12 36 * 4096 ∧ bits v.toNat 12 36 * 4096 < x.va + x.size)) := by
  dsimp only [State.dropTlb] at he
  obtain ⟨e', -, rfl⟩ := tab_mem_mapV he
  have hstays := (List.mem_filter.1 hx).2
  simpa only [hp, BEq.rfl, Bool.true_and, Bool.not_eq_true', ← Bool.not_eq_true, Bool.or_eq_true, Bool.and_eq_true, decide_eq_true_eq] using hstays

/-- What the end of an invalidation makes of the registers: a held one begins. -/
def XRegs.invEnded (x : XRegs) : XRegs :=
  match x.held with
  | some h => { x with inv := some h, held := none, done := false }
  | none => { x with inv := none, done := true }

/-- Translations are dropped; the registers move on once no request translated before is under way. -/
theorem exec_invalidationDone {v : Word} (h : (s.pt p).x.inv = some v) :
    exec (.invalidationDone p) s = .next (if s.xlUnderway p then s.dropTlb p v else (s.dropTlb p v).updX p XRegs.invEnded) := by
  change execInvalidationDone p s = _
  unfold execInvalidationDone
  rw [h]
  dsimp only
  split <;> rfl

end

/-- Settles O38: a walk is `walked_count` and `walked_tlb_getLast?`, the start of an invalidation `startInv_x_of_done` and `startInv_x_of_busy`, its end
`exec_invalidationDone` with `dropTlb_tlb`. -/
theorem translations : Obligations.Translations := by
  unfold Obligations.Translations
  intro s p
  refine ⟨fun c va pte size hrun hwalk hva => ?_, fun v hdone => ⟨_, rfl, xrootWrite_spec hdone v⟩,
    fun hdone => ⟨_, rfl, onlyPart_startInv _, startInv_x_of_done hdone _⟩,
    fun page hdone => ⟨_, rfl, onlyPart_startInv _, startInv_x_of_done hdone _⟩,
    fun page hbusy hheld => ⟨_, rfl, onlyPart_startInv _, startInv_x_of_busy hbusy hheld _⟩, fun v hinv => ⟨_, exec_invalidationDone hinv, ?_⟩⟩
  · have hexec : exec (.pageWalkComplete c p (BitVec.ofNat 48 va)) s = .next (s.walked { c := some c, part := p, root := (s.pt p).x.xroot, va := va }) := by
      change execPageWalkComplete c p _ s = _
      rw [execPageWalkComplete, hrun, BitVec.toNat_ofNat, Nat.mod_eq_of_lt hva]
    exact ⟨_, hexec, walked_mem .., walked_parts .., walked_count .., walked_tlb_getLast? rfl hwalk⟩
  · split
    · exact ⟨rfl, rfl, fun _ _ => rfl, fun _ he _ hx hp => dropTlb_tlb he hx hp⟩
    · exact ⟨rfl, updX_x _, fun q hq => updPt_pt_ne _ _ _ _ hq, fun _ he _ hx hp => dropTlb_tlb he hx hp⟩

end Sys2Proof.Machine
end

section
/-! SUPPORT. Requests for HBM at their hub (R256, R258, R259, R261, R343, R344, R398, R400, R402): places in the stacks, the parity of a block, what a read answers
with and what a write stores, and the statement about them. -/

namespace Sys2Proof.Machine

/-! ### Places in the stacks (R258, R259) -/

/-- The stacks of a row that is found are among the rows' stacks. -/
theorem rowOf_stacks {m : Nat} {rows : List (Nat × List Nat)} {k a k' o : Nat} {st : List Nat} (h : rowOf rows k a = some (k', st, o)) (hm : m ∈ st) :
    m ∈ rows.flatMap (·.2) := by
  induction rows generalizing k a with
  | nil => cases h
  | cons r rest ih =>
    rw [rowOf] at h
    rw [List.flatMap_cons, List.mem_append]
    split at h
    · cases h
      exact .inl hm
    · exact .inr (ih h)

/-- Addresses whose rows share a stack lie in one row: where no stack serves twice, their offsets in it tell them apart. -/
theorem rowOf_shared {m : Nat} {rows : List (Nat × List Nat)} {k a b ka kb oa ob : Nat} {sta stb : List Nat} (hnodup : (rows.flatMap (·.2)).Nodup)
    (ha : rowOf rows k a = some (ka, sta, oa)) (hb : rowOf rows k b = some (kb, stb, ob)) (hma : m ∈ sta) (hmb : m ∈ stb) :
    sta = stb ∧ sta.Nodup ∧ (oa = ob → a = b) := by
  induction rows generalizing k a b with
  | nil => cases ha
  | cons r rest ih =>
    rw [List.flatMap_cons, List.nodup_append] at hnodup
    obtain ⟨hrow, hrest, hapart⟩ := hnodup
    rw [rowOf] at ha hb
    split at ha <;> split at hb
    · cases ha
      cases hb
      exact ⟨rfl, hrow, id⟩
    · cases ha
      exact absurd rfl (hapart m hma m (rowOf_stacks hb hmb))
    · cases hb
      exact absurd rfl (hapart m hmb m (rowOf_stacks ha hma))
    · obtain ⟨hst, hst', hoff⟩ := ih hrest ha hb
      exact ⟨hst, hst', fun ho => by have := hoff ho; omega⟩

/-- What a place in a stack is: the row's stack by bits 13:12 of the offset, and the offset without them. -/
theorem stackPlace_eq_some {s : State} {a m d : Nat} (h : s.stackPlace a = some (m, d)) :
    ∃ k st o, rowOf s.plan.rows 0 a = some (k, st, o) ∧ st[o / 4096 % 4]? = some m ∧ d = o / 16384 * 4096 + o % 4096 := by
  unfold State.stackPlace at h
  split at h
  · next k st o hrow =>
    simp only [Nat.shiftRight_eq_div_pow, Option.map_eq_some_iff, Prod.mk.injEq] at h
    obtain ⟨_, hm, rfl, rfl⟩ := h
    exact ⟨k, st, o, hrow, hm, rfl⟩
  · cases h

/-- No two addresses share a place in a stack. -/
theorem stackPlace_inj {s : State} (hnodup : (s.plan.rows.flatMap (·.2)).Nodup) {a b : Nat} {x : Nat × Nat} (ha : s.stackPlace a = some x)
    (hb : s.stackPlace b = some x) : a = b := by
  obtain ⟨ka, sta, oa, hrowa, hma, hda⟩ := stackPlace_eq_some ha
  obtain ⟨kb, stb, ob, hrowb, hmb, hdb⟩ := stackPlace_eq_some hb
  obtain ⟨rfl, hst, hoff⟩ := rowOf_shared hnodup hrowa hrowb (List.mem_of_getElem? hma) (List.mem_of_getElem? hmb)
  have hlt : oa / 4096 % 4 < sta.length := (List.getElem?_eq_some_iff.1 hma).1
  have hidx : oa / 4096 % 4 = ob / 4096 % 4 := (List.getElem?_inj hlt hst).1 (hma.trans hmb.symm)
  exact hoff (by omega)

theorem pseudoChannel_eq (a : Nat) : pseudoChannel a = a / 256 % 32 := by
  rw [pseudoChannel, Nat.shiftRight_eq_div_pow]

/-- 256 bytes of a stack lie in one pseudo-channel, and the next 256 in the next. -/
theorem pseudoChannel_turn (a : Nat) :
    pseudoChannel a < 32 ∧ pseudoChannel (a / 256 * 256) = pseudoChannel a ∧ pseudoChannel (a + 256) = (pseudoChannel a + 1) % 32 := by
  simp only [pseudoChannel_eq]
  omega

/-! ### Parity of a block (R400, R402) -/

/-- The bytes of granules added up, as the parity of a group adds them. -/
def xorOf (f : Nat → Byte) (l : List Nat) : Byte := l.foldl (fun x i => x ^^^ f i) 0

section
variable (f : Nat → Byte)

theorem foldl_xor_eq (l : List Nat) (x : Byte) : l.foldl (fun x i => x ^^^ f i) x = x ^^^ xorOf f l := by
  unfold xorOf
  induction l generalizing x with
  | nil => exact BitVec.xor_zero.symm
  | cons i l ih =>
    rw [List.foldl_cons, List.foldl_cons, ih (x ^^^ f i), ih (0 ^^^ f i), BitVec.xor_assoc]
    congr 2
    exact BitVec.zero_xor.symm

theorem xorOf_cons (i : Nat) (l : List Nat) : xorOf f (i :: l) = f i ^^^ xorOf f l :=
  (foldl_xor_eq f l (0 ^^^ f i)).trans (congrArg (· ^^^ _) BitVec.zero_xor)

/-- The sum of all granules and that of all but one come to that one. -/
theorem xorOf_xor_others {l : List Nat} (hl : l.Nodup) {j : Nat} (hj : j ∈ l) : xorOf f l ^^^ xorOf f (l.filter fun i => i != j) = f j := by
  induction l with
  | nil => cases hj
  | cons i l ih =>
    obtain ⟨hi, hl⟩ := List.nodup_cons.1 hl
    by_cases he : i = j
    · subst he
      have hothers : (l.filter fun k => k != i) = l := List.filter_eq_self.2 fun k hk => by simpa using fun he : k = i => hi (he ▸ hk)
      rw [List.filter_cons_of_neg (by simp), hothers, xorOf_cons, BitVec.xor_assoc, BitVec.xor_self, BitVec.xor_zero]
    · have hrest := ih hl ((List.mem_cons.1 hj).resolve_left (Ne.symm he))
      rw [List.filter_cons_of_pos (by simpa using he), xorOf_cons, xorOf_cons]
      calc f i ^^^ xorOf f l ^^^ (f i ^^^ xorOf f (l.filter fun i => i != j))
        _ = (f i ^^^ f i) ^^^ (xorOf f l ^^^ xorOf f (l.filter fun i => i != j)) := by ac_rfl
        _ = f j := by rw [hrest, BitVec.xor_self, BitVec.zero_xor]

end

/-- A granule of a block is in its own group. -/
theorem mem_groupMembers {j : Nat} (h : j < 12) : j ∈ groupMembers (groupOf j) := by
  simp [groupMembers, h]

/-- A byte of a block is what the other two granules of its group and their parity give. -/
theorem rebuilt_eq_byte (s : State) {a b : Nat} (hlo : b ≤ a) (hhi : a < b + 49152) : s.rebuilt b a = s.mem.byte a := by
  let f (i : Nat) : Byte := s.mem.byte (b + 4096 * i + (a - b) % 4096)
  let j := (a - b) / 4096
  have hgroup : (groupMembers (groupOf j)).Nodup := List.nodup_range.filter _
  have hplace : b + 4096 * j + (a - b) % 4096 = a := by omega
  calc s.rebuilt b a
    _ = xorOf f (groupMembers (groupOf j)) ^^^ xorOf f ((groupMembers (groupOf j)).filter fun i => i != j) := foldl_xor_eq f _ _
    _ = f j := xorOf_xor_others f hgroup (mem_groupMembers (by omega))
    _ = s.mem.byte a := congrArg s.mem.byte hplace

/-! ### Requests that fail their check (R344) -/

section
variable {s : State} {p : Packet}

theorem exec_readReq_nak (hans : s.answers = true) (hcrc : p.pcrc ≠ pktCheck p) : exec (.readReq p) s = .next (s.nak p) := by
  change execReadReq p s = _
  unfold execReadReq
  dsimp only
  rw [if_neg (by simp [hans]), if_pos hcrc]

theorem exec_write_nak (hans : s.answers = true) (hcrc : p.pcrc ≠ pktCheck p) : exec (.write p) s = .next (s.nak p) := by
  change execWrite p s = _
  unfold execWrite
  rw [if_neg (by simp [hans]), if_pos hcrc]

theorem exec_addPiece_nak (hcrc : p.pcrc ≠ pktCheck p) : exec (.addPiece p) s = .next (s.nak p) := by
  change execAddPiece p s = _
  unfold execAddPiece
  exact if_pos hcrc

end

/-! ### Reads of HBM (R261, R343, R398) -/

/-- With no part lost, a range beside the parity area reads as memory holds it. -/
theorem hubRead_eq_readN {s : State} {a n : Nat} (hhubs : ∀ h ∈ s.hubs, h.2.lost = false) (hstacks : s.plan.lostStacks = [])
    (hpar : ∀ d ∈ s.plan.dAreas.head?, ¬(a < d.1 + d.2 ∧ d.1 < a + n)) : s.hubRead a n = s.mem.readN a n := by
  refine if_neg ?_
  rintro ⟨-, hd | hlost | hlost⟩
  · obtain ⟨d, hd, hmeet⟩ := (Option.any_eq_true _ _).1 hd
    exact hpar d hd (of_decide_eq_true hmeet)
  · obtain ⟨h, hh, hl⟩ := List.any_eq_true.1 hlost
    exact absurd ((hhubs h hh).symm.trans hl) (by decide)
  · rw [hstacks] at hlost
    exact absurd hlost (by decide)

theorem padCluster_hbm {a : Nat} (h : regionOf a = .hbm) : padCluster a = none := by rw [padCluster, h]

/-- What a read response leaves: it is sent, as it stands within the module. -/
theorem respond_own (s : State) {p : Packet} (hmod : p.srcMod = 0xFF) (status : Byte) (g : Got) :
    s.respond p status g = s.emit (.packet (pktFinish { packetOf 0x01 1 p.srcEp p.dstEp 0xFF p.part.toNat p.tag p.addr.toNat (status.setWidth 128) g.bytes with
      bad := g.bad, marks := g.marks })) := by
  rw [State.respond, stamp_inside _ hmod, hmod]

section
variable {s : State} {p : Packet} (hans : s.answers = true) (hcrc : p.pcrc = pktCheck p) (hmod : p.srcMod = 0xFF) (hreg : regionOf p.addr.toNat = .hbm)

include hmod hreg in
/-- A physical address of HBM from this module is one place, under the policy that the packet names. -/
theorem reqPieces_hbm (wr : Bool) (n : Nat) : s.reqPieces p wr n = .ok [{ pa := p.addr.toNat, n := n, hc := p.hc, guard := false }] := by
  unfold State.reqPieces
  dsimp only
  rw [if_pos hmod, padCluster_hbm hreg]

include hreg in
theorem exists_hbm (n : Nat) : s.exists? p.addr.toNat n = decide (p.addr.toNat + n ≤ s.hbmLen) := by
  rw [State.exists?, hreg]

include hans hcrc hmod hreg

/-- A read of HBM that exists: its touch, then the bytes, or the fault alone where a host core would get what cannot be corrected (R398). -/
theorem exec_readReq_hbm (hlen : p.addr.toNat + min 2048 (p.msg.toNat % 65536) ≤ s.hbmLen) :
    let n := min 2048 (p.msg.toNat % 65536)
    let g := s.gotPieces [{ pa := p.addr.toNat, n := n, hc := 0, guard := false }] 0
    let t := s.touch p.addr.toNat n p.hc
    exec (.readReq p) s = .next (if p.srcEp.toNat / 8192 = 3 ∧ g.bad ≠ [] then t.respond p stUncorrectable { bytes := [], bad := [], marks := [] }
      else t.respond p 0 g) := by
  intro n g t
  have hpads : (!s.padsOpen && [({ pa := p.addr.toNat, n := n, hc := p.hc, guard := false } : Piece)].any fun q => (padCluster q.pa).isSome) = false := by
    simp [padCluster_hbm hreg]
  change execReadReq p s = _
  unfold execReadReq
  dsimp only
  rw [if_neg (by simp [hans]), if_neg (not_not.2 hcrc), if_neg (by simp [hreg]), if_neg (by simpa [exists_hbm hreg] using fun _ => hlen), reqPieces_hbm hmod hreg]
  dsimp only
  rw [if_neg (by rw [hpads]; decide)]
  have hg : s.gotPieces [{ pa := p.addr.toNat, n := n, hc := p.hc, guard := false }] 0 = g := rfl
  rw [hg, List.filterMap_cons, padCluster_hbm hreg]
  by_cases hacc : p.srcEp.toNat / 8192 = 3 ∧ g.bad ≠ []
  · rw [if_pos hacc, if_pos ⟨hmod, hacc.1, by simpa using hacc.2⟩]
    rfl
  · rw [if_neg hacc, if_neg fun h => hacc ⟨h.2.1, by simpa using h.2.2⟩]
    rfl

theorem exec_readReq_beyond (hlen : s.hbmLen < p.addr.toNat + min 2048 (p.msg.toNat % 65536)) : exec (.readReq p) s = .fault (.absentAddress p.addr.toNat) := by
  change execReadReq p s = _
  unfold execReadReq
  dsimp only
  rw [if_neg (by simp [hans]), if_neg (not_not.2 hcrc), if_neg (by simp [hreg]), if_pos ⟨hmod, by simpa [exists_hbm hreg] using hlen⟩]

/-- A read is answered with the bytes at its address, and changes none (R343). -/
theorem runs_readReq_hbm (hlen : p.addr.toNat + min 2048 (p.msg.toNat % 65536) ≤ s.hbmLen) :
    let a := p.addr.toNat
    let n := min 2048 (p.msg.toNat % 65536)
    let g := s.gotPieces [{ pa := a, n := n, hc := 0, guard := false }] 0
    ¬(p.srcEp.toNat / 8192 = 3 ∧ g.bad ≠ []) → Runs (.readReq p) s (fun t => t.mem = s.mem ∧ t.parts = s.parts ∧
      ((∀ h ∈ s.hubs, h.2.lost = false) → s.plan.lostStacks = [] → (∀ d ∈ s.plan.dAreas.head?, ¬(a < d.1 + d.2 ∧ d.1 < a + n)) → g.bytes = s.mem.readN a n) ∧
      t.out = s.out ++ [.packet (pktFinish { packetOf 0x01 1 p.srcEp p.dstEp 0xFF p.part.toNat p.tag a 0 g.bytes with bad := g.bad, marks := g.marks })]) := by
  intro a n g hacc
  refine ⟨_, (exec_readReq_hbm hans hcrc hmod hreg hlen).trans (by rw [if_neg hacc]), ?_⟩
  rw [respond_own _ hmod]
  refine ⟨touch_mem .., touch_parts .., fun hhubs hstacks hpar => ?_, ?_⟩
  · exact (List.append_nil _).trans (hubRead_eq_readN hhubs hstacks hpar)
  · rw [emit_out, touch_out]
    rfl

/-- A host core's read of what cannot be corrected is answered with the fault alone (R398). -/
theorem runs_readReq_fault (hlen : p.addr.toNat + min 2048 (p.msg.toNat % 65536) ≤ s.hbmLen) :
    let a := p.addr.toNat
    let n := min 2048 (p.msg.toNat % 65536)
    let g := s.gotPieces [{ pa := a, n := n, hc := 0, guard := false }] 0
    p.srcEp.toNat / 8192 = 3 ∧ g.bad ≠ [] → Runs (.readReq p) s (fun t => t.mem = s.mem ∧ t.parts = s.parts ∧
      t.out = s.out ++ [.packet (pktFinish (packetOf 0x01 1 p.srcEp p.dstEp 0xFF p.part.toNat p.tag a (stUncorrectable.setWidth 128) []))]) := by
  intro a n g hacc
  refine ⟨_, (exec_readReq_hbm hans hcrc hmod hreg hlen).trans (by rw [if_pos hacc]), ?_⟩
  rw [respond_own _ hmod]
  refine ⟨touch_mem .., touch_parts .., ?_⟩
  rw [emit_out, touch_out]
  rfl

end

/-! ### Writes of HBM (R240, R261) -/

section
variable (s : State)

theorem coalMerge_parts (c off : Nat) (bs : List Byte) (who : Nat) : (s.coalMerge c off bs who).parts = s.parts := by
  unfold State.coalMerge
  dsimp only
  split
  · rfl
  · rw [updCl_parts]
    split
    · split
      · exact coalOut_parts ..
      · rfl
    · rfl

theorem coalStore_parts (c off : Nat) (bs : List Byte) (who : Nat) : (s.coalStore c off bs who).parts = s.parts :=
  foldl_same (P := State.parts) (f := fun t (x : Nat × Nat) => t.coalMerge c x.1 ((bs.drop (x.1 - off)).take x.2) who) (fun _ _ => coalMerge_parts ..) _ s

theorem coalAhead_parts (pa n : Nat) : (s.coalAhead pa n).parts = s.parts := by
  unfold State.coalAhead
  split
  · dsimp only
    split
    · exact coalOut_parts ..
    · rfl
  · rfl

theorem storeSide_parts (w : Wr) : (s.storeSide w).parts = s.parts := by
  rw [← coalAhead_parts s w.pa w.bytes.length]
  unfold State.storeSide
  dsimp only
  split
  · split
    · rfl
    · rw [updCl_parts]
      exact coalStore_parts ..
  · rfl

theorem noticeRegion_parts (region : Nat) : (s.noticeRegion region).1.parts = s.parts := by
  unfold State.noticeRegion
  dsimp only
  split
  · rfl
  · exact (foldl_same (P := State.parts) (by intros; rfl) _ _).trans rfl

theorem noticeWrite_parts (pa n : Nat) : (s.noticeWrite pa n).parts = s.parts := by
  have hregions := foldl_same (P := State.parts) (f := fun t r => (State.noticeRegion t r).1) noticeRegion_parts (regionsOf pa n) s
  unfold State.noticeWrite
  split
  · exact hregions
  · exact hregions
  · rfl

theorem store_parts (w : Wr) (hc : Nat) : (s.store w hc).parts = s.parts := by
  have hraw : (s.storeRaw w hc).parts = s.parts := ((noticeWrite_parts ..).trans (hubTouch_parts ..)).trans (storeSide_parts ..)
  unfold State.store
  split
  · dsimp only
    split
    · exact hraw
    · exact (sweepWatches_parts ..).trans hraw
  · exact hraw

end

section
variable {s : State} {p : Packet} (hans : s.answers = true) (hcrc : p.pcrc = pktCheck p) (hmod : p.srcMod = 0xFF) (hreg : regionOf p.addr.toNat = .hbm)
  (hdst : 0x2000 ≤ p.dstEp.toNat)

/-- A write at one place is one store. -/
theorem wrPieces_single (q : Piece) (bs : List Byte) (bad : List Nat) : ∃ w : Wr, w.pa = q.pa ∧ w.bytes = bs.take q.n ∧ wrPieces [q] bs 0 [] bad = [(w, q.hc)] :=
  ⟨{ pa := q.pa, bytes := bs.take q.n, marks := _, bad := _ }, rfl, rfl, rfl⟩

include hmod hreg in
/-- A write to a place that is not lost and in no watched region: one store of its payload, and its acknowledgement. -/
theorem writeMem_hbm (hlost : s.lostIn p.addr.toNat p.payload.length = false) (hwatch : s.watchersOf [(p.addr.toNat, p.payload.length)] = []) :
    ∃ w : Wr, w.pa = p.addr.toNat ∧ w.bytes = p.payload ∧ s.writeMem p = (s.store w p.hc).ackWrite p.dstEp p 0 := by
  obtain ⟨w, hpa, hbytes, hw⟩ := wrPieces_single { pa := p.addr.toNat, n := p.payload.length, hc := p.hc, guard := false } p.payload p.bad
  refine ⟨w, hpa, hbytes.trans List.take_length, ?_⟩
  unfold State.writeMem
  rw [reqPieces_hbm hmod hreg]
  dsimp only
  rw [List.findSome?_singleton, padCluster_hbm hreg]
  dsimp only
  rw [if_neg (by simp [hlost]), List.map_singleton, hwatch, hw]
  rfl

include hans hcrc hreg hdst

theorem exec_write_hbm (hlen : p.addr.toNat + p.payload.length ≤ s.hbmLen) : exec (.write p) s = .next (s.writeMem p) := by
  change execWrite p s = _
  unfold execWrite
  rw [if_neg (by simp [hans]), if_neg (not_not.2 hcrc), if_neg (Nat.not_lt.2 hdst), if_neg (by simp [hreg]), if_neg (by simpa [exists_hbm hreg] using fun _ => hlen)]

include hmod

theorem exec_write_beyond (hlen : s.hbmLen < p.addr.toNat + p.payload.length) : exec (.write p) s = .fault (.absentAddress p.addr.toNat) := by
  change execWrite p s = _
  unfold execWrite
  rw [if_neg (by simp [hans]), if_neg (not_not.2 hcrc), if_neg (Nat.not_lt.2 hdst), if_neg (by simp [hreg]), if_pos ⟨hmod, by simpa [exists_hbm hreg] using hlen⟩]

/-- A write stores its payload at its address and nothing else, and is acknowledged at once where no region is watched. -/
theorem runs_write_hbm (hlen : p.addr.toNat + p.payload.length ≤ s.hbmLen) (hlost : s.lostIn p.addr.toNat p.payload.length = false)
    (hwatch : s.watchersOf [(p.addr.toNat, p.payload.length)] = []) :
    let a := p.addr.toNat
    Runs (.write p) s (fun t => t.parts = s.parts ∧
      (∀ b, t.mem.byte b = if a ≤ b ∧ b < a + p.payload.length then p.payload.getD (b - a) 0 else s.mem.byte b) ∧
      Out.packet (pktFinish (packetOf 0x03 1 p.srcEp p.dstEp 0xFF p.part.toNat p.tag a 0 [])) ∈ t.out) := by
  intro a
  obtain ⟨w, hpa, hbytes, hw⟩ := writeMem_hbm hmod hreg hlost hwatch
  refine ⟨_, (exec_write_hbm hans hcrc hreg hdst hlen).trans (by rw [hw]), ?_⟩
  rw [State.ackWrite, stamp_inside _ hmod, hmod]
  refine ⟨store_parts .., fun b => ?_, List.mem_append_right _ (List.mem_singleton_self _)⟩
  rw [emit_mem, store_mem, hpa, hbytes, memory_byte_writeN, List.getD_eq_getElem?_getD]

end

/-! ### The statement -/

/-- Settles O29: reads are `runs_readReq_hbm` and `runs_readReq_fault`, writes `runs_write_hbm`, places `stackPlace_inj` and `pseudoChannel_turn`, parity
`rebuilt_eq_byte`. -/
theorem memoryRequests : Obligations.MemoryRequests := by
  unfold Obligations.MemoryRequests
  intro s p a n hans
  refine ⟨fun hcrc hmod hreg => ⟨runs_readReq_hbm hans hcrc hmod hreg, runs_readReq_fault hans hcrc hmod hreg, exec_readReq_beyond hans hcrc hmod hreg,
      fun hdst => runs_write_hbm hans hcrc hmod hreg hdst, fun hdst => exec_write_beyond hans hcrc hmod hreg hdst⟩,
    fun hcrc => ⟨exec_readReq_nak hans hcrc, exec_write_nak hans hcrc, exec_addPiece_nak hcrc⟩,
    fun hnodup _ _ ha hb => stackPlace_inj hnodup ha hb, pseudoChannel_turn a, fun _ => rebuilt_eq_byte s⟩

end Sys2Proof.Machine
end

section
/-! SUPPORT. PBUF (R283, R286, R287): what its job answers for a record and a shard entry that read clean, what the control core makes of the answer, and the
statement about it. -/

namespace Sys2Proof.Machine

/-- What PBUF with a selector gives for a header, a shard entry and the buffer that the view selects. -/
def pbufValue (h : RecH) (d : Shard) (b : Bool) (sel : Nat) : Nat :=
  if sel = 2 then h.mep b else if sel = 3 then h.tag b else if sel = 0 then 64 * (if b then d.stB else d.stA) else 64 * (if b then d.wcB else d.wcA)

/-- What PBUF answers: the state slot has room for a tile's state (R286), and a buffer is visible. -/
def pbufAnswer (h : RecH) (d : Shard) (vis : Option Bool) (sel : Nat) : Except Byte Nat :=
  match vis with
  | some b => if h.lm + h.lq + h.lv ≤ 64 * d.stSlot then .ok (pbufValue h d b sel) else .error stTimetable
  | none => .error stTimetable

theorem pbufAnswer_visible {h : RecH} {d : Shard} (b : Bool) (hroom : h.lm + h.lq + h.lv ≤ 64 * d.stSlot) (sel : Nat) :
    pbufAnswer h d (some b) sel = .ok (pbufValue h d b sel) := if_pos hroom

theorem pbufAnswer_fails {h : RecH} {d : Shard} {vis : Option Bool} (hno : vis = none ∨ 64 * d.stSlot < h.lm + h.lq + h.lv) (sel : Nat) :
    pbufAnswer h d vis sel = .error stTimetable := by
  cases vis with
  | none => rfl
  | some b => exact if_neg (Nat.not_le.2 (hno.resolve_left (by simp)))

section
variable {s : State} {x : XCtx} {views : List Nat} {va sh sel : Nat}

theorem pbufJob_misaligned (h : va % 64 ≠ 0) : Job.exec (pbufJob s x views va sh sel) = (.error stTimetable, {}) := by
  simp [jobExec_eq, pbufJob, h]

/-- On a record and a shard entry that read clean PBUF answers, and it writes nothing. -/
theorem pbufJob_clean {ps qs : List Piece} (halign : va % 64 = 0) (hps : s.xl x false va 64 = .ok ps) (hpm : (s.gotPieces ps 0).marks = [])
    (hpb : (s.gotPieces ps 0).bad = []) (hok : recOk (leNat (s.gotPieces ps 0).bytes) = true) (hsh : sh < (RecH.parse (leNat (s.gotPieces ps 0).bytes)).shards)
    (hqs : s.xl x false (va + 64 * (1 + sh)) 64 = .ok qs) (hqm : (s.gotPieces qs 0).marks = []) (hqb : (s.gotPieces qs 0).bad = []) :
    let h := RecH.parse (leNat (s.gotPieces ps 0).bytes)
    ∃ a : Acc, a.writes = [] ∧ Job.exec (pbufJob s x views va sh sel) =
      (pbufAnswer h (Shard.parse (leNat (s.gotPieces qs 0).bytes)) (h.visible (views.getD h.part 0)) sel, a) := by
  intro h
  generalize hd : Shard.parse (leNat (s.gotPieces qs 0).bytes) = d
  simp only [jobExec_eq, pbufJob, jobFrom_bind, jobFrom_require, halign, recWord, shardWord, jobFrom_readVa_ok hps hpm hpb, jobFrom_readVa_ok hqs hqm hqb,
    jobFrom_pure, hok, hsh, hd, beq_self_eq_true, Bool.and_self, decide_true, if_true]
  by_cases hroom : h.lm + h.lq + h.lv ≤ 64 * d.stSlot
  · rw [if_pos (decide_eq_true hroom)]
    cases h.visible (views.getD h.part 0) with
    | none => exact ⟨_, rfl, rfl⟩
    | some b =>
      rw [pbufAnswer_visible b hroom]
      dsimp only [pbufValue]
      split
      · exact ⟨_, rfl, rfl⟩
      · split <;> exact ⟨_, rfl, rfl⟩
  · rw [if_neg (by simpa using hroom), pbufAnswer_fails (.inr (Nat.lt_of_not_le hroom))]
    exact ⟨_, rfl, rfl⟩

end

/-! ### PBUF at the control core -/

/-- The views that the consignment of a run has latched (R287). -/
def State.viewsOf (s : State) (r : Run) : List Nat := ((s.entry r.part r.seq).map (·.views)).getD []

section
variable {s u : State} {c sel : Nat} {rd ra rb : Reg} {r : Run} {a : Acc} (hlive : s.coreLive c = true) (hf : s.fetch c 4 = (u, true))
  (hrun : (u.cl c).run = some r)

include hlive hf hrun

/-- A PBUF that is answered puts the value into rd and goes on. -/
theorem pbuf_ok {v : Nat} (hjob : Job.exec (pbufJob u (r.ctx c) (u.viewsOf r) (u.reg c ra).toNat (u.reg c rb).toNat sel) = (.ok v, a)) :
    s.pbuf c rd ra rb sel = .next (((u.settle a).setReg c rd (BitVec.ofNat 64 v)).pcStep c 4) := by
  unfold State.viewsOf at hjob
  rw [State.pbuf, onCore_live hlive hf, hrun]
  simp only [hjob, waits, Bool.false_eq_true, if_false]

/-- A PBUF that fails ends the consignment with its status. -/
theorem pbuf_error {e : Byte} (he : e ≠ stHold)
    (hjob : Job.exec (pbufJob u (r.ctx c) (u.viewsOf r) (u.reg c ra).toNat (u.reg c rb).toNat sel) = (.error e, a)) :
    s.pbuf c rd ra rb sel = .next ((u.settle a).failCore c e) := by
  unfold State.viewsOf at hjob
  rw [State.pbuf, onCore_live hlive hf, hrun]
  simp only [hjob, waits, beq_eq_false_iff_ne.2 he, Bool.false_eq_true, if_false]

end

/-- A fetch that succeeds leaves the run of its core. -/
theorem fetch_run {s u : State} {c n : Nat} (hf : s.fetch c n = (u, true)) : (u.cl c).run = (s.cl c).run := by
  obtain ⟨hrun, -⟩ := fetch_frame (s := s) (c := c) (n := n) (by rw [hf])
  rwa [hf] at hrun

/-- A failure of the control core adds its status to those that its consignment's entry reports, whatever its job has read. -/
theorem settle_failCore_statuses {s : State} {c : Nat} {r : Run} {x : Entry} (a : Acc) (hrun : (s.cl c).run = some r) (hstop : r.stopped = false)
    (hx : s.entry r.part r.seq = some x) (st : Byte) :
    ∃ x', ((s.settle a).failCore c st).entry r.part r.seq = some x' ∧ x'.fails.map (·.status) = x.fails.map (·.status) ++ [st] := by
  have hcalm : Calm s (s.settle a) := calm_settle ..
  obtain ⟨-, hfails⟩ := failCore_spec ((calm_run hcalm c).trans hrun) hstop st
  rw [calm_failsOf hcalm, show s.failsOf r.part r.seq = some x.fails by rw [State.failsOf, hx]; rfl] at hfails
  obtain ⟨x', hx', hl⟩ := entry_of_failsOf hfails
  exact ⟨x', hx', by simp [hl]⟩

/-- Settles O11: what PBUF's job answers is `pbufJob_clean` and `pbufJob_misaligned`, and the core takes the answer by `pbuf_ok` or fails by `pbuf_error`. -/
theorem pairBuffers : Obligations.PairBuffers := by
  unfold Obligations.PairBuffers
  intro s u c rd ra rb run ps hlive hf hrun va sh hv h vis clean gives all
  have hurun : (u.cl c).run = some run := (fetch_run hf).trans hrun
  obtain ⟨-, hstop⟩ := coreLive_run hlive hrun
  have hctx : u.ctxOf c = run.ctx c := by rw [State.ctxOf, hurun]
  have hforms : ∀ i ∈ all, ∃ sel, exec i s = s.pbuf c rd ra rb sel := by
    intro i hi
    simp only [all, List.mem_cons, List.not_mem_nil, or_false] at hi
    rcases hi with rfl | rfl | rfl | rfl
    exacts [⟨0, rfl⟩, ⟨1, rfl⟩, ⟨2, rfl⟩, ⟨3, rfl⟩]
  refine ⟨fun qs halign hps ⟨hpm, hpb⟩ hok hsh hqs ⟨hqm, hqb⟩ => ?_, fun hmis i hi => ?_⟩
  · intro d
    have hjob (sel : Nat) : ∃ a : Acc, a.writes = [] ∧ Job.exec (pbufJob u (run.ctx c) (u.viewsOf run) va sh sel) = (pbufAnswer h d vis sel, a) :=
      pbufJob_clean halign (hctx ▸ hps) hpm hpb hok hsh (hctx ▸ hqs) hqm hqb
    refine ⟨fun b hvis hroom => ?_, fun hno i hi => ?_⟩
    · have hgives : ∀ (i : Instr) (sel : Nat), exec i s = s.pbuf c rd ra rb sel → gives i (pbufValue h d b sel) := by
        intro i sel hi
        obtain ⟨a, hwrites, ha⟩ := hjob sel
        rw [hvis, pbufAnswer_visible b hroom] at ha
        have hcalm : Calm u (u.settle a) := calm_settle ..
        refine ⟨_, hi.trans (pbuf_ok hlive hf hurun ha), ?_, ?_, fun k => ?_⟩
        · rw [pcStep_mem, setReg_mem, settle_mem_none u a _ hwrites]
        · rw [pcStep_core, setReg_pc, calm_core hcalm]
        · rw [reg_pcStep, reg_setReg, calm_reg hcalm]
      exact ⟨hgives _ 2 rfl, hgives _ 3 rfl, hgives _ 0 rfl, hgives _ 1 rfl⟩
    · obtain ⟨sel, hexec⟩ := hforms i hi
      obtain ⟨a, -, ha⟩ := hjob sel
      rw [pbufAnswer_fails hno] at ha
      exact ⟨_, hexec.trans (pbuf_error hlive hf hurun (by decide) ha), fun x hx => settle_failCore_statuses a hurun hstop hx stTimetable⟩
  · obtain ⟨sel, hexec⟩ := hforms i hi
    rw [hexec, pbuf_error hlive hf hurun (by decide) (pbufJob_misaligned hmis), settle_empty]

end Sys2Proof.Machine
end

section
/-! SUPPORT. The Update Station (R286, R288, R290, R304): no read of a drift sample writes, what an open gate and a sample that agrees leave, and the statement
about them. -/

namespace Sys2Proof.Machine

/-! ### Jobs that write nothing -/

/-- A job that adds nothing to what is to be written. -/
structure Job.Reads (j : Job α) : Prop where
  writes : ∀ a, (jobFrom j a).2.writes = a.writes

namespace Job.Reads

theorem pure (x : α) : Job.Reads (Pure.pure x : Job α) := ⟨fun _ => rfl⟩
theorem fail (e : Byte) : Job.Reads (Job.fail e : Job α) := ⟨fun _ => rfl⟩
theorem require (b : Bool) (e : Byte) : Job.Reads (Job.require b e) := ⟨fun a => by rw [jobFrom_require]⟩
theorem lift (x : Except Byte α) : Job.Reads (Job.lift x) := ⟨fun a => by rw [jobFrom_lift]⟩
theorem note {f : Acc → Acc} (hf : ∀ a, (f a).writes = a.writes) : Job.Reads (Job.note f) := ⟨hf⟩

theorem bind {j : Job α} {f : α → Job β} (hj : Job.Reads j) (hf : ∀ x, Job.Reads (f x)) : Job.Reads (j >>= f) := by
  refine ⟨fun a => ?_⟩
  have hja := hj.writes a
  rw [jobFrom_bind]
  generalize jobFrom j a = o at hja ⊢
  obtain ⟨e | x, b⟩ := o
  · exact hja
  · exact ((hf x).writes b).trans hja

theorem xl (s : State) (x : XCtx) (wr : Bool) (va n : Nat) : Job.Reads (Job.xl s x wr va n) := bind (note fun _ => rfl) fun _ => lift _

/-- A job run from an empty record has nothing to write. -/
theorem exec_writes {j : Job α} (h : Job.Reads j) {r : Except Byte α} {a : Acc} (hj : Job.exec j = (r, a)) : a.writes = [] := by
  have := h.writes {}
  rwa [← jobExec_eq, hj] at this

end Job.Reads

section
variable (s : State) (x : XCtx)

theorem consume_reads (g : Got) (base : Nat) (eats : Nat → Nat → Bool) : (consume g base eats).Reads := by
  unfold consume
  dsimp only
  split
  · exact .fail _
  · exact .require _ _

theorem readVa_reads (va n : Nat) : (readVa s x va n).Reads := by
  unfold readVa readRaw
  refine .bind (.bind (.xl ..) fun _ => .bind (.note fun _ => rfl) fun _ => .pure _) fun g => ?_
  split
  · exact .fail _
  · split
    · exact .pure _
    · exact .fail _

theorem rdPages_reads (ok : Nat → Bool) (need : Need) (va off fuel : Nat) : ∀ done n, (rdPages s x ok need va off fuel done n).Reads := by
  induction fuel with
  | zero => exact fun _ _ => .pure _
  | succ fuel ih =>
    intro done n
    unfold rdPages
    split
    · exact .pure _
    · refine .bind (.note fun _ => rfl) fun _ => ?_
      split
      · exact .bind (.note fun _ => rfl) fun _ => .bind (ih ..) fun _ => .pure _
      · exact .bind (.require ..) fun _ => .bind (ih ..) fun _ => .pure _

/-- A tile parsed through a reader that writes nothing. -/
theorem parseTile_reads {rd : Reader} (hrd : ∀ need off n, (rd need off n).Reads) (fmt : Nat) (ok : Hdr → Bool) (live : Nat → Bool) :
    (parseTile rd fmt ok live).Reads := by
  unfold parseTile
  exact .bind (hrd ..) fun _ => .bind (consume_reads ..) fun _ => .bind (.require ..) fun _ => .bind (hrd ..) fun _ => .bind (hrd ..) fun _ =>
    .bind (consume_reads ..) fun _ => .lift _

theorem rdUpd_reads (c va : Nat) (need : Need) (off n : Nat) : (rdUpd s x c va need off n).Reads := rdPages_reads ..

theorem masterTile_reads (c va : Nat) (h : RecH) : (masterTile s x c va h).Reads := parseTile_reads (fun _ _ _ => rdUpd_reads ..) ..

theorem recOf_reads (va : Nat) (bad : Byte) : (recOf s x va bad).Reads := by
  unfold recOf recForm recWord
  exact .bind (.bind (.bind (readVa_reads ..) fun _ => .pure _) fun _ => .bind (.require ..) fun _ => .pure _) fun _ => .bind (.require ..) fun _ => .pure _

theorem shardOf_reads (va : Nat) (h : RecH) (i : Nat) (bad : Byte) : (shardOf s x va h i bad).Reads := by
  unfold shardOf shardWord
  exact .bind (.bind (readVa_reads ..) fun _ => .pure _) fun _ => .bind (.require ..) fun _ => .pure _

/-- A drift sample writes nothing. -/
theorem driftJob_reads (c : Nat) (q : Drift) : (driftJob s x c q).Reads := by
  unfold driftJob
  refine .bind (recOf_reads ..) fun h => .bind (shardOf_reads ..) fun d => ?_
  split
  · exact .fail _
  · refine .bind (masterTile_reads ..) fun mt => ?_
    dsimp only
    split
    · exact .fail _
    · refine .bind (rdUpd_reads ..) fun g => ?_
      split
      · exact .pure _
      · refine .bind (rdUpd_reads ..) fun body => ?_
        split <;> exact .pure _

end

/-! ### The gate of pending writes (R288) -/

/-- The tag P and the source's mask epoch written into the destination's place of the record at an address. -/
def gateJob (s : State) (x : XCtx) (va ep p : Nat) : Job Unit := do
  let h ← recOf s x va stDesc
  match h.visible ep with
  | none => Job.fail stDesc
  | some b => Job.fold (fun _ (w : Nat × List Byte) => writeVa s x (va + w.1) w.2) () (tagWrites (!b) p (h.mep b))

/-- What the gate makes of its job's outcome. -/
def State.gateAnswered (s : State) (c : Nat) (e : WbEntry) (o : Except Byte Unit × Acc) : Res :=
  if waits o.1 then .next s else
  match o.1 with
  | .ok _ => .next ((s.settle o.2).updWb c 6 0 fun e => { e with gated := true })
  | .error st => .next ((s.settle o.2.upToFailure).failWb c 6 e st (upFirst e.wb) (upShard e.wb))

/-- A STEP that waits at an open gate has its job done. -/
theorem exec_pendingWriteGate_open {s : State} {c : Nat} {e : WbEntry} {r : Run} {k : Commit} (hat : s.runningWb c 6 0 = some e) (hrun : (s.cl c).run = some r)
    (hcommit : (s.pt r.part).commit = some k) (hop : upOp e.wb = 0) (hgated : e.gated = false) (hstop : r.stopped = false)
    (hgate : s.gateOpen r.part (s.pt r.part).e = true) :
    exec (.pendingWriteGate c) s = s.gateAnswered c e (Job.exec (gateJob s (r.ctx c) (upRec e.wb) (s.pt r.part).e k.p)) := by
  change execPendingWriteGate c s = _
  simp only [execPendingWriteGate, hat, hrun, hcommit, hop, hgated, hstop, hgate]
  rfl

/-! ### The drift monitor (R304) -/

theorem calm_driftDue {s t : State} (h : Calm s t) (c : Nat) : (t.cl c).driftDue = (s.cl c).driftDue := (congrArg Cluster.driftDue (h.cl c) :)

/-- The state after a sample that agrees. -/
def State.driftAgreed (s : State) (c : Nat) (a : Acc) : State :=
  ((((s.settle a true).drawn.updCl c fun cl => { cl with driftDue := cl.driftDue.tail }).bump 0x5070 1 1).bump 0x5070 2 0).updCl c fun cl => { cl with drifts := 0 }

theorem driftAgreed_mem (s : State) (c : Nat) (a : Acc) : (s.driftAgreed c a).mem = (s.settle a true).mem := rfl

theorem driftAgreed_cl (s : State) (c : Nat) (a : Acc) : ((s.driftAgreed c a).cl c).driftDue = (s.cl c).driftDue.tail ∧ ((s.driftAgreed c a).cl c).drifts = 0 := by
  simp [State.driftAgreed, calm_driftDue (calm_settle s a true)]

theorem exec_driftSample_agrees {s : State} {c : Nat} {q : Drift} {rest : List Drift} {a : Acc} (hdue : (s.cl c).driftDue = q :: rest) (hidle : s.siding c 6 = [])
    (hon : s.cfg 0x2070 4 ≠ 0)
    (hjob : Job.exec (driftJob s { cluster := some c, part := q.part, xroot := (s.pt q.part).x.xroot, xkeys := (s.pt q.part).x.xkeys } c q) = (.ok 0, a)) :
    exec (.driftSample c) s = .next (s.driftAgreed c a) := by
  change execDriftSample c s = _
  simp [execDriftSample, hdue, hidle, hon, hjob, waits, State.driftAgreed]

/-- Settles O25: STEP and REDUCE are their station's `work` (`tileWork_of_work`), the gate is `exec_pendingWriteGate_open`, and a sample that agrees is
`exec_driftSample_agrees`, whose reads write nothing (`driftJob_reads`). -/
theorem updates : Obligations.Updates := by
  unfold Obligations.Updates
  intro s c
  refine ⟨tileWork_of_work rfl, tileWork_of_work rfl, fun e r k a hat hrun hcommit hop hgated hstop hgate hjob => ?_, fun q rest a hdue hidle hon hjob => ?_⟩
  · obtain ⟨hhead, hphase⟩ := runningWb_eq hat
    have hhead' : (s.settle a).headWb c 6 0 = some e := by rw [State.headWb, calm_siding (calm_settle ..)]; exact hhead
    have hexec : exec (.pendingWriteGate c) s = .next ((s.settle a).updWb c 6 0 fun e => { e with gated := true }) :=
      (exec_pendingWriteGate_open hat hrun hcommit hop hgated hstop hgate).trans (congrArg (s.gateAnswered c e) hjob)
    exact ⟨_, hexec, _,
      updWb_headWb_of (f := fun e => { e with gated := true }) hhead' (ahead_of_running (headWb_ahead hhead) rfl hphase), rfl, rfl, rfl⟩
  · obtain ⟨hrest, hdrifts⟩ := driftAgreed_cl s c a
    refine ⟨_, exec_driftSample_agrees hdue hidle hon hjob, ?_, hdrifts, ?_⟩
    · rw [hrest, hdue, List.tail_cons]
    · exact (driftAgreed_mem ..).trans (settle_mem_none s a true ((driftJob_reads ..).exec_writes hjob))

end Sys2Proof.Machine
end

section
/-! SUPPORT. RUN, NOP, COMMIT and speculative starts (R287, R289, R298, R301, R380, R382, R383): what each command does with a consignment that may start, what
becomes of its directory, and the statement about them. -/

namespace Sys2Proof.Machine

section
variable {s : State} {p : Nat} {e : Entry}

/-! ### The commands on a consignment that may start -/

section
variable (hx : s.entry p e.seq = some e) (hstart : s.mayStart p e = true)

include hx hstart

theorem exec_run_start (hty : cdType e.desc = 0) : exec (.run p e.seq) s = .next (s.runDir (s.enterRun p e false (s.pt p).e) p e e.rerun) := by
  change execRun p e.seq s = _
  simp [execRun, hx, hty, hstart]

theorem exec_nop_start (hty : cdType e.desc = 7) : let t := s.enterRun p e false (s.pt p).e
    exec (.nop p e.seq) s = .next (if descOk e.desc then t.markDone p e.seq else t.refuseEntry p e.seq stConsignment) := by
  change execNop p e.seq s = _
  simp [execNop, hx, hty, hstart]

theorem exec_commit_start (hty : cdType e.desc = 3) : exec (.commit p e.seq) s = .next (s.beginCommit (s.enterRun p e false (s.pt p).e) p e false) := by
  change execCommit p e.seq s = _
  simp [execCommit, hx, hty, hstart]

end

/-- A NOP marked `spec` that begins while the COMMIT awaits its gate, below the limit, is done on the pending epoch (R301). -/
theorem exec_speculativeStart_nop {k : Commit} (hx : s.entry p e.seq = some e) (hcommit : (s.pt p).commit = some k) (hgating : k.st = .gating)
    (hbegin : s.mayBegin p e = true) (hspec : cdSpec e.desc = true) (hty : cdType e.desc = 7) (hok : descOk e.desc = true)
    (hlimit : ((s.pt p).entries.filter fun x => x.spec && x.st == .running).length < min 16 (s.cfg 0x2070 1)) :
    exec (.speculativeStart p e.seq) s = .next ((s.enterRun p e true k.p).markDone p e.seq) := by
  have hmay : s.mayBegin p e = true ∧ k.st = .gating ∧ (cdType e.desc = 0 ∨ cdType e.desc = 7) ∧ cdSpec e.desc = true ∧
      ((s.pt p).entries.filter fun x => x.spec && x.st == .running).length < min 16 (s.cfg 0x2070 1) := ⟨hbegin, hgating, .inr hty, hspec, hlimit⟩
  change execSpeculativeStart p e.seq s = _
  simp only [execSpeculativeStart, hx, hcommit, if_pos hmay, if_pos hok, if_neg (show ¬ cdType e.desc = 0 by rw [hty]; decide)]

/-! ### A directory (R380, R382, R383) -/

/-- An entry that has taken a directory. -/
def Entry.withDir (e : Entry) (dir : List (Nat × Nat)) : Entry := { e with dir := dir, todo := dir, clusters := dir.map (·.1), ended := [] }

theorem takeDir_eq (t : State) (seq : Nat) (dir : List (Nat × Nat)) : t.takeDir p seq dir = (t.updEntry p seq fun e => e.withDir dir).startReady p := rfl

section
variable {t : State} {resumed : Bool}

theorem runDir_refused (h : descOk e.desc = false) : s.runDir t p e resumed = t.refuseEntry p e.seq stConsignment := by
  simp [State.runDir, h]

theorem runDir_none (hok : descOk e.desc = true) (hsize : cdSize e.desc = 0) : s.runDir t p e resumed = t.markDone p e.seq := by
  simp [State.runDir, hok, hsize]

theorem runDir_taken {dir : List (Nat × Nat)} {a : Acc} (hok : descOk e.desc = true) (hsize : cdSize e.desc ≠ 0)
    (hdir : Job.exec (dirOf t p e.desc resumed) = (.ok dir, a)) : s.runDir t p e resumed = (t.settle a).takeDir p e.seq dir := by
  simp [State.runDir, hok, hsize, hdir, waits]

end

/-! ### A COMMIT that begins (R289, R292, R298) -/

/-- What a partition holds of a COMMIT that begins, with its block, its records and its pairing number. -/
def Part.commitOf (pt : Part) (seq : Nat) (b : Desc) (rs : List (Nat × RecH × List Shard)) (pairing : Nat) : Commit where
  seq := seq
  p := pt.e + 1
  clipNorm := cbWord b 1
  blk := b
  recs := rs.map (·.1)
  s := if fld b 314 1 = 1 then fld b 320 64 else pt.s
  retained := retainedOf rs
  pairing := pairing

/-- A partition with a COMMIT begun, and its pairing number counted. -/
def State.inUpdating (s : State) (p : Nat) (k : Commit) : State := s.updPt p fun pt => { pt with commit := some k, pairings := k.pairing }

/-- A COMMIT whose block, records and directory check is in UPDATING, numbered next, and starts on its clusters. -/
theorem beginCommit_taken {t : State} {b : Desc} {rs : List (Nat × RecH × List Shard)} {dir : List (Nat × Nat)} {a : Acc} (hsize : cdSize e.desc ≠ 0)
    (hread : Job.exec (commitRead (t.dropDrifts p) p e false) = (.ok (b, rs, dir), a)) :
    let pt := (t.dropDrifts p).pt p
    s.beginCommit t p e false = (((t.dropDrifts p).settle a).inUpdating p (pt.commitOf e.seq b rs (pt.pairings + 1))).takeDir p e.seq dir := by
  simp [State.beginCommit, hsize, hread, waits, Part.commitOf, State.inUpdating]

/-- As it starts, a COMMIT finds the epoch, the step count and the pairings of its partition. -/
theorem started_commitOf (seq : Nat) (b : Desc) (rs : List (Nat × RecH × List Shard)) (spec : Bool) (view : Nat) :
    let pt := ((s.enterRun p e spec view).dropDrifts p).pt p
    pt.commitOf seq b rs (pt.pairings + 1) = (s.pt p).commitOf seq b rs ((s.pt p).pairings + 1) := by
  intro pt
  have hpt : pt = (s.updEntry p e.seq (s.started p spec view)).pt p := by
    unfold pt
    rw [State.pt, dropDrifts_parts]
    exact enterRun_pt ..
  rw [hpt]
  exact updEntry_pt_same (P := fun pt => pt.commitOf seq b rs (pt.pairings + 1)) (fun _ _ => rfl) ..

end

/-- Settles O43: each command's start is its `exec_…_start`, a directory is refused, empty or taken by `runDir_refused`, `runDir_none` and `runDir_taken`, and a
COMMIT begins by `beginCommit_taken`. -/
theorem starts : Obligations.Starts := by
  unfold Obligations.Starts
  intro s p seq e hx hseq
  subst hseq
  extract_lets t₀
  have hx₀ : t₀.entry p e.seq = some (s.started p false (s.pt p).e e) := enterRun_entry _ _ hx
  refine ⟨fun hstart hok => ⟨fun hty => ?_, fun hty hsize => ?_, fun hty hsize dir a hdir => ?_, fun hty hsize b rs dir a hread => ?_⟩,
    fun hstart hbad hty => ?_, fun k hcommit hgating hbegin hspec hty hok hlimit => ?_⟩
  · have hexec := exec_nop_start hx hstart hty
    simp only [hok, if_true] at hexec
    exact ⟨_, hexec, _, markDone_entry hx₀, rfl, rfl, rfl, rfl, enterRun_mem .., enterRun_clusters ..⟩
  · exact ⟨_, (exec_run_start hx hstart hty).trans (congrArg _ (runDir_none hok hsize)), _, markDone_entry hx₀, rfl, rfl⟩
  · obtain ⟨y, hy, hyx⟩ := calm_entry (calm_settle t₀ a false) hx₀
    exact ⟨_, (exec_run_start hx hstart hty).trans (congrArg _ (runDir_taken hok hsize hdir)), _,
      ⟨_, entry_updEntry_some (f := fun e => e.withDir dir) (fun _ => rfl) hy, (congrArg Entry.st hyx :), rfl, rfl, rfl⟩, takeDir_eq ..⟩
  · refine ⟨_, (exec_commit_start hx hstart hty).trans (congrArg _ (beginCommit_taken hsize hread)), _, rfl,
      (s.pt p).commitOf e.seq b rs ((s.pt p).pairings + 1), ?_, rfl, rfl, rfl, rfl, rfl, rfl⟩
    rw [State.inUpdating, updPt_pt_same, started_commitOf]
  · rcases hty with hty | hty
    · rw [if_pos hty, exec_run_start hx hstart hty, runDir_refused hbad]
    · rw [if_neg (by rw [hty]; decide), exec_nop_start hx hstart hty, if_neg (by rw [hbad]; decide)]
  · exact ⟨_, exec_speculativeStart_nop hx hcommit hgating hbegin hspec hty hok hlimit, _, markDone_entry (enterRun_entry _ _ hx), rfl, rfl, rfl, rfl⟩

end Sys2Proof.Machine
end

section
/-! SUPPORT. Commit groups, geometry notices, reruns and acknowledgements (R291, R313, R332, R410, R411, R414): what stores and events leave of the objects,
what a stop keeps of a partition, and the statement about them. -/

namespace Sys2Proof.Machine

/-! ### Objects that no store counts in -/

section
variable {i j : Nat} (h : objKey i j ∉ readKeys) (s : State)
include h

theorem coalMerge_obj (c off : Nat) (bs : List Byte) (who : Nat) : (s.coalMerge c off bs who).obj i j = s.obj i j := by
  unfold State.coalMerge
  dsimp only
  split
  · rfl
  · rw [updCl_obj]
    split
    · split
      · exact coalOut_obj h ..
      · rfl
    · rfl

theorem coalAhead_obj (pa n : Nat) : (s.coalAhead pa n).obj i j = s.obj i j := by
  unfold State.coalAhead
  split
  · dsimp only
    split
    · exact coalOut_obj h ..
    · rfl
  · rfl

theorem storeSide_obj (w : Wr) : (s.storeSide w).obj i j = s.obj i j := by
  rw [← coalAhead_obj h s w.pa w.bytes.length]
  unfold State.storeSide
  dsimp only
  split
  · split
    · rfl
    · rw [updCl_obj]
      exact foldl_same (P := fun t : State => t.obj i j) (by intros; exact coalMerge_obj h ..) _ _
  · rfl

omit h in
theorem noticeWrite_dict (pa n : Nat) : (s.noticeWrite pa n).dict = s.dict := by
  have hregions := foldl_same (P := State.dict) (f := fun t r => (State.noticeRegion t r).1) (fun t r => by
    unfold State.noticeRegion
    dsimp only
    split
    · rfl
    · exact (foldl_same (P := State.dict) (by intros; rfl) _ _).trans rfl) (regionsOf pa n) s
  unfold State.noticeWrite
  split
  · exact hregions
  · exact hregions
  · rfl

omit h in
theorem sweepWatches_dict (c : Nat) : (s.sweepWatches c).dict = s.dict := (foldl_same (P := State.dict) (by intros; rfl) _ _).trans rfl

theorem store_obj (w : Wr) (hc : Nat) : (s.store w hc).obj i j = s.obj i j := by
  have hraw : (s.storeRaw w hc).obj i j = s.obj i j := ((obj_congr (noticeWrite_dict ..) i j).trans (hubTouch_obj h ..)).trans (storeSide_obj h ..)
  unfold State.store
  split
  · dsimp only
    split
    · exact hraw
    · exact (obj_congr (sweepWatches_dict ..) i j).trans hraw
  · exact hraw

end

/-! ### Events (R392) -/

section
variable (s : State) (code part arg : Nat)

theorem event_parts : (s.event code part arg).parts = s.parts := by
  unfold State.event
  extract_lets k n at0 h lap word0 t₁ evt t₂
  have h₂ : t₂.parts = s.parts := store_parts ..
  clear_value t₂
  split
  · rfl
  · split
    · rw [msiFor_parts, h₂]
    · exact h₂

theorem msiFor_dict (irq : Word) : (s.msiFor irq).dict = s.dict := by unfold State.msiFor; dsimp only; split <;> rfl
theorem msiFor_recov (irq : Word) : (s.msiFor irq).recov = s.recov := by unfold State.msiFor; dsimp only; split <;> rfl

/-- An event counts in 0x5803.11 when it is discarded, and its store in the objects of reads. -/
theorem event_obj {i j : Nat} (h : objKey i j ∉ readKeys) (hlost : objKey i j ≠ objKey 0x5803 0x11) : (s.event code part arg).obj i j = s.obj i j := by
  unfold State.event
  extract_lets k n at0 h' lap word0 t₁ evt t₂
  have h₂ : t₂.obj i j = s.obj i j := store_obj h ..
  clear_value t₂
  split
  · exact setObj_obj_ne _ _ _ _ _ _ hlost
  · split
    · rw [obj_congr (msiFor_dict ..), h₂]
    · exact h₂

end

/-! ### Values of the group (R291, R313) -/

/-- A value of another module kept for the gate: it takes the place of an earlier one for the same COMMIT and pass. -/
def State.valueKept (s : State) (p : Nat) (v : PeerVal) : State :=
  s.updPt p fun pt => { pt with peers := pt.peers.filter (fun x => !(x.mod == v.mod && x.k == v.k && x.clip == v.clip)) ++ [v] }

theorem exec_commitPartials {s : State} {p mod : Nat} (hpeer : (s.pt p).groupPeers.contains mod = true) (k : Nat) (clip : Bool) (sq nf : Word) :
    exec (.commitPartials p mod k clip sq nf) s = .next ((s.valueKept p { k := k, clip := clip, mod := mod, sq := sq, nf := nf }).decideGate p) := by
  change execCommitPartials p mod k clip sq nf s = _
  rw [execCommitPartials, hpeer, if_neg (by decide), State.valueKept]

/-! ### The geometry generation (R332) -/

theorem geoStep_pt (s : State) (p q : Nat) : (s.geoStep p).pt q = if q = p then { s.pt p with geo := ((s.pt p).geo + 1) % 2 ^ 32 } else s.pt q := by
  have hparts : (s.geoStep p).parts = (s.updPt p fun pt => { pt with geo := ((s.pt p).geo + 1) % 2 ^ 32 }).parts := event_parts ..
  rw [State.pt, hparts]
  split
  · next h => subst h; exact updPt_pt_same ..
  · next h => exact updPt_pt_ne _ _ _ _ h

theorem geoStep_obj (s : State) {p : Nat} (hp : p < 16) : (s.geoStep p).obj 0x7801 (p + 1) = ((s.pt p).geo + 1) % 2 ^ 32 := by
  have hkeys : ∀ p < 16, objKey 0x7801 (p + 1) ∉ readKeys ∧ objKey 0x7801 (p + 1) ≠ objKey 0x5803 0x11 := by decide
  obtain ⟨hread, hlost⟩ := hkeys p hp
  unfold State.geoStep
  dsimp only
  rw [event_obj _ _ _ _ hread hlost, setObj_obj_same]
  omega

/-! ### What a stop keeps of a partition (R72, R302, R410) -/

/-- An entry by its number and descriptor alone. -/
def Entry.bare (e : Entry) : Entry := { seq := e.seq, desc := e.desc }

/-- A partition with its entries by number and descriptor alone. -/
def Part.bare (pt : Part) : Part := { pt with entries := pt.entries.map Entry.bare }

/-- Of every partition nothing changes but its entries, and these keep their numbers and descriptors. -/
def OnlyEntries (s t : State) : Prop := ∀ p, (t.pt p).bare = (s.pt p).bare

theorem onlyEntries_refl (s : State) : OnlyEntries s s := fun _ => rfl
theorem onlyEntries_trans {s t u : State} (h : OnlyEntries s t) (k : OnlyEntries t u) : OnlyEntries s u := fun p => (k p).trans (h p)

theorem onlyEntries_foldl {α : Type} {f : State → α → State} (hf : ∀ s x, OnlyEntries s (f s x)) (l : List α) (s : State) : OnlyEntries s (l.foldl f s) :=
  foldl_keeps (P := OnlyEntries s) (fun t x h => onlyEntries_trans h (hf t x)) l s (onlyEntries_refl s)

theorem onlyEntries_of_parts {s t : State} (h : t.parts = s.parts) : OnlyEntries s t := fun p => by simp only [State.pt, h]

theorem onlyEntries_of_calm {s t : State} (h : Calm s t) : OnlyEntries s t := by
  have key (pt : Part) : pt.seen.bare = pt.bare := by
    simp only [Part.bare, Part.seen, List.map_map]
    rfl
  exact fun p => by rw [← key, h.pt p, key]

theorem onlyEntries_updEntry (s : State) (p q : Nat) {f : Entry → Entry} (hf : ∀ e, (f e).bare = e.bare) : OnlyEntries s (s.updEntry p q f) := by
  intro p'
  by_cases hp : p' = p
  · subst hp
    simp only [State.updEntry, updPt_pt_same, Part.bare, List.map_map]
    congr 1
    refine List.map_congr_left fun e _ => ?_
    simp only [Function.comp]
    split
    · exact hf e
    · rfl
  · rw [State.updEntry, updPt_pt_ne _ _ _ _ hp]

section
variable {s t : State} (h : OnlyEntries s t)
include h

theorem onlyEntries_entry {p q : Nat} {e : Entry} (he : s.entry p q = some e) : ∃ x, t.entry p q = some x ∧ x.desc = e.desc := by
  have key (u : State) : (u.entry p q).map Entry.bare = (u.pt p).bare.entries.find? fun e => e.seq == q := by
    simp only [State.entry, Part.bare, List.find?_map]
    rfl
  have hsame := (key t).trans ((congrArg (fun pt : Part => pt.entries.find? fun e => e.seq == q) (h p)).trans (key s).symm)
  rw [he] at hsame
  obtain ⟨x, hx, hbare⟩ := Option.map_eq_some_iff.1 hsame
  exact ⟨x, hx, (congrArg Entry.desc hbare :)⟩

theorem onlyEntries_commit (p : Nat) : (t.pt p).commit = (s.pt p).commit := (congrArg Part.commit (h p) :)
theorem onlyEntries_peers (p : Nat) : (t.pt p).peers = (s.pt p).peers := (congrArg Part.peers (h p) :)

end

section
variable (s : State)

theorem onlyEntries_stopOn (c : Nat) (failed : Bool) : OnlyEntries s (s.stopOn c failed) := by
  unfold State.stopOn
  split
  · exact onlyEntries_refl s
  next r _ =>
    split
    · exact onlyEntries_refl s
    · extract_lets t₁ t₂ t₃ t₄
      have h₁ : OnlyEntries s t₁ := onlyEntries_updEntry s r.part r.seq fun _ => rfl
      have h₂ : OnlyEntries t₁ t₂ := by
        unfold t₂
        split
        · exact onlyEntries_of_parts (scrambleAll_parts ..)
        · exact onlyEntries_refl t₁
      have h₃ : OnlyEntries t₂ t₃ := onlyEntries_foldl (fun t h => onlyEntries_of_parts (returnToken_parts t c r.part h)) _ _
      have h₄ : OnlyEntries t₃ t₄ := onlyEntries_of_calm (calm_endWatches ..)
      exact onlyEntries_trans (onlyEntries_trans (onlyEntries_trans (onlyEntries_trans h₁ h₂) h₃) h₄) (onlyEntries_of_parts (closeWindows_parts ..))

theorem onlyEntries_clearEntry (p : Nat) (e : Entry) : OnlyEntries s (s.clearEntry p e) := by
  unfold State.clearEntry
  refine onlyEntries_foldl (fun t c => ?_) _ _
  split
  · exact onlyEntries_stopOn t c false
  · exact onlyEntries_refl t

theorem onlyEntries_discard (p : Nat) (e : Entry) : OnlyEntries s (s.discard p e) := by
  unfold State.discard
  extract_lets t₁ t₂
  have h₁ : OnlyEntries s t₁ := onlyEntries_clearEntry s p e
  have h₂ : OnlyEntries t₁ t₂ := onlyEntries_of_parts (foldl_same (P := State.parts) (by intros; rfl) _ _)
  refine onlyEntries_trans (onlyEntries_trans h₁ h₂) (onlyEntries_updEntry t₂ p e.seq fun x => ?_)
  split <;> rfl

theorem onlyEntries_discardAll (p : Nat) : OnlyEntries s (s.discardAll p) := onlyEntries_foldl (fun t e => onlyEntries_discard t p e) _ _

end

/-! ### A rerun notice (R313, R414) -/

theorem entry_seq {s : State} {p q : Nat} {e : Entry} (h : s.entry p q = some e) : e.seq = q := by simpa using List.find?_some h

/-- The values of a pairing forgotten. -/
def State.forgotten (s : State) (p : Nat) (pairing : Nat) : State := s.updPt p fun pt => { pt with peers := pt.peers.filter fun v => v.k != pairing }

/-- An entry that stops to be run again. -/
def Entry.toRerun (e : Entry) : Entry := { e with rerun := true, fails := [], flags := 0, ended := [], todo := [], flips := [] }

/-- A COMMIT back in UPDATING. -/
def Commit.restarted (k : Commit) : Commit := { k with st := .updating, clipped := false, cvals := [], stepped := [] }

/-- A partition whose COMMIT with a number is back in UPDATING. -/
def Part.restarted (pt : Part) (seq : Nat) : Part := { pt with commit := pt.commit.map fun k => if k.seq = seq then k.restarted else k }

theorem restarted_entries (pt : Part) (seq : Nat) : (pt.restarted seq).entries = pt.entries := rfl
theorem restarted_peers (pt : Part) (seq : Nat) : (pt.restarted seq).peers = pt.peers := rfl

theorem restarted_commit {pt : Part} {k : Commit} (h : pt.commit = some k) : (pt.restarted k.seq).commit = some k.restarted := by
  rw [Part.restarted, h, Option.map_some, if_pos rfl]

section
variable {s : State} {p : Nat} {k : Commit} {e : Entry}

/-- An undecided COMMIT stops once the speculative runs are discarded and the values of its pairing forgotten; without a die loss it runs again. -/
theorem exec_rerunNotice (hcommit : (s.pt p).commit = some k) (hst : k.st = .updating ∨ k.st = .gating ∨ k.st = .clipping) (hx : s.entry p k.seq = some e)
    (dieLoss : Bool) : let t := ((s.discardAll p).forgotten p k.pairing).stopEntry p e
    exec (.rerunNotice ⟨p, dieLoss⟩) s = .next (if dieLoss then t.updEntry p e.seq fun x => { x with frozen := true } else t.rerunPart p) := by
  have hopen : ¬(k.st = .committed ∨ k.st = .aborted ∨ k.st = .failed) := by rcases hst with h | h | h <;> rw [h] <;> decide
  change execRerunNotice ⟨p, dieLoss⟩ s = _
  simp only [execRerunNotice, hcommit, if_neg hopen, hx, State.forgotten]

theorem forgotten_entry (pairing q : Nat) : (s.forgotten p pairing).entry p q = s.entry p q := by
  refine updPt_entry (fun pt => ?_) p q
  rfl

theorem forgotten_commit (pairing : Nat) : ((s.forgotten p pairing).pt p).commit = (s.pt p).commit := by rw [State.forgotten, updPt_pt_same]

theorem forgotten_peers (pairing : Nat) : ∀ v ∈ ((s.forgotten p pairing).pt p).peers, v.k ≠ pairing := by
  intro v hv
  rw [State.forgotten, updPt_pt_same] at hv
  simpa using (List.mem_filter.1 hv).2

theorem stopEntry_rerun (habort : e.abort = false) (htwice : e.twice = []) (hfails : ∀ f ∈ e.fails, f.status ≠ stFirmware) :
    s.stopEntry p e = ((s.clearEntry p e).updEntry p e.seq Entry.toRerun).updPt p fun pt => pt.restarted e.seq := by
  refine if_neg ?_
  simpa [habort, htwice] using hfails

/-- What the stop of a COMMIT leaves of its partition: its entry is to run again, it is back in UPDATING, and its peers' values stay. -/
theorem stopEntry_commit {x : Entry} (habort : e.abort = false) (htwice : e.twice = []) (hfails : ∀ f ∈ e.fails, f.status ≠ stFirmware)
    (hx : s.entry p k.seq = some x) (hcommit : (s.pt p).commit = some k) (hseq : e.seq = k.seq) :
    (∃ y : Entry, (s.stopEntry p e).entry p k.seq = some y.toRerun ∧ y.desc = x.desc) ∧ ((s.stopEntry p e).pt p).commit = some k.restarted ∧
      ((s.stopEntry p e).pt p).peers = (s.pt p).peers := by
  have hclear := onlyEntries_clearEntry s p e
  obtain ⟨y, hy, hyx⟩ := onlyEntries_entry hclear hx
  have hk : (((s.clearEntry p e).updEntry p k.seq Entry.toRerun).pt p).commit = some k :=
    (updEntry_pt_same (P := Part.commit) (fun _ _ => rfl) ..).trans ((onlyEntries_commit hclear p).trans hcommit)
  have hpeers : (((s.clearEntry p e).updEntry p k.seq Entry.toRerun).pt p).peers = (s.pt p).peers :=
    (updEntry_pt_same (P := Part.peers) (fun _ _ => rfl) ..).trans (onlyEntries_peers hclear p)
  rw [stopEntry_rerun habort htwice hfails, hseq, updPt_entry (fun pt => restarted_entries pt k.seq), updPt_pt_same]
  exact ⟨⟨y, entry_updEntry_some (fun _ => rfl) hy, hyx⟩, restarted_commit hk, (restarted_peers ..).trans hpeers⟩

/-- After a rerun notice the COMMIT has stopped: its entry is to run again, it is back in UPDATING, and no value of its pairing is left. -/
theorem rerunNotice_stopped (hcommit : (s.pt p).commit = some k) (hx : s.entry p k.seq = some e) (habort : e.abort = false) (htwice : e.twice = [])
    (hfails : ∀ f ∈ e.fails, f.status ≠ stFirmware) :
    let u := ((s.discardAll p).forgotten p k.pairing).stopEntry p e
    (∃ y : Entry, u.entry p k.seq = some y.toRerun ∧ y.desc = e.desc) ∧ (u.pt p).commit = some k.restarted ∧ ∀ v ∈ (u.pt p).peers, v.k ≠ k.pairing := by
  have hdiscard := onlyEntries_discardAll s p
  obtain ⟨x, hx', hxe⟩ := onlyEntries_entry hdiscard hx
  obtain ⟨⟨y, hy, hyx⟩, hk, hpeers⟩ := stopEntry_commit habort htwice hfails ((forgotten_entry k.pairing k.seq).trans hx')
    ((forgotten_commit k.pairing).trans ((onlyEntries_commit hdiscard p).trans hcommit)) (entry_seq hx)
  refine ⟨⟨y, hy, hyx.trans hxe⟩, hk, ?_⟩
  rw [hpeers]
  exact forgotten_peers _

end

/-! ### Acknowledgements (R410, R411) -/

/-- The stop of a record taken from some partitions. -/
def State.unstopped (s : State) (no : Nat) (ps : List Nat) : State := ps.foldl (fun t p => t.updPt p fun pt => { pt with stops := pt.stops.filter (· != no) }) s

section
variable (s : State) (no : Nat) (ps : List Nat)

theorem unstopped_mem : (s.unstopped no ps).mem = s.mem := foldl_same (P := State.mem) (by intros; rfl) ps s
theorem unstopped_clusters : (s.unstopped no ps).clusters = s.clusters := foldl_same (P := State.clusters) (by intros; rfl) ps s
theorem unstopped_recov : (s.unstopped no ps).recov = s.recov := foldl_same (P := State.recov) (by intros; rfl) ps s

theorem unstopped_entries (q : Nat) : ((s.unstopped no ps).pt q).entries = (s.pt q).entries := by
  refine foldl_same (P := fun t => (t.pt q).entries) (fun t p => ?_) ps s
  by_cases h : q = p
  · subst h; rw [updPt_pt_same]
  · rw [updPt_pt_ne _ _ _ _ h]

theorem unstopped_stops (q : Nat) : ((s.unstopped no ps).pt q).stops = if q ∈ ps then (s.pt q).stops.filter (· != no) else (s.pt q).stops := by
  induction ps generalizing s with
  | nil => rfl
  | cons p ps ih =>
    refine (ih _).trans ?_
    by_cases h : q = p
    · subst h
      simp [updPt_pt_same, List.filter_filter]
    · simp [updPt_pt_ne _ _ _ _ h, h]

end

/-- A record leaves the presented ones, and its partitions lose its stop. -/
def State.acknowledged (s : State) (r : RecRec) (rest : List RecRec) : State :=
  State.unstopped { s with recov := { s.recov with recs := rest } } r.no r.parts

section
variable {s : State} {r : RecRec} {rest : List RecRec} {v : Word}

theorem exec_rack_other (hrecs : s.recov.recs = r :: rest) (hno : v.toNat % 65536 ≠ r.no) : exec (.rack v) s = .next s := by
  change execRack v s = _
  simp only [execRack, hrecs, if_pos hno]

/-- A record that names no spare is acknowledged, what nothing stops any more runs again, and a next record is presented. -/
theorem exec_rack_own (hrecs : s.recov.recs = r :: rest) (hrepl : r.repl = none) (hno : v.toNat % 65536 = r.no) :
    let t := (List.range 16).foldl (fun t p => t.rerunPart p) (s.acknowledged r rest)
    exec (.rack v) s = .next (if rest.isEmpty then t else t.msiFor t.recov.irq) := by
  change execRack v s = _
  simp only [execRack, hrecs, if_neg (not_not.2 hno), hrepl, State.acknowledged, State.unstopped]

/-- A partition without entries has nothing to run again. -/
theorem rerunPart_idle {p : Nat} (h : (s.pt p).entries = []) : s.rerunPart p = s := by
  simp [State.rerunPart, State.startReady, h]

theorem rerunParts_idle {ps : List Nat} (h : ∀ p ∈ ps, (s.pt p).entries = []) : ps.foldl (fun t p => t.rerunPart p) s = s := by
  induction ps with
  | nil => rfl
  | cons p ps ih =>
    obtain ⟨hp, hps⟩ := List.forall_mem_cons.1 h
    rw [List.foldl_cons, rerunPart_idle hp, ih hps]

end

/-- Settles O47: values of the group and a geometry advance are their commands' equations, a rerun notice is `exec_rerunNotice` with `stopEntry_commit`, and an
acknowledgement `exec_rack_other` or `exec_rack_own`. -/
theorem groupAndRecovery : Obligations.GroupAndRecovery := by
  unfold Obligations.GroupAndRecovery
  intro s p
  refine ⟨fun mod k clip sq nf hpeer => ?_, fun hp => ⟨_, rfl, geoStep_pt s p, geoStep_obj s hp⟩, fun k e hcommit hst hx habort htwice hfails => ?_,
    fun v r rest hrecs hno => exec_rack_other hrecs hno, fun v r rest hrecs hrepl hno hidle => ?_, fun v r hrecs hrepl hno => ?_⟩
  · exact ⟨_, exec_commitPartials hpeer k clip sq nf, _, rfl, ⟨_, rfl⟩, congrArg Part.peers (updPt_pt_same ..)⟩
  · intro stopped
    obtain ⟨⟨y, hy, hye⟩, hk, hpeers⟩ := rerunNotice_stopped hcommit hx habort htwice hfails
    have hexec := exec_rerunNotice hcommit hst hx
    generalize ((s.discardAll p).forgotten p k.pairing).stopEntry p e = u at hy hk hpeers hexec
    rw [entry_seq hx] at hexec
    refine ⟨⟨_, hexec false, u, ⟨⟨_, hy, hye, rfl, rfl, rfl, rfl⟩, ⟨_, hk, rfl, rfl, rfl, rfl, rfl⟩, hpeers⟩, rfl⟩, ?_⟩
    have hfrozen : (u.updEntry p k.seq fun x => { x with frozen := true }).entry p k.seq = some { y.toRerun with frozen := true } :=
      entry_updEntry_some (fun _ => rfl) hy
    refine ⟨_, hexec true, ⟨⟨_, hfrozen, hye, rfl, rfl, rfl, rfl⟩, ⟨k.restarted, ?_, rfl, rfl, rfl, rfl, rfl⟩, ?_⟩, _, hfrozen, rfl⟩
    · exact (updEntry_pt_same (P := Part.commit) (fun _ _ => rfl) ..).trans hk
    · rw [if_pos rfl, updEntry_pt_same (P := Part.peers) fun _ _ => rfl]
      exact hpeers
  · have hrerun : (List.range 16).foldl (fun t p => t.rerunPart p) (s.acknowledged r rest) = s.acknowledged r rest :=
      rerunParts_idle fun q hq => (unstopped_entries ..).trans (hidle q (List.mem_range.1 hq))
    have hexec := exec_rack_own hrecs hrepl hno
    rw [hrerun] at hexec
    refine ⟨_, hexec, ?_⟩
    split
    · exact ⟨unstopped_mem .., unstopped_recov .., fun q => unstopped_stops ..⟩
    · refine ⟨(msiFor_mem ..).trans (unstopped_mem ..), (msiFor_recov ..).trans (unstopped_recov ..), fun q => ?_⟩
      rw [State.pt, msiFor_parts]
      exact unstopped_stops ..
  · exact ⟨_, exec_rack_own hrecs hrepl hno, s.acknowledged r [], unstopped_recov .., fun q => unstopped_stops .., fun q => unstopped_entries .., unstopped_mem ..,
      unstopped_clusters .., if_pos rfl⟩

end Sys2Proof.Machine
end

section
/-! SUPPORT. Link ports and lanes, the identity of a neighbour and the loss of a link die (R357, R359, R360, R403, R418, R423): what an operation on a port
leaves, and the statements about them. -/

namespace Sys2Proof.Machine

/-! ### What a loop of packets and an update of a port leave -/

/-- A loop that sends leaves everything but what has been sent. -/
theorem foldl_emit_eq {α : Type} (g : α → Out) (l : List α) : ∀ u : State, l.foldl (fun u x => u.emit (g x)) u = { u with out := u.out ++ l.map g } := by
  induction l with
  | nil => intro u; simp
  | cons x l ih => intro u; rw [List.foldl_cons, ih]; simp [State.emit]

section
variable {s : State} {p q : Nat}

/-- Any update of a port changes only that port. -/
theorem onlyPort_updPort (s : State) (p : Nat) (f : Port → Port) : OnlyPort s (s.updPort p f) p := ⟨f (s.port p), by simp [State.updPort]⟩

/-- What has the port table of an update reads the port as updated. -/
theorem port_updated {t : State} {f : Port → Port} (h : t.ports = (s.updPort p f).ports) : t.port p = f (s.port p) :=
  (show t.port p = (s.updPort p f).port p from congrArg (fun l => Tab.look l (portInit p) p) h).trans (updPort_port_same ..)

/-- What has the port table of an update reads every other port as before. -/
theorem port_beside {t : State} {f : Port → Port} (h : t.ports = (s.updPort p f).ports) (hq : q ≠ p) : t.port q = s.port q :=
  (show t.port q = (s.updPort p f).port q from congrArg (fun l => Tab.look l (portInit q) q) h).trans (updPort_port_ne _ _ _ _ hq)

/-! ### Retraining (R357, R359) -/

/-- The port runs again after a retraining: with what it kept replayed, and counted. -/
def State.portBack (s : State) (p : Nat) : State :=
  (s.port p).replay.foldl (fun t f => t.emit (.flit p f.2))
    (((s.updPort p fun x => { x with st := .up, replays := 0, naking := false }).sendIdentity p).bump 0x5100 5 (s.port p).replay.length)

theorem exec_retrainDone_ok (hst : (s.port p).st = .retrain) : exec (.retrainDone p true) s = .next (s.portBack p) := by
  simp [exec, execRetrainDone, hst, State.portBack]

/-- A retraining that fails ends with the port taken down or a lane spared, by a free value (log 212). -/
def State.retrainLost (s : State) (p : Nat) : State := (if s.freeW.toNat % 9 = 8 then s.portDown p else s.laneFails p (s.freeW.toNat % 9)).drawn

theorem exec_retrainDone_failed (hst : (s.port p).st = .retrain) : exec (.retrainDone p false) s =
    .next (if ((s.retrainLost p).port p).st = .retrain then (s.retrainLost p).portBack p else s.retrainLost p) := by
  simp only [exec, execRetrainDone, hst, State.retrainLost]
  rfl

theorem sendIdentity_eq (s : State) (p : Nat) : s.sendIdentity p =
    { s with out := s.out ++ if (s.port p).mode = 0 then [.identity p Config.moduleId] else [] } := by
  unfold State.sendIdentity
  split <;> simp [State.emit]

theorem portBack_port : (s.portBack p).port p = { s.port p with st := .up, replays := 0, naking := false } := by
  rw [State.portBack, foldl_emit_eq, sendIdentity_eq]
  exact updPort_port_same s p fun x => { x with st := .up, replays := 0, naking := false }

theorem portBack_rest : (s.portBack p).mem = s.mem ∧ (s.portBack p).parts = s.parts := by
  rw [State.portBack, foldl_emit_eq, sendIdentity_eq]
  exact ⟨rfl, rfl⟩

theorem portBack_out : (s.portBack p).out =
    s.out ++ (if (s.port p).mode = 0 then [.identity p Config.moduleId] else []) ++ (s.port p).replay.map fun f => Out.flit p f.2 := by
  rw [State.portBack, foldl_emit_eq, sendIdentity_eq]
  simp

theorem portBack_replays : (s.portBack p).obj 0x5100 5 = (s.obj 0x5100 5 + (s.port p).replay.length) % 2 ^ 64 := by
  rw [State.portBack, foldl_emit_eq, sendIdentity_eq]
  exact bump_obj_same ..

/-! ### A port that goes down (R418) -/

theorem portDown_idle (h : (s.port p).st = .fused ∨ (s.port p).st = .down) : s.portDown p = s := if_pos h

/-- A port as it goes down: what it kept, received and owed is gone with its neighbour. -/
def Port.gone (x : Port) : Port :=
  { x with st := .down, sparing := none, replay := [], rx := [], naking := false, peer := none, tx := [], txOff := 0, used := [], held := [], owed := [], fault := true }

theorem portDown_eq (hfused : (s.port p).st ≠ .fused) (hdown : (s.port p).st ≠ .down) :
    s.portDown p = { s.updPort p Port.gone with
      out := s.out ++ (s.kept.filter fun k => k.p.dstMod != 0xFF && s.portFor k.p == some p).map fun k => Out.packet k.p } := by
  unfold State.portDown
  rw [if_neg (by simp [hfused, hdown])]
  exact foldl_emit_eq (fun k : Kept => Out.packet k.p) _ _

theorem portDown_port (hfused : (s.port p).st ≠ .fused) (hdown : (s.port p).st ≠ .down) : (s.portDown p).port p = (s.port p).gone := by
  rw [portDown_eq hfused hdown]
  exact port_updated (by rfl)

theorem portDown_st (hfused : (s.port p).st ≠ .fused) : ((s.portDown p).port p).st = .down := by
  by_cases hdown : (s.port p).st = .down
  · rw [portDown_idle (.inr hdown), hdown]
  · rw [portDown_port hfused hdown]
    rfl

theorem portDown_port_ne (h : q ≠ p) : (s.portDown p).port q = s.port q := by
  by_cases hst : (s.port p).st = .fused ∨ (s.port p).st = .down
  · rw [portDown_idle hst]
  · obtain ⟨hfused, hdown⟩ := not_or.1 hst
    rw [portDown_eq hfused hdown]
    exact port_beside (f := Port.gone) (by rfl) h

theorem portDown_kept (s : State) (p : Nat) : (s.portDown p).kept = s.kept := by
  by_cases hst : (s.port p).st = .fused ∨ (s.port p).st = .down
  · rw [portDown_idle hst]
  · obtain ⟨hfused, hdown⟩ := not_or.1 hst
    rw [portDown_eq hfused hdown]
    rfl

/-- No port carries traffic any more. -/
def Port.off (x : Port) : Prop := x.st = .down ∨ x.st = .fused

theorem portDown_off (s : State) (p : Nat) : ((s.portDown p).port p).off := by
  by_cases hfused : (s.port p).st = .fused
  · rw [portDown_idle (.inl hfused)]
    exact .inr hfused
  · exact .inl (portDown_st hfused)

/-- A port that is off stays off while others go down. -/
theorem portDown_keeps_off (s : State) (p : Nat) (h : (s.port q).off) : ((s.portDown p).port q).off := by
  by_cases hq : q = p
  · subst hq; exact portDown_off s q
  · rwa [portDown_port_ne hq]

/-! ### Lanes (R360, R423) -/

theorem laneFails_last (hfused : (s.port p).st ≠ .fused) (hdown : (s.port p).st ≠ .down) (h : (s.port p).mode ≠ 0 ∨ (s.port p).x4 = true) (lane : Nat) :
    s.laneFails p lane = s.portDown p := by
  simp [State.laneFails, hfused, hdown, h]

theorem laneFails_spare {n : Nat} (hfused : (s.port p).st ≠ .fused) (hdown : (s.port p).st ≠ .down) (hmode : (s.port p).mode = 0) (hx4 : (s.port p).x4 = false)
    (hn : s.freeSpare (p / 4) = some n) (lane : Nat) : s.laneFails p lane = s.updPort p fun x => { x with x4 := true, sparing := some (lane, n) } := by
  simp [State.laneFails, hfused, hdown, hmode, hx4, hn]

theorem laneFails_noSpare (hfused : (s.port p).st ≠ .fused) (hdown : (s.port p).st ≠ .down) (hmode : (s.port p).mode = 0) (hx4 : (s.port p).x4 = false)
    (hn : s.freeSpare (p / 4) = none) (lane : Nat) :
    s.laneFails p lane = (s.updPort p fun x => { x with x4 := true, sparing := some (lane, 255) }).exhaust := by
  simp [State.laneFails, hfused, hdown, hmode, hx4, hn]

/-- Where no lane can be spared, a failed retraining takes the port down. -/
theorem retrainLost_down (hst : (s.port p).st = .retrain) (h : (s.port p).mode ≠ 0 ∨ (s.port p).x4 = true) : ((s.retrainLost p).port p).st = .down := by
  have hfused : (s.port p).st ≠ .fused := by simp [hst]
  rw [State.retrainLost, laneFails_last hfused (by simp [hst]) h, ite_self, drawn_port]
  exact portDown_st hfused

/-- Where a spare is free, a failed retraining takes the port down or begins to spare a lane. -/
theorem retrainLost_spare {n : Nat} (hst : (s.port p).st = .retrain) (hmode : (s.port p).mode = 0) (hx4 : (s.port p).x4 = false) (hn : s.freeSpare (p / 4) = some n) :
    ((s.retrainLost p).port p).st = .down ∨ ∃ lane < 8, (s.retrainLost p).port p = { s.port p with x4 := true, sparing := some (lane, n) } := by
  have hfused : (s.port p).st ≠ .fused := by simp [hst]
  unfold State.retrainLost
  split
  · exact .inl (portDown_st hfused)
  · refine .inr ⟨s.freeW.toNat % 9, by omega, ?_⟩
    rw [laneFails_spare hfused (by simp [hst]) hmode hx4 hn, drawn_port]
    exact updPort_port_same ..

/-- A link die as it is lost: its store, and what waited in it, are gone. -/
def LinkDie.gone (x : LinkDie) : LinkDie := { x with lost := true, red := [], waiting := [], bufs := [], sent := [] }

/-- The link die's ports go down one after another. -/
def State.portsOff (s : State) (l : Nat) : State := (List.range 4).foldl (fun t j => t.portDown (4 * l + j)) s

theorem portsOff_off {l j : Nat} (hj : j < 4) : ((s.portsOff l).port (4 * l + j)).off :=
  foldl_establishes (P := fun t => (t.port (4 * l + j)).off) (List.mem_range.2 hj) (fun t => portDown_off t _) (fun t k => portDown_keeps_off t (4 * l + k)) s

theorem portsOff_kept (l : Nat) : (s.portsOff l).kept = s.kept := foldl_same (P := State.kept) (fun t _ => portDown_kept t _) _ _

/-- A lost link die is reset, and the kept partials are sent again (R403, R418). -/
def State.linkReset (s : State) (l : Nat) : State :=
  { s.updLink l LinkDie.gone with out := s.out ++ [.resetPart 2 l] ++ (s.kept.filter fun k => k.p.ptype == 0x0B).map fun k => Out.packet k.p }

theorem linkReset_link (l : Nat) : (s.linkReset l).link l = (s.link l).gone := updLink_link_same s l LinkDie.gone

theorem linkReset_port (l : Nat) : (s.linkReset l).port q = s.port q := rfl

theorem linkReset_kept (l : Nat) : (s.linkReset l).kept = s.kept := rfl

theorem linkReset_out (l : Nat) : Out.resetPart 2 l ∈ (s.linkReset l).out :=
  List.mem_append_left _ (List.mem_append_right _ (List.mem_singleton_self _))

theorem exec_linkDieLoss {l : Nat} (hl : (s.link l).lost = false) : exec (.linkDieLoss l) s = .next ((s.portsOff l).linkReset l) := by
  have hexec : exec (.linkDieLoss l) s = execLinkDieLoss l s := rfl
  rw [hexec, execLinkDieLoss, if_neg (ne_true_of_eq_false hl), ← State.portsOff]
  generalize s.portsOff l = t
  exact congrArg Host.Outcome.next (foldl_emit_eq (fun k : Kept => Out.packet k.p) _ _)

end

/-! ### The statements -/

/-- Settles O36: a retrained port is `State.portBack`; a port of a map's entry is one of `portsOf`, which asks for the neighbour's identity; an identity flit
is taken or, with the port held down, counted. -/
theorem identity : Obligations.Identity := by
  unfold Obligations.Identity
  intro s p
  refine ⟨by simp [State.constVal], fun hst hmode => ⟨_, exec_retrainDone_ok hst, portBack_out.trans (by rw [if_pos hmode])⟩, fun e he => ?_,
    fun ident pp hfused hdown hmode => ?_⟩
  · obtain ⟨-, hcond⟩ := List.mem_filter.1 he
    simpa using (Bool.and_eq_true_iff.1 hcond).2
  · intro badMap badPartner
    have hopen : ¬((s.port p).st = .fused ∨ (s.port p).st = .down ∨ (s.port p).mode ≠ 0) := by simp [hfused, hdown, hmode]
    refine ⟨fun hbad => ⟨(s.updPort p fun x => { x with st := .heldDown, peer := some ident }).bump 0x5100 6 1, (if_neg hopen).trans (if_pos hbad), ?_⟩,
      fun hgood => ⟨s.updPort p fun x => { x with st := .up, peer := some ident },
        (if_neg hopen).trans (if_neg (ne_true_of_eq_false hgood)), onlyPort_updPort .., updPort_port_same ..⟩⟩
    exact ⟨port_updated (f := fun x => { x with st := .heldDown, peer := some ident }) rfl, bump_obj_same .., rfl, rfl, rfl,
      fun q hq => port_beside (f := fun x => { x with st := .heldDown, peer := some ident }) rfl hq⟩

/-- Settles O37: each command by the rule of its operation on a port (`portBack`, `portDown_eq`, `laneFails_spare`, `laneFails_noSpare`, `laneFails_last`), and
the loss of a link die by the four ports' fold. -/
theorem ports : Obligations.Ports := by
  unfold Obligations.Ports
  intro s p
  refine ⟨fun hst => ⟨_, if_pos hst, onlyPort_updPort .., updPort_port_same ..⟩,
    fun hst => ⟨_, exec_retrainDone_ok hst, portBack_port, portBack_out, portBack_rest.1, portBack_rest.2, portBack_replays⟩,
    fun hst => ⟨fun hlast => ⟨_, exec_retrainDone_failed hst, ?_⟩, fun n hmode hx4 hn => ⟨_, exec_retrainDone_failed hst, ?_⟩⟩,
    fun hfused hdown => ⟨⟨_, rfl, ?_⟩, fun lane n hmode hx4 hn => ?_, fun lane hmode hx4 hn => ⟨_, rfl, ?_⟩, fun lane hx4 => ⟨_, rfl, ?_⟩⟩,
    fun lane n hsp hn => ?_, fun l hl => ⟨_, exec_linkDieLoss hl, ?_⟩⟩
  · rw [retrainLost_down hst hlast, if_neg (by decide)]
    exact retrainLost_down hst hlast
  · rcases retrainLost_spare hst hmode hx4 hn with hgone | ⟨lane, hlane, hport⟩
    · rw [hgone, if_neg (by decide)]
      exact .inl hgone
    · rw [hport, if_pos hst, portBack_port, hport]
      exact .inr ⟨lane, hlane, rfl⟩
  · have hport := portDown_port hfused hdown
    exact ⟨congrArg Port.st hport, congrArg Port.replay hport, congrArg Port.peer hport, portDown_kept s p, fun q hq => portDown_port_ne hq,
      congrArg State.out (portDown_eq hfused hdown)⟩
  · have hfails := laneFails_spare hfused hdown hmode hx4 hn lane
    refine fun i hi => ⟨_, ?_, onlyPort_updPort s p fun x => { x with x4 := true, sparing := some (lane, n) }, updPort_port_same ..⟩
    rcases List.mem_pair.1 hi with rfl | rfl
    · exact congrArg Host.Outcome.next hfails
    · exact (if_pos (Nat.lt_succ_self _)).trans (congrArg Host.Outcome.next hfails)
  · rw [laneFails_noSpare hfused hdown hmode hx4 hn]
    exact ⟨port_updated (f := fun x => { x with x4 := true, sparing := some (lane, 255) }) rfl, setObj_obj_same ..⟩
  · rw [laneFails_last hfused hdown (.inr hx4)]
    exact portDown_st hfused
  · refine ⟨((s.updPort p fun x => { x with x4 := false, sparing := none, lanes := x.lanes.set lane n }).bump 0x5100 7 1).planChanged, ?_,
      port_updated (f := fun x => { x with x4 := false, sparing := none, lanes := x.lanes.set lane n }) rfl, rfl, rfl, rfl⟩
    simp only [exec, execSpareLaneTrained, hsp]
    exact if_neg (by omega)
  · have hlink := linkReset_link (s := s.portsOff l) l
    refine ⟨congrArg LinkDie.lost hlink, congrArg LinkDie.red hlink, congrArg LinkDie.waiting hlink, linkReset_out l,
      (linkReset_kept l).trans (portsOff_kept l),
      fun j hj => ?_⟩
    rw [linkReset_port]
    exact portsOff_off hj

end Sys2Proof.Machine
end

section
/-! SUPPORT. The ledger registers of a partition and the two configuration sets (R361, R370, R374, R375, R389, R484 to R486, R504): the modes that ports take,
what the holders of groups and a swap leave, and the statements about them. -/

namespace Sys2Proof.Machine

/-! ### The modes of ports (R370) -/

/-- Port p takes its active mode, unless a latched map lists it: one step of `applyModes`. -/
def State.takeMode (s : State) (p : Nat) : State :=
  if (s.mapsListing p).isEmpty ∧ (s.port p).mode ≠ s.cfg 0x2101 (p + 1) ∧ (s.port p).st ≠ .fused ∧ !s.ports.isEmpty then
    s.updPort p fun x => { x with mode := s.cfg 0x2101 (p + 1), st := .retrain, peer := none, replay := [], rx := [], tx := [], txOff := 0, used := [], held := [], owed := [] }
  else s

theorem applyModes_eq (s : State) : s.applyModes = (List.range 32).foldl State.takeMode s := rfl

theorem mapsListing_congr {s t : State} (h : t.parts = s.parts) (q : Nat) : t.mapsListing q = s.mapsListing q := by simp only [State.mapsListing, State.pt, h]

/-- Nothing changes but the ports. -/
def OnlyPorts (s t : State) : Prop := ∃ ports : Tab Port, t = { s with ports := ports }

theorem takeMode_onlyPorts (s : State) (p : Nat) : OnlyPorts s (s.takeMode p) := by
  unfold State.takeMode
  split
  · exact ⟨_, rfl⟩
  · exact ⟨s.ports, rfl⟩

theorem applyModes_onlyPorts (s : State) : OnlyPorts s s.applyModes := by
  rw [applyModes_eq]
  refine foldl_keeps (P := OnlyPorts s) (fun t p ⟨ports, ht⟩ => ?_) _ s ⟨s.ports, rfl⟩
  obtain ⟨ports', ht'⟩ := takeMode_onlyPorts t p
  exact ⟨ports', by rw [ht', ht]⟩

theorem takeMode_port_ne (s : State) {p q : Nat} (h : q ≠ p) : (s.takeMode p).port q = s.port q := by
  unfold State.takeMode
  split
  · exact updPort_port_ne _ _ _ _ h
  · rfl

/-- A table of ports in which one has just trained is not empty. -/
theorem ports_put_ne_nil {x : Port} {p : Nat} (t : Tab Port) (h : x ≠ portInit p) : Tab.put t (portInit p) p x ≠ [] := fun hnil => by
  have hlook := tab_look_put_same t (portInit p) p x
  rw [hnil] at hlook
  exact h hlook.symm

theorem takeMode_ports (s : State) (p : Nat) (h : s.ports ≠ []) : (s.takeMode p).ports ≠ [] := by
  unfold State.takeMode
  split
  · exact ports_put_ne_nil _ fun hx => by cases congrArg Port.st hx
  · exact h

theorem takeMode_fused (s : State) (p q : Nat) (h : (s.port q).st ≠ .fused) : ((s.takeMode p).port q).st ≠ .fused := by
  by_cases hq : q = p
  · subst hq
    unfold State.takeMode
    split
    · rw [updPort_port_same]; exact fun hx => by cases hx
    · exact h
  · rwa [takeMode_port_ne s hq]

/-- A port that has its mode keeps it. -/
theorem takeMode_keeps (s : State) (p : Nat) {q : Nat} (h : (s.port q).mode = s.cfg 0x2101 (q + 1)) : ((s.takeMode p).port q).mode = s.cfg 0x2101 (q + 1) := by
  by_cases hq : q = p
  · subst hq
    unfold State.takeMode
    rw [if_neg (by simp [h])]
    exact h
  · rwa [takeMode_port_ne s hq]

/-- A port that no map lists takes its mode at its step. -/
theorem takeMode_takes (s : State) {q : Nat} (hmap : s.mapsListing q = []) (hst : (s.port q).st ≠ .fused) (hports : s.ports ≠ []) :
    ((s.takeMode q).port q).mode = s.cfg 0x2101 (q + 1) := by
  by_cases hmode : (s.port q).mode = s.cfg 0x2101 (q + 1)
  · exact takeMode_keeps s q hmode
  · unfold State.takeMode
    rw [if_pos (by simp [hmap, hmode, hst, hports]), updPort_port_same]

/-- A port that no latched map lists takes the mode of the active set (R370). -/
theorem applyModes_mode (s : State) {q : Nat} (hq : q < 32) (hmap : s.mapsListing q = []) (hst : (s.port q).st ≠ .fused) (hports : s.ports ≠ []) :
    (s.applyModes.port q).mode = s.cfg 0x2101 (q + 1) := by
  have hcfg : ∀ {t : State}, OnlyPorts s t → t.cfg 0x2101 (q + 1) = s.cfg 0x2101 (q + 1) := by rintro _ ⟨_, rfl⟩; rfl
  have honly : ∀ {t : State} (p : Nat), OnlyPorts s t → OnlyPorts s (t.takeMode p) := by
    rintro _ p ⟨ports, rfl⟩
    obtain ⟨ports', ht⟩ := takeMode_onlyPorts { s with ports := ports } p
    exact ⟨ports', ht⟩
  obtain ⟨l₁, l₂, hsplit⟩ := List.append_of_mem (List.mem_range.2 hq)
  rw [applyModes_eq, hsplit, List.foldl_append, List.foldl_cons]
  -- before its step the port is as it was, as far as that step asks
  obtain ⟨honly₁, hports₁, hst₁⟩ : OnlyPorts s (l₁.foldl State.takeMode s) ∧ (l₁.foldl State.takeMode s).ports ≠ [] ∧ ((l₁.foldl State.takeMode s).port q).st ≠ .fused :=
    foldl_keeps (P := fun t => OnlyPorts s t ∧ t.ports ≠ [] ∧ (t.port q).st ≠ .fused)
      (fun t p ⟨ho, hp, hs⟩ => ⟨honly p ho, takeMode_ports t p hp, takeMode_fused t p q hs⟩) _ s ⟨⟨s.ports, rfl⟩, hports, hst⟩
  have hmap₁ : (l₁.foldl State.takeMode s).mapsListing q = [] := by
    obtain ⟨_, heq⟩ := honly₁
    rw [mapsListing_congr (t := l₁.foldl State.takeMode s) (s := s) (by rw [heq])]
    exact hmap
  exact (foldl_keeps (P := fun t => OnlyPorts s t ∧ (t.port q).mode = s.cfg 0x2101 (q + 1))
    (fun t p ⟨ho, hm⟩ => ⟨honly p ho, (takeMode_keeps t p (hm.trans (hcfg ho).symm)).trans (hcfg ho)⟩) _ _
    ⟨honly q honly₁, (takeMode_takes _ hmap₁ hst₁ hports₁).trans (hcfg honly₁)⟩).2

/-! ### The holders of groups (R376) -/

/-- A partition without what the choice of holders changes in it. -/
def Part.unheld (pt : Part) : Part := { pt with counted := false, regs := { pt.regs with holds := false } }

/-- From `s` to `t` nothing changes but who holds its set. -/
def OnlyHolds (s t : State) : Prop := (∃ parts : Tab Part, t = { s with parts := parts }) ∧ ∀ p, (t.pt p).unheld = (s.pt p).unheld

theorem onlyHolds_refl (s : State) : OnlyHolds s s := ⟨⟨s.parts, rfl⟩, fun _ => rfl⟩

theorem onlyHolds_updPt {s t : State} (h : OnlyHolds s t) (p : Nat) {f : Part → Part} (hf : ∀ x, (f x).unheld = x.unheld) : OnlyHolds s (t.updPt p f) := by
  obtain ⟨⟨parts, rfl⟩, hpt⟩ := h
  refine ⟨⟨_, rfl⟩, fun q => ?_⟩
  by_cases hq : q = p
  · subst hq; rw [updPt_pt_same, hf]; exact hpt q
  · rw [updPt_pt_ne _ _ _ _ hq]; exact hpt q

theorem formHolds_onlyHolds (s : State) : OnlyHolds s s.formHolds := by
  refine foldl_keeps (P := OnlyHolds s) (fun t p h => ?_) _ s (onlyHolds_refl s)
  split
  · exact h
  · split
    · exact onlyHolds_updPt h p fun _ => rfl
    · dsimp only
      split
      · exact onlyHolds_updPt h p fun _ => rfl
      · exact h

theorem OnlyHolds.enable {s t : State} (h : OnlyHolds s t) (p : Nat) : (t.pt p).regs.enable = (s.pt p).regs.enable := (congrArg (fun x : Part => x.regs.enable) (h.2 p) :)
theorem OnlyHolds.entries {s t : State} (h : OnlyHolds s t) (p : Nat) : (t.pt p).entries = (s.pt p).entries := (congrArg Part.entries (h.2 p) :)
theorem OnlyHolds.blk {s t : State} (h : OnlyHolds s t) (p : Nat) : (t.pt p).blk = (s.pt p).blk := (congrArg Part.blk (h.2 p) :)
theorem OnlyHolds.pblk {s t : State} (h : OnlyHolds s t) (p : Nat) : (t.pt p).regs.pblk = (s.pt p).regs.pblk := (congrArg (fun x : Part => x.regs.pblk) (h.2 p) :)
theorem OnlyHolds.pblkHeld {s t : State} (h : OnlyHolds s t) (p : Nat) : (t.pt p).regs.pblkHeld = (s.pt p).regs.pblkHeld :=
  (congrArg (fun x : Part => x.regs.pblkHeld) (h.2 p) :)

/-! ### Blocks and maps latched (R361, R364, R375) -/

/-- Any update of a partition changes only that partition. -/
theorem onlyPart_of_updPt (s : State) (p : Nat) (f : Part → Part) : OnlyPart s (s.updPt p f) p := ⟨f (s.pt p), by simp [State.updPt]⟩

/-- The clearing of clusters that leave a set touches no partition. -/
theorem clearLeavers_parts (s : State) (p : Nat) (old new : List Nat) : (s.clearLeavers p old new).parts = s.parts := by
  unfold State.clearLeavers
  split
  · refine foldl_same (P := State.parts) (fun t c => ?_) _ s
    unfold State.clearSlotMap
    split
    · exact (store_parts ..).trans rfl
    · rfl
  · rfl

theorem clearLeavers_pt (s : State) (p : Nat) (old new : List Nat) (q : Nat) : (s.clearLeavers p old new).pt q = s.pt q := by
  simp only [State.pt, clearLeavers_parts]

section
variable {s : State} {p : Nat} {v : Word}

/-- PBLK_LATCH with a block that passes its check: the block is in force, with the write that named it. -/
theorem exec_pblkLatch_taken {bs : List Byte} (hheld : (s.pt p).regs.pblkHeld = some v) (hidle : (s.pt p).entries = []) (hbit : bit1 v.toNat 0 = true)
    (hbs : s.hbmBlock (bits v.toNat 6 42 * 64) 192 = some bs) (hok : s.blockOk p (leNat bs) = true) : ∃ t, exec (.pblkLatch p) s = .next t ∧
      (t.pt p).blk = some (blockOfBits (leNat bs)) ∧ (t.pt p).regs.pblk = v ∧ (t.pt p).regs.pblkHeld = none := by
  simp only [exec, execPblkLatch, hheld, hidle, hbit, hbs, hok, List.isEmpty_nil, Bool.not_true, Bool.false_eq_true, if_false, if_true]
  refine ⟨_, rfl, ?_⟩
  rw [(formHolds_onlyHolds _).blk, (formHolds_onlyHolds _).pblk, (formHolds_onlyHolds _).pblkHeld, clearLeavers_pt]
  simp [State.updRegs]

/-- PBLK_LATCH with a block that fails its check leaves the block in force. -/
theorem exec_pblkLatch_refused {bs : List Byte} (hheld : (s.pt p).regs.pblkHeld = some v) (hidle : (s.pt p).entries = []) (hbit : bit1 v.toNat 0 = true)
    (hbs : s.hbmBlock (bits v.toNat 6 42 * 64) 192 = some bs) (hok : s.blockOk p (leNat bs) = false) :
    exec (.pblkLatch p) s = .next ((s.updRegs p fun r => { r with pblkHeld := none }).setObj 0x5806 1 p) := by
  simp [exec, execPblkLatch, hheld, hidle, hbit, hbs, hok]

/-- A map, or none, is in force for a partition from now on, and the pairing count starts from zero. -/
def State.mapTaken (s : State) (p : Nat) (v : Word) (m : Option FMap) : State :=
  (s.updX p fun x => { x with fmapHeld := none }).updPt p fun pt => { pt with fm := m, pairings := 0, peers := [], x := { pt.x with fmap := v } }

theorem mapTaken_pt (m : Option FMap) : (s.mapTaken p v m).pt p =
    { s.pt p with fm := m, pairings := 0, peers := [], x := { (s.pt p).x with fmapHeld := none, fmap := v } } := by
  simp [State.mapTaken, State.updX]

theorem mapTaken_pt_ne (m : Option FMap) {q : Nat} (h : q ≠ p) : (s.mapTaken p v m).pt q = s.pt q := by
  rw [State.mapTaken, updPt_pt_ne _ _ _ _ h]
  exact updPt_pt_ne _ _ _ _ h

theorem exec_fmapLatch_none (hheld : (s.pt p).x.fmapHeld = some v) (hidle : (s.pt p).entries = []) (hbit : bit1 v.toNat 0 = false) :
    exec (.fmapLatch p) s = .next (s.mapTaken p v none).applyModes := by
  simp [exec, execFmapLatch, hheld, hidle, hbit, State.mapTaken]

theorem exec_fmapLatch_map {bs : List Byte} (hheld : (s.pt p).x.fmapHeld = some v) (hidle : (s.pt p).entries = []) (hbit : bit1 v.toNat 0 = true)
    (hbs : ((s.hbmBlock (bits v.toNat 6 42 * 64) 64).bind fun h => s.hbmBlock (bits v.toNat 6 42 * 64) (64 * (1 + bits (leNat h) 16 8))) = some bs) :
    exec (.fmapLatch p) s = .next (if s.fmapOk p bs then (s.mapTaken p v (some { self := bits (leNat (bs.take 64)) 24 8, entries := (fmapOf bs).2 })).applyModes
      else (s.updX p fun x => { x with fmapHeld := none }).setObj 0x5101 2 p) := by
  simp only [exec, execFmapLatch, hheld, hidle, hbit, hbs, List.isEmpty_nil, Bool.not_true, Bool.false_eq_true, if_false]
  split <;> rfl

end

/-! ### The swap of the sets (R485) -/

/-- What a swap of the sets speaks of beside the objects: memory, clusters, partitions, ports, and the two sets with their control. -/
def State.setView (s : State) : Memory × Tab Cluster × Tab Part × Tab Port × Tab Word × Tab Word × SetCtl :=
  (s.mem, s.clusters, s.parts, s.ports, s.dict.active, s.dict.shadow, s.dict.set)

/-- The objects as a swap leaves them: a new base of identities drawn, the shadow values active, and the generation advanced. -/
def State.swapTook (s : State) : State :=
  let t := (s.setObj 0x1800 6 s.freeW.toNat).drawn
  { t with dict := { t.dict with
      active := s.dict.shadow
      octs := Tab.put t.dict.octs [] (objKey 0x1100 6) (Tab.look t.dict.octs [] (objKey 0x1100 6 + 2 ^ 24))
      set := { st := 0, gen := s.dict.set.gen + 1, last := 1 } } }

/-- A swap is the objects' change, the ports' modes and the hubs' sets; the sessions of a module whose address moved end. -/
theorem swapNow_eq (s : State) : ∃ hubs moved,
    s.swapNow = if moved = true then ({ s.swapTook.applyModes with hubs := hubs } : State).openSess.foldl State.endSess { s.swapTook.applyModes with hubs := hubs }
      else { s.swapTook.applyModes with hubs := hubs } := ⟨_, _, rfl⟩

/-- At the swap point the active set takes the shadow values and the ports their modes; the sessions that a changed address ends change nothing of either. -/
theorem swapNow_view (s : State) :
    s.swapNow.setView = (s.mem, s.clusters, s.parts, s.swapTook.applyModes.ports, s.dict.shadow, s.dict.shadow, { st := 0, gen := s.dict.set.gen + 1, last := 1 }) := by
  obtain ⟨hubs, moved, hswap⟩ := swapNow_eq s
  obtain ⟨ports, hmodes⟩ := applyModes_onlyPorts s.swapTook
  rw [hswap, hmodes]
  split
  · exact foldl_same (f := State.endSess) (P := State.setView) (fun _ _ => rfl) _ _
  · rfl

/-! ### The statements -/

/-- Settles O39: a write is held in its register; `formHolds` and the clearing of leavers keep what the statement reads; a map that is taken is
`State.mapTaken`, and `applyModes_mode` gives the modes. -/
theorem ledgerRegisters : Obligations.LedgerRegisters := by
  unfold Obligations.LedgerRegisters
  intro s p
  refine ⟨fun b hb _ => ?_, fun h1 h2 => ?_, fun hen hidle => ?_, fun hbusy => ?_, ⟨_, rfl, onlyPart_of_updPt .., updPt_pt_same ..⟩,
    fun v => ⟨_, rfl, onlyPart_of_updPt .., updPt_pt_same ..⟩, fun v => ⟨_, rfl, onlyPart_of_updPt .., updPt_pt_same ..⟩,
    fun v => ⟨_, rfl, onlyPart_of_updPt .., updPt_pt_same ..⟩, fun v hheld hidle => ?_, fun v hheld hidle hbit _ => ⟨fun bs hbs hok => ?_, fun bs hbs hok => ?_⟩,
    fun v hheld hidle hbit => ?_, fun v bs hheld hidle hbit hbs => ?_⟩
  · have hon : ¬(b ∧ !(s.boot.stage == .l1 || s.boot.stage == .l2)) := fun hv => by rcases hb hv.1 with hst | hst <;> simp [hst] at hv
    let u : State := ({ s with boot := { s.boot with heldEnables := s.boot.heldEnables.filter (· != p) } } : State).updRegs p fun r => { r with enable := b }
    have hholds : OnlyHolds u u.formHolds := formHolds_onlyHolds u
    obtain ⟨parts, ht⟩ := hholds.1
    refine ⟨u.formHolds, if_neg hon, (hholds.enable p).trans ?_, by rw [ht]; rfl, (hholds.entries p).trans ?_, by rw [ht]; rfl, by rw [ht]; rfl⟩
    · exact congrArg (fun x : Part => x.regs.enable) (updPt_pt_same ..)
    · exact (congrArg Part.entries (updPt_pt_same ..) :)
  · refine ⟨_, if_pos (by simp [h1, h2]), ?_, rfl, rfl⟩
    dsimp only
    split
    · exact List.contains_iff_mem.1 ‹_›
    · exact List.mem_append_right _ (List.mem_singleton_self p)
  · exact ⟨_, if_neg (by simp [hen, hidle]), (setObj_pt ..).trans (updPt_pt_same ..), rfl, rfl⟩
  · exact if_pos (hbusy.imp id fun h => by simpa using h)
  · refine ⟨s.updPt p fun pt => { pt with fullTold := false, regs := { pt.regs with clogBase := v, clogHeld := none, head := 0, tail := 0 } }, ?_,
      onlyPart_of_updPt .., updPt_pt_same ..⟩
    simp only [exec, execClogBaseLatch, hheld]
    exact if_neg (by simp [hidle])
  · exact exec_pblkLatch_taken hheld hidle hbit hbs hok
  · exact exec_pblkLatch_refused hheld hidle hbit hbs hok
  · obtain ⟨ports, ht⟩ := applyModes_onlyPorts (s.mapTaken p v none)
    have hparts : (s.mapTaken p v none).applyModes.parts = (s.mapTaken p v none).parts := by rw [ht]
    have hpt : ∀ q, (s.mapTaken p v none).applyModes.pt q = (s.mapTaken p v none).pt q := fun q => by simp only [State.pt, hparts]
    refine ⟨_, exec_fmapLatch_none hheld hidle hbit, by rw [ht]; rfl, by rw [ht]; rfl, by rw [ht]; rfl,
      fun q hq => (hpt q).trans (mapTaken_pt_ne none hq), ?_, ?_, ?_, fun q hq hmap hst hports => ?_⟩
    · rw [hpt, mapTaken_pt]
    · rw [hpt, mapTaken_pt]
    · rw [hpt, mapTaken_pt]
    · exact applyModes_mode _ hq (by rwa [← mapsListing_congr hparts]) hst hports
  · refine ⟨_, exec_fmapLatch_map hheld hidle hbit hbs, ?_⟩
    split
    · obtain ⟨ports, ht⟩ := applyModes_onlyPorts (s.mapTaken p v (some { self := bits (leNat (bs.take 64)) 24 8, entries := (fmapOf bs).2 }))
      rw [ht]
      have hpt := mapTaken_pt (s := s) (p := p) (v := v) (some { self := bits (leNat (bs.take 64)) 24 8, entries := (fmapOf bs).2 })
      exact ⟨congrArg (fun x : Part => x.x.fmapHeld) hpt, rfl, congrArg Part.fm hpt, congrArg Part.pairings hpt⟩
    · have hpt : ((s.updX p fun x => { x with fmapHeld := none }).setObj 0x5101 2 p).pt p = _ := (setObj_pt ..).trans (updPt_pt_same ..)
      exact ⟨congrArg (fun x : Part => x.x.fmapHeld) hpt, rfl, (congrArg Part.fm hpt :), (congrArg (fun x : Part => x.x.fmap) hpt :), setObj_obj_same ..⟩

/-- Settles O56: a swap that takes place is `swapNow`, whose effect `swapNow_view` gives; every other command writes the control of the sets, or copies the
active set. -/
theorem configurationSets : Obligations.ConfigurationSets := by
  unfold Obligations.ConfigurationSets
  intro s swapped ended
  have hswap : swapped s.swapNow := by
    have hview := swapNow_view s
    simp only [State.setView, Prod.mk.injEq] at hview
    obtain ⟨hmem, hcl, hpt, hpo, hact, hsh, hset⟩ := hview
    refine ⟨hact, hsh, hset, hmem, hpt, hcl, fun q hq hmap hst hne => ?_⟩
    have hport : s.swapNow.port q = s.swapTook.applyModes.port q := by simp only [State.port, hpo]
    have hcfg : s.swapNow.cfg 0x2101 (q + 1) = s.swapTook.cfg 0x2101 (q + 1) := by simp only [State.cfg, hact]; rfl
    rw [hport, hcfg]
    exact applyModes_mode s.swapTook hq hmap hst hne
  refine ⟨fun hst => ⟨fun h2 h3 hl1 => ⟨_, congrArg Host.Outcome.next ((if_neg (by simp [hst])).trans (if_neg (by simp [h2, h3, hl1]))), rfl⟩,
      fun hnow => ⟨_, congrArg Host.Outcome.next ((if_neg (by simp [hst])).trans (if_pos (by simpa using hnow))), hswap⟩,
      ⟨_, if_pos hst, ⟨_, rfl⟩, rfl, rfl, rfl⟩⟩,
    fun hst => ⟨congrArg Host.Outcome.next (if_pos hst), if_neg hst⟩,
    fun hst => ⟨fun hidle => ⟨_, if_pos ⟨hst, by simp [hidle]⟩, hswap⟩, fun hbusy => if_neg (by simp [hbusy]), ⟨_, if_pos hst, rfl⟩,
      fun ms hms => ⟨_, if_pos ⟨hst, hms⟩, rfl⟩⟩⟩

end Sys2Proof.Machine
end

section
/-! SUPPORT. Kept packets sent again (R344, R354): what `resend` leaves, and the statement about NAK, RETRY and RETRY_RESEND. -/

namespace Sys2Proof.Machine

section
variable {s : State} {p : Packet}

theorem mapFirst_map {α β : Type} {f : α → α} {g : α → β} (hf : ∀ x, g (f x) = g x) (q : α → Bool) (l : List α) : (mapFirst q f l).map g = l.map g := by
  induction l with
  | nil => rfl
  | cons x l ih => unfold mapFirst; split <;> simp [hf, ih]

/-- Below the limit a kept packet is sent once more, and the packets that are kept stay those they were. -/
theorem resend_sends {k : Kept} (h : k.resends < max 1 (s.cfg 0x2100 2)) :
    (s.resend k).out = s.out ++ [.packet k.p] ∧ (s.resend k).mem = s.mem ∧ (s.resend k).clusters = s.clusters ∧
      (s.resend k).kept.map (·.p) = s.kept.map (·.p) ∧ (s.resend k).dict = s.dict := by
  rw [State.resend, if_neg (by omega)]
  exact ⟨rfl, rfl, rfl, mapFirst_map (f := fun x : Kept => { x with resends := x.resends + 1, retrying := false }) (fun _ => rfl) _ _, rfl⟩

/-- A NAK names a kept packet of its tag and type: a partial only by its block. -/
def nakNames (p : Packet) (k : Kept) : Bool := bits p.msg.toNat 16 5 != 0x0B || k.p.addr == p.addr

theorem exec_nak_good (hp : p.pcrc = pktCheck p) : exec (.nak p) s =
    .next (((s.keptOf p.dstEp p.tag (bits p.msg.toNat 16 5)).filter (nakNames p)).foldl State.resend s) :=
  if_neg (not_not_intro hp)

theorem exec_nak_bad (hp : p.pcrc ≠ pktCheck p) : exec (.nak p) s = .next (s.again p.dstEp p.tag [bits p.msg.toNat 16 5]) := if_pos hp

/-- A kept packet that RETRY names waits for its interval. -/
def Kept.wait (p : Packet) (k : Kept) : Kept :=
  if k.p.srcEp = p.dstEp ∧ k.p.dstEp = p.srcEp ∧ k.p.tag = BitVec.ofNat 16 (bits p.msg.toNat 0 16) ∧ k.p.ptype.toNat = bits p.msg.toNat 16 5 then { k with retrying := true } else k

theorem Kept.wait_p (p : Packet) (k : Kept) : (k.wait p).p = k.p := by unfold Kept.wait; split <;> rfl

theorem exec_retry_good (hp : p.pcrc = pktCheck p) : exec (.retry p) s = .next ({ s with kept := s.kept.map (Kept.wait p) }.bump 0x5100 4 1) :=
  if_neg (not_not_intro hp)

/-- The packet that RETRY names is the one it says, by the 16 bits of its tag. -/
theorem Kept.wait_waits {k : Kept} (hsrc : k.p.srcEp = p.dstEp) (hdst : k.p.dstEp = p.srcEp) (htag : k.p.tag.toNat = bits p.msg.toNat 0 16)
    (hty : k.p.ptype.toNat = bits p.msg.toNat 16 5) : (k.wait p).retrying = true := by
  rw [Kept.wait, if_pos ⟨hsrc, hdst, by rw [← htag, BitVec.ofNat_toNat, BitVec.setWidth_eq], hty⟩]

theorem exec_retry_bad (hp : p.pcrc ≠ pktCheck p) : exec (.retry p) s = .next (s.bump 0x5100 1 1) := if_pos hp

/-- The interval of a packet has passed. -/
def Kept.due (ep tag : BitVec 16) (k : Kept) : Bool := k.p.srcEp == ep && k.p.tag == tag && k.retrying

theorem exec_retryResend (ep tag : BitVec 16) : exec (.retryResend ep tag) s =
    .next { s with kept := s.kept.map (fun k => if k.due ep tag then { k with retrying := false } else k),
                   out := s.out ++ (s.kept.filter (Kept.due ep tag)).map fun k => Out.packet k.p } :=
  congrArg Host.Outcome.next (foldl_emit_eq (fun k : Kept => Out.packet k.p) _ _)

end

/-- Settles O31: a packet below the limit is sent by `resend_sends`, whoever asks for it; RETRY and RETRY_RESEND change the marks of the kept packets alone. -/
theorem resends : Obligations.Resends := by
  unfold Obligations.Resends
  intro s p ty still
  refine ⟨fun hp => ⟨fun k hk hlimit => ⟨fun hname => ?_, fun hty haddr => ?_⟩, ?_⟩, fun hp => ⟨fun k hk hlimit => ?_, ⟨_, exec_retry_bad hp, ?_⟩⟩, fun ep tag => ?_⟩
  · refine ⟨s.resend k, (exec_nak_good hp).trans ?_, ?_⟩
    · have hsent : nakNames p k = true := by simpa [nakNames] using hname
      rw [hk, List.filter_cons_of_pos hsent]
      rfl
    · obtain ⟨hout, hmem, hcl, hkept, -⟩ := resend_sends hlimit
      exact ⟨hout, hmem, hcl, hkept⟩
  · have hother : ¬nakNames p k = true := by simpa [nakNames] using ⟨hty, haddr⟩
    rw [exec_nak_good hp, hk, List.filter_cons_of_neg hother]
    rfl
  · refine ⟨_, exec_retry_good hp, rfl, ⟨rfl, rfl, ?_⟩, bump_obj_same .., fun k hk hsrc hdst htag hty => ?_⟩
    · change (s.kept.map (Kept.wait p)).map (·.p) = _
      rw [List.map_map]
      exact List.map_congr_left fun k _ => k.wait_p p
    · obtain ⟨k, -, rfl⟩ := List.mem_map.1 hk
      rw [Kept.wait_p] at hsrc hdst htag hty
      exact Kept.wait_waits hsrc hdst htag hty
  · obtain ⟨hout, hmem, hcl, hkept, hdict⟩ := resend_sends (s := s.bump 0x5100 1 1) (k := k) hlimit
    refine ⟨(s.bump 0x5100 1 1).resend k, (exec_nak_bad hp).trans ?_, hout, ⟨hmem, hcl, hkept⟩, ?_⟩
    · rw [State.again, List.flatMap_singleton, hk]
      rfl
    · rw [show ((s.bump 0x5100 1 1).resend k).obj 0x5100 1 = (s.bump 0x5100 1 1).obj 0x5100 1 by simp only [State.obj, hdict]]
      exact bump_obj_same ..
  · exact ⟨⟨_, rfl⟩, bump_obj_same ..⟩
  · refine ⟨_, exec_retryResend ep tag, rfl, rfl, rfl, fun k hk hsrc htag => ?_⟩
    obtain ⟨x, -, rfl⟩ := List.mem_map.1 hk
    by_cases hdue : x.due ep tag = true
    · simp only [hdue, if_true]
    · simp only [if_neg hdue] at hsrc htag ⊢
      simpa [Kept.due, hsrc, htag] using hdue

end Sys2Proof.Machine
end

section
/-! SUPPORT. The hole map and the junctions (R349 to R352): the map as a number, the ways out of the mesh, the links of the escape tree, and the statement that
a junction sends nothing into a hole. -/

namespace Sys2Proof.Machine

/-! ### The hole map as a number -/

theorem bit1_eq_testBit (v i : Nat) : bit1 v i = v.testBit i := by
  rw [Nat.testBit_eq_decide_div_mod_eq, bit1, bits, pow_one, beq_eq_decide, Nat.shiftRight_eq_div_pow]

/-- The number whose bits below `n` are those of `f`. -/
def maskOf (f : Nat → Bool) (n : Nat) : Nat := ((List.range n).map fun d => if f d then 2 ^ d else 0).sum

theorem maskOf_succ (f : Nat → Bool) (n : Nat) : maskOf f (n + 1) = maskOf f n + if f n then 2 ^ n else 0 := by
  simp [maskOf, List.range_succ]

theorem maskOf_lt (f : Nat → Bool) (n : Nat) : maskOf f n < 2 ^ n := by
  induction n with
  | zero => simp [maskOf]
  | succ n ih =>
    rw [maskOf_succ, pow_succ]
    split <;> omega

theorem testBit_maskOf (f : Nat → Bool) (n : Nat) : ∀ k < n, (maskOf f n).testBit k = f k := by
  induction n with
  | zero => intro k hk; omega
  | succ n ih =>
    intro k hk
    rw [maskOf_succ]
    rcases Nat.lt_succ_iff_lt_or_eq.1 hk with hlt | rfl
    · split
      · rw [Nat.add_comm, Nat.testBit_two_pow_add_gt hlt, ih k hlt]
      · exact ih k hlt
    · have htop : (maskOf f k).testBit k = false := Nat.testBit_lt_two_pow (maskOf_lt f k)
      split
      · rw [Nat.add_comm, Nat.testBit_two_pow_add_eq, htop]
        simp [*]
      · simp [*]

section
variable {s t u : State} {d b k port : Nat} {p q : Packet} {os : List Out}

/-- `0x5101.01` is the hole map as a number (R351). -/
theorem roVal_holes (s : State) : s.roVal 0x5101 1 = maskOf (fun d => (s.die d).hole) 64 := by
  simp [State.roVal, timedObj, maskOf]

/-! ### The ways out of the mesh (R10, R339) -/

theorem hubAttach_side : ∀ h < 4, ∀ d ∈ hubAttach h, inMesh d h = false := by decide
theorem linkAttach_side : ∀ l < 8, ∀ d ∈ linkAttach l, inMesh d (l / 2) = false := by decide
theorem hubAttach_length : ∀ h < 4, (hubAttach h).length = 4 := by decide

theorem nearest_mem (a : Nat) : ∀ ds : List Nat, ds ≠ [] → ∃ e ∈ ds, nearest a ds = some e := by
  intro ds
  induction ds with
  | nil => exact fun h => absurd rfl h
  | cons d ds ih =>
    intro _
    cases ds with
    | nil => exact ⟨d, List.mem_singleton_self d, rfl⟩
    | cons d' ds =>
      obtain ⟨e, he, heq⟩ := ih (List.cons_ne_nil _ _)
      simp only [nearest, heq]
      split
      · exact ⟨d, List.mem_cons_self .., rfl⟩
      · exact ⟨e, List.mem_cons_of_mem _ he, rfl⟩

theorem hubAttachFor_mem {h : Nat} (hh : h < 4) (src : Nat) (p : Packet) : hubAttachFor h src p ∈ hubAttach h := by
  unfold hubAttachFor
  split
  · rw [List.getD_eq_getElem _ _ (by rw [hubAttach_length h hh]; exact bits_lt ..)]
    exact List.getElem_mem ..
  · obtain ⟨e, he, heq⟩ := nearest_mem src (hubAttach h) fun hnil => by simpa [hnil] using hubAttach_length h hh
    rw [heq]
    exact he

/-- A packet leaves the mesh to its die's clusters, or by a side that has no die of the mesh. -/
theorem targetDie_side {src : Nat} (h : s.targetDie src p = some (b, port)) : port = 4 ∨ inMesh b port = false := by
  have hhub : ∀ {i : Nat}, (if i < 4 then some (hubAttachFor i src p, i) else none) = some (b, port) → inMesh b port = false := fun {i} hi => by
    split at hi
    · obtain ⟨rfl, rfl⟩ := Prod.mk.inj (Option.some.inj hi)
      exact hubAttach_side _ ‹_› _ (hubAttachFor_mem ‹_› src p)
    · cases hi
  have hlink : ∀ {l : Nat}, (if 8 ≤ l then none else ((linkAttach l)[(src / 8 + src % 8) % 2]?).map fun d => (d, l / 2)) = some (b, port) → inMesh b port = false := fun {l} hl => by
    split at hl
    · cases hl
    · obtain ⟨e, he, heq⟩ := Option.map_eq_some_iff.1 hl
      obtain ⟨rfl, rfl⟩ := Prod.mk.inj heq
      exact linkAttach_side l (by omega) _ (List.mem_of_getElem? he)
  unfold State.targetDie at h
  dsimp only at h
  split at h
  · obtain ⟨q, -, hq⟩ := Option.bind_eq_some_iff.1 h
    exact .inr (hlink hq)
  · split at h
    · exact .inl (Prod.mk.inj (Option.some.inj h)).2.symm
    · exact .inr (hlink h)
    · exact .inr (hhub h)
    · obtain ⟨i, -, hi⟩ := Option.bind_eq_some_iff.1 h
      exact .inr (hhub hi)

/-! ### The links that the escape table follows (R349) -/

/-- No hole lies at either end of a link of the mesh that works. -/
theorem meshLinks_noHole {e : Nat × Nat × Nat} (he : e ∈ s.meshLinks) : (s.die e.1).hole = false ∧ (s.die e.2.1).hole = false := by
  unfold State.meshLinks at he
  obtain ⟨a, -, ha⟩ := List.mem_flatMap.1 he
  obtain ⟨k, hk, hlink⟩ := List.mem_filterMap.1 ha
  have hback : beside (beside a k) (opposite k) = a := by
    rcases List.mem_pair.1 hk with rfl | rfl <;> simp [beside, opposite]
  split at hlink
  · rename_i hopen
    obtain rfl := Option.some.inj hlink
    simp only [State.dirOpen, hback, Bool.and_eq_true, Bool.not_eq_true'] at hopen
    exact ⟨hopen.2.2, hopen.1.2⟩
  · cases hlink

/-- The order of preference holds the links that it orders. -/
theorem mem_preferred {α : Type} (before after : α → α → Bool) (es : List α) : ∀ (l : List α) (e : α),
    e ∈ es.foldl (fun l e => (l.filter fun x => before x e) ++ [e] ++ (l.filter fun x => after x e)) l → e ∈ l ∨ e ∈ es := by
  induction es with
  | nil => exact fun l e h => .inl h
  | cons x es ih =>
    intro l e h
    rcases ih _ e h with hl | hes
    · simp only [List.mem_append, List.mem_filter, List.mem_singleton] at hl
      rcases hl with (⟨hl, -⟩ | rfl) | ⟨hl, -⟩
      · exact .inl hl
      · exact .inr (List.mem_cons_self ..)
      · exact .inl hl
    · exact .inr (List.mem_cons_of_mem _ hes)

/-- The tree is made of links among those it is built from. -/
theorem mem_spanning (links : List (Nat × Nat × Nat)) : ∀ (st : List Nat × List (Nat × Nat)) (e : Nat × Nat),
    e ∈ (links.foldl (fun (st : List Nat × List (Nat × Nat)) e =>
      let la := st.1.getD e.1 0
      let lb := st.1.getD e.2.1 0
      if la = lb then st else (st.1.map fun x => if x = lb then la else x, st.2 ++ [(e.1, e.2.1)])) st).2 →
    e ∈ st.2 ∨ ∃ x ∈ links, e = (x.1, x.2.1) := by
  induction links with
  | nil => exact fun st e h => .inl h
  | cons x links ih =>
    intro st e h
    rcases ih _ e h with hst | ⟨y, hy, rfl⟩
    · dsimp only at hst
      split at hst
      · exact .inl hst
      · rcases List.mem_append.1 hst with hst | hx
        · exact .inl hst
        · exact .inr ⟨x, List.mem_cons_self .., List.mem_singleton.1 hx⟩
    · exact .inr ⟨y, List.mem_cons_of_mem _ hy, rfl⟩

theorem escapeTree_noHole {e : Nat × Nat} (he : e ∈ s.escapeTree) : (s.die e.1).hole = false ∧ (s.die e.2).hole = false := by
  rcases mem_spanning _ _ e he with hnil | ⟨x, hx, rfl⟩
  · cases hnil
  · rcases mem_preferred (fun x e => decide (x.2.2 ≤ e.2.2)) (fun x e => decide (e.2.2 < x.2.2)) _ _ x hx with hnil | hx
    · cases hnil
    · exact meshLinks_noHole hx

/-- The escape table sends no packet to a hole. -/
theorem escapeDir_noHole (h : s.escapeDir d b = some k) : (s.die (beside d k)).hole = false := by
  unfold State.escapeDir at h
  obtain ⟨n, hn, hk⟩ := Option.bind_eq_some_iff.1 h
  have hbeside : beside d k = n := by simpa using (Bool.and_eq_true_iff.1 (List.find?_some (p := fun k => inMesh d k && beside d k == n) hk)).2
  obtain ⟨e, he, hend⟩ := List.mem_filterMap.1 (List.mem_of_find?_eq_some hn)
  obtain ⟨h₁, h₂⟩ := escapeTree_noHole he
  split at hend
  · rw [hbeside, ← Option.some.inj hend]; exact h₂
  · split at hend
    · rw [hbeside, ← Option.some.inj hend]; exact h₁
    · cases hend

theorem turns_noHole (h : k ∈ s.turns d b p) : (s.die (beside d k)).hole = false := by
  unfold State.turns at h
  obtain ⟨-, hopen⟩ := List.mem_filter.1 (List.mem_filter.1 h).1
  simpa [State.dirOpen] using (Bool.and_eq_true_iff.1 hopen).2

theorem mostCredits_mem {ks : List Nat} {vc : Nat} (h : s.mostCredits d vc ks = some k) : k ∈ ks := by
  cases ks with
  | nil => cases h
  | cons j js =>
    obtain ⟨e, he, heq, -⟩ := mostCredits_spec s d vc (j :: js) (List.cons_ne_nil _ _)
    rw [heq] at h
    exact Option.some.inj h ▸ he

/-! ### What a junction sends (R351) -/

/-- From `s` to `t` the outputs `os` are new, memory and the hole map are as they were. -/
def HolesKept (s t : State) (os : List Out) : Prop := t.out = s.out ++ os ∧ t.mem = s.mem ∧ ∀ k, (t.die k).hole = (s.die k).hole

/-- Of what a junction sends, nothing goes to a side where a hole lies. -/
def AvoidsHoles (s : State) (d : Nat) (os : List Out) : Prop :=
  ∀ k q, Out.forward (.junction d) k q ∈ os → k < 4 → inMesh d k = true → (s.die (beside d k)).hole = false

/-- A junction sends into no hole, and the hole map stays. -/
def SendsNoHole (s : State) (d : Nat) (t : State) : Prop := ∃ os, HolesKept s t os ∧ AvoidsHoles s d os

theorem holesKept_silent (hout : t.out = s.out) (hmem : t.mem = s.mem) (hdies : ∀ k, (t.die k).hole = (s.die k).hole) : HolesKept s t [] :=
  ⟨hout.trans (List.append_nil _).symm, hmem, hdies⟩

theorem HolesKept.trans {os' : List Out} (h : HolesKept s t os) (h' : HolesKept t u os') : HolesKept s u (os ++ os') := by
  obtain ⟨hout, hmem, hhole⟩ := h
  obtain ⟨hout', hmem', hhole'⟩ := h'
  exact ⟨by rw [hout', hout, List.append_assoc], hmem'.trans hmem, fun k => (hhole' k).trans (hhole k)⟩

theorem holesKept_updDie (s : State) (d : Nat) {f : Die → Die} (hf : ∀ x, (f x).hole = x.hole) : HolesKept s (s.updDie d f) [] :=
  holesKept_silent rfl rfl fun k => updDie_die_same_of Die.hole hf s d k

theorem holesKept_updLink (s : State) (l : Nat) (f : LinkDie → LinkDie) : HolesKept s (s.updLink l f) [] := holesKept_silent rfl rfl fun _ => rfl
theorem holesKept_emit (s : State) (o : Out) : HolesKept s (s.emit o) [o] := ⟨rfl, rfl, fun _ => rfl⟩

theorem leaves_holesKept (s : State) (d : Nat) (p : Packet) : HolesKept s (s.leaves d p) [] := by
  unfold State.leaves
  split
  · exact holesKept_silent rfl rfl fun _ => rfl
  · dsimp only
    split
    · exact holesKept_updDie s d fun _ => rfl
    · split
      · split
        · exact (holesKept_updDie s d (by intros; rfl)).trans (holesKept_updLink ..)
        · exact holesKept_updDie s d fun _ => rfl
      · exact (holesKept_updDie s d (by intros; rfl)).trans (holesKept_updDie _ _ (by intros; rfl))

theorem waitsAt_holesKept (s : State) (d : Nat) (p : Packet) : HolesKept s (s.waitsAt d p) [] := by
  unfold State.waitsAt
  split
  · exact holesKept_silent rfl rfl fun _ => rfl
  · exact holesKept_updDie s d fun _ => rfl

theorem avoidsHoles_nil (s : State) (d : Nat) : AvoidsHoles s d [] := fun _ _ h => by cases h

theorem avoidsHoles_packet (s : State) (d : Nat) (q : Packet) : AvoidsHoles s d [.packet q] := fun _ _ h => by cases List.mem_singleton.1 h

/-- A packet that goes on by one port does so by none of the mesh, or towards no hole. -/
theorem avoidsHoles_forward (h : k < 4 → inMesh d k = true → (s.die (beside d k)).hole = false) : AvoidsHoles s d [.forward (.junction d) k q] := fun j x hj => by
  cases List.mem_singleton.1 hj
  exact h

theorem waitsAt_sendsNoHole (s : State) (d : Nat) (p : Packet) : SendsNoHole s d (s.waitsAt d p) := ⟨[], waitsAt_holesKept .., avoidsHoles_nil _ _⟩

theorem crosses_sendsNoHole (h : (s.die (beside d k)).hole = false) : SendsNoHole s d (s.crosses d k p q) := by
  unfold State.crosses
  dsimp only
  split
  · exact waitsAt_sendsNoHole ..
  · exact ⟨_, (((leaves_holesKept s d p).trans (holesKept_updDie _ _ (by intros; rfl))).trans (holesKept_updDie _ _ (by intros; rfl))).trans (holesKept_emit ..),
      avoidsHoles_forward fun _ _ => h⟩

theorem escapeForward_sendsNoHole : SendsNoHole s d (s.escapeForward d b p) := by
  unfold State.escapeForward
  split
  · exact crosses_sendsNoHole (escapeDir_noHole ‹_›)
  · exact waitsAt_sendsNoHole ..

theorem goesOut_sendsNoHole (h : inMesh d port = false) : SendsNoHole s d (s.goesOut d port p) := by
  have hout : AvoidsHoles s d [.forward (.junction d) port (hopped p)] := avoidsHoles_forward fun _ hin => by simp [h] at hin
  unfold State.goesOut
  split
  · exact ⟨_, (leaves_holesKept s d p).trans (holesKept_emit ..), hout⟩
  · dsimp only
    split
    · exact waitsAt_sendsNoHole ..
    · exact ⟨_, (((leaves_holesKept s d p).trans (holesKept_updDie _ _ (by intros; rfl))).trans (holesKept_updLink ..)).trans (holesKept_emit ..), hout⟩

theorem woken_holesKept (s : State) (c : Nat) : HolesKept s (s.woken c) [] :=
  holesKept_silent (woken_out s c) (by unfold State.woken; split <;> rfl) fun k => by simp [State.die]

theorem junction_takes (hdrain : (s.die d).draining = true → (s.heldAt d p).isSome = true) : ¬((s.die d).draining = true ∧ (s.heldAt d p).isNone = true) :=
  fun ⟨hd, hn⟩ => by simpa [Option.isNone_iff_eq_none.1 hn] using hdrain hd

/-- A packet for a cluster on a hole is answered with RETRY, reason 2 (R351). -/
theorem junctionForward_hole (hhchk : p.hchk = pktHcheck p) (hhops : p.hops ≠ 255) (hdrain : (s.die d).draining = true → (s.heldAt d p).isSome = true)
    (htarget : s.targetDie (s.sourceDie d p) p = some (b, 4)) (hhole : (s.die b).hole = true) :
    s.junctionForward d p = (s.leaves d p).emit (.packet (retryTo p 2)) := by
  have hsound : ¬(p.hchk ≠ pktHcheck p ∨ p.hops = 255) := fun h => h.elim (absurd hhchk) hhops
  unfold State.junctionForward
  dsimp only
  rw [if_neg (junction_takes hdrain), if_neg hsound, htarget]
  simp [hhole]

/-- A packet that has no target now waits. -/
theorem junctionForward_lost (hhchk : p.hchk = pktHcheck p) (hhops : p.hops ≠ 255) (hdrain : (s.die d).draining = true → (s.heldAt d p).isSome = true)
    (htarget : s.targetDie (s.sourceDie d p) p = none) : s.junctionForward d p = s.waitsAt d p := by
  have hsound : ¬(p.hchk ≠ pktHcheck p ∨ p.hops = 255) := fun h => h.elim (absurd hhchk) hhops
  unfold State.junctionForward
  dsimp only
  rw [if_neg (junction_takes hdrain), if_neg hsound, htarget]

/-- A packet for a cluster that resets is answered with RETRY, or is discarded (R353). -/
theorem junctionForward_resets (hhchk : p.hchk = pktHcheck p) (hhops : p.hops ≠ 255) (hdrain : (s.die d).draining = true → (s.heldAt d p).isSome = true)
    (htarget : s.targetDie (s.sourceDie d p) p = some (d, 4)) (hhole : (s.die d).hole = false)
    (hreset : ((s.die d).resetting || (s.cl (p.dstEp.toNat % 8192)).isolated) = true) :
    s.junctionForward d p = if p.cls = 0 ∨ p.cls = 4 then (s.leaves d p).emit (.packet (retryTo p 1)) else (s.leaves d p).bump 0x5100 3 1 := by
  have hsound : ¬(p.hchk ≠ pktHcheck p ∨ p.hops = 255) := fun h => h.elim (absurd hhchk) hhops
  unfold State.junctionForward
  dsimp only
  rw [if_neg (junction_takes hdrain), if_neg hsound, htarget]
  simp [hhole, hreset]

/-- Of no packet with a sound header does a junction send anything on to a side where a hole lies. -/
theorem junctionForward_sendsNoHole (hhchk : p.hchk = pktHcheck p) (hhops : p.hops ≠ 255) (hdrain : (s.die d).draining = true → (s.heldAt d p).isSome = true) :
    SendsNoHole s d (s.junctionForward d p) := by
  have hretry : ∀ r, SendsNoHole s d ((s.leaves d p).emit (.packet (retryTo p r))) := fun r =>
    ⟨_, (leaves_holesKept s d p).trans (holesKept_emit ..), avoidsHoles_packet _ _ _⟩
  rcases htarget : s.targetDie (s.sourceDie d p) p with _ | ⟨b, port⟩
  · exact junctionForward_lost hhchk hhops hdrain htarget ▸ waitsAt_sendsNoHole ..
  · by_cases hhole : port = 4 ∧ (s.die b).hole = true
    · obtain ⟨rfl, hhole⟩ := hhole
      exact junctionForward_hole hhchk hhops hdrain htarget hhole ▸ hretry 2
    · by_cases hreset : port = 4 ∧ b = d ∧ ((s.die d).resetting || (s.cl (p.dstEp.toNat % 8192)).isolated) = true
      · obtain ⟨rfl, rfl, hreset⟩ := hreset
        rw [junctionForward_resets hhchk hhops hdrain htarget (by simpa using hhole) hreset]
        split
        · exact hretry 1
        · exact ⟨_, leaves_holesKept s b p, avoidsHoles_nil _ _⟩
      · rw [junctionForward_sound hhchk hhops htarget hdrain fun hport => ⟨by simpa [hport] using hhole, fun hb => by simpa [hport, hb] using hreset⟩]
        split
        · subst b
          split
          · exact ⟨_, ((woken_holesKept s _).trans (leaves_holesKept ..)).trans (holesKept_emit ..), avoidsHoles_forward fun hport => by omega⟩
          · split
            · exact waitsAt_sendsNoHole ..
            · exact goesOut_sendsNoHole ((targetDie_side htarget).resolve_left ‹_›)
        · split
          · exact escapeForward_sendsNoHole
          · cases hk : s.mostCredits d (chanOf p) (s.turns d b p) with
            | none => exact escapeForward_sendsNoHole
            | some k => exact crosses_sendsNoHole (turns_noHole (mostCredits_mem hk))

theorem leaves_bufs_length (s : State) (d : Nat) (p : Packet) : ((s.leaves d p).die d).bufs.length ≤ (s.die d).bufs.length := by
  cases hx : s.heldAt d p with
  | none => rw [State.leaves, hx]
  | some x => rw [leaves_bufs hx]; exact List.length_erase_le

end

/-- Settles O33: the map is `maskOf` of the dies' hole bits; `junctionForward_hole` answers a packet for a hole, and `junctionForward_sendsNoHole` covers every way on:
adaptive, by the escape tree, whose links join no hole, and out of the mesh. -/
theorem holes : Obligations.Holes := by
  unfold Obligations.Holes
  intro s d p
  refine ⟨fun k hk => ?_, fun hdrain hnone => ?_, fun hdrain => ⟨fun hhchk hhops => ⟨fun b htarget hhole => ?_, ?_⟩, fun hbad => ?_⟩⟩
  · rw [roVal_holes, bit1_eq_testBit, testBit_maskOf _ _ k hk]
  · exact congrArg Host.Outcome.next (if_pos ⟨hdrain, by rw [hnone]; rfl⟩)
  · have hfab := (leaves_onlyFabric s d p).trans (onlyFabric_emit _ (.packet (retryTo p 2)))
    obtain ⟨hmem, hcl, hparts⟩ := hfab.rest
    exact runs_junction (junctionForward_hole hhchk hhops hdrain htarget hhole) ⟨hfab.out_eq, hmem, hcl, hparts, leaves_bufs_length s d p⟩
  · obtain ⟨os, ⟨hout, hmem, hhole⟩, havoid⟩ := junctionForward_sendsNoHole (s := s) hhchk hhops hdrain
    exact runs_junction rfl ⟨os, hout, hmem, hhole, havoid⟩
  · exact congrArg Host.Outcome.next ((if_neg (junction_takes hdrain)).trans (if_pos hbad))

end Sys2Proof.Machine
end

section
/-! SUPPORT. Flits (R356 to R358, R365): what receiving a packet leaves of memory, the partitions and the receiving side of the ports, where a packet goes from
the link die that received it, and the statement. -/

namespace Sys2Proof.Machine

/-- What the receiving side of a port holds: the sequence expected, whether it asks for a replay, and the units that are not yet a packet. -/
def Port.rxSide (x : Port) : Nat × Bool × List Byte := (x.rxSeq, x.naking, x.rx)

/-- Memory, the partitions and the receiving sides of the ports are as they were. -/
structure RecvKept (s t : State) : Prop where
  mem : t.mem = s.mem
  parts : t.parts = s.parts
  rx : ∀ k, (t.port k).rxSide = (s.port k).rxSide

section
variable {s t u : State} {l q k : Nat} {p r : Packet} {os : List Out}

/-! ### What receiving keeps -/

theorem recvKept_refl (s : State) : RecvKept s s := ⟨rfl, rfl, fun _ => rfl⟩

theorem RecvKept.trans (h : RecvKept s t) (h' : RecvKept t u) : RecvKept s u :=
  ⟨h'.mem.trans h.mem, h'.parts.trans h.parts, fun k => (h'.rx k).trans (h.rx k)⟩

theorem recvKept_foldl {α : Type} {f : State → α → State} {xs : List α} (hf : ∀ s, ∀ x ∈ xs, RecvKept s (f s x)) : ∀ s, RecvKept s (xs.foldl f s) := by
  induction xs with
  | nil => exact recvKept_refl
  | cons x xs ih => exact fun s => (hf s x (List.mem_cons_self ..)).trans (ih (fun s y hy => hf s y (List.mem_cons_of_mem _ hy)) _)

/-- What is no change of memory, of the partitions or of a port changes nothing of these. -/
theorem recvKept_of_eq (hmem : t.mem = s.mem) (hparts : t.parts = s.parts) (hports : t.ports = s.ports) : RecvKept s t :=
  ⟨hmem, hparts, fun k => by simp only [State.port, hports]⟩

theorem recvKept_updPort (s : State) (q : Nat) {f : Port → Port} (hf : ∀ x, (f x).rxSide = x.rxSide) : RecvKept s (s.updPort q f) :=
  ⟨rfl, rfl, fun k => updPort_port_same_of Port.rxSide hf s q k⟩

theorem recvKept_emit (s : State) (o : Out) : RecvKept s (s.emit o) := recvKept_of_eq rfl rfl rfl

theorem OnlyFabric.recvKept (h : OnlyFabric s t os) (hrx : ∀ k, (t.port k).rxSide = (s.port k).rxSide) : RecvKept s t := by
  obtain ⟨hmem, -, hparts⟩ := h.rest
  exact ⟨hmem, hparts, hrx⟩

theorem OnlyFlits.recvKept (h : OnlyFlits s t) (hrx : ∀ k, (t.port k).rxSide = (s.port k).rxSide) : RecvKept s t := by
  obtain ⟨hmem, -, hparts⟩ := h.rest
  exact ⟨hmem, hparts, hrx⟩

theorem linkLeaves_recvKept (s : State) (l : Nat) (p : Packet) : RecvKept s (s.linkLeaves l p) :=
  (linkLeaves_onlyFabric s l p).recvKept fun k => linkLeaves_port (g := Port.rxSide) (fun _ _ _ => rfl) s l p k

theorem linkWait_recvKept (s : State) (l : Nat) (p : Packet) : RecvKept s (s.linkWait l p) := recvKept_of_eq rfl rfl rfl

theorem linkInto_recvKept (s : State) (l : Nat) (p : Packet) : RecvKept s (s.linkInto l p) := by
  unfold State.linkInto
  split
  · exact linkWait_recvKept ..
  · exact (linkLeaves_recvKept s l p).trans (recvKept_of_eq rfl rfl rfl)

theorem sendFlit_recvKept (s : State) (q : Nat) (nak idle : Bool) (credits : List Nat) (payload : List Byte) (start : Nat) :
    RecvKept s (s.sendFlit q nak idle credits payload start) :=
  (sendFlit_onlyFlits ..).recvKept fun k => sendFlit_port (g := Port.rxSide) (fun _ _ _ => rfl) s q nak idle credits payload start k

theorem creditFlit_recvKept (s : State) (q : Nat) (nak : Bool) : RecvKept s (s.creditFlit q nak) := by
  unfold State.creditFlit
  split
  · exact recvKept_refl s
  · exact (recvKept_updPort s q (by intros; rfl)).trans (sendFlit_recvKept ..)

theorem pump_recvKept (q : Nat) : ∀ (f : Nat) (s : State), RecvKept s (State.pump q f s) := by
  intro f
  induction f with
  | zero => exact recvKept_refl
  | succ f ih =>
    intro s
    unfold State.pump
    dsimp only
    split
    · exact recvKept_refl s
    · exact ((sendFlit_recvKept ..).trans (recvKept_updPort _ q (by intros; rfl))).trans (ih _)

theorem stream_recvKept (s : State) (q : Nat) (p : Packet) : RecvKept s (s.stream q p) := (recvKept_updPort s q (by intros; rfl)).trans (pump_recvKept ..)

theorem linkSend_recvKept (s : State) (l q : Nat) (p : Packet) : RecvKept s (s.linkSend l q p) := by
  unfold State.linkSend State.linkOut
  split
  · dsimp only
    split
    · exact linkWait_recvKept ..
    · exact (((linkLeaves_recvKept s l p).trans (recvKept_updPort _ q (by intros; rfl))).trans (recvKept_emit ..)).trans (stream_recvKept ..)
  · exact linkInto_recvKept ..

/-- A sound packet that a link die forwards. -/
theorem linkForward_recvKept (hhchk : p.hchk = pktHcheck p) (hhops : p.hops ≠ 255) : RecvKept s (s.linkForward l p) := by
  by_cases hl : (s.link l).lost = true
  · rw [State.linkForward, if_pos hl]
    exact recvKept_refl s
  · rw [linkForward_sound (by simpa using hl) hhchk hhops]
    split
    · split
      · exact linkWait_recvKept ..
      · exact linkInto_recvKept ..
    · cases s.portFor p with
      | none => exact linkWait_recvKept ..
      | some q => exact linkSend_recvKept ..

/-- The pages that a request of another module needs, walked for its partition's ledger. -/
def State.walkedFor (s : State) (p : Packet) : State :=
  (s.walksFor (s.ctxPart p.part.toNat) p.addr.toNat (if p.ptype = 0x00 then min 2048 (p.msg.toNat % 65536) else p.payload.length)).foldl State.walked s

/-- A request as its translation leaves it: the physical address travels beside it. -/
def Packet.translated (p : Packet) (x : Piece) : Packet := { p with phys := some x.pa, hc := x.hc }

/-- The receive buffers of a link die with the packet translated. -/
def State.heldAs (s : State) (l : Nat) (p r : Packet) : State :=
  (List.range 4).foldl (fun t j => t.updPort (4 * l + j) fun y => { y with held := y.held.map fun x => if x = p then r else x }) s

theorem heldAs_recvKept (s : State) (l : Nat) (p r : Packet) : RecvKept s (s.heldAs l p r) :=
  recvKept_foldl (fun s _ _ => recvKept_updPort s _ (by intros; rfl)) s

theorem heldAs_link (s : State) (l : Nat) (p r : Packet) (k : Nat) : (s.heldAs l p r).link k = s.link k :=
  foldl_same (f := fun t j => t.updPort (4 * l + j) fun y => { y with held := y.held.map fun x => if x = p then r else x }) (P := fun s => s.link k)
    (fun _ _ => rfl) _ s

theorem walkedFor_recvKept (s : State) (p : Packet) : RecvKept s (s.walkedFor p) :=
  recvKept_of_eq (foldl_same (P := State.mem) walked_mem _ s) (foldl_same (P := State.parts) walked_parts _ s) (calm_foldl calm_walked _ s).ports

theorem walkedFor_link (s : State) (p : Packet) (k : Nat) : (s.walkedFor p).link k = s.link k := by
  have hlinks : (s.walkedFor p).links = s.links := (calm_foldl calm_walked _ s).links
  simp only [State.link, hlinks]

/-- A request is translated as the state translates for its partition's ledger. -/
def State.translate (s : State) (p : Packet) : Except Byte (List Piece) :=
  s.xl (s.ctxPart p.part.toNat) (p.ptype == 0x02) p.addr.toNat (if p.ptype = 0x00 then min 2048 (p.msg.toNat % 65536) else p.payload.length)

theorem linkTranslate_ok {x : Piece} (h : s.translate p = .ok [x]) :
    s.linkTranslate l p = ((s.walkedFor p).heldAs l p (Packet.translated p x)).linkForward l (Packet.translated p x) := by
  unfold State.translate at h
  unfold State.linkTranslate
  dsimp only
  rw [h]
  rfl

theorem linkTranslate_pieces {ps : List Piece} (h : s.translate p = .ok ps) (hps : ∀ x, ps ≠ [x]) : s.linkTranslate l p = (s.walkedFor p).linkForward l p := by
  unfold State.translate at h
  unfold State.linkTranslate
  dsimp only
  rw [h]
  match ps, hps with
  | [], _ => rfl
  | [x], hps => exact absurd rfl (hps x)
  | _ :: _ :: _, _ => rfl

/-- A request is refused with a status: with its answer, where its type has one, it leaves the buffers. -/
def State.refused (s : State) (l : Nat) (p : Packet) (status : Byte) : State :=
  (refuseAnswer p status).elim (s.linkLeaves l p) fun a => (s.linkLeaves l p).emit (.packet (pktFinish a))

theorem linkTranslate_error {e : Byte} (h : s.translate p = .error e) :
    s.linkTranslate l p = if e = stHold then (s.walkedFor p).linkWait l p else (s.walkedFor p).refused l p e := by
  unfold State.translate at h
  unfold State.linkTranslate State.refused
  dsimp only
  rw [h]
  dsimp only
  cases refuseAnswer p e <;> rfl

theorem refused_recvKept (s : State) (l : Nat) (p : Packet) (status : Byte) : RecvKept s (s.refused l p status) := by
  unfold State.refused
  cases refuseAnswer p status with
  | none => exact linkLeaves_recvKept ..
  | some a => exact (linkLeaves_recvKept ..).trans (recvKept_emit ..)

theorem refused_answers {status : Byte} {a : Packet} (h : refuseAnswer p status = some a) : Out.packet (pktFinish a) ∈ (s.refused l p status).out := by
  simp [State.refused, h]

theorem linkTranslate_recvKept (hhchk : p.hchk = pktHcheck p) (hhops : p.hops ≠ 255) : RecvKept s (s.linkTranslate l p) := by
  have hwalk := walkedFor_recvKept s p
  cases h : s.translate p with
  | error e =>
    rw [linkTranslate_error h]
    split
    · exact hwalk.trans (linkWait_recvKept ..)
    · exact hwalk.trans (refused_recvKept ..)
  | ok ps =>
    by_cases hone : ∃ x, ps = [x]
    · obtain ⟨x, rfl⟩ := hone
      rw [linkTranslate_ok h]
      exact (hwalk.trans (heldAs_recvKept ..)).trans (linkForward_recvKept (p := Packet.translated p x) hhchk hhops)
    · rw [linkTranslate_pieces h (not_exists.1 hone)]
      exact hwalk.trans (linkForward_recvKept hhchk hhops)

/-! ### What becomes of a packet (R365) -/

theorem linkReceive_known (hhchk : p.hchk = pktHcheck p) (hsrc : p.srcMod ≠ 0xFF) (hknown : (s.peerOk p && s.portMatches q p) = true) :
    s.linkReceive q p = if s.forUs p = true then s.linkTranslate (q / 4) p else s.linkForward (q / 4) p := by
  obtain ⟨hpeer, hport⟩ := Bool.and_eq_true_iff.1 hknown
  unfold State.linkReceive
  rw [if_neg (not_not_intro hhchk), if_pos ⟨hsrc, hpeer, hport⟩]

theorem linkReceive_unknown (hhchk : p.hchk = pktHcheck p) (hsrc : p.srcMod ≠ 0xFF) (hknown : (s.peerOk p && s.portMatches q p) = false) :
    s.linkReceive q p = s.refused (q / 4) p stProtect := by
  have hno : ¬(p.srcMod ≠ 0xFF ∧ s.peerOk p = true ∧ s.portMatches q p = true) := fun ⟨_, hpeer, hport⟩ => by simp [hpeer, hport] at hknown
  unfold State.linkReceive State.refused
  dsimp only
  rw [if_neg (not_not_intro hhchk), if_neg hno, if_neg hsrc]
  cases refuseAnswer p stProtect <;> rfl

theorem linkReceive_own (hhchk : p.hchk = pktHcheck p) (hsrc : p.srcMod = 0xFF) : s.linkReceive q p = s.linkLeaves (q / 4) p := by
  unfold State.linkReceive
  rw [if_neg (not_not_intro hhchk), if_neg fun h => h.1 hsrc, if_pos hsrc]

theorem linkReceive_recvKept (hhchk : p.hchk = pktHcheck p) (hhops : p.hops ≠ 255) : RecvKept s (s.linkReceive q p) := by
  by_cases hsrc : p.srcMod = 0xFF
  · rw [linkReceive_own hhchk hsrc]
    exact linkLeaves_recvKept ..
  · cases hknown : s.peerOk p && s.portMatches q p with
    | false =>
      rw [linkReceive_unknown hhchk hsrc hknown]
      exact refused_recvKept ..
    | true =>
      rw [linkReceive_known hhchk hsrc hknown]
      split
      · exact linkTranslate_recvKept hhchk hhops
      · exact linkForward_recvKept hhchk hhops

/-- A packet has entered the mesh from a link die, or waits in it. -/
def EntersMesh (l : Nat) (r : Packet) (t : State) : Prop := (∃ k < 2, Out.forward (.linkDie l) (32 + k) (hopped r) ∈ t.out) ∨ r ∈ (t.link l).waiting

theorem linkInto_entersMesh (s : State) (l : Nat) (r : Packet) : EntersMesh l r (s.linkInto l r) := by
  by_cases h : s.waysIn l r = []
  · rw [linkInto_shut h]
    exact .inr (linkWait_waiting ..)
  · obtain ⟨k, hk, hfab, -⟩ := linkInto_open h
    refine .inl ⟨k, List.mem_range.1 (List.mem_filter.1 hk).1, ?_⟩
    rw [hfab.out_eq]
    exact List.mem_append_right _ (List.mem_singleton_self _)

/-- Flits that follow leave what has entered the mesh, or waits. -/
theorem OnlyFlits.entersMesh (h : OnlyFlits s t) (hin : EntersMesh l r s) : EntersMesh l r t := by
  obtain ⟨os, hout, -⟩ := h.out_eq
  rcases hin with ⟨k, hk, ho⟩ | hwait
  · exact .inl ⟨k, hk, by rw [hout]; exact List.mem_append_left _ ho⟩
  · exact .inr (by rwa [h.link_eq])

theorem OnlyFlits.out_mem {o : Out} (h : OnlyFlits s t) (ho : o ∈ s.out) : o ∈ t.out := by
  obtain ⟨os, hout, -⟩ := h.out_eq
  rw [hout]
  exact List.mem_append_left _ ho

/-- A packet is for this module: inside it, or from another module to it. -/
def State.ours (s : State) (p : Packet) : Prop := p.dstMod = 0xFF ∨ (s.pt p.part.toNat).fm.any (fun m => m.self == p.dstMod.toNat) = true

theorem ours_congr (h : t.parts = s.parts) : t.ours p ↔ s.ours p := by simp only [State.ours, State.pt, h]

/-- A sound packet for this module, and for no reduction store of this link die, goes into the mesh. -/
theorem linkForward_entersMesh (hl : (s.link l).lost = false) (hhchk : p.hchk = pktHcheck p) (hhops : p.hops ≠ 255) (hours : s.ours p) (hep : p.dstEp.toNat ≠ 0x4000 + l) :
    EntersMesh l p (s.linkForward l p) := by
  unfold State.ours at hours
  rw [linkForward_sound hl hhchk hhops, if_pos hours, if_neg hep]
  exact linkInto_entersMesh ..

theorem linkTranslate_entersMesh {x : Piece} (h : s.translate p = .ok [x]) (hl : (s.link l).lost = false) (hhchk : p.hchk = pktHcheck p) (hhops : p.hops ≠ 255)
    (hours : s.ours p) (hep : p.dstEp.toNat ≠ 0x4000 + l) : EntersMesh l (Packet.translated p x) (s.linkTranslate l p) := by
  rw [linkTranslate_ok h]
  refine linkForward_entersMesh (by rw [heldAs_link, walkedFor_link]; exact hl) hhchk hhops ?_ hep
  exact (ours_congr (p := Packet.translated p x) ((heldAs_recvKept ..).parts.trans (walkedFor_recvKept ..).parts)).2 hours

/-! ### Translation asks nothing of the ports (R266 to R272) -/

section
variable (s : State) (ports : Tab Port)

theorem walkFrom_ports (va : Nat) : ∀ fuel level table, ({ s with ports := ports } : State).walkFrom va fuel level table = s.walkFrom va fuel level table := by
  intro fuel
  induction fuel with
  | zero => intro level table; rfl
  | succ fuel ih =>
    intro level table
    simp only [State.walkFrom, ih]
    rfl

theorem leafFor_ports (x : XCtx) (va : Nat) : ({ s with ports := ports } : State).leafFor x va = s.leafFor x va := by
  simp only [State.leafFor, State.walk, walkFrom_ports]
  rfl

theorem xlate_ports (x : XCtx) (va : Nat) (wr : Bool) : ({ s with ports := ports } : State).xlate x va wr = s.xlate x va wr := by
  simp only [State.xlate, leafFor_ports]
  rfl

theorem xl_ports (x : XCtx) (wr : Bool) (va n : Nat) : ({ s with ports := ports } : State).xl x wr va n = s.xl x wr va n := by
  have hrange : ∀ fuel va n, ({ s with ports := ports } : State).xlRange x wr fuel va n = s.xlRange x wr fuel va n := by
    intro fuel
    induction fuel with
    | zero => intro va n; rfl
    | succ fuel ih => intro va n; simp only [State.xlRange, xlate_ports, ih]
  exact hrange _ va n

theorem translate_updPort (q : Nat) (f : Port → Port) (p : Packet) : (s.updPort q f).translate p = s.translate p := xl_ports ..

end

/-! ### A flit (R356, R357) -/

/-- The flit is whole, and its check is good. -/
def flitGood (fec : Bool) (bytes : List Byte) : Bool := fec && bytes.length == 640 && leNat ((bytes.drop 624).take 8) == (crc64 (bytes.take 624)).toNat

/-- The units of a flit that join what the port holds of a packet. -/
def flitLoad (bytes : List Byte) (x : Port) : List Byte :=
  if bit1 (leNat (bytes.take 16)) 25 then [] else if x.rx.isEmpty then ((bytes.drop 16).take 608).drop (bits (leNat (bytes.take 16)) 26 6) else (bytes.drop 16).take 608

theorem exec_sflFlit_bad {fec : Bool} {bytes : List Byte} (hst : (s.port q).st = .up) (hmode : (s.port q).mode = 0) (hbad : flitGood fec bytes = false) :
    exec (.sflFlit q fec bytes) s = .next ((s.updPort q fun x => { x with naking := true }).creditFlit q true) := by
  unfold flitGood at hbad
  simp only [exec, execSflFlit, hst, hmode, hbad]
  rfl

/-- A port as it has taken a flit in order: whole packets wait for the link die, and the credits of its header are taken back. -/
def Port.took (bytes : List Byte) (got : List Packet × List Byte) (y : Port) : Port :=
  { y with replay := [], ackSeq := bits (leNat (bytes.take 16)) 12 12, rxSeq := (y.rxSeq + 1) % 4096, naking := false, rx := got.2,
           used := creditsIn (leNat (bytes.take 16)) y.used, held := y.held ++ got.1 }

theorem flitAcked_nothing (s : State) (q ack : Nat) (h : (s.port q).replay = []) :
    s.flitAcked q ack false = s.updPort q fun y => { y with replay := [], ackSeq := ack } := by
  simp [State.flitAcked, h]

theorem exec_sflFlit_good {fec : Bool} {bytes : List Byte} (hst : (s.port q).st = .up) (hmode : (s.port q).mode = 0) (hgood : flitGood fec bytes = true)
    (hseq : bits (leNat (bytes.take 16)) 0 12 = (s.port q).rxSeq) (hnak : bit1 (leNat (bytes.take 16)) 24 = false) (hreplay : (s.port q).replay = []) :
    exec (.sflFlit q fec bytes) s =
      let got := unitsSplit 16 ((s.port q).rx ++ flitLoad bytes (s.port q))
      .next (State.pump q 4 ((got.1.foldl (fun t p => t.linkReceive q p) (s.updPort q (Port.took bytes got))).creditFlit q false)) := by
  unfold flitGood at hgood
  have htook : ∀ got : List Packet × List Byte, ((s.updPort q fun y => { y with replay := [], ackSeq := bits (leNat (bytes.take 16)) 12 12 }).updPort q fun y =>
      { y with rxSeq := (y.rxSeq + 1) % 4096, naking := false, rx := got.2, used := creditsIn (leNat (bytes.take 16)) y.used, held := y.held ++ got.1 }) =
      s.updPort q (Port.took bytes got) := fun got => by
    simp [State.updPort, State.port, Port.took, tab_put_put]
  simp only [exec, execSflFlit, hst, hmode, hgood, hnak, hseq, flitAcked_nothing s q _ hreplay, htook]
  rw [if_neg (by simp), if_neg (by simp), if_neg (by simp)]
  rfl

end

/-- Settles O35: a bad flit is answered by one flit; a good one changes its port by `Port.took`, after which receiving keeps the port's receiving side
(`linkReceive_recvKept`), and a single packet is refused, or goes into the mesh, as its translation says. -/
theorem flits : Obligations.Flits := by
  unfold Obligations.Flits
  intro s p fec bytes hst hmode good h l
  refine ⟨fun hbad => ⟨_, exec_sflFlit_bad hst hmode hbad, ?_⟩, ?_⟩
  · obtain ⟨hmem, hcl, hparts⟩ := ((onlyFlits_updPort s p fun x => { x with naking := true }).trans (creditFlit_onlyFlits _ p true)).rest
    have hrx := (creditFlit_recvKept (s.updPort p fun x => { x with naking := true }) p true).rx p
    rw [updPort_port_same] at hrx
    simp only [Port.rxSide, Prod.mk.injEq] at hrx
    obtain ⟨hseq, hnaking, hunits⟩ := hrx
    refine ⟨hmem, hcl, hparts, hseq, hunits, hnaking, fun hroom => ?_⟩
    simp [State.creditFlit, State.sendFlit, Nat.not_le.2 hroom]
  · intro hgood hseq hnak hreplay load got hsound
    refine ⟨_, exec_sflFlit_good hst hmode hgood hseq hnak hreplay, ?_⟩
    let u := s.updPort p (Port.took bytes got)
    let v := got.1.foldl (fun t q => t.linkReceive p q) u
    have hrecv : RecvKept u v := recvKept_foldl (fun t q hq => linkReceive_recvKept (hsound q hq).1 (hsound q hq).2) u
    have hall : RecvKept u (State.pump p 4 (v.creditFlit p false)) := (hrecv.trans (creditFlit_recvKept ..)).trans (pump_recvKept ..)
    have hafter : OnlyFlits v (State.pump p 4 (v.creditFlit p false)) := (creditFlit_onlyFlits ..).trans (pump_onlyFlits ..)
    have hrx := hall.rx p
    rw [show u.port p = Port.took bytes got (s.port p) from updPort_port_same ..] at hrx
    simp only [Port.rxSide, Port.took, Prod.mk.injEq] at hrx
    obtain ⟨hnext, hnaking, hunits⟩ := hrx
    refine ⟨hall.mem, hall.parts, hnext, hnaking, hunits, fun q hq hl hsrc => ?_⟩
    have hv : v = u.linkReceive p q := by simp only [v, hq, List.foldl_cons, List.foldl_nil]
    obtain ⟨hhchk, hhops⟩ := hsound q (by simp [hq])
    have hmatch : u.portMatches p q = s.portMatches p q := by
      have hpeer : (u.port p).peer = (s.port p).peer := by rw [show u.port p = Port.took bytes got (s.port p) from updPort_port_same ..]; rfl
      simp only [State.portMatches, hpeer]
      rfl
    have hknown : (u.peerOk q && u.portMatches p q) = (s.peerOk q && s.portMatches p q) := by rw [hmatch]; rfl
    intro known answered goes
    refine ⟨fun hno a ha => hafter.out_mem ?_, fun hyes hours hep => ⟨fun hnot => ?_, fun hus => ⟨fun x hx => ?_, fun e he hhold a ha => ?_⟩⟩⟩
    · rw [hv, linkReceive_unknown hhchk hsrc (hknown.trans hno)]
      exact refused_answers ha
    · refine hafter.entersMesh ?_
      rw [hv, linkReceive_known hhchk hsrc (hknown.trans hyes), if_neg (by rw [show u.forUs q = s.forUs q from rfl, hnot]; decide)]
      exact linkForward_entersMesh hl hhchk hhops hours hep
    · refine hafter.entersMesh (r := Packet.translated q x) ?_
      rw [hv, linkReceive_known hhchk hsrc (hknown.trans hyes), if_pos (show u.forUs q = true from hus)]
      exact linkTranslate_entersMesh ((translate_updPort ..).trans hx) hl hhchk hhops hours hep
    · refine hafter.out_mem ?_
      rw [hv, linkReceive_known hhchk hsrc (hknown.trans hyes), if_pos (show u.forUs q = true from hus), linkTranslate_error ((translate_updPort ..).trans he), if_neg hhold]
      exact refused_answers ha

end Sys2Proof.Machine
end

section
/-! SUPPORT. What a stop, a store and an event leave standing (R72, R100, R410): the dies, which hubs are lost, what a reset keeps of a cluster, and the count of
discarded packets. -/

namespace Sys2Proof.Machine

/-- What a reset of a cluster keeps of it: its status, role and firmware digest, and the generations of its windows (R403, R422). -/
def Cluster.lasting (cl : Cluster) : CStat × Option Nat × Bool × (Fin 8 → Nat) := (cl.stat, cl.role, cl.fwOk, fun w => (Tab.look cl.wins {} w).gen)

/-- Which hubs are lost. -/
def State.hubsLost (s : State) : Nat → Bool := fun k => (s.hub k).lost

/-- The dies, the loss of hubs, the count of discarded packets, and what a reset keeps of the clusters, are as they were. -/
structure Standing (s t : State) : Prop where
  dies : t.dies = s.dies
  hubs : t.hubsLost = s.hubsLost
  count : t.obj 0x5100 2 = s.obj 0x5100 2
  cl : ∀ k, (t.cl k).lasting = (s.cl k).lasting

section
variable {s t u : State}

theorem standing_of_eq (hdies : t.dies = s.dies) (hhubs : t.hubs = s.hubs) (hcount : t.obj 0x5100 2 = s.obj 0x5100 2) (hcl : t.clusters = s.clusters) : Standing s t :=
  ⟨hdies, congrArg (fun l k => (Tab.look l {} k : Hub).lost) hhubs, hcount, fun k => congrArg (fun l => (Tab.look l {} k : Cluster).lasting) hcl⟩

theorem standing_refl (s : State) : Standing s s := standing_of_eq rfl rfl rfl rfl

theorem Standing.trans (h : Standing s t) (h' : Standing t u) : Standing s u :=
  ⟨h'.dies.trans h.dies, h'.hubs.trans h.hubs, h'.count.trans h.count, fun k => (h'.cl k).trans (h.cl k)⟩

theorem standing_foldl {α : Type} {f : State → α → State} (hf : ∀ s x, Standing s (f s x)) (l : List α) (s : State) : Standing s (l.foldl f s) :=
  foldl_keeps (P := Standing s) (fun t x h => h.trans (hf t x)) l s (standing_refl s)

theorem standing_updCl (s : State) (c : Nat) {f : Cluster → Cluster} (hf : (f (s.cl c)).lasting = (s.cl c).lasting) : Standing s (s.updCl c f) := by
  refine ⟨rfl, rfl, rfl, fun k => ?_⟩
  by_cases h : k = c
  · subst h; rw [updCl_cl_same, hf]
  · rw [updCl_cl_ne _ _ _ _ h]

theorem standing_updPt (s : State) (p : Nat) (f : Part → Part) : Standing s (s.updPt p f) := standing_of_eq rfl rfl rfl rfl
theorem standing_updEntry (s : State) (p q : Nat) (f : Entry → Entry) : Standing s (s.updEntry p q f) := standing_updPt ..

/-! ### Hubs (R261 to R263, R415) -/

theorem updHub_hubsLost (s : State) (h : Nat) {f : Hub → Hub} (hf : ∀ x, (f x).lost = x.lost) : (s.updHub h f).hubsLost = s.hubsLost := by
  funext k
  by_cases hk : k = h
  · subst hk; simp [State.hubsLost, hf]
  · simp only [State.hubsLost, updHub_hub_ne _ _ _ _ hk]

theorem hubsLost_congr (h : t.hubs = s.hubs) : t.hubsLost = s.hubsLost := congrArg (fun l k => (Tab.look l {} k : Hub).lost) h

theorem sweepWatches_hubsLost (s : State) (c : Nat) : (s.sweepWatches c).hubsLost = s.hubsLost :=
  (foldl_same (P := State.hubsLost) (f := fun s r => s.unfilter c r) (fun _ _ => updHub_hubsLost _ _ fun _ => rfl) _ _).trans rfl

theorem endWatches_hubsLost (s : State) (c : Nat) : (s.endWatches c).hubsLost = s.hubsLost := by
  unfold State.endWatches
  split
  · rfl
  · exact sweepWatches_hubsLost ..

theorem resolveWord_hubs (s : State) (w : Nat) : (s.resolveWord w).hubs = s.hubs := by
  unfold State.resolveWord
  split
  · rfl
  · rfl
  · split <;> rfl
  · split
    · rfl
    · split <;> rfl
    · rfl

theorem coalOut_hubs (s : State) (c : Nat) (gone : Coal → Bool) : (s.coalOut c gone).hubs = s.hubs := by
  unfold State.coalOut
  exact foldl_same (P := State.hubs) (f := fun s w => { s.resolveWord w with upset := Tab.put (s.resolveWord w).upset 0 w 0 }) (fun s w => resolveWord_hubs s w) _ _

theorem coalMerge_hubs (s : State) (c off : Nat) (bs : List Byte) (who : Nat) : (s.coalMerge c off bs who).hubs = s.hubs := by
  unfold State.coalMerge
  dsimp only
  split
  · rfl
  · rw [updCl_hubs]
    split
    · split
      · exact coalOut_hubs ..
      · rfl
    · rfl

theorem coalStore_hubs (s : State) (c off : Nat) (bs : List Byte) (who : Nat) : (s.coalStore c off bs who).hubs = s.hubs :=
  foldl_same (P := State.hubs) (f := fun t (x : Nat × Nat) => t.coalMerge c x.1 ((bs.drop (x.1 - off)).take x.2) who) (fun _ _ => coalMerge_hubs ..) _ s

theorem coalAhead_hubs (s : State) (pa n : Nat) : (s.coalAhead pa n).hubs = s.hubs := by
  unfold State.coalAhead
  split
  · dsimp only
    split
    · exact coalOut_hubs ..
    · rfl
  · rfl

theorem storeSide_hubs (s : State) (w : Wr) : (s.storeSide w).hubs = s.hubs := by
  rw [← coalAhead_hubs s w.pa w.bytes.length]
  unfold State.storeSide
  dsimp only
  split
  · split
    · rfl
    · rw [updCl_hubs]
      exact coalStore_hubs ..
  · rfl

theorem lineAccess_hubsLost (s : State) (pa : Nat) (wr whole : Bool) (hc : Nat) : (s.lineAccess pa wr whole hc).hubsLost = s.hubsLost := by
  unfold State.lineAccess
  extract_lets h cxl k drained hc' key r t
  have ht : t.hubsLost = s.hubsLost := updHub_hubsLost s h fun _ => rfl
  clear_value t
  split
  · exact ht
  · split <;> exact ht

theorem hubTouch_hubsLost (s : State) (pa n : Nat) (wr : Bool) (hc : Nat) : (s.hubTouch pa n wr hc).hubsLost = s.hubsLost := by
  have hlines := fun (s : State) => foldl_same (P := State.hubsLost) (f := fun s i =>
    s.lineAccess ((pa / 256 + i) * 256) wr (decide (pa ≤ (pa / 256 + i) * 256) && decide ((pa / 256 + i) * 256 + 256 ≤ pa + n)) hc)
    (fun s i => lineAccess_hubsLost ..) (List.range ((pa + n - 1) / 256 - pa / 256 + 1)) s
  unfold State.hubTouch
  split
  · split
    · rfl
    · exact hlines s
  · split
    · rfl
    · exact hlines s
  · rfl

theorem noticeRegion_hubsLost (s : State) (region : Nat) : (s.noticeRegion region).1.hubsLost = s.hubsLost := by
  unfold State.noticeRegion
  dsimp only
  split
  · rfl
  · exact (foldl_same (P := State.hubsLost) (f := fun s c => s.sendNotice (State.hubOf _ (region * 4096)) c region false) (fun _ _ => rfl) _ _).trans
      (updHub_hubsLost _ _ fun _ => rfl)

theorem noticeWrite_hubsLost (s : State) (pa n : Nat) : (s.noticeWrite pa n).hubsLost = s.hubsLost := by
  have hregions := foldl_same (P := State.hubsLost) (f := fun t r => (State.noticeRegion t r).1) noticeRegion_hubsLost (regionsOf pa n) s
  unfold State.noticeWrite
  split
  · exact hregions
  · exact hregions
  · rfl

theorem store_hubsLost (s : State) (w : Wr) (hc : Nat) : (s.store w hc).hubsLost = s.hubsLost := by
  have hraw : (s.storeRaw w hc).hubsLost = s.hubsLost :=
    (noticeWrite_hubsLost ((s.storeSide w).hubTouch w.pa w.bytes.length true hc) w.pa w.bytes.length).trans
      ((hubTouch_hubsLost ..).trans (hubsLost_congr (storeSide_hubs ..)))
  unfold State.store
  split
  · dsimp only
    split
    · exact hraw
    · exact (sweepWatches_hubsLost ..).trans hraw
  · exact hraw

theorem msiFor_hubs (s : State) (irq : Word) : (s.msiFor irq).hubs = s.hubs := by unfold State.msiFor; dsimp only; split <;> rfl

theorem event_hubsLost (s : State) (code part arg : Nat) : (s.event code part arg).hubsLost = s.hubsLost := by
  unfold State.event
  extract_lets k n at0 h lap word0 t₁ evt t₂
  have h₂ : t₂.hubsLost = s.hubsLost := store_hubsLost ..
  clear_value t₂
  split
  · rfl
  · split
    · exact (hubsLost_congr (msiFor_hubs ..)).trans h₂
    · exact h₂

theorem postRecord_hubs (s : State) (kind failed : Nat) (repl : Option Nat) (parts : List Nat) : (s.postRecord kind failed repl parts).hubs = s.hubs := by
  unfold State.postRecord
  extract_lets no sub t₁ t₂ recov t₃ t₄
  have h₂ : t₂.hubs = s.hubs := by
    change t₁.hubs = s.hubs
    unfold t₁
    split <;> rfl
  have h₄ : t₄.hubs = s.hubs := (foldl_same (P := State.hubs) (f := fun s p => s.updPt p fun pt => { pt with stops := pt.stops ++ [no] }) (fun _ _ => rfl) parts t₃).trans h₂
  clear_value t₂ t₄
  split
  · exact h₂
  · split
    · exact (msiFor_hubs ..).trans h₄
    · exact h₄

/-! ### A stop (R72, R100, R410) -/

theorem standing_scrambleAll (s : State) (rs : List (Nat × Nat)) : Standing s (s.scrambleAll rs) :=
  standing_of_eq (scrambleAll_same (P := State.dies) (fun _ _ _ => rfl) s rs) (scrambleAll_same (P := State.hubs) (fun _ _ _ => rfl) s rs)
    (scrambleAll_same (P := fun s => s.obj 0x5100 2) (fun _ _ _ => rfl) s rs) (scrambleAll_same (P := State.clusters) (fun _ _ _ => rfl) s rs)

theorem standing_endWatches (s : State) (c : Nat) : Standing s (s.endWatches c) := by
  have hcalm := calm_endWatches s c
  exact ⟨hcalm.dies, endWatches_hubsLost s c, obj_congr (endWatches_dict s c) _ _, fun k => (congrArg Cluster.lasting (hcalm.cl k) :)⟩

theorem standing_returnToken (s : State) (c part : Nat) (h : HeldToken) : Standing s (s.returnToken c part h) := by
  unfold State.returnToken State.send
  dsimp only
  split
  · exact standing_refl s
  · refine (standing_updCl s c (f := fun cl => { cl with nextTag := (s.cl c).nextTag + 1 }) rfl).trans ?_
    split <;> exact standing_of_eq rfl rfl rfl rfl

/-- A table whose windows start to close keeps their generations. -/
theorem lasting_close (cl : Cluster) : ({ cl with wins := cl.wins.map fun (e : Nat × Win) => (e.1, e.2.close) } : Cluster).lasting = cl.lasting := by
  have hgen : ∀ w : Win, w.close.gen = w.gen := fun w => by unfold Win.close; split <;> rfl
  simp only [Cluster.lasting, Prod.mk.injEq, true_and]
  funext w
  rw [tab_look_map _ rfl, hgen]

theorem standing_closeWindows (s : State) (c : Nat) : Standing s (s.closeWindows c) := by
  refine ⟨?_, ?_, closeWindows_obj (by decide) s c, fun k => ?_⟩
  · exact (foldl_same (P := State.dies) (by intros; rfl) _ _).trans rfl
  · exact hubsLost_congr ((foldl_same (P := State.hubs) (by intros; rfl) _ _).trans rfl)
  · have hcl := refuseQueued_clusters (s.updCl c fun cl => { cl with wins := cl.wins.map fun e => (e.1, e.2.close) }) c fun _ => true
    have hstand := (standing_updCl s c (f := fun cl => { cl with wins := cl.wins.map fun e => (e.1, e.2.close) }) (lasting_close _)).trans
      (standing_updCl _ c (f := fun cl => { cl with tokQ := cl.tokQ.filter fun _ => !true }) rfl)
    rw [← hstand.cl k]
    exact congrArg (fun l => (Tab.look l {} k : Cluster).lasting) hcl

theorem standing_stopOn (s : State) (c : Nat) (failed : Bool) : Standing s (s.stopOn c failed) := by
  unfold State.stopOn
  split
  · exact standing_refl s
  next r _ =>
    split
    · exact standing_refl s
    · extract_lets t₁ t₂ t₃ t₄
      have h₂ : Standing s t₂ := by
        refine Standing.trans (t := t₁) (standing_updEntry ..) ?_
        unfold t₂
        split
        · exact standing_scrambleAll ..
        · exact standing_refl _
      have h₄ : Standing s t₄ := (h₂.trans (standing_foldl (fun t h => standing_returnToken t c r.part h) _ _)).trans (standing_endWatches ..)
      exact (h₄.trans (standing_updCl t₄ c rfl)).trans (standing_closeWindows ..)

theorem standing_stopEntry (s : State) (p : Nat) (e : Entry) : Standing s (s.stopEntry p e) := by
  have hclear : Standing s (s.clearEntry p e) := standing_foldl (fun t k => by
    split
    · exact (standing_stopOn ..).trans (standing_updCl _ _ rfl)
    · exact standing_refl t) _ _
  unfold State.stopEntry
  split
  · exact hclear.trans (standing_updEntry ..)
  · exact (hclear.trans (standing_updEntry ..)).trans (standing_updPt ..)

theorem standing_stopForRerun (s : State) (p : Nat) (uses : Entry → Bool) : Standing s (s.stopForRerun p uses) := standing_foldl (fun t e => standing_stopEntry t p e) _ _

theorem standing_stopParts (s : State) (uses : Nat → Entry → Bool) (freeze : Bool) : Standing s (s.stopParts uses freeze).1 := by
  unfold State.stopParts
  refine standing_foldl (fun t p => ?_) _ _
  dsimp only
  split
  · split
    · exact (standing_stopForRerun ..).trans (standing_updEntry ..)
    · exact standing_stopForRerun ..
  · exact standing_stopForRerun ..

end

end Sys2Proof.Machine
end

section
/-! SUPPORT. Resets of a die (R346 to R353, R403, R409, R413, R422, R498): the domains that reset, the dies that are lost with them, the geometry, and the statement. -/

namespace Sys2Proof.Machine

section
variable {s t : State} {c d k : Nat}

/-! ### The compute domain (R403, R422) -/

/-- A table built of the values of some numbers reads those values. -/
theorem tab_look_filterMap_range {α : Type} (f : Nat → Option α) (x : α) (n : Nat) : ∀ w < n,
    Tab.look ((List.range n).filterMap fun k => (f k).map fun v => (k, v)) x w = (f w).getD x := by
  have hfind : ∀ n w, (((List.range n).filterMap fun k => (f k).map fun v => (k, v)).find? fun e => e.1 == w) = if w < n then (f w).map fun v => (w, v) else none := by
    intro n w
    induction n with
    | zero => rfl
    | succ n ih =>
      rw [List.range_succ, List.filterMap_append, List.find?_append, ih]
      by_cases hw : w < n
      · rw [if_pos hw, if_pos (by omega)]
        cases hf : f w with
        | some v => rfl
        | none =>
          cases hn : f n with
          | none => simp [hn]
          | some v => simp [hn]; omega
      · rw [if_neg hw]
        by_cases hwn : w = n
        · subst hwn
          cases hf : f w <;> simp [hf]
        · rw [if_neg (by omega)]
          cases hn : f n with
          | none => simp [hn]
          | some v => simp [hn]; omega
  intro w hw
  rw [Tab.look, hfind, if_pos hw]
  cases f w <;> rfl

theorem keptGens_look (cl : Cluster) {w : Nat} (hw : w < 8) : Tab.look cl.keptGens {} w = { gen := (Tab.look cl.wins {} w).gen } := by
  have heq : cl.keptGens = (List.range 8).filterMap fun k =>
      (if (Tab.look cl.wins {} k).gen = 0 then none else some ({ gen := (Tab.look cl.wins {} k).gen } : Win)).map fun v => (k, v) := by
    refine List.filterMap_congr fun k _ => ?_
    split <;> rfl
  rw [heq, tab_look_filterMap_range _ _ _ w hw]
  split
  · simp [*]
  · rfl

/-- A cluster as a reset of its domain leaves it. -/
def Cluster.restarted (cl : Cluster) : Cluster := { stat := cl.stat, role := cl.role, fwOk := cl.fwOk, wins := cl.keptGens }

theorem restarted_lasting (cl : Cluster) : cl.restarted.lasting = cl.lasting := by
  simp only [Cluster.lasting, Cluster.restarted, Prod.mk.injEq, true_and]
  funext w
  rw [keptGens_look cl w.isLt]

/-- What a reset leaves of a cluster depends on nothing but what it keeps. -/
theorem restarted_congr {x y : Cluster} (h : x.lasting = y.lasting) : x.restarted = y.restarted := by
  simp only [Cluster.lasting, Prod.mk.injEq] at h
  obtain ⟨hstat, hrole, hfw, hgen⟩ := h
  have hwins : x.keptGens = y.keptGens := List.filterMap_congr fun w hw => by
    have := congrFun hgen ⟨w, List.mem_range.1 hw⟩
    simp only at this
    rw [this]
  rw [Cluster.restarted, Cluster.restarted, hstat, hrole, hfw, hwins]

/-- A cluster is cleared: its scratchpad is initialised, and of itself it keeps what lasts. -/
def State.clearCluster (s : State) (c : Nat) : State := (s.padInit c).updCl c Cluster.restarted

/-- The consignments that run on a die stop to run again. -/
def State.stoppedDie (s : State) (d : Nat) : State := (List.range 16).foldl (fun t p => t.stopForRerun p fun e => e.clusters.any fun c => c / 17 == d) s

theorem Standing.die {t : State} (h : Standing s t) (a : Nat) : t.die a = s.die a := congrArg (fun l : Tab Die => Tab.look l {} a) h.dies

theorem computeDomain_eq (s : State) (d : Nat) : s.computeDomain d = (List.range 17).foldl (fun t k => t.clearCluster (d * 17 + k)) (s.stoppedDie d) := rfl

theorem standing_clearCluster (s : State) (c : Nat) : Standing s (s.clearCluster c) :=
  (standing_of_eq rfl rfl rfl rfl : Standing s (s.padInit c)).trans (standing_updCl _ c (restarted_lasting _))

theorem standing_stoppedDie (s : State) (d : Nat) : Standing s (s.stoppedDie d) := standing_foldl (fun t p => standing_stopForRerun t p _) _ _

theorem standing_computeDomain (s : State) (d : Nat) : Standing s (s.computeDomain d) :=
  (standing_stoppedDie s d).trans (standing_foldl (fun t k => standing_clearCluster t (d * 17 + k)) _ _)

/-- Every cluster of the die has been cleared. -/
theorem computeDomain_cl (hk : k < 17) : (s.computeDomain d).cl (d * 17 + k) = ((s.computeDomain d).cl (d * 17 + k)).restarted := by
  have hidem : ∀ x : Cluster, x.restarted.restarted = x.restarted := fun x => restarted_congr (restarted_lasting x)
  rw [computeDomain_eq]
  refine foldl_establishes (P := fun t => t.cl (d * 17 + k) = (t.cl (d * 17 + k)).restarted) (List.mem_range.2 hk) (fun t => ?_) (fun t j ht => ?_) _
  · rw [State.clearCluster, updCl_cl_same, hidem]
  · by_cases hj : d * 17 + k = d * 17 + j
    · rw [State.clearCluster, hj, updCl_cl_same, hidem]
    · rwa [State.clearCluster, updCl_cl_ne _ _ _ _ hj, padInit_cl]

/-- The scratchpads of the die read zero. -/
theorem computeDomain_mem (hk : k < 17) {a : Nat} (hlo : padOf (d * 17 + k) ≤ a) (hhi : a < padOf (d * 17 + k) + padSize) : (s.computeDomain d).mem.byte a = 0 := by
  rw [computeDomain_eq]
  refine foldl_establishes (P := fun t => t.mem.byte a = 0) (List.mem_range.2 hk) (fun t => ?_) (fun t j ht => ?_) _
  · rw [State.clearCluster, updCl_mem, padInit_byte, if_pos ⟨hlo, hhi⟩]
  · rw [State.clearCluster, updCl_mem, padInit_byte, ht, ite_self]

/-! ### Dies and geometry (R331, R413, R498) -/

theorem event_dies (s : State) (code part arg : Nat) : (s.event code part arg).dies = s.dies := by
  unfold State.event
  extract_lets k n at0 h lap word0 t₁ evt t₂
  have h₂ : t₂.dies = s.dies := (calm_store s { pa := at0 + 32 * (h % n), bytes := natLe 8 word0 ++ natLe 8 arg ++ natLe 16 0 } 0).dies
  clear_value t₂
  split
  · rfl
  · split
    · exact (congrArg (·.2.2.1) (msiFor_metal ..)).trans h₂
    · exact h₂

theorem event_recov (s : State) (code part arg : Nat) : (s.event code part arg).recov = s.recov := by
  unfold State.event
  extract_lets k n at0 h lap word0 t₁ evt t₂
  have h₂ : t₂.recov = s.recov := (calm_store s { pa := at0 + 32 * (h % n), bytes := natLe 8 word0 ++ natLe 8 arg ++ natLe 16 0 } 0).recov
  clear_value t₂
  split
  · rfl
  · split
    · exact (msiFor_recov ..).trans h₂
    · exact h₂

/-- What a step of a partition's geometry and its notices leave, a change of the geometry leaves. -/
theorem geoChanged_same {β : Type} {P : State → β} (hstep : ∀ s p, P (State.geoStep s p) = P s) (hemit : ∀ s o, P (State.emit s o) = P s)
    (hobj : ∀ s i j v, P (State.setObj s i j v) = P s) (s : State) : P s.geoChanged = P s := by
  unfold State.geoChanged
  split
  · rfl
  · rw [State.redigest, hobj]
    refine foldl_same (P := P) (fun t p => ?_) _ _
    exact (foldl_same (P := P) (by intros; exact hemit ..) _ _).trans (hstep ..)

theorem geoChanged_dies (s : State) : s.geoChanged.dies = s.dies :=
  geoChanged_same (P := State.dies) (fun _ _ => (event_dies ..).trans rfl) (fun _ _ => rfl) (fun _ _ _ _ => rfl) s

theorem geoChanged_die (s : State) (a : Nat) : s.geoChanged.die a = s.die a := congrArg (fun l : Tab Die => Tab.look l {} a) (geoChanged_dies s)

theorem geoChanged_recov (s : State) : s.geoChanged.recov = s.recov :=
  geoChanged_same (P := State.recov) (fun _ _ => (event_recov ..).trans rfl) (fun _ _ => rfl) (fun _ _ _ _ => rfl) s

/-- A module's own change of the geometry advances every partition (R331). -/
theorem geoChanged_geo (hl1 : s.atL1 = true) {q : Nat} (hq : q < 16) : (s.geoChanged.pt q).geo = ((s.pt q).geo + 1) % 2 ^ 32 := by
  have hstep : ∀ (t : State) (p : Nat) (ms : List Nat), ((t.geoStep p).sendService 3 p ms 0 false 0 0).pt q = if q = p then { t.pt p with geo := ((t.pt p).geo + 1) % 2 ^ 32 } else t.pt q :=
    fun t p ms => (foldl_same (P := fun s : State => s.pt q) (by intros; rfl) _ _).trans (geoStep_pt t p q)
  have hfold : ∀ (l : List Nat), l.Nodup → ∀ t : State, ((l.foldl (fun s p => (s.geoStep p).sendService 3 p ((s.pt p).others fun _ => true) 0 false 0 0) t).pt q).geo =
      if q ∈ l then ((t.pt q).geo + 1) % 2 ^ 32 else (t.pt q).geo := by
    intro l
    induction l with
    | nil => intro _ t; rfl
    | cons p l ih =>
      intro hnodup t
      obtain ⟨hp, hl⟩ := List.nodup_cons.1 hnodup
      rw [List.foldl_cons, ih hl, hstep]
      by_cases hqp : q = p
      · subst hqp; simp [hp]
      · simp [hqp]
  unfold State.geoChanged
  rw [if_neg (by simp [hl1]), State.redigest, setObj_pt, hfold _ List.nodup_range, if_pos (List.mem_range.2 hq)]

/-- The renumbering of the dies changes positions alone, and takes none for a failed die. -/
theorem renumber_die (s : State) (a : Nat) : ∃ x, s.renumber.die a = { s.die a with treePos := x } := by
  unfold State.renumber
  refine foldl_keeps (P := fun t : State => ∃ x, t.die a = { s.die a with treePos := x }) (fun t j ⟨x, ht⟩ => ?_) _ s ⟨(s.die a).treePos, rfl⟩
  split
  · by_cases ha : a = j
    · subst ha
      rw [updDie_die_same, ht]
      exact ⟨_, rfl⟩
    · rw [updDie_die_ne _ _ _ _ ha]
      exact ⟨x, ht⟩
  · exact ⟨x, ht⟩

theorem renumber_failed {a : Nat} (hfailed : (s.die a).failed = true) (hpos : (s.die a).treePos = none) : (s.renumber.die a).treePos = none := by
  unfold State.renumber
  refine foldl_keeps (P := fun t : State => (t.die a).treePos = none) (fun t j ht => ?_) _ s hpos
  split
  · by_cases ha : a = j
    · subst ha
      rw [updDie_die_same]
      simp [hfailed]
    · rwa [updDie_die_ne _ _ _ _ ha]
  · exact ht

theorem renumber_same {β : Type} {P : State → β} (hdie : ∀ s d f, P (State.updDie s d f) = P s) (s : State) : P s.renumber = P s := by
  unfold State.renumber
  refine foldl_same (P := P) (fun t j => ?_) _ s
  split
  · exact hdie ..
  · rfl

/-! ### Dies that are lost (R349, R413) -/

/-- A die that is lost with its junction has no place in the mesh or in the tree. -/
def Die.gone (x : Die) : Prop := x.failed = true ∧ x.hole = true ∧ x.treePos = none

/-- The clusters of a lost die fail. -/
def State.clustersLost (s t : State) (d : Nat) : State :=
  (List.range 17).foldl (fun t k =>
    if (s.cl (d * 17 + k)).stat = .fusedOff then t
    else ((t.padInit (d * 17 + k)).updCl (d * 17 + k) fun _ => { stat := .failed, pll := false }).replaceMember (d * 17 + k) none) t

theorem metal_dies (h : t.metal = s.metal) : t.dies = s.dies := congrArg (fun m : Tab Cluster × Memory × Tab Die × Bring => m.2.2.1) h

theorem clustersLost_dies (s t : State) (d : Nat) : (s.clustersLost t d).dies = t.dies := by
  unfold State.clustersLost
  refine foldl_same (P := State.dies) (fun t k => ?_) _ t
  split
  · rfl
  · exact (metal_dies (replaceMember_metal ..)).trans rfl

/-- A die as it is lost, alone or with another. -/
def Die.marked (die : Nat) (junctionOk : Bool) (d : Nat) (x : Die) : Die :=
  { x with
    failed := true, treePos := none, hole := x.hole || !junctionOk || d != die, draining := !junctionOk || d != die, resetting := junctionOk && d == die }

theorem marked_gone (die d : Nat) (x : Die) : (x.marked die false d).gone := ⟨rfl, by simp [Die.marked], rfl⟩

/-- A lost die is marked in the floor plan, and a healthy junction's compute domain is reset. -/
def State.dieMarked (s : State) (die : Nat) (junctionOk : Bool) (d : Nat) : State :=
  let t := s.updDie d (Die.marked die junctionOk d)
  let t := { t with boot := { t.boot with badDies := if t.boot.badDies.contains d then t.boot.badDies else t.boot.badDies ++ [d] } }
  if junctionOk && d == die then t.emit (.reset d false) else t

/-- One die of those that are lost. -/
def State.dieGoes (s : State) (die : Nat) (junctionOk : Bool) (t : State) (d : Nat) : State := (s.clustersLost t d).dieMarked die junctionOk d

theorem dieMarked_gone (s : State) (die d : Nat) : ((s.dieMarked die false d).die d).gone :=
  (updDie_die_same s d (Die.marked die false d)).symm ▸ marked_gone die d (s.die d)

theorem dieMarked_ne (s : State) (die : Nat) {d a : Nat} (h : a ≠ d) : (s.dieMarked die false d).die a = s.die a :=
  updDie_die_ne s d (Die.marked die false d) a h

theorem dieGoes_gone (die : Nat) (s t : State) (d : Nat) : ((s.dieGoes die false t d).die d).gone := dieMarked_gone ..

theorem dieGoes_ne (die : Nat) (s t : State) {d a : Nat} (h : a ≠ d) : (s.dieGoes die false t d).die a = t.die a :=
  (dieMarked_ne _ die h).trans (congrArg (fun l : Tab Die => Tab.look l {} a) (clustersLost_dies s t d))

/-- The dies that go with one: those named, and what the mesh loses with a junction (R413). -/
def State.diesOut (s : State) (die : Nat) (junctionOk : Bool) (cutOff : List Nat) : List Nat :=
  die :: (cutOff ++ if junctionOk then [] else (s.cutOffBy die).filter fun a => !cutOff.contains a)

/-- A consignment uses one of some dies, or loses a packet with them. -/
def State.usesDies (s : State) (ds : List Nat) (also : List (Nat × Nat)) (p : Nat) (e : Entry) : Bool :=
  also.contains (p, e.seq) || e.clusters.any (fun c => ds.contains (c / 17)) || ((s.pt p).regs.holds && (s.pt p).blk.any fun b => b.clusters.any fun c => ds.contains (c / 17))

/-- What runs on dies that are lost has stopped; with it the partitions that it was of. -/
def State.diesStopped (s : State) (die : Nat) (junctionOk : Bool) (cutOff : List Nat) (also : List (Nat × Nat)) : State × List Nat :=
  s.stopParts (s.usesDies (s.diesOut die junctionOk cutOff) also) true

/-- The state once the clusters and the dies are marked, before the floor plan follows. -/
def State.diesMarked (s : State) (die : Nat) (junctionOk : Bool) (cutOff : List Nat) (also : List (Nat × Nat)) : State :=
  (s.diesOut die junctionOk cutOff).foldl (s.dieGoes die junctionOk) (s.diesStopped die junctionOk cutOff also).1

theorem dieLost_eq (s : State) (die : Nat) (junctionOk : Bool) (cutOff : List Nat) (also : List (Nat × Nat)) : s.dieLost die junctionOk cutOff also =
    ((s.diesMarked die junctionOk cutOff also).renumber.planChanged.geoChanged.noteRerun s (s.diesStopped die junctionOk cutOff also).2 true).postRecord 3 die none
      (s.diesStopped die junctionOk cutOff also).2 := rfl

/-- What follows once the dies are marked changes positions of dies alone. -/
theorem dieLost_die (s : State) (die : Nat) (cutOff : List Nat) (also : List (Nat × Nat)) (a : Nat) :
    (s.dieLost die false cutOff also).die a = (s.diesMarked die false cutOff also).renumber.die a := by
  rw [dieLost_eq, metal_die (postRecord_metal ..), metal_die (noteRerun_metal ..), geoChanged_die, metal_die (planChanged_metal _)]

theorem diesMarked_gone {a die : Nat} {cutOff : List Nat} (also : List (Nat × Nat)) (ha : a ∈ die :: cutOff) : ((s.diesMarked die false cutOff also).die a).gone := by
  have hmem : a ∈ s.diesOut die false cutOff := by
    rcases List.mem_cons.1 ha with rfl | h
    · exact List.mem_cons_self ..
    · exact List.mem_cons_of_mem _ (List.mem_append_left _ h)
  refine foldl_establishes (P := fun t : State => (t.die a).gone) hmem (fun t => dieGoes_gone die s t a) (fun t j ht => ?_) _
  by_cases hj : a = j
  · subst hj; exact dieGoes_gone die s t a
  · rwa [dieGoes_ne die s t hj]

theorem dieLost_gone {a die : Nat} {cutOff : List Nat} (also : List (Nat × Nat)) (ha : a ∈ die :: cutOff) : ((s.dieLost die false cutOff also).die a).gone := by
  obtain ⟨hfailed, hhole, hpos⟩ := diesMarked_gone (s := s) also ha
  obtain ⟨x, hx⟩ := renumber_die (s.diesMarked die false cutOff also) a
  rw [dieLost_die]
  exact ⟨(congrArg Die.failed hx).trans hfailed, (congrArg Die.hole hx).trans hhole, renumber_failed hfailed hpos⟩

/-- A hole stays one when dies are lost. -/
theorem dieLost_hole {a die : Nat} (cutOff : List Nat) (also : List (Nat × Nat)) (ha : (s.die a).hole = true) : ((s.dieLost die false cutOff also).die a).hole = true := by
  have hstop : ((s.diesStopped die false cutOff also).1.die a).hole = true := by
    exact ((standing_stopParts s _ true).die a).symm ▸ ha
  have hhole : ((s.diesMarked die false cutOff also).die a).hole = true := by
    refine foldl_keeps (P := fun t : State => (t.die a).hole = true) (fun t j ht => ?_) _ _ hstop
    by_cases hj : a = j
    · subst hj; exact (dieGoes_gone die s t a).2.1
    · rwa [dieGoes_ne die s t hj]
  obtain ⟨x, hx⟩ := renumber_die (s.diesMarked die false cutOff also) a
  rw [dieLost_die]
  exact (congrArg Die.hole hx).trans hhole

/-- The dies that the mesh is cut off from now, and that are not lost already. -/
def State.cutNow (s : State) : List Nat := (s.cutOffBy 64).filter fun a => !(s.die a).failed

theorem loseCutOff_none (h : s.cutNow = []) : s.loseCutOff = s := by
  unfold State.cutNow at h
  unfold State.loseCutOff
  rw [h]

theorem loseCutOff_some {a : Nat} {as : List Nat} (h : s.cutNow = a :: as) : s.loseCutOff = s.dieLost a false as := by
  unfold State.cutNow at h
  unfold State.loseCutOff
  rw [h]

theorem loseCutOff_gone {a : Nat} (ha : a ∈ s.cutNow) : (s.loseCutOff.die a).gone := by
  cases h : s.cutNow with
  | nil => rw [h] at ha; cases ha
  | cons b bs =>
    rw [loseCutOff_some h]
    exact dieLost_gone _ (h ▸ ha)

theorem loseCutOff_hole {a : Nat} (ha : (s.die a).hole = true) : (s.loseCutOff.die a).hole = true := by
  cases h : s.cutNow with
  | nil => rwa [loseCutOff_none h]
  | cons b bs =>
    rw [loseCutOff_some h]
    exact dieLost_hole _ _ ha

/-! ### The fabric domain (R347, R352, R403) -/

theorem beside_ne {side : Nat} (h : inMesh d side = true) : beside d side ≠ d := by
  unfold inMesh at h
  unfold beside
  split at h <;> simp only [decide_eq_true_eq] at h <;> omega

/-- The credits towards a link die that come back touch no die. -/
theorem linkCreditsBack_dies (s : State) (d : Nat) : ((List.range 4).foldl (fun s k => match linkBehind d k with
    | some (l, j) => s.updLink l fun x => { x with sent := x.sent.filter fun e => e.1 / 16 != j }
    | none => s) s).dies = s.dies := by
  refine foldl_same (P := State.dies) (fun t k => ?_) _ s
  split <;> rfl

theorem creditsBack_die_self (s : State) (d : Nat) : (s.creditsBack d).die d = s.die d := by
  have hlink := linkCreditsBack_dies s d
  have hfold : ∀ ks : List Nat, (∀ k ∈ ks, inMesh d k = true) → ∀ t : State,
      (ks.foldl (fun s k => s.updDie (beside d k) fun x => { x with sent := x.sent.filter fun e => e.1 / 16 != opposite k }) t).die d = t.die d := by
    intro ks
    induction ks with
    | nil => intro _ t; rfl
    | cons k ks ih =>
      intro hks t
      rw [List.foldl_cons, ih fun j hj => hks j (List.mem_cons_of_mem _ hj)]
      exact updDie_die_ne _ _ _ _ (beside_ne (hks k (List.mem_cons_self ..))).symm
  unfold State.creditsBack
  rw [hfold _ fun k hk => (List.mem_filter.1 hk).2]
  exact congrArg (fun l : Tab Die => Tab.look l {} d) hlink

/-- A neighbour counts no unit as under way to the junction any more. -/
theorem creditsBack_sent (hk : k < 4) (hin : inMesh d k = true) : ∀ e ∈ ((s.creditsBack d).die (beside d k)).sent, e.1 / 16 ≠ opposite k := by
  unfold State.creditsBack
  refine foldl_establishes (P := fun t : State => ∀ e ∈ (t.die (beside d k)).sent, e.1 / 16 ≠ opposite k) (x := k)
    (List.mem_filter.2 ⟨List.mem_range.2 hk, hin⟩) (fun t e he => ?_) (fun t j ht e he => ht e ?_) _
  · rw [updDie_die_same] at he
    simpa using (List.mem_filter.1 he).2
  · by_cases hj : beside d k = beside d j
    · rw [hj, updDie_die_same] at he
      rw [hj]
      exact (List.mem_filter.1 he).1
    · rwa [updDie_die_ne _ _ _ _ hj] at he

theorem creditsBack_obj (s : State) (d i j : Nat) : (s.creditsBack d).obj i j = s.obj i j := by
  unfold State.creditsBack
  refine (foldl_same (P := fun s => s.obj i j) (by intros; rfl) _ _).trans (foldl_same (P := fun s => s.obj i j) (fun t k => ?_) _ _)
  split <;> rfl

/-- A die as the reset of its fabric domain leaves it. -/
def Die.restarted (x : Die) (down : List Nat) : Die :=
  { x with draining := false, resetting := false, portsDown := down, bufs := [], sent := [], events := {}, holding := [], stalled := [] }

theorem fabricDomain_die (s : State) (d : Nat) :
    (s.fabricDomain d).die d = (s.die d).restarted ((List.range 4).filter fun h => hubBehind d h == some h && s.hubsLost h) := by
  have hstand := standing_computeDomain s d
  unfold State.fabricDomain
  rw [emit_die, creditsBack_die_self, updDie_die_same]
  rw [hstand.die]
  rfl

theorem fabricDomain_count (s : State) (d : Nat) : (s.fabricDomain d).obj 0x5100 2 = s.obj 0x5100 2 := by
  unfold State.fabricDomain
  rw [emit_obj, creditsBack_obj, updDie_obj, (standing_computeDomain s d).count]

theorem obj_lt (s : State) (i j : Nat) : s.obj i j < 2 ^ 64 := BitVec.isLt _

/-! ### A port down, and a hub whose attach ports are all down (R346, R409, R415) -/

theorem sideDown_mem (s : State) (d side : Nat) : side ∈ ((s.sideDown d side).die d).portsDown := by
  rw [State.sideDown, updDie_die_same]
  dsimp only
  split
  · exact List.contains_iff_mem.1 ‹_›
  · exact List.mem_append_right _ (List.mem_singleton_self _)

theorem sideDown_keeps {a side side' : Nat} (h : side ∈ (s.die a).portsDown) : side ∈ ((s.sideDown d side').die a).portsDown := by
  by_cases ha : a = d
  · subst ha
    rw [State.sideDown, updDie_die_same]
    dsimp only
    split
    · exact h
    · exact List.mem_append_left _ h
  · rwa [State.sideDown, updDie_die_ne _ _ _ _ ha]

theorem sideDown_hole (s : State) (d side k : Nat) : ((s.sideDown d side).die k).hole = (s.die k).hole := updDie_die_same_of Die.hole (by intros; rfl) s d k

theorem nameCu_hubs (s : State) (h : Option Nat) : (s.nameCu h).hubs = s.hubs := by
  unfold State.nameCu
  dsimp only
  exact foldl_same (P := State.hubs) (by intros; rfl) _ _

theorem moveMirrors_hubsLost (s : State) (h : Nat) : (s.moveMirrors h).hubsLost = s.hubsLost := by
  unfold State.moveMirrors
  refine foldl_same (P := State.hubsLost) (fun t p => ?_) _ s
  dsimp only
  split
  · split
    · exact (event_hubsLost ..).trans rfl
    · rfl
  · rfl

/-- A hub that is lost is lost. -/
theorem hubLost_lost (s : State) (h : Nat) : ((s.hubLost h).hub h).lost = true := by
  change (s.hubLost h).hubsLost h = true
  by_cases hlost : (s.hub h).lost = true
  · rw [State.hubLost, if_pos hlost]
    exact hlost
  · unfold State.hubLost
    rw [if_neg hlost]
    rcases s.stopParts (fun _ _ => true) false with ⟨t₀, ps⟩
    dsimp -zeta only
    extract_lets t₁ t₂ t₃ t₄ t₅
    have h₂ : t₂.hubsLost h = true := by simp [t₂, State.hubsLost]
    have h₃ : t₃.hubsLost h = true := by
      clear_value t₂
      have hmoved : ((t₂.cxlLost h).moveMirrors h).hubsLost = t₂.hubsLost := (moveMirrors_hubsLost (t₂.cxlLost h) h).trans rfl
      rw [← h₂, ← hmoved]
      exact congrFun (foldl_same (P := State.hubsLost) (f := fun t d => t.sideDown d h) (fun _ _ => rfl) _ _) h
    clear_value t₃
    have h₄ : t₄.hubsLost h = true := by
      unfold t₄
      split
      · rw [hubsLost_congr (nameCu_hubs ..), h₃]
      · exact h₃
    clear_value t₄
    have h₅ : t₅.hubsLost h = true := by
      unfold t₅
      split
      · exact h₄
      · exact h₄
    rw [hubsLost_congr (postRecord_hubs ..)]
    exact h₅

end

section
variable {s : State} {d k : Nat}

/-! ### The commands -/

/-- A cluster that is cleared is what lasts of it. -/
theorem restarted_eq {cl : Cluster} (h : cl = cl.restarted) : cl = { stat := cl.stat, role := cl.role, fwOk := cl.fwOk, wins := cl.wins } := by
  have hwins : cl.wins = cl.keptGens := congrArg Cluster.wins h
  rw [hwins]
  exact h

theorem computeDomain_kept (hk : k < 17) : (s.computeDomain d).cl (d * 17 + k) =
    { stat := (s.cl (d * 17 + k)).stat, role := (s.cl (d * 17 + k)).role, fwOk := (s.cl (d * 17 + k)).fwOk, wins := ((s.computeDomain d).cl (d * 17 + k)).wins } := by
  have hlast := (standing_computeDomain s d).cl (d * 17 + k)
  simp only [Cluster.lasting, Prod.mk.injEq] at hlast
  obtain ⟨hstat, hrole, hfw, -⟩ := hlast
  rw [← hstat, ← hrole, ← hfw]
  exact restarted_eq (computeDomain_cl hk)

theorem lasting_gen {x y : Cluster} (h : x.lasting = y.lasting) {w : Nat} (hw : w < 8) : (Tab.look x.wins {} w).gen = (Tab.look y.wins {} w).gen :=
  congrFun (congrArg (fun z : CStat × Option Nat × Bool × (Fin 8 → Nat) => z.2.2.2) h) ⟨w, hw⟩

/-- The windows of a cluster that is cleared keep their generations, and nothing else. -/
theorem computeDomain_win (hk : k < 17) {w : Nat} (hw : w < 8) : (s.computeDomain d).win (d * 17 + k) w = { gen := (s.win (d * 17 + k) w).gen } := by
  have hgen := lasting_gen ((standing_computeDomain s d).cl (d * 17 + k)) hw
  have hreset := computeDomain_cl (s := s) (d := d) hk
  generalize s.computeDomain d = u at hgen hreset ⊢
  exact ((congrArg (fun cl : Cluster => Tab.look cl.wins {} w) hreset).trans (keptGens_look _ hw)).trans (by rw [hgen, State.win])

theorem emitted_win (s : State) (d : Nat) (f : Die → Die) (o : Out) (c w : Nat) : ((s.updDie d f).emit o).win c w = s.win c w := rfl

theorem exec_computeReset : exec (.computeReset d) s =
    .next (((s.computeDomain d).updDie d fun x => { x with resetting := true }).emit (.reset d false)) := rfl

theorem fabricDomain_out (s : State) (d : Nat) : Out.reset d true ∈ (s.fabricDomain d).out := by
  rw [State.fabricDomain, emit_out]
  exact List.mem_append_right _ (List.mem_singleton_self _)

theorem fabricDomain_sent (s : State) (hk : k < 4) (hin : inMesh d k = true) : ∀ e ∈ ((s.fabricDomain d).die (beside d k)).sent, e.1 / 16 ≠ opposite k := by
  rw [State.fabricDomain, emit_die]
  exact creditsBack_sent hk hin

/-- A die as it drains with its hole bit set. -/
def Die.drains (x : Die) : Die := { x with hole := true, draining := true }

theorem exec_fabricReset : exec (.fabricReset d) s = .next (s.updDie d Die.drains).loseCutOff := rfl

/-- Both ends of a drain come to the reset of the fabric domain, with what the junction still holds counted. -/
theorem exec_drained {i : Instr} (hi : i ∈ [Instr.junctionEmpty d, .junctionDrainTimeout d]) (hdrain : (s.die d).draining = true)
    (hempty : i = .junctionEmpty d → (s.die d).bufs = []) : ∃ u : State, exec i s = .next (u.fabricDomain d) ∧ u.die d = s.die d ∧ u.hubsLost = s.hubsLost ∧
      u.obj 0x5100 2 = (s.obj 0x5100 2 + (s.die d).bufs.length) % 2 ^ 64 := by
  rcases List.mem_pair.1 hi with rfl | rfl
  · refine ⟨s, if_pos ⟨hdrain, by simp [hempty rfl]⟩, rfl, rfl, ?_⟩
    rw [hempty rfl]
    exact (Nat.mod_eq_of_lt (obj_lt ..)).symm
  · have hlost := standing_foldl (fun (t : State) (x : Nat × Nat) => standing_stopForRerun t x.1 fun e => e.seq == x.2)
      ((s.die d).bufs.filterMap fun b => s.packetRun b.p).dedup s
    exact ⟨_, if_pos hdrain, hlost.die d, hlost.hubs, (bump_obj_same ..).trans (by rw [hlost.count])⟩

/-- A returned die, before the geometry follows (R352, R498). -/
def State.dieBack (s : State) (d : Nat) : State := (s.updDie d fun x => { x with hole := false, failed := false, draining := false }).renumber.planChanged

theorem dieBack_die (s : State) (d : Nat) : ((s.dieBack d).die d).hole = false ∧ ((s.dieBack d).die d).failed = false := by
  obtain ⟨x, hx⟩ := renumber_die (s.updDie d fun x => { x with hole := false, failed := false, draining := false }) d
  rw [updDie_die_same] at hx
  rw [State.dieBack, metal_die (planChanged_metal _), hx]
  exact ⟨rfl, rfl⟩

theorem renumber_recov (s : State) : s.renumber.recov = s.recov := renumber_same (P := State.recov) (fun _ _ _ => rfl) s
theorem renumber_parts (s : State) : s.renumber.parts = s.parts := renumber_same (P := State.parts) (fun _ _ _ => rfl) s
theorem renumber_boot (s : State) : s.renumber.boot = s.boot := renumber_same (P := State.boot) (fun _ _ _ => rfl) s

theorem dieBack_recov (s : State) (d : Nat) : (s.dieBack d).recov = s.recov := by rw [State.dieBack, State.planChanged, bump_recov, renumber_recov, updDie_recov]
theorem dieBack_parts (s : State) (d : Nat) : (s.dieBack d).parts = s.parts := by rw [State.dieBack, State.planChanged, bump_parts, renumber_parts, updDie_parts]
theorem dieBack_pt (s : State) (d p : Nat) : (s.dieBack d).pt p = s.pt p := by simp only [State.pt, dieBack_parts]
theorem dieBack_atL1 (s : State) (d : Nat) : (s.dieBack d).atL1 = s.atL1 := by
  simp only [State.atL1, State.dieBack, State.planChanged, bump_boot, renumber_boot, updDie_boot]

/-- The state after a die's return: the geometry advances where the die takes a position again (R331). -/
def State.dieReturned (s : State) (d : Nat) : State := if (s.die d).treePos = ((s.dieBack d).die d).treePos then s.dieBack d else (s.dieBack d).geoChanged

theorem exec_dieReturn (h : (s.die d).hole = true ∨ (s.die d).failed = true) : exec (.dieReturn d) s = .next (s.dieReturned d) := if_pos h

theorem dieReturned_die (s : State) (d : Nat) : (s.dieReturned d).die d = (s.dieBack d).die d := by
  unfold State.dieReturned
  split
  · rfl
  · exact geoChanged_die ..

theorem dieReturned_recov (s : State) (d : Nat) : (s.dieReturned d).recov = s.recov := by
  unfold State.dieReturned
  split
  · exact dieBack_recov ..
  · exact (geoChanged_recov ..).trans (dieBack_recov ..)

theorem dieReturned_geo {p : Nat} (hp : p < 16) : ((s.dieReturned d).pt p).geo =
    if ((s.dieBack d).die d).treePos ≠ (s.die d).treePos ∧ s.atL1 = true then ((s.pt p).geo + 1) % 2 ^ 32 else (s.pt p).geo := by
  unfold State.dieReturned
  split
  · rename_i hpos
    rw [if_neg fun h => h.1 hpos.symm, dieBack_pt]
  · rename_i hpos
    cases hs : s.atL1 with
    | true => rw [if_pos ⟨fun h => hpos h.symm, rfl⟩, geoChanged_geo ((dieBack_atL1 s d).trans hs) hp, dieBack_pt]
    | false => rw [if_neg (fun h => by cases h.2), State.geoChanged, if_pos (by simp [dieBack_atL1, hs]), dieBack_pt]

/-- A port of an attach die goes down while another attach port of its hub works. -/
theorem exec_dieToDiePortDown_hub {side : Nat} (hbehind : hubBehind d side = some side) :
    exec (.dieToDiePortDown d side) s = .next (if (hubAttach side).all (fun a => ((s.sideDown d side).die a).portsDown.contains side) = true
      then (s.sideDown d side).hubLost side else s.sideDown d side) := by
  simp only [exec, execDieToDiePortDown, hbehind]

theorem exec_dieToDiePortDown_mesh {side : Nat} (hbehind : hubBehind d side = none) :
    exec (.dieToDiePortDown d side) s = .next (if inMesh d side = true then ((s.sideDown d side).sideDown (beside d side) (opposite side)).loseCutOff else s.sideDown d side) := by
  simp only [exec, execDieToDiePortDown, hbehind]

theorem hubBehind_some {side h : Nat} (hb : hubBehind d side = some h) : h = side ∧ inMesh d side = false := by
  unfold hubBehind at hb
  split at hb
  next hin => exact ⟨(Option.some.inj hb).symm, by simpa using (Bool.and_eq_true_iff.1 hin).1⟩
  · cases hb

/-- A hub with another attach port that works is not lost. -/
theorem sideDown_notAll {side a : Nat} (ha : a ∈ hubAttach side) (hne : a ≠ d) (hup : side ∉ (s.die a).portsDown) :
    ¬(hubAttach side).all (fun a => ((s.sideDown d side).die a).portsDown.contains side) = true := fun hall => by
  have := List.all_eq_true.1 hall a ha
  rw [State.sideDown, updDie_die_ne _ _ _ _ hne] at this
  exact hup (List.contains_iff_mem.1 this)

end

/-- Settles O50: the compute domain by `computeDomain_kept` and `computeDomain_mem`, the fabric domain by `fabricDomain_die`, the dies that the mesh loses by
`loseCutOff_gone`, the return of a die by `dieBack_geo`, and a port that goes down by its two `sideDown`s, or by `hubLost_lost`. -/
theorem resets : Obligations.Resets := by
  unfold Obligations.Resets
  intro s d cut
  refine ⟨⟨_, exec_computeReset, ?_⟩, ⟨_, rfl, ?_⟩, ⟨fun hcut => ⟨_, exec_fabricReset, ?_⟩, ⟨_, exec_fabricReset, ?_⟩⟩, fun hdrain hbufs => ?_, fun hdrain i hi hempty => ?_,
    fun hout => ⟨_, exec_dieReturn hout, ?_⟩, fun side hother hcut => ?_, fun side hbehind hall => ?_⟩
  · refine ⟨?_, ?_, fun k hk => ?_⟩
    · rw [emit_die, updDie_die_same]
    · rw [emit_out]
      exact List.mem_append_right _ (List.mem_singleton_self _)
    · rw [emit_cl, updDie_cl, emit_mem, updDie_mem]
      refine ⟨computeDomain_kept hk, fun w hw => ?_, fun a hlo hhi => computeDomain_mem hk hlo hhi⟩
      rw [emitted_win]
      exact computeDomain_win hk hw
  · refine ⟨congrArg Die.resetting (updDie_die_same s d fun x => { x with resetting := false }), rfl, rfl, rfl, fun k hk hretry hep hdie => ?_⟩
    simpa [hretry, hep, hdie] using (List.mem_filter.1 hk).2
  · have hnone : (s.updDie d Die.drains).loseCutOff = s.updDie d Die.drains := loseCutOff_none hcut
    rw [hnone]
    exact ⟨⟨_, rfl⟩, updDie_die_same ..⟩
  · exact ⟨loseCutOff_hole (congrArg Die.hole (updDie_die_same s d Die.drains)), fun a ha => loseCutOff_gone ha⟩
  · exact if_neg fun h => hbufs (List.isEmpty_iff.1 h.2)
  · obtain ⟨u, hexec, hdie, hhubs, hcount⟩ := exec_drained hi hdrain hempty
    have hrestarted := fabricDomain_die u d
    rw [hhubs, hdie] at hrestarted
    have hout := fabricDomain_out u d
    have hsent := fun k hk hin => fabricDomain_sent (d := d) (k := k) u hk hin
    have hcounted := (fabricDomain_count u d).trans hcount
    generalize u.fabricDomain d = t at hexec hout hrestarted hsent hcounted
    exact ⟨t, hexec, hout, hrestarted, hsent, hcounted⟩
  · obtain ⟨hhole, hfailed⟩ := dieBack_die s d
    have hsame := dieReturned_die s d
    refine ⟨(congrArg Die.hole hsame).trans hhole, (congrArg Die.failed hsame).trans hfailed, dieReturned_recov s d, fun p hp => ?_⟩
    rw [dieReturned_geo hp, hsame]
  · cases hb : hubBehind d side with
    | some h =>
      obtain ⟨rfl, hin⟩ := hubBehind_some hb
      obtain ⟨a, ha, hne, hup⟩ := hother.resolve_left (by simp [hb])
      exact ⟨s.sideDown d h, (exec_dieToDiePortDown_hub hb).trans (by rw [if_neg (sideDown_notAll ha hne hup)]), rfl, rfl, rfl, rfl, sideDown_mem .., sideDown_hole s d h,
        fun hmesh => by simp [hin] at hmesh⟩
    | none =>
      cases hin : inMesh d side with
      | false =>
        exact ⟨s.sideDown d side, (exec_dieToDiePortDown_mesh hb).trans (by rw [hin]; rfl), rfl, rfl, rfl, rfl, sideDown_mem .., sideDown_hole s d side,
          fun hmesh => by cases hmesh⟩
      | true =>
        refine ⟨(s.sideDown d side).sideDown (beside d side) (opposite side), (exec_dieToDiePortDown_mesh hb).trans ?_, rfl, rfl, rfl, rfl,
          sideDown_keeps (sideDown_mem ..), fun k => (sideDown_hole ..).trans (sideDown_hole ..), fun _ => sideDown_mem ..⟩
        rw [if_pos hin, loseCutOff_none (hcut hin)]
  · have hdown : ∀ a ∈ hubAttach side, ((s.sideDown d side).die a).portsDown.contains side = true := fun a ha => List.contains_iff_mem.2 <| by
      by_cases hne : a = d
      · subst hne; exact sideDown_mem ..
      · exact sideDown_keeps (hall a ha hne)
    exact ⟨_, (exec_dieToDiePortDown_hub hbehind).trans (by rw [if_pos (List.all_eq_true.2 hdown)]), hubLost_lost ..⟩

end Sys2Proof.Machine
end

section
/-! SUPPORT. Bring-up: the boot chain, what the security die alone changes, the fuse scan, the memory test, firmware and the service levels. -/

namespace Sys2Proof.Machine

section
variable {s t u : State}

/-! ### What the security die changes (R451, R453, R454, R465) -/

/-- Nothing changes but the security die and the dictionary. -/
def OnlySecurity (s t : State) : Prop := ∃ (sec : Sec) (dict : Dict), t = { s with sec := sec, dict := dict }

theorem onlySecurity_refl (s : State) : OnlySecurity s s := ⟨s.sec, s.dict, rfl⟩

theorem OnlySecurity.trans (h : OnlySecurity s t) (h' : OnlySecurity t u) : OnlySecurity s u := by
  obtain ⟨_, _, rfl⟩ := h
  obtain ⟨sec, dict, rfl⟩ := h'
  exact ⟨sec, dict, rfl⟩

theorem onlySecurity_foldl {α : Type} {f : State → α → State} (hf : ∀ s x, OnlySecurity s (f s x)) (l : List α) (s : State) : OnlySecurity s (l.foldl f s) :=
  foldl_keeps (P := OnlySecurity s) (fun t x h => h.trans (hf t x)) l s (onlySecurity_refl s)

/-- What neither of the two shows stays. -/
theorem OnlySecurity.same {β : Type} {P : State → β} (h : OnlySecurity s t) (hP : ∀ s sec dict, P { s with sec := sec, dict := dict } = P s) : P t = P s := by
  obtain ⟨sec, dict, rfl⟩ := h
  exact hP s sec dict

theorem OnlySecurity.boot (h : OnlySecurity s t) : t.boot = s.boot := h.same (P := State.boot) fun _ _ _ => rfl
theorem OnlySecurity.power (h : OnlySecurity s t) : t.power = s.power := h.same (P := State.power) fun _ _ _ => rfl
theorem OnlySecurity.mem (h : OnlySecurity s t) : t.mem = s.mem := h.same (P := State.mem) fun _ _ _ => rfl
theorem OnlySecurity.parts (h : OnlySecurity s t) : t.parts = s.parts := h.same (P := State.parts) fun _ _ _ => rfl
theorem OnlySecurity.cl (h : OnlySecurity s t) (c : Nat) : t.cl c = s.cl c := h.same (P := fun s => s.cl c) fun _ _ _ => rfl

theorem onlySecurity_updImg (s : State) (n : Nat) (f : ImgClass → ImgClass) : OnlySecurity s (s.updImg n f) := ⟨_, s.dict, rfl⟩

theorem onlySecurity_setObj (s : State) (i j v : Nat) : OnlySecurity s (s.setObj i j v) := ⟨s.sec, _, rfl⟩

theorem onlySecurity_bootClass (s : State) (n : Nat) : OnlySecurity s (s.bootClass n).1 := by
  unfold State.bootClass
  dsimp only
  split
  · exact onlySecurity_refl s
  · split <;> exact ⟨_, s.dict, rfl⟩

theorem onlySecurity_dropTrials (s : State) : OnlySecurity s s.dropTrials :=
  onlySecurity_foldl (fun t n => by
    split
    · exact onlySecurity_updImg ..
    · exact onlySecurity_refl t) _ _

theorem onlySecurity_proveTrials (s : State) : OnlySecurity s s.proveTrials :=
  onlySecurity_foldl (fun t n => by
    split
    · exact onlySecurity_updImg ..
    · exact onlySecurity_refl t) _ _

theorem onlySecurity_takeCandidates (s : State) (ns : List Nat) : OnlySecurity s (s.takeCandidates ns) :=
  onlySecurity_foldl (fun t n => by
    split
    · exact ⟨_, _, rfl⟩
    · exact onlySecurity_refl t) _ _

theorem onlySecurity_leafAt (s : State) (q : Nat) : OnlySecurity s (s.leafAt q) := ⟨_, s.dict, rfl⟩

theorem onlySecurity_sdStart (s : State) : OnlySecurity s s.sdStart := ⟨_, s.dict, rfl⟩

theorem onlySecurity_certify (s : State) (key : List Byte) (old : Option (List Byte × Nat)) : OnlySecurity s (s.certify key old).1 := by
  have hblock : OnlySecurity s s.openBlock := by
    unfold State.openBlock
    split
    · exact onlySecurity_refl s
    · split <;> exact ⟨_, s.dict, rfl⟩
  unfold State.certify
  dsimp only
  split
  · exact onlySecurity_refl s
  · split
    · exact hblock
    · exact hblock.trans (onlySecurity_leafAt ..)

theorem onlySecurity_issueMgmt (s : State) : OnlySecurity s s.issueMgmt := by
  have hkey : OnlySecurity s s.deriveMgmt := by
    unfold State.deriveMgmt
    split
    · exact onlySecurity_refl s
    · exact ⟨_, s.dict, rfl⟩
  exact (hkey.trans (onlySecurity_certify ..)).trans ⟨_, _, rfl⟩

theorem onlySecurity_issueAtt (s : State) : OnlySecurity s s.issueAtt := by
  have hkey : OnlySecurity s s.deriveAtt := by
    unfold State.deriveAtt
    split
    · exact onlySecurity_refl s
    · exact ⟨_, s.dict, rfl⟩
  exact (hkey.trans (onlySecurity_certify ..)).trans ⟨_, _, rfl⟩

/-! ### The start of a bring-up (R446, R451, R453, R491) -/

/-- The always-on domains as a bring-up starts them. -/
def State.alwaysOn (s : State) : State :=
  { s with power := { s.power with st := .s0, charged := true, tripped := false },
           boot := { s.boot with stage := .charged, stop := 0, report := none, hostPrimary := s.cfg 0x2111 1, reachedL2 := false },
           sec := { s.sec with boots := s.sec.boots + 1, lifecycle := max s.sec.lifecycle (min 2 (Config.lifecycleFuses (s.sec.boots + 1))) },
           plate := { s.plate with attention := 0, faulted := false } }

theorem onlySecurity_alwaysOn (s : State) : OnlySecurity s.alwaysOn (s.alwaysOn.sdStart.dropTrials.takeCandidates (List.range 6)) :=
  ((onlySecurity_sdStart _).trans (onlySecurity_dropTrials _)).trans (onlySecurity_takeCandidates _ _)

theorem bootOn_boot (s : State) : s.bootOn.boot = s.alwaysOn.boot := by
  unfold State.bootOn
  dsimp only
  exact (onlySecurity_alwaysOn s).boot

theorem bootOn_power (s : State) : s.bootOn.power = s.alwaysOn.power := by
  unfold State.bootOn
  dsimp only
  exact (onlySecurity_alwaysOn s).power

/-- The bring-up has started, and goes on exactly when the image of the SD verifies. -/
theorem bootStart_spec (s : State) : s.bootStart.boot.stage = .charged ∧ s.bootStart.power.st = .s0 ∧ s.bootStart.power.charged = true ∧
    s.bootStart.boot.stop = if (s.bootOn.bootClass 0).2 then 0 else 1 := by
  have hsec := onlySecurity_bootClass s.bootOn 0
  have hboot := hsec.boot.trans (bootOn_boot s)
  have hpower := hsec.power.trans (bootOn_power s)
  have hst : (s.bootOn.bootClass 0).1.power.st = .s0 ∧ (s.bootOn.bootClass 0).1.power.charged = true := by rw [hpower]; exact ⟨rfl, rfl⟩
  have hstage : (s.bootOn.bootClass 0).1.boot.stage = .charged ∧ (s.bootOn.bootClass 0).1.boot.stop = 0 := by rw [hboot]; exact ⟨rfl, rfl⟩
  unfold State.bootStart
  generalize s.bootOn.bootClass 0 = r at *
  dsimp only
  split
  · exact ⟨hstage.1, hst.1, hst.2, hstage.2⟩
  · exact ⟨hstage.1, hst.1, hst.2, rfl⟩

theorem chargeComplete_starts (hst : s.power.st = .s5) (hA : s.power.connA = true) (hB : s.power.connB = true) (hmv : s.power.mv ≠ 0) :
    exec .chargeComplete s = .next { s with sec := { s.sec with powerOns := s.sec.powerOns + 1 } }.bootStart := if_pos ⟨hst, hA, hB, hmv⟩

/-- The condition under which a trip holds the module in S3 (R446). -/
theorem s3Wake_held (htrip : s.power.tripped = true) (hpersists : s.tripNow ≠ 0 ∨ s.waterFlow < 12000 ∨ s.power.swOpen = true) :
    exec .s3Wake s = .next s := by
  refine if_neg ?_
  rcases hpersists with h | h | h <;> simp [htrip, h]

theorem s3Wake_starts (hst : s.power.st = .s3) (hclear : s.power.tripped = true → ¬ (s.tripNow ≠ 0 ∨ s.waterFlow < 12000 ∨ s.power.swOpen = true)) :
    exec .s3Wake s = .next { s.bootStart with power := { s.bootStart.power with tripCause := 0, tripped := false, asked := 1 } } := by
  refine if_pos ⟨hst, ?_⟩
  cases htrip : s.power.tripped with
  | false => simp
  | true =>
    have hno := hclear htrip
    simp only [not_or, ne_eq, not_not, not_lt, Bool.not_eq_true] at hno
    simp [hno.1, hno.2.1, hno.2.2]

theorem s3Wake_spec (hst : s.power.st = .s3) (hclear : s.power.tripped = true → ¬ (s.tripNow ≠ 0 ∨ s.waterFlow < 12000 ∨ s.power.swOpen = true)) :
    Runs .s3Wake s fun t => t.boot.stage = .charged ∧ t.power.st = .s0 ∧ t.power.tripCause = 0 ∧ t.power.tripped = false ∧
      t.boot.stop = if (s.bootOn.bootClass 0).2 then 0 else 1 := by
  have hexec := s3Wake_starts hst hclear
  obtain ⟨hstage, hst0, -, hstop⟩ := bootStart_spec s
  generalize s.bootStart = u at *
  exact ⟨_, hexec, hstage, hst0, rfl, rfl, hstop⟩

/-! ### Stops of a bring-up (R420, R504) -/

theorem bringStops_s3 (h : s.power.st = .enterS3) : s.bringStops = true := by simp [State.bringStops, h]

theorem bringStops_not (h : s.boot.stop = 0) (hst : s.power.st ≠ .enterS3) : s.bringStops = false := by simp [State.bringStops, h, hst]

theorem l0Reached_stopped (h : s.bringStops = true ∨ s.boot.sdFaulted = true) : exec .l0Reached s = .next s :=
  if_neg (by rcases h with h | h <;> simp [h])

theorem l1Reached_stopped (h : s.bringStops = true ∨ s.boot.sdFaulted = true) : exec .l1Reached s = .next s :=
  if_pos (by rcases h with h | h <;> simp [h])

theorem firmwareBroadcast_stopped (good : List Nat) (h : s.bringStops = true ∨ s.boot.sdFaulted = true) : exec (.firmwareBroadcast good) s = .next s :=
  if_pos (by rcases h with h | h <;> simp [h])

theorem fuseScanDone_stopped (r : FuseReport) (h : s.bringStops = true) : exec (.fuseScanDone r) s = .next s := if_pos (by simp [h])

theorem hbmStackTested_stopped (m : Nat) (ok : Bool) (h : s.bringStops = true) : exec (.hbmStackTested m ok) s = .next s := if_pos (by simp [h])

/-! ### L0 (R451, R504) -/

/-- The state at L0, before the management key is derived. -/
def State.atL0 (s : State) : State := { (s.bootClass 1).1 with boot := { (s.bootClass 1).1.boot with stage := .l0 } }

theorem exec_l0Reached (hstage : s.boot.stage = .charged) (hgo : s.bringStops = false) (hsd : s.boot.sdFaulted = false) : exec .l0Reached s =
    .next (if (s.bootClass 1).2 then { s.atL0 with sec := { s.atL0.sec with meas := s.atL0.measure } }.issueMgmt else s.atL0.bootStop 2) := by
  refine (if_pos ⟨hstage, by simp [hgo], by simp [hsd]⟩ : execL0Reached s = _).trans ?_
  cases hok : (s.bootClass 1).2 <;> simp only [hok, if_true, Bool.false_eq_true, if_false] <;> rfl

/-- L0 is reached with a management key, or bring-up stops at B2 without an image of the AOC. -/
theorem l0Reached_spec (hstage : s.boot.stage = .charged) (hgo : s.bringStops = false) (hsd : s.boot.sdFaulted = false) (hstop : s.boot.stop = 0) :
    Runs .l0Reached s fun t => t.boot.stage = .l0 ∧ t.mem = s.mem ∧ t.boot.stop = if (s.bootClass 1).2 then 0 else 2 := by
  have hsec := onlySecurity_bootClass s 1
  refine ⟨_, exec_l0Reached hstage hgo hsd, ?_⟩
  cases (s.bootClass 1).2 with
  | true =>
    have hmgmt := onlySecurity_issueMgmt { s.atL0 with sec := { s.atL0.sec with meas := s.atL0.measure } }
    refine ⟨congrArg Bring.stage hmgmt.boot, hmgmt.mem.trans hsec.mem, (congrArg Bring.stop hmgmt.boot).trans ?_⟩
    exact (congrArg Bring.stop hsec.boot).trans hstop
  | false => exact ⟨rfl, hsec.mem, rfl⟩

end

section
variable {s t u : State}

/-! ### The fuse scan (R340, R491, R494) -/

theorem namedLinks_service (t : State) (v : Word) {l : Nat} (hl : l < 8) :
    (((List.range 8).foldl (fun t l => t.updLink l fun x => { x with service := v }) t).link l).service = v := by
  refine foldl_establishes (P := fun t => (t.link l).service = v) (List.mem_range.2 hl) (fun u => ?_) (fun u k h => ?_) t
  · exact (congrArg LinkDie.service (tab_look_put_same ..) :)
  · by_cases hk : l = k
    · subst hk; exact (congrArg LinkDie.service (tab_look_put_same ..) :)
    · exact (congrArg LinkDie.service (tab_look_put_ne _ _ _ _ hk)).trans h

/-- The naming of the commit unit's hub is in every link die's service register (R340). -/
theorem nameCu_service (s : State) (h : Nat) {l : Nat} (hl : l < 8) : ((s.nameCu (some h)).link l).service = BitVec.ofNat 64 (h + 4) :=
  namedLinks_service _ _ hl

theorem nameCu_same {β : Type} {P : State → β} (hP : ∀ (s : State) dies links, P { s with dies := dies, links := links } = P s) (s : State) (h : Option Nat) :
    P (s.nameCu h) = P s :=
  (foldl_same (P := P) (fun t _ => hP t t.dies _) _ _).trans (hP s _ s.links)

/-- The commit unit's hub is the first that works. -/
theorem nextHub_first {h : Nat} (hh : h < 4) (hup : (s.hub h).lost = false) (hdown : ∀ k < h, (s.hub k).lost = true) : s.nextHub (fun _ => true) = some h := by
  unfold State.nextHub
  rw [List.find?_range_eq_some]
  exact ⟨by simp [hup], List.mem_range.2 hh, fun k hk => by simp [hdown k hk]⟩

theorem scanAll_hubs (s : State) (r : FuseReport) : (s.scanAll r).hubs = s.hubs := by
  have hdie (t : State) (d : Nat) : (t.scanDie r.variant d (r.dies.getD d { bad := 0, spareK := 31, dieBad := true })).hubs = t.hubs :=
    (foldl_same (P := State.hubs) (by intros; rfl) _ _).trans rfl
  have hports (t : State) : (t.scanPorts r.variant).hubs = t.hubs := foldl_same (P := State.hubs) (by intros; rfl) _ _
  unfold State.scanAll
  rw [setObj_hubs, hports]
  exact foldl_same (P := State.hubs) hdie _ _

/-- A floor plan as the scan leaves it: the plan and the boot's record with the commit unit's hub named and the geometry's digest. -/
def State.laidOut (u : State) (plan : Plan) (boot : Bring) : State :=
  let v : State := { u with plan := plan, boot := boot }
  (v.nameCu (v.nextHub fun _ => true)).redigest

section
variable (u : State) (plan : Plan) (boot : Bring)

theorem laidOut_plan : (u.laidOut plan boot).plan = plan := by
  unfold State.laidOut State.redigest
  dsimp only
  rw [setObj_plan, nameCu_same (P := State.plan) fun _ _ _ => rfl]

theorem laidOut_boot : (u.laidOut plan boot).boot = boot := by
  unfold State.laidOut State.redigest
  dsimp only
  rw [setObj_boot, nameCu_same (P := State.boot) fun _ _ _ => rfl]

theorem laidOut_service {h l : Nat} (hh : h < 4) (hup : (u.hub h).lost = false) (hdown : ∀ k < h, (u.hub k).lost = true) (hl : l < 8) :
    ((u.laidOut plan boot).link l).service = BitVec.ofNat 64 (h + 4) := by
  have hnext : State.nextHub { u with plan := plan, boot := boot } (fun _ => true) = some h := nextHub_first hh hup hdown
  unfold State.laidOut
  dsimp only
  rw [hnext]
  exact nameCu_service _ h hl

end

/-- A variant that is none of the module's stops bring-up at B4. -/
theorem fuseScanDone_unknown {r : FuseReport} (hstage : s.boot.stage = .l0) (hgo : s.bringStops = false) (hwater : 12000 ≤ s.waterFlow)
    (hA : r.variant ≠ variantA) (hM : r.variant ≠ variantM) (hC : r.variant ≠ variantC) : exec (.fuseScanDone r) s = .next (s.bootStop 4) :=
  (if_neg (by simp [hstage, hgo, hwater]) : execFuseScanDone r s = _).trans (if_pos ⟨hA, hM, hC⟩)

/-- What a scan of a known variant leaves, whether the memory then suffices or not. -/
theorem fuseScanDone_spec {r : FuseReport} (hstage : s.boot.stage = .l0) (hgo : s.bringStops = false) (hwater : 12000 ≤ s.waterFlow)
    (hknown : r.variant = variantA ∨ r.variant = variantM ∨ r.variant = variantC) :
    Runs (.fuseScanDone r) s fun t => t.boot.stage = .scanned ∧ t.boot.report = some r ∧ t.plan.variant = r.variant ∧
      t.plan.carve = t.hbmLen - clampN 16 256 (s.cfg 0x2060 2) * 2 ^ 30 ∧ (s.boot.record = [] → t.boot.abbreviated = false) ∧
      ∀ h < 4, (s.hub h).lost = false → (∀ k < h, (s.hub k).lost = true) → ∀ l < 8, (t.link l).service = BitVec.ofNat 64 (h + 4) := by
  have hexec : exec (.fuseScanDone r) s = execFuseScanDone r s := rfl
  have hhub (k : Nat) : (s.scanAll r).hub k = s.hub k := congrArg (fun l : Tab Hub => Tab.look l {} k) (scanAll_hubs s r)
  unfold Runs
  rw [hexec, execFuseScanDone, if_neg (by simp [hstage, hgo, hwater]), if_neg (by rintro ⟨hA, hM, hC⟩; rcases hknown with h | h | h <;> contradiction)]
  extract_lets fusedM found cap rows len carve ranges valid abbr u oldPlan oldBoot v w
  have hw : w = u.laidOut v.plan v.boot := rfl
  have hplan : w.plan = v.plan := hw ▸ laidOut_plan ..
  have hboot : w.boot = v.boot := hw ▸ laidOut_boot ..
  have hserve : ∀ h < 4, (s.hub h).lost = false → (∀ k < h, (s.hub k).lost = true) → ∀ l < 8, (w.link l).service = BitVec.ofNat 64 (h + 4) := fun h hh hup hdown l hl =>
    hw ▸ laidOut_service u v.plan v.boot hh ((congrArg Hub.lost (hhub h)).trans hup) (fun k hk => (congrArg Hub.lost (hhub k)).trans (hdown k hk)) hl
  have hcarve : w.plan.carve = w.hbmLen - clampN 16 256 (s.cfg 0x2060 2) * 2 ^ 30 := by
    rw [State.hbmLen, hplan]
  have habbr : s.boot.record = [] → w.boot.abbreviated = false := fun h => by
    rw [hboot]
    show abbr = false
    simp [abbr, valid, h]
  have hfound : w.boot.stage = .scanned ∧ w.boot.report = some r ∧ w.plan.variant = r.variant := by
    rw [hboot, hplan]
    exact ⟨rfl, rfl, rfl⟩
  obtain ⟨hstage', hreport, hvariant⟩ := hfound
  clear_value w
  split
  · exact ⟨_, rfl, hstage', hreport, hvariant, hcarve, habbr, hserve⟩
  · exact ⟨_, rfl, hstage', hreport, hvariant, hcarve, habbr, hserve⟩

/-! ### Firmware (R497) -/

/-- A cluster that is to run firmware runs it once its image is sent. -/
theorem imageSent_fwOk {good : List Nat} {c : Nat} (hc : c ∈ good) (hstat : (s.cl c).stat = .active ∨ (s.cl c).stat = .spare) :
    ((good.foldl (fun t c => if (t.cl c).stat = .active ∨ (t.cl c).stat = .spare then t.updCl c fun x => { x with fwOk := true } else t) s).cl c).fwOk = true := by
  have hkeep (t : State) (k : Nat) (ht : (t.cl c).stat = .active ∨ (t.cl c).stat = .spare) :
      ((if (t.cl k).stat = .active ∨ (t.cl k).stat = .spare then t.updCl k fun x => { x with fwOk := true } else t).cl c).stat = .active ∨
      ((if (t.cl k).stat = .active ∨ (t.cl k).stat = .spare then t.updCl k fun x => { x with fwOk := true } else t).cl c).stat = .spare := by
    split
    · by_cases hk : c = k
      · subst hk; rwa [updCl_cl_same]
      · rwa [updCl_cl_ne _ _ _ _ hk]
    · exact ht
  obtain ⟨l₁, l₂, rfl⟩ := List.append_of_mem hc
  rw [List.foldl_append, List.foldl_cons]
  have h₁ := foldl_keeps (P := fun t => (t.cl c).stat = .active ∨ (t.cl c).stat = .spare) hkeep l₁ s hstat
  refine foldl_keeps (P := fun t => (t.cl c).fwOk = true) (fun t k ht => ?_) l₂ _ ?_
  · split
    · by_cases hk : c = k
      · subst hk; rw [updCl_cl_same]
      · rwa [updCl_cl_ne _ _ _ _ hk]
    · exact ht
  · rw [if_pos h₁, updCl_cl_same]

/-- The image of class 2 verified, then that of class 3. -/
def State.fwTaken (s : State) : State := ((s.bootClass 2).1.bootClass 3).1

theorem onlySecurity_fwTaken (s : State) : OnlySecurity s s.fwTaken := (onlySecurity_bootClass s 2).trans (onlySecurity_bootClass ..)

/-- The images sent to the clusters whose digest is good. -/
def State.fwSent (s : State) (good : List Nat) : State :=
  good.foldl (fun t c => if (t.cl c).stat = .active ∨ (t.cl c).stat = .spare then t.updCl c fun x => { x with fwOk := true } else t) s

theorem fwSent_same {β : Type} {P : State → β} (hP : ∀ s c f, P (State.updCl s c f) = P s) (s : State) (good : List Nat) : P (s.fwSent good) = P s :=
  foldl_same (P := P) (fun t c => by
    split
    · exact hP ..
    · rfl) _ _

theorem exec_firmwareBroadcast (good : List Nat) (hstage : s.boot.stage = .scanned) (hgo : s.bringStops = false) (hsd : s.boot.sdFaulted = false) :
    exec (.firmwareBroadcast good) s = .next (if ((s.bootClass 2).2 && ((s.bootClass 2).1.bootClass 3).2) then
      { s.fwTaken.fwSent good with boot := { (s.fwTaken.fwSent good).boot with stage := .fw } } else s.fwTaken) := by
  refine (if_neg (by simp [hstage, hgo, hsd]) : execFirmwareBroadcast good s = _).trans ?_
  cases h2 : (s.bootClass 2).2 <;> cases h3 : ((s.bootClass 2).1.bootClass 3).2 <;>
    simp only [h2, h3, Bool.not_true, Bool.not_false, Bool.or_true, Bool.or_false, Bool.and_true, Bool.and_false, if_true, Bool.false_eq_true, if_false] <;> rfl

theorem firmwareBroadcast_spec (good : List Nat) (hstage : s.boot.stage = .scanned) (hgo : s.bringStops = false) (hsd : s.boot.sdFaulted = false) :
    let fw := (s.bootClass 2).2 && ((s.bootClass 2).1.bootClass 3).2
    Runs (.firmwareBroadcast good) s fun t => t.mem = s.mem ∧ t.boot.stage = (if fw then .fw else .scanned) ∧
      (fw = true → ∀ c ∈ good, ((s.cl c).stat = .active ∨ (s.cl c).stat = .spare) → (t.cl c).fwOk = true) := by
  intro fw
  have hsec := onlySecurity_fwTaken s
  refine ⟨_, exec_firmwareBroadcast good hstage hgo hsd, ?_⟩
  cases hfw : ((s.bootClass 2).2 && ((s.bootClass 2).1.bootClass 3).2) with
  | true =>
    refine ⟨(fwSent_same (P := State.mem) (fun _ _ _ => rfl) _ good).trans hsec.mem, (if_pos hfw).symm, fun _ c hc hstat => ?_⟩
    exact (imageSent_fwOk hc (by rwa [hsec.cl]) :)
  | false =>
    refine ⟨hsec.mem, ?_, fun h => absurd (h.symm.trans hfw) (by simp)⟩
    exact ((congrArg Bring.stage hsec.boot).trans hstage).trans (if_neg (by simp [fw, hfw])).symm

theorem markDeadDies_same {β : Type} {P : State → β} (hP : ∀ (s : State) d f, P (State.updDie s d f) = P s) (hboot : ∀ (s : State) l, P { s with boot := { s.boot with badDies := l } } = P s)
    (s : State) : P s.markDeadDies = P s := by
  refine foldl_same (P := P) (fun t d => ?_) _ s
  dsimp only
  split
  · rfl
  · exact (hboot _ _).trans (hP ..)

theorem mem_setMember_self (xs : List Nat) (k : Nat) : k ∈ setMember xs k true := by
  unfold setMember
  rw [if_pos rfl]
  split
  · exact List.contains_iff_mem.1 ‹_›
  · exact List.mem_append_right _ (List.mem_singleton_self k)

/-- A cluster that does not report fails, and its mark stays for the next bring-up. -/
theorem clusterDigestTimeout_spec {c : Nat} (hstage : s.boot.stage = .fw) (hfw : (s.cl c).fwOk = false) (hstat : (s.cl c).stat = .active ∨ (s.cl c).stat = .spare) :
    Runs (.clusterDigestTimeout c) s fun t => (t.cl c).stat = .failed ∧ c ∈ t.boot.badClusters ∧ t.mem = s.mem ∧ ∀ d ≠ c, t.cl d = s.cl d := by
  refine ⟨_, if_pos ⟨hstage, by simp [hfw], hstat⟩, ?_, ?_, markDeadDies_same (P := State.mem) (fun _ _ _ => rfl) (fun _ _ => rfl) _, fun d hd => ?_⟩
  · rw [markDeadDies_same (P := fun s => s.cl c) (fun _ _ _ => rfl) (fun _ _ => rfl)]
    exact (congrArg Cluster.stat (updCl_cl_same s c fun _ => { stat := .failed, pll := false }) :)
  · rw [markDeadDies_same (P := fun s => s.boot.badClusters) (fun _ _ _ => rfl) (fun _ _ => rfl)]
    exact mem_setMember_self ..
  · rw [markDeadDies_same (P := fun s => s.cl d) (fun _ _ _ => rfl) (fun _ _ => rfl)]
    exact (updCl_cl_ne s c (fun _ => { stat := .failed, pll := false }) d hd :)

end

section
variable {s t u : State}

/-! ### What a stop leaves of the floor plan (R72, R410) -/

theorem returnToken_plan (s : State) (c part : Nat) (h : HeldToken) : (s.returnToken c part h).plan = s.plan := by
  unfold State.returnToken State.send
  dsimp only
  split
  · rfl
  · split <;> rfl

theorem closeWindows_plan (s : State) (c : Nat) : (s.closeWindows c).plan = s.plan := (foldl_same (P := State.plan) (by intros; rfl) _ _).trans rfl

theorem stopOn_plan (s : State) (c : Nat) (failed : Bool) : (s.stopOn c failed).plan = s.plan := by
  unfold State.stopOn
  split
  · rfl
  next r _ =>
    split
    · rfl
    · extract_lets t₁ t₂ t₃ t₄
      have h₂ : t₂.plan = s.plan := by
        unfold t₂
        split
        · exact scrambleAll_same (P := State.plan) (fun _ _ _ => rfl) ..
        · rfl
      have h₄ : t₄.plan = s.plan := ((calm_endWatches t₃ c).plan.trans (foldl_same (P := State.plan) (fun t h => returnToken_plan t c r.part h) _ _)).trans h₂
      exact (closeWindows_plan ..).trans h₄

theorem stopEntry_plan (s : State) (p : Nat) (e : Entry) : (s.stopEntry p e).plan = s.plan := by
  have hclear : (s.clearEntry p e).plan = s.plan := foldl_same (P := State.plan) (fun t k => by
    split
    · exact stopOn_plan ..
    · rfl) _ _
  unfold State.stopEntry
  split
  · exact hclear
  · exact hclear

theorem stopParts_plan (s : State) (uses : Nat → Entry → Bool) : (s.stopParts uses false).1.plan = s.plan := by
  unfold State.stopParts
  refine foldl_same (P := State.plan) (fun t p => ?_) _ _
  simp only [Bool.and_false, Bool.false_eq_true, if_false]
  exact foldl_same (P := State.plan) (fun t e => stopEntry_plan t p e) _ _

theorem noteRerun_plan (t s : State) (ps : List Nat) : (t.noteRerun s ps).plan = t.plan := by
  unfold State.noteRerun
  refine foldl_same (P := State.plan) (fun t p => ?_) _ _
  split
  · exact foldl_same (P := State.plan) (by intros; rfl) _ _
  · rfl

theorem msiFor_plan (s : State) (irq : Word) : (s.msiFor irq).plan = s.plan := by unfold State.msiFor; dsimp only; split <;> rfl

theorem postRecord_plan (s : State) (kind failed : Nat) (repl : Option Nat) (ps : List Nat) : (s.postRecord kind failed repl ps).plan = s.plan := by
  unfold State.postRecord
  extract_lets no sub t₁ t₂ recov t₃ t₄
  have h₂ : t₂.plan = s.plan := by
    have h₁ : t₁.plan = s.plan := by unfold t₁; split <;> rfl
    exact h₁
  have h₄ : t₄.plan = s.plan := (foldl_same (P := State.plan) (by intros; rfl) ps t₃).trans h₂
  clear_value t₂ t₄
  split
  · exact h₂
  · split
    · exact (msiFor_plan ..).trans h₄
    · exact h₄

/-! ### A stack that fails (R416, R496, R504) -/

/-- What runs is stopped for the loss of a stack, and the stack with its mark is lost. -/
def State.stackGone (s : State) (m : Nat) : State :=
  let t := (s.stopParts (fun _ _ => true) false).1.noteRerun s (s.stopParts (fun _ _ => true) false).2
  { t with plan := { t.plan with lostStacks := t.plan.lostStacks ++ [m] },
           boot := { t.boot with memFault := true, badStacks := if t.boot.badStacks.contains m then t.boot.badStacks else t.boot.badStacks ++ [m] } }

theorem stackGone_spec (s : State) (m : Nat) : (s.stackGone m).plan.lostStacks = s.plan.lostStacks ++ [m] ∧ (s.stackGone m).boot.memFault = true ∧
    m ∈ (s.stackGone m).boot.badStacks ∧ (s.stackGone m).boot.stage = s.boot.stage := by
  have hplan := (noteRerun_plan (s.stopParts (fun _ _ => true) false).1 s (s.stopParts (fun _ _ => true) false).2).trans (stopParts_plan s fun _ _ => true)
  have hstage := (planKept_trans (planKept_stopParts s fun _ _ => true) (planKept_noteRerun _ s (s.stopParts (fun _ _ => true) false).2 false)).stage
  exact ⟨congrArg (fun p : Plan => p.lostStacks ++ [m]) hplan, rfl, mem_setMember_self _ m, hstage⟩

/-- The loss of a stack spends redundancy or does not, and posts a record. -/
theorem stackLost_eq (s : State) (m : Nat) : ∃ u, (u = s.stackGone m ∨ u = (s.stackGone m).exhaust) ∧
    s.stackLost m = u.planChanged.postRecord 5 m none (s.stopParts (fun _ _ => true) false).2 := by
  unfold State.stackLost
  dsimp only
  split
  · exact ⟨_, .inr rfl, rfl⟩
  · exact ⟨_, .inl rfl, rfl⟩

theorem atL1_stage : s.atL1 = true ↔ s.boot.stage = .l1 ∨ s.boot.stage = .l2 := by simp [State.atL1]

/-- A stack lost from L1 on is out of the plan, marked, and recorded. -/
theorem stackLost_spec (m : Nat) (hl1 : s.atL1 = true) : (s.stackLost m).plan.lostStacks = s.plan.lostStacks ++ [m] ∧ (s.stackLost m).boot.memFault = true ∧
    m ∈ (s.stackLost m).boot.badStacks ∧ ∃ q ∈ (s.stackLost m).recov.recs, q.kind = 5 ∧ q.failed = m := by
  obtain ⟨hplan, hfault, hmark, hstage⟩ := stackGone_spec s m
  obtain ⟨u, hu, heq⟩ := stackLost_eq s m
  have hsame : u.planChanged.plan = (s.stackGone m).plan ∧ u.planChanged.boot = (s.stackGone m).boot := by
    rcases hu with rfl | rfl <;> exact ⟨rfl, rfl⟩
  have hboot := (metal_boot (postRecord_metal (s := u.planChanged) 5 m none (s.stopParts (fun _ _ => true) false).2)).trans hsame.2
  have hrecs := (postRecord_posts (s := u.planChanged) 5 m none (s.stopParts (fun _ _ => true) false).2
    (by rw [hsame.2, hstage]; exact atL1_stage.1 hl1)).1
  rw [heq, postRecord_plan, hsame.1, hboot, hrecs]
  exact ⟨hplan, hfault, hmark, _, List.mem_append_right _ (List.mem_singleton_self _), rfl, rfl⟩

/-! ### The memory test (R494 to R496) -/

/-- A stack that fails before L1: it is lost and marked. -/
def State.stackFails (s : State) (m : Nat) : State :=
  { s with plan := { s.plan with lostStacks := s.plan.lostStacks ++ [m] }, boot := { s.boot with memFault := true, badStacks := setMember s.boot.badStacks m true } }

section
variable {m k base size : Nat}

/-- A stack that is tested has a row, and a failure of it is a loss from L1 on, a stop of bring-up in the first pass, and else a change of the plan. -/
theorem exec_hbmStackTested_bad (hreport : s.boot.report ≠ none) (hgo : s.bringStops = false) (hin : s.plan.lostStacks.contains m = false)
    (hrow : rowWith s.plan.rows m = some (k, base, size)) : exec (.hbmStackTested m false) s = .next (if s.atL1 then s.stackLost m else
      if (k + 1 == s.plan.rows.length && !s.boot.tested.contains m) = true then (s.stackFails m).bootStop 3 else (s.stackFails m).planChanged) := by
  have hkept : m ∉ s.plan.lostStacks := by simpa using hin
  refine (if_neg (by simp [hreport, hgo, hkept]) : execHbmStackTested m false s = _).trans ?_
  rw [hrow]
  dsimp only
  rw [if_pos (show (!false) = true from rfl)]
  split
  · rfl
  · split <;> rfl

theorem hbmStackTested_bad (hreport : s.boot.report ≠ none) (hgo : s.bringStops = false) (hin : s.plan.lostStacks.contains m = false)
    (hrow : rowWith s.plan.rows m = some (k, base, size)) : Runs (.hbmStackTested m false) s fun t => t.plan.lostStacks = s.plan.lostStacks ++ [m] ∧
      t.boot.memFault = true ∧ m ∈ t.boot.badStacks ∧ (s.atL1 = true → ∃ q ∈ t.recov.recs, q.kind = 5 ∧ q.failed = m) := by
  refine ⟨_, exec_hbmStackTested_bad hreport hgo hin hrow, ?_⟩
  by_cases hl1 : s.atL1 = true
  · obtain ⟨hplan, hfault, hmark, hrec⟩ := stackLost_spec m hl1
    rw [if_pos hl1]
    exact ⟨hplan, hfault, hmark, fun _ => hrec⟩
  · rw [if_neg hl1]
    split
    · exact ⟨rfl, rfl, mem_setMember_self .., fun h => absurd h hl1⟩
    · exact ⟨rfl, rfl, mem_setMember_self .., fun h => absurd h hl1⟩

/-- A look into a table from which some keys have been taken. -/
theorem tab_look_filter_key {α : Type} (t : Tab α) (d : α) (out : Nat → Bool) (k : Nat) :
    Tab.look (t.filter fun e => !out e.1) d k = if out k = true then d else Tab.look t d k := by
  have hfind : (t.filter fun e => !out e.1).find? (fun e => e.1 == k) = if out k = true then none else t.find? fun e => e.1 == k := by
    rw [List.find?_filter]
    split
    next hout =>
      rw [List.find?_eq_none]
      rintro e - he
      simp only [Bool.not_eq_true', beq_iff_eq, decide_eq_true_eq] at he
      rw [he.2, hout] at he
      exact absurd he.1 (by simp)
    next hout =>
      congr 1
      funext e
      by_cases he : e.1 = k
      · simpa [he] using hout
      · simp [he]
  rw [Tab.look, hfind]
  by_cases hout : out k = true
  · rw [if_pos hout, if_pos hout]
  · rw [if_neg hout, if_neg hout]
    rfl

theorem zeroStack_byte (s : State) (m lo hi a : Nat) : (s.zeroStack m lo hi).mem.byte a = if lo ≤ a ∧ a < hi ∧ s.stackOf a = some m then 0 else s.mem.byte a := by
  refine (tab_look_filter_key s.mem 0 (fun a => decide (lo ≤ a) && decide (a < hi) && s.stackOf a == some m) a : _).trans ?_
  simp only [Bool.and_eq_true, decide_eq_true_eq, beq_iff_eq, and_assoc]
  rfl

/-- A stack below the top row passes its one test: its part of the row is zeroed and nothing else, and it is marked tested. -/
theorem hbmStackTested_good (hreport : s.boot.report ≠ none) (hgo : s.bringStops = false) (hin : s.plan.lostStacks.contains m = false)
    (hrow : rowWith s.plan.rows m = some (k, base, size)) (hlow : k + 1 ≠ s.plan.rows.length) : Runs (.hbmStackTested m true) s fun t => (100 + m) ∈ t.boot.tested ∧
      (∀ a, base ≤ a → a < base + size → s.stackOf a = some m → t.mem.byte a = 0) ∧ ∀ a, s.stackOf a ≠ some m → t.mem.byte a = s.mem.byte a := by
  have hexec : exec (.hbmStackTested m true) s = execHbmStackTested m true s := rfl
  have htop : (k + 1 == s.plan.rows.length) = false := by simpa using hlow
  have hkept : m ∉ s.plan.lostStacks := by simpa using hin
  unfold Runs
  rw [hexec, execHbmStackTested, if_neg (by simp [hreport, hgo, hkept]), hrow]
  dsimp only
  rw [if_neg (by simp), htop, if_neg (by simp), if_neg (by simp)]
  refine ⟨_, rfl, mem_setMember_self .., fun a hlo hhi hstack => ?_, fun a hstack => ?_⟩
  · exact (zeroStack_byte s m base (base + size) a).trans (if_pos ⟨hlo, hhi, hstack⟩)
  · exact (zeroStack_byte s m base (base + size) a).trans (if_neg fun h => hstack h.2.2)

end

/-! ### L2 (R438, R492, R495) -/

/-- The service level L2 with its generation drawn; after a full test without fault a new record of the stacks. -/
def State.atL2 (s : State) : State :=
  let s := (s.setObj 0x8000 3 s.freeW.toNat).drawn
  let sound := !s.boot.abbreviated && s.plan.lostStacks.isEmpty
  { s with boot := { s.boot with stage := .l2, parityReady := true, reachedL2 := true, memFault := s.boot.memFault && !sound,
                                 record := if sound then (List.range 20).map (fun m => Tab.look s.plan.stackCap 0 m / 2 ^ 30) else s.boot.record } }

theorem exec_l2Reached (hstage : s.boot.stage = .l1) (hrows : s.plan.rowsOk = 2 ^ s.plan.rows.length - 1) :
    exec .l2Reached s = .next (if s.power.st = .s0 then s.atL2.nextReq else s.atL2) := if_pos ⟨hstage, hrows⟩

theorem l2Reached_spec (hstage : s.boot.stage = .l1) (hrows : s.plan.rowsOk = 2 ^ s.plan.rows.length - 1) :
    Runs .l2Reached s fun t => t.boot.stage = .l2 ∧ t.boot.parityReady = true ∧ t.mem = s.mem ∧
      (s.boot.abbreviated = false → s.plan.lostStacks = [] → t.boot.memFault = false ∧ t.boot.record = (List.range 20).map fun m => Tab.look s.plan.stackCap 0 m / 2 ^ 30) ∧
      (s.power.req = 2 → s.power.st = .s0 → t.power.st = .enterS2) ∧ ((s.power.req = 0 ∨ s.power.st ≠ .s0) → t.power.st = s.power.st) := by
  have hsound : s.boot.abbreviated = false → s.plan.lostStacks = [] → s.atL2.boot.memFault = false ∧
      s.atL2.boot.record = (List.range 20).map fun m => Tab.look s.plan.stackCap 0 m / 2 ^ 30 := fun habbr hlost => by
    have hyes : (!s.boot.abbreviated && s.plan.lostStacks.isEmpty) = true := by simp [habbr, hlost]
    exact ⟨(congrArg (fun b => s.boot.memFault && !b) hyes).trans (by simp), if_pos hyes⟩
  refine ⟨_, exec_l2Reached hstage hrows, ?_⟩
  by_cases hst : s.power.st = .s0
  · rw [if_pos hst]
    obtain ⟨p, hp⟩ := onlyPower_nextReq (s := s.atL2)
    have hs2 : s.power.req = 2 → s.atL2.nextReq.power.st = .enterS2 := fun hreq => by
      have hgrant := requestS2_l2 (s := { s.atL2 with power := { s.atL2.power with req := 0 } }) hst rfl
      rw [nextReq_s2 (s := s.atL2) hreq, hgrant]
      rfl
    have hidle : (s.power.req = 0 ∨ s.power.st ≠ .s0) → s.atL2.nextReq.power.st = s.power.st := fun h =>
      nextReq_none (s := s.atL2) (h.resolve_right fun hno => hno hst)
    have hboot : s.atL2.nextReq.boot = s.atL2.boot ∧ s.atL2.nextReq.mem = s.atL2.mem := by rw [hp]; exact ⟨rfl, rfl⟩
    rw [hboot.1, hboot.2]
    exact ⟨rfl, rfl, rfl, hsound, fun hreq _ => hs2 hreq, hidle⟩
  · rw [if_neg hst]
    exact ⟨rfl, rfl, rfl, hsound, fun _ h => absurd h hst, fun _ => rfl⟩

end

section
variable {s t u : State}

/-! ### L1 (R375, R391, R492, R498, R502, R504) -/

/-- What a step of dies and clusters leaves, the waking of reserves and the assignment of roles leave. -/
theorem wakeReserves_same {β : Type} {P : State → β} (hdie : ∀ s d f, P (State.updDie s d f) = P s) (hcl : ∀ s c f, P (State.updCl s c f) = P s) (s : State) :
    P s.wakeReserves = P s := by
  have hwake (t : State) (d : Nat) : P (t.wakeReserve d) = P t := (foldl_same (P := P) (fun t k => by
    dsimp only
    split
    · exact hcl ..
    · rfl) _ _).trans (hdie ..)
  unfold State.wakeReserves
  split
  · rfl
  · refine foldl_same (P := P) (fun t d => ?_) _ _
    dsimp only
    split
    · exact hwake ..
    · rfl

theorem assignRoles_same {β : Type} {P : State → β} (hdie : ∀ s d f, P (State.updDie s d f) = P s) (hcl : ∀ s c f, P (State.updCl s c f) = P s) (s : State) :
    P s.assignRoles = P s := by
  have hassign (t : State) (d pos : Nat) : P (t.dieRoleAssign d pos) = P t := by
    unfold State.dieRoleAssign
    refine (foldl_same (P := P) (by intros; exact hcl ..) _ _).trans ?_
    split
    · exact (hcl ..).trans (hdie ..)
    · rfl
  unfold State.assignRoles
  refine (foldl_same (P := P) (fun t d => ?_) _ _).trans (renumber_same hdie s)
  split
  · exact hassign ..
  · rfl

/-- What L1 says of the boot's record. -/
def Bring.level (b : Bring) : Boot × Bool × List Nat := (b.stage, b.hostReady, b.heldEnables)

theorem event_level (s : State) (code part arg : Nat) : (s.event code part arg).boot.level = s.boot.level := by
  unfold State.event
  extract_lets k n at0 h lap word0 t₁ evt t₂
  have h₂ : t₂.boot.level = s.boot.level :=
    (congrArg Bring.level (calm_store s { pa := at0 + 32 * (h % n), bytes := natLe 8 word0 ++ natLe 8 arg ++ natLe 16 0 } 0).boot :)
  clear_value t₂
  split
  · rfl
  · split
    · rw [metal_boot (msiFor_metal ..)]
      exact h₂
    · exact h₂

theorem updPt_pt_keeps {β : Type} {P : Part → β} {f : Part → Part} (hf : ∀ x, P (f x) = P x) (s : State) (p q : Nat) : P ((s.updPt p f).pt q) = P (s.pt q) := by
  by_cases hq : q = p
  · subst hq; rw [updPt_pt_same, hf]
  · rw [updPt_pt_ne _ _ _ _ hq]

/-- The partitions with what the partner kept of them (R391). -/
def State.ledgerBack (s : State) : State :=
  s.boot.atPartner.foldl (fun t x => t.updPt x.1 fun pt => { pt with
    nextSeq := x.2.1, w := x.2.2.1, entries := x.2.2.2.map Entry.restored, regs := { pt.regs with halted := pt.regs.halted || !x.2.2.2.isEmpty } }) s

theorem ledgerBack_boot (s : State) : s.ledgerBack.boot = s.boot := foldl_same (P := State.boot) (by intros; rfl) _ _

theorem ledgerBack_geo (s : State) (p : Nat) : (s.ledgerBack.pt p).geo = (s.pt p).geo := by
  refine foldl_same (P := fun s => (s.pt p).geo) (fun t x => ?_) _ _
  exact updPt_pt_keeps (P := Part.geo) (by intros; rfl) t x.1 p

/-- The ledger that comes back leaves every partition's geometry, and what L1 says. -/
theorem restoreLedger_spec (s : State) : s.restoreLedger.boot.level = s.boot.level ∧ ∀ p, (s.restoreLedger.pt p).geo = (s.pt p).geo := by
  unfold State.restoreLedger
  split
  · exact ⟨rfl, fun _ => rfl⟩
  · split
    · exact ⟨rfl, fun _ => rfl⟩
    · refine ⟨(event_level ..).trans ?_, fun p => ?_⟩
      · exact (congrArg Bring.level (ledgerBack_boot s) : s.ledgerBack.boot.level = s.boot.level)
      · rw [State.pt, event_parts]
        exact ledgerBack_geo s p

/-- The partitions' geometry starts anew (R498). -/
def State.geoZeroed (s : State) : State :=
  (List.range 16).foldl (fun t p => (t.updPt p fun x => { x with geo := 0, lastGeo := 0 }).setObj 0x7801 (p + 1) 0) s

theorem geoZeroed_geo (s : State) {p : Nat} (hp : p < 16) : (s.geoZeroed.pt p).geo = 0 := by
  refine foldl_establishes (P := fun t => (t.pt p).geo = 0) (List.mem_range.2 hp) (fun t => ?_) (fun t k h => ?_) s
  · rw [setObj_pt, updPt_pt_same]
  · by_cases hk : p = k
    · subst hk; rw [setObj_pt, updPt_pt_same]
    · rwa [setObj_pt, updPt_pt_ne _ _ _ _ hk]

theorem geoZeroed_boot (s : State) : s.geoZeroed.boot = s.boot := foldl_same (P := State.boot) (by intros; rfl) _ _

/-- The enables that bring-up held (R375). -/
def State.enabled (s : State) (ps : List Nat) : State := ps.foldl (fun t p => t.updPt p fun x => { x with regs := { x.regs with enable := true } }) s

theorem enabled_enable (s : State) {ps : List Nat} {p : Nat} (hp : p ∈ ps) : ((s.enabled ps).pt p).regs.enable = true := by
  refine foldl_establishes (P := fun t => (t.pt p).regs.enable = true) hp (fun t => ?_) (fun t k h => ?_) s
  · rw [updPt_pt_same]
  · by_cases hk : p = k
    · subst hk; rw [updPt_pt_same]
    · rwa [updPt_pt_ne _ _ _ _ hk]

theorem enabled_geo (s : State) (ps : List Nat) (p : Nat) : ((s.enabled ps).pt p).geo = (s.pt p).geo := by
  refine foldl_same (P := fun s => (s.pt p).geo) (fun t k => ?_) _ _
  exact updPt_pt_keeps (P := Part.geo) (by intros; rfl) t k p

theorem enabled_boot (s : State) (ps : List Nat) : (s.enabled ps).boot = s.boot := foldl_same (P := State.boot) (by intros; rfl) _ _

/-- The host's images taken and verified. -/
def State.hostTaken (s : State) : State := (((s.takeCandidates [4, 5]).bootClass 4).1.bootClass 5).1

theorem onlySecurity_hostTaken (s : State) : OnlySecurity s s.hostTaken :=
  ((onlySecurity_takeCandidates s [4, 5]).trans (onlySecurity_bootClass ..)).trans (onlySecurity_bootClass ..)

/-- L1 with the host ready, roles assigned and the geometry anew. -/
def State.l1Placed (u : State) : State :=
  let t := { u with boot := { u.boot with stage := .l1, hostReady := true, cxlDone := true },
                    plan := { u.plan with cxlCap := (List.range 4).foldl (fun tb x => Tab.put tb 0 x (min (2 ^ 42) (Config.cxlInstalled x))) [] },
                    sec := { u.sec with meas := u.measure } }
  ((t.wakeReserves.assignRoles).redigest).geoZeroed

theorem l1Placed_level (u : State) : u.l1Placed.boot.level = (.l1, true, u.boot.heldEnables) := by
  unfold State.l1Placed State.redigest
  dsimp only
  rw [geoZeroed_boot, setObj_boot, assignRoles_same (P := State.boot) (fun _ _ _ => rfl) (fun _ _ _ => rfl),
    wakeReserves_same (P := State.boot) (fun _ _ _ => rfl) (fun _ _ _ => rfl)]
  rfl

theorem l1Placed_geo (u : State) {p : Nat} (hp : p < 16) : (u.l1Placed.pt p).geo = 0 := by
  unfold State.l1Placed
  exact geoZeroed_geo _ hp

/-- L1 with its generation drawn. -/
def State.l1Drawn (t : State) : State := ((t.setObj 0x5000 9 t.boot.hostPrimary).setObj 0x8000 2 t.freeW.toNat).drawn

theorem l1Drawn_boot (t : State) : t.l1Drawn.boot = t.boot := rfl
theorem l1Drawn_parts (t : State) : t.l1Drawn.parts = t.parts := rfl

/-- The attestation key issued and the sealed ledger back (R391, R451). -/
def State.l1Ledger (t : State) : State := t.l1Drawn.proveTrials.issueAtt.restoreLedger

theorem l1Ledger_spec (t : State) : t.l1Ledger.boot.level = t.boot.level ∧ ∀ p, (t.l1Ledger.pt p).geo = (t.pt p).geo := by
  have hsec : OnlySecurity t.l1Drawn t.l1Drawn.proveTrials.issueAtt := (onlySecurity_proveTrials _).trans (onlySecurity_issueAtt _)
  have hback := restoreLedger_spec t.l1Drawn.proveTrials.issueAtt
  have hparts := hsec.parts.trans (l1Drawn_parts t)
  exact ⟨by rw [State.l1Ledger, hback.1, hsec.boot, l1Drawn_boot], fun p => by rw [State.l1Ledger, hback.2, State.pt, hparts, State.pt]⟩

/-- The spares that are all back again clear the exhaustion (R423). -/
def State.l1Restored (t : State) : State := if t.l1Ledger.sparesBack then t.l1Ledger.setObj 0x5000 6 0 else t.l1Ledger

theorem l1Restored_spec (t : State) : t.l1Restored.boot.level = t.boot.level ∧ ∀ p, (t.l1Restored.pt p).geo = (t.pt p).geo := by
  unfold State.l1Restored
  split
  · exact ⟨by rw [setObj_boot, (l1Ledger_spec t).1], fun p => by rw [setObj_pt, (l1Ledger_spec t).2]⟩
  · exact l1Ledger_spec t

theorem OnlyHolds.geo (h : OnlyHolds s t) (p : Nat) : (t.pt p).geo = (s.pt p).geo := (congrArg Part.geo (h.2 p) :)

/-- L1 with the held enables in effect. -/
def State.l1Enabled (u : State) : State := u.l1Placed.l1Restored.enabled u.l1Placed.l1Restored.boot.heldEnables

theorem l1Enabled_level (u : State) : u.l1Enabled.boot.level = (.l1, true, u.boot.heldEnables) := by
  rw [State.l1Enabled, enabled_boot, (l1Restored_spec _).1, l1Placed_level]

theorem l1Enabled_geo (u : State) {p : Nat} (hp : p < 16) : (u.l1Enabled.pt p).geo = 0 := by
  rw [State.l1Enabled, enabled_geo, (l1Restored_spec _).2, l1Placed_geo u hp]

theorem l1Enabled_enable (u : State) {p : Nat} (hp : p ∈ u.boot.heldEnables) : (u.l1Enabled.pt p).regs.enable = true := by
  have hlevel := (l1Restored_spec u.l1Placed).1.trans (l1Placed_level u)
  simp only [Bring.level, Prod.mk.injEq] at hlevel
  obtain ⟨-, -, hheld⟩ := hlevel
  rw [State.l1Enabled, hheld]
  exact enabled_enable _ hp

/-- The partitions' sets are held, and the held enables are done with (R375, R376). -/
def State.holdsFormed (t : State) : State := { t.formHolds with boot := { t.boot with heldEnables := [] } }

theorem withBoot_pt (t : State) (b : Bring) (p : Nat) : State.pt { t with boot := b } p = t.pt p := rfl

theorem holdsFormed_level (t : State) : t.holdsFormed.boot.level = (t.boot.stage, t.boot.hostReady, []) := rfl
theorem holdsFormed_geo (t : State) (p : Nat) : (t.holdsFormed.pt p).geo = (t.pt p).geo := by
  rw [State.holdsFormed, withBoot_pt, (formHolds_onlyHolds t).geo]

theorem holdsFormed_enable (t : State) (p : Nat) : (t.holdsFormed.pt p).regs.enable = (t.pt p).regs.enable := by
  rw [State.holdsFormed, withBoot_pt, (formHolds_onlyHolds t).enable]

theorem exec_l1Reached (hstage : s.boot.stage = .fw) (hgo : s.bringStops = false) (hsd : s.boot.sdFaulted = false) (htop : s.boot.topFirst = true)
    (hfw : ∀ e ∈ s.clusters, e.2.stat = .active ∨ e.2.stat = .spare → e.2.fwOk = true) : exec .l1Reached s =
      .next (if ((s.takeCandidates [4, 5]).bootClass 4).2 && ((((s.takeCandidates [4, 5]).bootClass 4).1).bootClass 5).2 then s.hostTaken.l1Enabled.holdsFormed else s.hostTaken) := by
  have hall : (s.clusters.all fun (e : Nat × Cluster) => (e.2.stat != .active && e.2.stat != .spare) || e.2.fwOk) = true := by
    refine List.all_eq_true.2 fun e he => ?_
    have hok := hfw e he
    cases hstat : e.2.stat <;> simp_all
  have hexec : exec .l1Reached s = execL1Reached s := rfl
  rw [hexec, execL1Reached]
  rw [if_neg (by simp [hstage, hgo, hsd, htop, hall])]
  split
  next t ok4 h4 =>
  split
  next u ok5 h5 =>
  have htaken : s.hostTaken = u := by rw [State.hostTaken, h4, h5]
  rw [h4, h5, htaken]
  split
  next hno =>
    have hfails : (ok4 && ok5) = false := by cases ok4 <;> cases ok5 <;> simp_all
    rw [hfails, if_neg (by simp)]
  next hyes =>
    have hruns : (ok4 && ok5) = true := by cases ok4 <;> cases ok5 <;> simp_all
    rw [hruns, if_pos rfl]
    extract_lets plan boot sec t₁ t₂ t₃ t₄ t₅ t₆ t₇ b₇
    have h₃ : t₃ = u.l1Placed := rfl
    clear_value t₃
    have h₄ : t₄ = t₃.l1Ledger := rfl
    clear_value t₄
    have h₅ : t₅ = t₃.l1Restored := by rw [State.l1Restored, ← h₄]
    clear_value t₅
    have h₆ : t₆ = u.l1Enabled := by rw [State.l1Enabled, ← h₃, ← h₅]; rfl
    rw [← h₆]
    rfl

/-- L1 is reached when the images of the host verify. -/
theorem l1Reached_spec (hstage : s.boot.stage = .fw) (hgo : s.bringStops = false) (hsd : s.boot.sdFaulted = false) (htop : s.boot.topFirst = true)
    (hfw : ∀ e ∈ s.clusters, e.2.stat = .active ∨ e.2.stat = .spare → e.2.fwOk = true) :
    let h := s.takeCandidates [4, 5]
    let host := (h.bootClass 4).2 && ((h.bootClass 4).1.bootClass 5).2
    Runs .l1Reached s fun t => t.boot.stage = (if host then .l1 else .fw) ∧ (host = true → t.boot.hostReady = true ∧ t.boot.heldEnables = [] ∧
      (∀ p < 16, (t.pt p).geo = 0) ∧ ∀ p ∈ s.boot.heldEnables, (t.pt p).regs.enable = true) := by
  intro h host
  have hsec := onlySecurity_hostTaken s
  refine ⟨_, exec_l1Reached hstage hgo hsd htop hfw, ?_⟩
  have heq : (((s.takeCandidates [4, 5]).bootClass 4).2 && ((((s.takeCandidates [4, 5]).bootClass 4).1).bootClass 5).2) = host := rfl
  rw [heq]
  clear_value host
  cases host with
  | true =>
    have hlevel := (holdsFormed_level s.hostTaken.l1Enabled)
    have hup := l1Enabled_level s.hostTaken
    simp only [Bring.level, Prod.mk.injEq] at hlevel hup
    obtain ⟨hst, hready, hheld⟩ := hlevel
    simp only [if_true]
    refine ⟨hst.trans hup.1, fun _ => ⟨hready.trans hup.2.1, hheld, fun p hp => ?_, fun p hp => ?_⟩⟩
    · rw [holdsFormed_geo, l1Enabled_geo _ hp]
    · rw [holdsFormed_enable, l1Enabled_enable _ (by rwa [hsec.boot])]
  | false =>
    simp only [Bool.false_eq_true, if_false]
    exact ⟨(congrArg Bring.stage hsec.boot).trans hstage, fun hno => hno.elim⟩

end

theorem exec_clearFailureMarks {s : State} : exec .clearFailureMarks s = .next { s with boot := { s.boot with badClusters := [], badDies := [], badStacks := [] } } := rfl

/-- Settles O54: the boot chain changes the security die and the dictionary alone, so every stage's mark and stop follow from the images that verify; each stage is one lemma on its
command, under the premise that nothing has stopped the bring-up. -/
theorem bringUp : Obligations.BringUp := by
  unfold Obligations.BringUp
  intro s fw h host on persists
  refine ⟨fun hst hA hB hmv => ?_, fun _ htrip hpersists => s3Wake_held htrip hpersists, fun hst hclear => s3Wake_spec hst hclear, fun hsd => ?_, fun hst => ?_, fun hstop hst => ?_⟩
  · exact ⟨_, chargeComplete_starts hst hA hB hmv, bootStart_spec _⟩
  · exact ⟨l0Reached_stopped (.inr hsd), l1Reached_stopped (.inr hsd), fun good => firmwareBroadcast_stopped good (.inr hsd)⟩
  · have hstops := bringStops_s3 hst
    exact ⟨l0Reached_stopped (.inl hstops), l1Reached_stopped (.inl hstops), fun r => fuseScanDone_stopped r hstops,
      fun good => firmwareBroadcast_stopped good (.inl hstops), fun m ok => hbmStackTested_stopped m ok hstops⟩
  · have hgo := bringStops_not hstop hst
    refine ⟨fun hstage hsd => l0Reached_spec hstage hgo hsd hstop, fun r hstage hwater hknown => fuseScanDone_spec hstage hgo hwater hknown,
      fun r hstage hwater hA hM hC => ⟨_, fuseScanDone_unknown hstage hgo hwater hA hM hC, rfl, hstage⟩,
      fun hstage hsd good => firmwareBroadcast_spec good hstage hgo hsd, fun c hstage hfw hstat => clusterDigestTimeout_spec hstage hfw hstat,
      fun hstage hsd htop hfw => l1Reached_spec hstage hgo hsd htop hfw, fun hstage hrows => l2Reached_spec hstage hrows,
      ⟨_, exec_clearFailureMarks, rfl⟩, fun m k base size hreport hin hrow => ⟨hbmStackTested_bad hreport hgo hin hrow, fun hlow => hbmStackTested_good hreport hgo hin hrow hlow⟩⟩

end Sys2Proof.Machine
end

section
/-! SUPPORT. Reduction: where a RED_DOWN writes the result for the module's own root. -/

namespace Sys2Proof.Machine

section
variable {s : State}

/-- The module's own RED_UP of a block, as the link die looks for it among the kept packets. -/
def ownUp (part coll block : Nat) (k : Kept) : Bool :=
  k.p.ptype == 0x0B && k.p.part.toNat == part && k.p.tag.toNat == coll && k.p.addr.toNat == block && k.p.srcMod == 0xFF

/-- The partials of link dies that a RED_DOWN ends. -/
def endedUp (p : Packet) (k : Kept) : Bool :=
  k.p.ptype == 0x0B && k.p.srcEp.toNat / 8192 == 2 && k.p.part == p.part && k.p.tag == p.tag && k.p.addr == p.addr

theorem send_out (s : State) (p : Packet) : (s.send p).out = s.out ++ [.packet (pktFinish (s.stamp p))] := by
  unfold State.send
  dsimp only
  split <;> rfl

theorem stamp_dstEp (s : State) (p : Packet) : (s.stamp p).dstEp = p.dstEp := by
  unfold State.stamp
  split
  · rfl
  · split <;> rfl

/-- The result for the own root is one WRITE, to the cluster that sent the RED_UP. -/
theorem redLand_out {part coll block : Nat} {k : Kept} (payload : List Byte) (hk : s.kept.find? (ownUp part coll block) = some k) :
    ∃ w : Packet, (s.redLand part coll block payload).out = s.out ++ [.packet w] ∧ w.dstEp = k.p.srcEp := by
  unfold ownUp at hk
  rw [State.redLand, hk]
  exact ⟨_, send_out .., stamp_dstEp ..⟩

/-- The state in which a RED_DOWN without children looks for the module's own RED_UP: the partials of link dies and the block's store are done with. -/
def State.downEnded (s : State) (l : Nat) (p : Packet) : State :=
  (List.range 8).foldl (fun t k => t.updLink k fun x => { x with red := x.red.filter fun e => !(e.coll == collKey p && e.block == p.addr.toNat) })
    { s.linkLeaves l p with kept := (s.linkLeaves l p).kept.filter fun k => !endedUp p k }

theorem downEnded_kept (s : State) (l : Nat) (p : Packet) : (s.downEnded l p).kept = s.kept.filter fun k => !endedUp p k := by
  refine (foldl_same (P := State.kept) (by intros; rfl) _ _).trans ?_
  obtain ⟨_, _, _, _, h⟩ := linkLeaves_onlyFabric s l p
  rw [h]

theorem downEnded_out (s : State) (l : Nat) (p : Packet) : (s.downEnded l p).out = s.out := by
  refine (foldl_same (P := State.out) (by intros; rfl) _ _).trans ?_
  exact (linkLeaves_onlyFabric s l p).out_eq.trans (List.append_nil _)

theorem exec_redDown_leaf {l : Nat} {p : Packet} (hlost : (s.link l).lost = false) (hpcrc : p.pcrc = pktCheck p) (hleaf : s.children p.part.toNat = []) :
    exec (.redDown l p) s = .next (((s.downEnded l p).redLand p.part.toNat p.tag.toNat p.addr.toNat p.payload).returnCredits l) := by
  have hexec : exec (.redDown l p) s = execRedDown l p s := rfl
  rw [hexec, execRedDown]
  dsimp only
  rw [if_neg (by simp [hlost, hpcrc]), hleaf]
  rfl

/-- In a module without children a RED_DOWN sends one WRITE, to the cluster that sent the module's own RED_UP, and else flits. -/
theorem redDown_leaf_out {l : Nat} {p : Packet} {k : Kept} {t : State} (hlost : (s.link l).lost = false) (hpcrc : p.pcrc = pktCheck p)
    (hleaf : s.children p.part.toNat = []) (hk : (s.kept.filter fun k => !endedUp p k).find? (ownUp p.part.toNat p.tag.toNat p.addr.toNat) = some k)
    (ht : exec (.redDown l p) s = .next t) : ∃ (w : Packet) (os : List Out), t.out = s.out ++ .packet w :: os ∧ w.dstEp = k.p.srcEp ∧ AllFlits os := by
  rw [exec_redDown_leaf hlost hpcrc hleaf] at ht
  cases ht
  obtain ⟨w, hw, hdst⟩ := redLand_out (s := s.downEnded l p) p.payload (by rwa [downEnded_kept])
  obtain ⟨os, hos, hflits⟩ := (returnCredits_onlyFlits ((s.downEnded l p).redLand p.part.toNat p.tag.toNat p.addr.toNat p.payload) l).out_eq
  exact ⟨w, os, by rw [hos, hw, downEnded_out, List.append_assoc]; rfl, hdst, hflits⟩

end

/-! ### The counterexample: a leaf of the reduction tree (R366) -/

/-- The map of module 1, whose parent is the root, module 0, and which has no children. -/
def leafMap : FMap where
  self := 1
  entries := [{ modId := 10, ports := 1, cgroup := 0, rgroup := 0, rparent := 0xFF, rorder := 0 },
              { modId := 11, ports := 0, cgroup := 0, rgroup := 0, rparent := 0, rorder := 0 }]

/-- The RED_UP of cluster 5 for collective 7 at link die 0. -/
def leafUp : Packet := pktFinish (packetOf 0x0B 4 0x4000 5 0xFF 0 7 0 0 [])

/-- The RED_DOWN that brings module 1 the result of collective 7. -/
def leafDown : Packet := pktFinish (packetOf 0x0C 5 0x4000 0x4000 1 0 7 0 0 [])

/-- Module 1 with the RED_UP of its cluster 5 kept. -/
def leafState : State := { State.reset with parts := [(0, { fm := some leafMap })], kept := [{ p := leafUp }] }

/-- The RED_DOWN is whole, and the RED_UP of cluster 5 is the one it is for. -/
theorem leafState_holds : (leafState.link 0).lost = false ∧ leafDown.pcrc = pktCheck leafDown ∧ leafDown.part.toNat = 0 ∧
    (leafState.kept.filter fun k => !endedUp leafDown k).find? (ownUp leafDown.part.toNat leafDown.tag.toNat leafDown.addr.toNat) = some { p := leafUp } := by decide +kernel

theorem leafState_children : leafState.children 0 = [] := by
  have hfm : (leafState.pt 0).fm = some leafMap := rfl
  unfold State.children
  rw [hfm]
  refine List.flatMap_eq_nil_iff.2 fun o _ => ?_
  have hall : (((List.range leafMap.entries.length).filterMap fun k => (leafMap.entries[k]?).map fun e => (k, e)).filter
      fun x => x.1 != leafMap.self && x.2.rparent == leafMap.self) = [] := by decide
  rw [hall]
  rfl

/-- The RED_DOWN at module 1 sends no packet to the link die that the RED_UP named, but one to cluster 5. -/
theorem leafState_redDown {t : State} (ht : exec (.redDown 0 leafDown) leafState = .next t) : ¬ ∃ o : Packet, Out.packet o ∈ t.out ∧ o.dstEp = 0x4000 := by
  rintro ⟨o, ho, hdst⟩
  obtain ⟨hlost, hpcrc, hpart, hown⟩ := leafState_holds
  obtain ⟨w, os, hout, hw, hflits⟩ := redDown_leaf_out hlost hpcrc (hpart ▸ leafState_children) hown ht
  rw [hout] at ho
  rcases List.mem_cons.1 ho with h | h
  · cases h
    exact absurd (hdst.symm.trans hw) (by decide)
  · obtain ⟨q, f, hf⟩ := hflits _ h
    cases hf

/-- Refutes O34: the last clause lets the WRITE of a result go to the endpoint that the kept RED_UP was sent to, its link die; the model sends it to the cluster that sent the RED_UP.
In `leafState` cluster 5 of a leaf has sent its RED_UP to link die 0, and the RED_DOWN writes to cluster 5 alone. -/
theorem not_reduction : ¬ Obligations.Reduction := by
  unfold Obligations.Reduction
  intro h
  obtain ⟨hlost, hpcrc, -, -⟩ := leafState_holds
  obtain ⟨t, ht, -, -, -, -, -, hland⟩ := (h leafState 0 leafDown hlost hpcrc).2
  obtain ⟨⟨o, ho, -, hdst, -⟩, -⟩ := hland { p := leafUp } (by decide +kernel)
  exact leafState_redDown ht ⟨o, ho, hdst⟩

end Sys2Proof.Machine
end

section
/-! SUPPORT. Appends, fences and the halt of a partition (R377, R388, R389): what APPEND answers, what a FENCE and an error leave of the partition, and the two
statements about them. -/

namespace Sys2Proof.Machine

section
variable {s : State} {p : Nat}

/-! ### APPEND (R377) -/

/-- A reason for BUSY that holds, by its code. -/
def State.busyHolds (s : State) (p r : Nat) : Prop :=
  (r = 1 ∧ 65536 ≤ (s.pt p).entries.length) ∨ (r = 2 ∧ (s.pt p).regs.enable = false) ∨ (r = 3 ∧ (s.pt p).rebuilding = true) ∨
    (r = 4 ∧ s.boot.sealed = true) ∨ (r = 5 ∧ 2 ^ 48 ≤ (s.pt p).nextSeq)

/-- The reason that APPEND answers is one that holds. -/
theorem busyHolds_of_busyReason {r : Nat} (h : s.busyReason p = some r) : s.busyHolds p r := by
  unfold State.busyReason at h
  unfold State.busyHolds
  split at h
  · next hdisabled => exact .inr (.inl ⟨(Option.some.inj h).symm, by simpa using hdisabled⟩)
  split at h
  · next hsealed => exact .inr (.inr (.inr (.inl ⟨(Option.some.inj h).symm, hsealed⟩)))
  split at h
  · next hrebuilding => exact .inr (.inr (.inl ⟨(Option.some.inj h).symm, hrebuilding⟩))
  split at h
  · next hnumbers => exact .inr (.inr (.inr (.inr ⟨(Option.some.inj h).symm, hnumbers⟩)))
  split at h
  · next hfull => exact .inl ⟨(Option.some.inj h).symm, hfull⟩
  · cases h

theorem busyReason_eq_none (h : ∀ r, ¬ s.busyHolds p r) : s.busyReason p = none := by
  cases hr : s.busyReason p with
  | none => rfl
  | some r => exact absurd (busyHolds_of_busyReason hr) (h r)

/-- Where one holds, one is answered. -/
theorem busyReason_isSome {r : Nat} (h : s.busyHolds p r) : ∃ r', s.busyReason p = some r' := by
  refine Option.ne_none_iff_exists'.1 fun hnone => ?_
  simp only [State.busyReason, ite_eq_iff, reduceCtorEq, and_false, false_or, and_true] at hnone
  obtain ⟨hdisabled, hsealed, hrebuilding, hnumbers, hfull⟩ := hnone
  rcases h with ⟨-, h⟩ | ⟨-, h⟩ | ⟨-, h⟩ | ⟨-, h⟩ | ⟨-, h⟩
  · exact hfull h
  · exact hdisabled (by simp [h])
  · exact hrebuilding h
  · exact hsealed h
  · exact hnumbers h

theorem exec_append_busy {r : Nat} (h : s.busyReason p = some r) : exec (.append p) s =
    .next ((s.updPt p fun pt => { pt with regs := { pt.regs with append := BitVec.ofNat 64 (0x10 * 2 ^ 48 + r * 2 ^ 56) } }).bump 0x5803 (p + 1) 1) := by
  change execAppend p s = _
  simp only [execAppend, h]

/-- A partition whose slot has become its next entry. -/
def Part.appended (pt : Part) : Part := { pt with
  nextSeq := pt.nextSeq + 1
  entries := pt.entries ++ [{ seq := pt.nextSeq, desc := pt.regs.slot }]
  regs := { pt.regs with append := BitVec.ofNat 64 pt.nextSeq, lastSeq := pt.nextSeq, lastTag := cdTag pt.regs.slot } }

theorem exec_append_takes (h : s.busyReason p = none) : exec (.append p) s = .next (s.updPt p Part.appended) := by
  change execAppend p s = _
  simp only [execAppend, h]
  rfl

end

/-- Settles O41: a reason is answered exactly where one holds (`busyHolds_of_busyReason`, `busyReason_isSome`). -/
theorem appends : Obligations.Appends := by
  unfold Obligations.Appends
  intro s p holds
  refine ⟨rfl, fun hnone => ?_, fun ⟨r, hr⟩ => ?_⟩
  · refine ⟨_, exec_append_takes (busyReason_eq_none hnone), ⟨_, rfl⟩, ?_⟩
    rw [updPt_pt_same]
    exact ⟨rfl, rfl, rfl, rfl⟩
  · obtain ⟨r', hr'⟩ := busyReason_isSome (s := s) (p := p) hr
    refine ⟨_, exec_append_busy hr', ?_⟩
    simp only [bump_pt, updPt_pt_same, bump_obj_same, updPt_obj, true_and]
    exact ⟨⟨r', busyHolds_of_busyReason hr', rfl⟩, rfl, rfl, rfl⟩

/-! ### FENCE (R389) -/

section
variable {s : State} {p : Nat} {e : Entry}

/-- The partition halts as the FENCE completes: the FENCE asks for it and an entry since the FENCE before it has completed with an error. -/
def State.fenceHalts (s : State) (p : Nat) (e : Entry) : Bool := cdHalt e.desc && decide ((s.pt p).fenceAt < (s.pt p).fenceErr)

/-- The state once a FENCE is over, before its event. -/
def State.fenceDone (s : State) (p : Nat) (e : Entry) : State :=
  (((s.enterRun p e false (s.pt p).e).updPt p fun pt => { pt with regs := { pt.regs with halted := pt.regs.halted || s.fenceHalts p e } }).fenceOver p e.seq).updEntry p e.seq
    fun x => { x with st := .finished, status := stDone, done := true }

/-- What an entry's start leaves of a partition beside its entries. -/
theorem enterRun_pt_same {β : Type} {P : Part → β} (hP : ∀ pt l, P { pt with entries := l } = P pt) (spec : Bool) (view : Nat) :
    P ((s.enterRun p e spec view).pt p) = P (s.pt p) := by
  rw [enterRun_pt]
  exact updEntry_pt_same hP ..

theorem exec_fence (hx : s.entry p e.seq = some e) (hty : cdType e.desc = 6) (hok : descOk e.desc = true) (hstart : s.mayStart p e = true) :
    exec (.fence p e.seq) s = .next (if s.fenceHalts p e then (s.fenceDone p e).event 1 p e.seq else s.fenceDone p e) := by
  change execFence p e.seq s = _
  simp only [execFence, hx, hty, hstart, hok, and_self, if_true, Bool.not_true, Bool.false_eq_true, if_false]
  rfl

theorem fenceDone_spec (hx : s.entry p e.seq = some e) : ((s.fenceDone p e).pt p).fenceErr = (s.pt p).fenceErr ∧
    ((s.fenceDone p e).pt p).fenceAt = max (s.pt p).fenceAt e.seq ∧ ((s.fenceDone p e).pt p).regs.halted = ((s.pt p).regs.halted || s.fenceHalts p e) ∧
      ∃ e', (s.fenceDone p e).entry p e.seq = some e' ∧ e'.st = .finished ∧ e'.status = stDone ∧ e'.done = true := by
  have hentry := (updPt_entry (p := p) (f := fun pt => { pt with regs := { pt.regs with halted := pt.regs.halted || s.fenceHalts p e } }) (fun _ => rfl) p e.seq).trans
    (enterRun_entry false (s.pt p).e hx)
  have hover := (updPt_entry (p := p) (f := fun pt => { pt with fenceAt := max pt.fenceAt e.seq }) (fun _ => rfl) p e.seq).trans hentry
  unfold State.fenceDone
  refine ⟨?_, ?_, ?_, _, entry_updEntry_some (fun _ => rfl) hover, rfl, rfl, rfl⟩
  · rw [updEntry_pt_same (P := Part.fenceErr) fun _ _ => rfl, State.fenceOver, updPt_pt_same, updPt_pt_same]
    exact enterRun_pt_same (P := Part.fenceErr) (fun _ _ => rfl) ..
  · rw [updEntry_pt_same (P := Part.fenceAt) fun _ _ => rfl, State.fenceOver, updPt_pt_same, updPt_pt_same]
    exact congrArg (max · e.seq) (enterRun_pt_same (P := Part.fenceAt) (fun _ _ => rfl) ..)
  · rw [updEntry_pt_same (P := fun pt => pt.regs.halted) fun _ _ => rfl, State.fenceOver, updPt_pt_same, updPt_pt_same]
    exact congrArg (· || s.fenceHalts p e) (enterRun_pt_same (P := fun pt => pt.regs.halted) (fun _ _ => rfl) ..)

/-! ### The number of an error, and the halt (R389) -/

/-- The least of the reports is above what each of them is above. -/
theorem statusOf_above {b : Byte} (hne : e.fails ≠ []) (h : ∀ f ∈ e.fails, b < f.status) : b < s.statusOf p e := by
  have least : ∀ (l : List Byte) (a : Byte), b < a → (∀ x ∈ l, b < x) → b < l.foldl (fun m x => if x < m then x else m) a := by
    intro l
    induction l with
    | nil => intro a ha _; exact ha
    | cons x xs ih =>
      intro a ha hl
      refine ih _ ?_ fun y hy => hl y (List.mem_cons_of_mem _ hy)
      dsimp only
      split
      · exact hl x List.mem_cons_self
      · exact ha
  unfold State.statusOf
  cases hf : e.fails with
  | nil => exact absurd hf hne
  | cons f fs =>
    rw [hf] at h
    refine least _ _ (h f List.mem_cons_self) fun x hx => ?_
    obtain ⟨g, hg, rfl⟩ := List.mem_map.1 hx
    exact h g (List.mem_cons_of_mem _ hg)

/-- An entry that is over with an error leaves its number. -/
theorem recorded_fenceErr (hspec : e.spec = false) (herr : stDoneWarn < s.statusOf p e) : ((s.recorded p e).pt p).fenceErr = max (s.pt p).fenceErr e.seq := by
  have hfails : (s.statusOf p e != stDone && s.statusOf p e != stDoneWarn) = true := by
    have hdone : stDone < s.statusOf p e := BitVec.lt_trans (by decide) herr
    simp [(BitVec.ne_of_lt hdone).symm, (BitVec.ne_of_lt herr).symm]
  unfold State.recorded
  simp only [hfails, hspec, if_true, Bool.not_false, Bool.and_self, updPt_pt_same]
  have hnumber : (((((s.scrambleAll e.begun).updEntry p e.seq fun x => { x with st := if x.spec then .held else .finished, status := s.statusOf p e, begun := [] }).errorAt
      p e.seq)).pt p).fenceErr = max (s.pt p).fenceErr e.seq := by
    rw [State.errorAt, updPt_pt_same]
    refine congrArg (max · e.seq) ?_
    rw [updEntry_pt_same (P := Part.fenceErr) fun _ _ => rfl, State.pt, scrambleAll_parts]
    rfl
  split
  · rw [State.fenceOver, updPt_pt_same]
    exact hnumber
  · exact hnumber

/-- A halted partition starts nothing. -/
theorem halted_starts_nothing (h : (s.pt p).regs.halted = true) (x : Entry) : s.mayStart p x = false ∧ s.mayBegin p x = false := by
  have hbegin : s.mayBegin p x = false := by simp [State.mayBegin, h]
  exact ⟨by simp [State.mayStart, hbegin], hbegin⟩

end

/-- Settles O42: a FENCE leaves `State.fenceDone`, an error its number by `recorded_fenceErr`, and an abort of the one open entry `State.acceptedEnded`. -/
theorem fence : Obligations.Fence := by
  unfold Obligations.Fence
  intro s p seq e hx hseq
  subst hseq
  refine ⟨fun hty hok hstart => ?_, fun hover hspec hne hfails => ?_, fun hhalted => ⟨halted_starts_nothing hhalted, ⟨_, rfl, rfl⟩, fun hnone => ?_, fun a hent hst hle hw => ?_⟩⟩
  · obtain ⟨herr, hat, hhalts, hentry⟩ := fenceDone_spec hx
    exact ⟨_, exec_fence hx hty hok hstart, s.fenceDone p e, herr, hat, hhalts, hentry, enterRun_mem .., enterRun_clusters .., enterRun_out .., rfl⟩
  · have herr : stDoneWarn < s.statusOf p e := statusOf_above hne fun f hf => (hfails f hf).2
    refine ⟨_, ?_, s.recorded p e, rfl, recorded_fenceErr hspec herr⟩
    change execConsignmentComplete p e.seq s = _
    simp only [execConsignmentComplete, hx, hover, if_true, storeRecord_eq fun f hf => (hfails f hf).1]
  · refine ⟨_, exec_append_takes hnone, ?_⟩
    change ((s.updPt p Part.appended).pt p).entries.length = _
    rw [updPt_pt_same, Part.appended, List.length_append, List.length_singleton]
  · obtain ⟨-, -, -, hentries⟩ := acceptedEnded_spec hent a.toNat
    refine ⟨_, exec_hostAbort hent hst hle hw, { e with st := .finished, status := stAborted, fails := [noWb stAborted] }, ?_, rfl, rfl⟩
    rw [State.entry, hentries]
    exact List.find?_cons_of_pos (beq_self_eq_true e.seq)

end Sys2Proof.Machine
end

section
/-! SUPPORT. COPY (R381): what its job answers when the destination is one piece of the executing cluster's own scratchpad, and the statement about it. -/

namespace Sys2Proof.Machine

section
variable {s : State} {p : Nat} {e : Entry}

/-- What an answered copy leaves: its job settled as a move, the last 128 rows undefined where it was staged, the entry done with CRC and count. -/
def State.copied (t : State) (p : Nat) (e : Entry) (bs : List Byte) (staged : Bool) (a : Acc) : State :=
  let u := (t.settle a true).drawn
  let u := if staged then u.scramble (padOf (cdExec e.desc) + 3968 * 2048) (128 * 2048) else u
  u.updEntry p e.seq fun x => { x with done := true, res0 := (crc32c bs).setWidth 64, res1 := BitVec.ofNat 64 bs.length }

/-- A COPY that starts and whose ranges read and write. -/
theorem exec_copy {bs : List Byte} {staged : Bool} {a : Acc} (hx : s.entry p e.seq = some e) (hty : cdType e.desc = 1) (hok : descOk e.desc = true)
    (hstart : s.mayStart p e = true) (hset : (s.setOf p).contains (cdExec e.desc) = true) (hsize : cdSize e.desc ≠ 0) (hfree : s.freeFor p e (cdExec e.desc) = true)
    (hin : (s.chan (cdExec e.desc) 7).disable = false) (hout : (s.chan (cdExec e.desc) 15).disable = false)
    (hjob : Job.exec (copyJob (s.enterRun p e false (s.pt p).e) p e.desc) = (.ok (bs, staged), a)) (hretained : a.retained (s.enterRun p e false (s.pt p).e) = false) :
    exec (.copy p e.seq) s = .next ((s.enterRun p e false (s.pt p).e).copied p e bs staged a) := by
  have hwaits : (waits (.ok (bs, staged) : Except Byte (List Byte × Bool)) || a.retained (s.enterRun p e false (s.pt p).e)) = false := by rw [hretained]; rfl
  change execCopy p e.seq s = _
  unfold execCopy
  simp only [hx, hty, hok, hstart, hset, hfree, hin, hout, hjob, hwaits, hsize, ne_eq, not_true_eq_false, Bool.not_true, Bool.false_eq_true, or_self, if_false]
  rfl

/-- The entry and, where it was not staged, memory once the copy is answered. -/
theorem copied_spec {t : State} {x : Entry} (hx : t.entry p e.seq = some x) (bs : List Byte) (staged : Bool) (a : Acc) :
    (∃ e', (t.copied p e bs staged a).entry p e.seq = some e' ∧ e'.done = true ∧ e'.res0 = (crc32c bs).setWidth 64 ∧ e'.res1 = BitVec.ofNat 64 bs.length) ∧
      (staged = false → (t.copied p e bs staged a).mem = (t.settle a true).mem) := by
  obtain ⟨y, hy, -⟩ := calm_entry (calm_settle t a true) hx
  refine ⟨?_, fun hdirect => ?_⟩
  · refine ⟨_, entry_updEntry_some (fun _ => rfl) (e := y) ?_, rfl, rfl, rfl⟩
    split <;> exact hy
  · rw [hdirect]
    rfl

/-- What a raw read answers and records: no write. -/
theorem readRaw_writes {x : XCtx} {va n : Nat} {g : Got} {q : Acc} (h : Job.exec (readRaw s x va n) = (.ok g, q)) : q.writes = [] := by
  rw [jobExec_eq, readRaw, jobFrom_bind, jobFrom_xl] at h
  cases hxl : s.xl x false va n with
  | error e => simp [hxl] at h
  | ok ps =>
    simp only [hxl, jobFrom_bind, jobFrom_note, jobFrom_pure, Prod.mk.injEq] at h
    rw [← h.2]

/-- Bytes none of which are undefined stay as they are. -/
theorem blurBytes_none (s : State) (bs : List Byte) : blurBytes s bs 0 0 = bs := by simp [blurBytes]

/-- A copy into one piece of the executing cluster's own scratchpad writes the bytes it has read, directly. -/
theorem copyJob_direct {g : Got} {q : Acc} {d : Piece}
    (hread : Job.exec (readRaw s { s.ctxPart p with cluster := some (cdExec e.desc) } (cdAddr0 e.desc) (64 * cdSize e.desc)) = (.ok g, q))
    (hdst : s.xl { s.ctxPart p with cluster := some (cdExec e.desc) } true (cdAddr1 e.desc) (64 * cdSize e.desc) = .ok [d])
    (hpad : padCluster d.pa = some (cdExec e.desc)) (hlost : s.lostIn d.pa d.n = false)
    (happart : copyOverlap (cdAddr0 e.desc) (cdAddr1 e.desc) (64 * cdSize e.desc) = (0, 0)) :
    ∃ a, Job.exec (copyJob s p e.desc) = (.ok (g.bytes, false), a) ∧ a.writes = wrPieces [d] g.bytes 0 g.marks g.bad := by
  have hnone := readRaw_writes hread
  rw [jobExec_eq] at hread
  have hwrite : (wrPieces [d] g.bytes 0 g.marks g.bad).reverse ++ q.writes = wrPieces [d] g.bytes 0 g.marks g.bad := by
    rw [hnone, List.append_nil]
    rfl
  refine ⟨{ q with walks := q.walks ++ s.walksFor { s.ctxPart p with cluster := some (cdExec e.desc) } (cdAddr1 e.desc) (64 * cdSize e.desc) q.walks q.who
                   writes := (wrPieces [d] g.bytes 0 g.marks g.bad).reverse ++ q.writes }, ?_, hwrite⟩
  rw [jobExec_eq, copyJob, jobFrom_bind, hread]
  simp [hdst, hpad, happart, blurBytes_none, writePieces, hlost]

end

/-- Settles O44: an answered copy leaves `State.copied`, and one into a piece of the own scratchpad is answered by `copyJob_direct`. -/
theorem copies : Obligations.Copies := by
  unfold Obligations.Copies
  intro s p seq e hx hseq hty hok hstart hset hsize hfree hin hout
  subst hseq
  have hentry := enterRun_entry false (s.pt p).e hx
  refine ⟨fun bs staged a hjob hretained => ⟨_, exec_copy hx hty hok hstart hset hsize hfree hin hout hjob hretained, copied_spec hentry ..⟩,
    fun g q d hread hdst hpad hlost hkept happart hlen => ?_⟩
  obtain ⟨a, hjob, hwrites⟩ := copyJob_direct hread hdst hpad hlost happart
  have hbytes : g.bytes.take d.n = g.bytes := List.take_of_length_le (Nat.le_of_eq hlen)
  have hretained : a.retained (s.enterRun p e false (s.pt p).e) = false := by simp [Acc.retained, hwrites, wrPieces, hbytes, hlen, hkept]
  refine ⟨_, exec_copy hx hty hok hstart hset hsize hfree hin hout hjob hretained, fun b => ?_⟩
  have hmem := (copied_spec hentry g.bytes false a).2 rfl
  rw [hmem, settle_mem, hwrites, enterRun_mem]
  simp only [wrPieces, hbytes, List.reverse_singleton, List.foldl_cons, List.foldl_nil, memory_byte_writeN, hlen, List.getD_eq_getElem?_getD]

end Sys2Proof.Machine
end

section
/-! SUPPORT. The 56 V input and the seal (R391, R427 to R430, R446, R519): what an event and a trip leave, and the statement about the input's events. -/

namespace Sys2Proof.Machine

/-! ### What an event leaves (R392) -/

/-- What a calm change, the log's HEAD and an interrupt leave, an event leaves. -/
theorem event_same {β : Type} {P : State → β} (hcalm : ∀ s t, Calm s t → P t = P s) (hevt : ∀ (s : State) evt, P { s with evt := evt } = P s) (s : State) (code part arg : Nat) :
    P (s.event code part arg) = P s := by
  have hmsi : ∀ (t : State) irq, P (t.msiFor irq) = P t := fun t irq => by
    unfold State.msiFor
    dsimp only
    split
    · exact hcalm _ _ (calm_emit ..)
    · rfl
  unfold State.event
  extract_lets k n at0 h lap word0 t₁ evt t₂
  have h₂ : P t₂ = P s := (hevt t₁ _).trans (hcalm _ _ (calm_store ..))
  clear_value t₂
  split
  · exact hcalm _ _ (calm_bump ..)
  · split
    · exact (hmsi ..).trans h₂
    · exact h₂

section
variable (s : State) (code part arg : Nat)

theorem event_power : (s.event code part arg).power = s.power := event_same (fun _ _ h => h.power) (fun _ _ => rfl) s code part arg
theorem event_plate : (s.event code part arg).plate = s.plate := event_same (fun _ _ h => h.plate) (fun _ _ => rfl) s code part arg
theorem event_cfg (i j : Nat) : (s.event code part arg).cfg i j = s.cfg i j := event_same (P := fun s => s.cfg i j) (fun _ _ h => calm_cfg h i j) (fun _ _ => rfl) s code part arg

/-- The boot state but for the mark of a memory fault. -/
theorem event_boot : { (s.event code part arg).boot with memFault := true } = { s.boot with memFault := true } :=
  event_same (P := fun s => { s.boot with memFault := true }) (fun _ _ h => h.boot) (fun _ _ => rfl) s code part arg

theorem event_sealed : (s.event code part arg).boot.sealed = s.boot.sealed := (congrArg Bring.sealed (event_boot s code part arg) :)
theorem event_sealAck : (s.event code part arg).boot.sealAck = s.boot.sealAck := (congrArg Bring.sealAck (event_boot s code part arg) :)
theorem event_atPartner : (s.event code part arg).boot.atPartner = s.boot.atPartner := (congrArg Bring.atPartner (event_boot s code part arg) :)

end

/-! ### Trips (R446) -/

/-- A trip takes the module to S3 and records its cause. -/
theorem trip_spec (s : State) (cause : Nat) : (s.trip cause).power.st = .s3 ∧ (s.trip cause).power.tripped = true ∧ (s.trip cause).power.tripCause = cause ∧
    (s.trip cause).obj 0x4020 7 = cause % 2 ^ 64 := by
  unfold State.trip
  extract_lets t₁ t₂
  have hobj : t₂.obj 0x4020 7 = cause % 2 ^ 64 := setObj_obj_same t₁.toS3 0x4020 7 cause
  exact ⟨rfl, rfl, rfl, hobj⟩

/-! ### The seal (R391) -/

/-- A seal begins where there is a partner and none has begun. -/
theorem sealStart_begins {s : State} (hpartner : s.cfg 0x2110 1 = 1) (hopen : s.boot.sealed = false) :
    s.sealStart = { s with boot := { s.boot with sealed := true, sealAck := false } }.emit .ledgerSeal := by
  have hgo : s.hasPartner = true ∧ (!s.boot.sealed) = true := ⟨by simp [State.hasPartner, hpartner], by simp [hopen]⟩
  exact if_pos hgo

/-- The partner holds the ledgers: their counters, W and open entries as they stand. -/
theorem sealTaken_spec (s : State) : s.sealTaken.boot.sealAck = true ∧ s.sealTaken.boot.sealed = s.boot.sealed ∧
    s.sealTaken.boot.atPartner = (List.range 16).map (fun p => (p, (s.pt p).nextSeq, (s.pt p).w, (s.pt p).entries)) ∧ s.sealTaken.obj 0x5808 1 = 2 ∧
      s.sealTaken.plate = s.plate := by
  unfold State.sealTaken
  refine ⟨event_sealAck .., event_sealed .., event_atPartner .., ?_, event_plate ..⟩
  refine (event_obj _ _ _ _ (by decide) (by decide)).trans ?_
  rw [State.bump, setObj_obj_ne _ _ _ _ _ _ (by decide), setObj_obj_same]
  rfl

/-! ### The events of the input -/

section
variable {s : State}

theorem exec_inputReturn (mv : Nat) (hst : s.power.st ≠ .s5) (hhold : s.power.holdup = false) :
    exec (.inputReturn mv) s = .next { s with power := { s.power with swOpen := false, mv := mv, low := decide (mv < 52000) } } := by
  change execInputReturn mv s = _
  simp [execInputReturn, hst, hhold]

theorem exec_inputReturn_counted (mv : Nat) (hst : s.power.st ≠ .s5) (hhold : s.power.holdup = true) : exec (.inputReturn mv) s =
    .next (State.bump { s with power := { s.power with holdup := false, swOpen := false, mv := mv, low := decide (mv < 52000) } } 0x4000 9 1) := by
  change execInputReturn mv s = _
  simp [execInputReturn, hst, hhold]

theorem exec_holdupExpiry_falls (hhold : s.power.holdup = true) (hsw : s.power.swOpen = false) : exec .holdupExpiry s = .next s.toS5 := by
  change execHoldupExpiry s = _
  simp [execHoldupExpiry, hhold, hsw]

theorem exec_holdupExpiry_trips (hhold : s.power.holdup = true) (hsw : s.power.swOpen = true) : exec .holdupExpiry s = .next (s.trip 7) := by
  change execHoldupExpiry s = _
  simp [execHoldupExpiry, hhold, hsw]

/-- The fall to S5 leaves the bytes of the CXL tier alone. -/
theorem toS5_mem {e : Nat × Byte} (h : e ∈ s.toS5.mem) : 0x100000000000 ≤ e.1 := by simpa using (List.mem_filter.1 h).2

/-- The state once a power warning has raised its event. -/
def State.powerWarned (s : State) : State := State.event { s with power := { s.power with warn := true } } 6 15 0

theorem powerWarned_spec (s : State) : s.powerWarned.power.warn = true ∧ s.powerWarned.cfg 0x2110 1 = s.cfg 0x2110 1 ∧ s.powerWarned.boot.sealed = s.boot.sealed ∧ s.powerWarned.parts = s.parts := by
  unfold State.powerWarned
  generalize hu : ({ s with power := { s.power with warn := true } } : State) = u
  have hcfg : u.cfg 0x2110 1 = s.cfg 0x2110 1 := by rw [← hu]; rfl
  have hwarn : u.power.warn = true := by rw [← hu]
  have hboot : u.boot = s.boot := by rw [← hu]
  have hparts : u.parts = s.parts := by rw [← hu]
  exact ⟨by rw [event_power, hwarn], (event_cfg ..).trans hcfg, by rw [event_sealed, hboot], (event_parts ..).trans hparts⟩

theorem exec_pwrWarnAssert (hwarn : s.power.warn = false) : exec .pwrWarnAssert s = .next s.powerWarned.sealStart := if_neg (by simp [hwarn])

theorem exec_partnerSealAck (hseal : s.boot.sealed = true) (hack : s.boot.sealAck = false) (hdrain : s.plate.drainSealed = false) : exec .partnerSealAck s = .next s.sealTaken := by
  have hplate := (sealTaken_spec s).2.2.2.2
  change execPartnerSealAck s = _
  simp [execPartnerSealAck, hseal, hack, hplate, hdrain]

theorem exec_pwrWarnRelease (hdrain : s.plate.drainSealed = false) : exec .pwrWarnRelease s = .next { s with power := { s.power with warn := false } }.sealEnd :=
  if_neg (by simp [hdrain])

/-- A seal that has begun ends. -/
theorem sealEnd_ends (hseal : s.boot.sealed = true) : s.sealEnd = { s with boot := { s.boot with sealed := false, sealAck := false, atPartner := [] } }.setObj 0x5808 1 1 :=
  if_pos hseal

end

/-- Settles O52: each event by its command's equation; the seal by `sealStart_begins`, `sealTaken_spec` and `sealEnd_ends`, an overvoltage that outlasts hold-up by `trip_spec`. -/
theorem powerInput : Obligations.PowerInput := by
  unfold Obligations.PowerInput
  intro s
  refine ⟨fun mv h => ⟨_, if_pos h, ⟨_, rfl⟩, rfl, rfl, rfl, rfl⟩, fun h => ⟨_, if_neg h, rfl⟩, fun h => ⟨if_pos h, if_pos h, fun _ => if_pos h⟩,
    fun mv h hhold => ⟨_, exec_inputReturn mv h hhold, rfl⟩,
    fun mv h hhold => ⟨_, exec_inputReturn_counted mv h hhold, rfl, bump_obj_same .., rfl, rfl, rfl⟩, fun hhold hsw => ?_, fun hhold hsw => ?_, fun h => ⟨_, if_neg h, rfl⟩,
    fun _ => ⟨_, rfl, rfl⟩, ⟨_, rfl, rfl⟩, fun mv hlo hhi => ⟨_, if_pos ⟨hlo, hhi⟩, rfl⟩, fun hwarn hpartner hopen => ?_, fun hseal hack hdrain => ?_,
    fun hdrain hseal => ?_⟩
  · exact ⟨_, exec_holdupExpiry_falls hhold hsw, rfl, rfl, rfl, rfl, fun e he => toS5_mem he⟩
  · obtain ⟨hst, htripped, hcause, -⟩ := trip_spec s 7
    exact ⟨_, exec_holdupExpiry_trips hhold hsw, hst, htripped, hcause⟩
  · obtain ⟨hpower, hcfg, hsealed, hparts⟩ := powerWarned_spec s
    have hbegins := sealStart_begins (hcfg.trans hpartner) (hsealed.trans hopen)
    exact ⟨_, (exec_pwrWarnAssert hwarn).trans (congrArg _ hbegins), hpower, rfl, rfl, List.mem_append_right _ List.mem_cons_self, hparts⟩
  · obtain ⟨hacked, hsealed, hat, hobj, -⟩ := sealTaken_spec s
    exact ⟨_, exec_partnerSealAck hseal hack hdrain, hacked, hsealed.trans hseal, hat, hobj⟩
  · have hends := sealEnd_ends (s := { s with power := { s.power with warn := false } }) hseal
    exact ⟨_, (exec_pwrWarnRelease hdrain).trans (congrArg _ hends), rfl, rfl, rfl, rfl, setObj_obj_same .., rfl⟩

end Sys2Proof.Machine
end

section
/-! SUPPORT. Losses (R406, R409, R413, R415 to R417, R419 to R421, R499): the record of a loss, dies and hubs that are lost, the flush of a checkpoint, host dies and
the security die, and the statement about them. -/

namespace Sys2Proof.Machine

/-- A fold that changes one place for each number of a list without repeats changes each of those places once. -/
theorem foldl_each {β : Type} {f : State → Nat → State} {look : State → Nat → β} {g : β → β} (hsame : ∀ s k, look (f s k) k = g (look s k))
    (hne : ∀ s k j, j ≠ k → look (f s k) j = look s j) {l : List Nat} (hl : l.Nodup) (s : State) (j : Nat) :
    look (l.foldl f s) j = if j ∈ l then g (look s j) else look s j := by
  induction l generalizing s with
  | nil => rfl
  | cons k l ih =>
    obtain ⟨hk, hl⟩ := List.nodup_cons.1 hl
    rw [List.foldl_cons, ih hl]
    by_cases hj : j = k
    · subst hj
      simp [hk, hsame]
    · simp [hj, hne _ _ _ hj]

section
variable {s t u : State}

/-! ### The record of a loss (R411) -/

/-- The recovery records and the stage, on which the record of a loss depends. -/
def State.ledgerStage (s : State) : Recovery × Boot := (s.recov, s.boot.stage)

theorem PlanKept.ledgerStage (h : PlanKept s t) : t.ledgerStage = s.ledgerStage := by rw [State.ledgerStage, h.recov, h.stage, State.ledgerStage]

theorem ledgerStage_stage (h : t.ledgerStage = s.ledgerStage) : t.boot.stage = s.boot.stage := congrArg Prod.snd h

theorem event_ledgerStage (s : State) (code part arg : Nat) : (s.event code part arg).ledgerStage = s.ledgerStage :=
  event_same (fun _ _ h => (planKept_of_calm h).ledgerStage) (fun _ _ => rfl) s code part arg

/-- A record without a replacement joins those of the state whose records and stage the loss has left. -/
theorem postRecord_joins (h : t.ledgerStage = s.ledgerStage) (hl1 : s.boot.stage = .l1 ∨ s.boot.stage = .l2) (kind failed : Nat) (qs : List Nat) :
    ∃ ps, (t.postRecord kind failed none qs).recov.recs = s.recov.recs ++ [{ kind := kind, failed := failed, repl := none, parts := ps, no := s.recov.next % 65536 }] := by
  obtain ⟨hrecov, hstage⟩ := Prod.mk.inj h
  exact ⟨qs, hrecov ▸ (postRecord_posts kind failed none qs (hstage ▸ hl1)).1⟩

theorem planKept_stopForRerun (s : State) (p : Nat) (uses : Entry → Bool) : PlanKept s (s.stopForRerun p uses) := planKept_foldl (fun t e => planKept_stopEntry t p e) _ _

/-- A stop keeps the floor plan, whether or not it freezes undecided COMMITs. -/
theorem planKept_stop (s : State) (uses : Nat → Entry → Bool) (freeze : Bool) : PlanKept s (s.stopParts uses freeze).1 := by
  unfold State.stopParts
  refine planKept_foldl (fun t p => ?_) _ _
  dsimp only
  cases (t.pt p).commit <;> split
  · exact planKept_stopForRerun ..
  · exact planKept_stopForRerun ..
  · exact planKept_trans (planKept_stopForRerun ..) (planKept_updEntry ..)
  · exact planKept_stopForRerun ..

/-- What runs has stopped, and the re-run notices have gone out. -/
def State.stoppedAll (s : State) : State := (s.stopParts (fun _ _ => true) false).1.noteRerun s (s.stopParts (fun _ _ => true) false).2

theorem planKept_stoppedAll (s : State) : PlanKept s s.stoppedAll := planKept_trans (planKept_stop ..) (planKept_noteRerun ..)

theorem stoppedAll_plan (s : State) : s.stoppedAll.plan = s.plan := (noteRerun_plan ..).trans (stopParts_plan ..)

/-! ### Dies that are lost (R413) -/

/-- A die that is lost is failed and has no place in the tree. -/
def Die.isOut (x : Die) : Prop := x.failed = true ∧ x.treePos = none

theorem dieMarked_die_same (s : State) (die : Nat) (ok : Bool) (d : Nat) : (s.dieMarked die ok d).die d = (s.die d).marked die ok d := by
  unfold State.dieMarked
  dsimp only
  split <;> exact updDie_die_same ..

theorem dieMarked_die_ne (s : State) (die : Nat) (ok : Bool) {d a : Nat} (h : a ≠ d) : (s.dieMarked die ok d).die a = s.die a := by
  unfold State.dieMarked
  dsimp only
  split <;> exact updDie_die_ne _ _ _ _ h

theorem dieMarked_same {β : Type} {P : State → β} (hdie : ∀ s d f, P (State.updDie s d f) = P s) (hboot : ∀ s l, P { s with boot := { s.boot with badDies := l } } = P s)
    (hemit : ∀ s o, P (State.emit s o) = P s) (s : State) (die : Nat) (ok : Bool) (d : Nat) : P (s.dieMarked die ok d) = P s := by
  unfold State.dieMarked
  dsimp only
  split
  · exact (hemit ..).trans ((hboot ..).trans (hdie ..))
  · exact (hboot ..).trans (hdie ..)

theorem clustersLost_same {β : Type} {P : State → β} (hpad : ∀ s c, P (State.padInit s c) = P s) (hcl : ∀ s c f, P (State.updCl s c f) = P s)
    (hmember : ∀ s c r, P (State.replaceMember s c r) = P s) (s t : State) (d : Nat) : P (s.clustersLost t d) = P t := by
  unfold State.clustersLost
  refine foldl_same (P := P) (fun t k => ?_) _ t
  split
  · rfl
  · exact (hmember ..).trans ((hcl ..).trans (hpad ..))

theorem diesMarked_out {a die : Nat} {ok : Bool} {cutOff : List Nat} (also : List (Nat × Nat)) (ha : a ∈ s.diesOut die ok cutOff) :
    ((s.diesMarked die ok cutOff also).die a).isOut := by
  have hset : ∀ t : State, ((s.dieGoes die ok t a).die a).isOut := fun t => by
    rw [State.dieGoes, dieMarked_die_same]
    exact ⟨rfl, rfl⟩
  refine foldl_establishes (P := fun t : State => (t.die a).isOut) ha hset (fun t j ht => ?_) _
  by_cases hj : a = j
  · subst hj; exact hset t
  · rw [State.dieGoes, dieMarked_die_ne _ _ _ hj, State.die, clustersLost_dies]
    exact ht

/-- A die that goes is out of the floor plan. -/
theorem dieLost_out {a die : Nat} {ok : Bool} {cutOff : List Nat} (also : List (Nat × Nat)) (ha : a ∈ s.diesOut die ok cutOff) : ((s.dieLost die ok cutOff also).die a).isOut := by
  obtain ⟨hfailed, hpos⟩ := diesMarked_out also ha
  obtain ⟨x, hx⟩ := renumber_die (s.diesMarked die ok cutOff also) a
  rw [dieLost_eq, metal_die (postRecord_metal ..), metal_die (noteRerun_metal ..), geoChanged_die, metal_die (planChanged_metal _)]
  exact ⟨(congrArg Die.failed hx).trans hfailed, renumber_failed hfailed hpos⟩

/-- A cluster that has failed and runs nothing. -/
def Cluster.isDead (cl : Cluster) : Prop := cl.stat = .failed ∧ cl.run = none

theorem lostCluster_dead (t : State) {c j : Nat} (h : (t.cl c).isDead ∨ c = j) :
    ((((t.padInit j).updCl j fun _ => { stat := .failed, pll := false }).replaceMember j none).cl c).isDead := by
  rw [metal_cl (replaceMember_metal ..)]
  by_cases hj : c = j
  · subst hj
    rw [updCl_cl_same]
    exact ⟨rfl, rfl⟩
  · rw [updCl_cl_ne _ _ _ _ hj, padInit_cl]
    exact h.resolve_right hj

theorem clustersLost_keeps_dead (s t : State) (d : Nat) {c : Nat} (h : (t.cl c).isDead) : ((s.clustersLost t d).cl c).isDead := by
  unfold State.clustersLost
  refine foldl_keeps (P := fun t : State => (t.cl c).isDead) (fun t k ht => ?_) _ t h
  split
  · exact ht
  · exact lostCluster_dead t (.inl ht)

/-- Every cluster of a die that goes is dead, but for those fused off. -/
theorem clustersLost_dead (s t : State) (d : Nat) {k : Nat} (hk : k < 17) (hstat : (s.cl (d * 17 + k)).stat ≠ .fusedOff) : ((s.clustersLost t d).cl (d * 17 + k)).isDead := by
  unfold State.clustersLost
  refine foldl_establishes (P := fun t : State => (t.cl (d * 17 + k)).isDead) (List.mem_range.2 hk) (fun t => ?_) (fun t j ht => ?_) t
  · rw [if_neg hstat]
    exact lostCluster_dead t (.inr rfl)
  · split
    · exact ht
    · exact lostCluster_dead t (.inl ht)

theorem dieMarked_cl (s : State) (die : Nat) (ok : Bool) (d c : Nat) : (s.dieMarked die ok d).cl c = s.cl c :=
  dieMarked_same (P := fun s => s.cl c) (fun _ _ _ => rfl) (fun _ _ => rfl) (fun _ _ => rfl) s die ok d

theorem diesMarked_dead {die k d : Nat} {ok : Bool} {cutOff : List Nat} (also : List (Nat × Nat)) (hd : d ∈ s.diesOut die ok cutOff) (hk : k < 17)
    (hstat : (s.cl (d * 17 + k)).stat ≠ .fusedOff) : ((s.diesMarked die ok cutOff also).cl (d * 17 + k)).isDead := by
  refine foldl_establishes (P := fun t : State => (t.cl (d * 17 + k)).isDead) hd (fun t => ?_) (fun t j ht => ?_) _
  · rw [State.dieGoes, dieMarked_cl]
    exact clustersLost_dead s t d hk hstat
  · rw [State.dieGoes, dieMarked_cl]
    exact clustersLost_keeps_dead s t j ht

theorem geoChanged_run (s : State) (c : Nat) : (s.geoChanged.cl c).run = (s.cl c).run :=
  geoChanged_same (P := fun s => (s.cl c).run)
    (fun _ p => (event_same (P := fun s => (s.cl c).run) (fun _ _ h => calm_run h c) (fun _ _ => rfl) _ 5 p _).trans rfl) (fun _ _ => rfl) (fun _ _ _ _ => rfl) s

theorem dieLost_dead {die k d : Nat} {ok : Bool} {cutOff : List Nat} (also : List (Nat × Nat)) (hd : d ∈ s.diesOut die ok cutOff) (hk : k < 17)
    (hstat : (s.cl (d * 17 + k)).stat ≠ .fusedOff) : ((s.dieLost die ok cutOff also).cl (d * 17 + k)).isDead := by
  obtain ⟨hfailed, hrun⟩ := diesMarked_dead also hd hk hstat
  rw [dieLost_eq, metal_cl (postRecord_metal ..), metal_cl (noteRerun_metal ..), Cluster.isDead, geoChanged_stat, geoChanged_run, metal_cl (planChanged_metal _), renumber_cl]
  exact ⟨hfailed, hrun⟩

/-! What the loss of dies leaves of the records, the stage and the generations. -/

theorem replaceMember_ledgerStage (s : State) (c : Nat) (r : Option Nat) : (s.replaceMember c r).ledgerStage = s.ledgerStage := (planKept_replaceMember s c r).ledgerStage

theorem geoChanged_ledgerStage (s : State) : s.geoChanged.ledgerStage = s.ledgerStage :=
  geoChanged_same (P := State.ledgerStage) (fun _ _ => (event_ledgerStage ..).trans rfl) (fun _ _ => rfl) (fun _ _ _ _ => rfl) s

theorem diesMarked_ledgerStage (s : State) (die : Nat) (ok : Bool) (cutOff : List Nat) (also : List (Nat × Nat)) : (s.diesMarked die ok cutOff also).ledgerStage = s.ledgerStage :=
  (foldl_same (P := State.ledgerStage) (fun t d => (dieMarked_same (P := State.ledgerStage) (fun _ _ _ => rfl) (fun _ _ => rfl) (fun _ _ => rfl) _ die ok d).trans
    (clustersLost_same (P := State.ledgerStage) (fun _ _ => rfl) (fun _ _ _ => rfl) replaceMember_ledgerStage s t d)) _ _).trans (planKept_stop ..).ledgerStage

theorem dieLost_posts (hl1 : s.boot.stage = .l1 ∨ s.boot.stage = .l2) (die : Nat) (ok : Bool) (cutOff : List Nat) (also : List (Nat × Nat)) :
    ∃ ps, (s.dieLost die ok cutOff also).recov.recs = s.recov.recs ++ [{ kind := 3, failed := die, repl := none, parts := ps, no := s.recov.next % 65536 }] := by
  rw [dieLost_eq]
  refine postRecord_joins ?_ hl1 3 die (s.diesStopped die ok cutOff also).2
  exact (planKept_noteRerun ..).ledgerStage.trans ((geoChanged_ledgerStage _).trans
    ((planKept_planChanged _).ledgerStage.trans <| (renumber_same (P := State.ledgerStage) (fun _ _ _ => rfl) _).trans (diesMarked_ledgerStage ..)))

/-- The geometry generations of the partitions. -/
def State.geos (s : State) (p : Nat) : Nat := (s.pt p).geo

theorem updPt_geos (s : State) (p : Nat) {f : Part → Part} (hf : ∀ pt, (f pt).geo = pt.geo) : (s.updPt p f).geos = s.geos := by
  funext q
  by_cases h : q = p
  · subst h
    rw [State.geos, updPt_pt_same, hf, State.geos]
  · rw [State.geos, updPt_pt_ne _ _ _ _ h, State.geos]

theorem geos_of_parts (h : t.parts = s.parts) : t.geos = s.geos := congrArg (fun l q => (Tab.look l {} q : Part).geo) h

theorem updEntry_geos (s : State) (p q : Nat) (f : Entry → Entry) : (s.updEntry p q f).geos = s.geos := updPt_geos s p fun _ => rfl

theorem onlyEntries_geos (h : OnlyEntries s t) : t.geos = s.geos := funext fun p => (congrArg Part.geo (h p) :)

theorem stopEntry_geos (s : State) (p : Nat) (e : Entry) : (s.stopEntry p e).geos = s.geos := by
  have hclear : (s.clearEntry p e).geos = s.geos := onlyEntries_geos (onlyEntries_clearEntry s p e)
  unfold State.stopEntry
  split
  · exact (updEntry_geos ..).trans hclear
  · exact (updPt_geos _ _ (by intros; rfl)).trans ((updEntry_geos ..).trans hclear)

theorem stopForRerun_geos (s : State) (p : Nat) (uses : Entry → Bool) : (s.stopForRerun p uses).geos = s.geos :=
  foldl_same (P := State.geos) (fun t e => stopEntry_geos t p e) _ _

theorem stopParts_geos (s : State) (uses : Nat → Entry → Bool) (freeze : Bool) : (s.stopParts uses freeze).1.geos = s.geos := by
  unfold State.stopParts
  refine foldl_same (P := State.geos) (fun t p => ?_) _ _
  dsimp only
  cases (t.pt p).commit <;> split
  · exact stopForRerun_geos ..
  · exact stopForRerun_geos ..
  · exact (updEntry_geos ..).trans (stopForRerun_geos ..)
  · exact stopForRerun_geos ..

theorem replaceMember_geos (s : State) (c : Nat) (r : Option Nat) : (s.replaceMember c r).geos = s.geos := by
  unfold State.replaceMember
  refine foldl_same (P := State.geos) (fun t p => ?_) _ _
  split
  · rfl
  · exact updPt_geos _ _ fun _ => rfl

theorem noteRerun_geos (t s : State) (ps : List Nat) (dieLoss : Bool) : (t.noteRerun s ps dieLoss).geos = t.geos := by
  unfold State.noteRerun
  refine foldl_same (P := State.geos) (fun u p => ?_) ps t
  split
  · exact geos_of_parts (foldl_same (P := State.parts) (by intros; rfl) _ _)
  · rfl

theorem postRecord_geos (s : State) (kind failed : Nat) (repl : Option Nat) (ps : List Nat) : (s.postRecord kind failed repl ps).geos = s.geos := by
  unfold State.postRecord
  extract_lets no sub t₁ t₂ recov t₃ t₄
  have h₂ : t₂.geos = s.geos := geos_of_parts (show t₁.parts = s.parts by unfold t₁; split <;> rfl)
  have h₄ : t₄.geos = s.geos := (foldl_same (P := State.geos) (fun t p => updPt_geos t p (by intros; rfl)) ps t₃).trans h₂
  clear_value t₂ t₄
  split
  · exact h₂
  · split
    · exact (geos_of_parts (msiFor_parts ..)).trans h₄
    · exact h₄

theorem planChanged_geos (s : State) : s.planChanged.geos = s.geos := geos_of_parts rfl
theorem renumber_geos (s : State) : s.renumber.geos = s.geos := renumber_same (P := State.geos) (fun _ _ _ => geos_of_parts rfl) s

theorem dieGoes_geos (s : State) (die : Nat) (ok : Bool) (t : State) (d : Nat) : (s.dieGoes die ok t d).geos = t.geos := by
  unfold State.dieGoes
  rw [dieMarked_same (P := State.geos) (fun _ _ _ => geos_of_parts rfl) (fun _ _ => geos_of_parts rfl) (fun _ _ => geos_of_parts rfl),
    clustersLost_same (P := State.geos) (fun _ _ => geos_of_parts rfl) (fun _ _ _ => geos_of_parts rfl) replaceMember_geos]

theorem diesMarked_geos (s : State) (die : Nat) (ok : Bool) (cutOff : List Nat) (also : List (Nat × Nat)) : (s.diesMarked die ok cutOff also).geos = s.geos := by
  unfold State.diesMarked
  rw [foldl_same (P := State.geos) (fun t d => dieGoes_geos s die ok t d)]
  exact stopParts_geos ..

/-- A die that is lost advances the geometry of every partition. -/
theorem dieLost_geo (hl1 : s.boot.stage = .l1 ∨ s.boot.stage = .l2) (die : Nat) (ok : Bool) (cutOff : List Nat) (also : List (Nat × Nat)) {p : Nat} (hp : p < 16) :
    ((s.dieLost die ok cutOff also).pt p).geo = ((s.pt p).geo + 1) % 2 ^ 32 := by
  have hmarked : ((s.diesMarked die ok cutOff also).renumber.planChanged.geos) = s.geos := by rw [planChanged_geos, renumber_geos, diesMarked_geos]
  have hstage : (s.diesMarked die ok cutOff also).renumber.planChanged.boot.stage = s.boot.stage :=
    ledgerStage_stage ((planKept_planChanged _).ledgerStage.trans
      ((renumber_same (P := State.ledgerStage) (fun _ _ _ => rfl) _).trans (diesMarked_ledgerStage s die ok cutOff also)))
  have hready : (s.diesMarked die ok cutOff also).renumber.planChanged.atL1 = true := by
    rw [State.atL1, hstage]
    rcases hl1 with h | h <;> rw [h] <;> rfl
  have hlost : (s.dieLost die ok cutOff also).geos = (s.diesMarked die ok cutOff also).renumber.planChanged.geoChanged.geos := by
    rw [dieLost_eq, postRecord_geos, noteRerun_geos]
  have hp' := congrFun hmarked p
  generalize (s.diesMarked die ok cutOff also).renumber.planChanged = u at hready hlost hp'
  change (u.pt p).geo = (s.pt p).geo at hp'
  exact (congrFun hlost p).trans ((geoChanged_geo hready hp).trans (by rw [hp']))

end
end Sys2Proof.Machine
end

section
/-! SUPPORT. Losses of hubs, stacks, CXL ports and host dies, the security die's fault and the flush of a checkpoint (R406, R409, R415 to R417, R419 to R421), and the
statement about losses. -/

namespace Sys2Proof.Machine

section
variable {s t : State} {h : Nat}

theorem runs_next {i : Instr} {P : State → Prop} (hexec : exec i s = .next t) (hP : P t) : Runs i s P := ⟨t, hexec, hP⟩

/-! ### Hubs (R401, R415) -/

/-- A lost hub's own state is gone, and with it the lines that it had not written back. -/
def State.hubOut (s : State) (h : Nat) : State := ((s.stoppedAll.emit (.resetPart 1 h)).loseDirty h).updHub h fun _ => { lost := true }

/-- The CXL window, the mirrors and the attach ports of a hub that is out. -/
def State.hubUnplugged (s : State) (h : Nat) : State := (hubAttach h).foldl (fun t d => t.sideDown d h) (((s.hubOut h).cxlLost h).moveMirrors h)

/-- Another hub becomes the commit unit's where the lost one was it. -/
def State.cuMoved (s : State) (h : Nat) (t : State) : State := if s.cuHub = some h then t.nameCu (t.nextHub fun _ => true) else t

/-- With a protected range its parity is gone. -/
def State.parityLost (t : State) : State := if t.guardList.any (fun r => r.2 != 0) then t.exhaust else t

theorem exec_hubLoss (hup : (s.hub h).lost = false) : exec (.hubLoss h) s =
    .next ((s.cuMoved h (s.hubUnplugged h)).parityLost.planChanged.postRecord 4 h none (s.stopParts (fun _ _ => true) false).2) :=
  congrArg Host.Outcome.next (if_neg (ne_true_of_eq_false hup))

theorem moveMirrors_same {β : Type} {P : State → β} (hevent : ∀ s c p a, P (State.event s c p a) = P s) (hpt : ∀ s p f, P (State.updPt s p f) = P s) (s : State) (h : Nat) :
    P (s.moveMirrors h) = P s := by
  unfold State.moveMirrors
  refine foldl_same (P := P) (fun t p => ?_) _ s
  dsimp only
  split
  · split
    · exact (hevent ..).trans (hpt ..)
    · exact hpt ..
  · rfl

theorem emit_ledgerStage (s : State) (o : Out) : (s.emit o).ledgerStage = s.ledgerStage := rfl
theorem updHub_ledgerStage (s : State) (h : Nat) (f : Hub → Hub) : (s.updHub h f).ledgerStage = s.ledgerStage := rfl
theorem cxlLost_ledgerStage (s : State) (h : Nat) : (s.cxlLost h).ledgerStage = s.ledgerStage := rfl

theorem hubOut_ledgerStage (s : State) (h : Nat) : (s.hubOut h).ledgerStage = s.ledgerStage := by
  have hlines : ∀ t : State, (t.loseDirty h).ledgerStage = t.ledgerStage := fun t =>
    foldl_same (P := State.ledgerStage) (fun u _ => (planKept_of_calm (calm_scramble u _ 256)).ledgerStage) _ t
  rw [State.hubOut, updHub_ledgerStage, hlines, emit_ledgerStage, (planKept_stoppedAll s).ledgerStage]

theorem hubUnplugged_ledgerStage (s : State) (h : Nat) : (s.hubUnplugged h).ledgerStage = s.ledgerStage := by
  unfold State.hubUnplugged
  rw [foldl_same (P := State.ledgerStage) (f := fun t d => State.sideDown t d h) (fun _ _ => rfl), moveMirrors_same (P := State.ledgerStage) event_ledgerStage fun _ _ _ => rfl,
    cxlLost_ledgerStage, hubOut_ledgerStage]

theorem hubUnplugged_cxlDown (s : State) (h : Nat) : h ∈ (s.hubUnplugged h).plan.cxlDown := by
  unfold State.hubUnplugged
  rw [foldl_same (P := State.plan) (f := fun t d => State.sideDown t d h) (fun _ _ => rfl),
    moveMirrors_same (P := State.plan) (event_same (fun _ _ k => k.plan) fun _ _ => rfl) fun _ _ _ => rfl]
  change h ∈ if _ then _ else _
  split
  · exact List.contains_iff_mem.1 ‹_›
  · exact List.mem_append_right _ (List.mem_singleton_self _)

theorem hubUnplugged_portsDown (s : State) {h d : Nat} (hd : d ∈ hubAttach h) : h ∈ ((s.hubUnplugged h).die d).portsDown :=
  foldl_establishes (P := fun t : State => h ∈ (t.die d).portsDown) hd (fun _ => sideDown_mem ..) (fun _ _ ht => sideDown_keeps ht) _

/-- A value that is listed stays so when every listed value changes, where it does not become the default. -/
theorem tab_look_mapV {α : Type} [DecidableEq α] (t : Tab α) (d : α) (f : α → α) (k : Nat) (hlisted : Tab.look t d k ≠ d) (hstays : f (Tab.look t d k) ≠ d) :
    Tab.look (Tab.mapV t d f) d k = f (Tab.look t d k) := by
  induction t with
  | nil => exact absurd rfl hlisted
  | cons e t ih =>
    by_cases he : e.1 == k
    · have hlook : Tab.look (e :: t) d k = e.2 := by simp [Tab.look, he]
      rw [hlook] at hstays ⊢
      simp [Tab.look, Tab.mapV, hstays, he]
    · have hlook : Tab.look (e :: t) d k = Tab.look t d k := by simp [Tab.look, he]
      rw [hlook] at hlisted hstays ⊢
      rw [← ih hlisted hstays]
      by_cases hd : f e.2 = d
      · simp [Tab.mapV, hd]
      · simp [Tab.look, Tab.mapV, hd, he]

/-- The naming of the commit unit's hub leaves the ports that are down. -/
theorem nameCu_portsDown {h d : Nat} (hdown : h ∈ (s.die d).portsDown) (k : Option Nat) : h ∈ ((s.nameCu k).die d).portsDown := by
  have hlisted : ∀ x : Die, h ∈ x.portsDown → x ≠ {} := by rintro x hx rfl; cases hx
  have hlook : ∀ v : Word, Tab.look (Tab.mapV s.dies {} fun x => { x with service := v }) {} d = { s.die d with service := v } := fun v =>
    tab_look_mapV s.dies {} (fun x => { x with service := v }) d (hlisted _ hdown) (hlisted _ hdown)
  unfold State.nameCu
  dsimp only
  rw [State.die, foldl_same (P := State.dies) (by intros; rfl)]
  dsimp only
  rw [hlook]
  exact hdown

theorem planChanged_plan (s : State) : s.planChanged.plan = s.plan := rfl
theorem planChanged_dies (s : State) : s.planChanged.dies = s.dies := rfl

theorem exhaust_kept (s : State) : s.exhaust.ledgerStage = s.ledgerStage ∧ s.exhaust.plan = s.plan ∧ s.exhaust.dies = s.dies := ⟨rfl, rfl, rfl⟩

theorem parityLost_kept (s : State) : s.parityLost.ledgerStage = s.ledgerStage ∧ s.parityLost.plan = s.plan ∧ s.parityLost.dies = s.dies := by
  unfold State.parityLost
  split
  · exact exhaust_kept s
  · exact ⟨rfl, rfl, rfl⟩

/-- Once the commit unit's hub is moved the hub is out, with its ports and its window, and the records are as they were. -/
theorem hubGone_spec (s : State) (h : Nat) : let t := (s.cuMoved h (s.hubUnplugged h)).parityLost.planChanged
    t.ledgerStage = s.ledgerStage ∧ h ∈ t.plan.cxlDown ∧ ∀ d ∈ hubAttach h, h ∈ (t.die d).portsDown := by
  have hledger := hubUnplugged_ledgerStage s h
  have hcxl := hubUnplugged_cxlDown s h
  have hports := fun d => hubUnplugged_portsDown s (h := h) (d := d)
  generalize s.hubUnplugged h = u at hledger hcxl hports ⊢
  have hmoved : (s.cuMoved h u).ledgerStage = s.ledgerStage ∧ h ∈ (s.cuMoved h u).plan.cxlDown ∧ ∀ d ∈ hubAttach h, h ∈ ((s.cuMoved h u).die d).portsDown := by
    unfold State.cuMoved
    split
    · rw [nameCu_same (P := State.ledgerStage) (fun _ _ _ => rfl), nameCu_same (P := State.plan) (fun _ _ _ => rfl)]
      exact ⟨hledger, hcxl, fun d hd => nameCu_portsDown (hports d hd) _⟩
    · exact ⟨hledger, hcxl, hports⟩
  generalize s.cuMoved h u = v at hmoved ⊢
  obtain ⟨hl, hp, hd⟩ := parityLost_kept v
  dsimp only
  rw [(planKept_planChanged _).ledgerStage, hl, planChanged_plan, hp]
  simp only [State.die]
  rw [planChanged_dies, hd]
  exact hmoved

/-- Every attach port of a lost hub and its CXL port are down, and its loss is recorded. -/
theorem hubLost_spec (hl1 : s.boot.stage = .l1 ∨ s.boot.stage = .l2) (hup : (s.hub h).lost = false) : Runs (.hubLoss h) s fun t =>
    (∃ ps, t.recov.recs = s.recov.recs ++ [{ kind := 4, failed := h, repl := none, parts := ps, no := s.recov.next % 65536 }]) ∧
      (t.hub h).lost = true ∧ h ∈ t.plan.cxlDown ∧ ∀ d ∈ hubAttach h, h ∈ (t.die d).portsDown := by
  obtain ⟨hledger, hcxl, hports⟩ := hubGone_spec s h
  have hlost : (s.hubLost h).hubsLost h = true := hubLost_lost s h
  have hexec := exec_hubLoss hup
  have heq : s.hubLost h = (s.cuMoved h (s.hubUnplugged h)).parityLost.planChanged.postRecord 4 h none (s.stopParts (fun _ _ => true) false).2 := Host.Outcome.next.inj hexec
  rw [heq] at hlost
  generalize (s.cuMoved h (s.hubUnplugged h)).parityLost.planChanged = u at *
  exact ⟨_, hexec, postRecord_joins hledger hl1 4 h _, hlost, (postRecord_plan ..).symm ▸ hcxl, fun d hd => (metal_die (postRecord_metal ..) d).symm ▸ hports d hd⟩

/-! ### Stacks and CXL ports (R416, R417) -/

theorem stackGone_ledgerStage (s : State) (m : Nat) : (s.stackGone m).ledgerStage = s.stoppedAll.ledgerStage := rfl

theorem stackLost_posts (hl1 : s.boot.stage = .l1 ∨ s.boot.stage = .l2) (m : Nat) :
    ∃ ps, (s.stackLost m).recov.recs = s.recov.recs ++ [{ kind := 5, failed := m, repl := none, parts := ps, no := s.recov.next % 65536 }] := by
  obtain ⟨u, hu, heq⟩ := stackLost_eq s m
  have hgone : (s.stackGone m).ledgerStage = s.ledgerStage := (stackGone_ledgerStage s m).trans (planKept_stoppedAll s).ledgerStage
  have hledger : u.planChanged.ledgerStage = s.ledgerStage := by
    rw [(planKept_planChanged u).ledgerStage]
    rcases hu with rfl | rfl
    · exact hgone
    · exact (exhaust_kept _).1.trans hgone
  rw [heq]
  exact postRecord_joins hledger hl1 5 m _

/-- A CXL port of the tier is down. -/
def State.cxlGone (s : State) (x : Nat) : State := { s with plan := { s.plan with cxlDown := s.plan.cxlDown ++ [x] } }

theorem cxlGone_ledgerStage (s : State) (x : Nat) : (s.cxlGone x).ledgerStage = s.ledgerStage := rfl
theorem cxlGone_cxlDown (s : State) (x : Nat) : (s.cxlGone x).plan.cxlDown = s.plan.cxlDown ++ [x] := rfl

theorem exec_cxlPortLoss {x : Nat} (hup : s.plan.cxlDown.contains x = false) :
    exec (.cxlPortLoss x) s = .next ((s.stoppedAll.cxlGone x).planChanged.postRecord 6 x none (s.stopParts (fun _ _ => true) false).2) :=
  if_neg (by rw [hup]; exact Bool.false_ne_true)

theorem cxlPortLost (hl1 : s.boot.stage = .l1 ∨ s.boot.stage = .l2) {x : Nat} (hup : s.plan.cxlDown.contains x = false) : Runs (.cxlPortLoss x) s fun t =>
    (∃ ps, t.recov.recs = s.recov.recs ++ [{ kind := 6, failed := x, repl := none, parts := ps, no := s.recov.next % 65536 }]) ∧
      t.plan.cxlDown = s.plan.cxlDown ++ [x] := by
  have hledger : (s.stoppedAll.cxlGone x).planChanged.ledgerStage = s.ledgerStage := by
    rw [(planKept_planChanged _).ledgerStage, cxlGone_ledgerStage, (planKept_stoppedAll s).ledgerStage]
  have hplan : (s.stoppedAll.cxlGone x).planChanged.plan.cxlDown = s.plan.cxlDown ++ [x] := by rw [planChanged_plan, cxlGone_cxlDown, stoppedAll_plan]
  have hexec := exec_cxlPortLoss hup
  generalize (s.stoppedAll.cxlGone x).planChanged = u at hledger hplan hexec
  exact ⟨_, hexec, postRecord_joins hledger hl1 6 x _, (postRecord_plan ..).symm ▸ hplan⟩

theorem exec_cxlPortRetrained {x : Nat} (hdown : s.plan.cxlDown.contains x = true) (hhub : (s.hub x).lost = false) :
    exec (.cxlPortRetrained x false) s = .next (State.planChanged { s with plan := { s.plan with cxlDown := s.plan.cxlDown.filter (· != x) } }) :=
  if_pos ⟨hdown, by simp [hhub]⟩

theorem mirrorRebuilt_spec {p : Nat} (hrebuild : (s.pt p).rebuilding = true) :
    Runs (.mirrorRebuilt p) s fun t => (t.pt p).rebuilding = false ∧ (t.pt p).entries = (s.pt p).entries := by
  refine runs_next (if_pos hrebuild) ?_
  rw [State.pt, event_parts, ← State.pt, updPt_pt_same]
  exact ⟨rfl, rfl⟩

/-! ### Host dies and the security die (R419, R420) -/

/-- The standby host die has the ledger. -/
def State.tookOver (s : State) : State :=
  { s with boot := { s.boot with hostsLost := s.boot.hostsLost ++ [s.boot.hostPrimary], hostPrimary := 1 - s.boot.hostPrimary } }

theorem hostLost_eq (hup : s.boot.hostsLost.contains s.boot.hostPrimary = false) (hstandby : s.boot.hostsLost.contains (1 - s.boot.hostPrimary) = false) :
    s.hostLost = (((s.tookOver).emit (.resetPart 3 s.boot.hostPrimary)).setObj 0x5000 9 (1 - s.boot.hostPrimary)).event 4 15 (1 - s.boot.hostPrimary) := by
  refine (if_neg (by rw [hup]; exact Bool.false_ne_true)).trans ?_
  exact if_neg (by rw [hstandby]; exact Bool.false_ne_true)

/-- With the primary host die lost the standby has the ledger interface. -/
theorem hostLost_spec (hup : s.boot.hostsLost.contains s.boot.hostPrimary = false) (hstandby : s.boot.hostsLost.contains (1 - s.boot.hostPrimary) = false) :
    s.hostLost.boot.hostPrimary = 1 - s.boot.hostPrimary ∧ s.hostLost.boot.hostsLost = s.boot.hostsLost ++ [s.boot.hostPrimary] ∧
      s.hostLost.obj 0x5000 9 = 1 - s.boot.hostPrimary ∧ s.hostLost.parts = s.parts := by
  have hsmall : (1 - s.boot.hostPrimary) % 2 ^ 64 = 1 - s.boot.hostPrimary := Nat.mod_eq_of_lt (by omega)
  rw [hostLost_eq hup hstandby]
  have hboot := event_boot (((s.tookOver).emit (.resetPart 3 s.boot.hostPrimary)).setObj 0x5000 9 (1 - s.boot.hostPrimary)) 4 15 (1 - s.boot.hostPrimary)
  refine ⟨(congrArg Bring.hostPrimary hboot :), (congrArg Bring.hostsLost hboot :), ?_, event_parts ..⟩
  rw [event_obj _ _ _ _ (by decide) (by decide), setObj_obj_same, hsmall]

/-- A class whose verification is under way ends it with reason 6. -/
def ImgClass.interrupted (g : ImgClass) : ImgClass := if g.status = 2 then { g with status := 5, result := 0xA7, reason := 6 } else g

/-- The verification of a class under way ends. -/
def State.interrupt (s : State) (n : Nat) : State := if (s.img n).status = 2 then s.updImg n ImgClass.interrupted else s

theorem interrupt_img_same (s : State) (n : Nat) : (s.interrupt n).img n = (s.img n).interrupted := by
  unfold State.interrupt
  split
  · exact tab_look_put_same ..
  · exact (if_neg ‹_›).symm

theorem interrupt_img_ne (s : State) {n m : Nat} (hm : m ≠ n) : (s.interrupt n).img m = s.img m := by
  unfold State.interrupt
  split
  · exact tab_look_put_ne _ _ _ _ hm
  · rfl

theorem interrupt_same {β : Type} {P : State → β} (hsec : ∀ (s : State) sec, P { s with sec := sec } = P s) (s : State) (n : Nat) : P (s.interrupt n) = P s := by
  unfold State.interrupt
  split
  · exact hsec ..
  · rfl

theorem exec_sdFault (s : State) :
    exec .sdFault s = .next ((List.range 6).foldl State.interrupt ({ s with boot := { s.boot with sdFaulted := true } }.emit (.resetPart 7 0))) := by
  have hstep : (fun (t : State) n => if (t.img n).status = 2 then t.updImg n fun g => { g with status := 5, result := 0xA7, reason := 6 } else t) = State.interrupt := by
    funext t n
    unfold State.interrupt
    split
    next h => rw [State.updImg, State.updImg, ImgClass.interrupted, if_pos h]
    next => rfl
  change execSdFault s = _
  rw [← hstep]
  rfl

/-! ### The flush of a checkpoint (R405, R406) -/

/-- Of partitions, of a cluster's run, and of memory outside a slot's copies nothing has changed. -/
structure FlushKeeps (c slot : Nat) (s t : State) : Prop where
  parts : t.parts = s.parts
  run : (t.cl c).run = (s.cl c).run
  mem : ∀ a, ¬(slot + 0x4000 ≤ a ∧ a < slot + 0x1004000) → t.mem.byte a = s.mem.byte a

theorem readN_length (m : Memory) (a n : Nat) : (m.readN a n).length = n := by simp [Memory.readN]

theorem ckptRow_within {slot n row a : Nat} (hrow : row < 4096) (hlo : ckptRow slot (1 - n) row ≤ a) (hhi : a < ckptRow slot (1 - n) row + 2048) :
    slot + 0x4000 ≤ a ∧ a < slot + 0x1004000 := by
  unfold ckptRow at hlo hhi
  omega

theorem flushRow_parts (s : State) (c slot row : Nat) : (s.flushRow c slot row).parts = s.parts := by
  unfold State.flushRow
  rw [updCl_parts, store_parts, touch_parts]

/-- A change of the bits of flushed rows leaves the run. -/
theorem flushedBits_run (s : State) (c : Nat) (m : BitVec 4096) : ((s.updCl c fun cl => { cl with fl := cl.fl ||| m }).cl c).run = (s.cl c).run :=
  (congrArg Cluster.run (updCl_cl_same s c fun cl => { cl with fl := cl.fl ||| m }) :)

theorem flushRow_run (s : State) (c slot row : Nat) : ((s.flushRow c slot row).cl c).run = (s.cl c).run :=
  (flushedBits_run _ c _).trans ((calm_run (calm_store ..) c).trans (calm_run (calm_touch ..) c))

theorem flushRow_byte (s : State) (c slot : Nat) {row a : Nat} (hrow : row < 4096) (ha : ¬(slot + 0x4000 ≤ a ∧ a < slot + 0x1004000)) :
    (s.flushRow c slot row).mem.byte a = s.mem.byte a := by
  unfold State.flushRow
  dsimp only
  rw [updCl_mem, store_mem, touch_mem, memory_byte_writeN, readN_length]
  exact if_neg fun hin => ha (ckptRow_within hrow hin.1 hin.2)

theorem flushKeeps_flushRow (s : State) (c slot : Nat) {row : Nat} (hrow : row < 4096) : FlushKeeps c slot s (s.flushRow c slot row) :=
  ⟨flushRow_parts .., flushRow_run .., fun _ => flushRow_byte s c slot hrow⟩

theorem flushKeeps_foldl {c slot : Nat} {rows : List Nat} (hrows : ∀ r ∈ rows, r < 4096) (s : State) : FlushKeeps c slot s (rows.foldl (fun t r => t.flushRow c slot r) s) := by
  refine List.foldlRecOn rows _ ⟨rfl, rfl, fun _ _ => rfl⟩ fun t ht r hr => ?_
  obtain ⟨hparts, hrun, hmem⟩ := flushKeeps_flushRow t c slot (hrows r hr)
  exact ⟨hparts.trans ht.parts, hrun.trans ht.run, fun a ha => (hmem a ha).trans (ht.mem a ha)⟩

theorem flushRows_eq {c part role slot : Nat} (hrole : (s.cl c).role = some role) (hslot : s.ckptSlot role = some slot) :
    s.flushRows c part = ((rowsOfMask (Tab.look (s.cl c).carried 0 part &&& (s.cl c).wr &&& ~~~ (s.cl c).fl)).foldl (fun t r => t.flushRow c slot r) s).updCl c
      fun cl => { cl with sinceFlush := 0 } := by
  simp only [State.flushRows, hrole, hslot]

theorem checkpointFlush_spec {c role slot : Nat} {r : Run} (hrun : (s.cl c).run = some r) (hdue : max 1 (s.cfg 0x2120 1) ≤ (s.cl c).sinceFlush)
    (hrole : (s.cl c).role = some role) (hslot : s.ckptSlot role = some slot) : Runs (.checkpointFlush c) s fun t => (t.cl c).sinceFlush = 0 ∧ (t.cl c).run = some r ∧
      t.parts = s.parts ∧ ∀ a, ¬(slot + 0x4000 ≤ a ∧ a < slot + 0x1004000) → t.mem.byte a = s.mem.byte a := by
  have hexec : exec (.checkpointFlush c) s = .next (s.flushRows c r.part) := by
    change execCheckpointFlush c s = _
    simp only [execCheckpointFlush, hrun, if_pos hdue]
  have hkeeps := flushKeeps_foldl (c := c) (slot := slot) (rows := rowsOfMask (Tab.look (s.cl c).carried 0 r.part &&& (s.cl c).wr &&& ~~~ (s.cl c).fl))
    (fun k hk => List.mem_range.1 (List.mem_filter.1 hk).1) s
  rw [flushRows_eq hrole hslot] at hexec
  generalize (rowsOfMask _).foldl _ s = u at hexec hkeeps
  refine runs_next hexec ?_
  rw [updCl_cl_same]
  exact ⟨rfl, hkeeps.run.trans hrun, hkeeps.parts, hkeeps.mem⟩

end

/-- Settles O49: each loss by the lemma about the state it leaves (`dieLost_out`, `dieLost_dead`, `dieLost_geo`, `hubLost_spec`, `stackGone_spec`, `cxlPortLost`) with
`postRecord_joins` for its record, the host die by `hostLost_spec`, the security die by its `interrupt`s, and the flush by `flushKeeps_foldl`. -/
theorem losses : Obligations.Losses := by
  unfold Obligations.Losses
  intro s
  refine ⟨fun hl1 => ⟨fun d ok hin => ?_, fun c hactive hsecond => ?_, fun h _ hup => hubLost_spec hl1 hup, fun p => mirrorRebuilt_spec, fun m hin => ?_,
    fun x => cxlPortLost hl1, fun x hdown hhub => ⟨_, exec_cxlPortRetrained hdown hhub, rfl, rfl⟩⟩, fun hup hstandby => ?_, ?_, ⟨s, rfl, rfl⟩,
    fun c r role slot hrun hdue hrole hslot => checkpointFlush_spec hrun hdue hrole hslot⟩
  · obtain ⟨hfailed, hpos⟩ := dieLost_out (s := s) (cutOff := []) [] (List.mem_cons_self : d ∈ s.diesOut d ok [])
    exact ⟨s.dieLost d ok [], if_neg (by simp [hin]), dieLost_posts hl1 d ok [] [], hfailed, hpos, fun k hk hstat => dieLost_dead [] List.mem_cons_self hk hstat,
      fun p hp => dieLost_geo hl1 d ok [] [] hp⟩
  · exact ⟨s.dieLost (c / 17) true [], congrArg Host.Outcome.next (if_pos ⟨hactive, hsecond⟩), dieLost_posts hl1 _ true [] [],
      (dieLost_out [] (List.mem_cons_self : c / 17 ∈ s.diesOut (c / 17) true [])).1⟩
  · have hspec := stackLost_spec (s := s) m (atL1_stage.2 hl1)
    exact ⟨s.stackLost m, if_neg (by rw [hin]; exact Bool.false_ne_true), stackLost_posts hl1 m, hspec.1, hspec.2.1⟩
  · exact ⟨⟨s.hostLost, rfl, hostLost_spec hup hstandby⟩, fun ms hms => ⟨s.hostLost, if_pos hms, hostLost_spec hup hstandby⟩⟩
  · refine ⟨_, exec_sdFault s, ?_⟩
    have hkeep : ∀ {β : Type} {P : State → β}, (∀ (s : State) sec, P { s with sec := sec } = P s) → ∀ t : State, P ((List.range 6).foldl State.interrupt t) = P t :=
      fun hsec t => foldl_same (fun t n => interrupt_same hsec t n) _ t
    refine ⟨congrArg Bring.sdFaulted (hkeep (P := State.boot) (fun _ _ => rfl) _), hkeep (P := State.mem) (fun _ _ => rfl) _, hkeep (P := State.parts) (fun _ _ => rfl) _,
      hkeep (P := State.clusters) (fun _ _ => rfl) _, fun n hn => ?_⟩
    rw [foldl_each interrupt_img_same (fun t _ _ => interrupt_img_ne t) List.nodup_range, if_pos (List.mem_range.2 hn)]
    rfl

end Sys2Proof.Machine
end

section
/-! SUPPORT. Power capping, thermal levels, trips and cluster clocks (R428, R432, R433, R442 to R446), and the statement about them. -/

namespace Sys2Proof.Machine

section
variable {s t : State} {c : Nat}

/-! ### The level of every die (R444, R445) -/

/-- The floor plan's dies changed alike. -/
def State.eachDie (s : State) (f : Die → Die) : State := s.dieList.foldl (fun t d => t.updDie d f) s

theorem eachDie_same {β : Type} {P : State → β} (hdie : ∀ s d f, P (State.updDie s d f) = P s) (s : State) (f : Die → Die) : P (s.eachDie f) = P s :=
  foldl_same (P := P) (fun _ _ => hdie ..) _ s

theorem eachDie_die (s : State) (f : Die → Die) (hdies : (s.dies.map (·.1)).Nodup) {d : Nat} (hd : d ∈ s.dies.map (·.1)) : (s.eachDie f).die d = f (s.die d) := by
  unfold State.eachDie State.dieList
  rw [foldl_each (look := State.die) (fun t d => updDie_die_same t d f) (fun t d j hj => updDie_die_ne t d f j hj) hdies, if_pos hd]

/-- The power as sampled. -/
def State.sampled (s : State) (w : Nat) : State := State.drawn { s with power := { s.power with avgW := w, amps := s.freeW } }

theorem exec_powerCapControl_above {w : Nat} (h : s.effCap < w) :
    exec (.powerCapControl w) s = .next ((s.sampled w).eachDie fun x => { x with powerThrottle := min 7 (x.powerThrottle + 1) }) := if_pos h

theorem exec_powerCapControl_below {w : Nat} (h : ¬ s.effCap < w) (hlow : w * 100 ≤ s.effCap * 97) :
    exec (.powerCapControl w) s = .next ((s.sampled w).eachDie fun x => { x with powerThrottle := x.powerThrottle - 1 }) := (if_neg h).trans (if_pos hlow)

/-- A sample that moves the power level of every die leaves memory, partitions and clusters. -/
theorem sampled_eachDie (s : State) (w : Nat) (f : Die → Die) : let t := (s.sampled w).eachDie f
    t.mem = s.mem ∧ t.parts = s.parts ∧ t.clusters = s.clusters ∧ ((s.dies.map (·.1)).Nodup → ∀ d, d ∈ s.dies.map (·.1) → t.die d = f (s.die d)) :=
  ⟨eachDie_same (P := State.mem) (fun _ _ _ => rfl) .., eachDie_same (P := State.parts) (fun _ _ _ => rfl) .., eachDie_same (P := State.clusters) (fun _ _ _ => rfl) ..,
    fun hdies _ hd => eachDie_die (s.sampled w) f hdies hd⟩

/-! ### Temperatures and the coolant (R443, R445, R446) -/

/-- A temperature as it is kept. -/
def State.tempKept (s : State) (d : Nat) (x : Int) : State := { s with power := { s.power with temps := Tab.put s.power.temps 0 d x } }

/-- The coolant's sensors as they are kept. -/
def State.coolantKept (s : State) (i o : Int) (f : Nat) : State := { s with power := { s.power with inlet := i, outlet := o, flow := f } }

theorem exec_thermalSample {d : Nat} {x : Int} (hd : d < 64) (hcool : (s.tempKept d x).tripNow = 0) :
    exec (.thermalSample [(d, x)]) s = .next ((s.tempKept d x).updDie d fun y => { y with thermalThrottle := thermNext y.thermalThrottle x }) := by
  have happly : s.applyTemp (d, x) = (s.tempKept d x).updDie d fun y => { y with thermalThrottle := thermNext y.thermalThrottle x } := if_pos hd
  have hnone : (s.applyTemp (d, x)).tripNow = 0 := by rw [happly]; exact hcool
  have hexec : exec (.thermalSample [(d, x)]) s = .next (s.applyTemp (d, x)) := if_neg fun h => h.2 hnone
  rw [hexec, happly]

theorem exec_coolantSample {i o : Int} {f : Nat} (hcool : (s.coolantKept i o f).tripNow = 0) : exec (.coolantSample i o f) s = .next (s.coolantKept i o f) :=
  if_neg fun h => h.2 hcool

theorem exec_coolantSample_trip {i o : Int} {f k : Nat} (hrun : s.running = true) (hhot : (s.coolantKept i o f).tripNow = k) (hk : k ≠ 0) :
    exec (.coolantSample i o f) s = .next ((s.coolantKept i o f).trip k) := by
  have hexec : exec (.coolantSample i o f) s = .next ((s.coolantKept i o f).trip (s.coolantKept i o f).tripNow) := if_pos ⟨hrun, hhot ▸ hk⟩
  rw [hexec, hhot]

/-- With no temperature known an inlet at 50 °C is the cause. -/
theorem coolantKept_tripNow {i o : Int} {f : Nat} (htemps : s.power.temps = []) (hhot : 50000 ≤ i) : (s.coolantKept i o f).tripNow = 4 := by
  simp [State.tripNow, State.coolantKept, htemps, hhot]

/-! ### Cluster clocks (R432, R433) -/

theorem woken_closed (hpads : s.padsOpen = false) : s.woken c = s := if_pos (by simp [hpads])

theorem woken_open (hpll : (s.cl c).pll = false) (hactive : (s.cl c).stat = .active) (hpads : s.padsOpen = true) :
    s.woken c = (s.updCl c fun cl => { cl with pll := true }).bump 0x4801 1 1 := if_neg (by simp [hpll, hactive, hpads])

/-! What a cluster fault or the loss of its die leaves of the count of lost locks. -/

/-- The count of lost locks. -/
def State.lockFails (s : State) : Nat := s.obj 0x4801 2

theorem lockFails_of_dict (h : t.dict = s.dict) : t.lockFails = s.lockFails := obj_congr h 0x4801 2

theorem setObj_lockFails (s : State) {i j : Nat} (v : Nat) (h : objKey 0x4801 2 ≠ objKey i j) : (s.setObj i j v).lockFails = s.lockFails := setObj_obj_ne _ _ _ _ _ _ h

theorem stopEntry_lockFails (s : State) (p : Nat) (e : Entry) : (s.stopEntry p e).lockFails = s.lockFails := by
  have hclear : (s.clearEntry p e).lockFails = s.lockFails := by
    unfold State.clearEntry
    refine foldl_same (P := State.lockFails) (fun t k => ?_) _ s
    split
    · exact stopOn_obj (by decide) t k false
    · rfl
  unfold State.stopEntry
  split
  · exact (lockFails_of_dict rfl).trans hclear
  · exact (lockFails_of_dict rfl).trans hclear

theorem stopForRerun_lockFails (s : State) (p : Nat) (uses : Entry → Bool) : (s.stopForRerun p uses).lockFails = s.lockFails :=
  foldl_same (P := State.lockFails) (fun t e => stopEntry_lockFails t p e) _ _

theorem stopParts_lockFails (s : State) (uses : Nat → Entry → Bool) (freeze : Bool) : (s.stopParts uses freeze).1.lockFails = s.lockFails := by
  unfold State.stopParts
  refine foldl_same (P := State.lockFails) (fun t p => ?_) _ _
  have hstop := stopForRerun_lockFails t p fun _ => true
  dsimp only
  cases (t.pt p).commit <;> split
  · exact hstop
  · exact hstop
  · exact hstop
  · exact hstop

theorem noteRerun_lockFails (t s : State) (ps : List Nat) (dieLoss : Bool) : (t.noteRerun s ps dieLoss).lockFails = t.lockFails := by
  unfold State.noteRerun
  refine foldl_same (P := State.lockFails) (fun u p => ?_) ps t
  split
  · exact lockFails_of_dict (foldl_same (P := State.dict) (by intros; rfl) _ _)
  · rfl

theorem replaceMember_lockFails (s : State) (k : Nat) (r : Option Nat) : (s.replaceMember k r).lockFails = s.lockFails := by
  unfold State.replaceMember
  refine foldl_same (P := State.lockFails) (fun t p => ?_) _ _
  split
  · rfl
  · exact lockFails_of_dict rfl

theorem planChanged_lockFails (s : State) : s.planChanged.lockFails = s.lockFails := setObj_lockFails s _ (by decide)

theorem geoStep_lockFails (s : State) (p : Nat) : (s.geoStep p).lockFails = s.lockFails := by
  have hkey : objKey 0x4801 2 ≠ objKey 0x7801 (p + 1) := by simp only [objKey]; omega
  exact (event_obj _ _ _ _ (by decide) (by decide)).trans ((setObj_lockFails _ _ hkey).trans (lockFails_of_dict rfl))

theorem geoChanged_lockFails (s : State) : s.geoChanged.lockFails = s.lockFails := by
  unfold State.geoChanged
  split
  · rfl
  · refine (setObj_lockFails _ _ (by decide)).trans (foldl_same (P := State.lockFails) (fun t p => ?_) _ _)
    exact (lockFails_of_dict (foldl_same (P := State.dict) (by intros; rfl) _ _)).trans (geoStep_lockFails t p)

theorem postRecord_lockFails (s : State) (kind failed : Nat) (repl : Option Nat) (ps : List Nat) : (s.postRecord kind failed repl ps).lockFails = s.lockFails := by
  have hsub : ∀ k : Nat, objKey 0x4801 2 ≠ objKey 0x5000 k := fun k => by simp only [objKey]; omega
  unfold State.postRecord
  extract_lets no sub t₁ t₂ recov t₃ t₄
  have h₁ : t₁.lockFails = s.lockFails := by
    unfold t₁
    split
    · exact setObj_lockFails _ _ (hsub _)
    · rfl
  have h₂ : t₂.lockFails = s.lockFails := (lockFails_of_dict rfl).trans ((setObj_lockFails t₁ kind (hsub 8)).trans h₁)
  have h₄ : t₄.lockFails = s.lockFails := (foldl_same (P := State.lockFails) (by intros; exact lockFails_of_dict rfl) ps t₃).trans ((lockFails_of_dict rfl).trans h₂)
  have hmsi : ∀ irq, (t₄.msiFor irq).lockFails = t₄.lockFails := fun irq => by
    unfold State.msiFor
    dsimp only
    split
    · exact lockFails_of_dict rfl
    · rfl
  clear_value t₂ t₄
  split
  · exact h₂
  · split
    · exact (hmsi _).trans h₄
    · exact h₄

theorem exhaust_lockFails (s : State) : s.exhaust.lockFails = s.lockFails :=
  (lockFails_of_dict rfl).trans ((setObj_lockFails (s.bump 0x5000 5 1) 1 (by decide)).trans (setObj_lockFails s _ (by decide)))

theorem dieLost_lockFails (s : State) (die : Nat) (ok : Bool) (cutOff : List Nat) (also : List (Nat × Nat)) : (s.dieLost die ok cutOff also).lockFails = s.lockFails := by
  have hgoes : ∀ (t : State) d, (s.dieGoes die ok t d).lockFails = t.lockFails := fun t d => by
    unfold State.dieGoes
    rw [dieMarked_same (P := State.lockFails) (fun _ _ _ => lockFails_of_dict rfl) (fun _ _ => lockFails_of_dict rfl) (fun _ _ => lockFails_of_dict rfl),
      clustersLost_same (P := State.lockFails) (fun _ _ => lockFails_of_dict rfl) (fun _ _ _ => lockFails_of_dict rfl) replaceMember_lockFails]
  rw [dieLost_eq, postRecord_lockFails, noteRerun_lockFails, geoChanged_lockFails, planChanged_lockFails,
    renumber_same (P := State.lockFails) (fun _ _ _ => lockFails_of_dict rfl), State.diesMarked, foldl_same (P := State.lockFails) hgoes]
  exact stopParts_lockFails ..

theorem clusterFault_lockFails (s : State) (c : Nat) : (s.clusterFault c).lockFails = s.lockFails := by
  have hstop : ((s.stopParts (fun p e => s.entryUses p c e) false).1.noteRerun s (s.stopParts (fun p e => s.entryUses p c e) false).2).lockFails = s.lockFails := by
    rw [noteRerun_lockFails, stopParts_lockFails]
  unfold State.clusterFault
  dsimp only
  generalize (State.noteRerun _ _ _) = t at hstop ⊢
  split
  · rfl
  · rfl
  · exact (planChanged_lockFails _).trans (lockFails_of_dict rfl)
  · split
    · rw [postRecord_lockFails, planChanged_lockFails, replaceMember_lockFails]
      exact Eq.trans (lockFails_of_dict rfl) hstop
    · rw [postRecord_lockFails, geoChanged_lockFails, exhaust_lockFails, planChanged_lockFails, replaceMember_lockFails]
      exact Eq.trans (lockFails_of_dict rfl) hstop

theorem clusterFails_lockFails (s : State) (c : Nat) : (s.clusterFails c).lockFails = s.lockFails := by
  unfold State.clusterFails
  split
  · exact dieLost_lockFails ..
  · exact clusterFault_lockFails ..

/-- A spare that fails is failed. -/
theorem clusterFails_spare (h : (s.cl c).stat = .spare) : ((s.clusterFails c).cl c).stat = .failed := by
  have hfault : s.clusterFails c = s.clusterFault c := if_neg (by rw [h]; rintro ⟨h, -⟩; cases h)
  rw [hfault]
  unfold State.clusterFault
  dsimp only
  rw [h]
  dsimp only
  exact (congrArg Cluster.stat (updCl_cl_same s c fun cl => { cl with stat := .failed, role := none }) :)

end

/-- Settles O51: a sample of the power is `sampled_eachDie`, a temperature and the coolant are their commands' equations with `trip_spec` for a trip, and a lost lock
is `clusterFails_stat` or `clusterFails_spare` with `clusterFails_lockFails`. -/
theorem throttling : Obligations.Throttling := by
  unfold Obligations.Throttling
  intro s
  refine ⟨fun w h => ⟨_, exec_powerCapControl_above h, sampled_eachDie ..⟩, fun w h hlow => ⟨_, exec_powerCapControl_below h hlow, sampled_eachDie ..⟩,
    fun d x hd hcool => runs_next (exec_thermalSample hd hcool) ⟨rfl, rfl, rfl, updDie_die_same .., fun e he => updDie_die_ne _ _ _ _ he⟩,
    fun i o f hcool => ⟨_, exec_coolantSample hcool, rfl⟩, fun i o f hrun hhot htemps => ?_, fun hrun hflow => ?_, fun c => ⟨fun us hpll hidle hdelay => ?_, fun hpads => ?_,
      fun hpll hactive hpads => ?_, fun hstat => ?_⟩⟩
  · exact ⟨_, exec_coolantSample_trip hrun (coolantKept_tripNow htemps hhot) (by decide), trip_spec _ 4⟩
  · exact ⟨s.trip 6, if_pos ⟨hrun, hflow⟩, trip_spec s 6⟩
  · exact ⟨_, if_pos ⟨hpll, hidle, hdelay⟩, rfl⟩
  · exact congrArg Host.Outcome.next (woken_closed hpads)
  · refine runs_next (congrArg Host.Outcome.next (woken_open hpll hactive hpads)) ⟨updCl_cl_same s c fun cl => { cl with pll := true }, bump_obj_same .., rfl, rfl,
      fun d hd => updCl_cl_ne s c (fun cl => { cl with pll := true }) d hd⟩
  · refine ⟨(s.bump 0x4801 2 1).clusterFails c, rfl, ?_, (clusterFails_lockFails (s.bump 0x4801 2 1) c).trans (bump_obj_same ..)⟩
    rcases hstat with h | h
    · exact clusterFails_stat (s.bump 0x4801 2 1) c h
    · exact clusterFails_spare (s := s.bump 0x4801 2 1) h

end Sys2Proof.Machine
end

section
/-! SUPPORT. The SPDM responder (R450, R458, R460, R464): what each request does to its connection, how its answer leaves, and the statement about the exchange. -/

namespace Sys2Proof.Machine

/-! ### What a request does -/

section
variable {s : State} {sess code : Nat} {m f : List Byte}

theorem spdmVersion_begins (h : m.head? = some 0x10) : s.spdmVersion sess m = (s.updSpdm sess fun _ => { version := 1 }, spdmSay 0x04 [] m) := if_pos h
theorem spdmVersion_mismatch (h : m.head? ≠ some 0x10) : s.spdmVersion sess m = (s, spdmErr 0x41 m) := if_neg h

theorem spdmCapabilities_early (h : (s.spdmOf sess).version = 0) : s.spdmCapabilities sess m = (s, spdmErr 0x04 m) := if_pos h

theorem spdmCapabilities_mismatch (h : (s.spdmOf sess).version ≠ 0) (hspeaks : (s.spdmOf sess).speaks m = false) : s.spdmCapabilities sess m = (s, spdmErr 0x41 m) :=
  (if_neg h).trans (if_pos (by rw [hspeaks]; rfl))

theorem spdmCapabilities_chooses (h : (s.spdmOf sess).version ≠ 0) (hspeaks : (s.spdmOf sess).speaks m = true) :
    s.spdmCapabilities sess m = (s.updSpdm sess fun x => { x with version := 2, ver := m.head?.getD 0 }, spdmSay 0x61 [] m) :=
  (if_neg h).trans (if_neg (by rw [hspeaks]; decide))

theorem spdmAlgorithms_early (h : (s.spdmOf sess).version < 2) : s.spdmAlgorithms sess m = (s, spdmErr 0x04 m) := if_pos h

theorem spdmAlgorithms_mismatch (h : 2 ≤ (s.spdmOf sess).version) (hspeaks : (s.spdmOf sess).speaks m = false) : s.spdmAlgorithms sess m = (s, spdmErr 0x41 m) :=
  (if_neg (Nat.not_lt.2 h)).trans (if_pos (by rw [hspeaks]; rfl))

theorem spdmAlgorithms_agrees (h : 2 ≤ (s.spdmOf sess).version) (hspeaks : (s.spdmOf sess).speaks m = true) :
    s.spdmAlgorithms sess m = (s.updSpdm sess fun x => { x with algos := true }, spdmSay 0x63 [] m) :=
  (if_neg (Nat.not_lt.2 h)).trans (if_neg (by rw [hspeaks]; decide))

theorem spdmAfter_mismatch (hspeaks : (s.spdmOf sess).speaks m = false) : s.spdmAfter sess m f = (s, spdmErr 0x41 m) :=
  congrArg (Prod.mk s) (if_pos (by rw [hspeaks]; rfl))

theorem spdmAfter_early (hspeaks : (s.spdmOf sess).speaks m = true) (halgos : (s.spdmOf sess).algos = false) : s.spdmAfter sess m f = (s, spdmErr 0x04 m) :=
  congrArg (Prod.mk s) ((if_neg (by rw [hspeaks]; decide)).trans (if_neg (ne_true_of_eq_false halgos)))

theorem spdmAfter_answers (hspeaks : (s.spdmOf sess).speaks m = true) (halgos : (s.spdmOf sess).algos = true) : s.spdmAfter sess m f = (s, f) :=
  congrArg (Prod.mk s) ((if_neg (by rw [hspeaks]; decide)).trans (if_pos halgos))

variable {ok : Spdm → Bool} {g : Spdm → Spdm}

theorem spdmSecured_mismatch (hspeaks : (s.spdmOf sess).speaks m = false) : s.spdmSecured sess code m ok g = (s, spdmErr 0x41 m) := if_pos (by rw [hspeaks]; rfl)

theorem spdmSecured_early (hspeaks : (s.spdmOf sess).speaks m = true) (hok : ok (s.spdmOf sess) = false) : s.spdmSecured sess code m ok g = (s, spdmErr 0x04 m) :=
  (if_neg (by rw [hspeaks]; decide)).trans (if_neg (ne_true_of_eq_false hok))

theorem spdmSecured_goesOn (hspeaks : (s.spdmOf sess).speaks m = true) (hok : ok (s.spdmOf sess) = true) :
    s.spdmSecured sess code m ok g = (s.updSpdm sess g, spdmSay code [] m) := (if_neg (by rw [hspeaks]; decide)).trans (if_pos hok)

section
variable (hspeaks : (s.spdmOf sess).speaks m = false)
include hspeaks

theorem spdmFinish_mismatch : s.spdmFinish sess m = (s, spdmErr 0x41 m) := spdmSecured_mismatch hspeaks
theorem spdmHeartbeat_mismatch : s.spdmHeartbeat sess m = (s, spdmErr 0x41 m) := spdmSecured_mismatch hspeaks
theorem spdmKeyUpdate_mismatch : s.spdmKeyUpdate sess m = (s, spdmErr 0x41 m) := spdmSecured_mismatch hspeaks
theorem spdmEnd_mismatch : s.spdmEnd sess m = (s, spdmErr 0x41 m) := spdmSecured_mismatch hspeaks

end

theorem spdmFinish_early (hspeaks : (s.spdmOf sess).speaks m = true) (h : (s.spdmOf sess).opening = 0) : s.spdmFinish sess m = (s, spdmErr 0x04 m) :=
  spdmSecured_early hspeaks (by rw [h]; rfl)

theorem spdmFinish_secures (hspeaks : (s.spdmOf sess).speaks m = true) (h : (s.spdmOf sess).opening ≠ 0) :
    s.spdmFinish sess m = (s.updSpdm sess fun x => { x with opening := x.opening - 1, secured := x.secured + 1 }, spdmSay 0x65 [] m) :=
  spdmSecured_goesOn hspeaks (bne_iff_ne.2 h)

section
variable (hspeaks : (s.spdmOf sess).speaks m = true) (h : (s.spdmOf sess).secured = 0)
include hspeaks h

theorem spdmHeartbeat_early : s.spdmHeartbeat sess m = (s, spdmErr 0x04 m) := spdmSecured_early hspeaks (by rw [h]; rfl)
theorem spdmKeyUpdate_early : s.spdmKeyUpdate sess m = (s, spdmErr 0x04 m) := spdmSecured_early hspeaks (by rw [h]; rfl)
theorem spdmEnd_early : s.spdmEnd sess m = (s, spdmErr 0x04 m) := spdmSecured_early hspeaks (by rw [h]; rfl)

end

section
variable (hspeaks : (s.spdmOf sess).speaks m = true) (h : (s.spdmOf sess).secured ≠ 0)
include hspeaks h

theorem spdmHeartbeat_answers : s.spdmHeartbeat sess m = (s.updSpdm sess id, spdmSay 0x68 [] m) := spdmSecured_goesOn hspeaks (bne_iff_ne.2 h)
theorem spdmKeyUpdate_answers : s.spdmKeyUpdate sess m = (s.updSpdm sess id, spdmSay 0x69 [] m) := spdmSecured_goesOn hspeaks (bne_iff_ne.2 h)

theorem spdmEnd_ends : s.spdmEnd sess m = (s.updSpdm sess fun x => { x with secured := x.secured - 1 }, spdmSay 0x6C [] m) :=
  spdmSecured_goesOn hspeaks (bne_iff_ne.2 h)

end

theorem signing_iff : (s.atL1 && !s.sec.keysGone) = true ↔ s.atL1 = true ∧ (!s.sec.keysGone) = true := by rw [Bool.and_eq_true]

/-- The state signs: L1 is reached and the attestation key is there. -/
theorem spdmSigned_signs (h : (s.atL1 && !s.sec.keysGone) = true) : s.spdmSigned code f m = spdmSay code (s.signedBy f m) m :=
  if_pos (signing_iff.1 h)

theorem spdmSigned_notReady (h : (s.atL1 && !s.sec.keysGone) = false) : s.spdmSigned code f m = spdmErr 0x42 m :=
  if_neg fun hand => ne_true_of_eq_false h (signing_iff.2 hand)

theorem spdmKeyExchange_mismatch (hspeaks : (s.spdmOf sess).speaks m = false) : s.spdmKeyExchange sess m = (s, spdmErr 0x41 m) := if_pos (by rw [hspeaks]; rfl)

theorem spdmKeyExchange_early (hspeaks : (s.spdmOf sess).speaks m = true) (halgos : (s.spdmOf sess).algos = false) :
    s.spdmKeyExchange sess m = (s, spdmErr 0x04 m) := (if_neg (by rw [hspeaks]; decide)).trans (if_pos (by rw [halgos]; rfl))

section
variable (hspeaks : (s.spdmOf sess).speaks m = true) (halgos : (s.spdmOf sess).algos = true)
include hspeaks halgos

theorem spdmKeyExchange_full (hfull : 4 ≤ s.spdmSessions) : s.spdmKeyExchange sess m = (s, spdmErr 0x0A m) :=
  (if_neg (by rw [hspeaks]; decide)).trans ((if_neg (by rw [halgos]; decide)).trans (if_pos hfull))

theorem spdmKeyExchange_notReady (hroom : s.spdmSessions < 4) (h : (s.atL1 && !s.sec.keysGone) = false) : s.spdmKeyExchange sess m = (s, spdmErr 0x42 m) :=
  (if_neg (by rw [hspeaks]; decide)).trans ((if_neg (by rw [halgos]; decide)).trans ((if_neg (Nat.not_le.2 hroom)).trans
    (if_neg fun hand => ne_true_of_eq_false h (signing_iff.2 hand))))

theorem spdmKeyExchange_opens (hroom : s.spdmSessions < 4) (h : (s.atL1 && !s.sec.keysGone) = true) : s.spdmKeyExchange sess m =
    (s.updSpdm sess fun x => { x with opening := x.opening + 1 }, spdmSay 0x64 (s.signedBy (s.spdmChain ++ s.measBlocks) m) m) := by
  rw [← spdmSigned_signs h]
  exact (if_neg (by rw [hspeaks]; decide)).trans ((if_neg (by rw [halgos]; decide)).trans ((if_neg (Nat.not_le.2 hroom)).trans (if_pos (signing_iff.1 h))))

end

theorem updSpdm_spdmOf_same (s : State) (sess : Nat) (g : Spdm → Spdm) : (s.updSpdm sess g).spdmOf sess = g (s.spdmOf sess) := tab_look_put_same ..
theorem updSpdm_spdmOf_ne (s : State) (g : Spdm → Spdm) {n : Nat} (h : n ≠ sess) : (s.updSpdm sess g).spdmOf n = s.spdmOf n := tab_look_put_ne _ _ _ _ h

end

/-! ### How an answer leaves (R468, R472) -/

section
variable {s z : State} {path : MdpPath} {u : MdpUnit} {req : Nat} {i : Instr} {data : List Byte}

/-- What the responder knows does not depend on the counting of a unit. -/
theorem unitCounted_sec (s : State) (path : MdpPath) : (s.unitCounted path).sec = s.sec := by cases path <;> rfl
theorem unitCounted_boot (s : State) (path : MdpPath) : (s.unitCounted path).boot = s.boot := by cases path <;> rfl
theorem unitCounted_spdmChain (s : State) (path : MdpPath) : (s.unitCounted path).spdmChain = s.spdmChain := by cases path <;> rfl
theorem unitCounted_measBlocks (s : State) (path : MdpPath) : (s.unitCounted path).measBlocks = s.measBlocks := by cases path <;> rfl

/-- An SPDM request that arrives whole, new and well formed is answered once; of the module nothing changes but the responder and the dictionary's counters. -/
theorem spdm_answered (hi : exec i s = .next (s.mdpArrive path (spdmOp req) u)) (hsd : s.boot.sdFaulted = false) (hup : s.mdpUp (pathSess path) = true)
    (harr : MdpArrives s path u) (hmac : s.mac = []) (hroom : s.mdpRoom u = true) (hfresh : (s.sess (pathSess path)).kept.find? (fun k => k.1.reqId == u.reqId) = none)
    (hgood : badUnit (pathSess path) 8 u = false) (hdo : (s.unitCounted path).spdmDo (pathSess path) req u.data = (z, data))
    (hz : ∃ sec, z = { s.unitCounted path with sec := sec }) :
    Runs i s fun v => v.mem = s.mem ∧ v.parts = s.parts ∧ v.clusters = s.clusters ∧ v.sec = z.sec ∧
      v.out = s.out ++ [mdpOut (BitVec.ofNat 8 (s.obj 0x1101 1)) (pathSess path) (respond u { res := rcOk, data := data.take (unitMax (pathSess path)) })] := by
  have hc := unitCounted_counted s path
  have hreq : (8 + 256 * req) / 256 = req := by omega
  have hop : spdmOp req % 256 = 8 := by unfold spdmOp; omega
  have hdoes : (s.unitCounted path).doOp (pathSess path) (spdmOp req) u = (z, { res := rcOk, data := data.take (unitMax (pathSess path)) }) := by
    have hspdm : (s.unitCounted path).doOp (pathSess path) (spdmOp req) u = (s.unitCounted path).doSpdm (pathSess path) req u := by
      unfold State.doOp spdmOp
      split
      case h_5 => rw [hreq]
      all_goals omega
    rw [hspdm, State.doSpdm, unitCounted_boot, if_neg (ne_true_of_eq_false hsd), hdo]
  have hsess : (s.unitCounted path).sess (pathSess path) = s.sess (pathSess path) := dictCounted_sess hc _
  obtain ⟨v, ⟨d, rfl⟩, -, -, heq⟩ := request_new (s := s.unitCounted path) (op := spdmOp req % 256) (f := fun t => t.doOp (pathSess path) (spdmOp req) u)
    (by rw [hsess]; exact hfresh) ((if_neg (by rw [hop, hgood]; exact Bool.false_ne_true)).trans hdoes)
  rw [mdpArrive_served hup harr hmac hroom, heq, unitCounted_addr] at hi
  obtain ⟨sec, rfl⟩ := hz
  obtain ⟨⟨d', hd'⟩, -, -, -⟩ := hc
  rw [hd'] at hi ⊢
  exact ⟨_, hi, rfl, rfl, rfl, rfl, rfl⟩

end

/-- Settles O58: every request is one of the responder's equations above, and `spdm_answered` sends its answer. -/
theorem spdmExchange : Obligations.SpdmExchange := by
  unfold Obligations.SpdmExchange
  intro s path u sess m arrives hsd hup harr hmac hroom hfresh hgood sent x gives errs signs slot0 asks secured
  have harrives : MdpArrives s path u := by cases path <;> exact harr
  have hx : x = (s.unitCounted path).spdmOf sess := congrArg (fun sec : Sec => Tab.look sec.spdm {} sess) (unitCounted_sec s path).symm
  have hsame : ∀ n, (s.unitCounted path).spdmOf n = s.spdmOf n := fun n => congrArg (fun sec : Sec => Tab.look sec.spdm {} n) (unitCounted_sec s path)
  have hsigns : signs = ((s.unitCounted path).atL1 && !(s.unitCounted path).sec.keysGone) := by rw [State.atL1, unitCounted_boot, unitCounted_sec]; rfl
  have hsigned : ∀ f, s.signedBy f m = (s.unitCounted path).signedBy f m := fun f => by rw [State.signedBy, State.signedBy, unitCounted_sec]
  have hsessions : s.spdmSessions = (s.unitCounted path).spdmSessions := by rw [State.spdmSessions, State.spdmSessions, unitCounted_sec]
  have hsays : ∀ {i req data}, exec i s = .next (s.mdpArrive path (spdmOp req) u) → (s.unitCounted path).spdmDo sess req m = (s.unitCounted path, data) →
      gives i data ((s.unitCounted path).spdmOf sess) := fun hi hdo => by
    obtain ⟨v, hv, hmem, hparts, hcl, hsec, hout⟩ := spdm_answered hi hsd hup harrives hmac hroom hfresh hgood hdo ⟨_, rfl⟩
    have hof : ∀ n, v.spdmOf n = (s.unitCounted path).spdmOf n := fun n => congrArg (fun sec : Sec => Tab.look sec.spdm {} n) hsec
    exact ⟨v, hv, hmem, hparts, hcl, hof sess, fun n _ => (hof n).trans (hsame n), hout⟩
  have hmoves : ∀ {i data} req (g : Spdm → Spdm), exec i s = .next (s.mdpArrive path (spdmOp req) u) →
      (s.unitCounted path).spdmDo sess req m = ((s.unitCounted path).updSpdm sess g, data) → gives i data (g ((s.unitCounted path).spdmOf sess)) := fun {i data} req g hi hdo => by
    obtain ⟨v, hv, hmem, hparts, hcl, hsec, hout⟩ := spdm_answered hi hsd hup harrives hmac hroom hfresh hgood hdo ⟨_, rfl⟩
    have hof : ∀ n, v.spdmOf n = ((s.unitCounted path).updSpdm sess g).spdmOf n := fun n => congrArg (fun sec : Sec => Tab.look sec.spdm {} n) hsec
    exact ⟨v, hv, hmem, hparts, hcl, (hof sess).trans (updSpdm_spdmOf_same ..), fun n hn => (hof n).trans ((updSpdm_spdmOf_ne _ g hn).trans (hsame n)), hout⟩
  have herrs : ∀ {i req code}, exec i s = .next (s.mdpArrive path (spdmOp req) u) → (s.unitCounted path).spdmDo sess req m = (s.unitCounted path, spdmErr code m) →
      errs i code := fun {i req code} hi hdo => by
    have h := hsays hi hdo
    rw [← hx] at h
    exact h
  clear_value gives errs
  rw [hx, hsigns, hsessions, hsigned, hsigned, ← unitCounted_spdmChain s path, ← unitCounted_measBlocks s path]
  generalize s.unitCounted path = t at *
  refine ⟨fun h => hmoves 0x84 (fun _ => { version := 1 }) rfl (spdmVersion_begins h), fun h => herrs rfl (spdmVersion_mismatch h),
    fun h => herrs rfl (spdmCapabilities_early h), fun h => herrs rfl (spdmAlgorithms_early h), fun hspeaks => ?mismatch, fun hspeaks => ?speaks⟩
  case mismatch =>
    refine ⟨fun h => herrs rfl (spdmCapabilities_mismatch h hspeaks), fun h => herrs rfl (spdmAlgorithms_mismatch h hspeaks), ?_⟩
    simp only [asks, secured, List.cons_append, List.nil_append, List.forall_mem_cons, List.not_mem_nil, false_imp_iff, implies_true, and_true]
    exact ⟨herrs rfl (spdmAfter_mismatch hspeaks), herrs rfl (spdmAfter_mismatch hspeaks), herrs rfl (spdmAfter_mismatch hspeaks), herrs rfl (spdmAfter_mismatch hspeaks),
      herrs rfl (spdmKeyExchange_mismatch hspeaks), herrs rfl (spdmFinish_mismatch hspeaks), herrs rfl (spdmHeartbeat_mismatch hspeaks),
      herrs rfl (spdmKeyUpdate_mismatch hspeaks), herrs rfl (spdmEnd_mismatch hspeaks)⟩
  case speaks =>
    refine ⟨fun h => hmoves 0xE1 (fun x => { x with version := 2, ver := m.head?.getD 0 }) rfl (spdmCapabilities_chooses h hspeaks),
      fun h => hmoves 0xE3 (fun x => { x with algos := true }) rfl (spdmAlgorithms_agrees h hspeaks), fun halgos => ?early, fun halgos => ?agreed,
      fun h => herrs rfl (spdmFinish_early hspeaks h),
      fun h => hmoves 0xE5 (fun x => { x with opening := x.opening - 1, secured := x.secured + 1 }) rfl (spdmFinish_secures hspeaks h), fun h => ?unsecured,
      fun h => ⟨hmoves 0xE8 id rfl (spdmHeartbeat_answers hspeaks h), hmoves 0xE9 id rfl (spdmKeyUpdate_answers hspeaks h),
        hmoves 0xEC (fun x => { x with secured := x.secured - 1 }) rfl (spdmEnd_ends hspeaks h)⟩⟩
    case early =>
      simp only [asks, List.forall_mem_cons, List.not_mem_nil, false_imp_iff, implies_true, and_true]
      exact ⟨herrs rfl (spdmAfter_early hspeaks halgos), herrs rfl (spdmAfter_early hspeaks halgos), herrs rfl (spdmAfter_early hspeaks halgos),
        herrs rfl (spdmAfter_early hspeaks halgos), herrs rfl (spdmKeyExchange_early hspeaks halgos)⟩
    case unsecured =>
      simp only [secured, List.tail_cons, List.forall_mem_cons, List.not_mem_nil, false_imp_iff, implies_true, and_true]
      exact ⟨herrs rfl (spdmHeartbeat_early hspeaks h), herrs rfl (spdmKeyUpdate_early hspeaks h), herrs rfl (spdmEnd_early hspeaks h)⟩
    case agreed =>
      have hask : ∀ {i data} req f, exec i s = .next (s.mdpArrive path (spdmOp req) u) → t.spdmDo sess req m = t.spdmAfter sess m f → f = data → gives i data (t.spdmOf sess) :=
        fun req f hi hdo hf => hf ▸ hsays hi (hdo.trans (spdmAfter_answers hspeaks halgos))
      have hrefuse : ∀ {i code} req f, exec i s = .next (s.mdpArrive path (spdmOp req) u) → t.spdmDo sess req m = t.spdmAfter sess m f → f = spdmErr code m → errs i code :=
        fun req f hi hdo hf => herrs hi (hf ▸ hdo.trans (spdmAfter_answers hspeaks halgos))
      have hslot : ∀ {a b : List Byte}, slot0 → (if bits (m.getD 2 0).toNat 0 4 = 0 then a else b) = a := fun h => if_pos h
      have hother : ∀ {a b : List Byte}, ¬slot0 → (if bits (m.getD 2 0).toNat 0 4 = 0 then a else b) = b := fun h => if_neg h
      refine ⟨hask 0x81 _ rfl rfl rfl, fun h => hask 0x82 _ rfl rfl (hslot h), fun h => ⟨hrefuse 0x82 _ rfl rfl (hother h), hrefuse 0x83 _ rfl rfl (hother h)⟩,
        fun h => hask 0xE0 _ rfl rfl (if_neg (ne_true_of_eq_false h)), fun hsig => ?signs, fun hsig => ?unready, fun hfull => herrs rfl (spdmKeyExchange_full hspeaks halgos hfull)⟩
      case signs =>
        exact ⟨fun h => hask 0x83 _ rfl rfl ((hslot h).trans (spdmSigned_signs hsig)), fun h => hask 0xE0 _ rfl rfl ((if_pos h).trans (spdmSigned_signs hsig)),
          fun hfew => hmoves 0xE4 (fun x => { x with opening := x.opening + 1 }) rfl (spdmKeyExchange_opens hspeaks halgos hfew hsig)⟩
      case unready =>
        exact ⟨fun h => hrefuse 0x83 _ rfl rfl ((hslot h).trans (spdmSigned_notReady hsig)), fun h => hrefuse 0xE0 _ rfl rfl ((if_pos h).trans (spdmSigned_notReady hsig)),
          fun hfew => herrs rfl (spdmKeyExchange_notReady hspeaks halgos hfew hsig)⟩

end Sys2Proof.Machine
end

section
/-! SUPPORT. The security die (R420, R454 to R457, R459, R462, R464 to R466, R489): leaves and certificates, reports, image slots, revocations and anchors, debug
tokens, handshakes, and the statement about them. -/

namespace Sys2Proof.Machine

section
variable {s t u : State}

/-! ### Leaves of the device HSS key (R455, R456) -/

theorem onlySec_refl (s : State) : OnlySec s s := ⟨s.sec, rfl⟩

theorem onlySec_trans (h : OnlySec s t) (h' : OnlySec t u) : OnlySec s u := by
  obtain ⟨_, rfl⟩ := h
  obtain ⟨x, rfl⟩ := h'
  exact ⟨x, rfl⟩

/-- Leaves lost so far; none below a bound is in use again, and none at or above Q is used. -/
def Sec.leaves (lost low : Nat) (x : Sec) : Prop := x.lost = lost ∧ low ≤ x.q ∧ x.q ≤ x.bound

section
variable {lost low : Nat}

theorem onlySec_openBlock (s : State) : OnlySec s s.openBlock := by
  unfold State.openBlock
  split
  · exact onlySec_refl s
  · split <;> exact ⟨_, rfl⟩

/-- Where a block is opened, signing has ended or a leaf lies below Q. -/
theorem openBlock_usable (s : State) (h : s.sec.leaves lost low) : s.openBlock.sec.leaves lost low ∧ (s.openBlock.sec.exhausted = true ∨ s.openBlock.sec.q < s.openBlock.sec.bound) := by
  obtain ⟨hlost, hlow, hbound⟩ := h
  unfold State.openBlock
  split
  next hready => exact ⟨⟨hlost, hlow, hbound⟩, hready.symm⟩
  next =>
    split
    · exact ⟨⟨hlost, hlow, hbound⟩, .inl rfl⟩
    · exact ⟨⟨hlost, hlow, Nat.le_add_right_of_le hbound⟩, .inr (Nat.lt_of_le_of_lt hbound (Nat.lt_add_of_pos_right (by decide)))⟩

theorem onlySec_certify (s : State) (key : List Byte) (old : Option (List Byte × Nat)) : OnlySec s (s.certify key old).1 := by
  unfold State.certify
  dsimp only
  split
  · exact onlySec_refl s
  · split
    · exact onlySec_openBlock s
    · exact onlySec_trans (onlySec_openBlock s) ⟨_, rfl⟩

theorem certify_leaves (s : State) (key : List Byte) (old : Option (List Byte × Nat)) (h : s.sec.leaves lost low) : (s.certify key old).1.sec.leaves lost low := by
  obtain ⟨⟨hlost, hlow, hbound⟩, husable⟩ := openBlock_usable s h
  unfold State.certify
  dsimp only
  split
  · exact h
  · split
    · exact ⟨hlost, hlow, hbound⟩
    next hgoes => exact ⟨hlost, Nat.le_add_right_of_le hlow, husable.resolve_left hgoes⟩

theorem onlySec_deriveMgmt (s : State) : OnlySec s s.deriveMgmt := by
  unfold State.deriveMgmt
  split
  · exact onlySec_refl s
  · exact ⟨_, rfl⟩

theorem onlySec_deriveAtt (s : State) : OnlySec s s.deriveAtt := by
  unfold State.deriveAtt
  split
  · exact onlySec_refl s
  · exact ⟨_, rfl⟩

theorem deriveMgmt_leaves (s : State) (h : s.sec.leaves lost low) : s.deriveMgmt.sec.leaves lost low := by
  unfold State.deriveMgmt
  split
  · exact h
  · exact h

theorem deriveAtt_leaves (s : State) (h : s.sec.leaves lost low) : s.deriveAtt.sec.leaves lost low := by
  unfold State.deriveAtt
  split
  · exact h
  · exact h

theorem onlySec_issueMgmt (s : State) : OnlySec s s.issueMgmt := onlySec_trans (onlySec_trans (onlySec_deriveMgmt s) (onlySec_certify ..)) ⟨_, rfl⟩
theorem onlySec_issueAtt (s : State) : OnlySec s s.issueAtt := onlySec_trans (onlySec_trans (onlySec_deriveAtt s) (onlySec_certify ..)) ⟨_, rfl⟩

theorem issueMgmt_leaves (s : State) (h : s.sec.leaves lost low) : s.issueMgmt.sec.leaves lost low := certify_leaves _ _ s.sec.mgmtCert (deriveMgmt_leaves s h)
theorem issueAtt_leaves (s : State) (h : s.sec.leaves lost low) : s.issueAtt.sec.leaves lost low := certify_leaves _ _ s.sec.attCert (deriveAtt_leaves s h)

end

/-- The security die as it starts again. -/
def State.sdAgain (s : State) : State := { s.sdStart with boot := { s.boot with sdFaulted := false } }

/-- With the keys of the stage certified anew. -/
def State.sdIssued (t : State) : State := if t.boot.stage = .off ∨ t.boot.stage = .charged then t else t.issueMgmt

theorem exec_sdRestart (s : State) : exec .sdRestart s = .next (if s.sdAgain.sdIssued.atL1 then s.sdAgain.sdIssued.issueAtt else s.sdAgain.sdIssued) := rfl

theorem sdAgain_leaves (s : State) : s.sdAgain.sec.leaves (s.sec.lost + (s.sec.bound - s.sec.q)) s.sec.bound := ⟨rfl, le_refl _, le_refl _⟩

theorem onlySec_sdIssued (t : State) : OnlySec t t.sdIssued := by
  unfold State.sdIssued
  split
  · exact onlySec_refl t
  · exact onlySec_issueMgmt t

theorem sdIssued_leaves {lost low : Nat} (t : State) (h : t.sec.leaves lost low) : t.sdIssued.sec.leaves lost low := by
  unfold State.sdIssued
  split
  · exact h
  · exact issueMgmt_leaves t h

/-- Before L0 nothing is certified. -/
theorem sdIssued_early (h : t.boot.stage = .off ∨ t.boot.stage = .charged) : t.sdIssued = t ∧ t.atL1 = false := by
  refine ⟨if_pos h, ?_⟩
  rcases h with h | h <;> simp [State.atL1, h]

/-- A restart changes nothing but the security die once it runs again, uses none of the leaves that were open, and certifies nothing before L0. -/
theorem sdRestart_ends (s : State) : ∃ t, exec .sdRestart s = .next t ∧ OnlySec s.sdAgain t ∧ t.sec.leaves (s.sec.lost + (s.sec.bound - s.sec.q)) s.sec.bound ∧
    (s.boot.stage = .off ∨ s.boot.stage = .charged → t = s.sdAgain) := by
  have honly := onlySec_sdIssued s.sdAgain
  have hleaves := sdIssued_leaves s.sdAgain (sdAgain_leaves s)
  refine ⟨_, exec_sdRestart s, ?_⟩
  split
  next hl1 =>
    refine ⟨onlySec_trans honly (onlySec_issueAtt _), issueAtt_leaves _ hleaves, fun hearly => absurd hl1 ?_⟩
    obtain ⟨hsame, hlow⟩ := sdIssued_early (t := s.sdAgain) hearly
    rw [hsame, hlow]
    exact Bool.false_ne_true
  next => exact ⟨honly, hleaves, fun hearly => (sdIssued_early (t := s.sdAgain) hearly).1⟩

/-! ### Reports (R459) -/

/-- The next leaf is used. -/
def Sec.leafUsed (x : Sec) : Sec :=
  { x with
    q := x.q + 1, topBound := max x.topBound ((x.q + 1) / 2 ^ 20 + if 2 ^ 19 ≤ (x.q + 1) % 2 ^ 20 then 2 else 1)
    exhausted := decide (2 ^ 40 ≤ x.q + 1) || (decide (6400000 ≤ x.ringUsed) && decide (x.bound ≤ x.q + 1)) }

theorem canReport_signs (h : s.canReport = true) : s.sec.exhausted = false := by
  simp only [State.canReport, Bool.and_eq_true, Bool.not_eq_true'] at h
  exact h.2

theorem leafAt_next (h : s.sec.exhausted = false) : s.leafAt (s.sec.q + 1) = { s with sec := s.sec.leafUsed } := by
  rw [State.leafAt, h, Bool.false_or]
  rfl

theorem exec_attestationReportRead_ended {sess : Nat} (hcan : s.canReport = true) (hend : s.openBlock.sec.exhausted = true) :
    exec (.attestationReportRead sess) s = .next s.openBlock := (if_neg (by rw [hcan]; decide)).trans (if_pos hend)

/-- A report uses the next leaf and is latched for its session. -/
theorem exec_attestationReportRead {sess : Nat} (hcan : s.canReport = true) (hgoes : s.openBlock.sec.exhausted = false) : exec (.attestationReportRead sess) s =
    .next (State.updSess { s.openBlock with sec := s.openBlock.sec.leafUsed } sess fun x => { x with latch := some (objKey 0x6060 2, s.openBlock.report) }) := by
  rw [← leafAt_next hgoes]
  exact (if_neg (by rw [hcan]; decide)).trans (if_neg (ne_true_of_eq_false hgoes))

theorem openBlock_open (h : s.sec.q < s.sec.bound) : s.openBlock = s := if_pos (.inl h)

theorem openBlock_new (hq : s.sec.q = s.sec.bound) (hsigns : s.sec.exhausted = false) (hring : s.sec.ringUsed < 6400000) (hbound : s.sec.bound < 2 ^ 40) :
    s.openBlock = { s with sec := { s.sec with bound := s.sec.bound + 1024, ringUsed := s.sec.ringUsed + 1 } } :=
  (if_neg (by simp [hq, hsigns])).trans (if_neg (not_or.2 ⟨Nat.not_le.2 hring, Nat.not_le.2 hbound⟩))

theorem openBlock_ends (hq : s.sec.bound ≤ s.sec.q) (hsigns : s.sec.exhausted = false) (hworn : 6400000 ≤ s.sec.ringUsed ∨ 2 ^ 40 ≤ s.sec.bound) :
    s.openBlock = { s with sec := { s.sec with exhausted := true } } :=
  (if_neg (by simp [Nat.not_lt.2 hq, hsigns])).trans (if_pos hworn)

/-- A report does not tell how many leaves may be used. -/
theorem report_bound (s : State) (n k : Nat) : State.report { s with sec := { s.sec with bound := n, ringUsed := k } } = s.report := rfl

theorem updSess_sess_same (s : State) (n : Nat) (f : Session → Session) : (s.updSess n f).sess n = f (s.sess n) := by rw [updSess_sess, if_pos rfl]

/-! ### Image slots and counters (R457, R465) -/

theorem updImg_img_same (s : State) (n : Nat) (f : ImgClass → ImgClass) : (s.updImg n f).img n = f (s.img n) := tab_look_put_same ..
theorem updImg_img_ne (s : State) (n : Nat) (f : ImgClass → ImgClass) {k : Nat} (h : k ≠ n) : (s.updImg n f).img k = s.img k := tab_look_put_ne _ _ _ _ h
theorem onlySec_updImg (s : State) (n : Nat) (f : ImgClass → ImgClass) : OnlySec s (s.updImg n f) := ⟨_, rfl⟩

/-- A verified candidate, or a rejected one. -/
def State.judged (s : State) (n : Nat) (g : ImgClass) : ImgClass :=
  if s.imageReason n (s.candidate n) = 0 then { g with status := 3, result := 0, reason := 0, candVer := Config.imageVersion (s.candidate n) }
  else { g with status := 5, result := 0xA7, reason := s.imageReason n (s.candidate n) }

theorem exec_verifyDone {n : Nat} (h : (s.img n).status = 2) : exec (.verifyDone n) s = .next (s.updImg n (s.judged n)) := by
  refine (if_pos h).trans ?_
  unfold State.judged
  split <;> rfl

/-- An abandoned slot holds nothing, and nobody claims it. -/
theorem abandon_spec (s : State) (n : Nat) : Runs (.abandon n) s fun t => t.img n = { s.img n with status := 0, armed := false, candVer := 0 } ∧ t.candidate n = [] ∧
    (∀ k, k ≠ n → t.img k = s.img k) ∧ (∀ k ∈ t.dict.claims, k.key ≠ objKey (0xA000 + 16 * n) 1) ∧ t.mem = s.mem := by
  refine ⟨_, rfl, updImg_img_same s n fun g => { g with status := 0, armed := false, candVer := 0 }, tab_look_put_same .., fun k hk => ?_, fun k hk => ?_, rfl⟩
  · exact updImg_img_ne s n (fun g => { g with status := 0, armed := false, candVer := 0 }) hk
  · simpa using (List.mem_filter.1 hk).2

theorem exec_counterAdvance {n : Nat} {v : Byte} (hl2 : s.boot.stage = .l2) (hn : n < 6) (hv : v.toNat ≤ 63) (hle : (s.img n).counter ≤ v.toNat)
    (hactive : (s.img n).counter ≤ (s.img n).activeVer) (hver : (s.img n).activeVer ≤ 63) :
    exec (.counterAdvance n v) s = .next (s.updImg n fun g => { g with counter := g.activeVer }) := if_pos ⟨hl2, hv, hle, hver, hactive, hn⟩

theorem exec_counterAdvance_ignored {n : Nat} {v : Byte} (h : 63 < v.toNat ∨ v.toNat < (s.img n).counter) : exec (.counterAdvance n v) s = .next s :=
  if_neg fun hand => h.elim (fun hv => absurd hand.2.1 (Nat.not_le.2 hv)) fun hv => absurd hand.2.2.1 (Nat.not_le.2 hv)

/-! ### Revocations (R466) -/

theorem mem_setMember (xs : List Nat) (j k : Nat) : k ∈ setMember xs j true ↔ k ∈ xs ∨ k = j := by
  unfold setMember
  rw [if_pos rfl]
  split
  next h => exact ⟨.inl, fun hk => hk.elim id fun hk => hk ▸ List.contains_iff_mem.1 h⟩
  next => simp

/-- A revocation is admitted: it verifies under another slot with the role, and some unrevoked slot keeps the firmware role. -/
def State.revokes (s : State) (obj : List Byte) : Prop :=
  s.verifies obj 4 roleRevoke = true ∧ s.boot.sdFaulted = false ∧ Config.revokedSlot obj < 16 ∧ (∃ b, sigBlock obj = some b ∧ b.signer ≠ Config.revokedSlot obj) ∧
    ∃ k < 16, k ≠ Config.revokedSlot obj ∧ k ∉ s.sec.revoked ∧ bit1 (Tab.look s.sec.signers ([], 0) k).2 roleFirmware = true

/-- The command's own test is that of R466. -/
theorem revokes_iff (s : State) (obj : List Byte) : (s.verifies obj 4 roleRevoke = true ∧ ((sigBlock obj).any fun b => b.signer != Config.revokedSlot obj) = true ∧
    ((List.range 16).any fun j => j != Config.revokedSlot obj && !s.sec.revoked.contains j && bit1 (Tab.look s.sec.signers ([], 0) j).2 roleFirmware) = true ∧
      Config.revokedSlot obj < 16 ∧ (!s.boot.sdFaulted) = true) ↔ s.revokes obj := by
  have hother : ((sigBlock obj).any fun b => b.signer != Config.revokedSlot obj) = true ↔ ∃ b, sigBlock obj = some b ∧ b.signer ≠ Config.revokedSlot obj := by
    simp [Option.any_eq_true]
  have hleft : ((List.range 16).any fun j => j != Config.revokedSlot obj && !s.sec.revoked.contains j && bit1 (Tab.look s.sec.signers ([], 0) j).2 roleFirmware) = true ↔
      ∃ k < 16, k ≠ Config.revokedSlot obj ∧ k ∉ s.sec.revoked ∧ bit1 (Tab.look s.sec.signers ([], 0) k).2 roleFirmware = true := by
    simp [List.any_eq_true, and_assoc]
  rw [hother, hleft, State.revokes, Bool.not_eq_true']
  exact ⟨fun ⟨hsig, hsigner, hstays, hslot, hsd⟩ => ⟨hsig, hsd, hslot, hsigner, hstays⟩, fun ⟨hsig, hsd, hslot, hsigner, hstays⟩ => ⟨hsig, hsigner, hstays, hslot, hsd⟩⟩

theorem exec_revocation {obj : List Byte} (h : s.revokes obj) :
    exec (.revocation obj) s = .next { s with sec := { s.sec with revoked := setMember s.sec.revoked (Config.revokedSlot obj) true } } := if_pos ((revokes_iff s obj).2 h)

theorem exec_revocation_not {obj : List Byte} (h : ¬ s.revokes obj) : exec (.revocation obj) s = .next s := if_neg fun hand => h ((revokes_iff s obj).1 hand)

/-! ### Owner anchors (R450, R462) -/

/-- As many distinct members as members: none is there twice. -/
theorem eraseDups_length (l : List Nat) : l.eraseDups.length ≤ l.length ∧ (l.eraseDups.length = l.length ↔ l.Nodup) := by
  induction hn : l.length using Nat.strong_induction_on generalizing l with
  | _ n ih =>
    subst hn
    cases l with
    | nil => simp
    | cons a l =>
      have hshort : (l.filter fun b => !b == a).length ≤ l.length := List.length_filter_le ..
      obtain ⟨hle, hiff⟩ := ih _ (Nat.lt_succ_of_le hshort) (l.filter fun b => !b == a) rfl
      rw [List.eraseDups_cons, List.length_cons, List.length_cons, List.nodup_cons]
      refine ⟨by omega, fun h => ?_, fun ⟨ha, hl⟩ => ?_⟩
      · have hall : (l.filter fun b => !b == a) = l := List.filter_eq_self.2 (List.length_filter_eq_length_iff.1 (by omega))
        rw [hall] at hiff
        refine ⟨fun ha => ?_, hiff.1 (by rw [hall] at h; omega)⟩
        simpa using List.filter_eq_self.1 hall a ha
      · have hall : (l.filter fun b => !b == a) = l := List.filter_eq_self.2 fun b hb => by
          have hne : b ≠ a := fun h => ha (h ▸ hb)
          simpa using hne
        rw [hall] at hiff ⊢
        rw [hiff.2 hl]

theorem anchorsOk_iff (l : List (Nat × List Byte)) : anchorsOk l = true ↔ l ≠ [] ∧ (∀ e ∈ l, 1 ≤ e.1 ∧ e.1 ≤ 4 ∧ e.2 ≠ []) ∧ (l.map (·.1)).Nodup := by
  have hnodup := (eraseDups_length (l.map (·.1))).2
  rw [List.length_map] at hnodup
  rw [anchorsOk, Bool.and_eq_true, Bool.and_eq_true, beq_iff_eq, hnodup]
  simp [and_assoc]

theorem exec_anchorUpdate_first {obj : List Byte} (hsd : s.boot.sdFaulted = false) (hnone : s.sec.anchors = []) (hpresence : s.plate.presence = true) :
    exec (.anchorUpdate true obj) s =
      .next (if anchorsOk (Config.anchorResult obj []) then { s with sec := { s.sec with anchors := Config.anchorResult obj [] } } else s) := by
  change execAnchorUpdate true obj s = _
  unfold execAnchorUpdate
  dsimp only
  rw [hnone]
  by_cases hok : anchorsOk (Config.anchorResult obj []) = true
  · rw [if_neg (by simp [hsd, hok]), if_pos rfl, if_pos ⟨rfl, hpresence⟩, if_pos hok]
  · rw [if_pos (.inr (by simpa using hok)), if_neg hok]

theorem exec_anchorUpdate_remote {obj : List Byte} (hnone : s.sec.anchors = []) : exec (.anchorUpdate false obj) s = .next s := by
  change execAnchorUpdate false obj s = _
  unfold execAnchorUpdate
  dsimp only
  split
  · rfl
  · exact if_neg fun h => Bool.false_ne_true h.1

/-- A later set of anchors: it fits, and an anchor that stays has signed it. -/
def State.anchorsAdmit (s : State) (obj : List Byte) : Prop :=
  s.boot.sdFaulted = false ∧ anchorsOk (Config.anchorResult obj s.sec.anchors) = true ∧
    ∃ a, s.anchorVerifies obj 3 = some a ∧ (a, Tab.look s.sec.anchors [] a) ∈ Config.anchorResult obj s.sec.anchors

/-- The command's own test that an anchor stays. -/
theorem anchorStays_iff (l : List (Nat × List Byte)) (a : Nat) (x : List Byte) : (l.any fun e => e.1 == a && e.2 == x) = true ↔ (a, x) ∈ l := by
  simp only [List.any_eq_true, Bool.and_eq_true, beq_iff_eq]
  refine ⟨fun ⟨e, he, ha, hx⟩ => ?_, fun h => ⟨_, h, rfl, rfl⟩⟩
  obtain ⟨b, y⟩ := e
  cases ha
  cases hx
  exact he

theorem exec_anchorUpdate_admitted {bus : Bool} {obj : List Byte} (hsome : s.sec.anchors ≠ []) (h : s.anchorsAdmit obj) :
    exec (.anchorUpdate bus obj) s = .next { s with sec := { s.sec with anchors := Config.anchorResult obj s.sec.anchors } } := by
  obtain ⟨hsd, hok, a, ha, hin⟩ := h
  change execAnchorUpdate bus obj s = _
  unfold execAnchorUpdate
  dsimp only
  rw [if_neg (by simp [hsd, hok]), if_neg hsome, ha]
  exact if_pos ((anchorStays_iff ..).2 hin)

theorem exec_anchorUpdate_refused {bus : Bool} {obj : List Byte} (hsome : s.sec.anchors ≠ []) (h : ¬ s.anchorsAdmit obj) : exec (.anchorUpdate bus obj) s = .next s := by
  change execAnchorUpdate bus obj s = _
  unfold execAnchorUpdate
  dsimp only
  split
  · rfl
  next hfits =>
    simp only [not_or, Bool.not_eq_true, Bool.not_eq_false'] at hfits
    cases ha : s.anchorVerifies obj 3 with
    | none => rfl
    | some a => exact if_neg fun hin => h ⟨hfits.1, hfits.2, a, ha, (anchorStays_iff ..).1 hin⟩

/-! ### Debug tokens (R464) -/

theorem endSess_openSess (s : State) (n : Nat) : (s.endSess n).openSess = s.openSess.filter (· != n) := (endSess_spec s n).2.2.1

/-- When every session of a list has ended, none of them is open. -/
theorem endSess_foldl_openSess (l : List Nat) (s : State) : (l.foldl State.endSess s).openSess = s.openSess.filter fun n => !l.contains n := by
  induction l generalizing s with
  | nil => simp
  | cons n l ih =>
    rw [List.foldl_cons, ih, endSess_openSess, List.filter_filter]
    refine List.filter_congr fun k _ => ?_
    rw [List.contains_cons, Bool.not_or, Bool.and_comm]
    rfl

/-- Every DTLS session closed. -/
def State.sessionsClosed (s : State) : State := s.openSess.foldl State.endSess s

theorem sessionsClosed_openSess (s : State) : s.sessionsClosed.openSess = [] := by
  rw [State.sessionsClosed, endSess_foldl_openSess, List.filter_eq_nil_iff]
  intro n hn
  simpa using hn

theorem sessionsClosed_same {β : Type} {P : State → β} (hend : ∀ s n, P (State.endSess s n) = P s) (s : State) : P s.sessionsClosed = P s := foldl_same (P := P) hend _ s

/-- The debug ports of some dies opened. -/
def State.debugOpened (s : State) (mask : Word) : State := (List.range 64).foldl (fun t d => if bit1 mask.toNat d then t.updDie d fun x => { x with debugOpen := true } else t) s

theorem debugOpened_same {β : Type} {P : State → β} (hdie : ∀ s d f, P (State.updDie s d f) = P s) (s : State) (mask : Word) : P (s.debugOpened mask) = P s := by
  refine foldl_same (P := P) (fun t d => ?_) _ s
  split
  · exact hdie ..
  · rfl

/-- Whether a die's debug port is open, with the die's number. -/
def State.debugPort (s : State) (d : Nat) : Bool × Nat := ((s.die d).debugOpen, d)

/-- A named die's port is open, and every other as it was. -/
theorem debugOpened_die (s : State) (mask : Word) {d : Nat} (hd : d < 64) : ((s.debugOpened mask).die d).debugOpen = ((s.die d).debugOpen || bit1 mask.toNat d) := by
  have hport : (s.debugOpened mask).debugPort d = if d ∈ List.range 64 then ((s.debugPort d).1 || bit1 mask.toNat (s.debugPort d).2, (s.debugPort d).2) else s.debugPort d := by
    refine foldl_each (look := State.debugPort) (g := fun x => (x.1 || bit1 mask.toNat x.2, x.2)) (fun t k => ?_) (fun t k j hj => ?_) List.nodup_range s d
    · split
      next h => simp [State.debugPort, h]
      next h => simp [State.debugPort, h]
    · split
      · rw [State.debugPort, updDie_die_ne _ _ _ _ hj, State.debugPort]
      · rfl
  rw [if_pos (List.mem_range.2 hd)] at hport
  exact congrArg Prod.fst hport

/-- A die that a token names is in use by a partition. -/
def State.debugBusy (s : State) (mask : Word) : Bool :=
  (List.range 64).any fun d => bit1 mask.toNat d && (s.parts.any fun e => e.2.regs.enable && e.2.blk.any fun b => b.clusters.any fun c => c / 17 == d)

theorem debugBusy_false (s : State) (mask : Word) : (!s.debugBusy mask) = true ↔
    ∀ d < 64, bit1 mask.toNat d = true → ∀ e ∈ s.parts, e.2.regs.enable = true → ∀ b, e.2.blk = some b → ∀ c ∈ b.clusters, c / 17 ≠ d := by
  simp [State.debugBusy, List.any_eq_false, Option.any_eq_false]

/-- A debug token is admitted. -/
def State.debugAdmits (s : State) (obj : List Byte) (mid : Word) (nonce : List Byte) (mask : Word) : Prop :=
  s.verifies obj 2 roleDebug = true ∧ s.boot.sdFaulted = false ∧ mid = Config.moduleId ∧ nonce = Config.debugNonce s.sec.powerOns ∧
    ∀ d < 64, bit1 mask.toNat d = true → ∀ e ∈ s.parts, e.2.regs.enable = true → ∀ b, e.2.blk = some b → ∀ c ∈ b.clusters, c / 17 ≠ d

/-- Both derived keys destroyed, with the token's mask kept. -/
def State.keysDestroyed (t : State) (mask : Word) : State :=
  { t with sec := { t.sec with keysGone := true, debugSeen := true, mgmtKey := [], attKey := [], debugMask := t.sec.debugMask ||| mask } }

theorem keysDestroyed_kept (t : State) (mask : Word) : (t.keysDestroyed mask).mem = t.mem ∧ (t.keysDestroyed mask).parts = t.parts ∧
    (t.keysDestroyed mask).clusters = t.clusters ∧ (t.keysDestroyed mask).openSess = t.openSess ∧ (t.keysDestroyed mask).sec.debugMask = t.sec.debugMask ||| mask ∧
      (t.keysDestroyed mask).dies = t.dies := ⟨rfl, rfl, rfl, rfl, rfl, rfl⟩

section
variable {obj nonce : List Byte} {mid mask : Word}

theorem exec_debugToken (hbinds : Config.tokenBinds obj = (mid, nonce, mask)) (h : s.debugAdmits obj mid nonce mask) :
    exec (.debugToken obj) s = .next ((s.sessionsClosed.debugOpened mask).keysDestroyed mask) := by
  obtain ⟨hsig, hsd, hmid, hnonce, hfree⟩ := h
  change execDebugToken obj s = _
  unfold execDebugToken
  rw [hbinds]
  exact if_pos ⟨hsig, by rw [hsd]; rfl, hmid, hnonce, (debugBusy_false s mask).2 hfree⟩

theorem exec_debugToken_refused (hbinds : Config.tokenBinds obj = (mid, nonce, mask)) (h : ¬ s.debugAdmits obj mid nonce mask) : exec (.debugToken obj) s = .next s := by
  change execDebugToken obj s = _
  unfold execDebugToken
  rw [hbinds]
  exact if_neg fun ⟨hsig, hsd, hmid, hnonce, hfree⟩ => h ⟨hsig, by simpa using hsd, hmid, hnonce, (debugBusy_false s mask).1 hfree⟩

/-- An admitted token closes the DTLS sessions, destroys the derived keys and opens the ports of the dies it names. -/
theorem debugToken_spec (s : State) (mask : Word) : let t := (s.sessionsClosed.debugOpened mask).keysDestroyed mask
    t.mem = s.mem ∧ t.parts = s.parts ∧ t.clusters = s.clusters ∧ t.openSess = [] ∧ t.sec.debugMask = s.sec.debugMask ||| mask ∧
      ∀ d < 64, (t.die d).debugOpen = ((s.die d).debugOpen || bit1 mask.toNat d) := by
  have hdies : s.sessionsClosed.dies = s.dies := sessionsClosed_same (P := State.dies) (fun _ _ => rfl) s
  have hmem : s.sessionsClosed.mem = s.mem := sessionsClosed_same (P := State.mem) (fun _ _ => rfl) s
  have hparts : s.sessionsClosed.parts = s.parts := sessionsClosed_same (P := State.parts) (fun _ _ => rfl) s
  have hcl : s.sessionsClosed.clusters = s.clusters := sessionsClosed_same (P := State.clusters) (fun _ _ => rfl) s
  have hmask : s.sessionsClosed.sec.debugMask = s.sec.debugMask := sessionsClosed_same (P := fun s => s.sec.debugMask) (fun _ _ => rfl) s
  have hclosed := sessionsClosed_openSess s
  have hports : ∀ d < 64, ((s.sessionsClosed.debugOpened mask).die d).debugOpen = ((s.die d).debugOpen || bit1 mask.toNat d) := fun d hd => by
    rw [debugOpened_die _ _ hd, State.die, hdies, State.die]
  generalize s.sessionsClosed = u at *
  obtain ⟨hmem', hparts', hcl', hclosed', hmask', hdies'⟩ := keysDestroyed_kept (u.debugOpened mask) mask
  dsimp only
  rw [hmem', hparts', hcl', hclosed', hmask', ← hmem, ← hparts, ← hcl, ← hmask, ← hclosed]
  simp only [State.die, hdies']
  exact ⟨debugOpened_same (P := State.mem) (fun _ _ _ => rfl) u mask, debugOpened_same (P := State.parts) (fun _ _ _ => rfl) u mask,
    debugOpened_same (P := State.clusters) (fun _ _ _ => rfl) u mask, debugOpened_same (P := State.openSess) (fun _ _ _ => rfl) u mask,
    congrArg (· ||| mask) (debugOpened_same (P := fun s => s.sec.debugMask) (fun _ _ _ => rfl) u mask), hports⟩

end

/-! ### Handshakes (R449, R462, R489) -/

/-- The keys under which a certificate of a chain has to verify: the anchor's for the first, then those of the certificate before it. -/
def issuerKeys (keys : List Byte × List Byte) (chain : List (List Byte × List Byte)) (k : Nat) : List Byte × List Byte :=
  if k = 0 then keys else Config.certKeys ((chain[k - 1]?).map (·.1) |>.getD [])

/-- A chain verifies exactly when each of its certificates does under its issuer's keys. -/
theorem chainOk_iff (chain : List (List Byte × List Byte)) (keys : List Byte × List Byte) : chainOk keys chain = true ↔ ∀ k cert sigs, chain[k]? = some (cert, sigs) →
    Config.ecdsaVerify (issuerKeys keys chain k).1 cert (sigs.take 96) = true ∧ Config.hssVerify (issuerKeys keys chain k).2 cert (sigs.drop 96) = true := by
  induction chain generalizing keys with
  | nil => simp [chainOk]
  | cons e chain ih =>
    obtain ⟨cert, sigs⟩ := e
    have hnext : ∀ k, issuerKeys keys ((cert, sigs) :: chain) (k + 1) = issuerKeys (Config.certKeys cert) chain k := fun k => by
      cases k <;> rfl
    rw [chainOk, Bool.and_eq_true, Bool.and_eq_true, ih]
    constructor
    · rintro ⟨hfirst, hrest⟩ k c sg hk
      cases k with
      | zero =>
        cases hk
        exact hfirst
      | succ k =>
        rw [hnext]
        exact hrest k c sg hk
    · intro h
      refine ⟨h 0 cert sigs rfl, fun k c sg hk => ?_⟩
      rw [← hnext]
      exact h (k + 1) c sg hk

/-- A session slot that is free. -/
theorem freeSession_iff (s : State) : ((List.range 8).find? fun k => !(s.openSess.contains (k + 1))).isSome = true ↔ ∃ k, 1 ≤ k ∧ k ≤ 8 ∧ s.openSess.contains k = false := by
  rw [List.find?_isSome]
  constructor
  · rintro ⟨k, hk, hfree⟩
    have := List.mem_range.1 hk
    exact ⟨k + 1, by omega, by omega, by simpa using hfree⟩
  · rintro ⟨k, hlo, hhi, hfree⟩
    obtain ⟨j, rfl⟩ := Nat.exists_eq_add_of_le' hlo
    exact ⟨j, List.mem_range.2 (by omega), by simpa using hfree⟩

/-- A handshake is admitted: the chain ends at an anchor and verifies, and the module can take a session. -/
def State.handshakeAdmits (s : State) (anchor : Nat) (chain : List (List Byte × List Byte)) : Prop :=
  let a := Tab.look s.sec.anchors [] anchor
  a ≠ [] ∧ (∀ k cert sigs, chain[k]? = some (cert, sigs) → Config.ecdsaVerify (issuerKeys (Config.anchorKeys a) chain k).1 cert (sigs.take 96) = true ∧
      Config.hssVerify (issuerKeys (Config.anchorKeys a) chain k).2 cert (sigs.drop 96) = true) ∧
    s.sec.mgmtKey ≠ [] ∧ s.sec.keysGone = false ∧ s.sec.exhausted = false ∧ s.boot.sdFaulted = false ∧ s.running = true ∧ ∃ k, 1 ≤ k ∧ k ≤ 8 ∧ s.openSess.contains k = false

/-- The tests of the command but for the free slot. -/
def State.handshakeOk (s : State) (anchor : Nat) (chain : List (List Byte × List Byte)) : Prop :=
  (!(Tab.look s.sec.anchors [] anchor).isEmpty && chainOk (Config.anchorKeys (Tab.look s.sec.anchors [] anchor)) chain) = true ∧
    (!s.sec.mgmtKey.isEmpty && !s.sec.keysGone && !s.sec.exhausted && !s.boot.sdFaulted) = true ∧ s.running = true

theorem handshakeAdmits_iff (s : State) (anchor : Nat) (chain : List (List Byte × List Byte)) : s.handshakeAdmits anchor chain ↔
    s.handshakeOk anchor chain ∧ ((List.range 8).find? fun k => !(s.openSess.contains (k + 1))).isSome = true := by
  rw [freeSession_iff, State.handshakeAdmits, State.handshakeOk, ← chainOk_iff]
  simp only [Bool.and_eq_true, Bool.not_eq_true', List.isEmpty_eq_false_iff, and_assoc]

/-- The session that a handshake opens. -/
def State.sessionOpened (s : State) (k role : Nat) : State := (((s.updSess k fun _ => { role := role }).bump 0x1102 3 1).showSess)

theorem exec_dtlsHandshake {anchor : Nat} {cas : List (List Byte × List Byte)} {leaf : List Byte × List Byte} (h : s.handshakeAdmits anchor (cas ++ [leaf])) :
    ∃ k, 1 ≤ k ∧ k ≤ 8 ∧ s.openSess.contains k = false ∧
      exec (.dtlsHandshake anchor cas leaf) s = .next (s.sessionOpened k (8 + Config.anchorRole (Tab.look s.sec.anchors [] anchor))) := by
  obtain ⟨hok, hfree⟩ := (handshakeAdmits_iff ..).1 h
  obtain ⟨j, hj⟩ := Option.isSome_iff_exists.1 hfree
  have hlt := List.mem_range.1 (List.mem_of_find?_eq_some hj)
  refine ⟨j + 1, by omega, by omega, by simpa using List.find?_some hj, ?_⟩
  change execDtlsHandshake anchor cas leaf s = _
  unfold execDtlsHandshake
  dsimp only
  rw [hj]
  exact if_pos hok

theorem exec_dtlsHandshake_refused {anchor : Nat} {cas : List (List Byte × List Byte)} {leaf : List Byte × List Byte} (h : ¬ s.handshakeAdmits anchor (cas ++ [leaf])) :
    exec (.dtlsHandshake anchor cas leaf) s = .next (s.bump 0x1102 4 1) := by
  change execDtlsHandshake anchor cas leaf s = _
  unfold execDtlsHandshake
  dsimp only
  split
  next k hk => exact if_neg fun hok => h ((handshakeAdmits_iff ..).2 ⟨hok, by rw [hk]; rfl⟩)
  next => rfl

/-- What is put and is not the default is in the table. -/
theorem tab_mem_put_self {α : Type} [DecidableEq α] (t : Tab α) {d v : α} (k : Nat) (h : v ≠ d) : (k, v) ∈ Tab.put t d k v := by
  simp [Tab.put, h]

/-- An opened session is open, with its role, and the handshake is counted. -/
theorem sessionOpened_spec (s : State) {k role : Nat} (hk : k ≠ 0) (hrole : role ≠ 0) : OnlyDict s (s.sessionOpened k role) ∧
    (s.sessionOpened k role).obj 0x1102 3 = (s.obj 0x1102 3 + 1) % 2 ^ 64 ∧ (s.sessionOpened k role).openSess.contains k = true ∧
      ((s.sessionOpened k role).sess k).role = role := by
  have hnew : ({ role := role } : Session) ≠ {} := fun h => hrole (congrArg Session.role h)
  refine ⟨⟨_, rfl⟩, ?_, ?_, (congrArg Session.role (updSess_sess_same s k fun _ => { role := role }) :)⟩
  · rw [State.sessionOpened, State.showSess, setObj_obj_ne _ _ _ _ _ _ (by decide), bump_obj_same]
    rfl
  · have hmem : (k, ({ role := role } : Session)) ∈ Tab.put s.dict.sessions {} k { role := role } := tab_mem_put_self _ k hnew
    exact List.contains_iff_mem.2 (List.mem_map.2 ⟨_, List.mem_filter.2 ⟨hmem, by simpa using hk⟩, rfl⟩)

end

/-- Settles O59: a restart is `sdRestart_ends`, a report one of the cases of `openBlock`, images and counters are their commands' equations, and revocations, anchors,
tokens and handshakes their `exec_` lemmas for what is admitted and what is refused. -/
theorem security : Obligations.Security := by
  unfold Obligations.Security
  intro s
  refine ⟨?restart, fun nonce hn => ⟨_, if_pos hn, rfl⟩, fun sess hcan => ⟨fun hq => ?_, fun hq hring hbound => ?_, fun hq hworn => ?_⟩,
    fun sess hcan => if_pos (by rw [hcan]; rfl), fun n => ?images, fun obj => ?revocation, fun obj hsd hnone hpresence => ⟨_, exec_anchorUpdate_first hsd hnone hpresence, rfl⟩, anchorsOk_iff,
    fun obj hnone => exec_anchorUpdate_remote hnone, fun obj bus hsome => ?anchors, fun obj => ?token, fun anchor cas leaf => ?handshake, fun sess hopen => ?_⟩
  case restart =>
    obtain ⟨t, hexec, ⟨x, rfl⟩, ⟨hlost, hlow, hbound⟩, hearly⟩ := sdRestart_ends s
    exact ⟨_, hexec, rfl, hlost, hlow, hbound, fun h => by rw [hearly h]; exact ⟨rfl, rfl⟩, rfl, rfl, rfl, rfl⟩
  case images =>
    refine ⟨fun h hsd => ?_, fun h => ?_, fun h => ?_, abandon_spec s n, fun v hl2 hn hv hle hactive hver => ?_, fun v h => exec_counterAdvance_ignored h⟩
    · exact runs_next (if_pos ⟨h, by rw [hsd]; rfl⟩) ⟨onlySec_updImg .., updImg_img_same .., fun k hk => updImg_img_ne _ _ _ hk⟩
    · exact runs_next (exec_verifyDone h) ⟨onlySec_updImg .., fun k hk => updImg_img_ne _ _ _ hk, updImg_img_same ..⟩
    · exact runs_next (if_pos h) ⟨onlySec_updImg .., updImg_img_same .., fun k hk => updImg_img_ne _ _ _ hk⟩
    · exact runs_next (exec_counterAdvance hl2 hn hv hle hactive hver) ⟨onlySec_updImg .., updImg_img_same ..⟩
  case revocation =>
    by_cases h : s.revokes obj
    · exact ⟨_, exec_revocation h, ⟨_, rfl⟩, fun _ k => mem_setMember .., fun hnot => absurd h hnot⟩
    · exact ⟨s, exec_revocation_not h, onlySec_refl s, fun hok => absurd hok h, fun _ => rfl⟩
  case anchors =>
    by_cases h : s.anchorsAdmit obj
    · exact runs_next (exec_anchorUpdate_admitted hsome h) (if_pos h).symm
    · exact runs_next (exec_anchorUpdate_refused hsome h) (if_neg h).symm
  case token =>
    rcases hbinds : Config.tokenBinds obj with ⟨mid, nonce, mask⟩
    by_cases h : s.debugAdmits obj mid nonce mask
    · obtain ⟨hmem, hparts, hcl, hclosed, hmask, hports⟩ := debugToken_spec s mask
      exact ⟨_, exec_debugToken hbinds h, hmem, hparts, hcl, fun _ => ⟨rfl, rfl, rfl, rfl, hclosed, hmask, hports⟩, fun hnot => absurd h hnot⟩
    · exact ⟨s, exec_debugToken_refused hbinds h, rfl, rfl, rfl, fun hok => absurd hok h, fun _ => rfl⟩
  case handshake =>
    by_cases h : s.handshakeAdmits anchor (cas ++ [leaf])
    · obtain ⟨k, hlo, hhi, hfree, hexec⟩ := exec_dtlsHandshake h
      obtain ⟨honly, hcount, hopen, hrole⟩ := sessionOpened_spec s (k := k) (role := 8 + Config.anchorRole (Tab.look s.sec.anchors [] anchor)) (by omega) (by omega)
      exact ⟨_, hexec, honly, fun _ => ⟨hcount, k, hlo, hhi, hfree, hopen, hrole⟩, fun hnot => absurd h hnot⟩
    · exact ⟨_, exec_dtlsHandshake_refused h, ⟨_, rfl⟩, fun hok => absurd hok h, fun _ => ⟨rfl, bump_obj_same ..⟩⟩
  · have hexec := exec_attestationReportRead (sess := sess) hcan (by rw [openBlock_open hq]; exact canReport_signs hcan)
    rw [openBlock_open hq] at hexec
    exact ⟨_, hexec, rfl, congrArg Session.latch (updSess_sess_same ..), rfl, rfl⟩
  · have hopen := openBlock_new hq (canReport_signs hcan) hring hbound
    have hexec := exec_attestationReportRead (sess := sess) hcan (by rw [hopen]; exact canReport_signs hcan)
    rw [hopen, report_bound] at hexec
    exact ⟨_, hexec, rfl, rfl, rfl, congrArg Session.latch (updSess_sess_same ..)⟩
  · have hopen := openBlock_ends hq (canReport_signs hcan) hworn
    exact ⟨_, exec_attestationReportRead_ended hcan (by rw [hopen]), hopen⟩
  · exact ⟨_, if_pos hopen, ⟨_, rfl⟩, updSess_sess_same ..⟩

end Sys2Proof.Machine
end

section
/-! SUPPORT. The service plate (R418, R512 to R518, R520): the attention drain and forced standby, latches and cables, lights, and the statement about them. -/

namespace Sys2Proof.Machine

section
variable {s t : State}

/-! ### The attention drain (R512, R513) -/

theorem onlyPlate_updPlate (s : State) (f : Plate → Plate) : OnlyPlate s (s.updPlate f) := ⟨_, rfl⟩

theorem exec_shortPress_starts (hrun : s.running = true) (hatt : s.plate.attention = 0 ∨ s.plate.attention = 4 ∨ s.plate.attention = 5) (hl1 : s.atL1 = true)
    (hst : s.power.st ≠ .enterS3) : exec .shortPress s = .next (s.updPlate fun p => { p with attention := 1, lastEvent := 1 }) := by
  refine (if_neg (by rw [hrun]; decide)).trans ((if_neg ?_).trans ((if_neg (by rw [hl1]; decide)).trans (if_neg hst)))
  rcases hatt with h | h | h <;> rw [h] <;> decide

theorem exec_shortPress_early (hrun : s.running = true) (hatt : s.plate.attention = 0) (hl1 : s.atL1 = false) :
    exec .shortPress s = .next (s.updPlate fun p => { p with lastEvent := 1, attention := 3 }).enterS3 :=
  (if_neg (by rw [hrun]; decide)).trans ((if_neg (by rw [hatt]; decide)).trans (if_pos (by rw [hl1]; rfl)))

/-- A press during a drain that has not sealed cancels it, and what it stopped runs again. -/
theorem exec_shortPress_cancels (hrun : s.running = true) (hatt : s.plate.attention = 1) (hst : s.power.st = .s0) (hopen : s.plate.drainSealed = false) : exec .shortPress s =
    .next ((List.range 16).foldl (fun t p => t.rerunPart p) (s.updPlate fun p => { p with attention := 0, lastEvent := 2, drainSealed := false })) := by
  have hexec : exec .shortPress s = .next s.drainCancel := (if_neg (by rw [hrun]; decide)).trans (if_pos (.inl hatt))
  rw [hexec]
  unfold State.drainCancel
  dsimp only
  have hstays : ¬ s.power.st = .enterS3 := by rw [hst]; decide
  rw [if_neg (show ¬ (s.updPlate _).power.st = .enterS3 from hstays), if_neg fun h => ne_true_of_eq_false hopen h.1]

section
variable (hatt : s.plate.attention = 1) (hopen : s.plate.drainSealed = false)
include hatt hopen

theorem exec_drainLimit : exec .drainLimit s = (if s.hasPartner then .next s.drainSeal else if s.quiet then .next (s.updPlate fun p => { p with attention := 3 }).enterS3
    else .next (s.updPlate fun p => { p with attention := 5 })) := if_pos ⟨hatt, by rw [hopen]; rfl⟩

theorem exec_drainSettled (hidle : s.anyRunning = false) : exec .drainSettled s =
    (if s.hasPartner then .next s.drainSeal else if s.quiet then .next (s.updPlate fun p => { p with attention := 3 }).enterS3 else .next s) :=
  if_pos ⟨hatt, by rw [hidle]; rfl, by rw [hopen]; rfl⟩

end

theorem exec_drainSettled_waits (hpartner : s.hasPartner = false) (hquiet : s.quiet = false) : exec .drainSettled s = .next s := by
  change execDrainSettled s = _
  unfold execDrainSettled
  rw [hpartner, hquiet]
  split
  · rfl
  · rfl

/-- A drain with a partner seals the ledger. -/
theorem drainSeal_seals (hpartner : s.hasPartner = true) (hopen : s.boot.sealed = false) :
    s.drainSeal.boot.sealed = true ∧ s.drainSeal.plate.drainSealed = true ∧ Out.ledgerSeal ∈ s.drainSeal.out := by
  have hcfg : s.cfg 0x2110 1 = 1 := by simpa [State.hasPartner] using hpartner
  have hseal : s.drainSeal = (s.updPlate fun p => { p with drainSealed := true }).sealStart := if_neg fun h => ne_true_of_eq_false hopen h.1
  rw [hseal, sealStart_begins (s := s.updPlate fun p => { p with drainSealed := true }) hcfg hopen]
  exact ⟨rfl, rfl, List.mem_append_right _ (List.mem_singleton_self _)⟩

/-! ### Forced standby (R514) -/

/-- The seal that a forced standby takes at a partner. -/
def State.sealedAway (s : State) : State := if s.hasPartner then s.sealStart.sealTaken else s

/-- S3 as a forced standby enters it. -/
def State.standby (s : State) : State := (s.sealedAway.toS3.faultCode (asciiBytes "PS")).updPlate fun p => { p with attention := 0, lastEvent := 4 }

theorem exec_forcedStandby (h5 : s.power.st ≠ .s5) (h3 : s.power.st ≠ .s3) : exec .forcedStandby s = .next (s.bump 0x9000 5 1).standby.redraw :=
  (if_neg h5).trans (if_neg h3)

theorem shown_kept (s : State) (bs : List Byte) : let t : State := { s with plate := { s.plate with shown := bs } }
    t.power = s.power ∧ t.plate.lastEvent = s.plate.lastEvent ∧ t.plate.attention = s.plate.attention ∧ t.clusters = s.clusters ∧ t.dict = s.dict := ⟨rfl, rfl, rfl, rfl, rfl⟩

theorem redraw_kept (s : State) : s.redraw.power = s.power ∧ s.redraw.plate.lastEvent = s.plate.lastEvent ∧ s.redraw.plate.attention = s.plate.attention ∧
    s.redraw.clusters = s.clusters ∧ s.redraw.dict = s.dict := shown_kept s s.panel

theorem sealedAway_count (s : State) : s.sealedAway.obj 0x9000 5 = s.obj 0x9000 5 := by
  have hstart : s.sealStart.obj 0x9000 5 = s.obj 0x9000 5 := by
    unfold State.sealStart
    split <;> rfl
  unfold State.sealedAway State.sealTaken
  split
  · rw [event_obj _ _ _ _ (by decide) (by decide), State.bump, setObj_obj_ne _ _ _ _ _ _ (by decide), setObj_obj_ne _ _ _ _ _ _ (by decide)]
    exact hstart
  · rfl

theorem toS3_obj (s : State) {i j : Nat} (h : objKey i j ≠ objKey 0x5805 1) : s.toS3.obj i j = s.obj i j := setObj_obj_ne _ _ _ _ _ _ h

theorem standby_spec (s : State) : s.standby.power.st = .s3 ∧ s.standby.plate.lastEvent = 4 ∧ s.standby.plate.attention = 0 ∧ s.standby.clusters = [] ∧
    s.standby.obj 0x9000 5 = s.obj 0x9000 5 := by
  refine ⟨rfl, rfl, rfl, rfl, ?_⟩
  exact (toS3_obj s.sealedAway (by decide)).trans (sealedAway_count s)

/-! ### Latches (R515, R516) -/

theorem setLatch_latch_same (s : State) (conn v : Nat) : (s.setLatch conn v).latch conn = v := tab_look_put_same ..
theorem setLatch_latch_ne (s : State) (conn v : Nat) {k : Nat} (h : k ≠ conn) : (s.setLatch conn v).latch k = s.latch k := tab_look_put_ne _ _ _ _ h
theorem onlyPlate_setLatch (s : State) (conn v : Nat) : OnlyPlate s (s.setLatch conn v) := ⟨_, rfl⟩

theorem exec_latchTouch_unpowered {conn : Nat} (h5 : s.power.st = .s5) : exec (.latchTouch conn) s = .next s := if_pos (.inr (.inr (.inr h5)))

section
variable {conn : Nat} (hconn : conn < 12) (hlit : bit1 (s.obj 0x9002 1) conn = true) (hlatch : s.latch conn = 0) (h5 : s.power.st ≠ .s5)
include hconn hlit hlatch h5

theorem latchTouch_taken : ¬(12 ≤ conn ∨ (!bit1 (s.obj 0x9002 1) conn) = true ∨ s.latch conn = 4 ∨ s.power.st = .s5) := by
  rw [hlit, hlatch]
  simp [Nat.not_le.2 hconn, h5]

theorem exec_latchTouch_idle (hidle : s.connIdle conn = true) : exec (.latchTouch conn) s = .next (s.setLatch conn 2) :=
  (if_neg (latchTouch_taken hconn hlit hlatch h5)).trans (if_pos hidle)

theorem exec_latchTouch_stays (hbusy : s.connIdle conn = false) (h8 : conn < 8) (hstay : s.mustStay conn = true) :
    exec (.latchTouch conn) s = .next (s.setLatch conn 3) :=
  (if_neg (latchTouch_taken hconn hlit hlatch h5)).trans ((if_neg (ne_true_of_eq_false hbusy)).trans (if_pos ⟨h8, hstay⟩))

/-- A connector that may go starts its drain: of the module only the latch changes, and packets are sent again. -/
theorem latchTouch_drains (hbusy : s.connIdle conn = false) (hgo : s.mustStay conn = false) :
    Runs (.latchTouch conn) s fun t => t.latch conn = 1 ∧ t.mem = s.mem ∧ t.ports = s.ports ∧ t.kept = s.kept := by
  have hsame : ∀ {β : Type} {P : State → β}, (∀ s o, P (State.emit s o) = P s) → ∀ (ks : List Kept) (t : State), P (ks.foldl (fun t k => t.emit (.packet k.p)) t) = P t :=
    fun hP ks t => foldl_same (fun _ _ => hP ..) ks t
  have hlast : ¬(s.latch conn = 1 ∨ s.latch conn = 2) := by rw [hlatch]; decide
  refine ⟨_, (if_neg (latchTouch_taken hconn hlit hlatch h5)).trans ((if_neg (ne_true_of_eq_false hbusy)).trans ((if_neg fun h => ne_true_of_eq_false hgo h.2).trans
    (if_neg hlast))), ?_⟩
  exact ⟨(hsame (P := fun s => s.latch conn) (fun _ _ => rfl) ..).trans (setLatch_latch_same ..), hsame (P := State.mem) (fun _ _ => rfl) ..,
    hsame (P := State.ports) (fun _ _ => rfl) .., hsame (P := State.kept) (fun _ _ => rfl) ..⟩

end

/-! ### Ports that are taken down or train again (R359, R418, R515) -/

theorem portDown_same {β : Type} {P : State → β} (hport : ∀ (s : State) ports out, P { s with ports := ports, out := out } = P s) (s : State) (p : Nat) : P (s.portDown p) = P s := by
  by_cases hst : (s.port p).st = .fused ∨ (s.port p).st = .down
  · rw [portDown_idle hst]
  · obtain ⟨hfused, hdown⟩ := not_or.1 hst
    rw [portDown_eq hfused hdown]
    exact hport s _ _

theorem portDown_mode (s : State) (p q : Nat) : ((s.portDown p).port q).mode = (s.port q).mode := by
  by_cases hq : q = p
  · subst hq
    by_cases hst : (s.port q).st = .fused ∨ (s.port q).st = .down
    · rw [portDown_idle hst]
    · obtain ⟨hfused, hdown⟩ := not_or.1 hst
      rw [portDown_port hfused hdown]
      rfl
  · rw [portDown_port_ne hq]

/-- A port goes down with its mark of a fault set anew. -/
def State.portOut (s : State) (q : Nat) (mark : Bool → Bool) : State := (s.portDown q).updPort q fun x => { x with fault := mark x.fault }

section
variable (s : State) (q : Nat) (mark : Bool → Bool)

theorem portOut_st (k : Nat) : ((s.portOut q mark).port k).st = ((s.portDown q).port k).st := updPort_port_same_of Port.st (f := fun x => { x with fault := mark x.fault }) (fun _ => rfl) ..
theorem portOut_mode (k : Nat) : ((s.portOut q mark).port k).mode = (s.port k).mode := (updPort_port_same_of Port.mode (f := fun x => { x with fault := mark x.fault }) (fun _ => rfl) ..).trans (portDown_mode ..)

theorem portOut_off : ((s.portOut q mark).port q).off := by
  rw [Port.off, portOut_st]
  exact portDown_off s q

theorem portOut_keeps_off {k : Nat} (h : (s.port k).off) : ((s.portOut q mark).port k).off := by
  rw [Port.off, portOut_st]
  exact portDown_keeps_off s q h

theorem portOut_same {β : Type} {P : State → β} (hport : ∀ (s : State) ports out, P { s with ports := ports, out := out } = P s) : P (s.portOut q mark) = P s :=
  (hport (s.portDown q) _ _).trans (portDown_same hport s q)

end

/-- The Ethernet ports of a drained connector are taken down. -/
def State.drainPort (conn : Nat) (t : State) (j : Nat) : State := if (t.port (4 * conn + j)).mode ≠ 0 then t.portOut (4 * conn + j) fun _ => false else t

theorem drainPort_same {β : Type} {P : State → β} (hport : ∀ (s : State) ports out, P { s with ports := ports, out := out } = P s) (conn : Nat) (t : State) (j : Nat) :
    P (State.drainPort conn t j) = P t := by
  unfold State.drainPort
  split
  · exact portOut_same t _ _ hport
  · rfl

theorem drainPort_mode (conn : Nat) (t : State) (j k : Nat) : ((State.drainPort conn t j).port k).mode = (t.port k).mode := by
  unfold State.drainPort
  split
  · exact portOut_mode ..
  · rfl

theorem exec_connectorDrained {conn : Nat} (h8 : conn < 8) (hlatch : s.latch conn = 1) :
    exec (.connectorDrained conn) s = .next ((List.range 4).foldl (State.drainPort conn) (s.setLatch conn 2)) := (if_pos hlatch).trans (if_pos h8)

/-- Every Ethernet port of the connector is off once each has been drained. -/
theorem drainPorts_off (t : State) (conn : Nat) {j : Nat} (hj : j < 4) (hmode : (t.port (4 * conn + j)).mode ≠ 0) :
    (((List.range 4).foldl (State.drainPort conn) t).port (4 * conn + j)).off := by
  have hkeeps : (((List.range 4).foldl (State.drainPort conn) t).port (4 * conn + j)).mode = (t.port (4 * conn + j)).mode :=
    foldl_same (P := fun t : State => (t.port (4 * conn + j)).mode) (fun t k => drainPort_mode conn t k _) _ t
  refine foldl_establishes (P := fun t : State => (t.port (4 * conn + j)).mode ≠ 0 → (t.port (4 * conn + j)).off) (List.mem_range.2 hj) (fun u hu => ?_) (fun u k hu hk => ?_) t
    (by rw [hkeeps]; exact hmode)
  · rw [drainPort_mode] at hu
    rw [State.drainPort, if_pos hu]
    exact portOut_off ..
  · rw [drainPort_mode] at hk
    unfold State.drainPort
    split
    · exact portOut_keeps_off _ _ _ (hu hk)
    · exact hu hk

/-- The ports of a connector go down, with their marks of a fault set anew. -/
def State.connOut (s : State) (conn : Nat) (mark : Bool → Bool) : State := (List.range 4).foldl (fun t j => t.portOut (4 * conn + j) mark) s

theorem connOut_same {β : Type} {P : State → β} (hport : ∀ (s : State) ports out, P { s with ports := ports, out := out } = P s) (s : State) (conn : Nat) (mark : Bool → Bool) :
    P (s.connOut conn mark) = P s := foldl_same (fun t _ => portOut_same t _ mark hport) _ s

theorem connOut_off (s : State) (conn : Nat) (mark : Bool → Bool) {j : Nat} (hj : j < 4) : ((s.connOut conn mark).port (4 * conn + j)).off :=
  foldl_establishes (P := fun t : State => (t.port (4 * conn + j)).off) (List.mem_range.2 hj) (fun _ => portOut_off ..) (fun _ _ ht => portOut_keeps_off _ _ _ ht) _

/-- A drained connector is marked, and its Ethernet ports are off. -/
theorem connectorDrained_spec {conn : Nat} (h8 : conn < 8) (hlatch : s.latch conn = 1) : Runs (.connectorDrained conn) s fun t => t.latch conn = 2 ∧ t.mem = s.mem ∧
    t.parts = s.parts ∧ ∀ j < 4, (s.port (4 * conn + j)).mode ≠ 0 → (t.port (4 * conn + j)).st = .down ∨ (t.port (4 * conn + j)).st = .fused := by
  have hexec := exec_connectorDrained h8 hlatch
  have hplate : ((List.range 4).foldl (State.drainPort conn) (s.setLatch conn 2)).plate = (s.setLatch conn 2).plate :=
    foldl_same (fun t j => drainPort_same (P := State.plate) (fun _ _ _ => rfl) conn t j) _ _
  have hmem : ((List.range 4).foldl (State.drainPort conn) (s.setLatch conn 2)).mem = s.mem :=
    foldl_same (fun t j => drainPort_same (P := State.mem) (fun _ _ _ => rfl) conn t j) _ _
  have hparts : ((List.range 4).foldl (State.drainPort conn) (s.setLatch conn 2)).parts = s.parts :=
    foldl_same (fun t j => drainPort_same (P := State.parts) (fun _ _ _ => rfl) conn t j) _ _
  have hoff := fun j (hj : j < 4) => drainPorts_off (s.setLatch conn 2) conn hj
  generalize (List.range 4).foldl (State.drainPort conn) (s.setLatch conn 2) = u at *
  exact ⟨u, hexec, (congrArg (fun p : Plate => Tab.look p.latches 0 conn) hplate).trans (setLatch_latch_same s conn 2), hmem, hparts, hoff⟩

/-- A port that trains again, unless it is fused off. -/
def Port.retrained (x : Port) : Port :=
  if x.st = .fused then x else { x with st := .retrain, peer := none, replay := [], rx := [], naking := false, rxSeq := 0, txSeq := 0, ackSeq := 0,
                                        tx := [], txOff := 0, used := [], held := [], owed := [] }

theorem retrainConn_same {β : Type} {P : State → β} (hport : ∀ (s : State) p f, P (State.updPort s p f) = P s) (s : State) (conn : Nat) : P (s.retrainConn conn) = P s :=
  foldl_same (P := P) (fun _ _ => hport ..) _ s

/-- Every port of the connector trains again. -/
theorem retrainConn_port (s : State) (conn : Nat) {j : Nat} (hj : j < 4) : (s.retrainConn conn).port (4 * conn + j) = (s.port (4 * conn + j)).retrained := by
  have hfold := foldl_each (f := fun (t : State) j => t.updPort (4 * conn + j) Port.retrained) (look := fun (t : State) j => t.port (4 * conn + j)) (g := Port.retrained)
    (fun t k => updPort_port_same ..) (fun t k i hi => updPort_port_ne _ _ _ _ (by omega)) List.nodup_range (l := List.range 4) s j
  rw [if_pos (List.mem_range.2 hj)] at hfold
  exact hfold

theorem exec_latchRelease_drained {conn : Nat} (h8 : conn < 8) (hlatch : s.latch conn = 2) (hseated : s.plate.seated.contains conn = true) (h3 : s.power.st ≠ .s3) :
    exec (.latchRelease conn) s = .next ((s.setLatch conn 0).retrainConn conn) :=
  (if_neg (by rw [hlatch]; decide)).trans ((if_pos ⟨.inr hlatch, by rw [State.seatedAt, if_pos h8]; exact hseated⟩).trans (if_pos ⟨h8, h3⟩))

/-! ### Cables (R418, R508, R520) -/

/-- The plate knows whether a connector's cable is seated. -/
def State.cableSeen (s : State) (conn : Nat) (seated : Bool) : State := s.updPlate fun p => { p with seated := setMember p.seated conn seated }

theorem exec_cblPresNChange_pulled {conn : Nat} (h8 : conn < 8) : exec (.cblPresNChange conn false) s =
    .next (((s.cableSeen conn false).connOut conn fun x => x && !(s.latch conn == 2)).setLatch conn 4) := by
  change execCblPresNChange conn false s = _
  unfold execCblPresNChange
  rw [if_neg (Nat.not_le.2 h8)]
  exact if_neg Bool.false_ne_true

theorem exec_cblPresNChange_seated {conn : Nat} (h8 : conn < 8) : exec (.cblPresNChange conn true) s =
    .next (if ((s.cableSeen conn true).setLatch conn 0).running ∧ !((s.cableSeen conn true).setLatch conn 0).ports.isEmpty then
      ((s.cableSeen conn true).setLatch conn 0).retrainConn conn else (s.cableSeen conn true).setLatch conn 0) := if_neg (Nat.not_le.2 h8)

/-- A pulled cable takes its ports down. -/
theorem cablePulled (s : State) {conn : Nat} (h8 : conn < 8) : Runs (.cblPresNChange conn false) s fun t => t.latch conn = 4 ∧ t.plate.seated.contains conn = false ∧
    t.mem = s.mem ∧ ∀ j < 4, (t.port (4 * conn + j)).st = .down ∨ (t.port (4 * conn + j)).st = .fused := by
  have hseated : (s.cableSeen conn false).plate.seated.contains conn = false := by simp [State.cableSeen, State.updPlate, setMember]
  have hexec := exec_cblPresNChange_pulled (s := s) h8
  generalize (fun x => x && !(s.latch conn == 2)) = mark at hexec
  have hmem : ((s.cableSeen conn false).connOut conn mark).mem = s.mem := connOut_same (P := State.mem) (fun _ _ _ => rfl) ..
  have hplate : ((s.cableSeen conn false).connOut conn mark).plate = (s.cableSeen conn false).plate := connOut_same (P := State.plate) (fun _ _ _ => rfl) ..
  have hoff := fun j (hj : j < 4) => connOut_off (s.cableSeen conn false) conn mark hj
  generalize (s.cableSeen conn false).connOut conn mark = u at hexec hmem hplate hoff
  exact ⟨_, hexec, setLatch_latch_same .., (congrArg (fun p : Plate => p.seated.contains conn) hplate).trans hseated, hmem, hoff⟩

/-- A seated cable is known as such, and its connector's light is out. -/
theorem cableSeated (s : State) {conn : Nat} (h8 : conn < 8) : Runs (.cblPresNChange conn true) s fun t => t.latch conn = 0 ∧ t.plate.seated.contains conn = true ∧
    t.mem = s.mem := by
  have hseated : ((s.cableSeen conn true).setLatch conn 0).plate.seated.contains conn = true := List.contains_iff_mem.2 (mem_setMember_self ..)
  have hlatch := setLatch_latch_same (s.cableSeen conn true) conn 0
  refine ⟨_, exec_cblPresNChange_seated h8, ?_⟩
  have hmem : ((s.cableSeen conn true).setLatch conn 0).mem = s.mem := rfl
  generalize (s.cableSeen conn true).setLatch conn 0 = u at *
  split
  · exact ⟨(retrainConn_same (P := fun s => s.latch conn) (fun _ _ _ => rfl) ..).trans hlatch,
      (retrainConn_same (P := fun s => s.plate.seated.contains conn) (fun _ _ _ => rfl) ..).trans hseated, (retrainConn_same (P := State.mem) (fun _ _ _ => rfl) ..).trans hmem⟩
  · exact ⟨hlatch, hseated, hmem⟩

/-! ### Lights (R518) -/

theorem portLed_eq (s : State) (p : Nat) : s.portLed p =
    if ((s.port p).st == .down && (s.port p).fault || (s.port p).st == .heldDown) = true then ⟨.red, false⟩ else if (s.latch (p / 4) == 3) = true then ⟨.amber, true⟩
    else if (s.latch (p / 4) == 2) = true then ⟨.blue, false⟩
    else if ((s.port p).st == .up) = true then ⟨.green, !(s.port p).replay.isEmpty || !(s.port p).rx.isEmpty⟩ else ⟨.off, false⟩ := rfl

theorem lightBar_eq (s : State) (h5 : s.power.st ≠ .s5) : s.lightBar =
    if (s.power.tripCause != 0 || (s.plate.lastEvent == 4 && s.power.st == .s3) || s.obj 0x5000 6 == 1) = true then ⟨.red, false⟩
    else if (s.plate.attention == 4) = true then ⟨.blue, false⟩ else if (s.plate.attention == 5 || !s.recov.recs.isEmpty) = true then ⟨.amber, false⟩
    else if (s.boot.stage != .off && s.boot.stage != .l2) = true then ⟨.green, true⟩ else if (s.boot.stage == .l2 && !s.plate.faulted) = true then ⟨.green, false⟩
    else if (s.obj 0x9004 1 == 1) = true then ⟨.white, true⟩ else ⟨.off, false⟩ := if_neg h5

end

/-- Settles O60: the drain, the standby, latches and cables are their commands' equations with what `drainPorts_off`, `retrainConn_port` and `connOut_off` say of ports,
and the lights are `portLed_eq` and `lightBar_eq`. -/
theorem servicePlate : Obligations.ServicePlate := by
  unfold Obligations.ServicePlate
  intro s
  refine ⟨fun hrun hatt hl1 hst => ⟨_, exec_shortPress_starts hrun hatt hl1 hst, rfl⟩, fun hrun hatt hl1 _ => ⟨_, exec_shortPress_early hrun hatt hl1, rfl, rfl, rfl, rfl, rfl⟩,
    fun hrun hatt hst hopen => ⟨_, exec_shortPress_cancels hrun hatt hst hopen, rfl⟩, fun hatt hopen hpartner => ?alone, fun hatt hopen hpartner hseal => ?partner,
    fun h5 => ⟨_, if_neg h5, rfl⟩, ⟨_, rfl, rfl⟩, fun h5 h3 => ?standby, fun h3 => ?_, fun conn hconn hlit hlatch h5 => ?touch, fun conn h8 hlatch => ?drained,
    fun conn hlatch => ⟨_, if_pos hlatch, onlyPlate_setLatch .., setLatch_latch_same ..⟩, fun conn h8 hlatch hseated h3 => ?released, fun conn h8 => cablePulled s h8,
    fun conn h8 => cableSeated s h8, fun h5 => ⟨_, if_neg h5, rfl⟩, fun h5 => ⟨if_pos h5, if_pos h5, fun conn => exec_latchTouch_unpowered h5⟩, ⟨_, rfl, rfl⟩, fun p => ?port,
    fun h5 => ?bar⟩
  case alone =>
    have hlimit := exec_drainLimit hatt hopen
    rw [hpartner] at hlimit
    refine ⟨fun hidle hquiet _ => ?_, fun hquiet _ => ?_, fun hquiet => ⟨?_, exec_drainSettled_waits hpartner hquiet⟩⟩
    · have hsettled := exec_drainSettled hatt hopen hidle
      rw [hpartner, hquiet] at hsettled
      exact ⟨_, hsettled, rfl, rfl, rfl, rfl⟩
    · rw [hquiet] at hlimit
      exact ⟨_, hlimit, rfl, rfl⟩
    · rw [hquiet] at hlimit
      exact ⟨_, hlimit, onlyPlate_updPlate .., rfl⟩
  case partner =>
    have hlimit := exec_drainLimit hatt hopen
    rw [hpartner] at hlimit
    refine ⟨⟨_, hlimit, drainSeal_seals hpartner hseal⟩, fun hidle => ?_⟩
    have hsettled := exec_drainSettled hatt hopen hidle
    rw [hpartner] at hsettled
    exact ⟨_, hsettled, drainSeal_seals hpartner hseal⟩
  case standby =>
    obtain ⟨hst, hevent, hatt, hcl, hcount⟩ := standby_spec (s.bump 0x9000 5 1)
    have hexec := exec_forcedStandby h5 h3
    rw [bump_obj_same] at hcount
    generalize (s.bump 0x9000 5 1).standby = u at *
    obtain ⟨hpower, hevent', hatt', hcl', hdict⟩ := redraw_kept u
    exact ⟨u.redraw, hexec, redraw_shown, (congrArg Power.st hpower).trans hst, hevent'.trans hevent, hatt'.trans hatt, hcl'.trans hcl, (obj_congr hdict ..).trans hcount⟩
  case touch =>
    exact ⟨fun hidle => ⟨_, exec_latchTouch_idle hconn hlit hlatch h5 hidle, onlyPlate_setLatch .., setLatch_latch_same .., fun k hk => setLatch_latch_ne _ _ _ hk⟩,
      fun hbusy h8 hstay => ⟨_, exec_latchTouch_stays hconn hlit hlatch h5 hbusy h8 hstay, onlyPlate_setLatch .., setLatch_latch_same ..⟩,
      fun hbusy hgo => latchTouch_drains hconn hlit hlatch h5 hbusy hgo⟩
  case drained => exact connectorDrained_spec h8 hlatch
  case released =>
    refine ⟨_, exec_latchRelease_drained h8 hlatch hseated h3, (retrainConn_same (P := fun s => s.latch conn) (fun _ _ _ => rfl) ..).trans (setLatch_latch_same ..),
      retrainConn_same (P := State.mem) (fun _ _ _ => rfl) .., fun j hj hfused => ?_⟩
    have hport : ((s.setLatch conn 0).retrainConn conn).port (4 * conn + j) = (s.port (4 * conn + j)).retrained := retrainConn_port (s.setLatch conn 0) conn hj
    rw [hport, Port.retrained, if_neg hfused]
    exact ⟨rfl, rfl⟩
  case port =>
    intro x
    have hled := portLed_eq s p
    have hred : (((s.port p).st == .down && (s.port p).fault || (s.port p).st == .heldDown) = true) = ((x.st = .down ∧ x.fault = true) ∨ x.st = .heldDown) := by
      simp only [Bool.or_eq_true, Bool.and_eq_true, beq_iff_eq]
      rfl
    simp only [hred, beq_iff_eq] at hled
    refine ⟨fun h => by rw [hled, if_pos h], fun h hlatch => by rw [hled, if_neg h, if_pos hlatch], fun h hlatch => ?_, fun hst h2 h3 => ?_, fun hst h2 h3 => ?_⟩
    · rw [hled, if_neg h, hlatch, if_neg (by decide), if_pos rfl]
    · rw [hled, if_neg (by simp [hst]), if_neg h3, if_neg h2, if_pos hst]
    · have hnot : ¬((x.st = .down ∧ x.fault = true) ∨ x.st = .heldDown) := by
        rcases hst with h | ⟨h, hf⟩
        · simp [h]
        · simp [h, hf]
      have hup : ¬ x.st = .up := by
        rcases hst with h | ⟨h, -⟩ <;> rw [h] <;> decide
      rw [hled, if_neg hnot, if_neg h3, if_neg h2, if_neg hup]
  case bar =>
    have hbar := lightBar_eq s h5
    refine ⟨fun h => ?_, fun htrip hevent hspare => ?_⟩
    · rw [hbar, if_pos]
      rcases h with h | h <;> simp [h]
    · rw [if_neg (by simp [htrip, hevent, hspare])] at hbar
      refine ⟨fun hatt => ?_, fun h => ?_, fun hl2 hfault hatt hrecs => ?_, fun hwhite hoff hatt hrecs => ?_⟩
      · rw [hbar, if_pos (by rw [hatt]; rfl)]
      · have hblue : ¬(s.plate.attention == 4) = true := by
          rcases h with h | ⟨-, h⟩ <;> simp [h]
        rw [hbar, if_neg hblue, if_pos]
        rcases h with h | ⟨h, -⟩ <;> simp [h]
      · rw [hbar, if_neg (by simp; omega), if_neg (by simp [hrecs]; omega), if_neg (by rw [hl2]; decide), if_pos (by rw [hl2, hfault]; rfl)]
      · rw [hbar, if_neg (by simp; omega), if_neg (by simp [hrecs]; omega), if_neg (by simp [hoff]), if_neg (by simp [hoff]), if_pos (by rw [hwhite]; rfl)]
  · exact ⟨_, (if_neg (by rw [h3]; decide)).trans (if_pos h3), rfl⟩

end Sys2Proof.Machine
end
